-- ==== Sys2Proof/Word.lean ====
section
/-! DEFINITION. Words, bytes and register numbers. -/

namespace Sys2Proof

/-- A 64-bit word: a scalar register, a CSR, a stitch pointer. -/
abbrev Word := BitVec 64
/-- A byte of memory. -/
abbrev Byte := BitVec 8
/-- Number of a scalar integer register x0-x31. -/
abbrev XReg := BitVec 5
/-- Number of a scalar floating-point register f0-f31. -/
abbrev FReg := BitVec 5
/-- Number of a vector register v0-v63. -/
abbrev VReg := BitVec 6
/-- Number of a base register b0-b15. -/
abbrev BReg := BitVec 4
/-- Number of an accumulator tile z0-z7. -/
abbrev ZReg := BitVec 3

end Sys2Proof
end

