-- ==== Sys2Proof/Syntax.lean ====
section
/-! DEFINITION. The instructions and steps of the ZV-960 as data: one constructor per row of spec/opcode_table.json. -/

namespace Sys2Proof

/-- Who executes: a context (by its 32-bit id, R220) or a hub core 0-7 (R220, R221). -/
inductive Agent where
  | ctx (id : Nat)
  | hub (h : Nat)
  deriving DecidableEq, Repr

/-- The four needles of a core (R13). -/
inductive Needle where
  | S | V | M | C
  deriving DecidableEq, Repr

/-- The engines whose inline queues `ENGINE_QUEUE_ENTRY` runs (R16); the matrix queue has its own row. -/
inductive Engine where
  | vector | copy
  deriving DecidableEq, Repr

/-- A fabric packet: the header of R387 and its payload flits as bytes. -/
structure Packet where
  op : BitVec 8
  rsp : Bool
  new : Bool
  ch : Bool
  rt : Bool
  fl : Bool
  dst : BitVec 16
  src : BitVec 16
  sid : BitVec 16
  serial : BitVec 32
  key : BitVec 32
  offset : BitVec 48
  inc : BitVec 16
  ack : BitVec 32
  n : BitVec 16
  status : BitVec 8
  opd0 : BitVec 64
  opd1 : BitVec 64
  name : BitVec 64
  red : BitVec 64
  payload : List (BitVec 8)
  /-- Payload flits, 0 to 16. -/
  pf : BitVec 8 := 0#8
  deriving DecidableEq, Repr

/-- A host access through a device-memory window (R420): a read of `n` bytes, or a write of these bytes; or a read of `n` bytes of a
function's register page over CXL.io, which has no row of its own (R340, R419; DEDUCED, log entry 35). -/
inductive HostAccess where
  | read (n : Nat)
  | write (bytes : List (BitVec 8))
  | page (n : Nat)
  deriving DecidableEq, Repr

/-- Manager firmware as the boot ROM sees it (R423): the SHA-512 hash of the key it is signed with, its own SHA-512 hash, the
hash that its signature yields under that key, and its security version. -/
structure Firmware where
  keyHash : BitVec 512 := 0#512
  digest : BitVec 512 := 0#512
  signed : BitVec 512 := 0#512
  version : Nat := 0
  deriving DecidableEq, Repr

/-- What the tests of a boot find (R425): lanes that fail the lane test by core, and the step that fails by chance, 0 for none. -/
structure BootTest where
  lanes : List (Nat × BitVec 16) := []
  failedStep : Nat := 0
  deriving DecidableEq, Repr

/-- A register, or a setting the manager makes, outside the CSRs: what `REGISTER_WRITE` writes. -/
inductive HwReg where
  /-- The 8 bytes at an offset of a function's BAR0 page, as its host writes them (R419). -/
  | bar0 (vf : Nat) (off : Nat)
  /-- QERR of a function, its count field (R340). -/
  | qerr (vf : Nat)
  /-- QCOAL of a function (R352). -/
  | qcoal (vf : Nat)
  /-- Word `i` of the 64-bit words of a function's MSI-X table (R419). -/
  | msix (vf : Nat) (i : BitVec 7)
  /-- OPBASE of a partition (R363). -/
  | opbase (p : Nat)
  /-- RTBASE of a partition (R392). -/
  | rtbase (p : Nat)
  /-- FABRT of a partition (R392). -/
  | fabrt (p : Nat)
  /-- EPID of a partition (R392). -/
  | epid (p : Nat)
  /-- A function's queue base (R340). -/
  | queueBase (vf : Nat)
  /-- A function's queue size exponent n, 4 to 16 (R340). -/
  | queueSize (vf : Nat)
  /-- A function is enabled (bit 0) or disabled (R342, R353). -/
  | funcEnable (vf : Nat)
  /-- A function's weight, 1 to 255 (R349). -/
  | funcWeight (vf : Nat)
  /-- The partition a function is bound to (R349). -/
  | funcPart (vf : Nat)
  /-- HBM base of device-memory window `w` of a function (R420). -/
  | winBase (vf : Nat) (w : BitVec 3)
  /-- Length of device-memory window `w` of a function (R420). -/
  | winLen (vf : Nat) (w : BitVec 3)
  /-- Key id of device-memory window `w` of a function (R420). -/
  | winKey (vf : Nat) (w : BitVec 3)
  /-- Registers the range of `len` bytes at the written base as bound to a function (R353). -/
  | rangeBind (vf : Nat) (len : Nat)
  /-- Drops the range of a function at the written base (R353). -/
  | rangeDrop (vf : Nat)
  /-- A partition's aging interval in microseconds, 10 to 65,535 (R345). -/
  | aging (p : Nat)
  /-- A partition's base slice in microseconds (R349). -/
  | baseSlice (p : Nat)
  /-- A partition's node quota, up to 32,767 (R337). -/
  | quota (p : Nat)
  /-- The partition that owns a core (R349). -/
  | corePart (core : Nat)
  /-- Physical base of fixed slot 4092 + `k` of a core (R112). -/
  | fixedBase (core : Nat) (k : BitVec 2)
  /-- Limit of fixed slot 4092 + `k` of a core (R112). -/
  | fixedLimit (core : Nat) (k : BitVec 2)
  /-- 64-bit word `i` of an image descriptor (R333). -/
  | imageDesc (id : Nat) (i : BitVec 2)
  /-- Lane map of a core (R33, R141). -/
  | lanemap (core : Nat)
  deriving DecidableEq, Repr

/-- One instruction or step of the ZV-960: a constructor per row of spec/opcode_table.json. The first 361 have a 32-bit
word; the last 57 are the steps of engines, arbiters, hosts and peers that the table lists without a word. (DEDUCED, log entry 16.) -/
inductive Instr where
  /-- `LUI` (R178): Writes the 20-bit immediate shifted left by 12 into xd. -/
  | lui (rd : XReg) (imm : BitVec 20)
  /-- `AUIPC` (R225): Writes the instruction's slot-0 stitch pointer plus the shifted immediate into xd. -/
  | auipc (rd : XReg) (imm : BitVec 20)
  /-- `JAL` (R225): Jumps to a slot-0 target checked under R120 and links the next instruction's stitch pointer. -/
  | jal (rd : XReg) (off : BitVec 20)
  /-- `JALR` (R225): Jumps to x[rs1] plus offset with bit 0 cleared, checked under R120, and links the return pointer. -/
  | jalr (rd : XReg) (rs1 : XReg) (imm : BitVec 12)
  /-- `BEQ` (R178): Branches when two registers are equal, popping loop levels as R26 states. -/
  | beq (rs1 : XReg) (rs2 : XReg) (off : BitVec 12)
  /-- `BNE` (R178): Branches when two registers differ. -/
  | bne (rs1 : XReg) (rs2 : XReg) (off : BitVec 12)
  /-- `BLT` (R178): Branches on signed less-than. -/
  | blt (rs1 : XReg) (rs2 : XReg) (off : BitVec 12)
  /-- `BGE` (R178): Branches on signed greater-or-equal. -/
  | bge (rs1 : XReg) (rs2 : XReg) (off : BitVec 12)
  /-- `BLTU` (R178): Branches on unsigned less-than. -/
  | bltu (rs1 : XReg) (rs2 : XReg) (off : BitVec 12)
  /-- `BGEU` (R178): Branches on unsigned greater-or-equal. -/
  | bgeu (rs1 : XReg) (rs2 : XReg) (off : BitVec 12)
  /-- `LB` (R178): Loads a sign-extended byte through a checked stitch pointer. -/
  | lb (rd : XReg) (rs1 : XReg) (imm : BitVec 12)
  /-- `LH` (R178): Loads a sign-extended halfword. -/
  | lh (rd : XReg) (rs1 : XReg) (imm : BitVec 12)
  /-- `LW` (R178): Loads a sign-extended word. -/
  | lw (rd : XReg) (rs1 : XReg) (imm : BitVec 12)
  /-- `LD` (R178): Loads a doubleword. -/
  | ld (rd : XReg) (rs1 : XReg) (imm : BitVec 12)
  /-- `LBU` (R178): Loads a zero-extended byte. -/
  | lbu (rd : XReg) (rs1 : XReg) (imm : BitVec 12)
  /-- `LHU` (R178): Loads a zero-extended halfword. -/
  | lhu (rd : XReg) (rs1 : XReg) (imm : BitVec 12)
  /-- `LWU` (R178): Loads a zero-extended word. -/
  | lwu (rd : XReg) (rs1 : XReg) (imm : BitVec 12)
  /-- `SB` (R178): Stores a byte through a checked stitch pointer. -/
  | sb (rs1 : XReg) (rs2 : XReg) (imm : BitVec 12)
  /-- `SH` (R178): Stores a halfword. -/
  | sh (rs1 : XReg) (rs2 : XReg) (imm : BitVec 12)
  /-- `SW` (R178): Stores a word. -/
  | sw (rs1 : XReg) (rs2 : XReg) (imm : BitVec 12)
  /-- `SD` (R178): Stores a doubleword. -/
  | sd (rs1 : XReg) (rs2 : XReg) (imm : BitVec 12)
  /-- `ADDI` (R178): Adds a sign-extended immediate. -/
  | addi (rd : XReg) (rs1 : XReg) (imm : BitVec 12)
  /-- `SLTI` (R178): Sets xd on signed less-than immediate. -/
  | slti (rd : XReg) (rs1 : XReg) (imm : BitVec 12)
  /-- `SLTIU` (R178): Sets xd on unsigned less-than immediate. -/
  | sltiu (rd : XReg) (rs1 : XReg) (imm : BitVec 12)
  /-- `XORI` (R178): Bitwise XOR with an immediate. -/
  | xori (rd : XReg) (rs1 : XReg) (imm : BitVec 12)
  /-- `ORI` (R178): Bitwise OR with an immediate. -/
  | ori (rd : XReg) (rs1 : XReg) (imm : BitVec 12)
  /-- `ANDI` (R178): Bitwise AND with an immediate. -/
  | andi (rd : XReg) (rs1 : XReg) (imm : BitVec 12)
  /-- `SLLI` (R178): Shifts left by a 6-bit immediate. -/
  | slli (rd : XReg) (rs1 : XReg) (sh : BitVec 6)
  /-- `SRLI` (R178): Shifts right logically by a 6-bit immediate. -/
  | srli (rd : XReg) (rs1 : XReg) (sh : BitVec 6)
  /-- `SRAI` (R178): Shifts right arithmetically by a 6-bit immediate. -/
  | srai (rd : XReg) (rs1 : XReg) (sh : BitVec 6)
  /-- `ADDIW` (R178): Adds an immediate in 32 bits and sign-extends. -/
  | addiw (rd : XReg) (rs1 : XReg) (imm : BitVec 12)
  /-- `SLLIW` (R178): 32-bit left shift by immediate. -/
  | slliw (rd : XReg) (rs1 : XReg) (sh : BitVec 5)
  /-- `SRLIW` (R178): 32-bit logical right shift by immediate. -/
  | srliw (rd : XReg) (rs1 : XReg) (sh : BitVec 5)
  /-- `SRAIW` (R178): 32-bit arithmetic right shift by immediate. -/
  | sraiw (rd : XReg) (rs1 : XReg) (sh : BitVec 5)
  /-- `ADD` (R178): Adds two registers. -/
  | add (rd : XReg) (rs1 : XReg) (rs2 : XReg)
  /-- `SLL` (R178): Shifts left by a register. -/
  | sll (rd : XReg) (rs1 : XReg) (rs2 : XReg)
  /-- `SLT` (R178): Sets on signed less-than. -/
  | slt (rd : XReg) (rs1 : XReg) (rs2 : XReg)
  /-- `SLTU` (R178): Sets on unsigned less-than. -/
  | sltu (rd : XReg) (rs1 : XReg) (rs2 : XReg)
  /-- `XOR` (R178): Bitwise XOR of two registers. -/
  | xor (rd : XReg) (rs1 : XReg) (rs2 : XReg)
  /-- `SRL` (R178): Logical right shift by a register. -/
  | srl (rd : XReg) (rs1 : XReg) (rs2 : XReg)
  /-- `OR` (R178): Bitwise OR of two registers. -/
  | or (rd : XReg) (rs1 : XReg) (rs2 : XReg)
  /-- `AND` (R178): Bitwise AND of two registers. -/
  | and (rd : XReg) (rs1 : XReg) (rs2 : XReg)
  /-- `SUB` (R178): Subtracts two registers. -/
  | sub (rd : XReg) (rs1 : XReg) (rs2 : XReg)
  /-- `SRA` (R178): Arithmetic right shift by a register. -/
  | sra (rd : XReg) (rs1 : XReg) (rs2 : XReg)
  /-- `MUL` (R178): Multiplies, low 64 bits. -/
  | mul (rd : XReg) (rs1 : XReg) (rs2 : XReg)
  /-- `MULH` (R178): Multiplies signed, high 64 bits. -/
  | mulh (rd : XReg) (rs1 : XReg) (rs2 : XReg)
  /-- `MULHSU` (R178): Multiplies signed by unsigned, high 64 bits. -/
  | mulhsu (rd : XReg) (rs1 : XReg) (rs2 : XReg)
  /-- `MULHU` (R178): Multiplies unsigned, high 64 bits. -/
  | mulhu (rd : XReg) (rs1 : XReg) (rs2 : XReg)
  /-- `DIV` (R178): Signed division. -/
  | div (rd : XReg) (rs1 : XReg) (rs2 : XReg)
  /-- `DIVU` (R178): Unsigned division. -/
  | divu (rd : XReg) (rs1 : XReg) (rs2 : XReg)
  /-- `REM` (R178): Signed remainder. -/
  | rem (rd : XReg) (rs1 : XReg) (rs2 : XReg)
  /-- `REMU` (R178): Unsigned remainder. -/
  | remu (rd : XReg) (rs1 : XReg) (rs2 : XReg)
  /-- `ADDW` (R178): 32-bit add, sign-extended. -/
  | addw (rd : XReg) (rs1 : XReg) (rs2 : XReg)
  /-- `SLLW` (R178): 32-bit left shift. -/
  | sllw (rd : XReg) (rs1 : XReg) (rs2 : XReg)
  /-- `SRLW` (R178): 32-bit logical right shift. -/
  | srlw (rd : XReg) (rs1 : XReg) (rs2 : XReg)
  /-- `SUBW` (R178): 32-bit subtract, sign-extended. -/
  | subw (rd : XReg) (rs1 : XReg) (rs2 : XReg)
  /-- `SRAW` (R178): 32-bit arithmetic right shift. -/
  | sraw (rd : XReg) (rs1 : XReg) (rs2 : XReg)
  /-- `MULW` (R178): 32-bit multiply, sign-extended. -/
  | mulw (rd : XReg) (rs1 : XReg) (rs2 : XReg)
  /-- `DIVW` (R178): 32-bit signed division. -/
  | divw (rd : XReg) (rs1 : XReg) (rs2 : XReg)
  /-- `DIVUW` (R178): 32-bit unsigned division. -/
  | divuw (rd : XReg) (rs1 : XReg) (rs2 : XReg)
  /-- `REMW` (R178): 32-bit signed remainder. -/
  | remw (rd : XReg) (rs1 : XReg) (rs2 : XReg)
  /-- `REMUW` (R178): 32-bit unsigned remainder. -/
  | remuw (rd : XReg) (rs1 : XReg) (rs2 : XReg)
  /-- `FENCE` (R162): Acts as fence.s acqrel at device scope whatever its fields hold. -/
  | fence (fm : BitVec 4) (pred : BitVec 4) (succ : BitVec 4) (rs1 : XReg) (rd : XReg)
  /-- `ECALL` (R179): Traps to the manager with cause 0x19 at the instruction. -/
  | ecall
  /-- `EBREAK` (R179): Traps to the manager with cause 0x1A at the instruction. -/
  | ebreak
  /-- `CSRRW` (R192): Atomically swaps a CSR with x[rs1] as one register-file access. -/
  | csrrw (rd : XReg) (rs1 : XReg) (csr : BitVec 12)
  /-- `CSRRS` (R192): Reads a CSR and sets the bits given by x[rs1]. -/
  | csrrs (rd : XReg) (rs1 : XReg) (csr : BitVec 12)
  /-- `CSRRC` (R192): Reads a CSR and clears the bits given by x[rs1]. -/
  | csrrc (rd : XReg) (rs1 : XReg) (csr : BitVec 12)
  /-- `CSRRWI` (R192): Swaps a CSR with a 5-bit immediate. -/
  | csrrwi (rd : XReg) (uimm : BitVec 5) (csr : BitVec 12)
  /-- `CSRRSI` (R192): Reads a CSR and sets immediate bits. -/
  | csrrsi (rd : XReg) (uimm : BitVec 5) (csr : BitVec 12)
  /-- `CSRRCI` (R192): Reads a CSR and clears immediate bits. -/
  | csrrci (rd : XReg) (uimm : BitVec 5) (csr : BitVec 12)
  /-- `LR_W` (R133): Loads a word and reserves its 16-byte granule. -/
  | lrW (aq : Bool) (rl : Bool) (rd : XReg) (rs1 : XReg)
  /-- `SC_W` (R133): Stores a word only if the reservation still holds, reporting success. -/
  | scW (aq : Bool) (rl : Bool) (rd : XReg) (rs1 : XReg) (rs2 : XReg)
  /-- `AMOSWAP_W` (R132): Atomically swaps a word. -/
  | amoswapW (aq : Bool) (rl : Bool) (rd : XReg) (rs1 : XReg) (rs2 : XReg)
  /-- `AMOADD_W` (R132): Atomically adds to a word. -/
  | amoaddW (aq : Bool) (rl : Bool) (rd : XReg) (rs1 : XReg) (rs2 : XReg)
  /-- `AMOXOR_W` (R132): Atomically XORs a word. -/
  | amoxorW (aq : Bool) (rl : Bool) (rd : XReg) (rs1 : XReg) (rs2 : XReg)
  /-- `AMOAND_W` (R132): Atomically ANDs a word. -/
  | amoandW (aq : Bool) (rl : Bool) (rd : XReg) (rs1 : XReg) (rs2 : XReg)
  /-- `AMOOR_W` (R132): Atomically ORs a word. -/
  | amoorW (aq : Bool) (rl : Bool) (rd : XReg) (rs1 : XReg) (rs2 : XReg)
  /-- `AMOMIN_W` (R132): Atomic signed minimum on a word. -/
  | amominW (aq : Bool) (rl : Bool) (rd : XReg) (rs1 : XReg) (rs2 : XReg)
  /-- `AMOMAX_W` (R132): Atomic signed maximum on a word. -/
  | amomaxW (aq : Bool) (rl : Bool) (rd : XReg) (rs1 : XReg) (rs2 : XReg)
  /-- `AMOMINU_W` (R132): Atomic unsigned minimum on a word. -/
  | amominuW (aq : Bool) (rl : Bool) (rd : XReg) (rs1 : XReg) (rs2 : XReg)
  /-- `AMOMAXU_W` (R132): Atomic unsigned maximum on a word. -/
  | amomaxuW (aq : Bool) (rl : Bool) (rd : XReg) (rs1 : XReg) (rs2 : XReg)
  /-- `LR_D` (R133): Loads a doubleword and reserves its granule. -/
  | lrD (aq : Bool) (rl : Bool) (rd : XReg) (rs1 : XReg)
  /-- `SC_D` (R133): Conditionally stores a doubleword. -/
  | scD (aq : Bool) (rl : Bool) (rd : XReg) (rs1 : XReg) (rs2 : XReg)
  /-- `AMOSWAP_D` (R132): Atomically swaps a doubleword. -/
  | amoswapD (aq : Bool) (rl : Bool) (rd : XReg) (rs1 : XReg) (rs2 : XReg)
  /-- `AMOADD_D` (R132): Atomically adds to a doubleword. -/
  | amoaddD (aq : Bool) (rl : Bool) (rd : XReg) (rs1 : XReg) (rs2 : XReg)
  /-- `AMOXOR_D` (R132): Atomically XORs a doubleword. -/
  | amoxorD (aq : Bool) (rl : Bool) (rd : XReg) (rs1 : XReg) (rs2 : XReg)
  /-- `AMOAND_D` (R132): Atomically ANDs a doubleword. -/
  | amoandD (aq : Bool) (rl : Bool) (rd : XReg) (rs1 : XReg) (rs2 : XReg)
  /-- `AMOOR_D` (R132): Atomically ORs a doubleword. -/
  | amoorD (aq : Bool) (rl : Bool) (rd : XReg) (rs1 : XReg) (rs2 : XReg)
  /-- `AMOMIN_D` (R132): Atomic signed minimum on a doubleword. -/
  | amominD (aq : Bool) (rl : Bool) (rd : XReg) (rs1 : XReg) (rs2 : XReg)
  /-- `AMOMAX_D` (R132): Atomic signed maximum on a doubleword. -/
  | amomaxD (aq : Bool) (rl : Bool) (rd : XReg) (rs1 : XReg) (rs2 : XReg)
  /-- `AMOMINU_D` (R132): Atomic unsigned minimum on a doubleword. -/
  | amominuD (aq : Bool) (rl : Bool) (rd : XReg) (rs1 : XReg) (rs2 : XReg)
  /-- `AMOMAXU_D` (R132): Atomic unsigned maximum on a doubleword. -/
  | amomaxuD (aq : Bool) (rl : Bool) (rd : XReg) (rs1 : XReg) (rs2 : XReg)
  /-- `FLD` (R178): Loads an FP64 value into an f register. -/
  | fld (fd : FReg) (rs1 : XReg) (imm : BitVec 12)
  /-- `FSD` (R178): Stores an FP64 value from an f register. -/
  | fsd (rs1 : XReg) (fs2 : FReg) (imm : BitVec 12)
  /-- `FMADD_D` (R178): Fused multiply-add in FP64. -/
  | fmaddD (fd : FReg) (fs1 : FReg) (fs2 : FReg) (fs3 : FReg) (rm : BitVec 3)
  /-- `FMSUB_D` (R178): Fused multiply-subtract in FP64. -/
  | fmsubD (fd : FReg) (fs1 : FReg) (fs2 : FReg) (fs3 : FReg) (rm : BitVec 3)
  /-- `FNMSUB_D` (R178): Negated fused multiply-subtract in FP64. -/
  | fnmsubD (fd : FReg) (fs1 : FReg) (fs2 : FReg) (fs3 : FReg) (rm : BitVec 3)
  /-- `FNMADD_D` (R178): Negated fused multiply-add in FP64. -/
  | fnmaddD (fd : FReg) (fs1 : FReg) (fs2 : FReg) (fs3 : FReg) (rm : BitVec 3)
  /-- `FADD_D` (R178): FP64 addition. -/
  | faddD (fd : FReg) (fs1 : FReg) (fs2 : FReg) (rm : BitVec 3)
  /-- `FSUB_D` (R178): FP64 subtraction. -/
  | fsubD (fd : FReg) (fs1 : FReg) (fs2 : FReg) (rm : BitVec 3)
  /-- `FMUL_D` (R178): FP64 multiplication. -/
  | fmulD (fd : FReg) (fs1 : FReg) (fs2 : FReg) (rm : BitVec 3)
  /-- `FDIV_D` (R178): FP64 division. -/
  | fdivD (fd : FReg) (fs1 : FReg) (fs2 : FReg) (rm : BitVec 3)
  /-- `FSQRT_D` (R178): FP64 square root. -/
  | fsqrtD (fd : FReg) (fs1 : FReg) (rm : BitVec 3)
  /-- `FSGNJ_D` (R178): FP64 sign injection. -/
  | fsgnjD (fd : FReg) (fs1 : FReg) (fs2 : FReg)
  /-- `FSGNJN_D` (R178): FP64 negated sign injection. -/
  | fsgnjnD (fd : FReg) (fs1 : FReg) (fs2 : FReg)
  /-- `FSGNJX_D` (R178): FP64 XOR sign injection. -/
  | fsgnjxD (fd : FReg) (fs1 : FReg) (fs2 : FReg)
  /-- `FMIN_D` (R178): FP64 minimum. -/
  | fminD (fd : FReg) (fs1 : FReg) (fs2 : FReg)
  /-- `FMAX_D` (R178): FP64 maximum. -/
  | fmaxD (fd : FReg) (fs1 : FReg) (fs2 : FReg)
  /-- `FLE_D` (R178): FP64 less-or-equal compare into xd. -/
  | fleD (rd : XReg) (fs1 : FReg) (fs2 : FReg)
  /-- `FLT_D` (R178): FP64 less-than compare into xd. -/
  | fltD (rd : XReg) (fs1 : FReg) (fs2 : FReg)
  /-- `FEQ_D` (R178): FP64 equality compare into xd. -/
  | feqD (rd : XReg) (fs1 : FReg) (fs2 : FReg)
  /-- `FCLASS_D` (R178): Classifies an FP64 value into xd. -/
  | fclassD (rd : XReg) (fs1 : FReg)
  /-- `FMV_X_D` (R178): Moves FP64 bits to an x register. -/
  | fmvXD (rd : XReg) (fs1 : FReg)
  /-- `FMV_D_X` (R178): Moves x register bits to an f register. -/
  | fmvDX (fd : FReg) (rs1 : XReg)
  /-- `FCVT_W_D` (R178): Converts FP64 to a signed 32-bit integer. -/
  | fcvtWD (rd : XReg) (fs1 : FReg) (rm : BitVec 3)
  /-- `FCVT_WU_D` (R178): Converts FP64 to an unsigned 32-bit integer. -/
  | fcvtWuD (rd : XReg) (fs1 : FReg) (rm : BitVec 3)
  /-- `FCVT_L_D` (R178): Converts FP64 to a signed 64-bit integer. -/
  | fcvtLD (rd : XReg) (fs1 : FReg) (rm : BitVec 3)
  /-- `FCVT_LU_D` (R178): Converts FP64 to an unsigned 64-bit integer. -/
  | fcvtLuD (rd : XReg) (fs1 : FReg) (rm : BitVec 3)
  /-- `FCVT_D_W` (R178): Converts a signed 32-bit integer to FP64. -/
  | fcvtDW (fd : FReg) (rs1 : XReg) (rm : BitVec 3)
  /-- `FCVT_D_WU` (R178): Converts an unsigned 32-bit integer to FP64. -/
  | fcvtDWu (fd : FReg) (rs1 : XReg) (rm : BitVec 3)
  /-- `FCVT_D_L` (R178): Converts a signed 64-bit integer to FP64. -/
  | fcvtDL (fd : FReg) (rs1 : XReg) (rm : BitVec 3)
  /-- `FCVT_D_LU` (R178): Converts an unsigned 64-bit integer to FP64. -/
  | fcvtDLu (fd : FReg) (rs1 : XReg) (rm : BitVec 3)
  /-- `VADD_VV` (R237): Element-wise wrapping add of two vector groups. -/
  | vaddVv (vd : VReg) (vs2 : VReg) (vs1 : VReg) (w : Bool) (m : Bool)
  /-- `VSUB_VV` (R237): Element-wise wrapping subtract. -/
  | vsubVv (vd : VReg) (vs2 : VReg) (vs1 : VReg) (w : Bool) (m : Bool)
  /-- `VMUL_VV` (R237): Element-wise wrapping multiply. -/
  | vmulVv (vd : VReg) (vs2 : VReg) (vs1 : VReg) (w : Bool) (m : Bool)
  /-- `VMULH_VV` (R237): Element-wise signed high product. -/
  | vmulhVv (vd : VReg) (vs2 : VReg) (vs1 : VReg) (w : Bool) (m : Bool)
  /-- `VMULHU_VV` (R237): Element-wise unsigned high product. -/
  | vmulhuVv (vd : VReg) (vs2 : VReg) (vs1 : VReg) (w : Bool) (m : Bool)
  /-- `VDIV_VV` (R237): Element-wise signed division. -/
  | vdivVv (vd : VReg) (vs2 : VReg) (vs1 : VReg) (w : Bool) (m : Bool)
  /-- `VDIVU_VV` (R237): Element-wise unsigned division. -/
  | vdivuVv (vd : VReg) (vs2 : VReg) (vs1 : VReg) (w : Bool) (m : Bool)
  /-- `VREM_VV` (R237): Element-wise signed remainder. -/
  | vremVv (vd : VReg) (vs2 : VReg) (vs1 : VReg) (w : Bool) (m : Bool)
  /-- `VREMU_VV` (R237): Element-wise unsigned remainder. -/
  | vremuVv (vd : VReg) (vs2 : VReg) (vs1 : VReg) (w : Bool) (m : Bool)
  /-- `VMIN_VV` (R237): Element-wise signed minimum. -/
  | vminVv (vd : VReg) (vs2 : VReg) (vs1 : VReg) (w : Bool) (m : Bool)
  /-- `VMINU_VV` (R237): Element-wise unsigned minimum. -/
  | vminuVv (vd : VReg) (vs2 : VReg) (vs1 : VReg) (w : Bool) (m : Bool)
  /-- `VMAX_VV` (R237): Element-wise signed maximum. -/
  | vmaxVv (vd : VReg) (vs2 : VReg) (vs1 : VReg) (w : Bool) (m : Bool)
  /-- `VMAXU_VV` (R237): Element-wise unsigned maximum. -/
  | vmaxuVv (vd : VReg) (vs2 : VReg) (vs1 : VReg) (w : Bool) (m : Bool)
  /-- `VAND_VV` (R237): Element-wise bitwise AND. -/
  | vandVv (vd : VReg) (vs2 : VReg) (vs1 : VReg) (w : Bool) (m : Bool)
  /-- `VOR_VV` (R237): Element-wise bitwise OR. -/
  | vorVv (vd : VReg) (vs2 : VReg) (vs1 : VReg) (w : Bool) (m : Bool)
  /-- `VXOR_VV` (R237): Element-wise bitwise XOR. -/
  | vxorVv (vd : VReg) (vs2 : VReg) (vs1 : VReg) (w : Bool) (m : Bool)
  /-- `VSLL_VV` (R237): Element-wise left shift. -/
  | vsllVv (vd : VReg) (vs2 : VReg) (vs1 : VReg) (w : Bool) (m : Bool)
  /-- `VSRL_VV` (R237): Element-wise logical right shift. -/
  | vsrlVv (vd : VReg) (vs2 : VReg) (vs1 : VReg) (w : Bool) (m : Bool)
  /-- `VSRA_VV` (R237): Element-wise arithmetic right shift. -/
  | vsraVv (vd : VReg) (vs2 : VReg) (vs1 : VReg) (w : Bool) (m : Bool)
  /-- `VSADD_VV` (R237): Element-wise signed saturating add, setting vqcfg.ss on clamp. -/
  | vsaddVv (vd : VReg) (vs2 : VReg) (vs1 : VReg) (w : Bool) (m : Bool)
  /-- `VSADDU_VV` (R237): Element-wise unsigned saturating add. -/
  | vsadduVv (vd : VReg) (vs2 : VReg) (vs1 : VReg) (w : Bool) (m : Bool)
  /-- `VSSUB_VV` (R237): Element-wise signed saturating subtract. -/
  | vssubVv (vd : VReg) (vs2 : VReg) (vs1 : VReg) (w : Bool) (m : Bool)
  /-- `VSSUBU_VV` (R237): Element-wise unsigned saturating subtract. -/
  | vssubuVv (vd : VReg) (vs2 : VReg) (vs1 : VReg) (w : Bool) (m : Bool)
  /-- `VSEQ_VV` (R238): Writes mask bits for equal elements. -/
  | vseqVv (vd : VReg) (vs2 : VReg) (vs1 : VReg) (w : Bool) (m : Bool)
  /-- `VSNE_VV` (R238): Writes mask bits for unequal elements. -/
  | vsneVv (vd : VReg) (vs2 : VReg) (vs1 : VReg) (w : Bool) (m : Bool)
  /-- `VSLT_VV` (R238): Writes mask bits for signed less-than. -/
  | vsltVv (vd : VReg) (vs2 : VReg) (vs1 : VReg) (w : Bool) (m : Bool)
  /-- `VSLTU_VV` (R238): Writes mask bits for unsigned less-than. -/
  | vsltuVv (vd : VReg) (vs2 : VReg) (vs1 : VReg) (w : Bool) (m : Bool)
  /-- `VSLE_VV` (R238): Writes mask bits for signed less-or-equal. -/
  | vsleVv (vd : VReg) (vs2 : VReg) (vs1 : VReg) (w : Bool) (m : Bool)
  /-- `VSLEU_VV` (R238): Writes mask bits for unsigned less-or-equal. -/
  | vsleuVv (vd : VReg) (vs2 : VReg) (vs1 : VReg) (w : Bool) (m : Bool)
  /-- `VMERGE_VV` (R239): Selects vs1 or vs2 per element by the v0 mask. -/
  | vmergeVv (vd : VReg) (vs2 : VReg) (vs1 : VReg) (w : Bool)
  /-- `VPERM` (R240): Gathers vs2 elements by indices in vs1, zero when out of range. -/
  | vperm (vd : VReg) (vs2 : VReg) (vs1 : VReg) (w : Bool) (m : Bool)
  /-- `VMV` (R242): Copies vs2 into vd element-wise. -/
  | vmv (vd : VReg) (vs2 : VReg) (w : Bool) (m : Bool)
  /-- `VID` (R242): Writes each element's index. -/
  | vid (vd : VReg) (w : Bool) (m : Bool)
  /-- `VIOTA` (R244): Writes for each element the count of set mask bits below it. -/
  | viota (vd : VReg) (vs2 : VReg) (w : Bool) (m : Bool)
  /-- `VCOMPRESS` (R245): Packs the v0-selected elements of vs2 into vd. -/
  | vcompress (vd : VReg) (vs2 : VReg) (w : Bool)
  /-- `VREDSUM` (R246): Wrapping sum reduction into element 0 of vd. -/
  | vredsum (vd : VReg) (vs2 : VReg) (w : Bool) (m : Bool)
  /-- `VREDMIN` (R246): Signed minimum reduction. -/
  | vredmin (vd : VReg) (vs2 : VReg) (w : Bool) (m : Bool)
  /-- `VREDMINU` (R246): Unsigned minimum reduction. -/
  | vredminu (vd : VReg) (vs2 : VReg) (w : Bool) (m : Bool)
  /-- `VREDMAX` (R246): Signed maximum reduction. -/
  | vredmax (vd : VReg) (vs2 : VReg) (w : Bool) (m : Bool)
  /-- `VREDMAXU` (R246): Unsigned maximum reduction. -/
  | vredmaxu (vd : VReg) (vs2 : VReg) (w : Bool) (m : Bool)
  /-- `VREDAND` (R246): Bitwise AND reduction. -/
  | vredand (vd : VReg) (vs2 : VReg) (w : Bool) (m : Bool)
  /-- `VREDOR` (R246): Bitwise OR reduction. -/
  | vredor (vd : VReg) (vs2 : VReg) (w : Bool) (m : Bool)
  /-- `VREDXOR` (R246): Bitwise XOR reduction. -/
  | vredxor (vd : VReg) (vs2 : VReg) (w : Bool) (m : Bool)
  /-- `VMPOPC` (R247): Counts counted set mask bits into element 0. -/
  | vmpopc (vd : VReg) (vs2 : VReg) (w : Bool) (m : Bool)
  /-- `VMFIRST` (R247): Writes the lowest counted set mask index, or -1. -/
  | vmfirst (vd : VReg) (vs2 : VReg) (w : Bool) (m : Bool)
  /-- `VABS` (R242): Element-wise wrapping absolute value. -/
  | vabs (vd : VReg) (vs2 : VReg) (w : Bool) (m : Bool)
  /-- `VNEG` (R242): Element-wise wrapping negation. -/
  | vneg (vd : VReg) (vs2 : VReg) (w : Bool) (m : Bool)
  /-- `VNOT` (R242): Element-wise bitwise complement. -/
  | vnot (vd : VReg) (vs2 : VReg) (w : Bool) (m : Bool)
  /-- `VCLZ` (R242): Element-wise leading-zero count. -/
  | vclz (vd : VReg) (vs2 : VReg) (w : Bool) (m : Bool)
  /-- `VPOPCNT` (R242): Element-wise population count. -/
  | vpopcnt (vd : VReg) (vs2 : VReg) (w : Bool) (m : Bool)
  /-- `VSEXT` (R243): Sign-extends half-width source elements. -/
  | vsext (vd : VReg) (vs2 : VReg) (w : Bool) (m : Bool)
  /-- `VZEXT` (R243): Zero-extends half-width source elements. -/
  | vzext (vd : VReg) (vs2 : VReg) (w : Bool) (m : Bool)
  /-- `VNCLIP` (R243): Narrows double-width signed elements with saturation. -/
  | vnclip (vd : VReg) (vs2 : VReg) (w : Bool) (m : Bool)
  /-- `VNCLIPU` (R243): Narrows double-width unsigned elements with saturation. -/
  | vnclipu (vd : VReg) (vs2 : VReg) (w : Bool) (m : Bool)
  /-- `VADD_VX` (R237): Adds a broadcast x register to each element. -/
  | vaddVx (vd : VReg) (vs2 : VReg) (rs1 : XReg) (w : Bool) (m : Bool)
  /-- `VSUB_VX` (R237): Subtracts a broadcast scalar. -/
  | vsubVx (vd : VReg) (vs2 : VReg) (rs1 : XReg) (w : Bool) (m : Bool)
  /-- `VMUL_VX` (R237): Multiplies by a broadcast scalar. -/
  | vmulVx (vd : VReg) (vs2 : VReg) (rs1 : XReg) (w : Bool) (m : Bool)
  /-- `VMULH_VX` (R237): Signed high product with a scalar. -/
  | vmulhVx (vd : VReg) (vs2 : VReg) (rs1 : XReg) (w : Bool) (m : Bool)
  /-- `VMULHU_VX` (R237): Unsigned high product with a scalar. -/
  | vmulhuVx (vd : VReg) (vs2 : VReg) (rs1 : XReg) (w : Bool) (m : Bool)
  /-- `VDIV_VX` (R237): Signed division by a scalar. -/
  | vdivVx (vd : VReg) (vs2 : VReg) (rs1 : XReg) (w : Bool) (m : Bool)
  /-- `VDIVU_VX` (R237): Unsigned division by a scalar. -/
  | vdivuVx (vd : VReg) (vs2 : VReg) (rs1 : XReg) (w : Bool) (m : Bool)
  /-- `VREM_VX` (R237): Signed remainder by a scalar. -/
  | vremVx (vd : VReg) (vs2 : VReg) (rs1 : XReg) (w : Bool) (m : Bool)
  /-- `VREMU_VX` (R237): Unsigned remainder by a scalar. -/
  | vremuVx (vd : VReg) (vs2 : VReg) (rs1 : XReg) (w : Bool) (m : Bool)
  /-- `VMIN_VX` (R237): Signed minimum with a scalar. -/
  | vminVx (vd : VReg) (vs2 : VReg) (rs1 : XReg) (w : Bool) (m : Bool)
  /-- `VMINU_VX` (R237): Unsigned minimum with a scalar. -/
  | vminuVx (vd : VReg) (vs2 : VReg) (rs1 : XReg) (w : Bool) (m : Bool)
  /-- `VMAX_VX` (R237): Signed maximum with a scalar. -/
  | vmaxVx (vd : VReg) (vs2 : VReg) (rs1 : XReg) (w : Bool) (m : Bool)
  /-- `VMAXU_VX` (R237): Unsigned maximum with a scalar. -/
  | vmaxuVx (vd : VReg) (vs2 : VReg) (rs1 : XReg) (w : Bool) (m : Bool)
  /-- `VAND_VX` (R237): Bitwise AND with a scalar. -/
  | vandVx (vd : VReg) (vs2 : VReg) (rs1 : XReg) (w : Bool) (m : Bool)
  /-- `VOR_VX` (R237): Bitwise OR with a scalar. -/
  | vorVx (vd : VReg) (vs2 : VReg) (rs1 : XReg) (w : Bool) (m : Bool)
  /-- `VXOR_VX` (R237): Bitwise XOR with a scalar. -/
  | vxorVx (vd : VReg) (vs2 : VReg) (rs1 : XReg) (w : Bool) (m : Bool)
  /-- `VSLL_VX` (R237): Left shift by a scalar. -/
  | vsllVx (vd : VReg) (vs2 : VReg) (rs1 : XReg) (w : Bool) (m : Bool)
  /-- `VSRL_VX` (R237): Logical right shift by a scalar. -/
  | vsrlVx (vd : VReg) (vs2 : VReg) (rs1 : XReg) (w : Bool) (m : Bool)
  /-- `VSRA_VX` (R237): Arithmetic right shift by a scalar. -/
  | vsraVx (vd : VReg) (vs2 : VReg) (rs1 : XReg) (w : Bool) (m : Bool)
  /-- `VSADD_VX` (R237): Signed saturating add of a scalar. -/
  | vsaddVx (vd : VReg) (vs2 : VReg) (rs1 : XReg) (w : Bool) (m : Bool)
  /-- `VSADDU_VX` (R237): Unsigned saturating add of a scalar. -/
  | vsadduVx (vd : VReg) (vs2 : VReg) (rs1 : XReg) (w : Bool) (m : Bool)
  /-- `VSSUB_VX` (R237): Signed saturating subtract of a scalar. -/
  | vssubVx (vd : VReg) (vs2 : VReg) (rs1 : XReg) (w : Bool) (m : Bool)
  /-- `VSSUBU_VX` (R237): Unsigned saturating subtract of a scalar. -/
  | vssubuVx (vd : VReg) (vs2 : VReg) (rs1 : XReg) (w : Bool) (m : Bool)
  /-- `VSEQ_VX` (R238): Mask compare equal to a scalar. -/
  | vseqVx (vd : VReg) (vs2 : VReg) (rs1 : XReg) (w : Bool) (m : Bool)
  /-- `VSNE_VX` (R238): Mask compare not equal to a scalar. -/
  | vsneVx (vd : VReg) (vs2 : VReg) (rs1 : XReg) (w : Bool) (m : Bool)
  /-- `VSLT_VX` (R238): Mask compare signed less-than a scalar. -/
  | vsltVx (vd : VReg) (vs2 : VReg) (rs1 : XReg) (w : Bool) (m : Bool)
  /-- `VSLTU_VX` (R238): Mask compare unsigned less-than a scalar. -/
  | vsltuVx (vd : VReg) (vs2 : VReg) (rs1 : XReg) (w : Bool) (m : Bool)
  /-- `VSLE_VX` (R238): Mask compare signed less-or-equal a scalar. -/
  | vsleVx (vd : VReg) (vs2 : VReg) (rs1 : XReg) (w : Bool) (m : Bool)
  /-- `VSLEU_VX` (R238): Mask compare unsigned less-or-equal a scalar. -/
  | vsleuVx (vd : VReg) (vs2 : VReg) (rs1 : XReg) (w : Bool) (m : Bool)
  /-- `VMERGE_VX` (R239): Selects a scalar or vs2 per element by the v0 mask. -/
  | vmergeVx (vd : VReg) (vs2 : VReg) (rs1 : XReg) (w : Bool)
  /-- `VSLIDEUP` (R241): Slides vs2 elements up by x[rs1]. -/
  | vslideup (vd : VReg) (vs2 : VReg) (rs1 : XReg) (w : Bool) (m : Bool)
  /-- `VSLIDEDN` (R241): Slides vs2 elements down by x[rs1], zero-filling. -/
  | vslidedn (vd : VReg) (vs2 : VReg) (rs1 : XReg) (w : Bool) (m : Bool)
  /-- `VFADD_VV` (R255): Element-wise floating-point add under frm, real or complex. -/
  | vfaddVv (vd : VReg) (vs2 : VReg) (vs1 : VReg) (w : Bool) (m : Bool)
  /-- `VFSUB_VV` (R255): Element-wise floating-point subtract. -/
  | vfsubVv (vd : VReg) (vs2 : VReg) (vs1 : VReg) (w : Bool) (m : Bool)
  /-- `VFMUL_VV` (R255): Element-wise floating-point multiply. -/
  | vfmulVv (vd : VReg) (vs2 : VReg) (vs1 : VReg) (w : Bool) (m : Bool)
  /-- `VFDIV_VV` (R255): Element-wise floating-point divide. -/
  | vfdivVv (vd : VReg) (vs2 : VReg) (vs1 : VReg) (w : Bool) (m : Bool)
  /-- `VFMIN_VV` (R256): Element-wise floating-point minimum. -/
  | vfminVv (vd : VReg) (vs2 : VReg) (vs1 : VReg) (w : Bool) (m : Bool)
  /-- `VFMAX_VV` (R256): Element-wise floating-point maximum. -/
  | vfmaxVv (vd : VReg) (vs2 : VReg) (vs1 : VReg) (w : Bool) (m : Bool)
  /-- `VFSGNJ_VV` (R256): Injects the sign of vs1. -/
  | vfsgnjVv (vd : VReg) (vs2 : VReg) (vs1 : VReg) (w : Bool) (m : Bool)
  /-- `VFSGNJN_VV` (R256): Injects the inverted sign of vs1. -/
  | vfsgnjnVv (vd : VReg) (vs2 : VReg) (vs1 : VReg) (w : Bool) (m : Bool)
  /-- `VFSGNJX_VV` (R256): Injects the XOR of signs. -/
  | vfsgnjxVv (vd : VReg) (vs2 : VReg) (vs1 : VReg) (w : Bool) (m : Bool)
  /-- `VFMACC_VV` (R257): Fused multiply-accumulate into vd. -/
  | vfmaccVv (vd : VReg) (vs2 : VReg) (vs1 : VReg) (w : Bool) (m : Bool)
  /-- `VFNMACC_VV` (R257): Negated fused multiply-accumulate. -/
  | vfnmaccVv (vd : VReg) (vs2 : VReg) (vs1 : VReg) (w : Bool) (m : Bool)
  /-- `VFMSAC_VV` (R257): Fused multiply-subtract vd. -/
  | vfmsacVv (vd : VReg) (vs2 : VReg) (vs1 : VReg) (w : Bool) (m : Bool)
  /-- `VFNMSAC_VV` (R257): Negated product plus vd, fused. -/
  | vfnmsacVv (vd : VReg) (vs2 : VReg) (vs1 : VReg) (w : Bool) (m : Bool)
  /-- `VFEQ_VV` (R258): Mask compare floating-point equal. -/
  | vfeqVv (vd : VReg) (vs2 : VReg) (vs1 : VReg) (w : Bool) (m : Bool)
  /-- `VFNE_VV` (R258): Mask compare floating-point not equal. -/
  | vfneVv (vd : VReg) (vs2 : VReg) (vs1 : VReg) (w : Bool) (m : Bool)
  /-- `VFLT_VV` (R258): Mask compare floating-point less-than. -/
  | vfltVv (vd : VReg) (vs2 : VReg) (vs1 : VReg) (w : Bool) (m : Bool)
  /-- `VFLE_VV` (R258): Mask compare floating-point less-or-equal. -/
  | vfleVv (vd : VReg) (vs2 : VReg) (vs1 : VReg) (w : Bool) (m : Bool)
  /-- `VFUN_VV` (R258): Mask compare unordered. -/
  | vfunVv (vd : VReg) (vs2 : VReg) (vs1 : VReg) (w : Bool) (m : Bool)
  /-- `VFMERGE_VV` (R259): Floating-point merge by the v0 mask. -/
  | vfmergeVv (vd : VReg) (vs2 : VReg) (vs1 : VReg) (w : Bool)
  /-- `VCMUL` (R260): Complex element multiply with slot-0 pair handling. -/
  | vcmul (vd : VReg) (vs2 : VReg) (vs1 : VReg) (w : Bool) (m : Bool)
  /-- `VCMAC` (R260): Complex multiply-accumulate into vd. -/
  | vcmac (vd : VReg) (vs2 : VReg) (vs1 : VReg) (w : Bool) (m : Bool)
  /-- `VFWMACC_VV` (R261): Widening fused multiply-accumulate. -/
  | vfwmaccVv (vd : VReg) (vs2 : VReg) (vs1 : VReg) (w : Bool) (m : Bool)
  /-- `VCVTUP` (R262): Exact up-conversion by one width step. -/
  | vcvtup (vd : VReg) (vs2 : VReg) (fmt : BitVec 4) (w : Bool) (m : Bool)
  /-- `VCVTDN` (R262): Rounded down-conversion by one width step. -/
  | vcvtdn (vd : VReg) (vs2 : VReg) (fmt : BitVec 4) (w : Bool) (m : Bool)
  /-- `VCVTFI` (R263): Converts floating point to saturated signed integers. -/
  | vcvtfi (vd : VReg) (vs2 : VReg) (fmt : BitVec 4) (w : Bool) (m : Bool)
  /-- `VCVTIF` (R263): Converts signed integers to floating point. -/
  | vcvtif (vd : VReg) (vs2 : VReg) (fmt : BitVec 4) (w : Bool) (m : Bool)
  /-- `VQUANT` (R265): Quantises FP32 elements against scale codes or encodes shared blocks. -/
  | vquant (vd : VReg) (vs2 : VReg) (vs1 : VReg) (w : Bool) (m : Bool)
  /-- `VDEQUANT` (R266): Dequantises a quantised group into FP32. -/
  | vdequant (vd : VReg) (vs2 : VReg) (vs1 : VReg) (w : Bool) (m : Bool)
  /-- `VBSCALE_VV` (R267): Computes scale codes from amax elements. -/
  | vbscaleVv (vd : VReg) (vs2 : VReg) (fmt : BitVec 4) (w : Bool) (m : Bool)
  /-- `VBAMAX` (R268): Writes the largest magnitude of each block. -/
  | vbamax (vd : VReg) (vs2 : VReg) (w : Bool) (m : Bool)
  /-- `VFSQRT` (R269): Correctly rounded square root. -/
  | vfsqrt (vd : VReg) (vs2 : VReg) (w : Bool) (m : Bool)
  /-- `VFREC` (R269): Correctly rounded reciprocal. -/
  | vfrec (vd : VReg) (vs2 : VReg) (w : Bool) (m : Bool)
  /-- `VFRSQRT` (R269): Correctly rounded reciprocal square root. -/
  | vfrsqrt (vd : VReg) (vs2 : VReg) (w : Bool) (m : Bool)
  /-- `VFCLASS` (R270): Classifies each element into a one-hot integer. -/
  | vfclass (vd : VReg) (vs2 : VReg) (w : Bool) (m : Bool)
  /-- `VFEXP2` (R269): Correctly rounded 2^x. -/
  | vfexp2 (vd : VReg) (vs2 : VReg) (w : Bool) (m : Bool)
  /-- `VFLOG2` (R269): Correctly rounded log2. -/
  | vflog2 (vd : VReg) (vs2 : VReg) (w : Bool) (m : Bool)
  /-- `VFTANH` (R269): Correctly rounded tanh. -/
  | vftanh (vd : VReg) (vs2 : VReg) (w : Bool) (m : Bool)
  /-- `VFSILU` (R269): Correctly rounded SiLU. -/
  | vfsilu (vd : VReg) (vs2 : VReg) (w : Bool) (m : Bool)
  /-- `VFGELU` (R269): Correctly rounded GELU. -/
  | vfgelu (vd : VReg) (vs2 : VReg) (w : Bool) (m : Bool)
  /-- `VFSIN` (R269): Correctly rounded sine. -/
  | vfsin (vd : VReg) (vs2 : VReg) (w : Bool) (m : Bool)
  /-- `VFCOS` (R269): Correctly rounded cosine. -/
  | vfcos (vd : VReg) (vs2 : VReg) (w : Bool) (m : Bool)
  /-- `VFABS` (R271): Clears each sign bit. -/
  | vfabs (vd : VReg) (vs2 : VReg) (w : Bool) (m : Bool)
  /-- `VFNEG` (R271): Inverts each sign bit. -/
  | vfneg (vd : VReg) (vs2 : VReg) (w : Bool) (m : Bool)
  /-- `VCONJ` (R271): Conjugates complex elements except half-spectrum slot 0. -/
  | vconj (vd : VReg) (vs2 : VReg) (w : Bool) (m : Bool)
  /-- `VFREDSUM` (R272): Floating-point sum along the fixed tree. -/
  | vfredsum (vd : VReg) (vs2 : VReg) (w : Bool) (m : Bool)
  /-- `VFREDMAX` (R272): Floating-point maximum reduction. -/
  | vfredmax (vd : VReg) (vs2 : VReg) (w : Bool) (m : Bool)
  /-- `VFREDMIN` (R272): Floating-point minimum reduction. -/
  | vfredmin (vd : VReg) (vs2 : VReg) (w : Bool) (m : Bool)
  /-- `VFREDAMAX` (R272): Largest-magnitude reduction. -/
  | vfredamax (vd : VReg) (vs2 : VReg) (w : Bool) (m : Bool)
  /-- `PFWD` (R327): Forward real transform of each block into its half-spectrum. -/
  | pfwd (vd : VReg) (vs2 : VReg) (w : Bool)
  /-- `PINV` (R327): Inverse transform from half-spectrum to real blocks. -/
  | pinv (vd : VReg) (vs2 : VReg) (w : Bool)
  /-- `PFWDC` (R327): Forward complex transform of each block. -/
  | pfwdc (vd : VReg) (vs2 : VReg) (w : Bool)
  /-- `PINVC` (R327): Inverse complex transform of each block. -/
  | pinvc (vd : VReg) (vs2 : VReg) (w : Bool)
  /-- `VRETAG` (R329): Copies a group and tags it with pblk.rtag. -/
  | vretag (vd : VReg) (vs2 : VReg) (w : Bool)
  /-- `VTAGCLR` (R329): Copies a group and tags it spatial. -/
  | vtagclr (vd : VReg) (vs2 : VReg) (w : Bool)
  /-- `VFADD_VF` (R255): Adds a broadcast f register, converted once at issue. -/
  | vfaddVf (vd : VReg) (vs2 : VReg) (fs1 : FReg) (w : Bool) (m : Bool)
  /-- `VFSUB_VF` (R255): Subtracts a broadcast f scalar. -/
  | vfsubVf (vd : VReg) (vs2 : VReg) (fs1 : FReg) (w : Bool) (m : Bool)
  /-- `VFMUL_VF` (R255): Multiplies by a broadcast f scalar. -/
  | vfmulVf (vd : VReg) (vs2 : VReg) (fs1 : FReg) (w : Bool) (m : Bool)
  /-- `VFDIV_VF` (R255): Divides by a broadcast f scalar. -/
  | vfdivVf (vd : VReg) (vs2 : VReg) (fs1 : FReg) (w : Bool) (m : Bool)
  /-- `VFMIN_VF` (R256): Minimum with an f scalar. -/
  | vfminVf (vd : VReg) (vs2 : VReg) (fs1 : FReg) (w : Bool) (m : Bool)
  /-- `VFMAX_VF` (R256): Maximum with an f scalar. -/
  | vfmaxVf (vd : VReg) (vs2 : VReg) (fs1 : FReg) (w : Bool) (m : Bool)
  /-- `VFSGNJ_VF` (R256): Injects bit 63 of f[rs1] as sign. -/
  | vfsgnjVf (vd : VReg) (vs2 : VReg) (fs1 : FReg) (w : Bool) (m : Bool)
  /-- `VFSGNJN_VF` (R256): Injects the inverted scalar sign. -/
  | vfsgnjnVf (vd : VReg) (vs2 : VReg) (fs1 : FReg) (w : Bool) (m : Bool)
  /-- `VFSGNJX_VF` (R256): XORs the scalar sign into each element. -/
  | vfsgnjxVf (vd : VReg) (vs2 : VReg) (fs1 : FReg) (w : Bool) (m : Bool)
  /-- `VFMACC_VF` (R257): Fused multiply-accumulate with an f scalar. -/
  | vfmaccVf (vd : VReg) (vs2 : VReg) (fs1 : FReg) (w : Bool) (m : Bool)
  /-- `VFNMACC_VF` (R257): Negated fused multiply-accumulate with a scalar. -/
  | vfnmaccVf (vd : VReg) (vs2 : VReg) (fs1 : FReg) (w : Bool) (m : Bool)
  /-- `VFMSAC_VF` (R257): Fused multiply-subtract with a scalar. -/
  | vfmsacVf (vd : VReg) (vs2 : VReg) (fs1 : FReg) (w : Bool) (m : Bool)
  /-- `VFNMSAC_VF` (R257): Negated product plus vd with a scalar. -/
  | vfnmsacVf (vd : VReg) (vs2 : VReg) (fs1 : FReg) (w : Bool) (m : Bool)
  /-- `VFEQ_VF` (R258): Mask compare equal to an f scalar. -/
  | vfeqVf (vd : VReg) (vs2 : VReg) (fs1 : FReg) (w : Bool) (m : Bool)
  /-- `VFNE_VF` (R258): Mask compare not equal to an f scalar. -/
  | vfneVf (vd : VReg) (vs2 : VReg) (fs1 : FReg) (w : Bool) (m : Bool)
  /-- `VFLT_VF` (R258): Mask compare less than an f scalar. -/
  | vfltVf (vd : VReg) (vs2 : VReg) (fs1 : FReg) (w : Bool) (m : Bool)
  /-- `VFLE_VF` (R258): Mask compare less or equal an f scalar. -/
  | vfleVf (vd : VReg) (vs2 : VReg) (fs1 : FReg) (w : Bool) (m : Bool)
  /-- `VFUN_VF` (R258): Mask compare unordered with an f scalar. -/
  | vfunVf (vd : VReg) (vs2 : VReg) (fs1 : FReg) (w : Bool) (m : Bool)
  /-- `VFMERGE_VF` (R259): Merges an f scalar by the v0 mask. -/
  | vfmergeVf (vd : VReg) (vs2 : VReg) (fs1 : FReg) (w : Bool)
  /-- `VFWMACC_VF` (R261): Widening fused multiply-accumulate with a scalar. -/
  | vfwmaccVf (vd : VReg) (vs2 : VReg) (fs1 : FReg) (w : Bool) (m : Bool)
  /-- `VBSCALE_VF` (R267): Computes one scale code from f[rs1] into element 0. -/
  | vbscaleVf (vd : VReg) (tf : BitVec 6) (fs1 : FReg) (w : Bool)
  /-- `VLD` (R277): Unit-stride vector load through checked stitch pointers. -/
  | vld (vd : VReg) (rs1 : XReg) (w : Bool) (m : Bool)
  /-- `VLD_FE` (R277): Unit-stride load waiting on each granule full. -/
  | vldFe (vd : VReg) (rs1 : XReg) (w : Bool) (m : Bool)
  /-- `VLD_FEC` (R277): Unit-stride load waiting on full and clearing granules. -/
  | vldFec (vd : VReg) (rs1 : XReg) (w : Bool) (m : Bool)
  /-- `VLD_SC` (R164): Unit-stride load whose elements draw .sc tickets. -/
  | vldSc (vd : VReg) (rs1 : XReg) (w : Bool) (m : Bool)
  /-- `VST` (R277): Unit-stride vector store writing tile tags. -/
  | vst (vd : VReg) (rs1 : XReg) (w : Bool) (m : Bool)
  /-- `VST_FE` (R277): Unit-stride store setting granules full. -/
  | vstFe (vd : VReg) (rs1 : XReg) (w : Bool) (m : Bool)
  /-- `VST_NT` (R137): Non-temporal store that updates the progress word. -/
  | vstNt (vd : VReg) (rs1 : XReg) (w : Bool) (m : Bool)
  /-- `VST_SC` (R164): Unit-stride store whose elements draw .sc tickets. -/
  | vstSc (vd : VReg) (rs1 : XReg) (w : Bool) (m : Bool)
  /-- `VLDS` (R278): Strided vector load. -/
  | vlds (vd : VReg) (rs1 : XReg) (rs2 : XReg) (w : Bool) (m : Bool)
  /-- `VLDS_FE` (R278): Strided load waiting on granules full. -/
  | vldsFe (vd : VReg) (rs1 : XReg) (rs2 : XReg) (w : Bool) (m : Bool)
  /-- `VSTS` (R278): Strided vector store. -/
  | vsts (vd : VReg) (rs1 : XReg) (rs2 : XReg) (w : Bool) (m : Bool)
  /-- `VSTS_FE` (R278): Strided store setting granules full. -/
  | vstsFe (vd : VReg) (rs1 : XReg) (rs2 : XReg) (w : Bool) (m : Bool)
  /-- `VLDX` (R280): Indexed vector load, a lane barrier. -/
  | vldx (vd : VReg) (rs1 : XReg) (vs2 : VReg) (w : Bool) (m : Bool)
  /-- `VLDX_FE` (R280): Indexed load waiting on granules full. -/
  | vldxFe (vd : VReg) (rs1 : XReg) (vs2 : VReg) (w : Bool) (m : Bool)
  /-- `VSTX` (R280): Indexed vector store in ascending element order. -/
  | vstx (vd : VReg) (rs1 : XReg) (vs2 : VReg) (w : Bool) (m : Bool)
  /-- `VSTX_FE` (R280): Indexed store setting granules full. -/
  | vstxFe (vd : VReg) (rs1 : XReg) (vs2 : VReg) (w : Bool) (m : Bool)
  /-- `VBADD` (R282): Atomic integer add of each element at its bank word. -/
  | vbadd (vd : VReg) (vs2 : VReg) (rs1 : XReg) (w : Bool) (m : Bool)
  /-- `VBFADD` (R282): Atomic floating-point add at each bank word. -/
  | vbfadd (vd : VReg) (vs2 : VReg) (rs1 : XReg) (w : Bool) (m : Bool)
  /-- `VBFMAX` (R282): Atomic floating-point maximum at each bank word. -/
  | vbfmax (vd : VReg) (vs2 : VReg) (rs1 : XReg) (w : Bool) (m : Bool)
  /-- `VBOR` (R282): Atomic OR at each bank word. -/
  | vbor (vd : VReg) (vs2 : VReg) (rs1 : XReg) (w : Bool) (m : Bool)
  /-- `VLOCK` (R135): Takes free locks in address order, stopping at the first held. -/
  | vlock (vd : VReg) (vs2 : VReg) (rs1 : XReg) (w : Bool) (m : Bool)
  /-- `VUNLOCK` (R135): Releases locks held by this core. -/
  | vunlock (vd : VReg) (vs2 : VReg) (rs1 : XReg) (w : Bool) (m : Bool)
  /-- `VFABGET` (R410): Indexed remote get through the fabric. -/
  | vfabget (vd : VReg) (vs2 : VReg) (rs1 : XReg) (w : Bool) (m : Bool)
  /-- `VFABPUT` (R410): Indexed remote put in chained packets. -/
  | vfabput (vd : VReg) (vs2 : VReg) (rs1 : XReg) (w : Bool) (m : Bool)
  /-- `JOIN` (R19): Blocks S until engine needles are idle and queues drained. -/
  | join
  /-- `NEND` (R20): Idles an engine needle, or ends the context when S executes it. -/
  | nend
  /-- `MEET` (R21): Blocks until every active needle waits at the same k. -/
  | meet (k : BitVec 5)
  /-- `YIELD` (R209): Posts a pre-emption request for the own context. -/
  | yield
  /-- `BFREE` (R211): Empties a base register. -/
  | bfree (bd : BReg)
  /-- `BLIM` (R212): Reads the limit of a seated slot. -/
  | blim (rd : XReg) (bs : BReg)
  /-- `BPTR` (R212): Reads the start stitch pointer of a seated slot. -/
  | bptr (rd : XReg) (bs : BReg)
  /-- `FECLR` (R213): Sets one x, f or z register empty. -/
  | feclr (cls : BitVec 5) (num : BitVec 5)
  /-- `VFECLR` (R213): Sets one vector register empty. -/
  | vfeclr (vd : VReg)
  /-- `BAR_INIT` (R216): Clears a barrier word. -/
  | barInit (rs1 : XReg) (w1 : Bool)
  /-- `BAR_EXP` (R216): Arms a barrier with expected bytes and settles it. -/
  | barExp (rs1 : XReg) (rs2 : XReg) (w1 : Bool) (w2 : Bool)
  /-- `BAR_ARR` (R216): Arrives with bytes at a barrier as a scoped release. -/
  | barArr (rs1 : XReg) (rs2 : XReg) (scope : BitVec 5) (w1 : Bool) (w2 : Bool)
  /-- `BAR_WAIT` (R216): Blocks until the barrier phase differs, then acquires. -/
  | barWait (rs1 : XReg) (rs2 : XReg) (scope : BitVec 5) (w1 : Bool) (w2 : Bool)
  /-- `VDRAIN` (R218): Blocks S until every earlier issued operation completes. -/
  | vdrain
  /-- `FENCE_S` (R161): Scoped fence arming release and acquire halves. -/
  | fenceS (kind : BitVec 5) (scope : BitVec 5)
  /-- `LPOST` (R219): Offers a node record to the Loom and returns the outcome. -/
  | lpost (rd : XReg) (rs1 : XReg) (w1 : Bool)
  /-- `TRET` (R221): Ends manager event handling and returns. -/
  | tret
  /-- `CTXSAVE` (R223): Drains and saves a held context as a skein. -/
  | ctxsave (rd : XReg) (rs1 : XReg) (rs2 : XReg) (w1 : Bool) (w2 : Bool)
  /-- `CTXLOAD` (R223): Checks and loads a skein, leaving the context held. -/
  | ctxload (rd : XReg) (rs1 : XReg) (rs2 : XReg) (w1 : Bool) (w2 : Bool)
  /-- `CHOLD` (R222): Posts a hold request for a context. -/
  | chold (rs1 : XReg) (w1 : Bool)
  /-- `FABLD` (R407): Remote 8-byte load. -/
  | fabld (rd : XReg) (rs1 : XReg) (w1 : Bool)
  /-- `FABST` (R407): Remote 8-byte store through the combining buffer. -/
  | fabst (rs1 : XReg) (rs2 : XReg) (w1 : Bool) (w2 : Bool)
  /-- `FABADD` (R407): Remote fetch-add executed exactly once. -/
  | fabadd (rd : XReg) (rs1 : XReg) (rs2 : XReg) (w1 : Bool) (w2 : Bool)
  /-- `FABCAS` (R407): Remote compare-and-swap. -/
  | fabcas (rd : XReg) (rs1 : XReg) (rs2 : XReg) (w1 : Bool) (w2 : Bool)
  /-- `FABSWP` (R407): Remote swap. -/
  | fabswp (rd : XReg) (rs1 : XReg) (rs2 : XReg) (w1 : Bool) (w2 : Bool)
  /-- `FABFL` (R408): Flushes a stream and waits for its store acknowledgements. -/
  | fabfl
  /-- `FABRED` (R413): Sends a reduction contribution and creates a pending entry. -/
  | fabred (rs1 : XReg) (rs2 : XReg) (w1 : Bool) (w2 : Bool)
  /-- `FABRW` (R415): Waits for a reduction result into xd and fstat. -/
  | fabrw (rd : XReg) (rs1 : XReg) (w1 : Bool)
  /-- `CRES` (R222): Resumes a held context, or performs one debug step. -/
  | cres (rs1 : XReg) (w1 : Bool)
  /-- `HALT` (R221): Stops the hub core until an event is posted. -/
  | halt
  /-- `SCRUB` (R224): Scrubs one lane slice of a core's register file. -/
  | scrub (rd : XReg) (rs1 : XReg) (w1 : Bool)
  /-- `BSLOT` (R210): Seats slot imm12 plus x[rs1] in a base register. -/
  | bslot (bd : BReg) (imm : BitVec 12) (rs1 : XReg)
  /-- `LOOP` (R201): Opens a loop level or skips a zero-count body. -/
  | loop (rs1 : XReg) (off : BitVec 11) (w1 : Bool)
  /-- `LBRK` (R202): Ends the innermost loop level at once. -/
  | lbrk
  /-- `LNEXT` (R202): Performs the end-of-body step of the innermost level now. -/
  | lnext
  /-- `VSTRIP` (R206): Ends one strip step, advancing pointers and srem. -/
  | vstrip (off : BitVec 11)
  /-- `FORK` (R17): Starts V, M and C from a fork block. -/
  | fork (off : BitVec 11)
  /-- `VLSET` (R205): Sets vtype and grants vl, opening or closing the strip. -/
  | vlset (rd : XReg) (rs1 : XReg) (fmt : BitVec 4) (grp : BitVec 2) (y : Bool) (w1 : Bool)
  /-- `MTSET` (R307): Sets the array shape and returns the grants. -/
  | mtset (rd : XReg) (rs1 : XReg) (w1 : Bool)
  /-- `MWLD` (R313): Latches a weight block in the array. -/
  | mwld (rs1 : XReg) (fmt : BitVec 5) (w1 : Bool)
  /-- `MGATH` (R315): Fills the operand latch from scratchpad rows by indices. -/
  | mgath (vs : VReg) (rs1 : XReg) (w : Bool)
  /-- `MMAC` (R316): Performs one K-step into an accumulator tile. -/
  | mmac (zd : ZReg) (rs1 : XReg) (fmt : BitVec 5) (w1 : Bool)
  /-- `MMACZ` (R316): Performs one K-step skipping bitmap-absent activations. -/
  | mmacz (zd : ZReg) (rs1 : XReg) (fmt : BitVec 5) (w1 : Bool)
  /-- `MZERO` (R317): Zeroes a tile and sets mode 0. -/
  | mzero (zd : ZReg)
  /-- `MRD` (R318): Copies a tile into a vector register group. -/
  | mrd (vd : VReg) (zs : BitVec 5) (w : Bool)
  /-- `MST` (R319): Stores a tile to memory in 64-byte chunks. -/
  | mst (zs : ZReg) (rs1 : XReg) (w1 : Bool)
  /-- `MCODE` (R314): Loads the sixteen-entry BF16 codebook. -/
  | mcode (rs1 : XReg) (w1 : Bool)
  /-- `YSTR` (R284): Puts a vector register in yarn mode on a pattern record. -/
  | ystr (vd : VReg) (rs1 : XReg) (w : Bool)
  /-- `YEND` (R289): Ends a yarn stream. -/
  | yend (vd : VReg)
  /-- `YLD` (R293): Issues a copy from memory into a register group. -/
  | yld (rd : XReg) (vd : VReg) (rs1 : XReg) (w : Bool)
  /-- `YST` (R293): Issues a copy from a register group into memory. -/
  | yst (rd : XReg) (vd : VReg) (rs1 : XReg) (w : Bool)
  /-- `YXFER` (R294): Issues a copy from a peer core's register group. -/
  | yxfer (rd : XReg) (vd : VReg) (rs1 : XReg) (w : Bool)
  /-- `YTILE` (R295): Issues a 2-D tile copy, optionally with a follow-on command. -/
  | ytile (rd : XReg) (rs1 : XReg) (w1 : Bool)
  /-- `ENGINE_QUEUE_ENTRY` (R16): An engine executes the head entry of its inline queue. -/
  | engineQueueEntry (a : Agent) (q : Engine)
  /-- `MATRIX_QUEUE_ENTRY` (R302): The array executes a matrix queue entry, recording any array fault. -/
  | matrixQueueEntry (a : Agent)
  /-- `WAIT_SATISFIED` (R45): A blocked needle leaves its wait once its condition holds. -/
  | waitSatisfied (a : Agent) (n : Needle)
  /-- `COPY_CHUNK` (R292): The copy engine reads, writes and credits one 64-byte chunk. -/
  | copyChunk (a : Agent) (k : Nat)
  /-- `COPY_COMPLETION` (R290): A copy writes its status word and sets its destinations full. -/
  | copyCompletion (a : Agent) (k : Nat)
  /-- `STREAM_READ_AHEAD` (R285): The copy engine fetches stream elements ahead of pops. -/
  | streamReadAhead (a : Agent) (v : VReg)
  /-- `STREAM_WRITE_OUT` (R286): The copy engine writes pushed stream elements in order. -/
  | streamWriteOut (a : Agent) (v : VReg)
  /-- `PREEMPTION_HONOURED` (R366): Once all active needles rest, the context is held and a held event posted. -/
  | preemptionHonoured (c : Nat)
  /-- `YIELD_WINDOW_EXPIRY` (R42): The yield window expires, withdrawing the request and posting yield-expired. -/
  | yieldWindowExpiry (c : Nat)
  /-- `MANAGER_EVENT_ENTRY` (R221): A posted event enters the manager at tvec of the EVHUB hub core. -/
  | managerEventEntry (h : Nat)
  /-- `SKEIN_WRITE` (R367): After the save drain, the save engine writes the skein. -/
  | skeinWrite (h : Nat)
  /-- `QTAIL_WRITE` (R341): A host write to QTAIL sets the shadow tail or is recorded as refused. -/
  | qtailWrite (vf : Nat) (v : BitVec 32)
  /-- `RECORD_TAKE` (R341): The Loom takes the next submitted record, accepting or refusing it. -/
  | recordTake (vf : Nat)
  /-- `NODE_DISPATCH` (R344): The dispatcher starts the oldest placeable ready node. -/
  | nodeDispatch (p : Nat) (ids : List Nat) (units : List Nat)
  /-- `NODE_COMPLETION` (R20): A node completes, decrementing successors and signalling the host. -/
  | nodeCompletion (p : Nat) (handle : Nat)
  /-- `AGING_INTERVAL_EXPIRY` (R345): A ready node waiting past the aging interval rises one level. -/
  | agingIntervalExpiry (p : Nat) (handle : Nat)
  /-- `GANG_RESERVATION` (R345): A gang head of level 7 for one interval reserves a unit. -/
  | gangReservation (p : Nat)
  /-- `QOS_EXPIRY` (R349): A time slice ends, requesting pre-emption and switching queues. -/
  | qosExpiry (p : Nat)
  /-- `HOLD_GATE_WRITE` (R348): The manager sets or clears a hold gate as one completion event. -/
  | holdGateWrite (p : Nat) (gate : BitVec 3) (en : Bool) (base limit : Nat)
  /-- `GATE_DRAINED` (R348): No running node touches an enabled gate, and gate-drained is posted. -/
  | gateDrained (p : Nat) (gate : BitVec 3)
  /-- `COALESCING_TIMER_EXPIRY` (R352): The coalescing timer expires and every pending vector sends a message. -/
  | coalescingTimerExpiry (vf : Nat)
  /-- `FUNCTION_LEVEL_RESET` (R353): Kills a function's contexts, nodes, keys and queue and starts scrubbing. -/
  | functionLevelReset (vf : Nat)
  /-- `SCRUB_BLOCK` (R353): The scrub zeroes the next 256-byte block and advances the watermark. -/
  | scrubBlock (vf : Nat)
  /-- `CXL_MEM_ACCESS` (R420): A host CXL.mem access through a device-memory window. -/
  | cxlMemAccess (vf : Nat) (win : BitVec 3) (off : Nat) (acc : HostAccess)
  /-- `CKILL` (R364): A CKILL write kills a context without saving it. -/
  | ckill (p : Nat) (c : Nat)
  /-- `REVOKE` (R393): A REVOKE write invalidates a remote key at the owner. -/
  | revoke (p : Nat) (key : BitVec 32)
  /-- `EVHUB_WRITE` (R428): Redirects the partition's events to another hub core. -/
  | evhubWrite (p : Nat) (v : BitVec 64)
  /-- `CABLEMASK_WRITE` (R350): Replaces a cable-mask half-row as one partition event. -/
  | cablemaskWrite (h : Nat) (v : BitVec 64)
  /-- `GAUGETAB_WRITE` (R356): Writes an energy-weight table entry. -/
  | gaugetabWrite (h : Nat) (v : BitVec 64)
  /-- `KEY_GENERATE` (R422): Replaces a memory key id with a fresh random key. -/
  | keyGenerate (id : BitVec 7)
  /-- `KEY_DESTROY` (R422): Destroys a memory key id. -/
  | keyDestroy (id : BitVec 7)
  /-- `VPROG_WRITE` (R136): A write to vprog sets the running progress count to 0. -/
  | vprogWrite (a : Agent) (v : BitVec 64)
  /-- `REGISTER_WRITE` (R3): A write to a register with no behaviour of its own. -/
  | registerWrite (r : HwReg) (v : BitVec 64)
  /-- `GAUGE_GRANT` (R354): Every 10 µs the gauge arbiter grants panel power and charges static energy. -/
  | gaugeGrant (phub phbm : Nat) (hot : Bool)
  /-- `THERMAL_SHUTDOWN` (R427): At 115 °C junction the module shuts down. -/
  | thermalShutdown
  /-- `PLIMIT_SET` (R427): The management controller sets the gauge limit. -/
  | plimitSet (watts : Nat)
  /-- `FABRIC_LOAD` (R400): An owner answers a load packet with data or a refusal. -/
  | fabricLoad (p : Nat) (pk : Packet)
  /-- `FABRIC_STORE` (R400): An owner applies, drops or answers a store packet by serial. -/
  | fabricStore (p : Nat) (pk : Packet)
  /-- `FABRIC_FETCH_ADD` (R400): An owner executes a fetch-add once and caches its reply. -/
  | fabricFetchAdd (p : Nat) (pk : Packet)
  /-- `FABRIC_COMPARE_AND_SWAP` (R400): An owner executes a compare-and-swap once and caches its reply. -/
  | fabricCompareAndSwap (p : Nat) (pk : Packet)
  /-- `FABRIC_SWAP` (R400): An owner executes a swap once and caches its reply. -/
  | fabricSwap (p : Nat) (pk : Packet)
  /-- `FABRIC_CONTRIBUTION` (R393): A ZV-960 owner answers a contribution with 0x0E. -/
  | fabricContribution (p : Nat) (pk : Packet)
  /-- `FABRIC_INDEXED_GET` (R400): An owner answers an indexed get with data. -/
  | fabricIndexedGet (p : Nat) (pk : Packet)
  /-- `FABRIC_INDEXED_PUT` (R400): An owner applies a chained indexed put by serial. -/
  | fabricIndexedPut (p : Nat) (pk : Packet)
  /-- `FABRIC_ACKNOWLEDGEMENT_ONLY` (R399): An owner retires reply-cache entries up to the carried acknowledgement. -/
  | fabricAcknowledgementOnly (p : Nat) (pk : Packet)
  /-- `FABRIC_CLOSE` (R399): An owner closes a sequence and frees its entries. -/
  | fabricClose (p : Nat) (pk : Packet)
  /-- `FABRIC_REPLY` (R397): A reply arrives, completing operations or handling restarts. -/
  | fabricReply (p : Nat) (pk : Packet)
  /-- `RETRANSMISSION_TIMER` (R397): Every FABRT µs unacknowledged packets are sent again. -/
  | retransmissionTimer (p : Nat)
  /-- `DEVICE_RESET` (R425): Runs the bring-up sequence from power-good to enabling CXL.io. -/
  | deviceReset (firmware : Firmware) (found : BootTest)
  /-- `GET_VERSION` (R424): SPDM request for supported versions. -/
  | getVersion (request : List (BitVec 8))
  /-- `GET_CAPABILITIES` (R424): SPDM request for capabilities. -/
  | getCapabilities (request : List (BitVec 8))
  /-- `NEGOTIATE_ALGORITHMS` (R424): SPDM request to negotiate RSASSA-4096 and SHA-512. -/
  | negotiateAlgorithms (request : List (BitVec 8))
  /-- `GET_DIGESTS` (R424): SPDM request for certificate chain digests. -/
  | getDigests (request : List (BitVec 8))
  /-- `GET_CERTIFICATE` (R424): SPDM request for the identity certificate chain. -/
  | getCertificate (request : List (BitVec 8))
  /-- `CHALLENGE` (R424): SPDM challenge signed by the identity key. -/
  | challenge (request : List (BitVec 8))
  /-- `GET_MEASUREMENTS` (R424): SPDM request for the four boot measurements. -/
  | getMeasurements (request : List (BitVec 8))
  /-- `MSI_X_VECTOR_UNMASK` (R352): A host write that clears the mask of an MSI-X vector whose Pending Bit Array bit is set sends the held message and clears the pending bit. -/
  | msiXVectorUnmask (vf : Nat) (vec : BitVec 6)
  deriving DecidableEq, Repr

end Sys2Proof
end

