-- ==== Sys2Proof/WellFormed.lean ====
section
/-! DEFINITION. The operand checks of R198 order 2: register fields in range and sub-fields defined. -/

namespace Sys2Proof

/-- Does a class and number of `feclr` name a register (R186)? Class 0 is x, 1 is f, 3 is z; x0 and z above 7 name none. -/
def feclrNames (cls num : BitVec 5) : Bool :=
  (cls == 0#5 && num != 0#5) || cls == 1#5 || (cls == 3#5 && num.toNat ≤ 7)

/-- Formats whose accumulator is a pair of tiles: FP64 (7) and CBF16 (14) (R306). -/
def pairFormat (f : BitVec 5) : Bool := f == 7#5 || f == 14#5

/-- Has the step a 32-bit word? The 57 steps of engines, arbiters, hosts and peers have none. -/
def Instr.hasWord : Instr → Bool
  | .engineQueueEntry _ _ => false
  | .matrixQueueEntry _ => false
  | .waitSatisfied _ _ => false
  | .copyChunk _ _ => false
  | .copyCompletion _ _ => false
  | .streamReadAhead _ _ => false
  | .streamWriteOut _ _ => false
  | .preemptionHonoured _ => false
  | .yieldWindowExpiry _ => false
  | .managerEventEntry _ => false
  | .skeinWrite _ => false
  | .qtailWrite _ _ => false
  | .recordTake _ => false
  | .nodeDispatch _ _ _ => false
  | .nodeCompletion _ _ => false
  | .agingIntervalExpiry _ _ => false
  | .gangReservation _ => false
  | .qosExpiry _ => false
  | .holdGateWrite _ _ _ _ _ => false
  | .gateDrained _ _ => false
  | .coalescingTimerExpiry _ => false
  | .functionLevelReset _ => false
  | .scrubBlock _ => false
  | .cxlMemAccess _ _ _ _ => false
  | .ckill _ _ => false
  | .revoke _ _ => false
  | .evhubWrite _ _ => false
  | .cablemaskWrite _ _ => false
  | .gaugetabWrite _ _ => false
  | .keyGenerate _ => false
  | .keyDestroy _ => false
  | .vprogWrite _ _ => false
  | .registerWrite _ _ => false
  | .gaugeGrant _ _ _ => false
  | .thermalShutdown => false
  | .plimitSet _ => false
  | .fabricLoad _ _ => false
  | .fabricStore _ _ => false
  | .fabricFetchAdd _ _ => false
  | .fabricCompareAndSwap _ _ => false
  | .fabricSwap _ _ => false
  | .fabricContribution _ _ => false
  | .fabricIndexedGet _ _ => false
  | .fabricIndexedPut _ _ => false
  | .fabricAcknowledgementOnly _ _ => false
  | .fabricClose _ _ => false
  | .fabricReply _ _ => false
  | .retransmissionTimer _ => false
  | .deviceReset _ _ => false
  | .getVersion _ => false
  | .getCapabilities _ => false
  | .negotiateAlgorithms _ => false
  | .getDigests _ => false
  | .getCertificate _ => false
  | .challenge _ => false
  | .getMeasurements _ => false
  | .msiXVectorUnmask _ _ => false
  | .lui _ _ => true
  | .auipc _ _ => true
  | .jal _ _ => true
  | .jalr _ _ _ => true
  | .beq _ _ _ => true
  | .bne _ _ _ => true
  | .blt _ _ _ => true
  | .bge _ _ _ => true
  | .bltu _ _ _ => true
  | .bgeu _ _ _ => true
  | .lb _ _ _ => true
  | .lh _ _ _ => true
  | .lw _ _ _ => true
  | .ld _ _ _ => true
  | .lbu _ _ _ => true
  | .lhu _ _ _ => true
  | .lwu _ _ _ => true
  | .sb _ _ _ => true
  | .sh _ _ _ => true
  | .sw _ _ _ => true
  | .sd _ _ _ => true
  | .addi _ _ _ => true
  | .slti _ _ _ => true
  | .sltiu _ _ _ => true
  | .xori _ _ _ => true
  | .ori _ _ _ => true
  | .andi _ _ _ => true
  | .slli _ _ _ => true
  | .srli _ _ _ => true
  | .srai _ _ _ => true
  | .addiw _ _ _ => true
  | .slliw _ _ _ => true
  | .srliw _ _ _ => true
  | .sraiw _ _ _ => true
  | .add _ _ _ => true
  | .sll _ _ _ => true
  | .slt _ _ _ => true
  | .sltu _ _ _ => true
  | .xor _ _ _ => true
  | .srl _ _ _ => true
  | .or _ _ _ => true
  | .and _ _ _ => true
  | .sub _ _ _ => true
  | .sra _ _ _ => true
  | .mul _ _ _ => true
  | .mulh _ _ _ => true
  | .mulhsu _ _ _ => true
  | .mulhu _ _ _ => true
  | .div _ _ _ => true
  | .divu _ _ _ => true
  | .rem _ _ _ => true
  | .remu _ _ _ => true
  | .addw _ _ _ => true
  | .sllw _ _ _ => true
  | .srlw _ _ _ => true
  | .subw _ _ _ => true
  | .sraw _ _ _ => true
  | .mulw _ _ _ => true
  | .divw _ _ _ => true
  | .divuw _ _ _ => true
  | .remw _ _ _ => true
  | .remuw _ _ _ => true
  | .fence _ _ _ _ _ => true
  | .ecall => true
  | .ebreak => true
  | .csrrw _ _ _ => true
  | .csrrs _ _ _ => true
  | .csrrc _ _ _ => true
  | .csrrwi _ _ _ => true
  | .csrrsi _ _ _ => true
  | .csrrci _ _ _ => true
  | .lrW _ _ _ _ => true
  | .scW _ _ _ _ _ => true
  | .amoswapW _ _ _ _ _ => true
  | .amoaddW _ _ _ _ _ => true
  | .amoxorW _ _ _ _ _ => true
  | .amoandW _ _ _ _ _ => true
  | .amoorW _ _ _ _ _ => true
  | .amominW _ _ _ _ _ => true
  | .amomaxW _ _ _ _ _ => true
  | .amominuW _ _ _ _ _ => true
  | .amomaxuW _ _ _ _ _ => true
  | .lrD _ _ _ _ => true
  | .scD _ _ _ _ _ => true
  | .amoswapD _ _ _ _ _ => true
  | .amoaddD _ _ _ _ _ => true
  | .amoxorD _ _ _ _ _ => true
  | .amoandD _ _ _ _ _ => true
  | .amoorD _ _ _ _ _ => true
  | .amominD _ _ _ _ _ => true
  | .amomaxD _ _ _ _ _ => true
  | .amominuD _ _ _ _ _ => true
  | .amomaxuD _ _ _ _ _ => true
  | .fld _ _ _ => true
  | .fsd _ _ _ => true
  | .fmaddD _ _ _ _ _ => true
  | .fmsubD _ _ _ _ _ => true
  | .fnmsubD _ _ _ _ _ => true
  | .fnmaddD _ _ _ _ _ => true
  | .faddD _ _ _ _ => true
  | .fsubD _ _ _ _ => true
  | .fmulD _ _ _ _ => true
  | .fdivD _ _ _ _ => true
  | .fsqrtD _ _ _ => true
  | .fsgnjD _ _ _ => true
  | .fsgnjnD _ _ _ => true
  | .fsgnjxD _ _ _ => true
  | .fminD _ _ _ => true
  | .fmaxD _ _ _ => true
  | .fleD _ _ _ => true
  | .fltD _ _ _ => true
  | .feqD _ _ _ => true
  | .fclassD _ _ => true
  | .fmvXD _ _ => true
  | .fmvDX _ _ => true
  | .fcvtWD _ _ _ => true
  | .fcvtWuD _ _ _ => true
  | .fcvtLD _ _ _ => true
  | .fcvtLuD _ _ _ => true
  | .fcvtDW _ _ _ => true
  | .fcvtDWu _ _ _ => true
  | .fcvtDL _ _ _ => true
  | .fcvtDLu _ _ _ => true
  | .vaddVv _ _ _ _ _ => true
  | .vsubVv _ _ _ _ _ => true
  | .vmulVv _ _ _ _ _ => true
  | .vmulhVv _ _ _ _ _ => true
  | .vmulhuVv _ _ _ _ _ => true
  | .vdivVv _ _ _ _ _ => true
  | .vdivuVv _ _ _ _ _ => true
  | .vremVv _ _ _ _ _ => true
  | .vremuVv _ _ _ _ _ => true
  | .vminVv _ _ _ _ _ => true
  | .vminuVv _ _ _ _ _ => true
  | .vmaxVv _ _ _ _ _ => true
  | .vmaxuVv _ _ _ _ _ => true
  | .vandVv _ _ _ _ _ => true
  | .vorVv _ _ _ _ _ => true
  | .vxorVv _ _ _ _ _ => true
  | .vsllVv _ _ _ _ _ => true
  | .vsrlVv _ _ _ _ _ => true
  | .vsraVv _ _ _ _ _ => true
  | .vsaddVv _ _ _ _ _ => true
  | .vsadduVv _ _ _ _ _ => true
  | .vssubVv _ _ _ _ _ => true
  | .vssubuVv _ _ _ _ _ => true
  | .vseqVv _ _ _ _ _ => true
  | .vsneVv _ _ _ _ _ => true
  | .vsltVv _ _ _ _ _ => true
  | .vsltuVv _ _ _ _ _ => true
  | .vsleVv _ _ _ _ _ => true
  | .vsleuVv _ _ _ _ _ => true
  | .vmergeVv _ _ _ _ => true
  | .vperm _ _ _ _ _ => true
  | .vmv _ _ _ _ => true
  | .vid _ _ _ => true
  | .viota _ _ _ _ => true
  | .vcompress _ _ _ => true
  | .vredsum _ _ _ _ => true
  | .vredmin _ _ _ _ => true
  | .vredminu _ _ _ _ => true
  | .vredmax _ _ _ _ => true
  | .vredmaxu _ _ _ _ => true
  | .vredand _ _ _ _ => true
  | .vredor _ _ _ _ => true
  | .vredxor _ _ _ _ => true
  | .vmpopc _ _ _ _ => true
  | .vmfirst _ _ _ _ => true
  | .vabs _ _ _ _ => true
  | .vneg _ _ _ _ => true
  | .vnot _ _ _ _ => true
  | .vclz _ _ _ _ => true
  | .vpopcnt _ _ _ _ => true
  | .vsext _ _ _ _ => true
  | .vzext _ _ _ _ => true
  | .vnclip _ _ _ _ => true
  | .vnclipu _ _ _ _ => true
  | .vaddVx _ _ _ _ _ => true
  | .vsubVx _ _ _ _ _ => true
  | .vmulVx _ _ _ _ _ => true
  | .vmulhVx _ _ _ _ _ => true
  | .vmulhuVx _ _ _ _ _ => true
  | .vdivVx _ _ _ _ _ => true
  | .vdivuVx _ _ _ _ _ => true
  | .vremVx _ _ _ _ _ => true
  | .vremuVx _ _ _ _ _ => true
  | .vminVx _ _ _ _ _ => true
  | .vminuVx _ _ _ _ _ => true
  | .vmaxVx _ _ _ _ _ => true
  | .vmaxuVx _ _ _ _ _ => true
  | .vandVx _ _ _ _ _ => true
  | .vorVx _ _ _ _ _ => true
  | .vxorVx _ _ _ _ _ => true
  | .vsllVx _ _ _ _ _ => true
  | .vsrlVx _ _ _ _ _ => true
  | .vsraVx _ _ _ _ _ => true
  | .vsaddVx _ _ _ _ _ => true
  | .vsadduVx _ _ _ _ _ => true
  | .vssubVx _ _ _ _ _ => true
  | .vssubuVx _ _ _ _ _ => true
  | .vseqVx _ _ _ _ _ => true
  | .vsneVx _ _ _ _ _ => true
  | .vsltVx _ _ _ _ _ => true
  | .vsltuVx _ _ _ _ _ => true
  | .vsleVx _ _ _ _ _ => true
  | .vsleuVx _ _ _ _ _ => true
  | .vmergeVx _ _ _ _ => true
  | .vslideup _ _ _ _ _ => true
  | .vslidedn _ _ _ _ _ => true
  | .vfaddVv _ _ _ _ _ => true
  | .vfsubVv _ _ _ _ _ => true
  | .vfmulVv _ _ _ _ _ => true
  | .vfdivVv _ _ _ _ _ => true
  | .vfminVv _ _ _ _ _ => true
  | .vfmaxVv _ _ _ _ _ => true
  | .vfsgnjVv _ _ _ _ _ => true
  | .vfsgnjnVv _ _ _ _ _ => true
  | .vfsgnjxVv _ _ _ _ _ => true
  | .vfmaccVv _ _ _ _ _ => true
  | .vfnmaccVv _ _ _ _ _ => true
  | .vfmsacVv _ _ _ _ _ => true
  | .vfnmsacVv _ _ _ _ _ => true
  | .vfeqVv _ _ _ _ _ => true
  | .vfneVv _ _ _ _ _ => true
  | .vfltVv _ _ _ _ _ => true
  | .vfleVv _ _ _ _ _ => true
  | .vfunVv _ _ _ _ _ => true
  | .vfmergeVv _ _ _ _ => true
  | .vcmul _ _ _ _ _ => true
  | .vcmac _ _ _ _ _ => true
  | .vfwmaccVv _ _ _ _ _ => true
  | .vcvtup _ _ _ _ _ => true
  | .vcvtdn _ _ _ _ _ => true
  | .vcvtfi _ _ _ _ _ => true
  | .vcvtif _ _ _ _ _ => true
  | .vquant _ _ _ _ _ => true
  | .vdequant _ _ _ _ _ => true
  | .vbscaleVv _ _ _ _ _ => true
  | .vbamax _ _ _ _ => true
  | .vfsqrt _ _ _ _ => true
  | .vfrec _ _ _ _ => true
  | .vfrsqrt _ _ _ _ => true
  | .vfclass _ _ _ _ => true
  | .vfexp2 _ _ _ _ => true
  | .vflog2 _ _ _ _ => true
  | .vftanh _ _ _ _ => true
  | .vfsilu _ _ _ _ => true
  | .vfgelu _ _ _ _ => true
  | .vfsin _ _ _ _ => true
  | .vfcos _ _ _ _ => true
  | .vfabs _ _ _ _ => true
  | .vfneg _ _ _ _ => true
  | .vconj _ _ _ _ => true
  | .vfredsum _ _ _ _ => true
  | .vfredmax _ _ _ _ => true
  | .vfredmin _ _ _ _ => true
  | .vfredamax _ _ _ _ => true
  | .pfwd _ _ _ => true
  | .pinv _ _ _ => true
  | .pfwdc _ _ _ => true
  | .pinvc _ _ _ => true
  | .vretag _ _ _ => true
  | .vtagclr _ _ _ => true
  | .vfaddVf _ _ _ _ _ => true
  | .vfsubVf _ _ _ _ _ => true
  | .vfmulVf _ _ _ _ _ => true
  | .vfdivVf _ _ _ _ _ => true
  | .vfminVf _ _ _ _ _ => true
  | .vfmaxVf _ _ _ _ _ => true
  | .vfsgnjVf _ _ _ _ _ => true
  | .vfsgnjnVf _ _ _ _ _ => true
  | .vfsgnjxVf _ _ _ _ _ => true
  | .vfmaccVf _ _ _ _ _ => true
  | .vfnmaccVf _ _ _ _ _ => true
  | .vfmsacVf _ _ _ _ _ => true
  | .vfnmsacVf _ _ _ _ _ => true
  | .vfeqVf _ _ _ _ _ => true
  | .vfneVf _ _ _ _ _ => true
  | .vfltVf _ _ _ _ _ => true
  | .vfleVf _ _ _ _ _ => true
  | .vfunVf _ _ _ _ _ => true
  | .vfmergeVf _ _ _ _ => true
  | .vfwmaccVf _ _ _ _ _ => true
  | .vbscaleVf _ _ _ _ => true
  | .vld _ _ _ _ => true
  | .vldFe _ _ _ _ => true
  | .vldFec _ _ _ _ => true
  | .vldSc _ _ _ _ => true
  | .vst _ _ _ _ => true
  | .vstFe _ _ _ _ => true
  | .vstNt _ _ _ _ => true
  | .vstSc _ _ _ _ => true
  | .vlds _ _ _ _ _ => true
  | .vldsFe _ _ _ _ _ => true
  | .vsts _ _ _ _ _ => true
  | .vstsFe _ _ _ _ _ => true
  | .vldx _ _ _ _ _ => true
  | .vldxFe _ _ _ _ _ => true
  | .vstx _ _ _ _ _ => true
  | .vstxFe _ _ _ _ _ => true
  | .vbadd _ _ _ _ _ => true
  | .vbfadd _ _ _ _ _ => true
  | .vbfmax _ _ _ _ _ => true
  | .vbor _ _ _ _ _ => true
  | .vlock _ _ _ _ _ => true
  | .vunlock _ _ _ _ _ => true
  | .vfabget _ _ _ _ _ => true
  | .vfabput _ _ _ _ _ => true
  | .join => true
  | .nend => true
  | .meet _ => true
  | .yield => true
  | .bfree _ => true
  | .blim _ _ => true
  | .bptr _ _ => true
  | .feclr _ _ => true
  | .vfeclr _ => true
  | .barInit _ _ => true
  | .barExp _ _ _ _ => true
  | .barArr _ _ _ _ _ => true
  | .barWait _ _ _ _ _ => true
  | .vdrain => true
  | .fenceS _ _ => true
  | .lpost _ _ _ => true
  | .tret => true
  | .ctxsave _ _ _ _ _ => true
  | .ctxload _ _ _ _ _ => true
  | .chold _ _ => true
  | .fabld _ _ _ => true
  | .fabst _ _ _ _ => true
  | .fabadd _ _ _ _ _ => true
  | .fabcas _ _ _ _ _ => true
  | .fabswp _ _ _ _ _ => true
  | .fabfl => true
  | .fabred _ _ _ _ => true
  | .fabrw _ _ _ => true
  | .cres _ _ => true
  | .halt => true
  | .scrub _ _ _ => true
  | .bslot _ _ _ => true
  | .loop _ _ _ => true
  | .lbrk => true
  | .lnext => true
  | .vstrip _ => true
  | .fork _ => true
  | .vlset _ _ _ _ _ _ => true
  | .mtset _ _ _ => true
  | .mwld _ _ _ => true
  | .mgath _ _ _ => true
  | .mmac _ _ _ _ => true
  | .mmacz _ _ _ _ => true
  | .mzero _ => true
  | .mrd _ _ _ => true
  | .mst _ _ _ => true
  | .mcode _ _ => true
  | .ystr _ _ _ => true
  | .yend _ => true
  | .yld _ _ _ _ => true
  | .yst _ _ _ _ => true
  | .yxfer _ _ _ _ => true
  | .ytile _ _ _ => true

/-- The operand checks of R198 order 2 that the fixed fields of a word do not make. -/
def Instr.wellFormed : Instr → Bool
  | .lui _ _ => true
  | .auipc _ _ => true
  | .jal _ _ => true
  | .jalr _ _ _ => true
  | .beq _ _ _ => true
  | .bne _ _ _ => true
  | .blt _ _ _ => true
  | .bge _ _ _ => true
  | .bltu _ _ _ => true
  | .bgeu _ _ _ => true
  | .lb _ _ _ => true
  | .lh _ _ _ => true
  | .lw _ _ _ => true
  | .ld _ _ _ => true
  | .lbu _ _ _ => true
  | .lhu _ _ _ => true
  | .lwu _ _ _ => true
  | .sb _ _ _ => true
  | .sh _ _ _ => true
  | .sw _ _ _ => true
  | .sd _ _ _ => true
  | .addi _ _ _ => true
  | .slti _ _ _ => true
  | .sltiu _ _ _ => true
  | .xori _ _ _ => true
  | .ori _ _ _ => true
  | .andi _ _ _ => true
  | .slli _ _ _ => true
  | .srli _ _ _ => true
  | .srai _ _ _ => true
  | .addiw _ _ _ => true
  | .slliw _ _ _ => true
  | .srliw _ _ _ => true
  | .sraiw _ _ _ => true
  | .add _ _ _ => true
  | .sll _ _ _ => true
  | .slt _ _ _ => true
  | .sltu _ _ _ => true
  | .xor _ _ _ => true
  | .srl _ _ _ => true
  | .or _ _ _ => true
  | .and _ _ _ => true
  | .sub _ _ _ => true
  | .sra _ _ _ => true
  | .mul _ _ _ => true
  | .mulh _ _ _ => true
  | .mulhsu _ _ _ => true
  | .mulhu _ _ _ => true
  | .div _ _ _ => true
  | .divu _ _ _ => true
  | .rem _ _ _ => true
  | .remu _ _ _ => true
  | .addw _ _ _ => true
  | .sllw _ _ _ => true
  | .srlw _ _ _ => true
  | .subw _ _ _ => true
  | .sraw _ _ _ => true
  | .mulw _ _ _ => true
  | .divw _ _ _ => true
  | .divuw _ _ _ => true
  | .remw _ _ _ => true
  | .remuw _ _ _ => true
  | .fence _ _ _ _ _ => true
  | .ecall => true
  | .ebreak => true
  | .csrrw _ _ _ => true
  | .csrrs _ _ _ => true
  | .csrrc _ _ _ => true
  | .csrrwi _ _ _ => true
  | .csrrsi _ _ _ => true
  | .csrrci _ _ _ => true
  | .lrW _ _ _ _ => true
  | .scW _ _ _ _ _ => true
  | .amoswapW _ _ _ _ _ => true
  | .amoaddW _ _ _ _ _ => true
  | .amoxorW _ _ _ _ _ => true
  | .amoandW _ _ _ _ _ => true
  | .amoorW _ _ _ _ _ => true
  | .amominW _ _ _ _ _ => true
  | .amomaxW _ _ _ _ _ => true
  | .amominuW _ _ _ _ _ => true
  | .amomaxuW _ _ _ _ _ => true
  | .lrD _ _ _ _ => true
  | .scD _ _ _ _ _ => true
  | .amoswapD _ _ _ _ _ => true
  | .amoaddD _ _ _ _ _ => true
  | .amoxorD _ _ _ _ _ => true
  | .amoandD _ _ _ _ _ => true
  | .amoorD _ _ _ _ _ => true
  | .amominD _ _ _ _ _ => true
  | .amomaxD _ _ _ _ _ => true
  | .amominuD _ _ _ _ _ => true
  | .amomaxuD _ _ _ _ _ => true
  | .fld _ _ _ => true
  | .fsd _ _ _ => true
  | .fmaddD _ _ _ _ rm => rm != 5#3 && rm != 6#3
  | .fmsubD _ _ _ _ rm => rm != 5#3 && rm != 6#3
  | .fnmsubD _ _ _ _ rm => rm != 5#3 && rm != 6#3
  | .fnmaddD _ _ _ _ rm => rm != 5#3 && rm != 6#3
  | .faddD _ _ _ rm => rm != 5#3 && rm != 6#3
  | .fsubD _ _ _ rm => rm != 5#3 && rm != 6#3
  | .fmulD _ _ _ rm => rm != 5#3 && rm != 6#3
  | .fdivD _ _ _ rm => rm != 5#3 && rm != 6#3
  | .fsqrtD _ _ rm => rm != 5#3 && rm != 6#3
  | .fsgnjD _ _ _ => true
  | .fsgnjnD _ _ _ => true
  | .fsgnjxD _ _ _ => true
  | .fminD _ _ _ => true
  | .fmaxD _ _ _ => true
  | .fleD _ _ _ => true
  | .fltD _ _ _ => true
  | .feqD _ _ _ => true
  | .fclassD _ _ => true
  | .fmvXD _ _ => true
  | .fmvDX _ _ => true
  | .fcvtWD _ _ rm => rm != 5#3 && rm != 6#3
  | .fcvtWuD _ _ rm => rm != 5#3 && rm != 6#3
  | .fcvtLD _ _ rm => rm != 5#3 && rm != 6#3
  | .fcvtLuD _ _ rm => rm != 5#3 && rm != 6#3
  | .fcvtDW _ _ rm => rm != 5#3 && rm != 6#3
  | .fcvtDWu _ _ rm => rm != 5#3 && rm != 6#3
  | .fcvtDL _ _ rm => rm != 5#3 && rm != 6#3
  | .fcvtDLu _ _ rm => rm != 5#3 && rm != 6#3
  | .vaddVv _ _ _ _ _ => true
  | .vsubVv _ _ _ _ _ => true
  | .vmulVv _ _ _ _ _ => true
  | .vmulhVv _ _ _ _ _ => true
  | .vmulhuVv _ _ _ _ _ => true
  | .vdivVv _ _ _ _ _ => true
  | .vdivuVv _ _ _ _ _ => true
  | .vremVv _ _ _ _ _ => true
  | .vremuVv _ _ _ _ _ => true
  | .vminVv _ _ _ _ _ => true
  | .vminuVv _ _ _ _ _ => true
  | .vmaxVv _ _ _ _ _ => true
  | .vmaxuVv _ _ _ _ _ => true
  | .vandVv _ _ _ _ _ => true
  | .vorVv _ _ _ _ _ => true
  | .vxorVv _ _ _ _ _ => true
  | .vsllVv _ _ _ _ _ => true
  | .vsrlVv _ _ _ _ _ => true
  | .vsraVv _ _ _ _ _ => true
  | .vsaddVv _ _ _ _ _ => true
  | .vsadduVv _ _ _ _ _ => true
  | .vssubVv _ _ _ _ _ => true
  | .vssubuVv _ _ _ _ _ => true
  | .vseqVv _ _ _ _ _ => true
  | .vsneVv _ _ _ _ _ => true
  | .vsltVv _ _ _ _ _ => true
  | .vsltuVv _ _ _ _ _ => true
  | .vsleVv _ _ _ _ _ => true
  | .vsleuVv _ _ _ _ _ => true
  | .vmergeVv _ _ _ _ => true
  | .vperm _ _ _ _ _ => true
  | .vmv _ _ _ _ => true
  | .vid _ _ _ => true
  | .viota _ _ _ _ => true
  | .vcompress _ _ _ => true
  | .vredsum _ _ _ _ => true
  | .vredmin _ _ _ _ => true
  | .vredminu _ _ _ _ => true
  | .vredmax _ _ _ _ => true
  | .vredmaxu _ _ _ _ => true
  | .vredand _ _ _ _ => true
  | .vredor _ _ _ _ => true
  | .vredxor _ _ _ _ => true
  | .vmpopc _ _ _ _ => true
  | .vmfirst _ _ _ _ => true
  | .vabs _ _ _ _ => true
  | .vneg _ _ _ _ => true
  | .vnot _ _ _ _ => true
  | .vclz _ _ _ _ => true
  | .vpopcnt _ _ _ _ => true
  | .vsext _ _ _ _ => true
  | .vzext _ _ _ _ => true
  | .vnclip _ _ _ _ => true
  | .vnclipu _ _ _ _ => true
  | .vaddVx _ _ _ _ _ => true
  | .vsubVx _ _ _ _ _ => true
  | .vmulVx _ _ _ _ _ => true
  | .vmulhVx _ _ _ _ _ => true
  | .vmulhuVx _ _ _ _ _ => true
  | .vdivVx _ _ _ _ _ => true
  | .vdivuVx _ _ _ _ _ => true
  | .vremVx _ _ _ _ _ => true
  | .vremuVx _ _ _ _ _ => true
  | .vminVx _ _ _ _ _ => true
  | .vminuVx _ _ _ _ _ => true
  | .vmaxVx _ _ _ _ _ => true
  | .vmaxuVx _ _ _ _ _ => true
  | .vandVx _ _ _ _ _ => true
  | .vorVx _ _ _ _ _ => true
  | .vxorVx _ _ _ _ _ => true
  | .vsllVx _ _ _ _ _ => true
  | .vsrlVx _ _ _ _ _ => true
  | .vsraVx _ _ _ _ _ => true
  | .vsaddVx _ _ _ _ _ => true
  | .vsadduVx _ _ _ _ _ => true
  | .vssubVx _ _ _ _ _ => true
  | .vssubuVx _ _ _ _ _ => true
  | .vseqVx _ _ _ _ _ => true
  | .vsneVx _ _ _ _ _ => true
  | .vsltVx _ _ _ _ _ => true
  | .vsltuVx _ _ _ _ _ => true
  | .vsleVx _ _ _ _ _ => true
  | .vsleuVx _ _ _ _ _ => true
  | .vmergeVx _ _ _ _ => true
  | .vslideup _ _ _ _ _ => true
  | .vslidedn _ _ _ _ _ => true
  | .vfaddVv _ _ _ _ _ => true
  | .vfsubVv _ _ _ _ _ => true
  | .vfmulVv _ _ _ _ _ => true
  | .vfdivVv _ _ _ _ _ => true
  | .vfminVv _ _ _ _ _ => true
  | .vfmaxVv _ _ _ _ _ => true
  | .vfsgnjVv _ _ _ _ _ => true
  | .vfsgnjnVv _ _ _ _ _ => true
  | .vfsgnjxVv _ _ _ _ _ => true
  | .vfmaccVv _ _ _ _ _ => true
  | .vfnmaccVv _ _ _ _ _ => true
  | .vfmsacVv _ _ _ _ _ => true
  | .vfnmsacVv _ _ _ _ _ => true
  | .vfeqVv _ _ _ _ _ => true
  | .vfneVv _ _ _ _ _ => true
  | .vfltVv _ _ _ _ _ => true
  | .vfleVv _ _ _ _ _ => true
  | .vfunVv _ _ _ _ _ => true
  | .vfmergeVv _ _ _ _ => true
  | .vcmul _ _ _ _ _ => true
  | .vcmac _ _ _ _ _ => true
  | .vfwmaccVv _ _ _ _ _ => true
  | .vcvtup _ _ _ _ _ => true
  | .vcvtdn _ _ _ _ _ => true
  | .vcvtfi _ _ _ _ _ => true
  | .vcvtif _ _ _ _ _ => true
  | .vquant _ _ _ _ _ => true
  | .vdequant _ _ _ _ _ => true
  | .vbscaleVv _ _ _ _ _ => true
  | .vbamax _ _ _ _ => true
  | .vfsqrt _ _ _ _ => true
  | .vfrec _ _ _ _ => true
  | .vfrsqrt _ _ _ _ => true
  | .vfclass _ _ _ _ => true
  | .vfexp2 _ _ _ _ => true
  | .vflog2 _ _ _ _ => true
  | .vftanh _ _ _ _ => true
  | .vfsilu _ _ _ _ => true
  | .vfgelu _ _ _ _ => true
  | .vfsin _ _ _ _ => true
  | .vfcos _ _ _ _ => true
  | .vfabs _ _ _ _ => true
  | .vfneg _ _ _ _ => true
  | .vconj _ _ _ _ => true
  | .vfredsum _ _ _ _ => true
  | .vfredmax _ _ _ _ => true
  | .vfredmin _ _ _ _ => true
  | .vfredamax _ _ _ _ => true
  | .pfwd _ _ _ => true
  | .pinv _ _ _ => true
  | .pfwdc _ _ _ => true
  | .pinvc _ _ _ => true
  | .vretag _ _ _ => true
  | .vtagclr _ _ _ => true
  | .vfaddVf _ _ _ _ _ => true
  | .vfsubVf _ _ _ _ _ => true
  | .vfmulVf _ _ _ _ _ => true
  | .vfdivVf _ _ _ _ _ => true
  | .vfminVf _ _ _ _ _ => true
  | .vfmaxVf _ _ _ _ _ => true
  | .vfsgnjVf _ _ _ _ _ => true
  | .vfsgnjnVf _ _ _ _ _ => true
  | .vfsgnjxVf _ _ _ _ _ => true
  | .vfmaccVf _ _ _ _ _ => true
  | .vfnmaccVf _ _ _ _ _ => true
  | .vfmsacVf _ _ _ _ _ => true
  | .vfnmsacVf _ _ _ _ _ => true
  | .vfeqVf _ _ _ _ _ => true
  | .vfneVf _ _ _ _ _ => true
  | .vfltVf _ _ _ _ _ => true
  | .vfleVf _ _ _ _ _ => true
  | .vfunVf _ _ _ _ _ => true
  | .vfmergeVf _ _ _ _ => true
  | .vfwmaccVf _ _ _ _ _ => true
  | .vbscaleVf _ _ _ _ => true
  | .vld _ _ _ _ => true
  | .vldFe _ _ _ _ => true
  | .vldFec _ _ _ _ => true
  | .vldSc _ _ _ _ => true
  | .vst _ _ _ _ => true
  | .vstFe _ _ _ _ => true
  | .vstNt _ _ _ _ => true
  | .vstSc _ _ _ _ => true
  | .vlds _ _ _ _ _ => true
  | .vldsFe _ _ _ _ _ => true
  | .vsts _ _ _ _ _ => true
  | .vstsFe _ _ _ _ _ => true
  | .vldx _ _ _ _ _ => true
  | .vldxFe _ _ _ _ _ => true
  | .vstx _ _ _ _ _ => true
  | .vstxFe _ _ _ _ _ => true
  | .vbadd _ _ _ _ _ => true
  | .vbfadd _ _ _ _ _ => true
  | .vbfmax _ _ _ _ _ => true
  | .vbor _ _ _ _ _ => true
  | .vlock _ _ _ _ _ => true
  | .vunlock _ _ _ _ _ => true
  | .vfabget _ _ _ _ _ => true
  | .vfabput _ _ _ _ _ => true
  | .join => true
  | .nend => true
  | .meet _ => true
  | .yield => true
  | .bfree _ => true
  | .blim _ _ => true
  | .bptr _ _ => true
  | .feclr cls num => feclrNames cls num
  | .vfeclr _ => true
  | .barInit _ _ => true
  | .barExp _ _ _ _ => true
  | .barArr _ _ scope _ _ => scope.toNat ≤ 4
  | .barWait _ _ scope _ _ => scope.toNat ≤ 4
  | .vdrain => true
  | .fenceS kind scope => 1 ≤ kind.toNat && kind.toNat ≤ 3 && scope.toNat ≤ 4
  | .lpost _ _ _ => true
  | .tret => true
  | .ctxsave _ _ _ _ _ => true
  | .ctxload _ _ _ _ _ => true
  | .chold _ _ => true
  | .fabld _ _ _ => true
  | .fabst _ _ _ _ => true
  | .fabadd _ _ _ _ _ => true
  | .fabcas _ _ _ _ _ => true
  | .fabswp _ _ _ _ _ => true
  | .fabfl => true
  | .fabred _ _ _ _ => true
  | .fabrw _ _ _ => true
  | .cres _ _ => true
  | .halt => true
  | .scrub _ _ _ => true
  | .bslot _ _ _ => true
  | .loop _ off _ => 0 < off.toInt
  | .lbrk => true
  | .lnext => true
  | .vstrip _ => true
  | .fork _ => true
  | .vlset _ _ _ _ _ _ => true
  | .mtset rd rs1 _ => 1 ≤ rd.toNat && rd.toNat ≤ 29 && 1 ≤ rs1.toNat && rs1.toNat ≤ 29
  | .mwld _ fmt _ => fmt.toNat ≤ 16
  | .mgath _ _ _ => true
  | .mmac zd _ fmt _ => fmt.toNat ≤ 16 && !(pairFormat fmt && zd.toNat % 2 == 1)
  | .mmacz zd _ fmt _ => fmt.toNat ≤ 16 && !(pairFormat fmt && zd.toNat % 2 == 1)
  | .mzero _ => true
  | .mrd _ zs _ => zs.toNat ≤ 7
  | .mst _ _ _ => true
  | .mcode _ _ => true
  | .ystr _ _ _ => true
  | .yend _ => true
  | .yld _ _ _ _ => true
  | .yst _ _ _ _ => true
  | .yxfer _ _ _ _ => true
  | .ytile _ _ _ => true
  | .engineQueueEntry _ _ => true
  | .matrixQueueEntry _ => true
  | .waitSatisfied _ _ => true
  | .copyChunk _ _ => true
  | .copyCompletion _ _ => true
  | .streamReadAhead _ _ => true
  | .streamWriteOut _ _ => true
  | .preemptionHonoured _ => true
  | .yieldWindowExpiry _ => true
  | .managerEventEntry _ => true
  | .skeinWrite _ => true
  | .qtailWrite _ _ => true
  | .recordTake _ => true
  | .nodeDispatch _ _ _ => true
  | .nodeCompletion _ _ => true
  | .agingIntervalExpiry _ _ => true
  | .gangReservation _ => true
  | .qosExpiry _ => true
  | .holdGateWrite _ _ _ _ _ => true
  | .gateDrained _ _ => true
  | .coalescingTimerExpiry _ => true
  | .functionLevelReset _ => true
  | .scrubBlock _ => true
  | .cxlMemAccess _ _ _ _ => true
  | .ckill _ _ => true
  | .revoke _ _ => true
  | .evhubWrite _ _ => true
  | .cablemaskWrite _ _ => true
  | .gaugetabWrite _ _ => true
  | .keyGenerate _ => true
  | .keyDestroy _ => true
  | .vprogWrite _ _ => true
  | .registerWrite _ _ => true
  | .gaugeGrant _ _ _ => true
  | .thermalShutdown => true
  | .plimitSet _ => true
  | .fabricLoad _ _ => true
  | .fabricStore _ _ => true
  | .fabricFetchAdd _ _ => true
  | .fabricCompareAndSwap _ _ => true
  | .fabricSwap _ _ => true
  | .fabricContribution _ _ => true
  | .fabricIndexedGet _ _ => true
  | .fabricIndexedPut _ _ => true
  | .fabricAcknowledgementOnly _ _ => true
  | .fabricClose _ _ => true
  | .fabricReply _ _ => true
  | .retransmissionTimer _ => true
  | .deviceReset _ _ => true
  | .getVersion _ => true
  | .getCapabilities _ => true
  | .negotiateAlgorithms _ => true
  | .getDigests _ => true
  | .getCertificate _ => true
  | .challenge _ => true
  | .getMeasurements _ => true
  | .msiXVectorUnmask _ _ => true

end Sys2Proof
end

