-- ==== Sys2Proof/Decode.lean ====
section
/-! DEFINITION. Reading a 32-bit word as an instruction (R177-R190, R198 order 2), and writing an instruction as its word. -/

namespace Sys2Proof

/-- Why a word is no instruction; each is 0x01 under R198 order 2. -/
inductive DecodeError where
  /-- Bits [1:0] are not 0b11 (R177). -/
  | compressedSpace
  /-- Bits [4:0] are 0b11111 (R177). -/
  | longSpace
  /-- A major opcode that R177 does not list. -/
  | unlistedMajor
  /-- A funct, sub-operation, group, op3 or sub5 value that is not defined (R198). -/
  | undefinedFunct
  /-- A field the instruction does not use is not zero (R180). -/
  | unusedField
  /-- An operand field is out of its range (R198 order 2). -/
  | operandRange
  /-- The bytes do not hold a whole word. -/
  | truncated
  deriving DecidableEq, Repr

/-- Bits [hi:lo] of a word (R2). -/
def bits (w : BitVec 32) (hi lo : Nat) : BitVec (hi + 1 - lo) := w.extractLsb' lo (hi + 1 - lo)

/-- Major opcode Load (R177, R178). -/
def decodeLoad (w : BitVec 32) : Except DecodeError Instr :=
  match (bits w 14 12).toNat with
    | 0 => .ok (.lb (bits w 11 7) (bits w 19 15) (bits w 31 20))
    | 1 => .ok (.lh (bits w 11 7) (bits w 19 15) (bits w 31 20))
    | 2 => .ok (.lw (bits w 11 7) (bits w 19 15) (bits w 31 20))
    | 3 => .ok (.ld (bits w 11 7) (bits w 19 15) (bits w 31 20))
    | 4 => .ok (.lbu (bits w 11 7) (bits w 19 15) (bits w 31 20))
    | 5 => .ok (.lhu (bits w 11 7) (bits w 19 15) (bits w 31 20))
    | 6 => .ok (.lwu (bits w 11 7) (bits w 19 15) (bits w 31 20))
    | _ => .error .undefinedFunct

/-- Major opcode LoadFp (R177, R178). -/
def decodeLoadFp (w : BitVec 32) : Except DecodeError Instr :=
  if bits w 14 12 == 3#3 then .ok (.fld (bits w 11 7) (bits w 19 15) (bits w 31 20)) else .error .undefinedFunct

/-- Group g0 of custom-0 (R181). -/
noncomputable def decodeCustom0G0 (w : BitVec 32) : Except DecodeError Instr :=
  match (bits w 31 27).toNat with
    | 0 => if bits w 26 15 == 0#12 && bits w 11 7 == 0#5 then .ok (.join) else .error .unusedField
    | 1 => if bits w 26 15 == 0#12 && bits w 11 7 == 0#5 then .ok (.nend) else .error .unusedField
    | 2 => if bits w 26 20 == 0#7 && bits w 11 7 == 0#5 then .ok (.meet (bits w 19 15)) else .error .unusedField
    | 3 => if bits w 26 15 == 0#12 && bits w 11 7 == 0#5 then .ok (.yield) else .error .unusedField
    | 4 => if bits w 26 15 == 0#12 && bits w 11 11 == 0#1 then .ok (.bfree (bits w 10 7)) else .error .unusedField
    | 5 => if bits w 26 19 == 0#8 then .ok (.blim (bits w 11 7) (bits w 18 15)) else .error .unusedField
    | 6 => if bits w 26 19 == 0#8 then .ok (.bptr (bits w 11 7) (bits w 18 15)) else .error .unusedField
    | 7 => if bits w 26 25 == 0#2 && bits w 19 15 == 0#5 then .ok (.feclr (bits w 24 20) (bits w 11 7)) else .error .unusedField
    | 8 => if bits w 25 15 == 0#11 then .ok (.vfeclr (bits w 26 26 ++ bits w 11 7)) else .error .unusedField
    | 9 => if bits w 26 26 == 0#1 && bits w 24 20 == 0#5 && bits w 11 7 == 0#5 then .ok (.barInit (bits w 19 15) (bits w 25 25 == 1#1)) else .error .unusedField
    | 10 => if bits w 11 7 == 0#5 then .ok (.barExp (bits w 19 15) (bits w 24 20) (bits w 25 25 == 1#1) (bits w 26 26 == 1#1)) else .error .unusedField
    | 11 => .ok (.barArr (bits w 19 15) (bits w 24 20) (bits w 11 7) (bits w 25 25 == 1#1) (bits w 26 26 == 1#1))
    | 12 => .ok (.barWait (bits w 19 15) (bits w 24 20) (bits w 11 7) (bits w 25 25 == 1#1) (bits w 26 26 == 1#1))
    | 13 => if bits w 26 15 == 0#12 && bits w 11 7 == 0#5 then .ok (.vdrain) else .error .unusedField
    | 14 => if bits w 26 25 == 0#2 && bits w 11 7 == 0#5 then .ok (.fenceS (bits w 19 15) (bits w 24 20)) else .error .unusedField
    | 15 => if bits w 26 26 == 0#1 && bits w 24 20 == 0#5 then .ok (.lpost (bits w 11 7) (bits w 19 15) (bits w 25 25 == 1#1)) else .error .unusedField
    | 16 => if bits w 26 15 == 0#12 && bits w 11 7 == 0#5 then .ok (.tret) else .error .unusedField
    | 17 => .ok (.ctxsave (bits w 11 7) (bits w 19 15) (bits w 24 20) (bits w 25 25 == 1#1) (bits w 26 26 == 1#1))
    | 18 => .ok (.ctxload (bits w 11 7) (bits w 19 15) (bits w 24 20) (bits w 25 25 == 1#1) (bits w 26 26 == 1#1))
    | 19 => if bits w 26 26 == 0#1 && bits w 24 20 == 0#5 && bits w 11 7 == 0#5 then .ok (.chold (bits w 19 15) (bits w 25 25 == 1#1)) else .error .unusedField
    | 20 => if bits w 26 26 == 0#1 && bits w 24 20 == 0#5 then .ok (.fabld (bits w 11 7) (bits w 19 15) (bits w 25 25 == 1#1)) else .error .unusedField
    | 21 => if bits w 11 7 == 0#5 then .ok (.fabst (bits w 19 15) (bits w 24 20) (bits w 25 25 == 1#1) (bits w 26 26 == 1#1)) else .error .unusedField
    | 22 => .ok (.fabadd (bits w 11 7) (bits w 19 15) (bits w 24 20) (bits w 25 25 == 1#1) (bits w 26 26 == 1#1))
    | 23 => .ok (.fabcas (bits w 11 7) (bits w 19 15) (bits w 24 20) (bits w 25 25 == 1#1) (bits w 26 26 == 1#1))
    | 24 => .ok (.fabswp (bits w 11 7) (bits w 19 15) (bits w 24 20) (bits w 25 25 == 1#1) (bits w 26 26 == 1#1))
    | 25 => if bits w 26 15 == 0#12 && bits w 11 7 == 0#5 then .ok (.fabfl) else .error .unusedField
    | 26 => if bits w 11 7 == 0#5 then .ok (.fabred (bits w 19 15) (bits w 24 20) (bits w 25 25 == 1#1) (bits w 26 26 == 1#1)) else .error .unusedField
    | 27 => if bits w 26 26 == 0#1 && bits w 24 20 == 0#5 then .ok (.fabrw (bits w 11 7) (bits w 19 15) (bits w 25 25 == 1#1)) else .error .unusedField
    | 28 => if bits w 26 26 == 0#1 && bits w 24 20 == 0#5 && bits w 11 7 == 0#5 then .ok (.cres (bits w 19 15) (bits w 25 25 == 1#1)) else .error .unusedField
    | 29 => if bits w 26 15 == 0#12 && bits w 11 7 == 0#5 then .ok (.halt) else .error .unusedField
    | 30 => if bits w 26 26 == 0#1 && bits w 24 20 == 0#5 then .ok (.scrub (bits w 11 7) (bits w 19 15) (bits w 25 25 == 1#1)) else .error .unusedField
    | _ => .error .undefinedFunct

/-- Group g1 of custom-0 (R181). -/
noncomputable def decodeCustom0G1 (w : BitVec 32) : Except DecodeError Instr :=
  if bits w 11 11 == 0#1 then .ok (.bslot (bits w 10 7) (bits w 31 20) (bits w 19 15)) else .error .unusedField

/-- Group g2 of custom-0 (R181). -/
noncomputable def decodeCustom0G2 (w : BitVec 32) : Except DecodeError Instr :=
  match (bits w 11 7).toNat with
    | 0 => .ok (.loop (bits w 19 15) (bits w 31 21) (bits w 20 20 == 1#1))
    | 1 => if bits w 31 15 == 0#17 then .ok (.lbrk) else .error .unusedField
    | 2 => if bits w 31 15 == 0#17 then .ok (.lnext) else .error .unusedField
    | 3 => if bits w 20 15 == 0#6 then .ok (.vstrip (bits w 31 21)) else .error .unusedField
    | 4 => if bits w 20 15 == 0#6 then .ok (.fork (bits w 31 21)) else .error .unusedField
    | _ => .error .undefinedFunct

/-- Group g3 of custom-0 (R181). -/
noncomputable def decodeCustom0G3 (w : BitVec 32) : Except DecodeError Instr :=
  if bits w 31 28 == 0#4 then .ok (.vlset (bits w 11 7) (bits w 19 15) (bits w 24 21) (bits w 26 25) (bits w 27 27 == 1#1) (bits w 20 20 == 1#1)) else .error .unusedField

/-- Group g4 of custom-0 (R181). -/
noncomputable def decodeCustom0G4 (w : BitVec 32) : Except DecodeError Instr :=
  match (bits w 31 25).toNat with
    | 0 =>
      match (bits w 25 24).toNat with
        | 0 =>
          match (bits w 23 23).toNat with
            | 0 => .ok (.vld (bits w 20 20 ++ bits w 11 7) (bits w 19 15) (bits w 22 22 == 1#1) (bits w 21 21 == 1#1))
            | 1 => .ok (.vst (bits w 20 20 ++ bits w 11 7) (bits w 19 15) (bits w 22 22 == 1#1) (bits w 21 21 == 1#1))
            | _ => .error .undefinedFunct
        | 1 =>
          match (bits w 23 23).toNat with
            | 0 => .ok (.vldFe (bits w 20 20 ++ bits w 11 7) (bits w 19 15) (bits w 22 22 == 1#1) (bits w 21 21 == 1#1))
            | 1 => .ok (.vstFe (bits w 20 20 ++ bits w 11 7) (bits w 19 15) (bits w 22 22 == 1#1) (bits w 21 21 == 1#1))
            | _ => .error .undefinedFunct
        | _ => .error .undefinedFunct
    | 1 =>
      match (bits w 25 24).toNat with
        | 2 =>
          match (bits w 23 23).toNat with
            | 0 => .ok (.vldFec (bits w 20 20 ++ bits w 11 7) (bits w 19 15) (bits w 22 22 == 1#1) (bits w 21 21 == 1#1))
            | 1 => .ok (.vstNt (bits w 20 20 ++ bits w 11 7) (bits w 19 15) (bits w 22 22 == 1#1) (bits w 21 21 == 1#1))
            | _ => .error .undefinedFunct
        | 3 =>
          match (bits w 23 23).toNat with
            | 0 => .ok (.vldSc (bits w 20 20 ++ bits w 11 7) (bits w 19 15) (bits w 22 22 == 1#1) (bits w 21 21 == 1#1))
            | 1 => .ok (.vstSc (bits w 20 20 ++ bits w 11 7) (bits w 19 15) (bits w 22 22 == 1#1) (bits w 21 21 == 1#1))
            | _ => .error .undefinedFunct
        | _ => .error .undefinedFunct
    | _ => .error .undefinedFunct

/-- Group g5 of custom-0 (R181). -/
noncomputable def decodeCustom0G5 (w : BitVec 32) : Except DecodeError Instr :=
  match (bits w 31 29).toNat with
    | 0 => if bits w 25 25 == 0#1 then .ok (.vlds (bits w 26 26 ++ bits w 11 7) (bits w 19 15) (bits w 24 20) (bits w 28 28 == 1#1) (bits w 27 27 == 1#1)) else .error .unusedField
    | 1 => if bits w 25 25 == 0#1 then .ok (.vsts (bits w 26 26 ++ bits w 11 7) (bits w 19 15) (bits w 24 20) (bits w 28 28 == 1#1) (bits w 27 27 == 1#1)) else .error .unusedField
    | 2 => .ok (.vldx (bits w 26 26 ++ bits w 11 7) (bits w 19 15) (bits w 25 20) (bits w 28 28 == 1#1) (bits w 27 27 == 1#1))
    | 3 => .ok (.vstx (bits w 26 26 ++ bits w 11 7) (bits w 19 15) (bits w 25 20) (bits w 28 28 == 1#1) (bits w 27 27 == 1#1))
    | 4 => if bits w 25 25 == 0#1 then .ok (.vldsFe (bits w 26 26 ++ bits w 11 7) (bits w 19 15) (bits w 24 20) (bits w 28 28 == 1#1) (bits w 27 27 == 1#1)) else .error .unusedField
    | 5 => if bits w 25 25 == 0#1 then .ok (.vstsFe (bits w 26 26 ++ bits w 11 7) (bits w 19 15) (bits w 24 20) (bits w 28 28 == 1#1) (bits w 27 27 == 1#1)) else .error .unusedField
    | 6 => .ok (.vldxFe (bits w 26 26 ++ bits w 11 7) (bits w 19 15) (bits w 25 20) (bits w 28 28 == 1#1) (bits w 27 27 == 1#1))
    | 7 => .ok (.vstxFe (bits w 26 26 ++ bits w 11 7) (bits w 19 15) (bits w 25 20) (bits w 28 28 == 1#1) (bits w 27 27 == 1#1))
    | _ => .error .undefinedFunct

/-- Group g6 of custom-0 (R181). -/
noncomputable def decodeCustom0G6 (w : BitVec 32) : Except DecodeError Instr :=
  match (bits w 31 27).toNat with
    | 0 => if bits w 26 26 == 0#1 && bits w 24 20 == 0#5 then .ok (.mtset (bits w 11 7) (bits w 19 15) (bits w 25 25 == 1#1)) else .error .unusedField
    | 1 => if bits w 26 26 == 0#1 && bits w 11 7 == 0#5 then .ok (.mwld (bits w 19 15) (bits w 24 20) (bits w 25 25 == 1#1)) else .error .unusedField
    | 2 => if bits w 11 7 == 0#5 then .ok (.mgath (bits w 25 20) (bits w 19 15) (bits w 26 26 == 1#1)) else .error .unusedField
    | 3 => if bits w 26 26 == 0#1 && bits w 11 10 == 0#2 then .ok (.mmac (bits w 9 7) (bits w 19 15) (bits w 24 20) (bits w 25 25 == 1#1)) else .error .unusedField
    | 4 => if bits w 26 26 == 0#1 && bits w 11 10 == 0#2 then .ok (.mmacz (bits w 9 7) (bits w 19 15) (bits w 24 20) (bits w 25 25 == 1#1)) else .error .unusedField
    | 5 => if bits w 26 15 == 0#12 && bits w 11 10 == 0#2 then .ok (.mzero (bits w 9 7)) else .error .unusedField
    | 6 => if bits w 11 7 == 0#5 then .ok (.mrd (bits w 25 20) (bits w 19 15) (bits w 26 26 == 1#1)) else .error .unusedField
    | 7 => if bits w 26 26 == 0#1 && bits w 24 20 == 0#5 && bits w 11 10 == 0#2 then .ok (.mst (bits w 9 7) (bits w 19 15) (bits w 25 25 == 1#1)) else .error .unusedField
    | 8 => if bits w 26 26 == 0#1 && bits w 24 20 == 0#5 && bits w 11 7 == 0#5 then .ok (.mcode (bits w 19 15) (bits w 25 25 == 1#1)) else .error .unusedField
    | 9 => if bits w 11 7 == 0#5 then .ok (.ystr (bits w 25 20) (bits w 19 15) (bits w 26 26 == 1#1)) else .error .unusedField
    -- w of `yend` covers no register (R58, R284, R312; DEDUCED, log entry 65)
    | 10 => if bits w 19 15 == 0#5 && bits w 11 7 == 0#5 then .ok (.yend (bits w 25 20)) else .error .unusedField
    | 11 => .ok (.yld (bits w 11 7) (bits w 25 20) (bits w 19 15) (bits w 26 26 == 1#1))
    | 12 => .ok (.yst (bits w 11 7) (bits w 25 20) (bits w 19 15) (bits w 26 26 == 1#1))
    | 13 => .ok (.yxfer (bits w 11 7) (bits w 25 20) (bits w 19 15) (bits w 26 26 == 1#1))
    | 14 => if bits w 26 26 == 0#1 && bits w 24 20 == 0#5 then .ok (.ytile (bits w 11 7) (bits w 19 15) (bits w 25 25 == 1#1)) else .error .unusedField
    | _ => .error .undefinedFunct

/-- Group g7 of custom-0 (R181). -/
noncomputable def decodeCustom0G7 (w : BitVec 32) : Except DecodeError Instr :=
  match (bits w 31 29).toNat with
    | 0 => .ok (.vbadd (bits w 26 26 ++ bits w 11 7) (bits w 25 20) (bits w 19 15) (bits w 28 28 == 1#1) (bits w 27 27 == 1#1))
    | 1 => .ok (.vbfadd (bits w 26 26 ++ bits w 11 7) (bits w 25 20) (bits w 19 15) (bits w 28 28 == 1#1) (bits w 27 27 == 1#1))
    | 2 => .ok (.vbfmax (bits w 26 26 ++ bits w 11 7) (bits w 25 20) (bits w 19 15) (bits w 28 28 == 1#1) (bits w 27 27 == 1#1))
    | 3 => .ok (.vbor (bits w 26 26 ++ bits w 11 7) (bits w 25 20) (bits w 19 15) (bits w 28 28 == 1#1) (bits w 27 27 == 1#1))
    | 4 => .ok (.vlock (bits w 26 26 ++ bits w 11 7) (bits w 25 20) (bits w 19 15) (bits w 28 28 == 1#1) (bits w 27 27 == 1#1))
    | 5 => .ok (.vunlock (bits w 26 26 ++ bits w 11 7) (bits w 25 20) (bits w 19 15) (bits w 28 28 == 1#1) (bits w 27 27 == 1#1))
    | 6 => .ok (.vfabget (bits w 26 26 ++ bits w 11 7) (bits w 25 20) (bits w 19 15) (bits w 28 28 == 1#1) (bits w 27 27 == 1#1))
    | 7 => .ok (.vfabput (bits w 26 26 ++ bits w 11 7) (bits w 25 20) (bits w 19 15) (bits w 28 28 == 1#1) (bits w 27 27 == 1#1))
    | _ => .error .undefinedFunct

/-- Custom-0, selected by bits [14:12] (R181). -/
noncomputable def decodeCustom0 (w : BitVec 32) : Except DecodeError Instr :=
  match (bits w 14 12).toNat with
  | 0 => decodeCustom0G0 w
  | 1 => decodeCustom0G1 w
  | 2 => decodeCustom0G2 w
  | 3 => decodeCustom0G3 w
  | 4 => decodeCustom0G4 w
  | 5 => decodeCustom0G5 w
  | 6 => decodeCustom0G6 w
  | 7 => decodeCustom0G7 w
  | _ => .error .undefinedFunct

/-- Major opcode MiscMem (R177, R178). -/
def decodeMiscMem (w : BitVec 32) : Except DecodeError Instr :=
  if bits w 14 12 == 0#3 then .ok (.fence (bits w 31 28) (bits w 27 24) (bits w 23 20) (bits w 19 15) (bits w 11 7)) else .error .undefinedFunct

/-- Major opcode OpImm (R177, R178). -/
def decodeOpImm (w : BitVec 32) : Except DecodeError Instr :=
  match (bits w 14 12).toNat with
  | 0 => .ok (.addi (bits w 11 7) (bits w 19 15) (bits w 31 20))
  | 1 => if bits w 31 26 == 0#6 then .ok (.slli (bits w 11 7) (bits w 19 15) (bits w 25 20)) else .error .undefinedFunct
  | 2 => .ok (.slti (bits w 11 7) (bits w 19 15) (bits w 31 20))
  | 3 => .ok (.sltiu (bits w 11 7) (bits w 19 15) (bits w 31 20))
  | 4 => .ok (.xori (bits w 11 7) (bits w 19 15) (bits w 31 20))
  | 5 =>
    match (bits w 31 27).toNat with
      | 0 => if bits w 26 26 == 0#1 then .ok (.srli (bits w 11 7) (bits w 19 15) (bits w 25 20)) else .error .undefinedFunct
      | 8 => if bits w 26 26 == 0#1 then .ok (.srai (bits w 11 7) (bits w 19 15) (bits w 25 20)) else .error .undefinedFunct
      | _ => .error .undefinedFunct
  | 6 => .ok (.ori (bits w 11 7) (bits w 19 15) (bits w 31 20))
  | 7 => .ok (.andi (bits w 11 7) (bits w 19 15) (bits w 31 20))
  | _ => .error .undefinedFunct

/-- Major opcode Auipc (R177, R178). -/
def decodeAuipc (w : BitVec 32) : Except DecodeError Instr :=
  .ok (.auipc (bits w 11 7) (bits w 31 12))

/-- Major opcode OpImm32 (R177, R178). -/
def decodeOpImm32 (w : BitVec 32) : Except DecodeError Instr :=
  match (bits w 14 12).toNat with
  | 0 => .ok (.addiw (bits w 11 7) (bits w 19 15) (bits w 31 20))
  | 1 => if bits w 31 25 == 0#7 then .ok (.slliw (bits w 11 7) (bits w 19 15) (bits w 24 20)) else .error .undefinedFunct
  | 5 =>
    match (bits w 31 25).toNat with
      | 0 => .ok (.srliw (bits w 11 7) (bits w 19 15) (bits w 24 20))
      | 32 => .ok (.sraiw (bits w 11 7) (bits w 19 15) (bits w 24 20))
      | _ => .error .undefinedFunct
  | _ => .error .undefinedFunct

/-- Major opcode Store (R177, R178). -/
def decodeStore (w : BitVec 32) : Except DecodeError Instr :=
  match (bits w 14 12).toNat with
    | 0 => .ok (.sb (bits w 19 15) (bits w 24 20) (bits w 31 25 ++ bits w 11 7))
    | 1 => .ok (.sh (bits w 19 15) (bits w 24 20) (bits w 31 25 ++ bits w 11 7))
    | 2 => .ok (.sw (bits w 19 15) (bits w 24 20) (bits w 31 25 ++ bits w 11 7))
    | 3 => .ok (.sd (bits w 19 15) (bits w 24 20) (bits w 31 25 ++ bits w 11 7))
    | _ => .error .undefinedFunct

/-- Major opcode StoreFp (R177, R178). -/
def decodeStoreFp (w : BitVec 32) : Except DecodeError Instr :=
  if bits w 14 12 == 3#3 then .ok (.fsd (bits w 19 15) (bits w 24 20) (bits w 31 25 ++ bits w 11 7)) else .error .undefinedFunct

/-- Custom-1 with cls 0 (R184). -/
def decodeCustom1C0 (w : BitVec 32) : Except DecodeError Instr :=
  match (bits w 31 27).toNat with
    | 0 =>
      match (bits w 31 26).toNat with
        | 0 => .ok (.vaddVx (bits w 12 7) (bits w 23 18) (bits w 17 13) (bits w 25 25 == 1#1) (bits w 24 24 == 1#1))
        | 1 => .ok (.vsubVx (bits w 12 7) (bits w 23 18) (bits w 17 13) (bits w 25 25 == 1#1) (bits w 24 24 == 1#1))
        | _ => .error .undefinedFunct
    | 1 =>
      match (bits w 31 26).toNat with
        | 2 => .ok (.vmulVx (bits w 12 7) (bits w 23 18) (bits w 17 13) (bits w 25 25 == 1#1) (bits w 24 24 == 1#1))
        | 3 => .ok (.vmulhVx (bits w 12 7) (bits w 23 18) (bits w 17 13) (bits w 25 25 == 1#1) (bits w 24 24 == 1#1))
        | _ => .error .undefinedFunct
    | 2 =>
      match (bits w 31 26).toNat with
        | 4 => .ok (.vmulhuVx (bits w 12 7) (bits w 23 18) (bits w 17 13) (bits w 25 25 == 1#1) (bits w 24 24 == 1#1))
        | 5 => .ok (.vdivVx (bits w 12 7) (bits w 23 18) (bits w 17 13) (bits w 25 25 == 1#1) (bits w 24 24 == 1#1))
        | _ => .error .undefinedFunct
    | 3 =>
      match (bits w 31 26).toNat with
        | 6 => .ok (.vdivuVx (bits w 12 7) (bits w 23 18) (bits w 17 13) (bits w 25 25 == 1#1) (bits w 24 24 == 1#1))
        | 7 => .ok (.vremVx (bits w 12 7) (bits w 23 18) (bits w 17 13) (bits w 25 25 == 1#1) (bits w 24 24 == 1#1))
        | _ => .error .undefinedFunct
    | 4 =>
      match (bits w 31 26).toNat with
        | 8 => .ok (.vremuVx (bits w 12 7) (bits w 23 18) (bits w 17 13) (bits w 25 25 == 1#1) (bits w 24 24 == 1#1))
        | 9 => .ok (.vminVx (bits w 12 7) (bits w 23 18) (bits w 17 13) (bits w 25 25 == 1#1) (bits w 24 24 == 1#1))
        | _ => .error .undefinedFunct
    | 5 =>
      match (bits w 31 26).toNat with
        | 10 => .ok (.vminuVx (bits w 12 7) (bits w 23 18) (bits w 17 13) (bits w 25 25 == 1#1) (bits w 24 24 == 1#1))
        | 11 => .ok (.vmaxVx (bits w 12 7) (bits w 23 18) (bits w 17 13) (bits w 25 25 == 1#1) (bits w 24 24 == 1#1))
        | _ => .error .undefinedFunct
    | 6 =>
      match (bits w 31 26).toNat with
        | 12 => .ok (.vmaxuVx (bits w 12 7) (bits w 23 18) (bits w 17 13) (bits w 25 25 == 1#1) (bits w 24 24 == 1#1))
        | 13 => .ok (.vandVx (bits w 12 7) (bits w 23 18) (bits w 17 13) (bits w 25 25 == 1#1) (bits w 24 24 == 1#1))
        | _ => .error .undefinedFunct
    | 7 =>
      match (bits w 31 26).toNat with
        | 14 => .ok (.vorVx (bits w 12 7) (bits w 23 18) (bits w 17 13) (bits w 25 25 == 1#1) (bits w 24 24 == 1#1))
        | 15 => .ok (.vxorVx (bits w 12 7) (bits w 23 18) (bits w 17 13) (bits w 25 25 == 1#1) (bits w 24 24 == 1#1))
        | _ => .error .undefinedFunct
    | 8 =>
      match (bits w 31 26).toNat with
        | 16 => .ok (.vsllVx (bits w 12 7) (bits w 23 18) (bits w 17 13) (bits w 25 25 == 1#1) (bits w 24 24 == 1#1))
        | 17 => .ok (.vsrlVx (bits w 12 7) (bits w 23 18) (bits w 17 13) (bits w 25 25 == 1#1) (bits w 24 24 == 1#1))
        | _ => .error .undefinedFunct
    | 9 =>
      match (bits w 31 26).toNat with
        | 18 => .ok (.vsraVx (bits w 12 7) (bits w 23 18) (bits w 17 13) (bits w 25 25 == 1#1) (bits w 24 24 == 1#1))
        | 19 => .ok (.vsaddVx (bits w 12 7) (bits w 23 18) (bits w 17 13) (bits w 25 25 == 1#1) (bits w 24 24 == 1#1))
        | _ => .error .undefinedFunct
    | 10 =>
      match (bits w 31 26).toNat with
        | 20 => .ok (.vsadduVx (bits w 12 7) (bits w 23 18) (bits w 17 13) (bits w 25 25 == 1#1) (bits w 24 24 == 1#1))
        | 21 => .ok (.vssubVx (bits w 12 7) (bits w 23 18) (bits w 17 13) (bits w 25 25 == 1#1) (bits w 24 24 == 1#1))
        | _ => .error .undefinedFunct
    | 11 =>
      match (bits w 31 26).toNat with
        | 22 => .ok (.vssubuVx (bits w 12 7) (bits w 23 18) (bits w 17 13) (bits w 25 25 == 1#1) (bits w 24 24 == 1#1))
        | 23 => .ok (.vseqVx (bits w 12 7) (bits w 23 18) (bits w 17 13) (bits w 25 25 == 1#1) (bits w 24 24 == 1#1))
        | _ => .error .undefinedFunct
    | 12 =>
      match (bits w 31 26).toNat with
        | 24 => .ok (.vsneVx (bits w 12 7) (bits w 23 18) (bits w 17 13) (bits w 25 25 == 1#1) (bits w 24 24 == 1#1))
        | 25 => .ok (.vsltVx (bits w 12 7) (bits w 23 18) (bits w 17 13) (bits w 25 25 == 1#1) (bits w 24 24 == 1#1))
        | _ => .error .undefinedFunct
    | 13 =>
      match (bits w 31 26).toNat with
        | 26 => .ok (.vsltuVx (bits w 12 7) (bits w 23 18) (bits w 17 13) (bits w 25 25 == 1#1) (bits w 24 24 == 1#1))
        | 27 => .ok (.vsleVx (bits w 12 7) (bits w 23 18) (bits w 17 13) (bits w 25 25 == 1#1) (bits w 24 24 == 1#1))
        | _ => .error .undefinedFunct
    | 14 =>
      match (bits w 31 26).toNat with
        | 28 => .ok (.vsleuVx (bits w 12 7) (bits w 23 18) (bits w 17 13) (bits w 25 25 == 1#1) (bits w 24 24 == 1#1))
        | 29 => if bits w 24 24 == 1#1 then .ok (.vmergeVx (bits w 12 7) (bits w 23 18) (bits w 17 13) (bits w 25 25 == 1#1)) else .error .undefinedFunct
        | _ => .error .undefinedFunct
    | 15 =>
      match (bits w 31 26).toNat with
        | 30 => .ok (.vslideup (bits w 12 7) (bits w 23 18) (bits w 17 13) (bits w 25 25 == 1#1) (bits w 24 24 == 1#1))
        | 31 => .ok (.vslidedn (bits w 12 7) (bits w 23 18) (bits w 17 13) (bits w 25 25 == 1#1) (bits w 24 24 == 1#1))
        | _ => .error .undefinedFunct
    | _ => .error .undefinedFunct

/-- Custom-1 with cls 1 (R184). -/
noncomputable def decodeCustom1C1 (w : BitVec 32) : Except DecodeError Instr :=
  match (bits w 31 27).toNat with
    | 16 =>
      match (bits w 31 26).toNat with
        | 32 => .ok (.vfaddVf (bits w 12 7) (bits w 23 18) (bits w 17 13) (bits w 25 25 == 1#1) (bits w 24 24 == 1#1))
        | 33 => .ok (.vfsubVf (bits w 12 7) (bits w 23 18) (bits w 17 13) (bits w 25 25 == 1#1) (bits w 24 24 == 1#1))
        | _ => .error .undefinedFunct
    | 17 =>
      match (bits w 31 26).toNat with
        | 34 => .ok (.vfmulVf (bits w 12 7) (bits w 23 18) (bits w 17 13) (bits w 25 25 == 1#1) (bits w 24 24 == 1#1))
        | 35 => .ok (.vfdivVf (bits w 12 7) (bits w 23 18) (bits w 17 13) (bits w 25 25 == 1#1) (bits w 24 24 == 1#1))
        | _ => .error .undefinedFunct
    | 18 =>
      match (bits w 31 26).toNat with
        | 36 => .ok (.vfminVf (bits w 12 7) (bits w 23 18) (bits w 17 13) (bits w 25 25 == 1#1) (bits w 24 24 == 1#1))
        | 37 => .ok (.vfmaxVf (bits w 12 7) (bits w 23 18) (bits w 17 13) (bits w 25 25 == 1#1) (bits w 24 24 == 1#1))
        | _ => .error .undefinedFunct
    | 19 =>
      match (bits w 31 26).toNat with
        | 38 => .ok (.vfsgnjVf (bits w 12 7) (bits w 23 18) (bits w 17 13) (bits w 25 25 == 1#1) (bits w 24 24 == 1#1))
        | 39 => .ok (.vfsgnjnVf (bits w 12 7) (bits w 23 18) (bits w 17 13) (bits w 25 25 == 1#1) (bits w 24 24 == 1#1))
        | _ => .error .undefinedFunct
    | 20 =>
      match (bits w 31 26).toNat with
        | 40 => .ok (.vfsgnjxVf (bits w 12 7) (bits w 23 18) (bits w 17 13) (bits w 25 25 == 1#1) (bits w 24 24 == 1#1))
        | 41 => .ok (.vfmaccVf (bits w 12 7) (bits w 23 18) (bits w 17 13) (bits w 25 25 == 1#1) (bits w 24 24 == 1#1))
        | _ => .error .undefinedFunct
    | 21 =>
      match (bits w 31 26).toNat with
        | 42 => .ok (.vfnmaccVf (bits w 12 7) (bits w 23 18) (bits w 17 13) (bits w 25 25 == 1#1) (bits w 24 24 == 1#1))
        | 43 => .ok (.vfmsacVf (bits w 12 7) (bits w 23 18) (bits w 17 13) (bits w 25 25 == 1#1) (bits w 24 24 == 1#1))
        | _ => .error .undefinedFunct
    | 22 =>
      match (bits w 31 26).toNat with
        | 44 => .ok (.vfnmsacVf (bits w 12 7) (bits w 23 18) (bits w 17 13) (bits w 25 25 == 1#1) (bits w 24 24 == 1#1))
        | 45 => .ok (.vfeqVf (bits w 12 7) (bits w 23 18) (bits w 17 13) (bits w 25 25 == 1#1) (bits w 24 24 == 1#1))
        | _ => .error .undefinedFunct
    | 23 =>
      match (bits w 31 26).toNat with
        | 46 => .ok (.vfneVf (bits w 12 7) (bits w 23 18) (bits w 17 13) (bits w 25 25 == 1#1) (bits w 24 24 == 1#1))
        | 47 => .ok (.vfltVf (bits w 12 7) (bits w 23 18) (bits w 17 13) (bits w 25 25 == 1#1) (bits w 24 24 == 1#1))
        | _ => .error .undefinedFunct
    | 24 =>
      match (bits w 31 26).toNat with
        | 48 => .ok (.vfleVf (bits w 12 7) (bits w 23 18) (bits w 17 13) (bits w 25 25 == 1#1) (bits w 24 24 == 1#1))
        | 49 => .ok (.vfunVf (bits w 12 7) (bits w 23 18) (bits w 17 13) (bits w 25 25 == 1#1) (bits w 24 24 == 1#1))
        | _ => .error .undefinedFunct
    | 25 => if bits w 26 26 == 0#1 && bits w 24 24 == 1#1 then .ok (.vfmergeVf (bits w 12 7) (bits w 23 18) (bits w 17 13) (bits w 25 25 == 1#1)) else .error .undefinedFunct
    | 26 => if bits w 26 26 == 1#1 then .ok (.vfwmaccVf (bits w 12 7) (bits w 23 18) (bits w 17 13) (bits w 25 25 == 1#1) (bits w 24 24 == 1#1)) else .error .undefinedFunct
    | 30 => if bits w 26 26 == 0#1 && bits w 24 24 == 0#1 then .ok (.vbscaleVf (bits w 12 7) (bits w 23 18) (bits w 17 13) (bits w 25 25 == 1#1)) else .error .unusedField
    | _ => .error .undefinedFunct

/-- Custom-1, VX (R184). -/
noncomputable def decodeCustom1 (w : BitVec 32) : Except DecodeError Instr :=
  if bits w 31 31 == 1#1 then decodeCustom1C1 w else decodeCustom1C0 w

/-- Major opcode Amo (R177, R178). -/
def decodeAmo (w : BitVec 32) : Except DecodeError Instr :=
  match (bits w 14 12).toNat with
    | 2 =>
      match (bits w 31 27).toNat with
        | 0 => .ok (.amoaddW (bits w 26 26 == 1#1) (bits w 25 25 == 1#1) (bits w 11 7) (bits w 19 15) (bits w 24 20))
        | 1 => .ok (.amoswapW (bits w 26 26 == 1#1) (bits w 25 25 == 1#1) (bits w 11 7) (bits w 19 15) (bits w 24 20))
        | 2 => if bits w 24 20 == 0#5 then .ok (.lrW (bits w 26 26 == 1#1) (bits w 25 25 == 1#1) (bits w 11 7) (bits w 19 15)) else .error .undefinedFunct
        | 3 => .ok (.scW (bits w 26 26 == 1#1) (bits w 25 25 == 1#1) (bits w 11 7) (bits w 19 15) (bits w 24 20))
        | 4 => .ok (.amoxorW (bits w 26 26 == 1#1) (bits w 25 25 == 1#1) (bits w 11 7) (bits w 19 15) (bits w 24 20))
        | 8 => .ok (.amoorW (bits w 26 26 == 1#1) (bits w 25 25 == 1#1) (bits w 11 7) (bits w 19 15) (bits w 24 20))
        | 12 => .ok (.amoandW (bits w 26 26 == 1#1) (bits w 25 25 == 1#1) (bits w 11 7) (bits w 19 15) (bits w 24 20))
        | 16 => .ok (.amominW (bits w 26 26 == 1#1) (bits w 25 25 == 1#1) (bits w 11 7) (bits w 19 15) (bits w 24 20))
        | 20 => .ok (.amomaxW (bits w 26 26 == 1#1) (bits w 25 25 == 1#1) (bits w 11 7) (bits w 19 15) (bits w 24 20))
        | 24 => .ok (.amominuW (bits w 26 26 == 1#1) (bits w 25 25 == 1#1) (bits w 11 7) (bits w 19 15) (bits w 24 20))
        | 28 => .ok (.amomaxuW (bits w 26 26 == 1#1) (bits w 25 25 == 1#1) (bits w 11 7) (bits w 19 15) (bits w 24 20))
        | _ => .error .undefinedFunct
    | 3 =>
      match (bits w 31 27).toNat with
        | 0 => .ok (.amoaddD (bits w 26 26 == 1#1) (bits w 25 25 == 1#1) (bits w 11 7) (bits w 19 15) (bits w 24 20))
        | 1 => .ok (.amoswapD (bits w 26 26 == 1#1) (bits w 25 25 == 1#1) (bits w 11 7) (bits w 19 15) (bits w 24 20))
        | 2 => if bits w 24 20 == 0#5 then .ok (.lrD (bits w 26 26 == 1#1) (bits w 25 25 == 1#1) (bits w 11 7) (bits w 19 15)) else .error .undefinedFunct
        | 3 => .ok (.scD (bits w 26 26 == 1#1) (bits w 25 25 == 1#1) (bits w 11 7) (bits w 19 15) (bits w 24 20))
        | 4 => .ok (.amoxorD (bits w 26 26 == 1#1) (bits w 25 25 == 1#1) (bits w 11 7) (bits w 19 15) (bits w 24 20))
        | 8 => .ok (.amoorD (bits w 26 26 == 1#1) (bits w 25 25 == 1#1) (bits w 11 7) (bits w 19 15) (bits w 24 20))
        | 12 => .ok (.amoandD (bits w 26 26 == 1#1) (bits w 25 25 == 1#1) (bits w 11 7) (bits w 19 15) (bits w 24 20))
        | 16 => .ok (.amominD (bits w 26 26 == 1#1) (bits w 25 25 == 1#1) (bits w 11 7) (bits w 19 15) (bits w 24 20))
        | 20 => .ok (.amomaxD (bits w 26 26 == 1#1) (bits w 25 25 == 1#1) (bits w 11 7) (bits w 19 15) (bits w 24 20))
        | 24 => .ok (.amominuD (bits w 26 26 == 1#1) (bits w 25 25 == 1#1) (bits w 11 7) (bits w 19 15) (bits w 24 20))
        | 28 => .ok (.amomaxuD (bits w 26 26 == 1#1) (bits w 25 25 == 1#1) (bits w 11 7) (bits w 19 15) (bits w 24 20))
        | _ => .error .undefinedFunct
    | _ => .error .undefinedFunct

/-- Major opcode Op (R177, R178). -/
def decodeOp (w : BitVec 32) : Except DecodeError Instr :=
  match (bits w 14 12).toNat with
    | 0 =>
      match (bits w 31 25).toNat with
        | 0 => .ok (.add (bits w 11 7) (bits w 19 15) (bits w 24 20))
        | 1 => .ok (.mul (bits w 11 7) (bits w 19 15) (bits w 24 20))
        | 32 => .ok (.sub (bits w 11 7) (bits w 19 15) (bits w 24 20))
        | _ => .error .undefinedFunct
    | 1 =>
      match (bits w 31 25).toNat with
        | 0 => .ok (.sll (bits w 11 7) (bits w 19 15) (bits w 24 20))
        | 1 => .ok (.mulh (bits w 11 7) (bits w 19 15) (bits w 24 20))
        | _ => .error .undefinedFunct
    | 2 =>
      match (bits w 31 25).toNat with
        | 0 => .ok (.slt (bits w 11 7) (bits w 19 15) (bits w 24 20))
        | 1 => .ok (.mulhsu (bits w 11 7) (bits w 19 15) (bits w 24 20))
        | _ => .error .undefinedFunct
    | 3 =>
      match (bits w 31 25).toNat with
        | 0 => .ok (.sltu (bits w 11 7) (bits w 19 15) (bits w 24 20))
        | 1 => .ok (.mulhu (bits w 11 7) (bits w 19 15) (bits w 24 20))
        | _ => .error .undefinedFunct
    | 4 =>
      match (bits w 31 25).toNat with
        | 0 => .ok (.xor (bits w 11 7) (bits w 19 15) (bits w 24 20))
        | 1 => .ok (.div (bits w 11 7) (bits w 19 15) (bits w 24 20))
        | _ => .error .undefinedFunct
    | 5 =>
      match (bits w 31 25).toNat with
        | 0 => .ok (.srl (bits w 11 7) (bits w 19 15) (bits w 24 20))
        | 1 => .ok (.divu (bits w 11 7) (bits w 19 15) (bits w 24 20))
        | 32 => .ok (.sra (bits w 11 7) (bits w 19 15) (bits w 24 20))
        | _ => .error .undefinedFunct
    | 6 =>
      match (bits w 31 25).toNat with
        | 0 => .ok (.or (bits w 11 7) (bits w 19 15) (bits w 24 20))
        | 1 => .ok (.rem (bits w 11 7) (bits w 19 15) (bits w 24 20))
        | _ => .error .undefinedFunct
    | 7 =>
      match (bits w 31 25).toNat with
        | 0 => .ok (.and (bits w 11 7) (bits w 19 15) (bits w 24 20))
        | 1 => .ok (.remu (bits w 11 7) (bits w 19 15) (bits w 24 20))
        | _ => .error .undefinedFunct
    | _ => .error .undefinedFunct

/-- Major opcode Lui (R177, R178). -/
def decodeLui (w : BitVec 32) : Except DecodeError Instr :=
  .ok (.lui (bits w 11 7) (bits w 31 12))

/-- Major opcode Op32 (R177, R178). -/
def decodeOp32 (w : BitVec 32) : Except DecodeError Instr :=
  match (bits w 14 12).toNat with
    | 0 =>
      match (bits w 31 25).toNat with
        | 0 => .ok (.addw (bits w 11 7) (bits w 19 15) (bits w 24 20))
        | 1 => .ok (.mulw (bits w 11 7) (bits w 19 15) (bits w 24 20))
        | 32 => .ok (.subw (bits w 11 7) (bits w 19 15) (bits w 24 20))
        | _ => .error .undefinedFunct
    | 1 => if bits w 31 25 == 0#7 then .ok (.sllw (bits w 11 7) (bits w 19 15) (bits w 24 20)) else .error .undefinedFunct
    | 4 => if bits w 31 25 == 1#7 then .ok (.divw (bits w 11 7) (bits w 19 15) (bits w 24 20)) else .error .undefinedFunct
    | 5 =>
      match (bits w 31 25).toNat with
        | 0 => .ok (.srlw (bits w 11 7) (bits w 19 15) (bits w 24 20))
        | 1 => .ok (.divuw (bits w 11 7) (bits w 19 15) (bits w 24 20))
        | 32 => .ok (.sraw (bits w 11 7) (bits w 19 15) (bits w 24 20))
        | _ => .error .undefinedFunct
    | 6 => if bits w 31 25 == 1#7 then .ok (.remw (bits w 11 7) (bits w 19 15) (bits w 24 20)) else .error .undefinedFunct
    | 7 => if bits w 31 25 == 1#7 then .ok (.remuw (bits w 11 7) (bits w 19 15) (bits w 24 20)) else .error .undefinedFunct
    | _ => .error .undefinedFunct

/-- Major opcode Madd (R177, R178). -/
def decodeMadd (w : BitVec 32) : Except DecodeError Instr :=
  if bits w 26 25 == 1#2 then .ok (.fmaddD (bits w 11 7) (bits w 19 15) (bits w 24 20) (bits w 31 27) (bits w 14 12)) else .error .undefinedFunct

/-- Major opcode Msub (R177, R178). -/
def decodeMsub (w : BitVec 32) : Except DecodeError Instr :=
  if bits w 26 25 == 1#2 then .ok (.fmsubD (bits w 11 7) (bits w 19 15) (bits w 24 20) (bits w 31 27) (bits w 14 12)) else .error .undefinedFunct

/-- Major opcode Nmsub (R177, R178). -/
def decodeNmsub (w : BitVec 32) : Except DecodeError Instr :=
  if bits w 26 25 == 1#2 then .ok (.fnmsubD (bits w 11 7) (bits w 19 15) (bits w 24 20) (bits w 31 27) (bits w 14 12)) else .error .undefinedFunct

/-- Major opcode Nmadd (R177, R178). -/
def decodeNmadd (w : BitVec 32) : Except DecodeError Instr :=
  if bits w 26 25 == 1#2 then .ok (.fnmaddD (bits w 11 7) (bits w 19 15) (bits w 24 20) (bits w 31 27) (bits w 14 12)) else .error .undefinedFunct

/-- Major opcode OpFp (R177, R178). -/
def decodeOpFp (w : BitVec 32) : Except DecodeError Instr :=
  match (bits w 31 25).toNat with
  | 1 => .ok (.faddD (bits w 11 7) (bits w 19 15) (bits w 24 20) (bits w 14 12))
  | 5 => .ok (.fsubD (bits w 11 7) (bits w 19 15) (bits w 24 20) (bits w 14 12))
  | 9 => .ok (.fmulD (bits w 11 7) (bits w 19 15) (bits w 24 20) (bits w 14 12))
  | 13 => .ok (.fdivD (bits w 11 7) (bits w 19 15) (bits w 24 20) (bits w 14 12))
  | 17 =>
    match (bits w 14 12).toNat with
      | 0 => .ok (.fsgnjD (bits w 11 7) (bits w 19 15) (bits w 24 20))
      | 1 => .ok (.fsgnjnD (bits w 11 7) (bits w 19 15) (bits w 24 20))
      | 2 => .ok (.fsgnjxD (bits w 11 7) (bits w 19 15) (bits w 24 20))
      | _ => .error .undefinedFunct
  | 21 =>
    match (bits w 14 12).toNat with
      | 0 => .ok (.fminD (bits w 11 7) (bits w 19 15) (bits w 24 20))
      | 1 => .ok (.fmaxD (bits w 11 7) (bits w 19 15) (bits w 24 20))
      | _ => .error .undefinedFunct
  | 45 => if bits w 24 20 == 0#5 then .ok (.fsqrtD (bits w 11 7) (bits w 19 15) (bits w 14 12)) else .error .undefinedFunct
  | 81 =>
    match (bits w 14 12).toNat with
      | 0 => .ok (.fleD (bits w 11 7) (bits w 19 15) (bits w 24 20))
      | 1 => .ok (.fltD (bits w 11 7) (bits w 19 15) (bits w 24 20))
      | 2 => .ok (.feqD (bits w 11 7) (bits w 19 15) (bits w 24 20))
      | _ => .error .undefinedFunct
  | 97 =>
    match (bits w 24 20).toNat with
      | 0 => .ok (.fcvtWD (bits w 11 7) (bits w 19 15) (bits w 14 12))
      | 1 => .ok (.fcvtWuD (bits w 11 7) (bits w 19 15) (bits w 14 12))
      | 2 => .ok (.fcvtLD (bits w 11 7) (bits w 19 15) (bits w 14 12))
      | 3 => .ok (.fcvtLuD (bits w 11 7) (bits w 19 15) (bits w 14 12))
      | _ => .error .undefinedFunct
  | 105 =>
    match (bits w 24 20).toNat with
      | 0 => .ok (.fcvtDW (bits w 11 7) (bits w 19 15) (bits w 14 12))
      | 1 => .ok (.fcvtDWu (bits w 11 7) (bits w 19 15) (bits w 14 12))
      | 2 => .ok (.fcvtDL (bits w 11 7) (bits w 19 15) (bits w 14 12))
      | 3 => .ok (.fcvtDLu (bits w 11 7) (bits w 19 15) (bits w 14 12))
      | _ => .error .undefinedFunct
  | 113 =>
    match (bits w 14 12).toNat with
      | 0 => if bits w 24 20 == 0#5 then .ok (.fmvXD (bits w 11 7) (bits w 19 15)) else .error .undefinedFunct
      | 1 => if bits w 24 20 == 0#5 then .ok (.fclassD (bits w 11 7) (bits w 19 15)) else .error .undefinedFunct
      | _ => .error .undefinedFunct
  | 121 => if bits w 24 20 == 0#5 && bits w 14 12 == 0#3 then .ok (.fmvDX (bits w 11 7) (bits w 19 15)) else .error .undefinedFunct
  | _ => .error .undefinedFunct

/-- Sub-operations of Custom2 in the vs1 field (R182, R183). -/
def decodeCustom2Sub (w : BitVec 32) : Except DecodeError Instr :=
  match (bits w 18 13).toNat with
    | 0 => .ok (.vmv (bits w 12 7) (bits w 24 19) (bits w 26 26 == 1#1) (bits w 25 25 == 1#1))
    | 1 => if bits w 24 19 == 0#6 then .ok (.vid (bits w 12 7) (bits w 26 26 == 1#1) (bits w 25 25 == 1#1)) else .error .unusedField
    | 2 => .ok (.viota (bits w 12 7) (bits w 24 19) (bits w 26 26 == 1#1) (bits w 25 25 == 1#1))
    | 3 => if bits w 25 25 == 1#1 then .ok (.vcompress (bits w 12 7) (bits w 24 19) (bits w 26 26 == 1#1)) else .error .undefinedFunct
    | 4 => .ok (.vredsum (bits w 12 7) (bits w 24 19) (bits w 26 26 == 1#1) (bits w 25 25 == 1#1))
    | 5 => .ok (.vredmin (bits w 12 7) (bits w 24 19) (bits w 26 26 == 1#1) (bits w 25 25 == 1#1))
    | 6 => .ok (.vredminu (bits w 12 7) (bits w 24 19) (bits w 26 26 == 1#1) (bits w 25 25 == 1#1))
    | 7 => .ok (.vredmax (bits w 12 7) (bits w 24 19) (bits w 26 26 == 1#1) (bits w 25 25 == 1#1))
    | 8 => .ok (.vredmaxu (bits w 12 7) (bits w 24 19) (bits w 26 26 == 1#1) (bits w 25 25 == 1#1))
    | 9 => .ok (.vredand (bits w 12 7) (bits w 24 19) (bits w 26 26 == 1#1) (bits w 25 25 == 1#1))
    | 10 => .ok (.vredor (bits w 12 7) (bits w 24 19) (bits w 26 26 == 1#1) (bits w 25 25 == 1#1))
    | 11 => .ok (.vredxor (bits w 12 7) (bits w 24 19) (bits w 26 26 == 1#1) (bits w 25 25 == 1#1))
    | 12 => .ok (.vmpopc (bits w 12 7) (bits w 24 19) (bits w 26 26 == 1#1) (bits w 25 25 == 1#1))
    | 13 => .ok (.vmfirst (bits w 12 7) (bits w 24 19) (bits w 26 26 == 1#1) (bits w 25 25 == 1#1))
    | 14 => .ok (.vabs (bits w 12 7) (bits w 24 19) (bits w 26 26 == 1#1) (bits w 25 25 == 1#1))
    | 15 => .ok (.vneg (bits w 12 7) (bits w 24 19) (bits w 26 26 == 1#1) (bits w 25 25 == 1#1))
    | 16 => .ok (.vnot (bits w 12 7) (bits w 24 19) (bits w 26 26 == 1#1) (bits w 25 25 == 1#1))
    | 17 => .ok (.vclz (bits w 12 7) (bits w 24 19) (bits w 26 26 == 1#1) (bits w 25 25 == 1#1))
    | 18 => .ok (.vpopcnt (bits w 12 7) (bits w 24 19) (bits w 26 26 == 1#1) (bits w 25 25 == 1#1))
    | 19 => .ok (.vsext (bits w 12 7) (bits w 24 19) (bits w 26 26 == 1#1) (bits w 25 25 == 1#1))
    | 20 => .ok (.vzext (bits w 12 7) (bits w 24 19) (bits w 26 26 == 1#1) (bits w 25 25 == 1#1))
    | 21 => .ok (.vnclip (bits w 12 7) (bits w 24 19) (bits w 26 26 == 1#1) (bits w 25 25 == 1#1))
    | 22 => .ok (.vnclipu (bits w 12 7) (bits w 24 19) (bits w 26 26 == 1#1) (bits w 25 25 == 1#1))
    | _ => .error .undefinedFunct

/-- Major opcode Custom2 (R177). -/
def decodeCustom2 (w : BitVec 32) : Except DecodeError Instr :=
  match (bits w 31 27).toNat with
  | 0 => .ok (.vaddVv (bits w 12 7) (bits w 24 19) (bits w 18 13) (bits w 26 26 == 1#1) (bits w 25 25 == 1#1))
  | 1 => .ok (.vsubVv (bits w 12 7) (bits w 24 19) (bits w 18 13) (bits w 26 26 == 1#1) (bits w 25 25 == 1#1))
  | 2 => .ok (.vmulVv (bits w 12 7) (bits w 24 19) (bits w 18 13) (bits w 26 26 == 1#1) (bits w 25 25 == 1#1))
  | 3 => .ok (.vmulhVv (bits w 12 7) (bits w 24 19) (bits w 18 13) (bits w 26 26 == 1#1) (bits w 25 25 == 1#1))
  | 4 => .ok (.vmulhuVv (bits w 12 7) (bits w 24 19) (bits w 18 13) (bits w 26 26 == 1#1) (bits w 25 25 == 1#1))
  | 5 => .ok (.vdivVv (bits w 12 7) (bits w 24 19) (bits w 18 13) (bits w 26 26 == 1#1) (bits w 25 25 == 1#1))
  | 6 => .ok (.vdivuVv (bits w 12 7) (bits w 24 19) (bits w 18 13) (bits w 26 26 == 1#1) (bits w 25 25 == 1#1))
  | 7 => .ok (.vremVv (bits w 12 7) (bits w 24 19) (bits w 18 13) (bits w 26 26 == 1#1) (bits w 25 25 == 1#1))
  | 8 => .ok (.vremuVv (bits w 12 7) (bits w 24 19) (bits w 18 13) (bits w 26 26 == 1#1) (bits w 25 25 == 1#1))
  | 9 => .ok (.vminVv (bits w 12 7) (bits w 24 19) (bits w 18 13) (bits w 26 26 == 1#1) (bits w 25 25 == 1#1))
  | 10 => .ok (.vminuVv (bits w 12 7) (bits w 24 19) (bits w 18 13) (bits w 26 26 == 1#1) (bits w 25 25 == 1#1))
  | 11 => .ok (.vmaxVv (bits w 12 7) (bits w 24 19) (bits w 18 13) (bits w 26 26 == 1#1) (bits w 25 25 == 1#1))
  | 12 => .ok (.vmaxuVv (bits w 12 7) (bits w 24 19) (bits w 18 13) (bits w 26 26 == 1#1) (bits w 25 25 == 1#1))
  | 13 => .ok (.vandVv (bits w 12 7) (bits w 24 19) (bits w 18 13) (bits w 26 26 == 1#1) (bits w 25 25 == 1#1))
  | 14 => .ok (.vorVv (bits w 12 7) (bits w 24 19) (bits w 18 13) (bits w 26 26 == 1#1) (bits w 25 25 == 1#1))
  | 15 => .ok (.vxorVv (bits w 12 7) (bits w 24 19) (bits w 18 13) (bits w 26 26 == 1#1) (bits w 25 25 == 1#1))
  | 16 => .ok (.vsllVv (bits w 12 7) (bits w 24 19) (bits w 18 13) (bits w 26 26 == 1#1) (bits w 25 25 == 1#1))
  | 17 => .ok (.vsrlVv (bits w 12 7) (bits w 24 19) (bits w 18 13) (bits w 26 26 == 1#1) (bits w 25 25 == 1#1))
  | 18 => .ok (.vsraVv (bits w 12 7) (bits w 24 19) (bits w 18 13) (bits w 26 26 == 1#1) (bits w 25 25 == 1#1))
  | 19 => .ok (.vsaddVv (bits w 12 7) (bits w 24 19) (bits w 18 13) (bits w 26 26 == 1#1) (bits w 25 25 == 1#1))
  | 20 => .ok (.vsadduVv (bits w 12 7) (bits w 24 19) (bits w 18 13) (bits w 26 26 == 1#1) (bits w 25 25 == 1#1))
  | 21 => .ok (.vssubVv (bits w 12 7) (bits w 24 19) (bits w 18 13) (bits w 26 26 == 1#1) (bits w 25 25 == 1#1))
  | 22 => .ok (.vssubuVv (bits w 12 7) (bits w 24 19) (bits w 18 13) (bits w 26 26 == 1#1) (bits w 25 25 == 1#1))
  | 23 => .ok (.vseqVv (bits w 12 7) (bits w 24 19) (bits w 18 13) (bits w 26 26 == 1#1) (bits w 25 25 == 1#1))
  | 24 => .ok (.vsneVv (bits w 12 7) (bits w 24 19) (bits w 18 13) (bits w 26 26 == 1#1) (bits w 25 25 == 1#1))
  | 25 => .ok (.vsltVv (bits w 12 7) (bits w 24 19) (bits w 18 13) (bits w 26 26 == 1#1) (bits w 25 25 == 1#1))
  | 26 => .ok (.vsltuVv (bits w 12 7) (bits w 24 19) (bits w 18 13) (bits w 26 26 == 1#1) (bits w 25 25 == 1#1))
  | 27 => .ok (.vsleVv (bits w 12 7) (bits w 24 19) (bits w 18 13) (bits w 26 26 == 1#1) (bits w 25 25 == 1#1))
  | 28 => .ok (.vsleuVv (bits w 12 7) (bits w 24 19) (bits w 18 13) (bits w 26 26 == 1#1) (bits w 25 25 == 1#1))
  | 29 => if bits w 25 25 == 1#1 then .ok (.vmergeVv (bits w 12 7) (bits w 24 19) (bits w 18 13) (bits w 26 26 == 1#1)) else .error .undefinedFunct
  | 30 => .ok (.vperm (bits w 12 7) (bits w 24 19) (bits w 18 13) (bits w 26 26 == 1#1) (bits w 25 25 == 1#1))
  | 31 => decodeCustom2Sub w
  | _ => .error .undefinedFunct

/-- Major opcode Branch (R177, R178). -/
def decodeBranch (w : BitVec 32) : Except DecodeError Instr :=
  match (bits w 14 12).toNat with
    | 0 => .ok (.beq (bits w 19 15) (bits w 24 20) (bits w 31 31 ++ bits w 7 7 ++ bits w 30 25 ++ bits w 11 8))
    | 1 => .ok (.bne (bits w 19 15) (bits w 24 20) (bits w 31 31 ++ bits w 7 7 ++ bits w 30 25 ++ bits w 11 8))
    | 4 => .ok (.blt (bits w 19 15) (bits w 24 20) (bits w 31 31 ++ bits w 7 7 ++ bits w 30 25 ++ bits w 11 8))
    | 5 => .ok (.bge (bits w 19 15) (bits w 24 20) (bits w 31 31 ++ bits w 7 7 ++ bits w 30 25 ++ bits w 11 8))
    | 6 => .ok (.bltu (bits w 19 15) (bits w 24 20) (bits w 31 31 ++ bits w 7 7 ++ bits w 30 25 ++ bits w 11 8))
    | 7 => .ok (.bgeu (bits w 19 15) (bits w 24 20) (bits w 31 31 ++ bits w 7 7 ++ bits w 30 25 ++ bits w 11 8))
    | _ => .error .undefinedFunct

/-- Major opcode Jalr (R177, R178). -/
def decodeJalr (w : BitVec 32) : Except DecodeError Instr :=
  if bits w 14 12 == 0#3 then .ok (.jalr (bits w 11 7) (bits w 19 15) (bits w 31 20)) else .error .undefinedFunct

/-- Major opcode Jal (R177, R178). -/
def decodeJal (w : BitVec 32) : Except DecodeError Instr :=
  .ok (.jal (bits w 11 7) (bits w 31 31 ++ bits w 19 12 ++ bits w 20 20 ++ bits w 30 21))

/-- Major opcode System (R177, R178). -/
def decodeSystem (w : BitVec 32) : Except DecodeError Instr :=
  match (bits w 14 12).toNat with
  | 0 =>
    match (bits w 31 7).toNat with
    | 0 => .ok .ecall
    | 8192 => .ok .ebreak
    | _ => .error .undefinedFunct
  | 1 => .ok (.csrrw (bits w 11 7) (bits w 19 15) (bits w 31 20))
  | 2 => .ok (.csrrs (bits w 11 7) (bits w 19 15) (bits w 31 20))
  | 3 => .ok (.csrrc (bits w 11 7) (bits w 19 15) (bits w 31 20))
  | 5 => .ok (.csrrwi (bits w 11 7) (bits w 19 15) (bits w 31 20))
  | 6 => .ok (.csrrsi (bits w 11 7) (bits w 19 15) (bits w 31 20))
  | 7 => .ok (.csrrci (bits w 11 7) (bits w 19 15) (bits w 31 20))
  | _ => .error .undefinedFunct

/-- Sub-operations of Custom3 in the vs1 field (R182, R183). -/
noncomputable def decodeCustom3Sub (w : BitVec 32) : Except DecodeError Instr :=
  match (bits w 18 13).toNat with
    | 0 => .ok (.vfsqrt (bits w 12 7) (bits w 24 19) (bits w 26 26 == 1#1) (bits w 25 25 == 1#1))
    | 1 => .ok (.vfrec (bits w 12 7) (bits w 24 19) (bits w 26 26 == 1#1) (bits w 25 25 == 1#1))
    | 2 => .ok (.vfrsqrt (bits w 12 7) (bits w 24 19) (bits w 26 26 == 1#1) (bits w 25 25 == 1#1))
    | 3 => .ok (.vfclass (bits w 12 7) (bits w 24 19) (bits w 26 26 == 1#1) (bits w 25 25 == 1#1))
    | 4 => .ok (.vfexp2 (bits w 12 7) (bits w 24 19) (bits w 26 26 == 1#1) (bits w 25 25 == 1#1))
    | 5 => .ok (.vflog2 (bits w 12 7) (bits w 24 19) (bits w 26 26 == 1#1) (bits w 25 25 == 1#1))
    | 6 => .ok (.vftanh (bits w 12 7) (bits w 24 19) (bits w 26 26 == 1#1) (bits w 25 25 == 1#1))
    | 7 => .ok (.vfsilu (bits w 12 7) (bits w 24 19) (bits w 26 26 == 1#1) (bits w 25 25 == 1#1))
    | 8 => .ok (.vfgelu (bits w 12 7) (bits w 24 19) (bits w 26 26 == 1#1) (bits w 25 25 == 1#1))
    | 9 => .ok (.vfsin (bits w 12 7) (bits w 24 19) (bits w 26 26 == 1#1) (bits w 25 25 == 1#1))
    | 10 => .ok (.vfcos (bits w 12 7) (bits w 24 19) (bits w 26 26 == 1#1) (bits w 25 25 == 1#1))
    | 11 => .ok (.vfabs (bits w 12 7) (bits w 24 19) (bits w 26 26 == 1#1) (bits w 25 25 == 1#1))
    | 12 => .ok (.vfneg (bits w 12 7) (bits w 24 19) (bits w 26 26 == 1#1) (bits w 25 25 == 1#1))
    | 13 => .ok (.vconj (bits w 12 7) (bits w 24 19) (bits w 26 26 == 1#1) (bits w 25 25 == 1#1))
    | 14 => .ok (.vfredsum (bits w 12 7) (bits w 24 19) (bits w 26 26 == 1#1) (bits w 25 25 == 1#1))
    | 15 => .ok (.vfredmax (bits w 12 7) (bits w 24 19) (bits w 26 26 == 1#1) (bits w 25 25 == 1#1))
    | 16 => .ok (.vfredmin (bits w 12 7) (bits w 24 19) (bits w 26 26 == 1#1) (bits w 25 25 == 1#1))
    | 17 => .ok (.vfredamax (bits w 12 7) (bits w 24 19) (bits w 26 26 == 1#1) (bits w 25 25 == 1#1))
    | 18 => if bits w 25 25 == 0#1 then .ok (.pfwd (bits w 12 7) (bits w 24 19) (bits w 26 26 == 1#1)) else .error .unusedField
    | 19 => if bits w 25 25 == 0#1 then .ok (.pinv (bits w 12 7) (bits w 24 19) (bits w 26 26 == 1#1)) else .error .unusedField
    | 20 => if bits w 25 25 == 0#1 then .ok (.pfwdc (bits w 12 7) (bits w 24 19) (bits w 26 26 == 1#1)) else .error .unusedField
    | 21 => if bits w 25 25 == 0#1 then .ok (.pinvc (bits w 12 7) (bits w 24 19) (bits w 26 26 == 1#1)) else .error .unusedField
    | 22 => if bits w 25 25 == 0#1 then .ok (.vretag (bits w 12 7) (bits w 24 19) (bits w 26 26 == 1#1)) else .error .unusedField
    | 23 => if bits w 25 25 == 0#1 then .ok (.vtagclr (bits w 12 7) (bits w 24 19) (bits w 26 26 == 1#1)) else .error .unusedField
    | _ => .error .undefinedFunct

/-- Major opcode Custom3 (R177). -/
noncomputable def decodeCustom3 (w : BitVec 32) : Except DecodeError Instr :=
  match (bits w 31 27).toNat with
  | 0 => .ok (.vfaddVv (bits w 12 7) (bits w 24 19) (bits w 18 13) (bits w 26 26 == 1#1) (bits w 25 25 == 1#1))
  | 1 => .ok (.vfsubVv (bits w 12 7) (bits w 24 19) (bits w 18 13) (bits w 26 26 == 1#1) (bits w 25 25 == 1#1))
  | 2 => .ok (.vfmulVv (bits w 12 7) (bits w 24 19) (bits w 18 13) (bits w 26 26 == 1#1) (bits w 25 25 == 1#1))
  | 3 => .ok (.vfdivVv (bits w 12 7) (bits w 24 19) (bits w 18 13) (bits w 26 26 == 1#1) (bits w 25 25 == 1#1))
  | 4 => .ok (.vfminVv (bits w 12 7) (bits w 24 19) (bits w 18 13) (bits w 26 26 == 1#1) (bits w 25 25 == 1#1))
  | 5 => .ok (.vfmaxVv (bits w 12 7) (bits w 24 19) (bits w 18 13) (bits w 26 26 == 1#1) (bits w 25 25 == 1#1))
  | 6 => .ok (.vfsgnjVv (bits w 12 7) (bits w 24 19) (bits w 18 13) (bits w 26 26 == 1#1) (bits w 25 25 == 1#1))
  | 7 => .ok (.vfsgnjnVv (bits w 12 7) (bits w 24 19) (bits w 18 13) (bits w 26 26 == 1#1) (bits w 25 25 == 1#1))
  | 8 => .ok (.vfsgnjxVv (bits w 12 7) (bits w 24 19) (bits w 18 13) (bits w 26 26 == 1#1) (bits w 25 25 == 1#1))
  | 9 => .ok (.vfmaccVv (bits w 12 7) (bits w 24 19) (bits w 18 13) (bits w 26 26 == 1#1) (bits w 25 25 == 1#1))
  | 10 => .ok (.vfnmaccVv (bits w 12 7) (bits w 24 19) (bits w 18 13) (bits w 26 26 == 1#1) (bits w 25 25 == 1#1))
  | 11 => .ok (.vfmsacVv (bits w 12 7) (bits w 24 19) (bits w 18 13) (bits w 26 26 == 1#1) (bits w 25 25 == 1#1))
  | 12 => .ok (.vfnmsacVv (bits w 12 7) (bits w 24 19) (bits w 18 13) (bits w 26 26 == 1#1) (bits w 25 25 == 1#1))
  | 13 => .ok (.vfeqVv (bits w 12 7) (bits w 24 19) (bits w 18 13) (bits w 26 26 == 1#1) (bits w 25 25 == 1#1))
  | 14 => .ok (.vfneVv (bits w 12 7) (bits w 24 19) (bits w 18 13) (bits w 26 26 == 1#1) (bits w 25 25 == 1#1))
  | 15 => .ok (.vfltVv (bits w 12 7) (bits w 24 19) (bits w 18 13) (bits w 26 26 == 1#1) (bits w 25 25 == 1#1))
  | 16 => .ok (.vfleVv (bits w 12 7) (bits w 24 19) (bits w 18 13) (bits w 26 26 == 1#1) (bits w 25 25 == 1#1))
  | 17 => .ok (.vfunVv (bits w 12 7) (bits w 24 19) (bits w 18 13) (bits w 26 26 == 1#1) (bits w 25 25 == 1#1))
  | 18 => if bits w 25 25 == 1#1 then .ok (.vfmergeVv (bits w 12 7) (bits w 24 19) (bits w 18 13) (bits w 26 26 == 1#1)) else .error .undefinedFunct
  | 19 => .ok (.vcmul (bits w 12 7) (bits w 24 19) (bits w 18 13) (bits w 26 26 == 1#1) (bits w 25 25 == 1#1))
  | 20 => .ok (.vcmac (bits w 12 7) (bits w 24 19) (bits w 18 13) (bits w 26 26 == 1#1) (bits w 25 25 == 1#1))
  | 21 => .ok (.vfwmaccVv (bits w 12 7) (bits w 24 19) (bits w 18 13) (bits w 26 26 == 1#1) (bits w 25 25 == 1#1))
  | 22 => if bits w 18 17 == 0#2 then .ok (.vcvtup (bits w 12 7) (bits w 24 19) (bits w 16 13) (bits w 26 26 == 1#1) (bits w 25 25 == 1#1)) else .error .unusedField
  | 23 => if bits w 18 17 == 0#2 then .ok (.vcvtdn (bits w 12 7) (bits w 24 19) (bits w 16 13) (bits w 26 26 == 1#1) (bits w 25 25 == 1#1)) else .error .unusedField
  | 24 => if bits w 18 17 == 0#2 then .ok (.vcvtfi (bits w 12 7) (bits w 24 19) (bits w 16 13) (bits w 26 26 == 1#1) (bits w 25 25 == 1#1)) else .error .unusedField
  | 25 => if bits w 18 17 == 0#2 then .ok (.vcvtif (bits w 12 7) (bits w 24 19) (bits w 16 13) (bits w 26 26 == 1#1) (bits w 25 25 == 1#1)) else .error .unusedField
  | 26 => .ok (.vquant (bits w 12 7) (bits w 24 19) (bits w 18 13) (bits w 26 26 == 1#1) (bits w 25 25 == 1#1))
  | 27 => .ok (.vdequant (bits w 12 7) (bits w 24 19) (bits w 18 13) (bits w 26 26 == 1#1) (bits w 25 25 == 1#1))
  | 28 => if bits w 18 17 == 0#2 then .ok (.vbscaleVv (bits w 12 7) (bits w 24 19) (bits w 16 13) (bits w 26 26 == 1#1) (bits w 25 25 == 1#1)) else .error .unusedField
  | 29 => if bits w 18 13 == 0#6 then .ok (.vbamax (bits w 12 7) (bits w 24 19) (bits w 26 26 == 1#1) (bits w 25 25 == 1#1)) else .error .unusedField
  | 31 => decodeCustom3Sub w
  | _ => .error .undefinedFunct

/-- Reading a word by its major opcode (R177): the instruction whose fixed fields it carries, operands not yet checked. -/
noncomputable def parseWord (w : BitVec 32) : Except DecodeError Instr :=
  match (bits w 6 0).toNat with
  | 0x03 => decodeLoad w
  | 0x07 => decodeLoadFp w
  | 0x0b => decodeCustom0 w
  | 0x0f => decodeMiscMem w
  | 0x13 => decodeOpImm w
  | 0x17 => decodeAuipc w
  | 0x1b => decodeOpImm32 w
  | 0x23 => decodeStore w
  | 0x27 => decodeStoreFp w
  | 0x2b => decodeCustom1 w
  | 0x2f => decodeAmo w
  | 0x33 => decodeOp w
  | 0x37 => decodeLui w
  | 0x3b => decodeOp32 w
  | 0x43 => decodeMadd w
  | 0x47 => decodeMsub w
  | 0x4b => decodeNmsub w
  | 0x4f => decodeNmadd w
  | 0x53 => decodeOpFp w
  | 0x5b => decodeCustom2 w
  | 0x63 => decodeBranch w
  | 0x67 => decodeJalr w
  | 0x6f => decodeJal w
  | 0x73 => decodeSystem w
  | 0x7b => decodeCustom3 w
  | _ => if bits w 1 0 != 3#2 then .error .compressedSpace
         else if bits w 4 0 == 31#5 then .error .longSpace else .error .unlistedMajor

/-- The instruction a word encodes, or the first check of R198 order 2 that it fails. -/
noncomputable def decode (w : BitVec 32) : Except DecodeError Instr :=
  match parseWord w with
  | .ok i => if i.wellFormed then .ok i else .error .operandRange
  | .error e => .error e

/-- The 32-bit word that four bytes in memory order hold (R4, R177). -/
def wordOfBytes (b0 b1 b2 b3 : BitVec 8) : BitVec 32 := b3 ++ b2 ++ b1 ++ b0

/-- The first instruction of a list of bytes and the bytes after it. -/
noncomputable def decodeBytes : List (BitVec 8) → Except DecodeError (Instr × List (BitVec 8))
  | b0 :: b1 :: b2 :: b3 :: rest =>
    match decode (wordOfBytes b0 b1 b2 b3) with
    | .ok i => .ok (i, rest)
    | .error e => .error e
  | _ => .error .truncated

/-- The four bytes of a word, lowest address first (R4). -/
def bytesOfWord (w : BitVec 32) : List (BitVec 8) :=
  [w.extractLsb' 0 8, w.extractLsb' 8 8, w.extractLsb' 16 8, w.extractLsb' 24 8]

/-- The instruction the decoder reads from a word whose bits are numbered as spec/opcode_table.json numbers them. -/
noncomputable def decodeTableWord (nbits w : Nat) : Option Instr :=
  if nbits = 0 then none
  else match decodeBytes (bytesOfWord (BitVec.ofNat 32 (w % 2 ^ nbits))) with
    | .ok (i, _) => some i
    | .error _ => none

/-- A Boolean field as its bit. -/
def bit1 (b : Bool) : BitVec 1 := if b then 1#1 else 0#1

/-- The 32-bit word of an instruction, from the formats of R178 and R180-R190; the steps that have no word answer 0. -/
def encode : Instr → BitVec 32
  | .lui rd imm => imm ++ rd ++ 55#7
  | .auipc rd imm => imm ++ rd ++ 23#7
  | .jal rd off => (off.extractLsb' 19 1) ++ (off.extractLsb' 0 10) ++ (off.extractLsb' 10 1) ++ (off.extractLsb' 11 8) ++ rd ++ 111#7
  | .jalr rd rs1 imm => imm ++ rs1 ++ 0#3 ++ rd ++ 103#7
  | .beq rs1 rs2 off => (off.extractLsb' 11 1) ++ (off.extractLsb' 4 6) ++ rs2 ++ rs1 ++ 0#3 ++ (off.extractLsb' 0 4) ++ (off.extractLsb' 10 1) ++ 99#7
  | .bne rs1 rs2 off => (off.extractLsb' 11 1) ++ (off.extractLsb' 4 6) ++ rs2 ++ rs1 ++ 1#3 ++ (off.extractLsb' 0 4) ++ (off.extractLsb' 10 1) ++ 99#7
  | .blt rs1 rs2 off => (off.extractLsb' 11 1) ++ (off.extractLsb' 4 6) ++ rs2 ++ rs1 ++ 4#3 ++ (off.extractLsb' 0 4) ++ (off.extractLsb' 10 1) ++ 99#7
  | .bge rs1 rs2 off => (off.extractLsb' 11 1) ++ (off.extractLsb' 4 6) ++ rs2 ++ rs1 ++ 5#3 ++ (off.extractLsb' 0 4) ++ (off.extractLsb' 10 1) ++ 99#7
  | .bltu rs1 rs2 off => (off.extractLsb' 11 1) ++ (off.extractLsb' 4 6) ++ rs2 ++ rs1 ++ 6#3 ++ (off.extractLsb' 0 4) ++ (off.extractLsb' 10 1) ++ 99#7
  | .bgeu rs1 rs2 off => (off.extractLsb' 11 1) ++ (off.extractLsb' 4 6) ++ rs2 ++ rs1 ++ 7#3 ++ (off.extractLsb' 0 4) ++ (off.extractLsb' 10 1) ++ 99#7
  | .lb rd rs1 imm => imm ++ rs1 ++ 0#3 ++ rd ++ 3#7
  | .lh rd rs1 imm => imm ++ rs1 ++ 1#3 ++ rd ++ 3#7
  | .lw rd rs1 imm => imm ++ rs1 ++ 2#3 ++ rd ++ 3#7
  | .ld rd rs1 imm => imm ++ rs1 ++ 3#3 ++ rd ++ 3#7
  | .lbu rd rs1 imm => imm ++ rs1 ++ 4#3 ++ rd ++ 3#7
  | .lhu rd rs1 imm => imm ++ rs1 ++ 5#3 ++ rd ++ 3#7
  | .lwu rd rs1 imm => imm ++ rs1 ++ 6#3 ++ rd ++ 3#7
  | .sb rs1 rs2 imm => (imm.extractLsb' 5 7) ++ rs2 ++ rs1 ++ 0#3 ++ (imm.extractLsb' 0 5) ++ 35#7
  | .sh rs1 rs2 imm => (imm.extractLsb' 5 7) ++ rs2 ++ rs1 ++ 1#3 ++ (imm.extractLsb' 0 5) ++ 35#7
  | .sw rs1 rs2 imm => (imm.extractLsb' 5 7) ++ rs2 ++ rs1 ++ 2#3 ++ (imm.extractLsb' 0 5) ++ 35#7
  | .sd rs1 rs2 imm => (imm.extractLsb' 5 7) ++ rs2 ++ rs1 ++ 3#3 ++ (imm.extractLsb' 0 5) ++ 35#7
  | .addi rd rs1 imm => imm ++ rs1 ++ 0#3 ++ rd ++ 19#7
  | .slti rd rs1 imm => imm ++ rs1 ++ 2#3 ++ rd ++ 19#7
  | .sltiu rd rs1 imm => imm ++ rs1 ++ 3#3 ++ rd ++ 19#7
  | .xori rd rs1 imm => imm ++ rs1 ++ 4#3 ++ rd ++ 19#7
  | .ori rd rs1 imm => imm ++ rs1 ++ 6#3 ++ rd ++ 19#7
  | .andi rd rs1 imm => imm ++ rs1 ++ 7#3 ++ rd ++ 19#7
  | .slli rd rs1 sh => 0#6 ++ sh ++ rs1 ++ 1#3 ++ rd ++ 19#7
  | .srli rd rs1 sh => 0#6 ++ sh ++ rs1 ++ 5#3 ++ rd ++ 19#7
  | .srai rd rs1 sh => 16#6 ++ sh ++ rs1 ++ 5#3 ++ rd ++ 19#7
  | .addiw rd rs1 imm => imm ++ rs1 ++ 0#3 ++ rd ++ 27#7
  | .slliw rd rs1 sh => 0#7 ++ sh ++ rs1 ++ 1#3 ++ rd ++ 27#7
  | .srliw rd rs1 sh => 0#7 ++ sh ++ rs1 ++ 5#3 ++ rd ++ 27#7
  | .sraiw rd rs1 sh => 32#7 ++ sh ++ rs1 ++ 5#3 ++ rd ++ 27#7
  | .add rd rs1 rs2 => 0#7 ++ rs2 ++ rs1 ++ 0#3 ++ rd ++ 51#7
  | .sll rd rs1 rs2 => 0#7 ++ rs2 ++ rs1 ++ 1#3 ++ rd ++ 51#7
  | .slt rd rs1 rs2 => 0#7 ++ rs2 ++ rs1 ++ 2#3 ++ rd ++ 51#7
  | .sltu rd rs1 rs2 => 0#7 ++ rs2 ++ rs1 ++ 3#3 ++ rd ++ 51#7
  | .xor rd rs1 rs2 => 0#7 ++ rs2 ++ rs1 ++ 4#3 ++ rd ++ 51#7
  | .srl rd rs1 rs2 => 0#7 ++ rs2 ++ rs1 ++ 5#3 ++ rd ++ 51#7
  | .or rd rs1 rs2 => 0#7 ++ rs2 ++ rs1 ++ 6#3 ++ rd ++ 51#7
  | .and rd rs1 rs2 => 0#7 ++ rs2 ++ rs1 ++ 7#3 ++ rd ++ 51#7
  | .sub rd rs1 rs2 => 32#7 ++ rs2 ++ rs1 ++ 0#3 ++ rd ++ 51#7
  | .sra rd rs1 rs2 => 32#7 ++ rs2 ++ rs1 ++ 5#3 ++ rd ++ 51#7
  | .mul rd rs1 rs2 => 1#7 ++ rs2 ++ rs1 ++ 0#3 ++ rd ++ 51#7
  | .mulh rd rs1 rs2 => 1#7 ++ rs2 ++ rs1 ++ 1#3 ++ rd ++ 51#7
  | .mulhsu rd rs1 rs2 => 1#7 ++ rs2 ++ rs1 ++ 2#3 ++ rd ++ 51#7
  | .mulhu rd rs1 rs2 => 1#7 ++ rs2 ++ rs1 ++ 3#3 ++ rd ++ 51#7
  | .div rd rs1 rs2 => 1#7 ++ rs2 ++ rs1 ++ 4#3 ++ rd ++ 51#7
  | .divu rd rs1 rs2 => 1#7 ++ rs2 ++ rs1 ++ 5#3 ++ rd ++ 51#7
  | .rem rd rs1 rs2 => 1#7 ++ rs2 ++ rs1 ++ 6#3 ++ rd ++ 51#7
  | .remu rd rs1 rs2 => 1#7 ++ rs2 ++ rs1 ++ 7#3 ++ rd ++ 51#7
  | .addw rd rs1 rs2 => 0#7 ++ rs2 ++ rs1 ++ 0#3 ++ rd ++ 59#7
  | .sllw rd rs1 rs2 => 0#7 ++ rs2 ++ rs1 ++ 1#3 ++ rd ++ 59#7
  | .srlw rd rs1 rs2 => 0#7 ++ rs2 ++ rs1 ++ 5#3 ++ rd ++ 59#7
  | .subw rd rs1 rs2 => 32#7 ++ rs2 ++ rs1 ++ 0#3 ++ rd ++ 59#7
  | .sraw rd rs1 rs2 => 32#7 ++ rs2 ++ rs1 ++ 5#3 ++ rd ++ 59#7
  | .mulw rd rs1 rs2 => 1#7 ++ rs2 ++ rs1 ++ 0#3 ++ rd ++ 59#7
  | .divw rd rs1 rs2 => 1#7 ++ rs2 ++ rs1 ++ 4#3 ++ rd ++ 59#7
  | .divuw rd rs1 rs2 => 1#7 ++ rs2 ++ rs1 ++ 5#3 ++ rd ++ 59#7
  | .remw rd rs1 rs2 => 1#7 ++ rs2 ++ rs1 ++ 6#3 ++ rd ++ 59#7
  | .remuw rd rs1 rs2 => 1#7 ++ rs2 ++ rs1 ++ 7#3 ++ rd ++ 59#7
  | .fence fm pred succ rs1 rd => fm ++ pred ++ succ ++ rs1 ++ 0#3 ++ rd ++ 15#7
  | .ecall => 115#32
  | .ebreak => 1048691#32
  | .csrrw rd rs1 csr => csr ++ rs1 ++ 1#3 ++ rd ++ 115#7
  | .csrrs rd rs1 csr => csr ++ rs1 ++ 2#3 ++ rd ++ 115#7
  | .csrrc rd rs1 csr => csr ++ rs1 ++ 3#3 ++ rd ++ 115#7
  | .csrrwi rd uimm csr => csr ++ uimm ++ 5#3 ++ rd ++ 115#7
  | .csrrsi rd uimm csr => csr ++ uimm ++ 6#3 ++ rd ++ 115#7
  | .csrrci rd uimm csr => csr ++ uimm ++ 7#3 ++ rd ++ 115#7
  | .lrW aq rl rd rs1 => 2#5 ++ (bit1 aq) ++ (bit1 rl) ++ 0#5 ++ rs1 ++ 2#3 ++ rd ++ 47#7
  | .scW aq rl rd rs1 rs2 => 3#5 ++ (bit1 aq) ++ (bit1 rl) ++ rs2 ++ rs1 ++ 2#3 ++ rd ++ 47#7
  | .amoswapW aq rl rd rs1 rs2 => 1#5 ++ (bit1 aq) ++ (bit1 rl) ++ rs2 ++ rs1 ++ 2#3 ++ rd ++ 47#7
  | .amoaddW aq rl rd rs1 rs2 => 0#5 ++ (bit1 aq) ++ (bit1 rl) ++ rs2 ++ rs1 ++ 2#3 ++ rd ++ 47#7
  | .amoxorW aq rl rd rs1 rs2 => 4#5 ++ (bit1 aq) ++ (bit1 rl) ++ rs2 ++ rs1 ++ 2#3 ++ rd ++ 47#7
  | .amoandW aq rl rd rs1 rs2 => 12#5 ++ (bit1 aq) ++ (bit1 rl) ++ rs2 ++ rs1 ++ 2#3 ++ rd ++ 47#7
  | .amoorW aq rl rd rs1 rs2 => 8#5 ++ (bit1 aq) ++ (bit1 rl) ++ rs2 ++ rs1 ++ 2#3 ++ rd ++ 47#7
  | .amominW aq rl rd rs1 rs2 => 16#5 ++ (bit1 aq) ++ (bit1 rl) ++ rs2 ++ rs1 ++ 2#3 ++ rd ++ 47#7
  | .amomaxW aq rl rd rs1 rs2 => 20#5 ++ (bit1 aq) ++ (bit1 rl) ++ rs2 ++ rs1 ++ 2#3 ++ rd ++ 47#7
  | .amominuW aq rl rd rs1 rs2 => 24#5 ++ (bit1 aq) ++ (bit1 rl) ++ rs2 ++ rs1 ++ 2#3 ++ rd ++ 47#7
  | .amomaxuW aq rl rd rs1 rs2 => 28#5 ++ (bit1 aq) ++ (bit1 rl) ++ rs2 ++ rs1 ++ 2#3 ++ rd ++ 47#7
  | .lrD aq rl rd rs1 => 2#5 ++ (bit1 aq) ++ (bit1 rl) ++ 0#5 ++ rs1 ++ 3#3 ++ rd ++ 47#7
  | .scD aq rl rd rs1 rs2 => 3#5 ++ (bit1 aq) ++ (bit1 rl) ++ rs2 ++ rs1 ++ 3#3 ++ rd ++ 47#7
  | .amoswapD aq rl rd rs1 rs2 => 1#5 ++ (bit1 aq) ++ (bit1 rl) ++ rs2 ++ rs1 ++ 3#3 ++ rd ++ 47#7
  | .amoaddD aq rl rd rs1 rs2 => 0#5 ++ (bit1 aq) ++ (bit1 rl) ++ rs2 ++ rs1 ++ 3#3 ++ rd ++ 47#7
  | .amoxorD aq rl rd rs1 rs2 => 4#5 ++ (bit1 aq) ++ (bit1 rl) ++ rs2 ++ rs1 ++ 3#3 ++ rd ++ 47#7
  | .amoandD aq rl rd rs1 rs2 => 12#5 ++ (bit1 aq) ++ (bit1 rl) ++ rs2 ++ rs1 ++ 3#3 ++ rd ++ 47#7
  | .amoorD aq rl rd rs1 rs2 => 8#5 ++ (bit1 aq) ++ (bit1 rl) ++ rs2 ++ rs1 ++ 3#3 ++ rd ++ 47#7
  | .amominD aq rl rd rs1 rs2 => 16#5 ++ (bit1 aq) ++ (bit1 rl) ++ rs2 ++ rs1 ++ 3#3 ++ rd ++ 47#7
  | .amomaxD aq rl rd rs1 rs2 => 20#5 ++ (bit1 aq) ++ (bit1 rl) ++ rs2 ++ rs1 ++ 3#3 ++ rd ++ 47#7
  | .amominuD aq rl rd rs1 rs2 => 24#5 ++ (bit1 aq) ++ (bit1 rl) ++ rs2 ++ rs1 ++ 3#3 ++ rd ++ 47#7
  | .amomaxuD aq rl rd rs1 rs2 => 28#5 ++ (bit1 aq) ++ (bit1 rl) ++ rs2 ++ rs1 ++ 3#3 ++ rd ++ 47#7
  | .fld fd rs1 imm => imm ++ rs1 ++ 3#3 ++ fd ++ 7#7
  | .fsd rs1 fs2 imm => (imm.extractLsb' 5 7) ++ fs2 ++ rs1 ++ 3#3 ++ (imm.extractLsb' 0 5) ++ 39#7
  | .fmaddD fd fs1 fs2 fs3 rm => fs3 ++ 1#2 ++ fs2 ++ fs1 ++ rm ++ fd ++ 67#7
  | .fmsubD fd fs1 fs2 fs3 rm => fs3 ++ 1#2 ++ fs2 ++ fs1 ++ rm ++ fd ++ 71#7
  | .fnmsubD fd fs1 fs2 fs3 rm => fs3 ++ 1#2 ++ fs2 ++ fs1 ++ rm ++ fd ++ 75#7
  | .fnmaddD fd fs1 fs2 fs3 rm => fs3 ++ 1#2 ++ fs2 ++ fs1 ++ rm ++ fd ++ 79#7
  | .faddD fd fs1 fs2 rm => 1#7 ++ fs2 ++ fs1 ++ rm ++ fd ++ 83#7
  | .fsubD fd fs1 fs2 rm => 5#7 ++ fs2 ++ fs1 ++ rm ++ fd ++ 83#7
  | .fmulD fd fs1 fs2 rm => 9#7 ++ fs2 ++ fs1 ++ rm ++ fd ++ 83#7
  | .fdivD fd fs1 fs2 rm => 13#7 ++ fs2 ++ fs1 ++ rm ++ fd ++ 83#7
  | .fsqrtD fd fs1 rm => 1440#12 ++ fs1 ++ rm ++ fd ++ 83#7
  | .fsgnjD fd fs1 fs2 => 17#7 ++ fs2 ++ fs1 ++ 0#3 ++ fd ++ 83#7
  | .fsgnjnD fd fs1 fs2 => 17#7 ++ fs2 ++ fs1 ++ 1#3 ++ fd ++ 83#7
  | .fsgnjxD fd fs1 fs2 => 17#7 ++ fs2 ++ fs1 ++ 2#3 ++ fd ++ 83#7
  | .fminD fd fs1 fs2 => 21#7 ++ fs2 ++ fs1 ++ 0#3 ++ fd ++ 83#7
  | .fmaxD fd fs1 fs2 => 21#7 ++ fs2 ++ fs1 ++ 1#3 ++ fd ++ 83#7
  | .fleD rd fs1 fs2 => 81#7 ++ fs2 ++ fs1 ++ 0#3 ++ rd ++ 83#7
  | .fltD rd fs1 fs2 => 81#7 ++ fs2 ++ fs1 ++ 1#3 ++ rd ++ 83#7
  | .feqD rd fs1 fs2 => 81#7 ++ fs2 ++ fs1 ++ 2#3 ++ rd ++ 83#7
  | .fclassD rd fs1 => 3616#12 ++ fs1 ++ 1#3 ++ rd ++ 83#7
  | .fmvXD rd fs1 => 3616#12 ++ fs1 ++ 0#3 ++ rd ++ 83#7
  | .fmvDX fd rs1 => 3872#12 ++ rs1 ++ 0#3 ++ fd ++ 83#7
  | .fcvtWD rd fs1 rm => 3104#12 ++ fs1 ++ rm ++ rd ++ 83#7
  | .fcvtWuD rd fs1 rm => 3105#12 ++ fs1 ++ rm ++ rd ++ 83#7
  | .fcvtLD rd fs1 rm => 3106#12 ++ fs1 ++ rm ++ rd ++ 83#7
  | .fcvtLuD rd fs1 rm => 3107#12 ++ fs1 ++ rm ++ rd ++ 83#7
  | .fcvtDW fd rs1 rm => 3360#12 ++ rs1 ++ rm ++ fd ++ 83#7
  | .fcvtDWu fd rs1 rm => 3361#12 ++ rs1 ++ rm ++ fd ++ 83#7
  | .fcvtDL fd rs1 rm => 3362#12 ++ rs1 ++ rm ++ fd ++ 83#7
  | .fcvtDLu fd rs1 rm => 3363#12 ++ rs1 ++ rm ++ fd ++ 83#7
  | .vaddVv vd vs2 vs1 w m => 0#5 ++ (bit1 w) ++ (bit1 m) ++ vs2 ++ vs1 ++ vd ++ 91#7
  | .vsubVv vd vs2 vs1 w m => 1#5 ++ (bit1 w) ++ (bit1 m) ++ vs2 ++ vs1 ++ vd ++ 91#7
  | .vmulVv vd vs2 vs1 w m => 2#5 ++ (bit1 w) ++ (bit1 m) ++ vs2 ++ vs1 ++ vd ++ 91#7
  | .vmulhVv vd vs2 vs1 w m => 3#5 ++ (bit1 w) ++ (bit1 m) ++ vs2 ++ vs1 ++ vd ++ 91#7
  | .vmulhuVv vd vs2 vs1 w m => 4#5 ++ (bit1 w) ++ (bit1 m) ++ vs2 ++ vs1 ++ vd ++ 91#7
  | .vdivVv vd vs2 vs1 w m => 5#5 ++ (bit1 w) ++ (bit1 m) ++ vs2 ++ vs1 ++ vd ++ 91#7
  | .vdivuVv vd vs2 vs1 w m => 6#5 ++ (bit1 w) ++ (bit1 m) ++ vs2 ++ vs1 ++ vd ++ 91#7
  | .vremVv vd vs2 vs1 w m => 7#5 ++ (bit1 w) ++ (bit1 m) ++ vs2 ++ vs1 ++ vd ++ 91#7
  | .vremuVv vd vs2 vs1 w m => 8#5 ++ (bit1 w) ++ (bit1 m) ++ vs2 ++ vs1 ++ vd ++ 91#7
  | .vminVv vd vs2 vs1 w m => 9#5 ++ (bit1 w) ++ (bit1 m) ++ vs2 ++ vs1 ++ vd ++ 91#7
  | .vminuVv vd vs2 vs1 w m => 10#5 ++ (bit1 w) ++ (bit1 m) ++ vs2 ++ vs1 ++ vd ++ 91#7
  | .vmaxVv vd vs2 vs1 w m => 11#5 ++ (bit1 w) ++ (bit1 m) ++ vs2 ++ vs1 ++ vd ++ 91#7
  | .vmaxuVv vd vs2 vs1 w m => 12#5 ++ (bit1 w) ++ (bit1 m) ++ vs2 ++ vs1 ++ vd ++ 91#7
  | .vandVv vd vs2 vs1 w m => 13#5 ++ (bit1 w) ++ (bit1 m) ++ vs2 ++ vs1 ++ vd ++ 91#7
  | .vorVv vd vs2 vs1 w m => 14#5 ++ (bit1 w) ++ (bit1 m) ++ vs2 ++ vs1 ++ vd ++ 91#7
  | .vxorVv vd vs2 vs1 w m => 15#5 ++ (bit1 w) ++ (bit1 m) ++ vs2 ++ vs1 ++ vd ++ 91#7
  | .vsllVv vd vs2 vs1 w m => 16#5 ++ (bit1 w) ++ (bit1 m) ++ vs2 ++ vs1 ++ vd ++ 91#7
  | .vsrlVv vd vs2 vs1 w m => 17#5 ++ (bit1 w) ++ (bit1 m) ++ vs2 ++ vs1 ++ vd ++ 91#7
  | .vsraVv vd vs2 vs1 w m => 18#5 ++ (bit1 w) ++ (bit1 m) ++ vs2 ++ vs1 ++ vd ++ 91#7
  | .vsaddVv vd vs2 vs1 w m => 19#5 ++ (bit1 w) ++ (bit1 m) ++ vs2 ++ vs1 ++ vd ++ 91#7
  | .vsadduVv vd vs2 vs1 w m => 20#5 ++ (bit1 w) ++ (bit1 m) ++ vs2 ++ vs1 ++ vd ++ 91#7
  | .vssubVv vd vs2 vs1 w m => 21#5 ++ (bit1 w) ++ (bit1 m) ++ vs2 ++ vs1 ++ vd ++ 91#7
  | .vssubuVv vd vs2 vs1 w m => 22#5 ++ (bit1 w) ++ (bit1 m) ++ vs2 ++ vs1 ++ vd ++ 91#7
  | .vseqVv vd vs2 vs1 w m => 23#5 ++ (bit1 w) ++ (bit1 m) ++ vs2 ++ vs1 ++ vd ++ 91#7
  | .vsneVv vd vs2 vs1 w m => 24#5 ++ (bit1 w) ++ (bit1 m) ++ vs2 ++ vs1 ++ vd ++ 91#7
  | .vsltVv vd vs2 vs1 w m => 25#5 ++ (bit1 w) ++ (bit1 m) ++ vs2 ++ vs1 ++ vd ++ 91#7
  | .vsltuVv vd vs2 vs1 w m => 26#5 ++ (bit1 w) ++ (bit1 m) ++ vs2 ++ vs1 ++ vd ++ 91#7
  | .vsleVv vd vs2 vs1 w m => 27#5 ++ (bit1 w) ++ (bit1 m) ++ vs2 ++ vs1 ++ vd ++ 91#7
  | .vsleuVv vd vs2 vs1 w m => 28#5 ++ (bit1 w) ++ (bit1 m) ++ vs2 ++ vs1 ++ vd ++ 91#7
  | .vmergeVv vd vs2 vs1 w => 29#5 ++ (bit1 w) ++ 1#1 ++ vs2 ++ vs1 ++ vd ++ 91#7
  | .vperm vd vs2 vs1 w m => 30#5 ++ (bit1 w) ++ (bit1 m) ++ vs2 ++ vs1 ++ vd ++ 91#7
  | .vmv vd vs2 w m => 31#5 ++ (bit1 w) ++ (bit1 m) ++ vs2 ++ 0#6 ++ vd ++ 91#7
  | .vid vd w m => 31#5 ++ (bit1 w) ++ (bit1 m) ++ 1#12 ++ vd ++ 91#7
  | .viota vd vs2 w m => 31#5 ++ (bit1 w) ++ (bit1 m) ++ vs2 ++ 2#6 ++ vd ++ 91#7
  | .vcompress vd vs2 w => 31#5 ++ (bit1 w) ++ 1#1 ++ vs2 ++ 3#6 ++ vd ++ 91#7
  | .vredsum vd vs2 w m => 31#5 ++ (bit1 w) ++ (bit1 m) ++ vs2 ++ 4#6 ++ vd ++ 91#7
  | .vredmin vd vs2 w m => 31#5 ++ (bit1 w) ++ (bit1 m) ++ vs2 ++ 5#6 ++ vd ++ 91#7
  | .vredminu vd vs2 w m => 31#5 ++ (bit1 w) ++ (bit1 m) ++ vs2 ++ 6#6 ++ vd ++ 91#7
  | .vredmax vd vs2 w m => 31#5 ++ (bit1 w) ++ (bit1 m) ++ vs2 ++ 7#6 ++ vd ++ 91#7
  | .vredmaxu vd vs2 w m => 31#5 ++ (bit1 w) ++ (bit1 m) ++ vs2 ++ 8#6 ++ vd ++ 91#7
  | .vredand vd vs2 w m => 31#5 ++ (bit1 w) ++ (bit1 m) ++ vs2 ++ 9#6 ++ vd ++ 91#7
  | .vredor vd vs2 w m => 31#5 ++ (bit1 w) ++ (bit1 m) ++ vs2 ++ 10#6 ++ vd ++ 91#7
  | .vredxor vd vs2 w m => 31#5 ++ (bit1 w) ++ (bit1 m) ++ vs2 ++ 11#6 ++ vd ++ 91#7
  | .vmpopc vd vs2 w m => 31#5 ++ (bit1 w) ++ (bit1 m) ++ vs2 ++ 12#6 ++ vd ++ 91#7
  | .vmfirst vd vs2 w m => 31#5 ++ (bit1 w) ++ (bit1 m) ++ vs2 ++ 13#6 ++ vd ++ 91#7
  | .vabs vd vs2 w m => 31#5 ++ (bit1 w) ++ (bit1 m) ++ vs2 ++ 14#6 ++ vd ++ 91#7
  | .vneg vd vs2 w m => 31#5 ++ (bit1 w) ++ (bit1 m) ++ vs2 ++ 15#6 ++ vd ++ 91#7
  | .vnot vd vs2 w m => 31#5 ++ (bit1 w) ++ (bit1 m) ++ vs2 ++ 16#6 ++ vd ++ 91#7
  | .vclz vd vs2 w m => 31#5 ++ (bit1 w) ++ (bit1 m) ++ vs2 ++ 17#6 ++ vd ++ 91#7
  | .vpopcnt vd vs2 w m => 31#5 ++ (bit1 w) ++ (bit1 m) ++ vs2 ++ 18#6 ++ vd ++ 91#7
  | .vsext vd vs2 w m => 31#5 ++ (bit1 w) ++ (bit1 m) ++ vs2 ++ 19#6 ++ vd ++ 91#7
  | .vzext vd vs2 w m => 31#5 ++ (bit1 w) ++ (bit1 m) ++ vs2 ++ 20#6 ++ vd ++ 91#7
  | .vnclip vd vs2 w m => 31#5 ++ (bit1 w) ++ (bit1 m) ++ vs2 ++ 21#6 ++ vd ++ 91#7
  | .vnclipu vd vs2 w m => 31#5 ++ (bit1 w) ++ (bit1 m) ++ vs2 ++ 22#6 ++ vd ++ 91#7
  | .vaddVx vd vs2 rs1 w m => 0#6 ++ (bit1 w) ++ (bit1 m) ++ vs2 ++ rs1 ++ vd ++ 43#7
  | .vsubVx vd vs2 rs1 w m => 1#6 ++ (bit1 w) ++ (bit1 m) ++ vs2 ++ rs1 ++ vd ++ 43#7
  | .vmulVx vd vs2 rs1 w m => 2#6 ++ (bit1 w) ++ (bit1 m) ++ vs2 ++ rs1 ++ vd ++ 43#7
  | .vmulhVx vd vs2 rs1 w m => 3#6 ++ (bit1 w) ++ (bit1 m) ++ vs2 ++ rs1 ++ vd ++ 43#7
  | .vmulhuVx vd vs2 rs1 w m => 4#6 ++ (bit1 w) ++ (bit1 m) ++ vs2 ++ rs1 ++ vd ++ 43#7
  | .vdivVx vd vs2 rs1 w m => 5#6 ++ (bit1 w) ++ (bit1 m) ++ vs2 ++ rs1 ++ vd ++ 43#7
  | .vdivuVx vd vs2 rs1 w m => 6#6 ++ (bit1 w) ++ (bit1 m) ++ vs2 ++ rs1 ++ vd ++ 43#7
  | .vremVx vd vs2 rs1 w m => 7#6 ++ (bit1 w) ++ (bit1 m) ++ vs2 ++ rs1 ++ vd ++ 43#7
  | .vremuVx vd vs2 rs1 w m => 8#6 ++ (bit1 w) ++ (bit1 m) ++ vs2 ++ rs1 ++ vd ++ 43#7
  | .vminVx vd vs2 rs1 w m => 9#6 ++ (bit1 w) ++ (bit1 m) ++ vs2 ++ rs1 ++ vd ++ 43#7
  | .vminuVx vd vs2 rs1 w m => 10#6 ++ (bit1 w) ++ (bit1 m) ++ vs2 ++ rs1 ++ vd ++ 43#7
  | .vmaxVx vd vs2 rs1 w m => 11#6 ++ (bit1 w) ++ (bit1 m) ++ vs2 ++ rs1 ++ vd ++ 43#7
  | .vmaxuVx vd vs2 rs1 w m => 12#6 ++ (bit1 w) ++ (bit1 m) ++ vs2 ++ rs1 ++ vd ++ 43#7
  | .vandVx vd vs2 rs1 w m => 13#6 ++ (bit1 w) ++ (bit1 m) ++ vs2 ++ rs1 ++ vd ++ 43#7
  | .vorVx vd vs2 rs1 w m => 14#6 ++ (bit1 w) ++ (bit1 m) ++ vs2 ++ rs1 ++ vd ++ 43#7
  | .vxorVx vd vs2 rs1 w m => 15#6 ++ (bit1 w) ++ (bit1 m) ++ vs2 ++ rs1 ++ vd ++ 43#7
  | .vsllVx vd vs2 rs1 w m => 16#6 ++ (bit1 w) ++ (bit1 m) ++ vs2 ++ rs1 ++ vd ++ 43#7
  | .vsrlVx vd vs2 rs1 w m => 17#6 ++ (bit1 w) ++ (bit1 m) ++ vs2 ++ rs1 ++ vd ++ 43#7
  | .vsraVx vd vs2 rs1 w m => 18#6 ++ (bit1 w) ++ (bit1 m) ++ vs2 ++ rs1 ++ vd ++ 43#7
  | .vsaddVx vd vs2 rs1 w m => 19#6 ++ (bit1 w) ++ (bit1 m) ++ vs2 ++ rs1 ++ vd ++ 43#7
  | .vsadduVx vd vs2 rs1 w m => 20#6 ++ (bit1 w) ++ (bit1 m) ++ vs2 ++ rs1 ++ vd ++ 43#7
  | .vssubVx vd vs2 rs1 w m => 21#6 ++ (bit1 w) ++ (bit1 m) ++ vs2 ++ rs1 ++ vd ++ 43#7
  | .vssubuVx vd vs2 rs1 w m => 22#6 ++ (bit1 w) ++ (bit1 m) ++ vs2 ++ rs1 ++ vd ++ 43#7
  | .vseqVx vd vs2 rs1 w m => 23#6 ++ (bit1 w) ++ (bit1 m) ++ vs2 ++ rs1 ++ vd ++ 43#7
  | .vsneVx vd vs2 rs1 w m => 24#6 ++ (bit1 w) ++ (bit1 m) ++ vs2 ++ rs1 ++ vd ++ 43#7
  | .vsltVx vd vs2 rs1 w m => 25#6 ++ (bit1 w) ++ (bit1 m) ++ vs2 ++ rs1 ++ vd ++ 43#7
  | .vsltuVx vd vs2 rs1 w m => 26#6 ++ (bit1 w) ++ (bit1 m) ++ vs2 ++ rs1 ++ vd ++ 43#7
  | .vsleVx vd vs2 rs1 w m => 27#6 ++ (bit1 w) ++ (bit1 m) ++ vs2 ++ rs1 ++ vd ++ 43#7
  | .vsleuVx vd vs2 rs1 w m => 28#6 ++ (bit1 w) ++ (bit1 m) ++ vs2 ++ rs1 ++ vd ++ 43#7
  | .vmergeVx vd vs2 rs1 w => 29#6 ++ (bit1 w) ++ 1#1 ++ vs2 ++ rs1 ++ vd ++ 43#7
  | .vslideup vd vs2 rs1 w m => 30#6 ++ (bit1 w) ++ (bit1 m) ++ vs2 ++ rs1 ++ vd ++ 43#7
  | .vslidedn vd vs2 rs1 w m => 31#6 ++ (bit1 w) ++ (bit1 m) ++ vs2 ++ rs1 ++ vd ++ 43#7
  | .vfaddVv vd vs2 vs1 w m => 0#5 ++ (bit1 w) ++ (bit1 m) ++ vs2 ++ vs1 ++ vd ++ 123#7
  | .vfsubVv vd vs2 vs1 w m => 1#5 ++ (bit1 w) ++ (bit1 m) ++ vs2 ++ vs1 ++ vd ++ 123#7
  | .vfmulVv vd vs2 vs1 w m => 2#5 ++ (bit1 w) ++ (bit1 m) ++ vs2 ++ vs1 ++ vd ++ 123#7
  | .vfdivVv vd vs2 vs1 w m => 3#5 ++ (bit1 w) ++ (bit1 m) ++ vs2 ++ vs1 ++ vd ++ 123#7
  | .vfminVv vd vs2 vs1 w m => 4#5 ++ (bit1 w) ++ (bit1 m) ++ vs2 ++ vs1 ++ vd ++ 123#7
  | .vfmaxVv vd vs2 vs1 w m => 5#5 ++ (bit1 w) ++ (bit1 m) ++ vs2 ++ vs1 ++ vd ++ 123#7
  | .vfsgnjVv vd vs2 vs1 w m => 6#5 ++ (bit1 w) ++ (bit1 m) ++ vs2 ++ vs1 ++ vd ++ 123#7
  | .vfsgnjnVv vd vs2 vs1 w m => 7#5 ++ (bit1 w) ++ (bit1 m) ++ vs2 ++ vs1 ++ vd ++ 123#7
  | .vfsgnjxVv vd vs2 vs1 w m => 8#5 ++ (bit1 w) ++ (bit1 m) ++ vs2 ++ vs1 ++ vd ++ 123#7
  | .vfmaccVv vd vs2 vs1 w m => 9#5 ++ (bit1 w) ++ (bit1 m) ++ vs2 ++ vs1 ++ vd ++ 123#7
  | .vfnmaccVv vd vs2 vs1 w m => 10#5 ++ (bit1 w) ++ (bit1 m) ++ vs2 ++ vs1 ++ vd ++ 123#7
  | .vfmsacVv vd vs2 vs1 w m => 11#5 ++ (bit1 w) ++ (bit1 m) ++ vs2 ++ vs1 ++ vd ++ 123#7
  | .vfnmsacVv vd vs2 vs1 w m => 12#5 ++ (bit1 w) ++ (bit1 m) ++ vs2 ++ vs1 ++ vd ++ 123#7
  | .vfeqVv vd vs2 vs1 w m => 13#5 ++ (bit1 w) ++ (bit1 m) ++ vs2 ++ vs1 ++ vd ++ 123#7
  | .vfneVv vd vs2 vs1 w m => 14#5 ++ (bit1 w) ++ (bit1 m) ++ vs2 ++ vs1 ++ vd ++ 123#7
  | .vfltVv vd vs2 vs1 w m => 15#5 ++ (bit1 w) ++ (bit1 m) ++ vs2 ++ vs1 ++ vd ++ 123#7
  | .vfleVv vd vs2 vs1 w m => 16#5 ++ (bit1 w) ++ (bit1 m) ++ vs2 ++ vs1 ++ vd ++ 123#7
  | .vfunVv vd vs2 vs1 w m => 17#5 ++ (bit1 w) ++ (bit1 m) ++ vs2 ++ vs1 ++ vd ++ 123#7
  | .vfmergeVv vd vs2 vs1 w => 18#5 ++ (bit1 w) ++ 1#1 ++ vs2 ++ vs1 ++ vd ++ 123#7
  | .vcmul vd vs2 vs1 w m => 19#5 ++ (bit1 w) ++ (bit1 m) ++ vs2 ++ vs1 ++ vd ++ 123#7
  | .vcmac vd vs2 vs1 w m => 20#5 ++ (bit1 w) ++ (bit1 m) ++ vs2 ++ vs1 ++ vd ++ 123#7
  | .vfwmaccVv vd vs2 vs1 w m => 21#5 ++ (bit1 w) ++ (bit1 m) ++ vs2 ++ vs1 ++ vd ++ 123#7
  | .vcvtup vd vs2 fmt w m => 22#5 ++ (bit1 w) ++ (bit1 m) ++ vs2 ++ 0#2 ++ fmt ++ vd ++ 123#7
  | .vcvtdn vd vs2 fmt w m => 23#5 ++ (bit1 w) ++ (bit1 m) ++ vs2 ++ 0#2 ++ fmt ++ vd ++ 123#7
  | .vcvtfi vd vs2 fmt w m => 24#5 ++ (bit1 w) ++ (bit1 m) ++ vs2 ++ 0#2 ++ fmt ++ vd ++ 123#7
  | .vcvtif vd vs2 fmt w m => 25#5 ++ (bit1 w) ++ (bit1 m) ++ vs2 ++ 0#2 ++ fmt ++ vd ++ 123#7
  | .vquant vd vs2 vs1 w m => 26#5 ++ (bit1 w) ++ (bit1 m) ++ vs2 ++ vs1 ++ vd ++ 123#7
  | .vdequant vd vs2 vs1 w m => 27#5 ++ (bit1 w) ++ (bit1 m) ++ vs2 ++ vs1 ++ vd ++ 123#7
  | .vbscaleVv vd vs2 fmt w m => 28#5 ++ (bit1 w) ++ (bit1 m) ++ vs2 ++ 0#2 ++ fmt ++ vd ++ 123#7
  | .vbamax vd vs2 w m => 29#5 ++ (bit1 w) ++ (bit1 m) ++ vs2 ++ 0#6 ++ vd ++ 123#7
  | .vfsqrt vd vs2 w m => 31#5 ++ (bit1 w) ++ (bit1 m) ++ vs2 ++ 0#6 ++ vd ++ 123#7
  | .vfrec vd vs2 w m => 31#5 ++ (bit1 w) ++ (bit1 m) ++ vs2 ++ 1#6 ++ vd ++ 123#7
  | .vfrsqrt vd vs2 w m => 31#5 ++ (bit1 w) ++ (bit1 m) ++ vs2 ++ 2#6 ++ vd ++ 123#7
  | .vfclass vd vs2 w m => 31#5 ++ (bit1 w) ++ (bit1 m) ++ vs2 ++ 3#6 ++ vd ++ 123#7
  | .vfexp2 vd vs2 w m => 31#5 ++ (bit1 w) ++ (bit1 m) ++ vs2 ++ 4#6 ++ vd ++ 123#7
  | .vflog2 vd vs2 w m => 31#5 ++ (bit1 w) ++ (bit1 m) ++ vs2 ++ 5#6 ++ vd ++ 123#7
  | .vftanh vd vs2 w m => 31#5 ++ (bit1 w) ++ (bit1 m) ++ vs2 ++ 6#6 ++ vd ++ 123#7
  | .vfsilu vd vs2 w m => 31#5 ++ (bit1 w) ++ (bit1 m) ++ vs2 ++ 7#6 ++ vd ++ 123#7
  | .vfgelu vd vs2 w m => 31#5 ++ (bit1 w) ++ (bit1 m) ++ vs2 ++ 8#6 ++ vd ++ 123#7
  | .vfsin vd vs2 w m => 31#5 ++ (bit1 w) ++ (bit1 m) ++ vs2 ++ 9#6 ++ vd ++ 123#7
  | .vfcos vd vs2 w m => 31#5 ++ (bit1 w) ++ (bit1 m) ++ vs2 ++ 10#6 ++ vd ++ 123#7
  | .vfabs vd vs2 w m => 31#5 ++ (bit1 w) ++ (bit1 m) ++ vs2 ++ 11#6 ++ vd ++ 123#7
  | .vfneg vd vs2 w m => 31#5 ++ (bit1 w) ++ (bit1 m) ++ vs2 ++ 12#6 ++ vd ++ 123#7
  | .vconj vd vs2 w m => 31#5 ++ (bit1 w) ++ (bit1 m) ++ vs2 ++ 13#6 ++ vd ++ 123#7
  | .vfredsum vd vs2 w m => 31#5 ++ (bit1 w) ++ (bit1 m) ++ vs2 ++ 14#6 ++ vd ++ 123#7
  | .vfredmax vd vs2 w m => 31#5 ++ (bit1 w) ++ (bit1 m) ++ vs2 ++ 15#6 ++ vd ++ 123#7
  | .vfredmin vd vs2 w m => 31#5 ++ (bit1 w) ++ (bit1 m) ++ vs2 ++ 16#6 ++ vd ++ 123#7
  | .vfredamax vd vs2 w m => 31#5 ++ (bit1 w) ++ (bit1 m) ++ vs2 ++ 17#6 ++ vd ++ 123#7
  | .pfwd vd vs2 w => 31#5 ++ (bit1 w) ++ 0#1 ++ vs2 ++ 18#6 ++ vd ++ 123#7
  | .pinv vd vs2 w => 31#5 ++ (bit1 w) ++ 0#1 ++ vs2 ++ 19#6 ++ vd ++ 123#7
  | .pfwdc vd vs2 w => 31#5 ++ (bit1 w) ++ 0#1 ++ vs2 ++ 20#6 ++ vd ++ 123#7
  | .pinvc vd vs2 w => 31#5 ++ (bit1 w) ++ 0#1 ++ vs2 ++ 21#6 ++ vd ++ 123#7
  | .vretag vd vs2 w => 31#5 ++ (bit1 w) ++ 0#1 ++ vs2 ++ 22#6 ++ vd ++ 123#7
  | .vtagclr vd vs2 w => 31#5 ++ (bit1 w) ++ 0#1 ++ vs2 ++ 23#6 ++ vd ++ 123#7
  | .vfaddVf vd vs2 fs1 w m => 32#6 ++ (bit1 w) ++ (bit1 m) ++ vs2 ++ fs1 ++ vd ++ 43#7
  | .vfsubVf vd vs2 fs1 w m => 33#6 ++ (bit1 w) ++ (bit1 m) ++ vs2 ++ fs1 ++ vd ++ 43#7
  | .vfmulVf vd vs2 fs1 w m => 34#6 ++ (bit1 w) ++ (bit1 m) ++ vs2 ++ fs1 ++ vd ++ 43#7
  | .vfdivVf vd vs2 fs1 w m => 35#6 ++ (bit1 w) ++ (bit1 m) ++ vs2 ++ fs1 ++ vd ++ 43#7
  | .vfminVf vd vs2 fs1 w m => 36#6 ++ (bit1 w) ++ (bit1 m) ++ vs2 ++ fs1 ++ vd ++ 43#7
  | .vfmaxVf vd vs2 fs1 w m => 37#6 ++ (bit1 w) ++ (bit1 m) ++ vs2 ++ fs1 ++ vd ++ 43#7
  | .vfsgnjVf vd vs2 fs1 w m => 38#6 ++ (bit1 w) ++ (bit1 m) ++ vs2 ++ fs1 ++ vd ++ 43#7
  | .vfsgnjnVf vd vs2 fs1 w m => 39#6 ++ (bit1 w) ++ (bit1 m) ++ vs2 ++ fs1 ++ vd ++ 43#7
  | .vfsgnjxVf vd vs2 fs1 w m => 40#6 ++ (bit1 w) ++ (bit1 m) ++ vs2 ++ fs1 ++ vd ++ 43#7
  | .vfmaccVf vd vs2 fs1 w m => 41#6 ++ (bit1 w) ++ (bit1 m) ++ vs2 ++ fs1 ++ vd ++ 43#7
  | .vfnmaccVf vd vs2 fs1 w m => 42#6 ++ (bit1 w) ++ (bit1 m) ++ vs2 ++ fs1 ++ vd ++ 43#7
  | .vfmsacVf vd vs2 fs1 w m => 43#6 ++ (bit1 w) ++ (bit1 m) ++ vs2 ++ fs1 ++ vd ++ 43#7
  | .vfnmsacVf vd vs2 fs1 w m => 44#6 ++ (bit1 w) ++ (bit1 m) ++ vs2 ++ fs1 ++ vd ++ 43#7
  | .vfeqVf vd vs2 fs1 w m => 45#6 ++ (bit1 w) ++ (bit1 m) ++ vs2 ++ fs1 ++ vd ++ 43#7
  | .vfneVf vd vs2 fs1 w m => 46#6 ++ (bit1 w) ++ (bit1 m) ++ vs2 ++ fs1 ++ vd ++ 43#7
  | .vfltVf vd vs2 fs1 w m => 47#6 ++ (bit1 w) ++ (bit1 m) ++ vs2 ++ fs1 ++ vd ++ 43#7
  | .vfleVf vd vs2 fs1 w m => 48#6 ++ (bit1 w) ++ (bit1 m) ++ vs2 ++ fs1 ++ vd ++ 43#7
  | .vfunVf vd vs2 fs1 w m => 49#6 ++ (bit1 w) ++ (bit1 m) ++ vs2 ++ fs1 ++ vd ++ 43#7
  | .vfmergeVf vd vs2 fs1 w => 50#6 ++ (bit1 w) ++ 1#1 ++ vs2 ++ fs1 ++ vd ++ 43#7
  | .vfwmaccVf vd vs2 fs1 w m => 53#6 ++ (bit1 w) ++ (bit1 m) ++ vs2 ++ fs1 ++ vd ++ 43#7
  | .vbscaleVf vd tf fs1 w => 60#6 ++ (bit1 w) ++ 0#1 ++ tf ++ fs1 ++ vd ++ 43#7
  | .vld vd rs1 w m => 0#9 ++ (bit1 w) ++ (bit1 m) ++ (vd.extractLsb' 5 1) ++ rs1 ++ 4#3 ++ (vd.extractLsb' 0 5) ++ 11#7
  | .vldFe vd rs1 w m => 2#9 ++ (bit1 w) ++ (bit1 m) ++ (vd.extractLsb' 5 1) ++ rs1 ++ 4#3 ++ (vd.extractLsb' 0 5) ++ 11#7
  | .vldFec vd rs1 w m => 4#9 ++ (bit1 w) ++ (bit1 m) ++ (vd.extractLsb' 5 1) ++ rs1 ++ 4#3 ++ (vd.extractLsb' 0 5) ++ 11#7
  | .vldSc vd rs1 w m => 6#9 ++ (bit1 w) ++ (bit1 m) ++ (vd.extractLsb' 5 1) ++ rs1 ++ 4#3 ++ (vd.extractLsb' 0 5) ++ 11#7
  | .vst vd rs1 w m => 1#9 ++ (bit1 w) ++ (bit1 m) ++ (vd.extractLsb' 5 1) ++ rs1 ++ 4#3 ++ (vd.extractLsb' 0 5) ++ 11#7
  | .vstFe vd rs1 w m => 3#9 ++ (bit1 w) ++ (bit1 m) ++ (vd.extractLsb' 5 1) ++ rs1 ++ 4#3 ++ (vd.extractLsb' 0 5) ++ 11#7
  | .vstNt vd rs1 w m => 5#9 ++ (bit1 w) ++ (bit1 m) ++ (vd.extractLsb' 5 1) ++ rs1 ++ 4#3 ++ (vd.extractLsb' 0 5) ++ 11#7
  | .vstSc vd rs1 w m => 7#9 ++ (bit1 w) ++ (bit1 m) ++ (vd.extractLsb' 5 1) ++ rs1 ++ 4#3 ++ (vd.extractLsb' 0 5) ++ 11#7
  | .vlds vd rs1 rs2 w m => 0#3 ++ (bit1 w) ++ (bit1 m) ++ (vd.extractLsb' 5 1) ++ 0#1 ++ rs2 ++ rs1 ++ 5#3 ++ (vd.extractLsb' 0 5) ++ 11#7
  | .vldsFe vd rs1 rs2 w m => 4#3 ++ (bit1 w) ++ (bit1 m) ++ (vd.extractLsb' 5 1) ++ 0#1 ++ rs2 ++ rs1 ++ 5#3 ++ (vd.extractLsb' 0 5) ++ 11#7
  | .vsts vd rs1 rs2 w m => 1#3 ++ (bit1 w) ++ (bit1 m) ++ (vd.extractLsb' 5 1) ++ 0#1 ++ rs2 ++ rs1 ++ 5#3 ++ (vd.extractLsb' 0 5) ++ 11#7
  | .vstsFe vd rs1 rs2 w m => 5#3 ++ (bit1 w) ++ (bit1 m) ++ (vd.extractLsb' 5 1) ++ 0#1 ++ rs2 ++ rs1 ++ 5#3 ++ (vd.extractLsb' 0 5) ++ 11#7
  | .vldx vd rs1 vs2 w m => 2#3 ++ (bit1 w) ++ (bit1 m) ++ (vd.extractLsb' 5 1) ++ vs2 ++ rs1 ++ 5#3 ++ (vd.extractLsb' 0 5) ++ 11#7
  | .vldxFe vd rs1 vs2 w m => 6#3 ++ (bit1 w) ++ (bit1 m) ++ (vd.extractLsb' 5 1) ++ vs2 ++ rs1 ++ 5#3 ++ (vd.extractLsb' 0 5) ++ 11#7
  | .vstx vd rs1 vs2 w m => 3#3 ++ (bit1 w) ++ (bit1 m) ++ (vd.extractLsb' 5 1) ++ vs2 ++ rs1 ++ 5#3 ++ (vd.extractLsb' 0 5) ++ 11#7
  | .vstxFe vd rs1 vs2 w m => 7#3 ++ (bit1 w) ++ (bit1 m) ++ (vd.extractLsb' 5 1) ++ vs2 ++ rs1 ++ 5#3 ++ (vd.extractLsb' 0 5) ++ 11#7
  | .vbadd vd vs2 rs1 w m => 0#3 ++ (bit1 w) ++ (bit1 m) ++ (vd.extractLsb' 5 1) ++ vs2 ++ rs1 ++ 7#3 ++ (vd.extractLsb' 0 5) ++ 11#7
  | .vbfadd vd vs2 rs1 w m => 1#3 ++ (bit1 w) ++ (bit1 m) ++ (vd.extractLsb' 5 1) ++ vs2 ++ rs1 ++ 7#3 ++ (vd.extractLsb' 0 5) ++ 11#7
  | .vbfmax vd vs2 rs1 w m => 2#3 ++ (bit1 w) ++ (bit1 m) ++ (vd.extractLsb' 5 1) ++ vs2 ++ rs1 ++ 7#3 ++ (vd.extractLsb' 0 5) ++ 11#7
  | .vbor vd vs2 rs1 w m => 3#3 ++ (bit1 w) ++ (bit1 m) ++ (vd.extractLsb' 5 1) ++ vs2 ++ rs1 ++ 7#3 ++ (vd.extractLsb' 0 5) ++ 11#7
  | .vlock vd vs2 rs1 w m => 4#3 ++ (bit1 w) ++ (bit1 m) ++ (vd.extractLsb' 5 1) ++ vs2 ++ rs1 ++ 7#3 ++ (vd.extractLsb' 0 5) ++ 11#7
  | .vunlock vd vs2 rs1 w m => 5#3 ++ (bit1 w) ++ (bit1 m) ++ (vd.extractLsb' 5 1) ++ vs2 ++ rs1 ++ 7#3 ++ (vd.extractLsb' 0 5) ++ 11#7
  | .vfabget vd vs2 rs1 w m => 6#3 ++ (bit1 w) ++ (bit1 m) ++ (vd.extractLsb' 5 1) ++ vs2 ++ rs1 ++ 7#3 ++ (vd.extractLsb' 0 5) ++ 11#7
  | .vfabput vd vs2 rs1 w m => 7#3 ++ (bit1 w) ++ (bit1 m) ++ (vd.extractLsb' 5 1) ++ vs2 ++ rs1 ++ 7#3 ++ (vd.extractLsb' 0 5) ++ 11#7
  | .join => 11#32
  | .nend => 134217739#32
  | .meet k => 256#12 ++ k ++ 11#15
  | .yield => 402653195#32
  | .bfree bd => 262144#21 ++ bd ++ 11#7
  | .blim rd bs => 1280#13 ++ bs ++ 0#3 ++ rd ++ 11#7
  | .bptr rd bs => 1536#13 ++ bs ++ 0#3 ++ rd ++ 11#7
  | .feclr cls num => 28#7 ++ cls ++ 0#8 ++ num ++ 11#7
  | .vfeclr vd => 8#5 ++ (vd.extractLsb' 5 1) ++ 0#14 ++ (vd.extractLsb' 0 5) ++ 11#7
  | .barInit rs1 w1 => 18#6 ++ (bit1 w1) ++ 0#5 ++ rs1 ++ 11#15
  | .barExp rs1 rs2 w1 w2 => 10#5 ++ (bit1 w2) ++ (bit1 w1) ++ rs2 ++ rs1 ++ 11#15
  | .barArr rs1 rs2 scope w1 w2 => 11#5 ++ (bit1 w2) ++ (bit1 w1) ++ rs2 ++ rs1 ++ 0#3 ++ scope ++ 11#7
  | .barWait rs1 rs2 scope w1 w2 => 12#5 ++ (bit1 w2) ++ (bit1 w1) ++ rs2 ++ rs1 ++ 0#3 ++ scope ++ 11#7
  | .vdrain => 1744830475#32
  | .fenceS kind scope => 56#7 ++ scope ++ kind ++ 11#15
  | .lpost rd rs1 w1 => 30#6 ++ (bit1 w1) ++ 0#5 ++ rs1 ++ 0#3 ++ rd ++ 11#7
  | .tret => 2147483659#32
  | .ctxsave rd rs1 rs2 w1 w2 => 17#5 ++ (bit1 w2) ++ (bit1 w1) ++ rs2 ++ rs1 ++ 0#3 ++ rd ++ 11#7
  | .ctxload rd rs1 rs2 w1 w2 => 18#5 ++ (bit1 w2) ++ (bit1 w1) ++ rs2 ++ rs1 ++ 0#3 ++ rd ++ 11#7
  | .chold rs1 w1 => 38#6 ++ (bit1 w1) ++ 0#5 ++ rs1 ++ 11#15
  | .fabld rd rs1 w1 => 40#6 ++ (bit1 w1) ++ 0#5 ++ rs1 ++ 0#3 ++ rd ++ 11#7
  | .fabst rs1 rs2 w1 w2 => 21#5 ++ (bit1 w2) ++ (bit1 w1) ++ rs2 ++ rs1 ++ 11#15
  | .fabadd rd rs1 rs2 w1 w2 => 22#5 ++ (bit1 w2) ++ (bit1 w1) ++ rs2 ++ rs1 ++ 0#3 ++ rd ++ 11#7
  | .fabcas rd rs1 rs2 w1 w2 => 23#5 ++ (bit1 w2) ++ (bit1 w1) ++ rs2 ++ rs1 ++ 0#3 ++ rd ++ 11#7
  | .fabswp rd rs1 rs2 w1 w2 => 24#5 ++ (bit1 w2) ++ (bit1 w1) ++ rs2 ++ rs1 ++ 0#3 ++ rd ++ 11#7
  | .fabfl => 3355443211#32
  | .fabred rs1 rs2 w1 w2 => 26#5 ++ (bit1 w2) ++ (bit1 w1) ++ rs2 ++ rs1 ++ 11#15
  | .fabrw rd rs1 w1 => 54#6 ++ (bit1 w1) ++ 0#5 ++ rs1 ++ 0#3 ++ rd ++ 11#7
  | .cres rs1 w1 => 56#6 ++ (bit1 w1) ++ 0#5 ++ rs1 ++ 11#15
  | .halt => 3892314123#32
  | .scrub rd rs1 w1 => 60#6 ++ (bit1 w1) ++ 0#5 ++ rs1 ++ 0#3 ++ rd ++ 11#7
  | .bslot bd imm rs1 => imm ++ rs1 ++ 2#4 ++ bd ++ 11#7
  | .loop rs1 off w1 => off ++ (bit1 w1) ++ rs1 ++ 8203#15
  | .lbrk => 8331#32
  | .lnext => 8459#32
  | .vstrip off => off ++ 8587#21
  | .fork off => off ++ 8715#21
  | .vlset rd rs1 fmt grp y w1 => 0#4 ++ (bit1 y) ++ grp ++ fmt ++ (bit1 w1) ++ rs1 ++ 3#3 ++ rd ++ 11#7
  | .mtset rd rs1 w1 => 0#6 ++ (bit1 w1) ++ 0#5 ++ rs1 ++ 6#3 ++ rd ++ 11#7
  | .mwld rs1 fmt w1 => 2#6 ++ (bit1 w1) ++ fmt ++ rs1 ++ 24587#15
  | .mgath vs rs1 w => 2#5 ++ (bit1 w) ++ vs ++ rs1 ++ 24587#15
  | .mmac zd rs1 fmt w1 => 6#6 ++ (bit1 w1) ++ fmt ++ rs1 ++ 24#5 ++ zd ++ 11#7
  | .mmacz zd rs1 fmt w1 => 8#6 ++ (bit1 w1) ++ fmt ++ rs1 ++ 24#5 ++ zd ++ 11#7
  | .mzero zd => 655384#22 ++ zd ++ 11#7
  | .mrd vd zs w => 6#5 ++ (bit1 w) ++ vd ++ zs ++ 24587#15
  | .mst zs rs1 w1 => 14#6 ++ (bit1 w1) ++ 0#5 ++ rs1 ++ 24#5 ++ zs ++ 11#7
  | .mcode rs1 w1 => 16#6 ++ (bit1 w1) ++ 0#5 ++ rs1 ++ 24587#15
  | .ystr vd rs1 w => 9#5 ++ (bit1 w) ++ vd ++ rs1 ++ 24587#15
  | .yend vd => 20#6 ++ vd ++ 24587#20
  | .yld rd vd rs1 w => 11#5 ++ (bit1 w) ++ vd ++ rs1 ++ 6#3 ++ rd ++ 11#7
  | .yst rd vd rs1 w => 12#5 ++ (bit1 w) ++ vd ++ rs1 ++ 6#3 ++ rd ++ 11#7
  | .yxfer rd vd rs1 w => 13#5 ++ (bit1 w) ++ vd ++ rs1 ++ 6#3 ++ rd ++ 11#7
  | .ytile rd rs1 w1 => 28#6 ++ (bit1 w1) ++ 0#5 ++ rs1 ++ 6#3 ++ rd ++ 11#7
  | .engineQueueEntry _ _ => 0#32
  | .matrixQueueEntry _ => 0#32
  | .waitSatisfied _ _ => 0#32
  | .copyChunk _ _ => 0#32
  | .copyCompletion _ _ => 0#32
  | .streamReadAhead _ _ => 0#32
  | .streamWriteOut _ _ => 0#32
  | .preemptionHonoured _ => 0#32
  | .yieldWindowExpiry _ => 0#32
  | .managerEventEntry _ => 0#32
  | .skeinWrite _ => 0#32
  | .qtailWrite _ _ => 0#32
  | .recordTake _ => 0#32
  | .nodeDispatch _ _ _ => 0#32
  | .nodeCompletion _ _ => 0#32
  | .agingIntervalExpiry _ _ => 0#32
  | .gangReservation _ => 0#32
  | .qosExpiry _ => 0#32
  | .holdGateWrite _ _ _ _ _ => 0#32
  | .gateDrained _ _ => 0#32
  | .coalescingTimerExpiry _ => 0#32
  | .functionLevelReset _ => 0#32
  | .scrubBlock _ => 0#32
  | .cxlMemAccess _ _ _ _ => 0#32
  | .ckill _ _ => 0#32
  | .revoke _ _ => 0#32
  | .evhubWrite _ _ => 0#32
  | .cablemaskWrite _ _ => 0#32
  | .gaugetabWrite _ _ => 0#32
  | .keyGenerate _ => 0#32
  | .keyDestroy _ => 0#32
  | .vprogWrite _ _ => 0#32
  | .registerWrite _ _ => 0#32
  | .gaugeGrant _ _ _ => 0#32
  | .thermalShutdown => 0#32
  | .plimitSet _ => 0#32
  | .fabricLoad _ _ => 0#32
  | .fabricStore _ _ => 0#32
  | .fabricFetchAdd _ _ => 0#32
  | .fabricCompareAndSwap _ _ => 0#32
  | .fabricSwap _ _ => 0#32
  | .fabricContribution _ _ => 0#32
  | .fabricIndexedGet _ _ => 0#32
  | .fabricIndexedPut _ _ => 0#32
  | .fabricAcknowledgementOnly _ _ => 0#32
  | .fabricClose _ _ => 0#32
  | .fabricReply _ _ => 0#32
  | .retransmissionTimer _ => 0#32
  | .deviceReset _ _ => 0#32
  | .getVersion _ => 0#32
  | .getCapabilities _ => 0#32
  | .negotiateAlgorithms _ => 0#32
  | .getDigests _ => 0#32
  | .getCertificate _ => 0#32
  | .challenge _ => 0#32
  | .getMeasurements _ => 0#32
  | .msiXVectorUnmask _ _ => 0#32

end Sys2Proof
end

