-- ==== Sys2Proof/Config.lean ====
section
/-! DEFINITION. What an implementation fixes, and the free values: constants without a body that the spec leaves open. -/

namespace Sys2Proof.Config

/-- Ten-nanosecond units by which the device timer advances in step `tick` (R193 gives `time`; R7 gives no latency). (DESIGN CHOICE, log entry 5.) -/
opaque timeStep : (tick : Nat) → Nat
/-- Core cycles that pass for a context in step `tick` (R193 `cycle`; R7). (DESIGN CHOICE, log entry 5.) -/
opaque cycleStep : (tick : Nat) → Nat
/-- The byte a read under key instance `reader` returns where the line was written under another instance (R422:
"returns garbage without a fault"); applied to the address, both instances and the stored byte. (DESIGN CHOICE, log entry 7.) -/
opaque garble : (address reader writer : Nat) → Byte → Byte
/-- The 256 bits of the context key that is instance `inst` (R376: generated, never revealed). (DESIGN CHOICE, log entry 18.) -/
opaque contextKey : (inst : Nat) → BitVec 256
/-- SHA-512 digest of the security version and the fuse state (R424, measurement 3). (DESIGN CHOICE, log entry 20.) -/
opaque fuseDigest : (version : Nat) → (keyHash : BitVec 512) → (minVersion : Nat) → BitVec 512
/-- SHA-512 digest of the lane map of every core (R424, measurement 4). (DESIGN CHOICE, log entry 20.) -/
opaque laneDigest : List (BitVec 16) → BitVec 512
/-- RSASSA-4096 signature by the identity key of fused secrets over a request and what its answer holds (R424). (DESIGN CHOICE,
log entry 20.) -/
opaque identitySign : (secret : BitVec 512) → (request : List Byte) → (content : List (BitVec 512)) → (tick : Nat) → BitVec 4096

/-- Element that a `vslideup` pushes to a write stream for a position below its slide count, whose value the spec does
not state (R241, R286); applied to the step and the element index. (DESIGN CHOICE, log entry 29.) -/
opaque slideElement : (tick index : Nat) → Word
/-- Element that a read of a yarn register finds where the stream gives none: below the start of the instruction that pops, whose
register contents are never visible (R285); applied to the register, the stream position and the element index. (DESIGN CHOICE,
log entry 29.) -/
opaque hiddenElement : (register position index : Nat) → Word
/-- The 2,048 bytes that a tag override copies of a yarn register apart from the elements it pops, and of the group's other
registers (R285, R329); applied to the step and the register. (DESIGN CHOICE, log entry 29.) -/
opaque hiddenRegister : (tick register : Nat) → BitVec 16384
/-- What a failing SC of step `tick` writes to x[rd], where it is not 0: the published base says of it only that it is not 0
(R178, R179). (DESIGN CHOICE, log entry 33.) -/
opaque scFailure : (tick : Nat) → Word

end Sys2Proof.Config
end

