-- ==== Sys2Proof/Machine/State.lean ====
section
/-! DEFINITION. All the state the spec gives the machine, as plain data, and the state right after a device reset. -/

namespace Sys2Proof.Machine
open Sys2Proof

/-- Why the machine stops in a fault. -/
inductive Fault where
  /-- Raised by a manager access through slot 4091 to an MMIO address at which the spec describes no register (R114,
  R298, R363, R392): safe, the model stops where the device would go on in a way the spec does not give. -/
  | mmioHole (address : Nat)
  /-- Raised when a turn names an instruction that has a word as if it were a step without one: safe, no run of the
  device has such a turn. -/
  | turnIsNoEvent
  deriving DecidableEq, Repr

/-- Why the model gives no meaning. -/
inductive Refusal where
  /-- An arm of `exec` that is not written yet: safe. -/
  | notModelled (mnemonic : String)
  deriving DecidableEq, Repr

/-- A sparse map by ascending key. With a default value it is canonical when keys rise strictly and no entry holds the
default; without one, when keys rise strictly. -/
abbrev Sparse (α : Type) := List (Nat × α)

/-! ## Needles -/

/-- What a blocked needle waits for (R13). -/
inductive Wait where
  | meet (k : BitVec 5)
  | join
  | barWait
  | full
  deriving DecidableEq, Repr

/-- The three states of a needle (R13). -/
inductive Run where
  | idle
  | running
  | blocked (w : Wait)
  deriving DecidableEq, Repr

/-- A level of a loop stack (R23). -/
structure Level where
  start : Word
  last : Word
  count : Word
  index : Word
  deriving DecidableEq, Repr

/-- What a vector instruction captured at issue (R226, R249, R322), kept while it waits. -/
structure Capture where
  vl : Nat
  vbeg : Nat
  vtype : BitVec 6
  frm : BitVec 3
  vqcfg : BitVec 6
  pblk : BitVec 17
  /-- x[rs1] or f[rs1] of a VX form; the base pointer of a memory instruction. -/
  scalar : Word
  /-- x[rs2] of a strided memory instruction. -/
  stride : Word := 0#64
  /-- The offsets of an indexed memory instruction by element, read before its first element (R280). -/
  offs : List (BitVec 32) := []
  /-- The active elements of a memory instruction that waits, as its mask gave them. -/
  act : List Nat := []
  /-- Tag that a load requires: that of its first active element (R275). -/
  need : Option (BitVec 6) := none
  /-- The 64 register tags at issue, register r's in bits [6r + 5 : 6r] (R324); `none` reads them as they stand. -/
  tags : Option (BitVec 384) := none
  /-- `fsel` at the issue of a fabric instruction (R394). -/
  fsel : BitVec 9 := 0#9
  /-- A lane barrier of S that has begun: V's vector instructions wait until it has finished (R36). -/
  barrier : Bool := false
  deriving DecidableEq, Repr

/-- One needle of a core (R13, R23, R40). -/
structure NeedleState where
  pc : Word := 0#64
  run : Run := .idle
  /-- Open levels, innermost first (R23). -/
  loops : List Level := []
  /-- Stopped at a yield point for a pending request (R41). -/
  atYield : Bool := false
  /-- The next instruction is the first of an iteration of the innermost open loop (R40). -/
  fresh : Bool := false
  /-- A needle started by a fork waits until no queue entry issued before this number is left (R16). -/
  forkWait : Nat := 0
  /-- A `vdrain` under way waits for operations issued before this number; 0 for none (R218). -/
  drain : Nat := 0
  /-- Captured state of a vector instruction that waits part way (R43, R226). -/
  part : Option Capture := none
  deriving DecidableEq, Repr

/-! ## Knowledge (R157) -/

/-- What is known to happen before a point, by device-wide core index: the largest release count of each core, and, from the
edges that carry no count (a node's completion, a context's own past on another core), the step up to which its accesses are
ordered (R153, R158; DESIGN CHOICE, log entry 21). Counts are not reduced modulo 2^16 here; an unlisted entry is 0. -/
structure Knowledge where
  counts : Sparse Nat := []
  past : Sparse Nat := []
  deriving DecidableEq, Repr

/-- A release that a later acquire can read (R153, R161, R170): its bytes, its core and scope, and the knowledge it carries. -/
structure Release where
  lo : Nat
  len : Nat
  core : Nat
  scope : BitVec 3
  know : Knowledge
  /-- Ranges, start and length, that a plain write has overwritten and no atomic write since (R153). -/
  hidden : List (Nat × Nat) := []
  /-- Agents and issue numbers of fabric operations that took the release half before it: no release if one of them turns out to have
  written (R161, R408). -/
  unsure : List (Agent × Nat) := []
  deriving DecidableEq, Repr

/-- A release half that a store takes: its scope, and what precedes its fence (R161). -/
structure Half where
  scope : BitVec 3
  know : Knowledge := {}
  /-- The fabric operations that took it before and whose outcome is not known (R408). -/
  unsure : List (Agent × Nat) := []
  deriving DecidableEq, Repr

/-! ## Registers of a context -/

/-- The pattern record of a yarn stream (R284). -/
structure Pattern where
  base : Word
  stride0 : Word
  stride1 : Word
  stride2 : Word
  count0 : BitVec 32
  count1 : BitVec 32
  count2 : BitVec 32
  tag : BitVec 6
  scope : BitVec 3
  rel : Bool
  acq : Bool
  dir : Bool
  esz : BitVec 2
  deriving DecidableEq, Repr

/-- A fault a stream has recorded and not yet reported (R288). -/
structure StreamFault where
  element : Nat
  cause : BitVec 8
  sub : BitVec 8
  offset : BitVec 48
  deriving DecidableEq, Repr

/-- A slot-table entry as its two words hold it (R113). -/
structure SlotEntry where
  present : Bool := false
  writable : Bool := false
  code : Bool := false
  packed : Bool := false
  key : BitVec 7 := 0#7
  base : BitVec 48 := 0#48
  limit : BitVec 48 := 0#48
  deriving DecidableEq, Repr

/-- A seated base register: the slot, its copy of the entry, and whether a re-seat found the entry absent (R115, R123). -/
structure Seat where
  slot : BitVec 12
  entry : SlotEntry
  absent : Bool := false
  deriving DecidableEq, Repr

/-- An open yarn stream (R284-R289). -/
structure Stream where
  pat : Pattern
  /-- Next element to pop (read stream) or next to write to memory (write stream). -/
  pos : Nat := 0
  /-- Elements fetched and not popped, or pushed and not yet written, oldest first. -/
  buf : List Word := []
  fault : Option StreamFault := none
  /-- Stitch pointer of the `ystr` (R357). -/
  ipc : Word
  /-- Seated slots as they resolved at the `ystr` or at the latest resume after a park (R124). -/
  seats : List Seat := []
  /-- Knowledge at the `ystr`, which the stream's release covers when acq is set (R169). -/
  know : Knowledge := {}
  deriving DecidableEq, Repr

/-- A vector register: 16 lane slices of 128 bytes, lane `n`'s slice in bits [1024n + 1023 : 1024n] (R33, R34). -/
structure VecReg where
  data : BitVec 16384 := 0#16384
  tag : BitVec 6 := 0#6
  full : Bool := true
  dirty : Bool := false
  vlb : BitVec 8 := 0#8
  stream : Option Stream := none
  deriving DecidableEq, Repr

/-- An accumulator tile of 2 KiB (R300, R301, R330, R369). -/
structure Tile where
  data : BitVec 16384 := 0#16384
  mode : BitVec 2 := 0#2
  tag : BitVec 6 := 0#6
  full : Bool := true
  written : Bool := false
  deriving DecidableEq, Repr

/-- The array's fault record (R305) with what its operation record needs (R362). -/
structure ArrayFault where
  status : Word
  iword : BitVec 32
  sub : BitVec 8
  ptr : Word
  val1 : Word
  ipc : Word
  seq : Nat
  deriving DecidableEq, Repr

/-- The matrix array's state apart from the tiles (R300). -/
structure ArrayState where
  mg : BitVec 8 := 0#8
  ng : BitVec 8 := 0#8
  kg : BitVec 8 := 0#8
  /-- Latched weight format; BF16 at context start. -/
  wfmt : BitVec 5 := 5#5
  /-- Present cells: key 16k + n, value the weight's bits. -/
  cells : Sparse Word := []
  /-- SB header of weight row k. -/
  whdr : Sparse (BitVec 32) := []
  /-- Codebook copy latched with CB4 weights: entry j in bits [16j + 15 : 16j]. -/
  wcode : BitVec 256 := 0#256
  codebook : BitVec 256 := 0#256
  /-- Operand latch: row m in bits [512m + 511 : 512m]. -/
  latch : BitVec 16384 := 0#16384
  /-- Tag of latch row m in bits [6m + 5 : 6m]. -/
  latchTags : BitVec 192 := 0#192
  fault : Option ArrayFault := none
  /-- A matrix instruction has executed since start or restore (R369). -/
  used : Bool := false
  deriving DecidableEq, Repr

/-- Base and limit of a fixed slot (R112). -/
structure FixedSlot where
  base : BitVec 48 := 0#48
  limit : BitVec 48 := 0#48
  deriving DecidableEq, Repr

/-- The strip state (R27, R204). -/
structure Strip where
  srem : Word := 0#64
  sptr : BitVec 32 := 0#32
  vl : Word := 0#64
  vtype : BitVec 6 := 0#6
  owner : Needle := .S
  start : Word := 0#64
  cont : Bool := false
  opened : Bool := false
  deriving DecidableEq, Repr

/-- How a memory access failed: cause, failing pointer and second operand word (R118). -/
structure MemFault where
  cause : BitVec 8
  ptr : Word
  val1 : Word
  deriving DecidableEq, Repr

/-- The copy instructions (R290). -/
inductive CopyKind where
  | yld | yst | yxfer | ytile
  deriving DecidableEq, Repr

/-- The follow-on command of a copy: none, waiting for the copy, in the matrix queue, finished (R296). -/
inductive FollowOn where
  | none | waiting | queued | finished
  deriving DecidableEq, Repr

/-- A copy in flight (R290-R297). -/
structure CopyOp where
  kind : CopyKind
  seq : Nat
  word : BitVec 32
  ipc : Word
  xd : XReg
  vreg : VReg
  /-- The record read at issue, little-endian: 32 bytes, or 64 for `ytile`. -/
  record : BitVec 512
  /-- L at issue. -/
  lanes : BitVec 5
  /-- CSRs captured for the follow-on command (R303). -/
  pblk : BitVec 17
  mapitch : Word
  mwpitch : Word
  mzmap : Word
  /-- Seated slots as they resolved at issue or at the latest resume after a park (R124). -/
  seats : List Seat
  nextChunk : Nat := 0
  /-- Bytes written, in stream order (R291). -/
  bytes : Nat := 0
  /-- The first failure, when there is one. -/
  fail : Option MemFault := none
  /-- Code of the status word once known. -/
  code : BitVec 8 := 0#8
  follow : FollowOn := .none
  parked : Bool := false
  /-- Knowledge at issue, given out by credits and by the release when acq is set (R168, R169). -/
  know : Knowledge := {}
  /-- The 256 bytes of the K-slot block decoded last, of which chunks are still to be written (R143). -/
  block : Option Nat := none
  /-- S issued it: it is an entry of the copy queue until it completes (R16). -/
  inline : Bool := false
  deriving DecidableEq, Repr

/-- An entry of an engine's inline queue, with what it captured at issue (R16, R375). -/
structure QEntry where
  word : BitVec 32
  /-- A follow-on command placed by the copy with this issue number (R296). -/
  fo : Option Nat := none
  opnd : Word := 0#64
  /-- x[rs1 + 1] and x[rs1 + 2] of an `mtset` (R375). -/
  opnd1 : Word := 0#64
  opnd2 : Word := 0#64
  vl : BitVec 32 := 0#32
  /-- All 64 bits of the register; a skein's field has 32 (R375). -/
  vbeg : Word := 0#64
  vtype : BitVec 6 := 0#6
  frm : BitVec 3 := 0#3
  vqcfg : BitVec 6 := 0#6
  lanes : BitVec 5 := 0#5
  pblk : BitVec 17 := 0#17
  mapitch : Word := 0#64
  mwpitch : Word := 0#64
  mzmap : Word := 0#64
  ipc : Word := 0#64
  /-- The 32 index elements of an `mgath` (R315). -/
  idx : List (BitVec 32) := []
  /-- Issue number (R361). -/
  seq : Nat := 0
  /-- The 64 register tags at issue (R324); `none` reads them when the entry runs. -/
  tags : Option (BitVec 384) := none
  /-- Placed by S inline: faults are reported as S's (R358); otherwise by M or a copy. -/
  byS : Bool := true
  /-- A copy that S issued, its record read, not yet handed to the engine (R290, R367). -/
  copy : Option CopyOp := none
  /-- It faulted, or was restored at the head: a save does not run it again before the context resumes (R358, R367). -/
  held : Bool := false
  deriving DecidableEq, Repr

/-- The kind field of an operation record (R362). -/
inductive OpKind where
  | copy | matrix | fabric | stream
  deriving DecidableEq, Repr

/-- An asynchronous fault recorded and not yet delivered (R361, R362). -/
structure PendingFault where
  seq : Nat
  /-- Status register whose read delivers it; `none` when only a join, vdrain or context end does. -/
  xd : Option XReg
  /-- Stream whose `fabfl` also delivers it (R409). -/
  stream : Option (BitVec 3) := none
  status : Word
  iword : BitVec 32
  kind : OpKind
  sub : BitVec 8
  cause : BitVec 8
  ptr : Word
  val1 : Word
  ipc : Word
  deriving DecidableEq, Repr

/-- A trap record (R197, R359). -/
structure TrapRecord where
  cause : BitVec 8
  needle : BitVec 2
  tpc : Word
  tipc : Word
  tval0 : Word
  tval1 : Word
  deriving DecidableEq, Repr

/-- A pre-emption request that is pending (R41, R209, R222, R349). -/
inductive Request where
  | slice | yield | hold
  deriving DecidableEq, Repr

/-- Where a context stands. -/
inductive Life where
  | running
  | held
  | switchedOut
  | ending
  | ended
  | killed
  deriving DecidableEq, Repr

/-- A pending reduction (R413-R415): its name and the issue number of its contribution. -/
structure Reduction where
  name : Word
  seq : Nat
  /-- The operation of R412; 0 to 2 give FP32 results, which are zero-extended (R415). -/
  op : BitVec 8 := 0#8
  /-- The reply: result, and the status, NaN count and mask as `fstat` holds them; `none` while outstanding. -/
  reply : Option (Word × Word) := none
  /-- The contribution failed (R415): cause and second operand word. -/
  failed : Option (BitVec 8 × Word) := none
  /-- Destinations of the `fabrw`s that wait for it. -/
  want : List XReg := []
  deriving DecidableEq, Repr

/-- What becomes of a fabric operation's outcome (R407, R410, R413). -/
inductive FabDest where
  | nothing
  | xreg (r : XReg)
  /-- The elements of a vector packet, with their far pointers. -/
  | elements (es : List (Nat × Word))
  | reduction (name : Word)
  deriving DecidableEq, Repr

/-- The instruction that issued an operation: issue number, word, stitch pointer, far pointer (R361, R362). -/
structure Issuer where
  seq : Nat
  word : BitVec 32
  ipc : Word
  ptr : Word
  deriving DecidableEq, Repr

/-- A fabric operation not yet at its outcome (R395-R397). -/
structure FabOp where
  pk : Packet
  dest : FabDest
  /-- One per store that its packet combines (R396), else one. -/
  issuers : List Issuer
  /-- acq: held until every remote store issued before this number is acknowledged (R407). -/
  holdFor : Option Nat := none
  /-- rel: scope of the release performed after the acknowledgement (R169). -/
  rel : Option (BitVec 3) := none
  /-- Knowledge at the issue, which the release covers when acq is set too (R169). -/
  know : Knowledge := {}
  /-- Releases that the operation's own write is, through a release half (R161, R408). -/
  halves : List Release := []
  sent : Bool := false
  /-- In the combining buffer: stores may still join it (R396). -/
  open_ : Bool := false
  deriving DecidableEq, Repr

/-- A `vfabget` or `vfabput` under way (R410, R411). -/
structure VFab where
  cap : Capture
  /-- Elements from `vbeg` to below `hi` were sent or forwarded; a fault at the source stops it there. -/
  hi : Nat
  stop : Option (BitVec 8 × Word × Word)
  /-- Values that arrived or were forwarded, by element. -/
  vals : List (Nat × Nat) := []
  /-- The refused packet with the lowest first element: that element and the fault. -/
  bad : Option (Nat × BitVec 8 × Word × Word) := none
  /-- Packets that its stream has had no room for yet, in order, each with its owner (R395). -/
  todo : List (BitVec 16 × FabOp) := []
  /-- Its elements are on their way; not yet while stores that cover one in part are unacknowledged (R396). -/
  begun : Bool := true
  /-- Elements that went to the fabric. -/
  far : List Nat := []
  /-- Releases that the values of a get returned, by element (R408). -/
  seen : List (Nat × List Release) := []
  deriving DecidableEq, Repr

/-- A context, or the register state of a hub core. -/
structure Ctx where
  image : Nat := 0
  vf : Nat := 0
  part : Nat := 0
  prot : Bool := false
  /-- Handle of the context's node (R337), 0 for none. -/
  node : Nat := 0
  life : Life := .running
  /-- The core it is resident on (R366). -/
  core : Option Nat := none
  /-- The core it was resident on last: the one a `ctxload` returns it to while that core is free (DESIGN CHOICE, log entry 24). -/
  lastCore : Nat := 0
  x : Vector Word 32 := Vector.replicate 32 0#64
  f : Vector Word 32 := Vector.replicate 32 0#64
  /-- Full bits of x0-x31 and f0-f31 (R29). -/
  xFull : BitVec 32 := BitVec.allOnes 32
  fFull : BitVec 32 := BitVec.allOnes 32
  v : Vector VecReg 64 := Vector.replicate 64 {}
  z : Vector Tile 8 := Vector.replicate 8 {}
  arr : ArrayState := {}
  b : Vector (Option Seat) 16 := Vector.replicate 16 none
  slot0 : SlotEntry := {}
  /-- Fixed slots 4092-4095 (R112). -/
  fixed : Vector FixedSlot 4 := Vector.replicate 4 {}
  nS : NeedleState := {}
  nV : NeedleState := {}
  nM : NeedleState := {}
  nC : NeedleState := {}
  strip : Strip := {}
  fflags : BitVec 5 := 0#5
  frm : BitVec 3 := 0#3
  vdead : Word := 0#64
  vbeg : Word := 0#64
  vprog : Word := 0#64
  /-- Running count of `vprog` (R136). -/
  vprogCount : Word := 0#64
  vqcfg : BitVec 12 := 0x10#12
  pblk : BitVec 17 := 0#17
  mapitch : Word := 0#64
  mwpitch : Word := 0#64
  mzmap : Word := 0#64
  slip : BitVec 4 := 8#4
  spused : Word := 0#64
  fsel : BitVec 9 := 0#9
  fstat : Word := 0#64
  cycle : Word := 0#64
  instret : Word := 0#64
  /-- Energy in 1/16 pJ: `gauge` shows the whole pJ, the low four bits are the fraction (R355). -/
  gauge : Nat := 0
  gaugest : Bool := false
  vecQ : List QEntry := []
  matQ : List QEntry := []
  copyQ : List QEntry := []
  copies : List CopyOp := []
  pend : List PendingFault := []
  trap : Option TrapRecord := none
  /-- Held at an ECALL or EBREAK, behind which a resume goes on (R222). -/
  skip : Bool := false
  /-- Granule reserved by the latest LR (R133). -/
  resv : Option Nat := none
  /-- A release half not yet used, with its scope (R161). -/
  relHalf : Option (BitVec 3) := none
  /-- What precedes the fence of that half (R161). -/
  relKnow : Knowledge := {}
  /-- The half that fabric operations took whose outcomes are not known, no store having followed them (R161, R408). -/
  openHalf : Option Half := none
  /-- Releases that loads have read since the latest acquire half (R161). -/
  reads : List Release := []
  /-- Releases that a fabric read returned with a value into an x register which S has not read full yet: a load only from then
  on (R408). -/
  fabReads : List (XReg × Word × List Release) := []
  request : Option Request := none
  /-- A debug-armed resume is performing its one step (R382). -/
  stepping : Bool := false
  /-- On-chip save counter (R378). -/
  saveCount : Word := 0#64
  /-- Instance of the context's key (R376). -/
  keyInst : Nat := 0
  /-- Next issue number (R361). -/
  nextSeq : Nat := 1
  /-- Device time of the latest static charge (R355). -/
  chargedAt : Word := 0#64
  reds : List Reduction := []
  vfab : Option VFab := none
  /-- The model's own: what a save kept of the knowledge that carries no count (R153; DESIGN CHOICE, log entry 21). -/
  past : Sparse Nat := []
  /-- Restored by `ctxload` and not yet resumed: streams and copies resolve their slots at the resume (R124, R380). -/
  loaded : Bool := false
  /-- Records of the fabric section that the latest save wrote (R405). -/
  fabSaved : List (BitVec 512) := []
  deriving DecidableEq, Repr

/-! ## Cores, hub cores, device -/

/-- What belongs to a core and not to its context. -/
structure Core where
  lanemap : BitVec 16 := 0xFFFF#16
  resident : Option Nat := none
  /-- Partition that owns the core (R349). -/
  part : Nat := 0
  /-- Releases that count, since reset: R157's 16-bit release count is its low bits. -/
  rel : Nat := 0
  /-- Knowledge (R157). -/
  know : Knowledge := {}
  /-- The model's own: the step of the resident context's latest start or resume (R158; DESIGN CHOICE, log entry 21). -/
  since : Nat := 0
  /-- Quiesced after a kill until its next context starts (R365). -/
  quiesced : Bool := false
  disabled : Bool := false
  /-- Fixed-slot settings the manager made last (R112). -/
  fixed : Vector FixedSlot 4 := Vector.replicate 4 {}
  /-- Words of v registers, tiles with an uncorrectable error: key 512 × register + word; tiles from register 64 (R138). -/
  badReg : Sparse Unit := []
  /-- Words with a correctable error (R141). -/
  corrReg : Sparse Unit := []
  /-- Function whose context was resident last (R351). -/
  lastVf : Nat := 0
  deriving DecidableEq, Repr

/-- A save in progress on a hub core (R223, R367). -/
structure SaveJob where
  ctx : Nat
  addr : Nat
  xd : XReg
  deriving DecidableEq, Repr

/-- A hub core (R220, R221, R359, R360). -/
structure Hub where
  regs : Ctx := {}
  event : BitVec 8 := 0#8
  ev : Bool := false
  tvec : BitVec 62 := 0#62
  ctxid : BitVec 32 := 0#32
  cablesel : BitVec 16 := 0#16
  gaugeIndex : BitVec 5 := 0#5
  keyId : BitVec 7 := 0#7
  /-- Interrupted return point while an event is handled: the pc, and whether the core stood in `halt`. -/
  ret : Option (Word × Bool) := none
  halted : Bool := false
  /-- Stopped by a fault in manager mode (R359, R426). -/
  stopped : Bool := false
  /-- That fault, which the management controller reads (R426). -/
  fault : Option TrapRecord := none
  /-- Knowledge that the hub core's releases pass on (R153). -/
  know : Knowledge := {}
  save : Option SaveJob := none
  deriving DecidableEq, Repr

/-- An event posted to the manager: the hub core it goes to, its code and the context it names (R360, R428). -/
structure Event where
  hub : BitVec 3
  code : BitVec 8
  ctx : Nat
  deriving DecidableEq, Repr

/-- A granule of scratchpad: its full bit and its writer tag (R125-R127). -/
structure Granule where
  full : Bool := true
  tag : BitVec 28 := 0#28
  /-- The model's own: the step of the last write (R158; DESIGN CHOICE, log entry 21). -/
  wrote : Nat := 0
  /-- The model's own: the writer's releases since reset at that write, which the tag's count is the low bits of (R157; DESIGN CHOICE,
  log entry 21). -/
  rel : Nat := 0
  deriving DecidableEq, Repr

/-- An image descriptor (R333). -/
structure Image where
  stbase : BitVec 48 := 0#48
  vf : BitVec 32 := 0#32
  scratch : BitVec 32 := 0#32
  key : BitVec 7 := 0#7
  deriving DecidableEq, Repr

/-- State of a node in the Loom (R343-R347). -/
inductive NodeState where
  | waiting (preds : Nat)
  | ready
  | running
  | finished
  deriving DecidableEq, Repr

/-- A node the Loom holds (R334-R347). -/
structure Node where
  handle : Nat
  vf : Nat
  image : Nat
  /-- The 128-byte record, little-endian. -/
  record : BitVec 1024
  /-- Queue index of its record; `none` for an `lpost` node. -/
  qidx : Option (BitVec 32)
  level : BitVec 3
  state : NodeState
  /-- Order in which it was made ready (R344, R346). -/
  readyOrder : Nat := 0
  /-- Contexts started for it that have not ended. -/
  ctxs : List Nat := []
  /-- What it runs on: the cores of a prog node, the panel of a bank node, the core of a tile node. -/
  units : List Nat := []
  failed : Bool := false
  cancelled : Bool := false
  gen : BitVec 16 := 1#16
  /-- Successors it named by handle, with their generations, and by queue index (R336). -/
  succs : List (Nat × BitVec 16) := []
  fwd : List (BitVec 32) := []
  /-- Physical ranges of its swatches when it became ready: start, end, out (R346). -/
  ranges : List (Nat × Nat × Bool) := []
  /-- A swatch-absent event has been posted for it (R344). -/
  swatchPosted : Bool := false
  /-- The model's own: what happens before its first instruction, and then, as its contexts end, before its completion, by core
  (R153; DESIGN CHOICE, log entry 21). -/
  past : Sparse Nat := []
  /-- A coll node's contribution (R339). -/
  red : Option Reduction := none
  deriving DecidableEq, Repr

/-- A hold gate, in 256-byte units (R348). -/
structure Gate where
  on : Bool := false
  base : Nat := 0
  limit : Nat := 0
  drained : Bool := false
  deriving DecidableEq, Repr

/-- Who issued a fabric operation: an agent's S, or a coll node of the partition (R339, R395). -/
inductive Requester where
  | agent (a : Agent)
  /-- A coll node, by handle and generation (R337). -/
  | node (handle : Nat) (gen : BitVec 16)
  deriving DecidableEq, Repr

/-- A sequence at the requester (R395, R397, R399, R403, R405). R of R399 is read off the operations left. -/
structure Seq where
  who : Requester
  stream : BitVec 3
  ep : BitVec 16
  sid : BitVec 16
  /-- Owner incarnation, once a reply gave it. -/
  inc : Option (BitVec 16) := none
  next : BitVec 32 := 1#32
  /-- A packet with serial 1 has been made. -/
  started : Bool := false
  /-- Outcomes that arrived since the latest report of R. -/
  unreported : Nat := 0
  /-- An acknowledgement was asked for by `fabfl` since the latest reply. -/
  asked : Bool := false
  /-- Operations without an outcome, in issue order. -/
  ops : List FabOp := []
  /-- To be closed once nothing is outstanding (R395, R399, R404). -/
  closing : Bool := false
  closeSent : Bool := false
  deriving DecidableEq, Repr

/-- How an operation ended: code, result, and the words of a reduction's reply. -/
structure Outcome where
  who : Requester
  stream : BitVec 3
  op : FabOp
  code : BitVec 8
  value : Word := 0#64
  red : Word := 0#64
  /-- New incarnation of the owner, for 0x0F. -/
  inc : BitVec 16 := 0#16
  payload : List Byte := []
  deriving DecidableEq, Repr

/-- A held entry of the owner's reply cache (R400, R401). -/
structure CacheEntry where
  src : BitVec 16
  sid : BitVec 16
  serial : BitVec 32
  status : BitVec 8
  result : Word
  deriving DecidableEq, Repr

/-- A sequence at the owner (R400). -/
structure OwnerSeq where
  src : BitVec 16
  sid : BitVec 16
  applied : BitVec 32 := 0#32
  lastOk : Bool := true
  lastStatus : BitVec 8 := 0#8
  stores : Nat := 0
  deriving DecidableEq, Repr

/-- A hard partition (R349). -/
structure Part where
  evhub : BitVec 3 := 0#3
  opbase : BitVec 42 := 0#42
  rtbase : BitVec 44 := 0#44
  fabrt : BitVec 16 := 30#16
  epid : BitVec 16 := 0#16
  /-- Function switched in (R349). -/
  func : Option Nat := none
  nodes : List Node := []
  /-- Generation of a handle; unlisted handles have 1 (R337). -/
  gens : Sparse (BitVec 16) := []
  quota : Nat := 32767
  readyCount : Nat := 0
  gates : Vector Gate 8 := Vector.replicate 8 {}
  aging : Nat := 500
  baseSlice : Nat := 2000
  /-- Handles of the gang nodes that hold a reservation, each with its unit (R345). -/
  gangs : List (Nat × Nat) := []
  /-- Weights the manager wrote; an unlisted entry has its default (R356). -/
  weights : Sparse (BitVec 24) := []
  seqs : List Seq := []
  nextSid : BitVec 16 := 1#16
  /-- Outcomes that wait for a context that is switched out (R404). -/
  parked : List Outcome := []
  ownerSeqs : List OwnerSeq := []
  cache : List CacheEntry := []
  /-- Newest incarnation seen of a source endpoint (R402). -/
  sources : Sparse (BitVec 16) := []
  deriving DecidableEq, Repr

/-- A range of HBM or bank memory bound to a function, with its scrub watermark while a scrub runs (R353). -/
structure Range where
  base : Nat
  len : Nat
  mark : Option Nat := none
  /-- Offsets of the blocks above the watermark that a store has zeroed and written (R353). -/
  touched : List Nat := []
  deriving DecidableEq, Repr

/-- A device-memory window of a function (R420). -/
structure Window where
  base : Nat := 0
  len : Nat := 0
  key : BitVec 7 := 0#7
  deriving DecidableEq, Repr

/-- A virtual function (R340-R342, R349, R352, R353, R419, R420). -/
structure Func where
  enabled : Bool := false
  part : Nat := 0
  weight : Nat := 1
  qbase : Nat := 0
  qn : Nat := 4
  tail : BitVec 32 := 0#32
  head : BitVec 32 := 0#32
  done : BitVec 31 := 0#31
  /-- Tails of the advances with records not yet taken, oldest first (R336, R341). -/
  adv : List (BitVec 32) := []
  /-- Completions that named a record not yet taken: its index, how many, whether one was not a success (R336, R347), and what
  they order before it (R153). -/
  owed : List (BitVec 32 × Nat × Bool × Sparse Nat) := []
  /-- The value QPROG committed last before a switch-out (R340). -/
  committed : Option (BitVec 63) := none
  errIdx : BitVec 32 := 0#32
  errReason : BitVec 8 := 0#8
  errCount : BitVec 16 := 0#16
  coalCnt : BitVec 10 := 1#10
  coalTmr : BitVec 10 := 0#10
  /-- Pending events of a vector (R352). -/
  counts : Sparse Nat := []
  /-- Words of the MSI-X table that are not at their reset value: entry v in words 2v and 2v + 1 (R419). -/
  msix : Sparse Word := []
  pba : BitVec 64 := 0#64
  timer : Bool := false
  wins : Vector Window 8 := Vector.replicate 8 {}
  ranges : List Range := []
  deriving DecidableEq, Repr

/-- What is fused into a device (R423, R424). -/
structure Fuses where
  /-- SHA-512 hash of the key that firmware must be signed with. -/
  keyHash : BitVec 512 := 0#512
  /-- Lowest security version of firmware that runs. -/
  minVersion : Nat := 0
  /-- SHA-512 digest of the boot ROM. -/
  rom : BitVec 512 := 0#512
  /-- The fused secrets from which the identity key derives. -/
  secret : BitVec 512 := 0#512
  /-- The certificate chain of the identity key, root first. -/
  chain : List Byte := []
  deriving DecidableEq, Repr

/-- What an answer to an SPDM request says (R424). -/
inductive SpdmAnswer where
  /-- Versions supported: 1.3 alone, as 0x13. -/
  | version (v : BitVec 8)
  /-- Are secure sessions supported? -/
  | capabilities (sessions : Bool)
  /-- Signature key bits and hash bits: RSASSA-4096 and SHA-512. -/
  | algorithms (rsa sha : Nat)
  /-- Digest of the certificate chain. -/
  | digests (d : BitVec 512)
  | certificate (chain : List Byte)
  /-- Digest of the chain, and the identity key's signature. -/
  | challengeAuth (d : BitVec 512) (signature : BitVec 4096)
  /-- The four measurements in order, and the identity key's signature. -/
  | measurements (ds : List (BitVec 512)) (signature : BitVec 4096)
  deriving DecidableEq, Repr

/-- What leaves the device. -/
inductive Output where
  | packet (part : Nat) (pk : Packet)
  | msix (vf : Nat) (vec : BitVec 6)
  | cxlData (vf : Nat) (bytes : List Byte)
  | cxlUnsupported (vf : Nat)
  | spdm (answer : SpdmAnswer)
  | aerInternal
  deriving DecidableEq, Repr

/-- A turn: which step comes next. -/
inductive Turn where
  /-- A needle of an agent executes one instruction. -/
  | needle (a : Agent) (n : Needle)
  /-- A step without a word takes place. -/
  | event (i : Instr)
  /-- Turns of different parties whose writes to one agent's v registers and tiles the register-file arbiter accepts unit by unit:
  the units that `late` names by register (v0 to v63, then z0 to z7 as 64 to 71) are accepted of the first turn after the second's,
  which may be a race itself (R32). -/
  | race (first : Turn) (a : Agent) (late : List (Nat × BitVec 16)) (second : Turn)
  deriving DecidableEq, Repr

/-- The whole machine. -/
structure State where
  /-- Turns to come; with none the step takes a turn of its own choice (`defaultTurn`). -/
  turns : List Turn := []
  /-- The agent and needle whose turn it is. -/
  cur : Agent × Needle := (.hub 0, .S)
  /-- The word being executed. -/
  ir : BitVec 32 := 0#32
  /-- The model's own: steps taken, which free values are applied to. -/
  tick : Nat := 0
  ctxs : Sparse Ctx := []
  cores : Sparse Core := []
  hubs : Sparse Hub := []
  parts : Sparse Part := []
  funcs : Sparse Func := []
  images : Sparse Image := []
  events : List Event := []
  /-- Bytes of the physical map of R114 that do not read as zero. -/
  mem : List Host.Cell := []
  /-- Key instance that wrote the line of an HBM byte (R422); unlisted bytes were written under `clearKey`. -/
  keyOf : Sparse Nat := []
  /-- The instance of key 0 under which HBM was cleared (R425 step 3). -/
  clearKey : Nat := 0
  /-- Granules by (physical address − scratchpad start) ÷ 16 (R125). -/
  granules : Sparse Granule := []
  /-- Tile domain tags by (physical address − scratchpad start) ÷ 2048 (R128). -/
  tileTags : Sparse (BitVec 6) := []
  /-- 8-byte protection words with an uncorrectable error, by address ÷ 8 (R138). -/
  badMem : Sparse Unit := []
  /-- Ranges of host memory that the host's IOMMU bars: function (0 for physical function 0), start, length (R421;
  DESIGN CHOICE, log entry 39). -/
  hostBars : List (Nat × Nat × Nat) := []
  releases : List Release := []
  /-- Releases by arrivals at a barrier word: those of the open phase and those of the phase that flipped last (R163). -/
  barriers : Sparse (List Release × List Release) := []
  ticket : Word := 0#64
  timer : Word := 0#64
  yieldwin : BitVec 16 := 200#16
  dbgCtx : BitVec 32 := 0#32
  dbgNeedle : BitVec 2 := 0#2
  dbgStep : Bool := false
  /-- Cable-mask rows without their diagonal bit, by 128 × cluster + row (R350). -/
  cable : Sparse (BitVec 128) := []
  /-- Instance of each memory key that is valid, by key id (R422). -/
  keys : Sparse Nat := [(0, 0)]
  nextKey : Nat := 1
  /-- Incarnation of every partition as an endpoint (R386). -/
  incarnation : BitVec 16 := 0#16
  /-- The gauge limit in watts, exact: each cut takes a tenth of it (R427). -/
  plimit : Rat := 3000
  /-- Panel grants in half watts (R354). -/
  grants : Vector Nat 4 := Vector.replicate 4 0
  phub : Nat := 0
  phbm : Nat := 0
  moduleOn : Bool := true
  bootStep : BitVec 4 := 7#4
  bootFailed : Bool := false
  fuses : Fuses := {}
  /-- The manager firmware that the boot ROM verified last (R423). -/
  firmware : Firmware := {}
  /-- Lane maps after the lane test of the latest boot, which measurement 4 holds (R424); unlisted cores kept every lane. -/
  bootLanes : Sparse (BitVec 16) := []
  aer : Bool := false
  outputs : List Output := []
  deriving DecidableEq, Repr

/-- The needles of a hub core once the manager has started on it: S runs from pc 0 (R425 step 6). -/
def Hub.started : Hub := { regs := { nS := { run := .running } } }

/-- The machine right after a device reset (R425): every field at its reset value, the eight hub cores at the start of
the manager's code, no context, memory zero, key 0 generated. A hub core or partition that is not listed stands at its
reset value. (DESIGN CHOICE, log entry 2.) -/
def State.reset : State := {}

end Sys2Proof.Machine
end

