-- ==== Sys2Proof/Machine/Ops.lean ====
section
/-! DEFINITION. The named operations over registers, needles, events and outcomes, and taking a trap as one operation. -/

namespace Sys2Proof.Machine
open Sys2Proof

/-! ## Sparse maps -/

/-- The value a sparse map lists for a key. -/
def Sparse.find {α : Type} : Sparse α → Nat → Option α
  | [], _ => none
  | (j, a) :: m, k => if j = k then some a else Sparse.find m k

/-- The value at a key; unlisted keys hold the default. -/
def Sparse.at {α : Type} (m : Sparse α) (d : α) (k : Nat) : α := (Sparse.find m k).getD d

/-- Drops a key. -/
def Sparse.drop {α : Type} : Sparse α → Nat → Sparse α
  | [], _ => []
  | (j, a) :: m, k => if j = k then Sparse.drop m k else (j, a) :: Sparse.drop m k

/-- Lists a value under a key, keeping keys in order. -/
def Sparse.insert {α : Type} : Sparse α → Nat → α → Sparse α
  | [], k, a => [(k, a)]
  | (j, b) :: m, k, a =>
    if k < j then (k, a) :: (j, b) :: m
    else if k = j then (k, a) :: m
    else (j, b) :: Sparse.insert m k a

/-- Writes a value in canonical form: the default is not listed. -/
def Sparse.write {α : Type} [DecidableEq α] (m : Sparse α) (d : α) (k : Nat) (a : α) : Sparse α :=
  if a = d then Sparse.drop m k else Sparse.insert m k a

/-- Keys rise strictly. -/
def Sparse.rising {α : Type} : Sparse α → Bool
  | [] => true
  | [_] => true
  | (j, _) :: (k, b) :: m => j < k && Sparse.rising ((k, b) :: m)

/-- No entry holds the default. -/
def Sparse.noDefault {α : Type} [DecidableEq α] (d : α) : Sparse α → Bool
  | [] => true
  | (_, a) :: m => a != d && Sparse.noDefault d m

/-- The canonical form of a sparse map with a default. -/
def Sparse.canonical {α : Type} [DecidableEq α] (d : α) (m : Sparse α) : Bool := Sparse.rising m && Sparse.noDefault d m

/-! ## Register files, cores, hub cores -/

/-- A hub core as it stands; an unlisted one is at its reset value (R425 step 6). -/
def State.hub (s : State) (h : Nat) : Hub := Sparse.at s.hubs Hub.started h

/-- Writes a hub core. -/
def State.setHub (s : State) (h : Nat) (u : Hub) : State := { s with hubs := Sparse.insert s.hubs h u }

/-- Registers of an agent; a context that does not exist has none of its own. -/
def State.regs (s : State) : Agent → Ctx
  | .ctx i => Sparse.at s.ctxs {} i
  | .hub h => (s.hub h).regs

/-- Writes the registers of an agent. -/
def State.setRegs (s : State) : Agent → Ctx → State
  | .ctx i, c => { s with ctxs := Sparse.insert s.ctxs i c }
  | .hub h, c => s.setHub h { s.hub h with regs := c }

/-- Changes the registers of an agent. -/
def State.onRegs (s : State) (a : Agent) (f : Ctx → Ctx) : State := s.setRegs a (f (s.regs a))

/-- Is the agent a hub core, which runs in manager mode (R220)? -/
def isManager : Agent → Bool
  | .hub _ => true
  | .ctx _ => false

/-- Start of bank memory in the physical map (R114). -/
def bankStart : Nat := 0x010000000000
/-- Start of the scratchpads (R114). -/
def spadStart : Nat := 0x018000000000
/-- Start of MMIO (R114). -/
def mmioStart : Nat := 0x01C000000000
/-- Start of the host window (R114, R421). -/
def hostStart : Nat := 0x020000000000
/-- End of the host window (R421). -/
def hostEnd : Nat := 0x040000000000
/-- End of HBM (R114). -/
def hbmEnd : Nat := 0x008000000000
/-- Bytes of one core's scratchpad (R125). -/
def spadSize : Nat := 0x40000
/-- Bytes of one panel's bank memory (R131). -/
def bankSize : Nat := 0x8000000

/-- A core at reset: its fixed slots name its own scratchpad and its home panel's bank memory (DESIGN CHOICE, log entry 13). -/
def Core.start (c : Nat) : Core :=
  { fixed := #v[⟨BitVec.ofNat 48 bankStart, BitVec.ofNat 48 bankSize⟩,
      ⟨BitVec.ofNat 48 (bankStart + c / 1024 * bankSize), BitVec.ofNat 48 bankSize⟩,
      ⟨BitVec.ofNat 48 (spadStart + c * spadSize), BitVec.ofNat 48 spadSize⟩,
      ⟨BitVec.ofNat 48 (spadStart + c * spadSize), BitVec.ofNat 48 spadSize⟩] }

/-- A core as it stands. -/
def State.core (s : State) (c : Nat) : Core := Sparse.at s.cores (Core.start c) c

/-- Writes a core. -/
def State.setCore (s : State) (c : Nat) (k : Core) : State := { s with cores := Sparse.insert s.cores c k }

/-- A partition as it stands. (DESIGN CHOICE, log entry 14.) -/
def State.part (s : State) (p : Nat) : Part := Sparse.at s.parts {} p

/-- Writes a partition. -/
def State.setPart (s : State) (p : Nat) (q : Part) : State := { s with parts := Sparse.insert s.parts p q }

/-- A virtual function as it stands. -/
def State.func (s : State) (vf : Nat) : Func := Sparse.at s.funcs {} vf

/-- Writes a virtual function. -/
def State.setFunc (s : State) (vf : Nat) (f : Func) : State := { s with funcs := Sparse.insert s.funcs vf f }

/-- The agent whose turn it is. -/
def State.who (s : State) : Agent := s.cur.1
/-- The needle whose turn it is. -/
def State.ndl (s : State) : Needle := s.cur.2
/-- Registers of the agent whose turn it is. -/
def State.my (s : State) : Ctx := s.regs s.cur.1
/-- Writes the registers of the agent whose turn it is. -/
def State.setMy (s : State) (c : Ctx) : State := s.setRegs s.cur.1 c
/-- Changes the registers of the agent whose turn it is. -/
def State.onMy (s : State) (f : Ctx → Ctx) : State := s.setMy (f s.my)

/-- Id of a needle (R13). -/
def needleId : Needle → BitVec 2
  | .S => 0#2
  | .V => 1#2
  | .M => 2#2
  | .C => 3#2

/-- The needle with an id (R13). -/
def needleOf (n : BitVec 2) : Needle :=
  if n == 0#2 then .S else if n == 1#2 then .V else if n == 2#2 then .M else .C

/-- State of a needle. -/
def Ctx.needle (c : Ctx) : Needle → NeedleState
  | .S => c.nS
  | .V => c.nV
  | .M => c.nM
  | .C => c.nC

/-- Writes the state of a needle. -/
def Ctx.setNeedle (c : Ctx) (n : Needle) (d : NeedleState) : Ctx :=
  match n with
  | .S => { c with nS := d }
  | .V => { c with nV := d }
  | .M => { c with nM := d }
  | .C => { c with nC := d }

/-- A needle that is running or blocked is active (R13). -/
def NeedleState.active (d : NeedleState) : Bool := d.run != .idle

/-- The four needles in id order (R13). -/
def needles : List Needle := [.S, .V, .M, .C]

/-- Blocked in a wait (R13). -/
def NeedleState.blocked (d : NeedleState) : Bool :=
  match d.run with
  | .blocked _ => true
  | _ => false

/-! ## Scalar registers -/

/-- x[r]; x0 reads 0 (R29). -/
def Ctx.getX (c : Ctx) (r : XReg) : Word := if r = 0#5 then 0#64 else c.x.get r.toFin

/-- A completed write of x[r]: sets it full; x0 discards it (R29, R30). -/
def Ctx.setX (c : Ctx) (r : XReg) (w : Word) : Ctx :=
  if r = 0#5 then c
  else { c with x := c.x.set r.toNat w r.isLt, xFull := c.xFull ||| (1#32 <<< r.toNat) }

/-- f[r]. -/
def Ctx.getF (c : Ctx) (r : FReg) : Word := c.f.get r.toFin

/-- A completed write of f[r]: sets it full (R30). -/
def Ctx.setF (c : Ctx) (r : FReg) (w : Word) : Ctx :=
  { c with f := c.f.set r.toNat w r.isLt, fFull := c.fFull ||| (1#32 <<< r.toNat) }

/-- Is x[r] full? x0 always is (R29). -/
def Ctx.isFullX (c : Ctx) (r : XReg) : Bool := r == 0#5 || c.xFull.getLsbD r.toNat

/-- Is f[r] full? -/
def Ctx.isFullF (c : Ctx) (r : FReg) : Bool := c.fFull.getLsbD r.toNat

/-- Sets x[r] empty (R30, R213). -/
def Ctx.emptyX (c : Ctx) (r : XReg) : Ctx :=
  if r = 0#5 then c else { c with xFull := c.xFull &&& ~~~(1#32 <<< r.toNat) }

/-- Sets x[r] full without writing it (R305). -/
def Ctx.fillX (c : Ctx) (r : XReg) : Ctx := { c with xFull := c.xFull ||| (1#32 <<< r.toNat) }

/-- Sets f[r] empty (R213). -/
def Ctx.emptyF (c : Ctx) (r : FReg) : Ctx := { c with fFull := c.fFull &&& ~~~(1#32 <<< r.toNat) }

/-- v register. -/
def Ctx.getV (c : Ctx) (r : VReg) : VecReg := c.v.get r.toFin
/-- Writes a v register whole, bookkeeping included. -/
def Ctx.setV (c : Ctx) (r : VReg) (a : VecReg) : Ctx := { c with v := c.v.set r.toNat a r.isLt }
/-- z tile. -/
def Ctx.getZ (c : Ctx) (r : ZReg) : Tile := c.z.get r.toFin
/-- Writes a tile whole, bookkeeping included. -/
def Ctx.setZ (c : Ctx) (r : ZReg) (a : Tile) : Ctx := { c with z := c.z.set r.toNat a r.isLt }
/-- b register. -/
def Ctx.getB (c : Ctx) (r : BReg) : Option Seat := c.b.get r.toFin
/-- Writes a b register. -/
def Ctx.setB (c : Ctx) (r : BReg) (a : Option Seat) : Ctx := { c with b := c.b.set r.toNat a r.isLt }

/-- Operand word 0 of register empty: class in bits [9:8], number in [5:0] (R31). -/
def regWord (cls : BitVec 2) (n : Nat) : Word := BitVec.ofNat 64 (cls.toNat * 256 + n)

/-! ## The gauge -/

/-- Default weight of a gauge entry in 1/16 pJ, and of entry 21 in 1/16 mW (R356). -/
def defaultWeight (i : Nat) : BitVec 24 :=
  BitVec.ofNat 24 (([64, 192, 96, 48, 96, 160, 224, 64, 24, 8, 4, 2, 64, 32, 320, 480, 4, 32, 176, 640, 240, 1920] : List Nat).getD i 0)

/-- Weight of entry `i` in a partition's table (R356). -/
def Part.weight (p : Part) (i : Nat) : Nat := (Sparse.at p.weights (defaultWeight i) i).toNat

/-- Adds sixteenths of a picojoule to a context's counter, which stops at 2^48 − 1 pJ (R355). -/
def Ctx.addEnergy (c : Ctx) (n : Nat) : Ctx :=
  let g := c.gauge + n
  if c.gaugest || 16 * (2 ^ 48 - 1) ≤ g then { c with gauge := 16 * (2 ^ 48 - 1), gaugest := true }
  else { c with gauge := g }

/-- What an instruction charges: entries of the table with how many of each (R355, R356). -/
abbrev Charge := List (Nat × Nat)

/-- Energy of a charge in a partition, in 1/16 pJ. -/
def Part.energy (p : Part) (q : Charge) : Nat := q.foldl (fun a e => a + p.weight e.1 * e.2) 0

/-- Charges an agent's counter (R355). -/
def State.charge (s : State) (a : Agent) (q : Charge) : State :=
  s.onRegs a (fun c => c.addEnergy ((s.part (s.regs a).part).energy q))

/-- Static energy of a resident context since its latest static charge: 1/16 mW over 10 ns is 10/16 pJ (R355). -/
def State.chargeStatic (s : State) (i : Nat) : State :=
  let c := s.regs (.ctx i)
  if c.core.isSome then
    s.setRegs (.ctx i) { c.addEnergy (10 * (s.part c.part).weight 21 * (s.timer - c.chargedAt).toNat) with chargedAt := s.timer }
  else s

/-- A context leaves its core. -/
def State.leaveCore (s : State) (i : Nat) : State :=
  match (s.regs (.ctx i)).core with
  | some k => (s.setCore k { s.core k with resident := none }).onRegs (.ctx i) (fun c => { c with core := none, lastCore := k })
  | none => s

/-! ## Outcomes of a meaning, retirement and traps -/

/-- The outcome type of `exec`. -/
abbrev Exec := Host.Outcome State Fault Refusal

/-- How an instruction ends. -/
inductive Act where
  /-- It retires and the needle goes on in sequence. -/
  | done
  /-- It retires and transfers control to a stitch pointer already checked (R120). -/
  | jump (t : Word)
  /-- It raises a trap at itself. -/
  | trap (cause : BitVec 8) (v0 v1 : Word)
  /-- A trap with its own `tipc` (R357). -/
  | trapAt (cause : BitVec 8) (v0 v1 tipc : Word)
  /-- The needle blocks and executes it again (R13, R43). -/
  | wait (w : Wait)
  /-- The needle stops before it at a yield point (R41). -/
  | yieldStop
  /-- Not issuable now: an interlock or a full queue; nothing changes (R16, R28, R45). -/
  | stall
  /-- It retires, and the needle's pc and loops are as the body left them. -/
  | placed
  /-- It goes on in a later turn, and what its body did so far stands. -/
  | stay
  /-- The machine stops. -/
  | stop (f : Fault)
  deriving DecidableEq, Repr

/-- Posts an event to the hub core that EVHUB of the partition names (R221, R428). -/
def State.post (s : State) (p : Nat) (code : BitVec 8) (ctx : Nat) : State :=
  { s with events := s.events ++ [⟨(s.part p).evhub, code, ctx⟩] }

/-- A vector instruction has stopped at an element: `vbeg` names it, and what other vector instructions of the context that wait have
captured counts no more, since they begin again from `vbeg` (R38, R43). (DEDUCED, log entry 55.) -/
def Ctx.stopAt (c : Ctx) (e : Nat) : Ctx :=
  { c with vbeg := BitVec.ofNat 64 e, nS := { c.nS with part := none }, nV := { c.nV with part := none } }

/-- A held context is to be saved or resumed: a vector instruction that waited stands at its element, S's first (R43, R277). (DEDUCED,
log entry 55.) -/
def Ctx.stopWaits (c : Ctx) : Ctx :=
  match c.nS.part, c.nV.part with
  | none, none => c
  | some k, _ => c.stopAt k.vbeg
  | none, some k => c.stopAt k.vbeg

/-- TAKING A TRAP (R44, R357, R359). In a context: the trap record is written, the context is held, a request that is
pending is satisfied (R366), and a trap event goes to the partition's hub core; a resume after an ECALL or EBREAK goes on
behind it (R222). In manager mode: the hub core stops with the fault, and the error is signalled (R359, R426). -/
def State.takeTrap (s : State) (a : Agent) (n : Needle) (cause : BitVec 8) (v0 v1 tpc tipc : Word) : State :=
  match a with
  | .hub h =>
    { s.setHub h { s.hub h with stopped := true, fault := some ⟨cause, needleId n, tpc, tipc, v0, v1⟩ } with aer := true, outputs := s.outputs ++ [.aerInternal] }
  | .ctx i =>
    let c := s.regs a
    (s.setRegs a { c with
      trap := some ⟨cause, needleId n, tpc, tipc, v0, v1⟩, skip := c.skip || cause == 0x19#8 || cause == 0x1A#8
      life := .held, request := none, stepping := false }).post c.part 1#8 i

/-- The end-of-body step of R25 for the innermost level, cascading to levels that end at the same place (R201): the pc
after it, the levels left, and whether an iteration begins. `last` is where the body ends. -/
def endOfBody (last : Word) : List Level → Word × List Level × Bool
  | [] => (last + 4#64, [], false)
  | l :: ls =>
    if l.last = last then
      if l.index.toNat + 1 < l.count.toNat then (l.start, { l with index := l.index + 1#64 } :: ls, true)
      else endOfBody last ls
    else (last + 4#64, l :: ls, false)

/-- A taken transfer to `t` pops every innermost level whose body does not hold it (R26). -/
def popTo (t : Word) : List Level → List Level
  | [] => []
  | l :: ls => if l.start.toNat ≤ t.toNat && t.toNat ≤ l.last.toNat then l :: ls else popTo t ls

/-- The check of a control target (R120): slot 0 with no bit of [51:48], a multiple of 4, below slot 0's limit. -/
def Ctx.targetFault (c : Ctx) (t : Word) : Option (BitVec 8 × Word × Word) :=
  if t.extractLsb' 48 4 != 0#4 then some (0x06#8, t, 0#64)
  else if t.extractLsb' 52 12 != 0#12 || t.toNat ≥ c.slot0.limit.toNat then
    some (0x03#8, t, BitVec.ofNat 64 (2 ^ 63 + 4 * 2 ^ 48 + c.slot0.limit.toNat))
  else if t.extractLsb' 0 2 != 0#2 then some (0x0C#8, t, 1#64)
  else none

/-- One more instruction retired by a context, its energy charged (R193 `instret`, R355). -/
def State.retireCount (s : State) (q : Charge) : State :=
  s.onMy (fun c => { c.addEnergy ((s.part c.part).energy q) with instret := c.instret + 1#64 })

/-- The needle whose turn it is goes on in sequence: end-of-body steps included (R25). -/
def Ctx.advance (c : Ctx) (n : Needle) : Ctx :=
  let d := c.needle n
  let (pc, ls, fr) := endOfBody d.pc d.loops
  c.setNeedle n { d with pc := pc, loops := ls, fresh := fr, run := .running, atYield := false, part := none, forkWait := 0, drain := 0 }

/-- The needle goes to a target (R26). -/
def Ctx.goTo (c : Ctx) (n : Needle) (t : Word) : Ctx :=
  let d := c.needle n
  c.setNeedle n { d with pc := t, loops := popTo t d.loops, fresh := false, run := .running, atYield := false, part := none, forkWait := 0 }

/-- A debug-armed resume ends with its one step: the context is held again with 0x18 (R382). -/
def State.endStep (s : State) (n : Needle) (pc : Word) : State :=
  let c := s.my
  if c.stepping then s.takeTrap s.who n 0x18#8 c.stopWaits.vbeg 0#64 pc pc else s

/-- The loop return that the instruction at the pc makes names a bad target (R120). -/
def Ctx.returnFault (c : Ctx) (n : Needle) : Option (BitVec 8 × Word × Word) :=
  let d := c.needle n
  let (pc, _, fr) := endOfBody d.pc d.loops
  if fr then c.targetFault pc else none

/-- Ends an instruction: from the state before it, the state its body made, and how it ends. -/
def finish (s : State) (q : Charge) (r : State × Act) : Exec :=
  let n := s.ndl
  let pc := (s.my.needle n).pc
  match r.2 with
  | .done =>
    match s.my.returnFault n with
    | some (e, v0, v1) => .next (s.takeTrap s.who n e v0 v1 pc pc)
    | none => .next (((r.1.onMy (·.advance n)).retireCount q).endStep n pc)
  | .jump t => .next (((r.1.onMy (·.goTo n t)).retireCount q).endStep n pc)
  | .placed => .next ((r.1.retireCount q).endStep n pc)
  | .trap e v0 v1 => .next (r.1.takeTrap s.who n e v0 v1 pc pc)
  | .trapAt e v0 v1 tipc => .next (r.1.takeTrap s.who n e v0 v1 pc tipc)
  | .wait w => .next (r.1.onMy (fun c => c.setNeedle n { c.needle n with run := .blocked w }))
  | .yieldStop => .next (r.1.onMy (fun c => c.setNeedle n { c.needle n with atYield := true }))
  | .stall => .next s
  | .stay => .next r.1
  | .stop f => .fault f

/-- What a needle may execute (R15). -/
inductive Class where
  | base | sOnly | vector | matrix | copy | manager
  deriving DecidableEq, Repr

/-- May a needle execute an instruction of a class, issuing it inline where R15 says so? -/
def Class.allows : Class → Needle → Bool
  | .base, _ => true
  | .sOnly, n => n == .S
  | .manager, n => n == .S
  | .vector, n => n == .S || n == .V
  | .matrix, n => n == .S || n == .M
  | .copy, n => n == .S || n == .C

/-- S may issue inline only while the engine's needle is idle (R16). -/
def Class.inlineAllowed (k : Class) (c : Ctx) : Bool :=
  match k with
  | .vector => !c.nV.active
  | .matrix => !c.nM.active
  | .copy => !c.nC.active
  | _ => true

/-- The illegal-instruction trap (R196). -/
def illegal (s : State) : State × Act := (s, .trap 0x01#8 (s.ir.setWidth 64) 0#64)

/-- Is a word `mtset`? -/
def isMtset (w : BitVec 32) : Bool := w &&& 0xFC00707F#32 == 0x0000600B#32

/-- M's later base instructions wait until the array has reached an `mtset` that M issued (R28, R307). -/
def Ctx.interlocked (c : Ctx) (n : Needle) (k : Class) : Bool := n == .M && k == .base && c.matQ.any (fun e => !e.byS && isMtset e.word)

/-- M's matrix instructions wait where an `mtset` that M issued and the array has not reached writes one of these x registers
(R28, R307). -/
def Ctx.mtsetHolds (c : Ctx) (n : Needle) (rs : List XReg) : Bool :=
  n == .M && c.matQ.any (fun e => !e.byS && isMtset e.word && rs.any (fun r =>
    let d := (r - e.word.extractLsb' 7 5).toNat
    r != 0#5 && d < 3))

/-- Checks of R198 orders 3 and 4, then the body. (DEDUCED, log entry 28.) -/
def launch (k : Class) (q : Charge) (body : State → State × Act) (s : State) : Exec :=
  if s.my.interlocked s.ndl k then finish s q (s, .stall)
  else if k == .manager && !isManager s.who then finish s q (s, .trap 0x1B#8 (s.ir.setWidth 64) 0#64)
  else if !k.allows s.ndl || (s.ndl == .S && !k.inlineAllowed s.my) then finish s q (illegal s)
  else finish s q (body s)

/-! ## Register readiness (R31, R361) -/

/-- A source register of an instruction with the wait bit that covers it. -/
inductive Src where
  | x (r : XReg) (w : Bool)
  | f (r : FReg) (w : Bool)
  | v (r : VReg) (n : Nat) (w : Bool)
  | z (r : ZReg) (w : Bool)
  deriving DecidableEq, Repr

/-- The first empty register of a run of `n` vector registers from `r` that is not in yarn mode. -/
def Ctx.emptyV (c : Ctx) (r : Nat) : Nat → Option Nat
  | 0 => none
  | n + 1 => if (c.getV (BitVec.ofNat 6 r)).full then c.emptyV (r + 1) n else some r

/-- How an empty source ends an instruction: it blocks, or raises register empty (R31). -/
def emptyAct (w : Bool) (cls : BitVec 2) (n : Nat) : Act :=
  if w then .wait .full else .trap 0x07#8 (regWord cls n) 0#64

/-- The first source that is not full. -/
def Ctx.unready (c : Ctx) : List Src → Option Act
  | [] => none
  | .x r w :: t => if c.isFullX r then c.unready t else some (emptyAct w 0#2 r.toNat)
  | .f r w :: t => if c.isFullF r then c.unready t else some (emptyAct w 1#2 r.toNat)
  | .z r w :: t => if (c.getZ r).full then c.unready t else some (emptyAct w 3#2 r.toNat)
  | .v r n w :: t =>
    match c.emptyV r.toNat n with
    | none => c.unready t
    | some k => some (emptyAct w 2#2 k)

/-- The x register that a source names. -/
def Src.xreg : Src → Option XReg
  | .x r _ => some r
  | _ => none

/-- Does a source name a status register? -/
def Src.isX : Src → XReg → Bool
  | .x r _, q => r == q
  | _, _ => false

/-- The pending fault that is first in delivery order among those that satisfy a test (R361). -/
def firstPending (t : PendingFault → Bool) (ps : List PendingFault) : Option PendingFault :=
  ps.foldl (fun best p =>
    if t p then match best with
      | none => some p
      | some b => if p.seq < b.seq then some p else best
    else best) none

/-- The 64 bytes of an operation record (R362), as a number. -/
def PendingFault.record (p : PendingFault) : Nat :=
  p.status.toNat + p.iword.toNat * 2 ^ 64
    + (p.cause.toNat + p.sub.toNat * 2 ^ 8
        + (match p.kind with | .copy => 0 | .matrix => 1 | .fabric => 2 | .stream => 3) * 2 ^ 16) * 2 ^ 96
    + p.ptr.toNat * 2 ^ 128 + p.val1.toNat * 2 ^ 192 + p.ipc.toNat * 2 ^ 256

end Sys2Proof.Machine
end

