-- ==== Sys2Proof/Machine/Mem.lean ====
section
/-! DEFINITION. Memory: the physical map, keys, protection, slots, the checks on every access, race detection and the
releases and acquires that accesses make (07_memory_and_relocation, 10_consistency_model). -/

namespace Sys2Proof.Machine
open Sys2Proof

/-- The regions of the physical map (R114). -/
inductive Region where
  | hbm | bank | spad | mmio | host
  deriving DecidableEq, Repr

/-- The region that holds a physical address (R114, R421). -/
def regionOf (a : Nat) : Option Region :=
  if a < hbmEnd then some .hbm
  else if bankStart ≤ a && a < bankStart + 4 * bankSize then some .bank
  else if spadStart ≤ a && a < spadStart + 4096 * spadSize then some .spad
  else if mmioStart ≤ a && a < hostStart then some .mmio
  else if hostStart ≤ a && a < hostEnd then some .host
  else none

/-! ## Bytes -/

/-- What an unlisted byte of memory reads as (R425 for HBM; DESIGN CHOICE, log entry 3). -/
def Memory.blank : Byte := 0#8

/-- The canonical form of memory: addresses rise strictly and no byte equals what an unlisted one reads as. -/
def Memory.wf (m : List Host.Cell) : Bool := Sparse.canonical Memory.blank m

/-- Key instance of bytes that a scrub has cleared: they read as zero under every key (R353, DESIGN CHOICE, log entry 7). -/
def clearedInst : Nat := 2 ^ 40

/-- Offset of the 256-byte block of a range that holds a byte, when the scrub of the range has still to clear it and no store
has written it (R353). (DEDUCED, log entry 40.) -/
def Range.blockOf (r : Range) (a : Nat) : Option Nat :=
  match r.mark with
  | none => none
  | some w =>
    let k := w + (a - r.base - w) / 256 * 256
    if r.base + w ≤ a && a < r.base + r.len && !r.touched.contains k then some k else none

/-- Is a byte inside a range that a scrub has still to clear, its block not yet written (R353)? -/
def Range.unscrubbed (r : Range) (a : Nat) : Bool := (r.blockOf a).isSome

/-- Every range of every function. -/
def State.allRanges (s : State) : List Range := s.funcs.flatMap (fun f => f.2.ranges)

/-- Does a load of this byte return 0 because its scrub has not reached it (R353)? -/
def State.unscrubbed (s : State) (a : Nat) : Bool := s.allRanges.any (·.unscrubbed a)

/-- The key instance under which the line of an HBM byte was written (R422). -/
def State.writer (s : State) (a : Nat) : Nat := Sparse.at s.keyOf s.clearKey a

/-- An HBM byte as key instance `inst` deciphers it (R422). -/
def State.seen (s : State) (inst a : Nat) : Byte :=
  let raw := Sparse.at s.mem Memory.blank a
  if s.writer a = inst || s.writer a = clearedInst then raw else Config.garble a inst (s.writer a) raw

/-- The byte at a physical address, read under a key id (R422, R353). -/
def State.byteAt (s : State) (key : Nat) (a : Nat) : Byte :=
  if s.unscrubbed a then 0#8
  else if a < hbmEnd then
    match Sparse.find s.keys key with
    | none => 0#8
    | some inst => s.seen inst a
  else Sparse.at s.mem Memory.blank a

/-- Little-endian value of `n` bytes from a physical address (R4). -/
def State.read (s : State) (key : Nat) (a : Nat) : Nat → Nat
  | 0 => 0
  | n + 1 => (s.byteAt key a).toNat + 256 * s.read key (a + 1) n

/-- Bytes of a line of HBM, which is ciphered as a whole (R422; PRESUMED, log entry 7). -/
def lineSize : Nat := 64

/-- One HBM byte as it stands after its line was written under a key instance: what that instance deciphers of it. -/
def State.rekeyByte (s : State) (inst a : Nat) : State :=
  { s with mem := Sparse.write s.mem Memory.blank a (s.seen inst a), keyOf := Sparse.write s.keyOf s.clearKey a inst }

/-- `n` HBM bytes from an address, rekeyed. -/
def State.rekeyBytes (s : State) (inst a : Nat) : Nat → State
  | 0 => s
  | n + 1 => (s.rekeyByte inst a).rekeyBytes inst (a + 1) n

/-- The line of an HBM byte is to be written under a key instance: a line holds one key, so what other instances wrote to it is
what this one deciphers of it from now on (R422). -/
def State.rekeyLine (s : State) (inst a : Nat) : State :=
  let lo := a / lineSize * lineSize
  if (s.keyOf == [] && inst == s.clearKey) || (List.range lineSize).all (fun k => s.writer (lo + k) == inst) then s
  else s.rekeyBytes inst lo lineSize

/-- Writes one byte under a key id; with a destroyed key nothing is written (R422). -/
def State.putByte (s : State) (key : Nat) (a : Nat) (b : Byte) : State :=
  if a < hbmEnd then
    match Sparse.find s.keys key with
    | none => s
    | some inst =>
      let t := s.rekeyLine inst a
      { t with mem := Sparse.write t.mem Memory.blank a b }
  else { s with mem := Sparse.write s.mem Memory.blank a b }

/-- Writes the `n` low bytes of a value, lowest first (R4). -/
def State.write (s : State) (key : Nat) (a : Nat) : Nat → Nat → State
  | 0, _ => s
  | n + 1, w => (s.putByte key a (BitVec.ofNat 8 w)).write key (a + 1) n (w / 256)

/-- A block that a store has zeroed and written counts as scrubbed (R353). -/
def Range.touch (r : Range) (a : Nat) : Range :=
  match r.blockOf a with
  | some k => { r with touched := k :: r.touched }
  | none => r

/-- Zeroes `n` bytes so that they read as zero under every key. -/
def State.zeroBytes (s : State) (a : Nat) : Nat → State
  | 0 => s
  | n + 1 =>
    State.zeroBytes { s with mem := Sparse.write s.mem Memory.blank a 0#8,
                             keyOf := if a < hbmEnd then Sparse.write s.keyOf s.clearKey a clearedInst else s.keyOf } (a + 1) n

/-- A write of a whole protection word rewrites its check bits (R140). -/
def State.healWords (s : State) (a n : Nat) : State :=
  { s with badMem := s.badMem.filter (fun e => !(a ≤ e.1 * 8 && e.1 * 8 + 8 ≤ a + n)) }

/-- Drops every LR reservation on a granule that a write touches (R133). -/
def State.dropReservations (s : State) (a n : Nat) : State :=
  let hit (c : Ctx) : Bool := match c.resv with
    | none => false
    | some g => a / 16 ≤ g && g * 16 < a + n
  if s.ctxs.any (fun e => hit e.2) || s.hubs.any (fun e => hit e.2.regs) then
    { s with ctxs := s.ctxs.map (fun e => (e.1, if hit e.2 then { e.2 with resv := none } else e.2))
             hubs := s.hubs.map (fun e => (e.1, if hit e.2.regs then { e.2 with regs := { e.2.regs with resv := none } } else e.2)) }
  else s

/-- A scrub writes zeros to `n` bytes: a write like any other to check bits and reservations (R133, R140, R353). -/
def State.scrubBytes (s : State) (a n : Nat) : State := ((s.zeroBytes a n).healWords a n).dropReservations a n

/-- Zeroes the block of a range that holds a byte, when its scrub has still to clear it (R353). -/
def State.zeroBlock (s : State) (r : Range) (a : Nat) : State :=
  match r.blockOf a with
  | some k => s.scrubBytes (r.base + k) (min 256 (r.len - k))
  | none => s

/-- Prepares the block of a byte for a store during a scrub: the block is zeroed first (R353). -/
def State.touchBlock (s : State) (a : Nat) : State :=
  if s.unscrubbed a then
    let t := s.allRanges.foldl (fun t r => t.zeroBlock r a) s
    { t with funcs := s.funcs.map (fun f => (f.1, { f.2 with ranges := f.2.ranges.map (·.touch a) })) }
  else s

/-- Prepares every block that bytes [a, a + n) touch. -/
def State.touchBlocks (s : State) (a : Nat) : Nat → State
  | 0 => s
  | n + 1 => if s.allRanges.any (·.mark.isSome) then (s.touchBlock a).touchBlocks (a + 1) n else s

/-! ## Protection words (R138-R140) -/

/-- The first uncorrectable 8-byte word that an access to bytes [a, a + n) consumes: for a read every word it touches, for a
write each that it covers only in part (R139). (DESIGN CHOICE, log entry 39.) -/
def State.badFor (s : State) (read : Bool) (a n : Nat) : Option Nat :=
  (s.badMem.find? (fun e => e.1 * 8 < a + n && a < e.1 * 8 + 8 && (read || !(a ≤ e.1 * 8 && e.1 * 8 + 8 ≤ a + n)))).map (·.1 * 8)

/-- The first uncorrectable word that a read of bytes [a, a + n) consumes. -/
def State.badWord (s : State) (a n : Nat) : Option Nat := s.badFor true a n

/-- Does the host reject a request of a function for bytes [a, a + n) of the host window (R421)? (DESIGN CHOICE, log entry 39.) -/
def State.hostRejects (s : State) (vf a n : Nat) : Bool :=
  s.hostBars.any (fun b => b.1 == vf && b.2.1 < a + n && a < b.2.1 + b.2.2)

/-- The memory code of R118 for 0x17. -/
def memCode (r : Region) : Nat :=
  match r with
  | .spad => 0
  | .bank => 1
  | _ => 3

/-! ## Slots -/

/-- The slots through which a party resolves pointers. -/
structure View where
  manager : Bool
  /-- Core the accesses come from. -/
  core : Option Nat
  slot0 : SlotEntry
  seats : List Seat
  fixed : Vector FixedSlot 4
  /-- The function whose requester ID its host accesses carry, 0 for physical function 0 (R421). -/
  vf : Nat
  deriving DecidableEq, Repr

/-- The function whose requester ID an agent's host accesses carry: the image's, or physical function 0 for the manager (R421). -/
def Ctx.requester (c : Ctx) (a : Agent) : Nat := if isManager a then 0 else c.vf

/-- Slots of an agent as its base registers seat them (R111, R115, R298). -/
def Ctx.view (c : Ctx) (a : Agent) : View :=
  ⟨isManager a, c.core, c.slot0, c.b.toList.filterMap id, c.fixed, c.requester a⟩

/-- The operations whose support depends on the memory (R117 order 5). -/
inductive Support where
  | any
  | granule
  | lock
  | rmw
  | ticket
  | barrier
  deriving DecidableEq, Repr

/-- What an access asks for. -/
structure Need where
  size : Nat
  align : Nat
  write : Bool := false
  /-- A write that also reads the bytes it replaces: an uncorrectable word is consumed (R117 order 11, R139). -/
  rmw : Bool := false
  /-- A copy, which alone may name a K slot (R143). -/
  copy : Bool := false
  /-- A scalar load or store, which alone may reach MMIO (R298, R363; DESIGN CHOICE, log entry 17). -/
  mmio : Bool := false
  kind : Support := .any
  deriving DecidableEq, Repr

/-- Where a pointer leads: the checks of R117 orders 3 to 10 are read off it. -/
structure Place where
  absent : Bool := false
  packed : Bool := false
  writable : Bool := false
  key : Nat := 0
  phys : Nat
  /-- Region that holds the slot's base. -/
  region : Option Region
  /-- May that region be the slot's target (R114)? -/
  target : Bool := true
  /-- Inside the limits of R112 and R117. -/
  inLimit : Bool
  limit : Nat
  /-- Named through slot 4095 or 4094, which alone reach granules' full bits (R129, R315). -/
  granules : Bool := false
  /-- The manager's physical window outside every region, or one of its fixed slots: the bounds alone decide (R298). -/
  window : Bool := false
  /-- Target core and its index in the cluster for a cluster-window access (R112). -/
  peer : Option (Nat × Nat) := none
  deriving DecidableEq, Repr

/-- Fixed-slot setting `k` (slot 4092 + k) of a core: its resident context's, else the one last set (R112). -/
def State.fixedOf (s : State) (core : Nat) (k : Nat) : FixedSlot :=
  let fx := match (s.core core).resident with
    | some i => (s.regs (.ctx i)).fixed
    | none => (s.core core).fixed
  fx.toList.getD k {}

/-- The place of an entry's byte `off` for an access of `size` bytes. (DEDUCED, log entry 26.) -/
def SlotEntry.place (e : SlotEntry) (absent : Bool) (off size : Nat) : Place :=
  let base := e.base.toNat / 256 * 256
  { absent := absent, packed := e.packed, writable := e.writable && !e.code, key := e.key.toNat, phys := base + off,
    region := regionOf base
    target := match regionOf base with
      | some .spad | some .mmio | none => false
      | _ => true
    inLimit := off + size ≤ e.limit.toNat, limit := e.limit.toNat }

/-- Where slot `slot` and offset `off` lead (R111, R112, R115, R298); `none` for a slot that is not seated. A fixed slot names its
memory of R112 whatever its base: a base elsewhere fails the bounds. In manager mode they have limit 0 (R298). -/
def State.place (s : State) (v : View) (slot off size : Nat) : Option Place :=
  let fx (k : Nat) : FixedSlot := v.fixed.toList.getD k {}
  if slot = 0 then some { v.slot0.place false off size with writable := false }
  else if slot ≤ 4031 then (v.seats.find? (·.slot.toNat = slot)).map (fun t => t.entry.place t.absent off size)
  else if slot = 4091 && v.manager then
    some { writable := true, phys := off, region := regionOf off, inLimit := true, limit := 2 ^ 48 - 1, window := (regionOf off).isNone }
  else if 4092 ≤ slot && v.manager then some { writable := true, phys := off, region := none, inLimit := false, limit := 0, window := true }
  else if slot = 4092 then
    let low := off % bankSize
    some { writable := true, phys := (fx 0).base.toNat + off / bankSize * bankSize + low, region := some .bank
           inLimit := off < 4 * bankSize && low + size ≤ (fx 0).limit.toNat && low + size ≤ bankSize, limit := (fx 0).limit.toNat }
  else if slot = 4093 then
    some { writable := true, phys := (fx 1).base.toNat + off, region := some .bank
           inLimit := off + size ≤ (fx 1).limit.toNat, limit := (fx 1).limit.toNat }
  else if slot = 4094 then
    let own := v.core.getD 0
    let idx := off / spadSize % 128
    let tgt := own / 128 * 128 + idx
    let low := off % spadSize
    let peer := s.fixedOf tgt 3
    let mine := (fx 3).limit.toNat
    let ok := off < 2 ^ 25 && low + size ≤ spadSize && low + size ≤ mine
    some { writable := true, phys := (if tgt = own then (fx 3).base else peer.base).toNat + low, region := some .spad, granules := true
           inLimit := ok && low + size ≤ (if tgt = own then mine else peer.limit.toNat)
           limit := if ok then peer.limit.toNat else mine
           peer := if tgt = own then none else some (tgt, idx) }
  else if slot = 4095 then
    some { writable := true, phys := (fx 3).base.toNat + off, region := some .spad, granules := true
           inLimit := off + size ≤ (fx 3).limit.toNat, limit := (fx 3).limit.toNat }
  else none

/-- Does the memory support the operation (R117 order 5)? Full bits are reached through slots 4095 and 4094 alone (R129, R315), locks
live in the home panel's bank memory (R135); any other access to an address outside every region fails the bounds instead (R298). A hub core's home panel
is panel 0. (DESIGN CHOICE, log entry 49.) -/
def Support.on (k : Support) (v : View) (t : Place) : Bool :=
  (t.region.isNone && (t.window || k != .granule)) || match k with
  | .any => true
  | .granule => t.granules
  | .lock => t.region == some .bank && (t.phys - bankStart) / bankSize == v.core.getD 0 / 1024
  | .rmw => t.region == some .spad || t.region == some .bank || t.region == some .hbm
  | .ticket => t.region != some .host
  | .barrier => t.region == some .spad || t.region == some .bank

/-- An access that passed its checks. -/
structure Access where
  phys : Nat
  key : Nat
  region : Region
  deriving DecidableEq, Repr

/-- May core `r` of a cluster reach core `c` of it (R350)? -/
def State.cableAllows (s : State) (cluster r c : Nat) : Bool :=
  r == c || (Sparse.at s.cable 0#128 (cluster * 128 + r)).getLsbD c

/-- The checks of R117, in its order, on an access through a view, and of R421 on one to host memory. An access of 256 bytes shows
size 0, which is what its size field holds of it. (DESIGN CHOICE, log entry 50.) -/
def State.access (s : State) (v : View) (p : Word) (q : Need) : Except MemFault Access :=
  let slot := (p.extractLsb' 52 12).toNat
  let off := (p.extractLsb' 0 48).toNat
  if p.extractLsb' 48 4 != 0#4 then .error ⟨0x06#8, p, 0#64⟩
  else match s.place v slot off q.size with
  | none => .error ⟨0x04#8, p, BitVec.ofNat 64 slot⟩
  | some t =>
    let bounds : MemFault := ⟨0x03#8, p, BitVec.ofNat 64 (q.size % 256 * 2 ^ 48 + t.limit)⟩
    if t.absent then .error ⟨0x05#8, p, BitVec.ofNat 64 slot⟩
    else if t.packed && !q.copy then .error ⟨0x0C#8, p, 2#64⟩
    else if !q.kind.on v t then .error ⟨0x0C#8, p, 3#64⟩
    else if off % q.align != 0 then .error ⟨0x0C#8, p, 1#64⟩
    else match t.region with
    | none => .error bounds
    | some r =>
      if !t.target || (r == .mmio && !q.mmio) || !t.inLimit || regionOf t.phys != some r || (q.size != 0 && regionOf (t.phys + q.size - 1) != some r) then .error bounds
      else if q.write && !t.writable then .error { bounds with val1 := bounds.val1 ||| (1#64 <<< 63) }
      else
        let tail : Except MemFault Access :=
          if r == .host && s.hostRejects v.vf t.phys q.size then .error ⟨0x17#8, p, BitVec.ofNat 64 (memCode r * 2 ^ 62 + t.phys / 8 * 8)⟩
          else match s.badFor (q.rmw || !q.write) t.phys q.size with
          | some w => .error ⟨0x17#8, p, BitVec.ofNat 64 (memCode r * 2 ^ 62 + w)⟩
          | none => .ok ⟨t.phys, t.key, r⟩
        match t.peer with
        | none => tail
        | some (tgt, idx) =>
          if !s.cableAllows (tgt / 128) (v.core.getD 0 % 128) idx then .error ⟨0x13#8, p, BitVec.ofNat 64 idx⟩
          else if (s.core tgt).quiesced then .error ⟨0x11#8, p, BitVec.ofNat 64 idx⟩
          else tail

/-! ## Granules and race detection (R125-R127, R156-R158) -/

/-- Number of the granule that holds a scratchpad address. -/
def granuleOf (a : Nat) : Nat := (a - spadStart) / 16
/-- Number of the tile that holds a scratchpad address. -/
def tileOf (a : Nat) : Nat := (a - spadStart) / 2048

/-- A granule's full bit and writer tag. -/
def State.granule (s : State) (g : Nat) : Granule := Sparse.at s.granules {} g
/-- Writes a granule's full bit and writer tag. -/
def State.setGranule (s : State) (g : Nat) (x : Granule) : State := { s with granules := Sparse.write s.granules {} g x }
/-- A tile's domain tag. -/
def State.tileTag (s : State) (t : Nat) : BitVec 6 := Sparse.at s.tileTags 0#6 t
/-- Writes a tile's domain tag. -/
def State.setTileTag (s : State) (t : Nat) (x : BitVec 6) : State := { s with tileTags := Sparse.write s.tileTags 0#6 t x }

/-- Keys `k` to `k + n` of whatever a run of bytes touches, at a given grain. -/
def spanOf (grain : Nat → Nat) (a n : Nat) : List Nat :=
  if n = 0 then [] else (List.range (grain (a + n - 1) - grain a + 1)).map (grain a + ·)

/-- The 16-bit release count of a core (R157). -/
def Core.relCount (k : Core) : BitVec 16 := BitVec.ofNat 16 k.rel

/-- Entry of core `p` in a core's knowledge vector: 16 bits (R157). -/
def State.known (s : State) (q p : Nat) : BitVec 16 := BitVec.ofNat 16 (Sparse.at (s.core q).know.counts 0 p)

/-- The tag that a write by a core makes: its index and its release count (R127); a hub core leaves 0 (DEDUCED, log entry 8). -/
def State.writerTag (s : State) : Option Nat → BitVec 28
  | none => 0#28
  | some c => BitVec.ofNat 12 c ++ (s.core c).relCount

/-- Is the last write of a granule ordered before an access by core `q` (R157; a tag 32,768 or more releases behind its writer's count
reads as zero), or not to be reported because it came before the latest start or resume there, or by an edge that carries no count (R153, R158)? -/
def State.ordered (s : State) (q : Nat) (x : Granule) : Bool :=
  let tag := x.tag
  let p := (tag.extractLsb' 16 12).toNat
  let c := tag.extractLsb' 0 16
  let d := (s.known q p - c).toNat
  tag == 0#28 || x.rel + 32768 ≤ (s.core p).rel || x.wrote < (s.core q).since || x.wrote < Sparse.at (s.core q).know.past 0 p || p == q || p / 128 != q / 128 || (1 ≤ d && d ≤ 32768)

/-- A race on a plain access to scratchpad (R156). -/
def State.race (s : State) (v : View) (p : Word) (a : Access) (n : Nat) : Option MemFault :=
  match a.region, v.core with
  | .spad, some q =>
    ((spanOf granuleOf a.phys n).find? (fun g => !s.ordered q (s.granule g))).map
      (fun g => ⟨0x0A#8, p, (s.granule g).tag.setWidth 64⟩)
  | _, _ => none

/-- The checks of R117, then race detection for a plain access (R156). -/
def State.plainAccess (s : State) (v : View) (p : Word) (q : Need) : Except MemFault Access :=
  match s.access v p q with
  | .error e => .error e
  | .ok a =>
    match s.race v p a q.size with
    | some e => .error e
    | none => .ok a

/-! ## Releases and acquires (R147-R149, R157, R161-R163, R170) -/

/-- Core number under which a party of an agent releases; hub core `h` is 4096 + h. -/
def Ctx.coreNo (c : Ctx) (a : Agent) : Nat :=
  match a with
  | .hub h => 4096 + h
  | .ctx _ => c.core.getD 0

/-- Does a scope include two cores (R147)? -/
def scopeHas (scope : BitVec 3) (a b : Nat) : Bool :=
  if scope == 0#3 then a == b
  else if scope == 1#3 then a / 128 == b / 128 && a < 4096 && b < 4096
  else if scope == 2#3 then a / 1024 == b / 1024 && a < 4096 && b < 4096
  else true

/-- Merges two maps of numbers, the larger of each. -/
def mergeMax (mine theirs : Sparse Nat) : Sparse Nat := theirs.foldl (fun m e => Sparse.write m 0 e.1 (max (Sparse.at m 0 e.1) e.2)) mine

/-- Merges a releaser's knowledge (R157). -/
def Knowledge.merge (mine theirs : Knowledge) : Knowledge := ⟨mergeMax mine.counts theirs.counts, mergeMax mine.past theirs.past⟩

/-- A release at cluster scope or wider counts before its own write (R157). -/
def State.countRelease (s : State) (core : Nat) (scope : BitVec 3) : State :=
  if scope == 0#3 || core ≥ 4096 then s else s.setCore core { s.core core with rel := (s.core core).rel + 1 }

/-- Knowledge with a core's own count. -/
def State.withCount (s : State) (k : Knowledge) (core : Nat) : Knowledge :=
  if core ≥ 4096 then k else { k with counts := Sparse.write k.counts 0 core (s.core core).rel }

/-- What a release by a core gives away: its knowledge and its own count; a hub core passes on what it has acquired (R153). -/
def State.knowledge (s : State) (core : Nat) : Knowledge :=
  if core ≥ 4096 then (s.hub (core - 4096)).know else s.withCount (s.core core).know core

/-- The release that a core performs on bytes [a, a + n) at a scope, its count already advanced. -/
def State.releaseOf (s : State) (core : Nat) (scope : BitVec 3) (a n : Nat) : Release :=
  { lo := a, len := n, core := core, scope := scope, know := s.knowledge core }

/-- The release of an operation whose flags cover only what `know` holds and its own writes (R169). -/
def State.releaseOp (s : State) (core : Nat) (scope : BitVec 3) (a n : Nat) (know : Knowledge) : Release :=
  { lo := a, len := n, core := core, scope := scope, know := s.withCount know core }

/-- The release that a store performs by a half it took, on bytes [a, a + n): what precedes the fence, under the core's count at the
store (R157, R161). -/
def State.releaseHalfOn (s : State) (core : Nat) (h : Half) (a n : Nat) : Release := { s.releaseOp core h.scope a n h.know with unsure := h.unsure }

/-- An acquire by a core at a scope of a release (R149, R157). -/
def State.acquire (s : State) (core : Nat) (scope : BitVec 3) (r : Release) : State :=
  if scopeHas scope r.core core && scopeHas r.scope r.core core then
    if core < 4096 then s.setCore core { s.core core with know := (s.core core).know.merge r.know }
    else s.setHub (core - 4096) { s.hub (core - 4096) with know := (s.hub (core - 4096)).know.merge r.know }
  else s

/-- Two ranges of bytes, start and length, have a byte in common. -/
def meets (a b : Nat × Nat) : Bool := a.1 < b.1 + b.2 && b.1 < a.1 + a.2

/-- The releases whose value a read of bytes [a, a + n) returns: their write covers the read, and no plain write has replaced a
byte of it since the latest atomic one (R153, R170). (DEDUCED, log entry 51.) -/
def State.releasesAt (s : State) (a n : Nat) : List Release :=
  s.releases.filter (fun r => r.lo ≤ a && a + n ≤ r.lo + r.len && !r.hidden.any (meets (a, n)))

/-- Acquires every release that a read returns. -/
def State.acquireAll (s : State) (core : Nat) (scope : BitVec 3) (rs : List Release) : State :=
  rs.foldl (fun t r => t.acquire core scope r) s

/-- Every entry of a core's knowledge vector becomes that core's current count (R157: a context start or resume). -/
def State.resetKnow (s : State) (core : Nat) (past : Sparse Nat) : State :=
  s.setCore core { s.core core with
    since := s.tick, know := ⟨s.cores.filterMap (fun e => if e.2.rel = 0 then none else some (e.1, e.2.rel)), past⟩ }

/-- What an edge without a count orders of all that a core's context has done so far: its own accesses, and what it knew. -/
def State.pastOf (s : State) (core : Nat) : Sparse Nat := mergeMax (s.core core).know.past [(core, s.tick + 1)]

/-- The same of an agent: a hub core, whose own accesses leave no tag, passes on what it knew. -/
def State.pastFor (s : State) (a : Agent) : Sparse Nat :=
  match a with
  | .hub h => (s.hub h).know.past
  | .ctx _ => s.pastOf ((s.regs a).core.getD 0)

/-- The part of a range that another leaves of it. -/
def cutRange (a n : Nat) (h : Nat × Nat) : List (Nat × Nat) :=
  if meets h (a, n) then
    (if h.1 < a then [(h.1, a - h.1)] else []) ++ (if a + n < h.1 + h.2 then [(a + n, h.1 + h.2 - (a + n))] else [])
  else [h]

/-- A plain write hides the values of releases on its bytes (R153, R170). -/
def State.hideReleases (s : State) (a n : Nat) : State :=
  { s with releases := s.releases.map (fun r => if meets (r.lo, r.len) (a, n) then { r with hidden := (a, n) :: r.hidden } else r) }

/-- An atomic write is read as a release before it in the coherence order of its bytes (R153). -/
def State.showReleases (s : State) (a n : Nat) : State :=
  { s with releases := s.releases.map (fun r => if r.hidden = [] then r else { r with hidden := r.hidden.flatMap (cutRange a n) }) }

/-! ## Writes -/

/-- Sets the writer tag of every granule that a write to scratchpad touches (R127). -/
def State.tagGranules (s : State) (tag : BitVec 28) (a n : Nat) : State :=
  let rel := (s.core (tag.extractLsb' 16 12).toNat).rel
  (spanOf granuleOf a n).foldl (fun t g => t.setGranule g { t.granule g with tag := tag, wrote := s.tick, rel := rel }) s

/-- Sets full every granule that bytes touch, from the first write that touches it (R126). (DEDUCED, log entry 48.) -/
def State.fillGranules (s : State) (a n : Nat) : State :=
  (spanOf granuleOf a n).foldl (fun t g => t.setGranule g { t.granule g with full := true }) s

/-- Gives a domain tag to every scratchpad tile that bytes touch (R128). -/
def State.tagTiles (s : State) (tag : BitVec 6) (a n : Nat) : State :=
  (spanOf tileOf a n).foldl (fun t g => t.setTileTag g tag) s

/-- Everything a write of `n` bytes does beside the bytes: scrub blocks, check bits, reservations, writer tags. -/
def State.touch (s : State) (core : Option Nat) (r : Region) (a n : Nat) : State :=
  let s := ((s.touchBlocks a n).healWords a n).dropReservations a n
  if r == .spad then s.tagGranules (s.writerTag core) a n else s

/-- Is an access of `n` bytes one to HBM under a destroyed key id, which writes nothing (R422)? -/
def State.keyGone (s : State) (a : Access) (n : Nat) : Bool := a.phys + n ≤ hbmEnd && (Sparse.find s.keys a.key).isNone

/-- A plain write of `n` bytes by a core at an access that passed its checks: the releases on those bytes are no longer read
(R170). -/
def State.putPlain (s : State) (core : Option Nat) (a : Access) (n w : Nat) : State :=
  if s.keyGone a n then s else ((s.touch core a.region a.phys n).write a.key a.phys n w).hideReleases a.phys n

/-- An atomic write: every release on those bytes is read through it (R153). -/
def State.putAtomic (s : State) (core : Option Nat) (a : Access) (n w : Nat) : State :=
  if s.keyGone a n then s else ((s.touch core a.region a.phys n).write a.key a.phys n w).showReleases a.phys n

/-- Adds a release that a write has just performed. -/
def State.addRelease (s : State) (r : Release) : State := { s with releases := r :: s.releases }

/-- A load by S notes the releases whose value it read, for the next acquire half (R161). -/
def State.noteReads (s : State) (a : Agent) (phys n : Nat) : State :=
  match s.releasesAt phys n with
  | [] => s
  | rs => s.onRegs a (fun c => { c with reads := rs ++ c.reads })

/-- The wider of a release half's scope and another (R161, R164). -/
def widerScope (half : Option (BitVec 3)) (sc : Option (BitVec 3)) : Option (BitVec 3) :=
  match half, sc with
  | none, x => x
  | x, none => x
  | some a, some b => some (if a.toNat < b.toNat then b else a)

/-- A store by S takes the release half that waits, at the wider scope of two, or the one that fabric operations took whose outcomes are
not known yet (R161, R408): the state with the count advanced, and the half. -/
def State.takeHalf (s : State) (a : Agent) : State × Option Half :=
  let c := s.regs a
  match c.relHalf, c.openHalf with
  | some sc, o =>
    let sc := (widerScope (some sc) (o.map (·.scope))).getD sc
    ((s.setRegs a { c with relHalf := none, openHalf := none }).countRelease (c.coreNo a) sc, some { scope := sc, know := c.relKnow })
  | none, some h => ((s.setRegs a { c with openHalf := none }).countRelease (c.coreNo a) h.scope, some h)
  | none, none => (s, none)

/-- A plain store by S of `n` bytes, a release when a half waits (R161, R170): of what precedes the fence, under the core's count at
the store. (DEDUCED, log entry 52.) -/
def State.storeS (s : State) (a : Agent) (acc : Access) (n w : Nat) : State :=
  let (s, half) := s.takeHalf a
  let c := s.regs a
  let s := s.putPlain c.core acc n w
  match half with
  | none => s
  | some h => s.addRelease (s.releaseHalfOn (c.coreNo a) h acc.phys n)

/-- Reads an instruction word or record through slot 0's copy, with no race check (fetch; R120). -/
def State.fetchWord (s : State) (c : Ctx) (pc : Word) : BitVec 32 :=
  BitVec.ofNat 32 (s.read c.slot0.key.toNat (c.slot0.base.toNat / 256 * 256 + (pc.extractLsb' 0 48).toNat) 4)

/-- The trap that a memory fault raises at an instruction (R118). -/
def MemFault.act (e : MemFault) : Act := .trap e.cause e.ptr e.val1

/-- Sub-code of R118 of a memory fault, else 0. -/
def MemFault.sub (e : MemFault) : BitVec 8 := if e.cause == 0x0C#8 then e.val1.setWidth 8 else 0#8

/-- Weight entry of a byte moved at an endpoint (R356): own scratchpad, peer scratchpad or bank, HBM, host window. -/
def byteEntry (v : View) (a : Access) : Nat :=
  match a.region with
  | .spad => if some ((a.phys - spadStart) / spadSize) == v.core then 16 else 17
  | .bank => 17
  | .hbm => 18
  | _ => 19

/-! ## Delivery of asynchronous faults, and the reads of an instruction -/

/-- Delivers a pending fault at the needle's instruction: the operation record is written at OPBASE, and 0x12 is raised
with the issuing instruction in `tipc` (R361, R362). -/
def State.deliver (s : State) (p : PendingFault) : State × Act :=
  let c := s.my
  let id := match s.who with
    | .ctx i => i
    | .hub h => h
  let addr := (s.part c.part).opbase.toNat * 64 + 64 * (id % 2 ^ 16)
  let s := s.setMy { c with pend := c.pend.filter (fun q => q.seq != p.seq) }
  let s := (s.touch none ((regionOf addr).getD .hbm) addr 64).write 0 addr 64 p.record
  (s, .trapAt 0x12#8 p.status (BitVec.ofNat 64 addr) p.ipc)

/-- Does a source name the register of a fabric read that S has not read yet? -/
def Ctx.unseen (c : Ctx) (srcs : List Src) : Bool := c.fabReads.any (fun e => srcs.any (·.isX e.1))

/-- S has read x registers that fabric reads wrote: those whose value still stands there are loads from now on, whose releases
the next acquire half acquires (R161, R408). (DEDUCED, log entry 53.) -/
def Ctx.observe (c : Ctx) (srcs : List Src) : Ctx :=
  let seen (e : XReg × Word × List Release) : Bool := srcs.any (·.isX e.1)
  { c with reads := (c.fabReads.filter (fun e => seen e && c.getX e.1 == e.2.1)).flatMap (·.2.2) ++ c.reads
           fabReads := c.fabReads.filter (fun e => !seen e) }

/-- The state in which an instruction runs whose sources S has read; another needle's reads are no loads of S. -/
def State.observed (s : State) (srcs : List Src) : State :=
  if s.ndl == .S && s.my.unseen srcs then s.onMy (·.observe srcs) else s

/-- Reads the source registers of an instruction before its body: an empty one blocks or faults (R31), and a status
register with a fault not yet delivered delivers it (R361). -/
def reading (srcs : List Src) (body : State → State × Act) (s : State) : State × Act :=
  match s.my.unready srcs with
  | some a => (s, a)
  | none =>
    let s := s.observed srcs
    match firstPending (fun p => match p.xd with
        | none => false
        | some r => r != 0#5 && srcs.any (·.isX r)) s.my.pend with
    | some p => s.deliver p
    | none => body s

end Sys2Proof.Machine
end

