-- ==== Sys2Proof/Machine/Float.lean ====
section
/-! DEFINITION. Number formats, exact values, the one rounding, and the flags each rounding raises (05_number_formats). -/

namespace Sys2Proof.Machine
open Sys2Proof

/-- Parameters of a floating-point format (R81). -/
structure FFormat where
  /-- Exponent bits. -/
  ew : Nat
  /-- Fraction bits. -/
  fw : Nat
  bias : Nat
  inf : Bool
  nan : Bool
  deriving DecidableEq, Repr

/-- FP64, FP32, FP16, BF16, E4M3, E5M2 and FP4 (R81). -/
def fp64 : FFormat := ⟨11, 52, 1023, true, true⟩
def fp32 : FFormat := ⟨8, 23, 127, true, true⟩
def fp16 : FFormat := ⟨5, 10, 15, true, true⟩
def bf16 : FFormat := ⟨8, 7, 127, true, true⟩
def e4m3 : FFormat := ⟨4, 3, 7, false, true⟩
def e5m2 : FFormat := ⟨5, 2, 15, true, true⟩
def fp4 : FFormat := ⟨2, 1, 1, false, false⟩

/-- The floating-point format with a format code (R78). -/
def floatFormat : Nat → Option FFormat
  | 4 => some fp16
  | 5 => some bf16
  | 6 => some fp32
  | 7 => some fp64
  | 8 => some e4m3
  | 9 => some e5m2
  | 10 => some fp4
  | _ => none

/-- Bits of an encoding. -/
def FFormat.width (f : FFormat) : Nat := 1 + f.ew + f.fw
/-- Exponent of the smallest normal (R81). -/
def FFormat.emin (f : FFormat) : Int := 1 - (f.bias : Int)
/-- Encoding of the largest finite value, sign clear (R82). -/
def FFormat.maxCode (f : FFormat) : Nat :=
  if f.inf then (2 ^ f.ew - 1) * 2 ^ f.fw - 1 else if f.nan then 2 ^ (f.ew + f.fw) - 2 else 2 ^ (f.ew + f.fw) - 1
/-- Encoding of +inf. -/
def FFormat.infCode (f : FFormat) : Nat := (2 ^ f.ew - 1) * 2 ^ f.fw
/-- The default NaN (R82). -/
def FFormat.nanCode (f : FFormat) : Nat :=
  if f.inf then (2 ^ f.ew - 1) * 2 ^ f.fw + 2 ^ (f.fw - 1) else if f.nan then 2 ^ (f.ew + f.fw) - 1 else 0

/-- An exact value: a NaN, an infinity, or (−1)^neg × mant × 2^exp; zeros keep their sign (R8, R89). -/
inductive Val where
  | nan (signalling : Bool)
  | inf (neg : Bool)
  | fin (neg : Bool) (mant : Nat) (exp : Int)
  deriving DecidableEq, Repr

/-- The value an encoding represents (R81, R89). -/
def FFormat.value (f : FFormat) (w : Nat) : Val :=
  let neg := w / 2 ^ (f.ew + f.fw) % 2 == 1
  let e := w / 2 ^ f.fw % 2 ^ f.ew
  let m := w % 2 ^ f.fw
  if f.inf && e == 2 ^ f.ew - 1 then
    if m == 0 then .inf neg else .nan (8 < f.width && m < 2 ^ (f.fw - 1))
  else if f.nan && !f.inf && e == 2 ^ f.ew - 1 && m == 2 ^ f.fw - 1 then .nan false
  else if e == 0 then .fin neg m (f.emin - f.fw)
  else .fin neg (2 ^ f.fw + m) ((e : Int) - f.bias - f.fw)

/-- Rounding modes by their `frm` code (R85). -/
inductive Rm where
  | rne | rtz | rdn | rup | rmm
  deriving DecidableEq, Repr

/-- The mode a code selects; 5 to 7 select none (R85). -/
def rmOf (c : BitVec 3) : Option Rm :=
  if c == 0#3 then some .rne else if c == 1#3 then some .rtz else if c == 2#3 then some .rdn
  else if c == 3#3 then some .rup else if c == 4#3 then some .rmm else none

/-- Overflow policies (R87). -/
inductive Ovf where
  | ieee | sat
  deriving DecidableEq, Repr

/-- NV, DZ, OF, UF, NX as bits 4 to 0 of `fflags` (R193). -/
abbrev FFlags := BitVec 5
def nv : FFlags := 16#5
def dz : FFlags := 8#5
def of_ : FFlags := 4#5
def uf : FFlags := 2#5
def nx : FFlags := 1#5

/-- Sticky bits sn, ss, si, su of `vqcfg` (R91). -/
abbrev QFlags := BitVec 12
def qsn : QFlags := 0x800#12
def qss : QFlags := 0x400#12
def qsi : QFlags := 0x200#12
def qsu : QFlags := 0x100#12

/-- A delivered encoding with the flags and sticky bits it raises. -/
structure Rounded where
  bits : Nat
  flags : FFlags := 0#5
  q : QFlags := 0#12
  deriving DecidableEq, Repr

/-- Does a mode round the magnitude up? `rest` orders the discarded part against one half: lt, eq or gt; `any`: it is not zero. -/
def roundsUp (rm : Rm) (neg : Bool) (odd any : Bool) (rest : Ordering) : Bool :=
  match rm with
  | .rne => rest == .gt || (rest == .eq && odd)
  | .rtz => false
  | .rdn => neg && any
  | .rup => !neg && any
  | .rmm => rest == .gt || rest == .eq

/-- mant × 2^exp (plus a little when `sticky`) as a multiple of 2^q: the multiple a mode chooses, and whether it is inexact. -/
def roundAt (rm : Rm) (neg : Bool) (mant : Nat) (exp : Int) (sticky : Bool) (q : Int) : Nat × Bool :=
  if q ≤ exp then
    let y := mant * 2 ^ (exp - q).toNat
    if roundsUp rm neg (y % 2 == 1) sticky .lt then (y + 1, sticky) else (y, sticky)
  else
    let k := (q - exp).toNat
    let y := mant / 2 ^ k
    let r := mant % 2 ^ k
    let half := 2 ^ (k - 1)
    let rest : Ordering := if r < half then .lt else if r == half && !sticky then .eq else .gt
    let any := r != 0 || sticky
    (if roundsUp rm neg (y % 2 == 1) any rest then y + 1 else y, any)

/-- The encoding of y × 2^q, y at most 2^(fw + 1), q no less than the spacing of the format's subnormals. -/
def FFormat.encode (f : FFormat) (neg : Bool) (y : Nat) (q : Int) : Nat :=
  let s := if neg then 2 ^ (f.ew + f.fw) else 0
  let (y, q) := if y ≥ 2 ^ (f.fw + 1) then (y / 2, q + 1) else (y, q)
  if y < 2 ^ f.fw then s + y else s + (q + f.fw + f.bias).toNat * 2 ^ f.fw + (y - 2 ^ f.fw)

/-- Sign bit of a format. -/
def FFormat.signCode (f : FFormat) (neg : Bool) : Nat := if neg then 2 ^ (f.ew + f.fw) else 0

/-- Overflow of a finite value (R87). -/
def FFormat.overflow (f : FFormat) (rm : Rm) (neg : Bool) (ovf : Ovf) : Rounded :=
  let big := f.signCode neg + f.maxCode
  if ovf == .sat || !f.nan then ⟨big, of_ ||| nx, qss⟩
  else if f.inf then
    let toInf := match rm with
      | .rne => true
      | .rmm => true
      | .rtz => false
      | .rdn => neg
      | .rup => !neg
    ⟨if toInf then f.signCode neg + f.infCode else big, of_ ||| nx, 0#12⟩
  else ⟨f.nanCode, of_ ||| nx, 0#12⟩

/-- An infinite operand (R87). -/
def FFormat.infinite (f : FFormat) (neg : Bool) (ovf : Ovf) : Rounded :=
  if ovf == .sat || !f.nan then ⟨f.signCode neg + f.maxCode, nx, qss⟩
  else if f.inf then ⟨f.signCode neg + f.infCode, 0#5, 0#12⟩
  else ⟨f.nanCode, nv, 0#12⟩

/-- Is the magnitude tiny after rounding to the format's precision with an unbounded exponent (R88)? -/
def FFormat.tiny (f : FFormat) (rm : Rm) (neg : Bool) (mant : Nat) (exp : Int) (sticky : Bool) : Bool :=
  let e := (mant.log2 : Int) + exp
  if f.emin ≤ e then false
  else if e + 1 < f.emin then true
  else (roundAt rm neg mant exp sticky (e - f.fw)).1 < 2 ^ (f.fw + 1)

/-- RoundToFormat of a finite value that is not zero, or lies just above mant × 2^exp when `sticky` (R89). -/
def FFormat.roundFin (f : FFormat) (rm : Rm) (ovf : Ovf) (neg : Bool) (mant : Nat) (exp : Int) (sticky : Bool) : Rounded :=
  let e := max ((mant.log2 : Int) + exp) f.emin
  let q := e - f.fw
  let (y, inexact) := roundAt rm neg mant exp sticky q
  let code := f.encode false y q
  if code > f.maxCode then f.overflow rm neg ovf
  else
    let fl := (if inexact then nx else 0#5) ||| (if inexact && f.tiny rm neg mant exp sticky then uf else 0#5)
    ⟨f.signCode neg + code, fl, 0#12⟩

/-- RoundToFormat (R89). A NaN operand gives the default NaN; the flag of a signalling operand is the operation's (R83). -/
def FFormat.round (f : FFormat) (rm : Rm) (ovf : Ovf) : Val → Rounded
  | .nan _ => if f.nan then ⟨f.nanCode, 0#5, 0#12⟩ else ⟨0, 0#5, qsn⟩
  | .inf neg => f.infinite neg ovf
  | .fin neg 0 _ => ⟨f.signCode neg, 0#5, 0#12⟩
  | .fin neg m e => f.roundFin rm ovf neg m e false

/-- A signalling NaN operand raises NV (R83). -/
def Val.snan : Val → FFlags
  | .nan true => nv
  | _ => 0#5

/-- Is the value a NaN? -/
def Val.isNan : Val → Bool
  | .nan _ => true
  | _ => false

/-- Is the value a zero? -/
def Val.isZero : Val → Bool
  | .fin _ 0 _ => true
  | _ => false

/-- Sign bit of a value that is not a NaN. -/
def Val.neg : Val → Bool
  | .nan _ => false
  | .inf s => s
  | .fin s _ _ => s

/-- The value with its sign reversed. -/
def Val.negate : Val → Val
  | .nan s => .nan s
  | .inf s => .inf !s
  | .fin s m e => .fin (!s) m e

/-- Magnitude of a value. -/
def Val.abs : Val → Val
  | .nan s => .nan s
  | .inf _ => .inf false
  | .fin _ m e => .fin false m e

/-- An exact operation's result with the flags the operation itself raises. -/
structure Exact where
  val : Val
  flags : FFlags := 0#5
  deriving DecidableEq, Repr

/-- Signed mantissa at exponent `e`, no greater than the value's own. -/
def Val.at (e : Int) : Val → Int
  | .fin s m x => (if s then -1 else 1) * ((m * 2 ^ (x - e).toNat : Nat) : Int)
  | _ => 0

/-- Exponent of a finite value. -/
def Val.exp : Val → Int
  | .fin _ _ e => e
  | _ => 0

/-- The least exponent in a list of values. -/
def leastExp (ts : List Val) : Int := (ts.map Val.exp).foldl min (match ts with | [] => 0 | t :: _ => t.exp)

/-- The exact sum of finite terms, its zero signed as R84 says. -/
def sumFinite (rm : Rm) (ts : List Val) : Val :=
  let e := leastExp ts
  let n := (ts.map (Val.at e)).foldl (· + ·) 0
  if n = 0 then
    if ts.all Val.isZero && ts.all (fun t => t.neg) && ts != [] then .fin true 0 0
    else if ts.all Val.isZero && ts.all (fun t => !t.neg) then .fin false 0 0
    else .fin (rm == .rdn) 0 0
  else .fin (n < 0) n.natAbs e

/-- The exact sum of terms (R84, R101): a NaN term, or infinities of both signs, give a NaN. -/
def sumExact (rm : Rm) (ts : List Val) : Exact :=
  let sn := ts.foldl (fun a t => a ||| t.snan) 0#5
  if ts.any Val.isNan then ⟨.nan false, sn⟩
  else if ts.contains (.inf true) then
    if ts.contains (.inf false) then ⟨.nan false, nv⟩ else ⟨.inf true, 0#5⟩
  else if ts.contains (.inf false) then ⟨.inf false, 0#5⟩
  else ⟨sumFinite rm ts, 0#5⟩

/-- The exact product: inf × 0 is invalid. -/
def mulExact (a b : Val) : Exact :=
  match a, b with
  | .nan _, _ => ⟨.nan false, a.snan ||| b.snan⟩
  | _, .nan _ => ⟨.nan false, a.snan ||| b.snan⟩
  | .inf s, y => if y.isZero then ⟨.nan false, nv⟩ else ⟨.inf (s != y.neg), 0#5⟩
  | x, .inf t => if x.isZero then ⟨.nan false, nv⟩ else ⟨.inf (x.neg != t), 0#5⟩
  | .fin s m e, .fin t n f => ⟨.fin (s != t) (m * n) (e + f), 0#5⟩

/-- a × b + c, exact (one rounding follows); inf × 0 is invalid even beside a NaN addend, as the base defines. -/
def fmaExact (rm : Rm) (a b c : Val) : Exact :=
  let p := mulExact a b
  let r := sumExact rm [p.val, c]
  ⟨r.val, p.flags ||| r.flags⟩

/-- Rounds an exact result: its flags and the rounding's. -/
def FFormat.deliver (f : FFormat) (rm : Rm) (ovf : Ovf) (x : Exact) : Rounded :=
  let r := f.round rm ovf x.val
  { r with flags := r.flags ||| x.flags }

/-- Addition, one rounding. -/
def FFormat.add (f : FFormat) (rm : Rm) (a b : Nat) : Rounded := f.deliver rm .ieee (sumExact rm [f.value a, f.value b])
/-- Subtraction, one rounding. -/
def FFormat.sub (f : FFormat) (rm : Rm) (a b : Nat) : Rounded := f.deliver rm .ieee (sumExact rm [f.value a, (f.value b).negate])
/-- Multiplication, one rounding. -/
def FFormat.mul (f : FFormat) (rm : Rm) (a b : Nat) : Rounded := f.deliver rm .ieee (mulExact (f.value a) (f.value b))

/-- Rounds num ÷ den × 2^exp, both positive. -/
def FFormat.roundRatio (f : FFormat) (rm : Rm) (neg : Bool) (num den : Nat) (exp : Int) : Rounded :=
  let k := den.log2 + f.fw + 4
  let n := num * 2 ^ k
  f.roundFin rm .ieee neg (n / den) (exp - k) (n % den != 0)

/-- Division (IEEE 754: 0 ÷ 0 and inf ÷ inf invalid, finite ÷ 0 raises DZ). -/
def FFormat.divVal (f : FFormat) (rm : Rm) (a b : Val) : Rounded :=
  match a, b with
  | .nan _, _ => ⟨f.nanCode, a.snan ||| b.snan, 0#12⟩
  | _, .nan _ => ⟨f.nanCode, a.snan ||| b.snan, 0#12⟩
  | .inf _, .inf _ => ⟨f.nanCode, nv, 0#12⟩
  | .inf s, y => ⟨f.signCode (s != y.neg) + f.infCode, 0#5, 0#12⟩
  | x, .inf t => ⟨f.signCode (x.neg != t), 0#5, 0#12⟩
  | .fin s m e, .fin t n g =>
    if n = 0 then if m = 0 then ⟨f.nanCode, nv, 0#12⟩ else ⟨f.signCode (s != t) + f.infCode, dz, 0#12⟩
    else if m = 0 then ⟨f.signCode (s != t), 0#5, 0#12⟩
    else f.roundRatio rm (s != t) m n (e - g)

/-- Division of encodings, one rounding. -/
def FFormat.div (f : FFormat) (rm : Rm) (a b : Nat) : Rounded := f.divVal rm (f.value a) (f.value b)

/-- The integer square root, bit by bit from bit `k` down, of `n`, above `r`. -/
def isqrtFrom (n : Nat) : Nat → Nat → Nat
  | 0, r => r
  | k + 1, r => isqrtFrom n k (if (r + 2 ^ k) * (r + 2 ^ k) ≤ n then r + 2 ^ k else r)

/-- The greatest r with r × r ≤ n. -/
def isqrt (n : Nat) : Nat := isqrtFrom n (n.log2 / 2 + 1) 0

/-- Square root, one rounding; a negative operand is invalid, −0 stays. -/
def FFormat.sqrtVal (f : FFormat) (rm : Rm) : Val → Rounded
  | .nan s => ⟨f.nanCode, if s then nv else 0#5, 0#12⟩
  | .inf true => ⟨f.nanCode, nv, 0#12⟩
  | .inf false => ⟨f.infCode, 0#5, 0#12⟩
  | .fin neg 0 _ => ⟨f.signCode neg, 0#5, 0#12⟩
  | .fin true _ _ => ⟨f.nanCode, nv, 0#12⟩
  | .fin false m e =>
    let k := 2 * (f.fw + 4) + (if e % 2 == 0 then 0 else 1)
    let n := m * 2 ^ k
    let r := isqrt n
    f.roundFin rm .ieee false r ((e - k) / 2) (r * r != n)

/-- Total order of magnitude of two finite values. -/
def finLe (a b : Val) : Bool :=
  let e := min a.exp b.exp
  a.at e ≤ b.at e

/-- a ≤ b for values that are not NaNs. -/
def Val.le (a b : Val) : Bool :=
  match a, b with
  | .inf true, _ => true
  | _, .inf false => true
  | .inf false, _ => false
  | _, .inf true => false
  | _, _ => finLe a b

/-- a = b for values that are not NaNs; zeros are equal. -/
def Val.eqv (a b : Val) : Bool := a.le b && b.le a
/-- a < b for values that are not NaNs. -/
def Val.lt (a b : Val) : Bool := a.le b && !b.le a

/-- The larger or smaller of two operands, a NaN giving way to a number and −0 below +0, as IEEE 754-2019
maximumNumber and minimumNumber: the operand whose bits are delivered, or the default NaN for two NaNs. -/
def FFormat.pick (f : FFormat) (larger : Bool) (a b : Nat) : Rounded :=
  let x := f.value a
  let y := f.value b
  let fl := x.snan ||| y.snan
  if x.isNan then if y.isNan then ⟨f.nanCode, fl, 0#12⟩ else ⟨b, fl, 0#12⟩
  else if y.isNan then ⟨a, fl, 0#12⟩
  else if x.isZero && y.isZero then ⟨if x.neg == larger then b else a, fl, 0#12⟩
  else ⟨if x.le y == larger then b else a, fl, 0#12⟩

/-- The integer a mode chooses for a finite value, and whether it differs from it (R89 RoundToInt). -/
def roundInt (rm : Rm) : Val → Int × Bool
  | .fin neg m e =>
    let (y, inexact) := roundAt rm neg m e false 0
    (if neg then -(y : Int) else y, inexact)
  | _ => (0, false)

/-- The value of an integer. -/
def Val.ofInt (n : Int) : Val := .fin (n < 0) n.natAbs 0

/-- Class of an encoding, one bit of ten, as the base `fclass` numbers them. -/
def FFormat.classify (f : FFormat) (w : Nat) : Nat :=
  match f.value w with
  | .nan true => 256
  | .nan false => 512
  | .inf true => 1
  | .inf false => 128
  | .fin neg 0 _ => if neg then 8 else 16
  | .fin neg m _ =>
    if m < 2 ^ f.fw then (if neg then 4 else 32) else (if neg then 2 else 64)

/-- Conversion to an integer range with saturation: NV when the value does not fit, NX when it is rounded. `nanVal` is
what a NaN delivers. -/
def toIntSat (rm : Rm) (lo hi nanVal : Int) : Val → Int × FFlags
  | .nan _ => (nanVal, nv)
  | .inf true => (lo, nv)
  | .inf false => (hi, nv)
  | v =>
    let (n, inexact) := roundInt rm v
    if n < lo then (lo, nv) else if n > hi then (hi, nv) else (n, if inexact then nx else 0#5)

end Sys2Proof.Machine
end

