-- ==== Sys2Proof/Machine/SpecFn.lean ====
section
/-! DEFINITION. The special functions of R105 and R106: each is computed in fixed point to far more bits than any
rounding needs and rounded once, exact results apart (UNVERIFIED, log entry 10). -/

namespace Sys2Proof.Machine
open Sys2Proof

/-- Fraction bits of the fixed-point computations. -/
def prec : Nat := 1024

/-- Σ over `n` terms of an alternating series in 1 / d²: the arctangent of 1 / d, scaled by 2^k. -/
def arctanInv (d : Nat) : Nat → Nat → Nat → Int → Int
  | 0, _, _, a => a
  | n + 1, t, i, a => arctanInv d n (t / (d * d)) (i + 1) (if i % 2 == 0 then a + ((t / (2 * i + 1) : Nat) : Int) else a - ((t / (2 * i + 1) : Nat) : Int))

/-- π scaled by 2^k (Machin's formula, guard bits dropped). -/
def piFix (k : Nat) : Nat :=
  let g := k + 32
  let a := arctanInv 5 (g / 4 + 8) (2 ^ g / 5) 0 0
  let b := arctanInv 239 (g / 15 + 8) (2 ^ g / 239) 0 0
  ((16 * a - 4 * b) / (2 ^ 32 : Nat)).toNat

/-- Σ x^i ÷ i! from term `t` of index `i`, scaled by 2^k. -/
def expTerms (k x : Nat) : Nat → Nat → Nat → Nat → Nat
  | 0, _, _, a => a
  | n + 1, t, i, a => expTerms k x n (t * x / 2 ^ k / (i + 1)) (i + 1) (a + t)

/-- e^x for 0 ≤ x < 1, both scaled by 2^k. -/
def expFix (k x : Nat) : Nat := expTerms k x 260 (2 ^ k) 0 0

/-- 2 artanh(t) = Σ 2 t^(2i+1) ÷ (2i+1), scaled by 2^k, for t at most 1 ÷ 3. -/
def artanhTerms (k t2 : Nat) : Nat → Nat → Nat → Nat → Nat
  | 0, _, _, a => a
  | n + 1, t, i, a => artanhTerms k t2 n (t * t2 / 2 ^ k) (i + 1) (a + 2 * t / (2 * i + 1))

/-- ln of num ÷ den, which lies in [1, 2], scaled by 2^k. -/
def lnFix (k num den : Nat) : Nat :=
  let t := (num - den) * 2 ^ k / (num + den)
  artanhTerms k (t * t / 2 ^ k) (k / 3 + 8) t 0 0

/-- ln 2 scaled by 2^k. -/
def ln2Fix (k : Nat) : Nat := lnFix k 2 1

/-- A magnitude scaled by 2^k, rounded down. -/
def fixOf (k : Nat) (m : Nat) (e : Int) : Nat :=
  if 0 ≤ e + k then m * 2 ^ (e + k).toNat else m / 2 ^ (-(e + k)).toNat

/-- e^(−x) for a magnitude x scaled by 2^k: reduced by powers of two. -/
def expNegFix (k x : Nat) : Nat :=
  let l := ln2Fix k
  let n := x / l + 1
  expFix k (n * l - x) / 2 ^ n

/-- Rounds y ÷ 2^k × 2^e, which is never exact. -/
def FFormat.roundReal (f : FFormat) (neg : Bool) (y : Nat) (k : Nat) (e : Int) : Rounded :=
  f.roundFin .rne .ieee neg y (e - k) true

/-- A value too small for any format, of a sign. -/
def FFormat.speck (f : FFormat) (neg : Bool) : Rounded := f.roundFin .rne .ieee neg 1 (-4000) true
/-- A value too large for any format, of a sign. -/
def FFormat.vast (f : FFormat) (neg : Bool) : Rounded := f.roundFin .rne .ieee neg 1 4000 false

/-- The default NaN without a flag. -/
def FFormat.quiet (f : FFormat) (v : Val) : Rounded := ⟨f.nanCode, v.snan, 0#12⟩

/-- Encoding of 1. -/
def FFormat.one (f : FFormat) (neg : Bool) : Nat := f.signCode neg + f.bias * 2 ^ f.fw

/-- 2^a. -/
def FFormat.exp2 (f : FFormat) : Val → Rounded
  | .nan s => f.quiet (.nan s)
  | .inf true => ⟨0, 0#5, 0#12⟩
  | .inf false => ⟨f.infCode, 0#5, 0#12⟩
  | .fin neg m e =>
    if m = 0 then ⟨f.one false, 0#5, 0#12⟩
    else if (m.log2 : Int) + e ≥ 11 then if neg then f.speck false else f.vast false
    else
      let x := fixOf prec m e
      let n := x / 2 ^ prec
      let r := x % 2 ^ prec
      if r = 0 then f.roundFin .rne .ieee false 1 (if neg then -(n : Int) else n) false
      else
        let (n, r) : Int × Nat := if neg then (-(n : Int) - 1, 2 ^ prec - r) else (n, r)
        f.roundReal false (expFix prec (r * ln2Fix prec / 2 ^ prec)) prec n

/-- log2 a. -/
def FFormat.log2 (f : FFormat) : Val → Rounded
  | .nan s => f.quiet (.nan s)
  | .inf true => ⟨f.nanCode, nv, 0#12⟩
  | .inf false => ⟨f.infCode, 0#5, 0#12⟩
  | .fin neg m e =>
    if m = 0 then ⟨f.signCode true + f.infCode, dz, 0#12⟩
    else if neg then ⟨f.nanCode, nv, 0#12⟩
    else
      let n : Int := (m.log2 : Int) + e
      if m = 2 ^ m.log2 then f.round .rne .ieee (if n = 0 then .fin false 0 0 else .ofInt n)
      else
        let y : Int := n * 2 ^ prec + (lnFix prec m (2 ^ m.log2) * 2 ^ prec / ln2Fix prec : Nat)
        f.roundReal (y < 0) y.natAbs prec 0

/-- tanh a. -/
def FFormat.tanh (f : FFormat) : Val → Rounded
  | .nan s => f.quiet (.nan s)
  | .inf neg => ⟨f.one neg, 0#5, 0#12⟩
  | .fin neg 0 _ => ⟨f.signCode neg, 0#5, 0#12⟩
  | .fin neg m e =>
    if (m.log2 : Int) + e ≥ 6 then f.roundReal neg (2 ^ prec - 1) prec 0
    else
      let u := expNegFix prec (2 * fixOf prec m e)
      f.roundReal neg ((2 ^ prec - u) * 2 ^ prec / (2 ^ prec + u)) prec 0

/-- SiLU(a) = a ÷ (1 + e^−a). -/
def FFormat.silu (f : FFormat) : Val → Rounded
  | .nan s => f.quiet (.nan s)
  | .inf neg => ⟨if neg then f.signCode true else f.infCode, 0#5, 0#12⟩
  | .fin neg 0 _ => ⟨f.signCode neg, 0#5, 0#12⟩
  | .fin neg m e =>
    if (m.log2 : Int) + e ≥ 9 then if neg then f.speck true else f.roundFin .rne .ieee false (m * 2 ^ prec - 1) (e - prec) true
    else
      let u := expNegFix prec (fixOf prec m e)
      let g := (if neg then u else 2 ^ prec) * 2 ^ prec / (2 ^ prec + u)
      f.roundReal neg (m * g) prec e

/-- Σ of the series of erf with positive terms: t_0 = z, t_{i+1} = t_i × 2z² ÷ (2i + 3), scaled by 2^k. -/
def erfTerms (k z2 : Nat) : Nat → Nat → Nat → Nat → Nat
  | 0, _, _, a => a
  | n + 1, t, i, a => erfTerms k z2 n (t * (2 * z2) / 2 ^ k / (2 * i + 3)) (i + 1) (a + t)

/-- erf(x ÷ √2) for a magnitude x below 16, scaled by 2^k. -/
def erfFix (k x : Nat) : Nat :=
  let z2 := x * x / 2 ^ k / 2
  let z := isqrt (z2 * 2 ^ k)
  let s := erfTerms k z2 1400 z 0 0
  let rootPi := isqrt (piFix k * 2 ^ k)
  2 * s * expNegFix k z2 / rootPi

/-- GELU(a) = (a ÷ 2) × (1 + erf(a ÷ √2)). -/
def FFormat.gelu (f : FFormat) : Val → Rounded
  | .nan s => f.quiet (.nan s)
  | .inf neg => ⟨if neg then f.signCode true else f.infCode, 0#5, 0#12⟩
  | .fin neg 0 _ => ⟨f.signCode neg, 0#5, 0#12⟩
  | .fin neg m e =>
    if (m.log2 : Int) + e ≥ 4 then if neg then f.speck true else f.roundFin .rne .ieee false (m * 2 ^ prec - 1) (e - prec) true
    else
      let k := 2 * prec
      let w := erfFix k (fixOf k m e)
      f.roundReal neg (m * (if neg then 2 ^ k - w else 2 ^ k + w)) k (e - 1)

/-- Σ of the sine or cosine series of r, scaled by 2^k, from term `t` of index `i`. -/
def trigTerms (k r2 : Nat) : Nat → Nat → Nat → Bool → Int → Int
  | 0, _, _, _, a => a
  | n + 1, t, i, plus, a => trigTerms k r2 n (t * r2 / 2 ^ k / ((i + 1) * (i + 2))) (i + 2) (!plus) (if plus then a + t else a - t)

/-- sin r for 0 ≤ r < 2, scaled by 2^k. -/
def sinFix (k r : Nat) : Nat := (trigTerms k (r * r / 2 ^ k) 160 r 1 true 0).toNat
/-- cos r for 0 ≤ r < π ÷ 2, scaled by 2^k. -/
def cosFix (k r : Nat) : Nat := (trigTerms k (r * r / 2 ^ k) 160 (2 ^ k) 0 true 0).toNat

/-- Quadrant and remainder of a magnitude, scaled by 2^k: x = q × π ÷ 2 + r. -/
def quadrant (k m : Nat) (e : Int) : Nat × Nat :=
  let x := fixOf k m e
  let g := x.log2 + 8
  let h := piFix (k + g)
  let q := x * 2 ^ (g + 1) / h
  (q % 4, (x * 2 ^ (g + 1) - q * h) / 2 ^ (g + 1))

/-- sin a, in radians. -/
def FFormat.sin (f : FFormat) : Val → Rounded
  | .nan s => f.quiet (.nan s)
  | .inf _ => ⟨f.nanCode, nv, 0#12⟩
  | .fin neg 0 _ => ⟨f.signCode neg, 0#5, 0#12⟩
  | .fin neg m e =>
    let (q, r) := quadrant prec m e
    let y := if q % 2 == 0 then sinFix prec r else cosFix prec r
    f.roundReal (neg != (q ≥ 2)) y prec 0

/-- cos a, in radians. -/
def FFormat.cos (f : FFormat) : Val → Rounded
  | .nan s => f.quiet (.nan s)
  | .inf _ => ⟨f.nanCode, nv, 0#12⟩
  | .fin _ 0 _ => ⟨f.one false, 0#5, 0#12⟩
  | .fin _ m e =>
    let (q, r) := quadrant prec m e
    let y := if q % 2 == 0 then cosFix prec r else sinFix prec r
    f.roundReal (q == 1 || q == 2) y prec 0

/-- 1 ÷ a. -/
def FFormat.recip (f : FFormat) (v : Val) : Rounded := f.divVal .rne (.fin false 1 0) v

/-- 1 ÷ √a (R106: −inf and negative operands are invalid; ±0 gives ±inf with DZ). -/
def FFormat.rsqrt (f : FFormat) : Val → Rounded
  | .nan s => f.quiet (.nan s)
  | .inf true => ⟨f.nanCode, nv, 0#12⟩
  | .inf false => ⟨0, 0#5, 0#12⟩
  | .fin neg 0 _ => ⟨f.signCode neg + f.infCode, dz, 0#12⟩
  | .fin true _ _ => ⟨f.nanCode, nv, 0#12⟩
  | .fin false m e =>
    -- 1 ÷ √(m 2^e) = √(2^(2k) ÷ m') × 2^(−k − e'/2), with e' even
    let (m, e) : Nat × Int := if e % 2 == 0 then (m, e) else (2 * m, e - 1)
    let k := m.log2 + 80
    let n := 2 ^ (2 * k) / m
    let r := isqrt n
    f.roundFin .rne .ieee false r (-(k : Int) - e / 2) (r * r * m != 2 ^ (2 * k))

end Sys2Proof.Machine
end

