-- ==== Sys2Proof/Machine/Flags.lean ====
section
/-! DEFINITION. The flags and sticky bits of a context and the rounding mode an instruction uses (R85, R88, R91). -/

namespace Sys2Proof.Machine
open Sys2Proof

/-- Accrues floating-point flags: one write through the register-file arbiter (R88). -/
def Ctx.accrue (c : Ctx) (fl : FFlags) : Ctx := { c with fflags := c.fflags ||| fl }

/-- Sets sticky bits of `vqcfg`; only sn, ss, si and su can be set (R91). -/
def Ctx.accrueQ (c : Ctx) (q : QFlags) : Ctx := { c with vqcfg := c.vqcfg ||| (q &&& 0xF00#12) }

/-- The rounding mode of a scalar D instruction: its rm field, or `frm` when the field is 0b111 (R85, R179). -/
def Ctx.modeOf (c : Ctx) (rm : BitVec 3) : Option Rm := if rm == 7#3 then rmOf c.frm else rmOf rm

/-- Runs a body with the mode of an rm field; no mode is an illegal instruction (R179). -/
def withMode (rm : BitVec 3) (body : Rm → State → State × Act) (s : State) : State × Act :=
  match s.my.modeOf rm with
  | none => illegal s
  | some m => body m s

/-- Writes f[fd], accrues flags and retires. -/
def State.putF (s : State) (fd : FReg) (r : Rounded) : State × Act :=
  (s.onMy (fun c => (c.setF fd (BitVec.ofNat 64 r.bits)).accrue r.flags), .done)

/-- Writes x[rd], accrues flags and retires. -/
def State.putX (s : State) (rd : XReg) (w : Word) (fl : FFlags) : State × Act :=
  (s.onMy (fun c => (c.setX rd w).accrue fl), .done)

end Sys2Proof.Machine
end

