-- ==== Sys2Proof/Machine/Scalar.lean ====
section
/-! DEFINITION. RV64I integer computation, LUI, AUIPC, jumps, branches, and RV64M (R178, R179, R225). -/

namespace Sys2Proof.Machine
open Sys2Proof

/-- Writes x[rd] and retires. -/
def State.put (s : State) (rd : XReg) (w : Word) : State × Act := (s.onMy (·.setX rd w), .done)

/-- A register-register operation: neither source has a wait bit (R31). -/
def aluReg (q : Charge) (k : Class) (rd rs1 rs2 : XReg) (op : Word → Word → Word) (s : State) : Exec :=
  launch k q (reading [.x rs1 false, .x rs2 false] (fun s => s.put rd (op (s.my.getX rs1) (s.my.getX rs2)))) s

/-- A register-immediate operation. -/
def aluImm (rd rs1 : XReg) (op : Word → Word) (s : State) : Exec :=
  launch .base [(0, 1)] (reading [.x rs1 false] (fun s => s.put rd (op (s.my.getX rs1)))) s

/-- The low 32 bits, sign-extended: what the word forms deliver. -/
def sext32 (w : Word) : Word := (w.setWidth 32).signExtend 64

/-- The instruction's own stitch pointer. -/
def State.pc (s : State) : Word := (s.my.needle s.ndl).pc

/-- A taken transfer to `t` that links in x[rd]; a bad target traps at the instruction with no effect (R120). -/
def State.jumpTo (s : State) (rd : XReg) (t : Word) : State × Act :=
  match s.my.targetFault t with
  | some (e, v0, v1) => (s, .trap e v0 v1)
  | none => (s.onMy (·.setX rd (s.pc + 4#64)), .jump t)

/-- A conditional branch: the offset counts 2-byte units (B-type). -/
def branch (rs1 rs2 : XReg) (off : BitVec 12) (cond : Word → Word → Bool) (s : State) : Exec :=
  launch .base [(0, 1)] (reading [.x rs1 false, .x rs2 false] (fun s =>
    let t := s.pc + (off.signExtend 64 <<< 1)
    if cond (s.my.getX rs1) (s.my.getX rs2) then
      match s.my.targetFault t with
      | some (e, v0, v1) => (s, .trap e v0 v1)
      | none => (s, .jump t)
    else (s, .done))) s

/-- Signed division as the base defines it: by zero −1, overflow wraps. -/
def divS {w : Nat} (a b : BitVec w) : BitVec w := if b = 0#w then BitVec.allOnes w else a.sdiv b
/-- Unsigned division: by zero all ones. -/
def divU {w : Nat} (a b : BitVec w) : BitVec w := if b = 0#w then BitVec.allOnes w else a / b
/-- Signed remainder: by zero the dividend. -/
def remS {w : Nat} (a b : BitVec w) : BitVec w := if b = 0#w then a else a.srem b
/-- Unsigned remainder: by zero the dividend. -/
def remU {w : Nat} (a b : BitVec w) : BitVec w := if b = 0#w then a else a % b
/-- A Boolean as 0 or 1. -/
def boolWord (b : Bool) : Word := if b then 1#64 else 0#64
/-- A 32-bit operation on the low halves, sign-extended. -/
def onLow (op : BitVec 32 → BitVec 32 → BitVec 32) (a b : Word) : Word := (op (a.setWidth 32) (b.setWidth 32)).signExtend 64

/-- `lui` (R178): x[rd] := imm << 12, sign-extended from 32 bits. -/
def execLui (rd : XReg) (imm : BitVec 20) (s : State) : Exec :=
  launch .base [(0, 1)] (fun s => s.put rd ((imm ++ 0#12).signExtend 64)) s

/-- `auipc` (R225): x[rd] := PC + (imm << 12). -/
def execAuipc (rd : XReg) (imm : BitVec 20) (s : State) : Exec :=
  launch .base [(0, 1)] (fun s => s.put rd (s.pc + (imm ++ 0#12).signExtend 64)) s

/-- `jal` (R120, R225): the offset counts 2-byte units. -/
def execJal (rd : XReg) (off : BitVec 20) (s : State) : Exec :=
  launch .base [(0, 1)] (fun s => s.jumpTo rd (s.pc + (off.signExtend 64 <<< 1))) s

/-- `jalr` (R120, R225): bit 0 of the target is cleared. -/
def execJalr (rd rs1 : XReg) (imm : BitVec 12) (s : State) : Exec :=
  launch .base [(0, 1)] (reading [.x rs1 false] (fun s =>
    s.jumpTo rd ((s.my.getX rs1 + imm.signExtend 64) &&& ~~~1#64))) s

/-- `beq` (R178, R26). -/
def execBeq (rs1 rs2 : XReg) (off : BitVec 12) (s : State) : Exec :=
  branch rs1 rs2 off (fun a b => a == b) s

/-- `bne` (R178, R26). -/
def execBne (rs1 rs2 : XReg) (off : BitVec 12) (s : State) : Exec :=
  branch rs1 rs2 off (fun a b => a != b) s

/-- `blt` (R178, R26). -/
def execBlt (rs1 rs2 : XReg) (off : BitVec 12) (s : State) : Exec :=
  branch rs1 rs2 off (fun a b => a.slt b) s

/-- `bge` (R178, R26). -/
def execBge (rs1 rs2 : XReg) (off : BitVec 12) (s : State) : Exec :=
  branch rs1 rs2 off (fun a b => !a.slt b) s

/-- `bltu` (R178, R26). -/
def execBltu (rs1 rs2 : XReg) (off : BitVec 12) (s : State) : Exec :=
  branch rs1 rs2 off (fun a b => a.ult b) s

/-- `bgeu` (R178, R26). -/
def execBgeu (rs1 rs2 : XReg) (off : BitVec 12) (s : State) : Exec :=
  branch rs1 rs2 off (fun a b => !a.ult b) s

/-- `addi` (R178). -/
def execAddi (rd rs1 : XReg) (imm : BitVec 12) (s : State) : Exec :=
  aluImm rd rs1 (fun a => a + imm.signExtend 64) s

/-- `slti` (R178). -/
def execSlti (rd rs1 : XReg) (imm : BitVec 12) (s : State) : Exec :=
  aluImm rd rs1 (fun a => boolWord (a.slt (imm.signExtend 64))) s

/-- `sltiu` (R178). -/
def execSltiu (rd rs1 : XReg) (imm : BitVec 12) (s : State) : Exec :=
  aluImm rd rs1 (fun a => boolWord (a.ult (imm.signExtend 64))) s

/-- `xori` (R178). -/
def execXori (rd rs1 : XReg) (imm : BitVec 12) (s : State) : Exec :=
  aluImm rd rs1 (fun a => a ^^^ imm.signExtend 64) s

/-- `ori` (R178). -/
def execOri (rd rs1 : XReg) (imm : BitVec 12) (s : State) : Exec :=
  aluImm rd rs1 (fun a => a ||| imm.signExtend 64) s

/-- `andi` (R178). -/
def execAndi (rd rs1 : XReg) (imm : BitVec 12) (s : State) : Exec :=
  aluImm rd rs1 (fun a => a &&& imm.signExtend 64) s

/-- `addiw` (R178). -/
def execAddiw (rd rs1 : XReg) (imm : BitVec 12) (s : State) : Exec :=
  aluImm rd rs1 (fun a => sext32 (a + imm.signExtend 64)) s

/-- `slli` (R178). -/
def execSlli (rd rs1 : XReg) (sh : BitVec 6) (s : State) : Exec :=
  aluImm rd rs1 (fun a => a <<< sh.toNat) s

/-- `srli` (R178). -/
def execSrli (rd rs1 : XReg) (sh : BitVec 6) (s : State) : Exec :=
  aluImm rd rs1 (fun a => a >>> sh.toNat) s

/-- `srai` (R178). -/
def execSrai (rd rs1 : XReg) (sh : BitVec 6) (s : State) : Exec :=
  aluImm rd rs1 (fun a => a.sshiftRight sh.toNat) s

/-- `slliw` (R178). -/
def execSlliw (rd rs1 : XReg) (sh : BitVec 5) (s : State) : Exec :=
  aluImm rd rs1 (fun a => (a.setWidth 32 <<< sh.toNat).signExtend 64) s

/-- `srliw` (R178). -/
def execSrliw (rd rs1 : XReg) (sh : BitVec 5) (s : State) : Exec :=
  aluImm rd rs1 (fun a => (a.setWidth 32 >>> sh.toNat).signExtend 64) s

/-- `sraiw` (R178). -/
def execSraiw (rd rs1 : XReg) (sh : BitVec 5) (s : State) : Exec :=
  aluImm rd rs1 (fun a => ((a.setWidth 32).sshiftRight sh.toNat).signExtend 64) s

/-- `add` (R178). -/
def execAdd (rd rs1 rs2 : XReg) (s : State) : Exec :=
  aluReg [(0, 1)] .base rd rs1 rs2 (fun a b => a + b) s

/-- `sub` (R178). -/
def execSub (rd rs1 rs2 : XReg) (s : State) : Exec :=
  aluReg [(0, 1)] .base rd rs1 rs2 (fun a b => a - b) s

/-- `sll` (R178). -/
def execSll (rd rs1 rs2 : XReg) (s : State) : Exec :=
  aluReg [(0, 1)] .base rd rs1 rs2 (fun a b => a <<< (b.toNat % 64)) s

/-- `slt` (R178). -/
def execSlt (rd rs1 rs2 : XReg) (s : State) : Exec :=
  aluReg [(0, 1)] .base rd rs1 rs2 (fun a b => boolWord (a.slt b)) s

/-- `sltu` (R178). -/
def execSltu (rd rs1 rs2 : XReg) (s : State) : Exec :=
  aluReg [(0, 1)] .base rd rs1 rs2 (fun a b => boolWord (a.ult b)) s

/-- `xor` (R178). -/
def execXor (rd rs1 rs2 : XReg) (s : State) : Exec :=
  aluReg [(0, 1)] .base rd rs1 rs2 (fun a b => a ^^^ b) s

/-- `srl` (R178). -/
def execSrl (rd rs1 rs2 : XReg) (s : State) : Exec :=
  aluReg [(0, 1)] .base rd rs1 rs2 (fun a b => a >>> (b.toNat % 64)) s

/-- `sra` (R178). -/
def execSra (rd rs1 rs2 : XReg) (s : State) : Exec :=
  aluReg [(0, 1)] .base rd rs1 rs2 (fun a b => a.sshiftRight (b.toNat % 64)) s

/-- `or` (R178). -/
def execOr (rd rs1 rs2 : XReg) (s : State) : Exec :=
  aluReg [(0, 1)] .base rd rs1 rs2 (fun a b => a ||| b) s

/-- `and` (R178). -/
def execAnd (rd rs1 rs2 : XReg) (s : State) : Exec :=
  aluReg [(0, 1)] .base rd rs1 rs2 (fun a b => a &&& b) s

/-- `addw` (R178). -/
def execAddw (rd rs1 rs2 : XReg) (s : State) : Exec :=
  aluReg [(0, 1)] .base rd rs1 rs2 (onLow (fun a b => a + b)) s

/-- `subw` (R178). -/
def execSubw (rd rs1 rs2 : XReg) (s : State) : Exec :=
  aluReg [(0, 1)] .base rd rs1 rs2 (onLow (fun a b => a - b)) s

/-- `sllw` (R178). -/
def execSllw (rd rs1 rs2 : XReg) (s : State) : Exec :=
  aluReg [(0, 1)] .base rd rs1 rs2 (onLow (fun a b => a <<< (b.toNat % 32))) s

/-- `srlw` (R178). -/
def execSrlw (rd rs1 rs2 : XReg) (s : State) : Exec :=
  aluReg [(0, 1)] .base rd rs1 rs2 (onLow (fun a b => a >>> (b.toNat % 32))) s

/-- `sraw` (R178). -/
def execSraw (rd rs1 rs2 : XReg) (s : State) : Exec :=
  aluReg [(0, 1)] .base rd rs1 rs2 (onLow (fun a b => a.sshiftRight (b.toNat % 32))) s

/-- `mul` (R178); only S executes it (R15). -/
def execMul (rd rs1 rs2 : XReg) (s : State) : Exec :=
  aluReg [(0, 1)] .sOnly rd rs1 rs2 (fun a b => a * b) s

/-- `mulh` (R178); only S executes it (R15). -/
def execMulh (rd rs1 rs2 : XReg) (s : State) : Exec :=
  aluReg [(0, 1)] .sOnly rd rs1 rs2 (fun a b => BitVec.ofInt 64 (a.toInt * b.toInt / 2 ^ 64)) s

/-- `mulhsu` (R178); only S executes it (R15). -/
def execMulhsu (rd rs1 rs2 : XReg) (s : State) : Exec :=
  aluReg [(0, 1)] .sOnly rd rs1 rs2 (fun a b => BitVec.ofInt 64 (a.toInt * b.toNat / 2 ^ 64)) s

/-- `mulhu` (R178); only S executes it (R15). -/
def execMulhu (rd rs1 rs2 : XReg) (s : State) : Exec :=
  aluReg [(0, 1)] .sOnly rd rs1 rs2 (fun a b => BitVec.ofNat 64 (a.toNat * b.toNat / 2 ^ 64)) s

/-- `div` (R178); only S executes it (R15). -/
def execDiv (rd rs1 rs2 : XReg) (s : State) : Exec :=
  aluReg [(0, 1)] .sOnly rd rs1 rs2 (divS) s

/-- `divu` (R178); only S executes it (R15). -/
def execDivu (rd rs1 rs2 : XReg) (s : State) : Exec :=
  aluReg [(0, 1)] .sOnly rd rs1 rs2 (divU) s

/-- `rem` (R178); only S executes it (R15). -/
def execRem (rd rs1 rs2 : XReg) (s : State) : Exec :=
  aluReg [(0, 1)] .sOnly rd rs1 rs2 (remS) s

/-- `remu` (R178); only S executes it (R15). -/
def execRemu (rd rs1 rs2 : XReg) (s : State) : Exec :=
  aluReg [(0, 1)] .sOnly rd rs1 rs2 (remU) s

/-- `mulw` (R178); only S executes it (R15). -/
def execMulw (rd rs1 rs2 : XReg) (s : State) : Exec :=
  aluReg [(0, 1)] .sOnly rd rs1 rs2 (onLow (fun a b => a * b)) s

/-- `divw` (R178); only S executes it (R15). -/
def execDivw (rd rs1 rs2 : XReg) (s : State) : Exec :=
  aluReg [(0, 1)] .sOnly rd rs1 rs2 (onLow divS) s

/-- `divuw` (R178); only S executes it (R15). -/
def execDivuw (rd rs1 rs2 : XReg) (s : State) : Exec :=
  aluReg [(0, 1)] .sOnly rd rs1 rs2 (onLow divU) s

/-- `remw` (R178); only S executes it (R15). -/
def execRemw (rd rs1 rs2 : XReg) (s : State) : Exec :=
  aluReg [(0, 1)] .sOnly rd rs1 rs2 (onLow remS) s

/-- `remuw` (R178); only S executes it (R15). -/
def execRemuw (rd rs1 rs2 : XReg) (s : State) : Exec :=
  aluReg [(0, 1)] .sOnly rd rs1 rs2 (onLow remU) s

end Sys2Proof.Machine
end

