-- ==== Sys2Proof/Machine/Control.lean ====
section
/-! DEFINITION. Loops, strips, needles, slots and full/empty bits (12_control_and_system_instructions R200-R213; R15-R27,
R39-R44, R115, R116). -/

namespace Sys2Proof.Machine
open Sys2Proof

/-- Every custom-0 instruction of groups g0-g3 charges entry 15 (R356). -/
def sysCharge : Charge := [(15, 1)]

/-! ## Lanes and vector length (R33, R34, R80) -/

/-- Active lanes of an agent's core; a hub core has all sixteen (DEDUCED, log entry 8). -/
def State.lanemap (s : State) (a : Agent) : BitVec 16 :=
  match a with
  | .hub _ => 0xFFFF#16
  | .ctx _ => (s.core ((s.regs a).core.getD 0)).lanemap

/-- The active lanes, lowest first. -/
def lanesOf (m : BitVec 16) : List Nat := (List.range 16).filter (fun k => m.getLsbD k)

/-- L: the number of active lanes. -/
def State.lanes (s : State) (a : Agent) : Nat := (lanesOf (s.lanemap a)).length

/-- Bits of an element of a format code; 5, 3 and so on for the shared-block formats' payloads (R78). -/
def formatBits : Nat → Nat
  | 0 => 8
  | 1 => 16
  | 2 => 32
  | 3 => 64
  | 4 => 16
  | 5 => 16
  | 6 => 32
  | 7 => 64
  | 8 => 8
  | 9 => 8
  | 10 => 4
  | 11 => 8
  | 12 => 5
  | 13 => 3
  | 14 => 32
  | _ => 64

/-- VLMAX of a format and group size on L lanes (R34, R80). -/
def vlmax (fmt g l : Nat) : Nat :=
  if 11 ≤ fmt && fmt ≤ 13 then 16 * (128 * l * g / (2 * formatBits fmt)) else 1024 * l * g / formatBits fmt

/-- Format code of a `vtype` value (R191). -/
def vtypeFmt (t : BitVec 6) : Nat := (t.extractLsb' 0 4).toNat
/-- Group size of a `vtype` value: 1, 2, 4 or 8 (R191). -/
def vtypeGroup (t : BitVec 6) : Nat := 2 ^ (t.extractLsb' 4 2).toNat

/-! ## Loops -/

/-- The end-of-body step at an address (R25, R201): the needle goes where it leads, or the loop return traps (R120). -/
def State.endStepAt (s : State) (last : Word) : State × Act :=
  let n := s.ndl
  let d := s.my.needle n
  let (pc, ls, fr) := endOfBody last d.loops
  match if fr then s.my.targetFault pc else none with
  | some (e, v0, v1) => (s, .trap e v0 v1)
  | none =>
    (s.onMy (·.setNeedle n { d with pc := pc, loops := ls, fresh := fr, run := .running, atYield := false, forkWait := 0 }), .placed)

/-- `loop xs1, label` (R201, R24). -/
def execLoop (rs1 : XReg) (off : BitVec 11) (w1 : Bool) (s : State) : Exec :=
  launch .base sysCharge (reading [.x rs1 w1] (fun s =>
    let d := s.my.needle s.ndl
    let count := s.my.getX rs1
    let last := s.pc + (off.signExtend 64 <<< 2)
    if off.toInt ≤ 0 then illegal s
    else if count = 0#64 then s.endStepAt last
    else if d.loops.length ≥ 6 then (s, .trap 0x08#8 (s.ir.setWidth 64) 0#64)
    else if d.loops.head?.any (fun l => last.toNat > l.last.toNat) then illegal s
    else
      let l : Level := ⟨s.pc + 4#64, last, count, 0#64⟩
      (s.onMy (·.setNeedle s.ndl { d with pc := s.pc + 4#64, loops := l :: d.loops, fresh := true, run := .running, atYield := false, forkWait := 0 }),
        .placed))) s

/-- `lnext`: the end-of-body step of the innermost level, now (R202). -/
def execLnext (s : State) : Exec :=
  launch .base sysCharge (fun s =>
    match (s.my.needle s.ndl).loops with
    | [] => illegal s
    | l :: _ => s.endStepAt l.last) s

/-- `lbrk`: the innermost level ends with its index at count − 1 (R202). -/
def execLbrk (s : State) : Exec :=
  launch .base sysCharge (fun s =>
    let d := s.my.needle s.ndl
    match d.loops with
    | [] => illegal s
    | l :: ls =>
      let t := s.onMy (·.setNeedle s.ndl { d with loops := { l with index := l.count - 1#64 } :: ls })
      match t.endStepAt l.last with
      | (_, .trap e v0 v1) => (s, .trap e v0 v1)
      | r => r) s

/-! ## Strips -/

/-- `vlset xd, xs1, fmt, grp` (R205, R27, R40); x[rs1] must be full on a continuation too (DEDUCED, log entry 28). -/
def execVlset (rd rs1 : XReg) (fmt : BitVec 4) (grp : BitVec 2) (y w1 : Bool) (s : State) : Exec :=
  launch .base sysCharge (fun s =>
    if y && s.my.request.isSome then (s, .yieldStop)
    else reading [.x rs1 w1] (fun s =>
      let c := s.my
      let t := c.strip
      if t.opened && t.owner != s.ndl then illegal s
      else
        let srem := if !t.cont && rs1 != 0#5 then c.getX rs1 else t.srem
        let vl := BitVec.ofNat 64 (min srem.toNat (vlmax fmt.toNat (2 ^ grp.toNat) (s.lanes s.who)))
        let t := { t with srem := srem, cont := false, vtype := grp ++ fmt, vl := vl }
        let t := if vl = 0#64 then { t with opened := false } else { t with opened := true, owner := s.ndl, start := s.pc }
        (s.setMy ({ c with strip := t }.setX rd vl), .done)) s) s

/-- Field `j` of `sptr` (R204): enable, log2 element size, x register. -/
def sptrEntry (p : BitVec 32) (j : Nat) : Bool × Nat × XReg :=
  let e := p.extractLsb' (8 * j) 8
  (e.getLsbD 7, (e.extractLsb' 5 2).toNat, e.extractLsb' 0 5)

/-- The enabled pointer registers of `sptr` with the log2 of their element sizes. -/
def sptrRegs (p : BitVec 32) : List (XReg × Nat) :=
  ((List.range 4).map (sptrEntry p)).filterMap (fun e => if e.1 && e.2.2 != 0#5 then some (e.2.2, e.2.1) else none)

/-- Advances every enabled pointer register by vl elements (R206). -/
def Ctx.advancePointers (c : Ctx) (vl : Word) (rs : List (XReg × Nat)) : Ctx :=
  rs.foldl (fun c e => c.setX e.1 (c.getX e.1 + (vl <<< e.2))) c

/-- `vstrip label` (R206, R27). -/
def execVstrip (off : BitVec 11) (s : State) : Exec :=
  launch .base sysCharge (fun s =>
    let regs := sptrRegs s.my.strip.sptr
    reading (regs.map (fun e => .x e.1 false)) (fun s =>
      let c := s.my
      let t := c.strip
      let target := s.pc + (off.signExtend 64 <<< 2)
      if !t.opened || t.owner != s.ndl || target != t.start then illegal s
      else
        let srem := if t.vl.toNat ≤ t.srem.toNat then t.srem - t.vl else 0#64
        let vl := BitVec.ofNat 64 (min srem.toNat (vlmax (vtypeFmt t.vtype) (vtypeGroup t.vtype) (s.lanes s.who)))
        let c := c.advancePointers t.vl regs
        if srem = 0#64 then (s.setMy { c with strip := { t with srem := srem, vl := vl, opened := false } }, .done)
        else match c.targetFault target with
          | some (e, v0, v1) => (s, .trap e v0 v1)
          | none => (s.setMy { c with strip := { t with srem := srem, vl := vl, cont := true } }, .jump target)) s) s

/-! ## Needles -/

/-- The word of `nend`, which leaves a needle idle in a fork block (R17). -/
def nendWord : BitVec 32 := 0x0800000B#32

/-- Starts an engine needle at a word of a fork block unless the word is `nend` (R17, R16). -/
def Ctx.startNeedle (c : Ctx) (n : Needle) (w : BitVec 32) (pc : Word) (gate : Nat) : Ctx :=
  if w == nendWord then c else c.setNeedle n { pc := pc, run := .running, forkWait := gate }

/-- `fork label` (R17, R207). -/
def execFork (off : BitVec 11) (s : State) : Exec :=
  launch .sOnly sysCharge (fun s =>
    let c := s.my
    let t := s.pc + (off.signExtend 64 <<< 2)
    if c.nV.active || c.nM.active || c.nC.active then illegal s
    else match c.targetFault t with
    | some (e, v0, v1) => (s, .trap e v0 v1)
    | none =>
      match s.access (c.view s.who) t { size := 12, align := 4 } with
      | .error e => (s, e.act)
      | .ok _ =>
        let gate := if c.vecQ == [] && c.matQ == [] && c.copyQ == [] && !c.copies.any (·.inline) then 0 else c.nextSeq
        let c := c.startNeedle .V (s.fetchWord c t) t gate
        let c := c.startNeedle .M (s.fetchWord c (t + 4#64)) (t + 4#64) gate
        let c := c.startNeedle .C (s.fetchWord c (t + 8#64)) (t + 8#64) gate
        (s.setMy c, .done)) s

/-- V, M and C are idle and no queue holds an entry (R19). -/
def Ctx.drained (c : Ctx) : Bool :=
  !c.nV.active && !c.nM.active && !c.nC.active && c.vecQ == [] && c.matQ == [] && c.copyQ == []

/-- The array's fault record as a fault to deliver (R305, R362). -/
def ArrayFault.pending (f : ArrayFault) : PendingFault :=
  { seq := f.seq, xd := none, status := f.status, iword := f.iword, kind := .matrix, sub := f.sub,
    cause := f.status.setWidth 8, ptr := f.ptr, val1 := f.val1, ipc := f.ipc }

/-- The fault that a `join`, `vdrain` or context end delivers first: recorded faults and the array's record, in issue
order (R361, R305). -/
def Ctx.firstFault (c : Ctx) : Option PendingFault :=
  firstPending (fun _ => true) (c.pend ++ (c.arr.fault.map ArrayFault.pending).toList)

/-- Delivers a fault at a `join`, `vdrain` or context end; the array's record clears when it is the one (R305, R361). -/
def State.deliverFirst (s : State) (p : PendingFault) : State × Act :=
  let s := if s.my.arr.fault.any (fun f => f.seq == p.seq) then s.onMy (fun c => { c with arr := { c.arr with fault := none } }) else s
  s.deliver p

/-- `join` (R19, R208). -/
def execJoin (s : State) : Exec :=
  launch .sOnly sysCharge (fun s =>
    if !s.my.drained then (s, .wait .join)
    else match s.my.firstFault with
      | some p => s.deliverFirst p
      | none => (s, .done)) s

/-- Every active needle waits at a `meet` with this k (R21). -/
def Ctx.allMeet (c : Ctx) (k : BitVec 5) : Bool :=
  needles.all (fun n => !(c.needle n).active || (c.needle n).run == .blocked (.meet k))

/-- A needle that leaves its `meet` retires it. -/
def Ctx.leaveMeet (c : Ctx) (p : Part) (n : Needle) : Ctx :=
  if (c.needle n).active then { (c.advance n).addEnergy (p.energy sysCharge) with instret := c.instret + 1#64 } else c

/-- When every active needle waits at one `meet`, all of them leave together (R21). -/
def State.settleMeet (s : State) (a : Agent) : State :=
  let c := s.regs a
  match (needles.filterMap (fun n => match (c.needle n).run with
      | .blocked (.meet k) => some k
      | _ => none)).head? with
  | some k => if c.allMeet k then s.setRegs a (needles.foldl (fun c n => c.leaveMeet (s.part c.part) n) c) else s
  | none => s

/-- `meet k` (R21, R22). -/
def execMeet (k : BitVec 5) (s : State) : Exec :=
  launch .base sysCharge (fun s =>
    let n := s.ndl
    let c := s.my.setNeedle n { s.my.needle n with run := .blocked (.meet k) }
    if c.allMeet k then
      let c := (needles.filter (· != n)).foldl (fun c m => c.leaveMeet (s.part c.part) m) c
      (s.setMy (c.setNeedle n { c.needle n with run := .running }), .done)
    else (s, .wait (.meet k))) s

/-- Operations of a context that have not reached their outcome (R20): copies, matrix entries, fabric operations. -/
def State.outstanding (s : State) (i : Nat) : Bool :=
  let c := s.regs (.ctx i)
  c.copies != [] || c.copyQ != [] || c.matQ != [] || c.vecQ != [] ||
    (s.part c.part).seqs.any (fun q => q.who == .agent (.ctx i) && q.ops != [])

/-- A context that has executed its `nend` counts as ended once nothing is outstanding: its core is free, its key is gone,
its sequences close, and its node loses it, with what its completion orders (R20, R153, R347, R376, R399); an operation that failed
meanwhile makes the node fail. -/
def State.settleEnd (s : State) (i : Nat) : State :=
  let c := s.regs (.ctx i)
  if c.life == .ending && !s.outstanding i then
    let bad := c.firstFault.isSome
    let past := s.pastOf (c.core.getD 0)
    let s := (s.chargeStatic i).leaveCore i
    let s := s.onRegs (.ctx i) (fun c => { c with life := .ended, keyInst := 0, pend := [] })
    let p := s.part c.part
    s.setPart c.part { p with
      seqs := p.seqs.map (fun q => if q.who == .agent (.ctx i) then { q with closing := true } else q)
      nodes := p.nodes.map (fun d =>
        if d.ctxs.contains i then { d with ctxs := d.ctxs.filter (· != i), failed := d.failed || bad, past := mergeMax d.past past } else d) }
  else s

/-- `nend` (R18, R20, R208): an engine needle becomes idle; S's ends the context, after acting as `join`. (DEDUCED, log entry 8.) -/
def execNend (s : State) : Exec :=
  launch .base sysCharge (fun s =>
    let n := s.ndl
    let close (c : Ctx) : Ctx := if c.strip.opened && c.strip.owner == n then { c with strip := { c.strip with opened := false } } else c
    match n with
    | .S =>
      if !s.my.drained then (s, .wait .join)
      else match s.my.firstFault with
        | some p => s.deliverFirst p
        | none =>
          let s := s.onMy (fun c => close (c.setNeedle .S { c.nS with run := .idle, loops := [], fresh := false }))
          match s.who with
          | .hub _ => (s, .placed)
          | .ctx i => (((s.onMy (fun c => { c with life := .ending })).settleEnd i), .placed)
    | n =>
      let s := s.onMy (fun c => close (c.setNeedle n { c.needle n with run := .idle, loops := [], fresh := false, part := none }))
      (s.settleMeet s.who, .placed)) s

/-- `yield`: asks for the context's own pre-emption; a second request changes nothing (R209). (DEDUCED, log entry 8.) -/
def execYield (s : State) : Exec :=
  launch .sOnly sysCharge (fun s =>
    match s.who with
    | .hub _ => (s, .done)
    | .ctx _ => (s.onMy (fun c => if c.request.isSome then c else { c with request := some .yield }), .done)) s

/-! ## Slots -/

/-- The entry in two words of a slot table (R113). -/
def SlotEntry.ofWords (w0 w1 : Word) : SlotEntry :=
  { packed := w0.getLsbD 58, code := w0.getLsbD 57, writable := w0.getLsbD 56, present := w0.getLsbD 55,
    key := w0.extractLsb' 48 7, base := w0.extractLsb' 0 48, limit := w1.extractLsb' 0 48 }

/-- Physical address of a slot's entry in an image's table (R113). -/
def State.entryAddr (s : State) (image slot : Nat) : Nat := (Sparse.at s.images {} image).stbase.toNat + 16 * slot

/-- The entry as one indivisible read of the table (R116). -/
def State.slotEntry (s : State) (image slot : Nat) : SlotEntry :=
  let a := s.entryAddr image slot
  SlotEntry.ofWords (BitVec.ofNat 64 (s.read 0 a 8)) (BitVec.ofNat 64 (s.read 0 (a + 8) 8))

/-- `bslot bd, imm12(xs1)` (R116, R210). -/
def execBslot (bd : BReg) (imm : BitVec 12) (rs1 : XReg) (s : State) : Exec :=
  launch .sOnly sysCharge (reading [.x rs1 false] (fun s =>
    let slot := imm.setWidth 64 + s.my.getX rs1
    if slot = 0#64 || slot.toNat ≥ 4032 then (s, .trap 0x04#8 slot slot)
    else
      let e := s.slotEntry s.my.image slot.toNat
      match s.badWord (s.entryAddr s.my.image slot.toNat) 16 with
      | some w => (s, .trap 0x17#8 slot (BitVec.ofNat 64 (3 * 2 ^ 62 + w)))
      | none =>
        if e.present then (s.onMy (·.setB bd (some ⟨slot.setWidth 12, e, false⟩)), .done)
        else (s, .trap 0x05#8 slot slot))) s

/-- `bfree bd` (R211). -/
def execBfree (bd : BReg) (s : State) : Exec :=
  launch .sOnly sysCharge (fun s => (s.onMy (·.setB bd none), .done)) s

/-- Reads a seated base register; an empty one is not seated (R212). -/
def withSeat (bs : BReg) (body : Seat → State → State × Act) (s : State) : State × Act :=
  match s.my.getB bs with
  | none => (s, .trap 0x04#8 (bs.setWidth 64) (BitVec.allOnes 64))
  | some t => body t s

/-- `blim xd, bs`: the limit of the copy (R212). -/
def execBlim (rd : XReg) (bs : BReg) (s : State) : Exec :=
  launch .sOnly sysCharge (withSeat bs (fun t s => s.put rd (t.entry.limit.setWidth 64))) s

/-- `bptr xd, bs`: the slot's start pointer (R212). -/
def execBptr (rd : XReg) (bs : BReg) (s : State) : Exec :=
  launch .sOnly sysCharge (withSeat bs (fun t s => s.put rd (t.slot ++ 0#52))) s

/-- The slots of a copy as they resolve: the seated ones, and slot 0, which may be a K slot too (R115, R124, R143). -/
def Ctx.copySeats (c : Ctx) : List Seat := ⟨0#12, c.slot0, false⟩ :: c.b.toList.filterMap id

/-- Every seated register takes the table's entry as it stands; one whose entry is absent now stays seated, marked (R123). Slot 0 is
read afresh too, and an uncorrectable table word raises nothing here. Streams and copies that were parked resolve their slots again
(R124). (DEDUCED, log entry 36.) -/
def State.reseat (s : State) (a : Agent) : State :=
  s.onRegs a (fun c =>
    let b := c.b.map (fun t => t.map (fun (t : Seat) =>
      let e := s.slotEntry c.image t.slot.toNat
      { t with entry := e, absent := !e.present }))
    let c := { c with b := b, slot0 := s.slotEntry c.image 0 }
    let seats := c.copySeats
    if c.loaded then
      { c with loaded := false, copies := c.copies.map (fun (o : CopyOp) => if o.parked then { o with seats := seats, parked := false } else o)
               copyQ := c.copyQ.map (fun (e : QEntry) => { e with copy := e.copy.map (fun (o : CopyOp) => { o with seats := seats, parked := false }) })
               v := c.v.map (fun (r : VecReg) => { r with stream := r.stream.map (fun (t : Stream) => { t with seats := b.toList.filterMap id }) }) }
    else c)

/-! ## Full/empty bits -/

/-- `feclr reg` (R213, R186). -/
def execFeclr (cls num : BitVec 5) (s : State) : Exec :=
  launch .sOnly sysCharge (fun s =>
    if !feclrNames cls num then illegal s
    else (s.onMy (fun c =>
      if cls == 0#5 then c.emptyX num
      else if cls == 1#5 then c.emptyF num
      else
        let z : ZReg := num.setWidth 3
        c.setZ z { c.getZ z with full := false }), .done)) s

/-- `vfeclr vd` (R213). -/
def execVfeclr (vd : VReg) (s : State) : Exec :=
  launch .sOnly sysCharge (fun s => (s.onMy (fun c => c.setV vd { c.getV vd with full := false }), .done)) s

/-- ECALL: a trap to the manager at the instruction itself (R179). -/
def execEcall (s : State) : Exec := launch .sOnly [] (fun s => (s, .trap 0x19#8 0#64 0#64)) s

/-- EBREAK (R179). -/
def execEbreak (s : State) : Exec := launch .sOnly [] (fun s => (s, .trap 0x1A#8 0#64 0#64)) s

end Sys2Proof.Machine
end

