-- ==== Sys2Proof/Machine/Csr.lean ====
section
/-! DEFINITION. Control and status registers: what each reads as, what a write does, and the Zicsr instructions
(11_instruction_encoding R191-R195; R14, R23, R32, R91, R136, R204, R322, R350, R356, R359, R360, R381, R394, R422). -/

namespace Sys2Proof.Machine
open Sys2Proof

/-! ## Windows that a register write and a step without a word share -/

/-- A row of a cluster's cable mask; its diagonal bit reads 1 (R350). -/
def State.cableRow (s : State) (cluster row : Nat) : BitVec 128 :=
  Sparse.at s.cable 0#128 (cluster * 128 + row) ||| (1#128 <<< row)

/-- Cluster, row and half that a `cablesel` value selects (R350). -/
def cableSel (sel : BitVec 16) : Nat × Nat × Bool :=
  ((sel.extractLsb' 0 5).toNat, (sel.extractLsb' 8 7).toNat, sel.getLsbD 15)

/-- A write to `cablemask` on a hub core: one partition event (R350). -/
def State.writeCablemask (s : State) (h : Nat) (v : Word) : State :=
  let (cl, row, half) := cableSel (s.hub h).cablesel
  let old := Sparse.at s.cable 0#128 (cl * 128 + row)
  let new : BitVec 128 := if half then v ++ old.extractLsb' 0 64 else old.extractLsb' 64 64 ++ v
  { s with cable := Sparse.write s.cable 0#128 (cl * 128 + row) (new &&& ~~~(1#128 <<< row)) }

/-- Partition that `partid` shows on a hub core: that of the context `ctxid` names (R195). -/
def State.partid (s : State) (h : Nat) : Nat := (s.regs (.ctx (s.hub h).ctxid.toNat)).part

/-- A write to `gaugetab` on a hub core: selects an entry, and with wr writes its weight (R356; DEDUCED, log entry 22). -/
def State.writeGaugetab (s : State) (h : Nat) (v : Word) : State :=
  let i := v.extractLsb' 48 5
  let s := s.setHub h { s.hub h with gaugeIndex := i }
  if v.getLsbD 63 && i.toNat ≤ 21 then
    let p := s.part (s.partid h)
    s.setPart (s.partid h) { p with weights := Sparse.insert p.weights i.toNat (v.extractLsb' 0 24) }
  else s

/-- A fresh random key under an id: a new instance, so bytes written before read as garbage (R422). Id 0 is ignored. (DESIGN CHOICE, log entry 18.) -/
def State.genKey (s : State) (id : BitVec 7) : State :=
  if id = 0#7 then s else { s with keys := Sparse.insert s.keys id.toNat s.nextKey, nextKey := s.nextKey + 1 }

/-- A key is destroyed (R422). Id 0 is ignored. -/
def State.killKey (s : State) (id : BitVec 7) : State :=
  if id = 0#7 then s else { s with keys := Sparse.drop s.keys id.toNat }

/-- A write to `keysel` on a hub core (R422): gen acts alone when both bits are set, and with either a write for id 0 is ignored. -/
def State.writeKeysel (s : State) (h : Nat) (v : Word) : State :=
  let id := v.extractLsb' 0 7
  if id == 0#7 && (v.getLsbD 63 || v.getLsbD 62) then s else
  let s := s.setHub h { s.hub h with keyId := id }
  if v.getLsbD 63 then s.genKey id else if v.getLsbD 62 then s.killKey id else s

/-! ## Reads -/

/-- The 384-bit string of register tags (R194). -/
def Ctx.tagString (c : Ctx) : BitVec 384 :=
  BitVec.ofNat 384 (c.v.toList.foldr (fun r a => r.tag.toNat + 64 * a) 0)

/-- `needle`: active bits and the reading needle's id (R14). -/
def Ctx.needleCsr (c : Ctx) (n : Needle) : Word :=
  BitVec.ofNat 64 ((if c.nS.active then 16 else 0) + (if c.nV.active then 32 else 0) + (if c.nM.active then 64 else 0)
    + (if c.nC.active then 128 else 0) + (needleId n).toNat)

/-- `li0` to `li5`: index of an open level of the reading needle, innermost first; 0 where none is open (R23). -/
def NeedleState.loopIndex (d : NeedleState) (j : Nat) : Word := (d.loops.getD j ⟨0#64, 0#64, 0#64, 0#64⟩).index

/-- A context CSR as it reads (R193); `none` for a number that is not in the table. -/
def State.ctxCsr (s : State) (n : Nat) : Option Word :=
  let c := s.my
  match n with
  | 0x001 => some (c.fflags.setWidth 64)
  | 0x002 => some (c.frm.setWidth 64)
  | 0x003 => some ((c.frm ++ c.fflags).setWidth 64)
  | 0x800 => some c.strip.srem
  | 0x801 => some (c.strip.sptr.setWidth 64)
  | 0x802 => some c.vdead
  | 0x803 => some c.vbeg
  | 0x804 => some c.vprog
  | 0x805 => some (c.vqcfg.setWidth 64)
  | 0x806 => some (c.pblk.setWidth 64)
  | 0x807 => some c.mapitch
  | 0x808 => some c.mwpitch
  | 0x809 => some (c.slip.setWidth 64)
  | 0x80A => some c.mzmap
  | 0x80B => some c.spused
  | 0x80C => some (c.fsel.setWidth 64)
  | 0x80D => some c.fstat
  | 0xC00 => some c.cycle
  | 0xC01 => some s.timer
  | 0xC02 => some c.instret
  | 0xCC0 => some c.strip.vl
  | 0xCC1 => some (c.strip.vtype.setWidth 64)
  | 0xCC2 => some (BitVec.ofNat 64 (32 * s.lanes s.who))
  | 0xCC3 => some ((s.lanemap s.who).setWidth 64)
  | 0xCC4 => some (c.needleCsr s.ndl)
  | 0xCC5 => some (BitVec.ofNat 64 (match s.who with
      | .ctx _ => c.core.getD 0
      | .hub h => h))
  | 0xCC6 => some (BitVec.ofNat 64 (c.gauge / 16))
  | 0xCC7 => some (if c.gaugest then 1#64 else 0#64)
  | 0xCC8 => some ((c.needle s.ndl).loopIndex 0)
  | 0xCC9 => some ((c.needle s.ndl).loopIndex 1)
  | 0xCCA => some ((c.needle s.ndl).loopIndex 2)
  | 0xCCB => some ((c.needle s.ndl).loopIndex 3)
  | 0xCCC => some ((c.needle s.ndl).loopIndex 4)
  | 0xCCD => some ((c.needle s.ndl).loopIndex 5)
  | 0xCD0 => some (c.tagString.extractLsb' 0 64)
  | 0xCD1 => some (c.tagString.extractLsb' 64 64)
  | 0xCD2 => some (c.tagString.extractLsb' 128 64)
  | 0xCD3 => some (c.tagString.extractLsb' 192 64)
  | 0xCD4 => some (c.tagString.extractLsb' 256 64)
  | 0xCD5 => some (c.tagString.extractLsb' 320 64)
  | _ => none

/-- The trap record that a hub core sees: that of the context `ctxid` names; it reads 0 without one (R359). -/
def State.shownTrap (s : State) (h : Nat) : TrapRecord :=
  (s.regs (.ctx (s.hub h).ctxid.toNat)).trap.getD ⟨0#8, 0#2, 0#64, 0#64, 0#64, 0#64⟩

/-- A manager CSR as it reads on a hub core (R195); `none` for a number that is not in the table. (DEDUCED, log entry 9.) keysel [8]
reads 1 after a device reset, which generates key 0 (R422), where its Reset column says 0. (DESIGN CHOICE, log entry 47.) -/
def State.hubCsr (s : State) (h : Nat) (n : Nat) : Option Word :=
  let u := s.hub h
  let t := s.shownTrap h
  match n with
  | 0x7C0 => some ((t.needle ++ t.cause).setWidth 64)
  | 0x7C1 => some t.tpc
  | 0x7C2 => some t.tipc
  | 0x7C3 => some t.tval0
  | 0x7C4 => some t.tval1
  | 0x7C5 => some (u.tvec ++ 0#2)
  | 0x7C6 => some ((u.event ++ (if u.ev then 1#8 else 0#8)).setWidth 64)
  | 0x7C7 => some (u.ctxid.setWidth 64)
  | 0x7C8 => some (BitVec.ofNat 64 (s.partid h))
  | 0x7C9 => some (u.cablesel.setWidth 64)
  | 0x7CA =>
    let (cl, row, half) := cableSel u.cablesel
    some ((s.cableRow cl row).extractLsb' (if half then 64 else 0) 64)
  | 0x7CB => some (BitVec.ofNat 64 (s.dbgCtx.toNat * 2 ^ 32 + s.dbgNeedle.toNat * 4 + (if s.dbgStep then 1 else 0)))
  | 0x7CC => some (s.yieldwin.setWidth 64)
  | 0x7CD =>
    let w := if u.gaugeIndex.toNat ≤ 21 then (s.part (s.partid h)).weight u.gaugeIndex.toNat else 0
    some (BitVec.ofNat 64 (u.gaugeIndex.toNat * 2 ^ 48 + w))
  | 0x7CE => some (BitVec.ofNat 64 ((if (Sparse.find s.keys u.keyId.toNat).isSome then 256 else 0) + u.keyId.toNat))
  | 0x7CF => some (s.regs (.ctx u.ctxid.toNat)).saveCount
  | _ => none

/-- Is a number one of the manager's (R192)? -/
def csrManager (n : Nat) : Bool := 0x7C0 ≤ n && n ≤ 0x7FF

/-- Is a CSR read-only (R193, R195)? -/
def csrReadOnly (n : Nat) : Bool := n ≥ 0xC00 || (0x7C0 ≤ n && n ≤ 0x7C4) || n == 0x7C6 || n == 0x7C8 || n == 0x7CF

/-- A CSR as the needle whose turn it is reads it. -/
def State.readCsr (s : State) (n : Nat) : Option Word :=
  match s.who with
  | .hub h => if csrManager n then s.hubCsr h n else s.ctxCsr n
  | .ctx _ => s.ctxCsr n

/-! ## Writes -/

/-- A write to `vprog`, which sets the running count to 0 (R136). -/
def Ctx.setVprog (c : Ctx) (v : Word) : Ctx := { c with vprog := v, vprogCount := 0#64 }

/-- A context CSR after a write; reserved bits stay 0 (R5, R193). -/
def Ctx.writeCsr (c : Ctx) (n : Nat) (v : Word) : Ctx :=
  match n with
  | 0x001 => { c with fflags := v.setWidth 5 }
  | 0x002 => { c with frm := v.setWidth 3 }
  | 0x003 => { c with fflags := v.setWidth 5, frm := v.extractLsb' 5 3 }
  | 0x800 => { c with strip := { c.strip with srem := v } }
  | 0x801 => { c with strip := { c.strip with sptr := v.setWidth 32 } }
  | 0x802 => { c with vdead := v }
  | 0x803 => { c with vbeg := v }
  | 0x804 => c.setVprog v
  | 0x805 => { c with vqcfg := v.setWidth 12 &&& 0xF3B#12 }
  | 0x806 => { c with pblk := v.setWidth 17 &&& 0x13F0F#17 }
  | 0x807 => { c with mapitch := v }
  | 0x808 => { c with mwpitch := v }
  | 0x809 => { c with slip := v.setWidth 4 }
  | 0x80A => { c with mzmap := v }
  | 0x80B => { c with spused := v }
  | 0x80C => { c with fsel := v.setWidth 9 &&& 0x1DF#9 }
  | 0x80D => { c with fstat := v &&& 0xFFFFFFFFFFFF00FF#64 }
  | _ => c

/-- A manager CSR after a write on a hub core (R195). -/
def State.writeHubCsr (s : State) (h : Nat) (n : Nat) (v : Word) : State :=
  let u := s.hub h
  match n with
  | 0x7C5 => s.setHub h { u with tvec := v.extractLsb' 2 62 }
  | 0x7C7 => s.setHub h { u with ctxid := v.setWidth 32 }
  | 0x7C9 => s.setHub h { u with cablesel := v.setWidth 16 &&& 0xFF1F#16 }
  | 0x7CA => s.writeCablemask h v
  | 0x7CB => { s with dbgCtx := v.extractLsb' 32 32, dbgNeedle := v.extractLsb' 2 2, dbgStep := v.getLsbD 0 }
  | 0x7CC => { s with yieldwin := v.setWidth 16 }
  | 0x7CD => s.writeGaugetab h v
  | 0x7CE => s.writeKeysel h v
  | _ => s

/-- Writes a CSR for the agent whose turn it is. -/
def State.writeCsr (s : State) (n : Nat) (v : Word) : State :=
  match s.who with
  | .hub h => if csrManager n then s.writeHubCsr h n v else s.onMy (·.writeCsr n v)
  | .ctx _ => s.onMy (·.writeCsr n v)

/-! ## The instructions -/

/-- One access to a CSR: the checks of R192, then the read and, when the form writes, the write of `f old operand`
(R32). -/
def csrAccess (rd : XReg) (csr : BitVec 12) (writes : Bool) (srcs : List Src) (operand : Ctx → Word)
    (f : Word → Word → Word) (s : State) : Exec :=
  launch .sOnly [(0, 1)] (fun s =>
    if csrManager csr.toNat && !isManager s.who then (s, .trap 0x1B#8 (s.ir.setWidth 64) 0#64)
    else match s.readCsr csr.toNat with
    | none => illegal s
    | some old =>
      if writes && csrReadOnly csr.toNat then illegal s
      else reading srcs (fun s =>
        let v := f old (operand s.my)
        let s := if writes then s.writeCsr csr.toNat v else s
        (s.onMy (·.setX rd old), .done)) s) s

/-- `csrrw`. -/
def execCsrrw (rd rs1 : XReg) (csr : BitVec 12) (s : State) : Exec :=
  csrAccess rd csr true [.x rs1 false] (·.getX rs1) (fun _ v => v) s

/-- `csrrs`: rs1 = x0 does not write. -/
def execCsrrs (rd rs1 : XReg) (csr : BitVec 12) (s : State) : Exec :=
  csrAccess rd csr (rs1 != 0#5) [.x rs1 false] (·.getX rs1) (fun o v => o ||| v) s

/-- `csrrc`: rs1 = x0 does not write. -/
def execCsrrc (rd rs1 : XReg) (csr : BitVec 12) (s : State) : Exec :=
  csrAccess rd csr (rs1 != 0#5) [.x rs1 false] (·.getX rs1) (fun o v => o &&& ~~~v) s

/-- `csrrwi`. -/
def execCsrrwi (rd : XReg) (uimm : BitVec 5) (csr : BitVec 12) (s : State) : Exec :=
  csrAccess rd csr true [] (fun _ => uimm.setWidth 64) (fun _ v => v) s

/-- `csrrsi`: a zero immediate does not write. -/
def execCsrrsi (rd : XReg) (uimm : BitVec 5) (csr : BitVec 12) (s : State) : Exec :=
  csrAccess rd csr (uimm != 0#5) [] (fun _ => uimm.setWidth 64) (fun o v => o ||| v) s

/-- `csrrci`: a zero immediate does not write. -/
def execCsrrci (rd : XReg) (uimm : BitVec 5) (csr : BitVec 12) (s : State) : Exec :=
  csrAccess rd csr (uimm != 0#5) [] (fun _ => uimm.setWidth 64) (fun o v => o &&& ~~~v) s

end Sys2Proof.Machine
end

