-- ==== Sys2Proof/Machine/Operands.lean ====
section
/-! DEFINITION. Vector operands: where elements lie, masks, planes, groups and their overlap, domain tags, yarn streams as
operands, uncorrectable words, and what a write does to a register (R34, R80, R94, R229-R233, R251, R252, R285-R288, R368). -/

namespace Sys2Proof.Machine
open Sys2Proof

/-! ## Where elements lie -/

/-- A register group read or written as elements of `eb` bits. In a plane, elements are the bits [eb·i + eb − 1 : eb·i] of
the group's bytes (masks, R229; shared-block payloads, R80); else they lie as R34 places them. -/
structure Group where
  r : Nat
  n : Nat
  eb : Nat
  plane : Bool := false
  deriving DecidableEq, Repr

/-- One register of mask bits (R229). -/
def maskAt (r : VReg) : Group := ⟨r.toNat, 1, 1, true⟩

/-- Register offset and bit of element `i` (R34): `ls` are the active physical lanes. -/
def lanePlace (ls : List Nat) (eb i : Nat) : Nat × Nat :=
  let l := ls.length
  let e := 1024 / eb
  (i / (l * e), 1024 * ls.getD (i % l) 0 + i / l % e * eb)

/-- Element `i` of width `eb` of the group that begins at register `r`. -/
def Ctx.elt (c : Ctx) (ls : List Nat) (r eb i : Nat) : Nat :=
  let p := lanePlace ls eb i
  ((c.getV (BitVec.ofNat 6 (r + p.1))).data.extractLsb' p.2 eb).toNat

/-- The register's data with `eb` bits at bit `b` replaced. -/
def putBits (d : BitVec 16384) (b eb v : Nat) : BitVec 16384 :=
  (d &&& ~~~(BitVec.ofNat 16384 (2 ^ eb - 1) <<< b)) ||| (BitVec.ofNat 16384 (v % 2 ^ eb) <<< b)

/-- Writes an element's bits; the register's bookkeeping is `Ctx.markV`'s. -/
def Ctx.putElt (c : Ctx) (ls : List Nat) (r eb i v : Nat) : Ctx :=
  let p := lanePlace ls eb i
  let q : VReg := BitVec.ofNat 6 (r + p.1)
  c.setV q { c.getV q with data := putBits (c.getV q).data p.2 eb v }

/-- Element `i` of a plane of `w`-bit elements, w at most 8. -/
def Ctx.planeElt (c : Ctx) (ls : List Nat) (r w i : Nat) : Nat :=
  let b := w * i
  (c.elt ls r 8 (b / 8) + 256 * c.elt ls r 8 (b / 8 + 1)) / 2 ^ (b % 8) % 2 ^ w

/-- Writes element `i` of a plane. -/
def Ctx.putPlane (c : Ctx) (ls : List Nat) (r w i v : Nat) : Ctx :=
  let b := w * i
  let k := b % 8
  let old := c.elt ls r 8 (b / 8) + 256 * c.elt ls r 8 (b / 8 + 1)
  let new := old - old / 2 ^ k % 2 ^ w * 2 ^ k + v % 2 ^ w * 2 ^ k
  let c := c.putElt ls r 8 (b / 8) (new % 256)
  if k + w > 8 then c.putElt ls r 8 (b / 8 + 1) (new / 256) else c

/-- Element `i` of a group. -/
def Ctx.read (c : Ctx) (ls : List Nat) (g : Group) (i : Nat) : Nat :=
  if g.plane then c.planeElt ls g.r g.eb i else c.elt ls g.r g.eb i

/-- Writes element `i` of a group. -/
def Ctx.write (c : Ctx) (ls : List Nat) (g : Group) (i v : Nat) : Ctx :=
  if g.plane then c.putPlane ls g.r g.eb i v else c.putElt ls g.r g.eb i v

/-- Mask bit `i` of a register (R229). -/
def Ctx.maskBit (c : Ctx) (ls : List Nat) (r : Nat) (i : Nat) : Bool := c.planeElt ls r 1 i == 1

/-! ## Groups -/

/-- A group begins at a multiple of its size and ends at or below v63 (R191). -/
def Group.aligned (g : Group) : Bool := g.r % g.n == 0 && g.r + g.n ≤ 64

/-- Two groups have no register in common. -/
def Group.disjoint (g h : Group) : Bool := g.r + g.n ≤ h.r || h.r + h.n ≤ g.r

/-- Relations of a destination group to a source group (R233, R252). -/
inductive Rel where
  | same
  | disjoint
  | any
  deriving DecidableEq, Repr

/-- Does a destination stand in an allowed relation to a source? -/
def Rel.allows (k : Rel) (d s : Group) : Bool :=
  match k with
  | .same => d.disjoint s || (d.r == s.r && d.n == s.n)
  | .disjoint => d.disjoint s
  | .any => true

/-- A source group of an instruction. -/
structure Operand where
  g : Group
  rel : Rel := .same
  /-- Read as data: its tag is checked (R232, R251). -/
  data : Bool := true
  /-- Element `i` of the instruction reads element `i ÷ div` (scales and headers, R264). -/
  div : Nat := 1
  /-- Read; the headers that `vquant` writes are named only for their place. -/
  read : Bool := true
  deriving DecidableEq, Repr

/-- Tag rules on data sources (R232, R251). -/
inductive TagRule where
  | none
  | spatial
  | equal
  | spectral
  deriving DecidableEq, Repr

/-! ## Streams as operands (R285-R288) -/

/-- The open stream of a register in yarn mode. -/
def Ctx.stream (c : Ctx) (r : Nat) : Option Stream := (c.getV (BitVec.ofNat 6 r)).stream

/-- Elements of a stream in all (R284). -/
def Pattern.total (p : Pattern) : Nat := p.count0.toNat * p.count1.toNat * p.count2.toNat

/-- A register full, or in yarn mode, whose pops wait on their own (R285). -/
def VecReg.ready (a : VecReg) : Bool := a.full || a.stream.isSome

/-- Sources that must be full: of a group in yarn mode, none but its streams (R285). -/
def Ctx.groupSrc (c : Ctx) (g : Group) (w : Bool) : Src := .v (BitVec.ofNat 6 g.r) (if (c.stream g.r).isSome then 0 else g.n) w

/-- Tag that an operand's data carries: the record's for popped elements (R285). -/
def Ctx.tagOf (c : Ctx) (r : Nat) : BitVec 6 := ((c.stream r).map (·.pat.tag)).getD (c.getV (BitVec.ofNat 6 r)).tag

/-- Tag that an operand's data carries for an instruction that read its tags at issue (R324). -/
def Ctx.tagAt (c : Ctx) (tags : Option (BitVec 384)) (r : Nat) : BitVec 6 :=
  match tags with
  | none => c.tagOf r
  | some t => ((c.stream r).map (·.pat.tag)).getD (t.extractLsb' (6 * (r % 64)) 6)

/-- Copies 2,048 bytes per register into a register group (R329). -/
def Ctx.copyGroup (c : Ctx) (d : Group) (xs : List (BitVec 16384)) (tag : BitVec 6) : Ctx :=
  xs.zipIdx.foldl (fun c p =>
    let q : VReg := BitVec.ofNat 6 (d.r + p.2)
    c.setV q { c.getV q with data := p.1, tag := tag, dirty := true, full := true, vlb := 128#8 }) c

/-- Registers of an operand whose tags count. -/
def Ctx.tagRegs (c : Ctx) (g : Group) : List Nat := if (c.stream g.r).isSome then [g.r] else (List.range g.n).map (g.r + ·)

/-- Operand word 0 and 1 of a domain mismatch (R232). -/
def tagFault (tag : BitVec 6) (reg : Nat) (need : Nat) : BitVec 8 × Word × Word :=
  (0x09#8, BitVec.ofNat 64 (tag.toNat + 256 * reg), BitVec.ofNat 64 need)

/-- The first failing tag check over data operands, vs2 first (R232, R251). -/
def Ctx.tagCheck (c : Ctx) (tags : Option (BitVec 384)) (rule : TagRule) (ops : List Operand) : Option (BitVec 8 × Word × Word) :=
  let regs := (ops.filter (·.data)).flatMap (fun o => c.tagRegs o.g)
  match rule, regs with
  | .none, _ => none
  | _, [] => none
  | .spatial, rs => (rs.find? (fun r => (c.tagAt tags r).extractLsb' 4 2 != 0#2)).map (fun r => tagFault (c.tagAt tags r) r 0)
  | .equal, r0 :: rs => (rs.find? (fun r => c.tagAt tags r != c.tagAt tags r0)).map (fun r => tagFault (c.tagAt tags r) r (c.tagAt tags r0).toNat)
  | .spectral, r0 :: rs =>
    let d := (c.tagAt tags r0).extractLsb' 4 2
    if d == 1#2 || d == 2#2 then
      (rs.find? (fun r => c.tagAt tags r != c.tagAt tags r0)).map (fun r => tagFault (c.tagAt tags r) r (c.tagAt tags r0).toNat)
    else some (tagFault (c.tagAt tags r0) r0 0x40)

/-- A misuse of a yarn register: 0x01, or 0x02 for a wrong element width (R286, R287). -/
def Ctx.yarnMisuse (c : Ctx) (m : Bool) (d : Option Group) (ops : List Operand) : Option (BitVec 8) :=
  let inside (g : Group) : Bool := (List.range (g.n - 1)).any (fun k => (c.stream (g.r + 1 + k)).isSome)
  let wrong (g : Group) (t : Stream) : Bool := g.plane || g.eb != 8 * 2 ^ t.pat.esz.toNat
  if ops.any (fun o => inside o.g) || d.any inside then some 0x01#8
  else if ops.any (fun o => (c.stream o.g.r).any (·.pat.dir)) then some 0x01#8
  else match d.bind (fun g => (c.stream g.r).map (fun t => (g, t))) with
  | some (g, t) => if !t.pat.dir || m then some 0x01#8 else if wrong g t || ops.any (fun o => (c.stream o.g.r).any (wrong o.g)) then some 0x02#8 else none
  | none => if ops.any (fun o => (c.stream o.g.r).any (wrong o.g)) then some 0x02#8 else none

/-- Why a vector instruction stops at an element. -/
inductive VStop where
  | done
  | fault (cause : BitVec 8) (v0 v1 : Word)
  /-- A deferred stream fault: operand words and the stream's `ystr` (R288, R357). -/
  | stream (v0 v1 ipc : Word)
  | wait
  | step
  deriving DecidableEq, Repr

/-- The stream fault at an element past the end, or the recorded one (R288). -/
def StreamFault.stop (f : StreamFault) (ipc : Word) : VStop :=
  .stream (BitVec.ofNat 64 f.element) (f.offset ++ f.sub ++ f.cause) ipc

/-- Offset of stream element `n` (R284). -/
def Pattern.pointer (p : Pattern) (n : Nat) : Word :=
  let i0 := n % p.count0.toNat
  let i1 := n / p.count0.toNat % p.count1.toNat
  let i2 := n / p.count0.toNat / p.count1.toNat
  p.base + BitVec.ofNat 64 i0 * p.stride0 + BitVec.ofNat 64 i1 * p.stride1 + BitVec.ofNat 64 i2 * p.stride2

/-- The fault of a pop or push past the stream's end (R288). -/
def Stream.pastEnd (t : Stream) (n : Nat) : VStop :=
  StreamFault.stop ⟨n, 0x03#8, 0#8, (t.pat.pointer n).setWidth 48⟩ t.ipc

/-- How many elements a read stream can give now, and what stops the next one (R285, R288). (DEDUCED, log entry 31.) -/
def Stream.supply (t : Stream) : Nat × VStop :=
  let k := t.buf.length
  (k, if t.pos + k ≥ t.pat.total then t.pastEnd (t.pos + k)
      else match t.fault with
      | some f => if f.element ≤ t.pos + k then f.stop t.ipc else .wait
      | none => .wait)

/-- How many elements the copy engine holds of a stream, read ahead of the next pop or pushed and not written: a recorded fault stays
within the two bytes that a skein keeps of its distance (R289, R374). (DESIGN CHOICE, log entry 31.) -/
def readAheadMax : Nat := 2 ^ 16 - 1

/-- How many elements a write stream takes now, and what stops the next one (R286, R288). -/
def Stream.room (t : Stream) : Nat × VStop :=
  let left := t.pat.total - (t.pos + t.buf.length)
  let free := readAheadMax - t.buf.length
  match t.fault with
  | some f => (0, f.stop t.ipc)
  | none => if free < left then (free, .wait) else (left, t.pastEnd t.pat.total)

/-- Is the stop a stream fault? -/
def VStop.isStream : VStop → Bool
  | .stream _ _ _ => true
  | _ => false

/-- A fault that an instruction has reported is cleared, and the engine tries its element again (R288). -/
def Stream.settle (t : Stream) (why : VStop) : Stream := if t.fault.any (fun f => f.stop t.ipc == why) then { t with fault := none } else t

/-- Pops `k` elements of a read stream, for an instruction that stops for the reason given (R285, R288). -/
def Ctx.pop (c : Ctx) (r k : Nat) (why : VStop) : Ctx :=
  let q : VReg := BitVec.ofNat 6 r
  let a := c.getV q
  match a.stream with
  | none => c
  | some t => c.setV q { a with stream := some { t.settle why with pos := t.pos + k, buf := t.buf.drop k } }

/-- Pushes elements to a write stream, for an instruction that stops for the reason given (R286, R288). -/
def Ctx.push (c : Ctx) (r : Nat) (ws : List Word) (why : VStop) : Ctx :=
  let q : VReg := BitVec.ofNat 6 r
  let a := c.getV q
  match a.stream with
  | none => c
  | some t => c.setV q { a with stream := some { t.settle why with buf := t.buf ++ ws } }

/-- A push of data whose tag is not the record's (R286). -/
def Ctx.pushTag (c : Ctx) (r : Nat) (tag : BitVec 6) : Option (BitVec 8 × Word × Word) :=
  (c.stream r).bind (fun t => if t.pat.tag == tag then none else some (tagFault tag r t.pat.tag.toNat))

/-! ## Uncorrectable words of the register file (R138-R140) -/

/-- 32-bit words, by key 512 × register + word, that element `i` of a group touches. -/
def Group.words (ls : List Nat) (g : Group) (i : Nat) : List Nat :=
  let at_ (eb j : Nat) : List Nat :=
    let p := lanePlace ls eb j
    let k := (g.r + p.1) % 64 * 512 + p.2 / 32
    if eb > 32 then [k, k + 1] else [k]
  if g.plane then (if g.eb * i % 8 + g.eb > 8 then at_ 8 (g.eb * i / 8) ++ at_ 8 (g.eb * i / 8 + 1) else at_ 8 (g.eb * i / 8))
  else at_ g.eb i

/-- Uncorrectable words of an agent's core. -/
def State.badRegs (s : State) (a : Agent) : Sparse Unit :=
  match a with
  | .hub _ => []
  | .ctx _ => match (s.regs a).core with
    | some k => (s.core k).badReg
    | none => []

/-- The register of the first listed word that is uncorrectable. -/
def badAmong (bad : Sparse Unit) (ws : List Nat) : Option Nat := (ws.find? (fun k => (Sparse.find bad k).isSome)).map (· / 512)

/-- The trap of an uncorrectable register word (R118). -/
def badRegStop (r : Nat) : VStop := .fault 0x17#8 (regWord 2#2 r) (BitVec.ofNat 64 (2 ^ 63))

/-- Writing words corrects those with a single-bit error; writing them whole rewrites their check bits (R138, R140). -/
def State.healRegs (s : State) (a : Agent) (whole : Bool) (ws : List Nat) : State :=
  match a with
  | .hub _ => s
  | .ctx _ => match (s.regs a).core with
    | none => s
    | some k =>
      let u := s.core k
      if u.badReg = [] && u.corrReg = [] then s
      else s.setCore k { u with badReg := if whole then u.badReg.filter (fun e => !ws.contains e.1) else u.badReg, corrReg := u.corrReg.filter (fun e => !ws.contains e.1) }

/-! ## What a write does to its registers (R30, R232, R368) -/

/-- Lane-slice bytes, rounded up to 8, that hold elements below `vl` in register `k` of a group (R368). -/
def Group.validBytes (g : Group) (l vl k : Nat) : Nat :=
  let eb := if g.plane then 8 else g.eb
  let n := if g.plane then (vl * g.eb + 7) / 8 else vl
  let per := 1024 / eb
  let pos := min per ((n - k * (l * per) + l - 1) / l)
  ((pos * eb + 7) / 8 + 7) / 8 * 8

/-- Marks register `k` of a destination group written: tag, dirty bit, valid length; full when the write is complete. -/
def Ctx.markReg (c : Ctx) (g : Group) (l vl : Nat) (tag : BitVec 6) (complete : Bool) (k : Nat) : Ctx :=
  let q : VReg := BitVec.ofNat 6 (g.r + k)
  let a := c.getV q
  c.setV q { a with tag := tag, dirty := true, full := a.full || complete, vlb := BitVec.ofNat 8 (max a.vlb.toNat (g.validBytes l vl k)) }

/-- Marks a destination group written. (DEDUCED, log entry 43.) -/
def Ctx.markV (c : Ctx) (g : Group) (l vl : Nat) (tag : BitVec 6) (complete : Bool) : Ctx :=
  (List.range g.n).foldl (fun c k => c.markReg g l vl tag complete k) c

/-- Marks a register written whole by an instruction that ignores `vl`: its valid length is 128 (R368). -/
def Ctx.markWhole (c : Ctx) (r : VReg) : Ctx := c.setV r { c.getV r with dirty := true, full := true, vlb := 128#8 }

end Sys2Proof.Machine
end

