-- ==== Sys2Proof/Machine/MatWord.lean ====
section
/-! DEFINITION. Matrix words as the matrix queue holds them, the formats of the array and the follow-on commands a copy
may carry (11_instruction_encoding R188; 17_memory_instructions R296; 19_matrix_instructions R306, R312). -/

namespace Sys2Proof.Machine
open Sys2Proof

/-- The matrix instructions by funct5 (R188). -/
inductive MOp where
  | mtset | mwld | mgath | mmac | mmacz | mzero | mrd | mst | mcode
  deriving DecidableEq, Repr

/-- A matrix instruction as the array reads it. -/
structure MInstr where
  op : MOp
  /-- The rd field: first x destination of `mtset`, zd of the tile instructions. -/
  rd : BitVec 5
  rs1 : BitVec 5
  /-- The rs2 field: a format. -/
  fmt : BitVec 5
  /-- The vector field of MX-V. -/
  v : VReg
  deriving DecidableEq, Repr

/-- The operation that a funct5 value names. -/
def mopOf : Nat → Option MOp
  | 0 => some .mtset
  | 1 => some .mwld
  | 2 => some .mgath
  | 3 => some .mmac
  | 4 => some .mmacz
  | 5 => some .mzero
  | 6 => some .mrd
  | 7 => some .mst
  | 8 => some .mcode
  | _ => none

/-- Reads a matrix word of a queue; its fields were checked when it was issued. -/
def matOfWord (w : BitVec 32) : Option MInstr :=
  (mopOf (w.extractLsb' 27 5).toNat).map (fun o => ⟨o, w.extractLsb' 7 5, w.extractLsb' 15 5, w.extractLsb' 20 5, w.extractLsb' 20 6⟩)

/-- Formats that the array accepts for weights (R306). -/
def weightFormat (f : Nat) : Bool := f == 0 || f == 4 || f == 5 || (7 ≤ f && f ≤ 14) || f == 16

/-- Formats that the array accepts for activations (R306). -/
def activationFormat (f : Nat) : Bool := weightFormat f && f != 16

/-- Formats that accumulate into an even-odd pair: FP64 and CBF16 (R306). -/
def usesPair (f : Nat) : Bool := f == 7 || f == 14

/-- The tile numbers that an instruction writes as accumulators (R302, R316). -/
def MInstr.tiles (i : MInstr) : List ZReg :=
  let z : ZReg := i.rd.setWidth 3
  match i.op with
  | .mmac | .mmacz => if usesPair i.fmt.toNat then [z, z + 1#3] else [z]
  | .mzero => [z]
  | _ => []

/-- May a copy carry this word as its follow-on command: one of six MX words, w1 = w2 = 0, every field valid (R296)? -/
def followOnOk (w : BitVec 32) : Bool :=
  let f := (w.extractLsb' 20 5).toNat
  let rd := w.extractLsb' 7 5
  let z := rd.toNat < 8
  w.extractLsb' 0 7 == 0x0B#7 && w.extractLsb' 12 3 == 6#3 && w.extractLsb' 25 2 == 0#2 &&
    match mopOf (w.extractLsb' 27 5).toNat with
    | some .mwld => rd == 0#5 && weightFormat f
    | some .mmac | some .mmacz => z && activationFormat f && !(usesPair f && rd.getLsbD 0)
    | some .mzero => z && f == 0 && w.extractLsb' 15 5 == 0#5
    | some .mst => z && f == 0
    | some .mcode => rd == 0#5 && f == 0
    | _ => false

/-- Sets the full bits of tiles. -/
def Ctx.tilesFull (c : Ctx) (b : Bool) (zs : List ZReg) : Ctx := zs.foldl (fun c z => c.setZ z { c.getZ z with full := b }) c

end Sys2Proof.Machine
end

