-- ==== Sys2Proof/Machine/Packed.lean ====
section
/-! DEFINITION. Packed blocks of 256 bytes (07_memory_and_relocation R143-R146). -/

namespace Sys2Proof.Machine
open Sys2Proof

/-- The index of the lowest entry that satisfies a test. -/
def findIdxOf {α : Type} (t : α → Bool) : List α → Nat → Option Nat
  | [], _ => none
  | x :: xs, i => if t x then some i else findIdxOf t xs (i + 1)

/-- A literal goes to entry (number of literals so far mod 16) of the dictionary (R144). -/
def dictPut (d : List Nat) (lits w : Nat) : List Nat := if lits < 16 then d ++ [w] else d.set (lits % 16) w

/-- Decodes words of a packed code: `n` words left, the string from its next bit, bits used, dictionary, literals so far.
Gives the words and the bits used; `none` for a match with an entry not yet filled (R144, R146). -/
def unpackWords : Nat → Nat → Nat → List Nat → Nat → Option (List Nat × Nat)
  | 0, _, used, _, _ => some ([], used)
  | n + 1, s, used, d, lits =>
    let code := s % 4
    let s := s / 4
    let next (w : Nat) (r : Option (List Nat × Nat)) : Option (List Nat × Nat) := r.map (fun x => (w :: x.1, x.2))
    if code = 0 then next 0 (unpackWords n s (used + 2) d lits)
    else if code = 3 then
      let w := s % 2 ^ 32
      next w (unpackWords n (s / 2 ^ 32) (used + 34) (dictPut d lits w) (lits + 1))
    else
      match d[s % 16]? with
      | none => none
      | some e =>
        if code = 1 then next e (unpackWords n (s / 16) (used + 6) d lits)
        else
          let w := e / 2 ^ 16 * 2 ^ 16 + s / 16 % 2 ^ 16
          next w (unpackWords n (s / 2 ^ 20) (used + 22) d lits)

/-- Joins words of `k` bits into one number, the first lowest. -/
def joinWords (k : Nat) (ws : List Nat) : Nat := ws.foldr (fun w a => w + 2 ^ k * a) 0

/-- The 256 bytes of a block from its header and frame; `none` when it is malformed (R143, R146). -/
def unpackBlock (h frame : Nat) : Option Nat :=
  if h = 8 then some frame
  else if h = 0 || h > 8 then none
  else
    let s := frame % 2 ^ (256 * h)
    match unpackWords 64 s 0 [] 0 with
    | none => none
    | some (ws, used) => if used > 256 * h || s / 2 ^ used != 0 then none else some (joinWords 32 ws)

/-- Encodes words (R144, R145): the string above `used` bits already made, and its length. -/
def packWords : List Nat → List Nat → Nat → Nat × Nat
  | [], _, _ => (0, 0)
  | w :: ws, d, lits =>
    let put (v k : Nat) (r : Nat × Nat) : Nat × Nat := (v + 2 ^ k * r.1, k + r.2)
    if w = 0 then put 0 2 (packWords ws d lits)
    else match findIdxOf (· == w) d 0 with
    | some i => put (1 + 4 * i) 6 (packWords ws d lits)
    | none =>
      match findIdxOf (fun e => e / 2 ^ 16 == w / 2 ^ 16) d 0 with
      | some i => put (2 + 4 * i + 64 * (w % 2 ^ 16)) 22 (packWords ws d lits)
      | none => put (3 + 4 * w) 34 (packWords ws (dictPut d lits w) (lits + 1))

/-- Header and frame of a block of 256 bytes (R145). -/
def packBlock (b : Nat) : Nat × Nat :=
  let ws := (List.range 64).map (fun i => b / 2 ^ (32 * i) % 2 ^ 32)
  let r := packWords ws [] 0
  let h := ((r.2 + 7) / 8 + 31) / 32
  if h ≤ 7 then (h, r.1) else (8, b)

/-- Bytes of the frame that a header gives meaning to (R143). -/
def frameBytes (h : Nat) : Nat := if h = 8 then 256 else 32 * h

/-- H, the size of a K slot's header plane: its limit is H + 256 n for n blocks (R143). -/
def SlotEntry.headerPlane (e : SlotEntry) : Nat :=
  let m := e.limit.toNat / 256
  256 * ((m - (m + 256) / 257 + 255) / 256)

end Sys2Proof.Machine
end

