-- ==== Sys2Proof/Machine/Turn.lean ====
section
/-! DEFINITION. Which needles may take a turn, yield points and the fetch (R13, R16, R40, R41, R120, R382). -/

namespace Sys2Proof.Machine
open Sys2Proof

/-- Some entry that a fork must wait for is not complete: it is in a queue, or a copy of it is in flight (R16, R19). -/
def Ctx.forkHeld (c : Ctx) (d : NeedleState) : Bool :=
  d.forkWait != 0 && (c.vecQ.any (·.seq < d.forkWait) || c.matQ.any (·.seq < d.forkWait) || c.copyQ.any (·.seq < d.forkWait)
    || c.copies.any (fun o => o.inline && o.seq < d.forkWait))

/-- The first two cases of R40: no open level and no strip of its own, or the first instruction of an iteration; S never
while a `vfabget` or `vfabput` is under way (R410). -/
def Ctx.atYieldPoint (c : Ctx) (n : Needle) : Bool :=
  let d := c.needle n
  !(n == .S && c.vfab.isSome) && ((d.loops == [] && !(c.strip.opened && c.strip.owner == n)) || (d.loops != [] && d.fresh))

/-- Does the needle's context run, and the needle with it? A hub core runs unless it is stopped, halted or saving. -/
def State.runs (s : State) (a : Agent) : Bool :=
  match a with
  | .ctx i => match Sparse.find s.ctxs i with
    | some c => c.life == .running && c.core.isSome && s.moduleOn
    | none => false
  | .hub h => !(s.hub h).stopped && !(s.hub h).halted && (s.hub h).save.isNone && s.moduleOn

/-- A word of a vector arithmetic opcode: custom-1, custom-2 or custom-3 (R180). -/
def isVectorWord (w : BitVec 32) : Bool := w.extractLsb' 0 7 == 0x2B#7 || w.extractLsb' 0 7 == 0x5B#7 || w.extractLsb' 0 7 == 0x7B#7

/-- V stands at a vector instruction that has begun: `vbeg` is past 0 (R382). (DEDUCED, log entry 44.) -/
def State.vUnfinished (s : State) (c : Ctx) : Bool :=
  c.nV.active && (c.nV.part.isSome || (c.vbeg != 0#64 && isVectorWord (s.fetchWord c c.nV.pc)))

/-- In a debug step only the unfinished vector instruction, else the named needle, moves (R382). -/
def State.stepAllows (s : State) (a : Agent) (n : Needle) : Bool :=
  let c := s.regs a
  !c.stepping || (c.vecQ == [] && (if s.vUnfinished c then n == .V else n == needleOf s.dbgNeedle))

/-- May this needle execute an instruction now? -/
def State.mayRun (s : State) (a : Agent) (n : Needle) : Bool :=
  let d := (s.regs a).needle n
  s.runs a && d.active && !d.atYield && !(s.regs a).forkHeld d && s.stepAllows a n

/-- The turn begins: who, the model's step counter, and time, which passes by free amounts (DESIGN CHOICE, log entry 5). -/
def State.beginTurn (s : State) (a : Agent) (n : Needle) : State :=
  let s := { s with cur := (a, n), tick := s.tick + 1, timer := s.timer + BitVec.ofNat 64 (Config.timeStep s.tick) }
  if s.runs a then s.onRegs a (fun c => { c with cycle := c.cycle + BitVec.ofNat 64 (Config.cycleStep s.tick) }) else s

/-- The check of R198 order 1 on the word at the pc. -/
def State.fetchFault (s : State) (c : Ctx) (pc : Word) : Option (BitVec 8 × Word × Word) :=
  match c.targetFault pc with
  | some f => some f
  | none =>
    let off := (pc.extractLsb' 0 48).toNat
    let phys := c.slot0.base.toNat / 256 * 256 + off
    if off + 4 > c.slot0.limit.toNat || regionOf phys != some .hbm then
      some (0x03#8, pc, BitVec.ofNat 64 (2 ^ 63 + 4 * 2 ^ 48 + c.slot0.limit.toNat))
    else match s.badWord phys 4 with
      | some w => some (0x17#8, pc, BitVec.ofNat 64 (3 * 2 ^ 62 + w))
      | none => none

/-! ## Writes that race for a register (R32) -/

/-- The units of a register that are accepted late. -/
def lateUnits (late : List (Nat × BitVec 16)) (r : Nat) : BitVec 16 := ((late.find? (·.1 == r)).map (·.2)).getD 0#16

/-- The bits of the register units named by `lanes` in which two values of a register or tile differ: unit j is bytes 128j to 128j + 127,
lane j's slice of a v register or the j-th sixteenth of a tile. -/
def lateBits (lanes : BitVec 16) (old new : BitVec 16384) : BitVec 16384 :=
  (List.range 16).foldl (fun m j =>
    if lanes.getLsbD j && old.extractLsb' (1024 * j) 1024 != new.extractLsb' (1024 * j) 1024
    then m ||| (BitVec.setWidth 16384 (BitVec.allOnes 1024) <<< (1024 * j)) else m) 0#16384

/-- A value with some of its bits from another. -/
def mixBits (m a b : BitVec 16384) : BitVec 16384 := (a &&& ~~~m) ||| (b &&& m)

/-- A register as the second of two racing writes finds it: the late units of the first have not been accepted. -/
def VecReg.holdBack (lanes : BitVec 16) (old new : VecReg) : VecReg :=
  let m := lateBits lanes old.data new.data
  if m = 0#16384 then new else { new with data := mixBits m new.data old.data, full := old.full }

/-- A register once the late units of the first write have been accepted on top of the second's. -/
def VecReg.landLate (lanes : BitVec 16) (old new cur : VecReg) : VecReg :=
  let m := lateBits lanes old.data new.data
  if m = 0#16384 then cur else { cur with data := mixBits m cur.data new.data, full := new.full }

/-- As `VecReg.holdBack`, for a tile. -/
def Tile.holdBack (lanes : BitVec 16) (old new : Tile) : Tile :=
  let m := lateBits lanes old.data new.data
  if m = 0#16384 then new else { new with data := mixBits m new.data old.data, full := old.full }

/-- As `VecReg.landLate`, for a tile. -/
def Tile.landLate (lanes : BitVec 16) (old new cur : Tile) : Tile :=
  let m := lateBits lanes old.data new.data
  if m = 0#16384 then cur else { cur with data := mixBits m cur.data new.data, full := new.full }

/-- `t` is the state after a first turn from `s`: its late units are taken back. -/
def State.holdBack (s t : State) (a : Agent) (late : List (Nat × BitVec 16)) : State :=
  let c := s.regs a
  let d := t.regs a
  let e : Ctx := { d with
    v := Vector.ofFn (fun r => (c.v.get r).holdBack (lateUnits late r) (d.v.get r))
    z := Vector.ofFn (fun r => (c.z.get r).holdBack (lateUnits late (64 + r)) (d.z.get r)) }
  if e = d then t else t.setRegs a e

/-- `u` is the state after a second turn: the late units of the first, from `s` to `t`, are accepted now. -/
def State.landLate (s t u : State) (a : Agent) (late : List (Nat × BitVec 16)) : State :=
  let c := s.regs a
  let d := t.regs a
  let e := u.regs a
  let x : Ctx := { e with
    v := Vector.ofFn (fun r => (c.v.get r).landLate (lateUnits late r) (d.v.get r) (e.v.get r))
    z := Vector.ofFn (fun r => (c.z.get r).landLate (lateUnits late (64 + r)) (d.z.get r) (e.z.get r)) }
  if x = e then u else u.setRegs a x

/-- May the writes of two turns race for registers of an agent: those of two of its needles, of a needle and an asynchronous producer,
or of two producers, one of which may perform a needle's inline instruction (R16, R32)? A race as the second is one with every turn
in it. -/
def Turn.racesWith (a : Agent) : Turn → Turn → Bool
  | .needle b n, .needle c m => b == a && c == a && n != m
  | .needle b _, .event _ => b == a
  | .event _, .needle b _ => b == a
  | .event i, .event j => i != j
  | t, .race u _ _ v => t.racesWith a u && t.racesWith a v
  | .race _ _ _ _, _ => false

/-- A module that has shut down does nothing until a device reset (R427). -/
def State.heeds (s : State) (i : Instr) : Bool :=
  s.moduleOn || match i with
    | .deviceReset _ _ => true
    | _ => false

/-- May a request be honoured: every active needle stops at a yield point or is blocked (R41)? -/
def Ctx.honourable (c : Ctx) : Bool :=
  needles.all (fun n => let d := c.needle n; !d.active || d.atYield || d.blocked || (d.forkWait != 0 && c.forkHeld d))

end Sys2Proof.Machine
end

