-- ==== Sys2Proof/Machine/Sync.lean ====
section
/-! DEFINITION. Barriers, fences, `vdrain` and leaving a wait (12_control_and_system_instructions R214-R218;
10_consistency_model R160-R163; R21, R45). -/

namespace Sys2Proof.Machine
open Sys2Proof

/-! ## Barrier words (R214-R216) -/

/-- A barrier word (R214). -/
structure BarWord where
  pending : Int
  phase : Bool
  overrun : Bool
  armed : Bool
  /-- Bits [127:35], which the operations keep. -/
  rest : BitVec 93
  deriving DecidableEq, Repr

/-- The word as its 128 bits hold it. -/
def BarWord.ofBits (b : BitVec 128) : BarWord :=
  ⟨(b.extractLsb' 0 32).toInt, b.getLsbD 32, b.getLsbD 33, b.getLsbD 34, b.extractLsb' 35 93⟩

/-- The 128 bits of a word. -/
def BarWord.bits (b : BarWord) : BitVec 128 :=
  b.rest ++ BitVec.ofBool b.armed ++ BitVec.ofBool b.overrun ++ BitVec.ofBool b.phase ++ BitVec.ofInt 32 b.pending

/-- Settle: an armed word with nothing pending flips its phase; excess sets overrun and never reaches the next phase. -/
def BarWord.settle (b : BarWord) : BarWord :=
  if b.armed && b.pending ≤ 0 then
    { b with overrun := b.overrun || b.pending < 0, pending := if b.pending < 0 then 0 else b.pending, phase := !b.phase, armed := false }
  else b

/-- `bar.exp` of `n` bytes; `none` where it raises 0x0B. -/
def BarWord.expect (b : BarWord) (n : Nat) : Option BarWord :=
  if b.overrun || n > 2 ^ 31 - 1 || b.pending + n > 2 ^ 31 - 1 then none
  else some { b with pending := b.pending + n, armed := true }.settle

/-- An arrival of `n` bytes. -/
def BarWord.arrive (b : BarWord) (n : Nat) : BarWord := { b with pending := max (b.pending - n) (-(2 ^ 31)) }.settle

/-- What a barrier operation asks of its access: all but `bar.init` read the word (R215, R139). -/
def barNeed (write read : Bool) : Need := { size := 16, align := 16, write := write, rmw := read, kind := .barrier }

/-- The barrier word at an access. -/
def State.barWord (s : State) (acc : Access) : BarWord := .ofBits (BitVec.ofNat 128 (s.read acc.key acc.phys 16))

/-- Stores a barrier word: atomic (R150). When its phase flips, the arrivals counted so far are among those of phases that have
flipped (R163). -/
def State.putBar (s : State) (core : Option Nat) (acc : Access) (old new : BarWord) : State :=
  let s := s.putAtomic core acc 16 new.bits.toNat
  if old.phase == new.phase then s
  else
    let e := Sparse.at s.barriers ([], []) acc.phys
    { s with barriers := Sparse.write s.barriers ([], []) acc.phys ([], e.1 ++ e.2) }

/-- Arrive (R216): a release at a scope, of the knowledge given and the core's own count (R163, R169). -/
def State.arrive (s : State) (a : Agent) (acc : Access) (n : Nat) (scope : BitVec 3) (know : Option Knowledge) : State :=
  let c := s.regs a
  let core := c.coreNo a
  let b := s.barWord acc
  let s := s.countRelease core scope
  let r := match know with
    | none => s.releaseOf core scope acc.phys 16
    | some k => s.releaseOp core scope acc.phys 16 k
  let e := Sparse.at s.barriers ([], []) acc.phys
  let s := { s with barriers := Sparse.write s.barriers ([], []) acc.phys (r :: e.1, e.2) }
  (s.putBar c.core acc b (b.arrive n)).addRelease r

/-- The barrier fault (R216). -/
def barFault (p : Word) (b : BarWord) : Act := .trap 0x0B#8 p (b.bits.setWidth 64)

/-- A barrier instruction: its access, then its step on the word. -/
def barOp (srcs : List Src) (rs1 : XReg) (write read : Bool) (body : Access → State → State × Act) (s : State) : Exec :=
  launch .sOnly sysCharge (reading srcs (fun s =>
    match s.access (s.my.view s.who) (s.my.getX rs1) (barNeed write read) with
    | .error e => (s, e.act)
    | .ok acc => body acc s)) s

/-- `bar.init (xs1)`: all 128 bits 0 (R216). -/
def execBarInit (rs1 : XReg) (w1 : Bool) (s : State) : Exec :=
  barOp [.x rs1 w1] rs1 true false (fun acc s =>
    ({ s.putAtomic s.my.core acc 16 0 with barriers := Sparse.drop s.barriers acc.phys }, .done)) s

/-- `bar.exp (xs1), xs2` (R216). -/
def execBarExp (rs1 rs2 : XReg) (w1 w2 : Bool) (s : State) : Exec :=
  barOp [.x rs1 w1, .x rs2 w2] rs1 true true (fun acc s =>
    let b := s.barWord acc
    match b.expect (s.my.getX rs2).toNat with
    | none => (s, barFault (s.my.getX rs1) b)
    | some b' => (s.putBar s.my.core acc b b', .done)) s

/-- A scope of 5 to 31 is illegal (R186). -/
def withScope (scope : BitVec 5) (body : State → Exec) (s : State) : Exec :=
  if scope.toNat > 4 then launch .sOnly [] illegal s else body s

/-- `bar.arr (xs1), xs2, scope` (R216). -/
def execBarArr (rs1 rs2 : XReg) (scope : BitVec 5) (w1 w2 : Bool) (s : State) : Exec :=
  withScope scope (barOp [.x rs1 w1, .x rs2 w2] rs1 true true (fun acc s =>
    let n := (s.my.getX rs2).toNat
    if n > 2 ^ 31 - 1 then (s, barFault (s.my.getX rs1) (s.barWord acc))
    else (s.arrive s.who acc n (scope.setWidth 3) none, .done))) s

/-- `bar.wait (xs1), xs2, scope` (R216, R217): an atomic acquire of every arrival of the phases that flipped and of every release
whose value the word it reads holds, arrivals of the open phase among them, each on its own scopes (R153, R163). -/
def execBarWait (rs1 rs2 : XReg) (scope : BitVec 5) (w1 w2 : Bool) (s : State) : Exec :=
  withScope scope (barOp [.x rs1 w1, .x rs2 w2] rs1 false true (fun acc s =>
    if (s.barWord acc).phase == (s.my.getX rs2).getLsbD 0 then (s, .wait .barWait)
    else (s.acquireAll (s.my.coreNo s.who) (scope.setWidth 3) ((Sparse.at s.barriers ([], []) acc.phys).2 ++ s.releasesAt acc.phys 16), .done))) s

/-! ## Fences (R160-R162) -/

/-- The acquire half: releases read by loads since the latest acquire half are acquired at the scope (R161). -/
def State.acquireHalf (s : State) (a : Agent) (scope : BitVec 3) : State :=
  let c := s.regs a
  (s.acquireAll (c.coreNo a) scope c.reads).onRegs a (fun c => { c with reads := [] })

/-- The release half: the next store is a release of what S's core knows now, at the wider scope of two halves (R161). -/
def State.releaseHalf (s : State) (a : Agent) (scope : BitVec 3) : State :=
  s.onRegs a (fun c => { c with relHalf := widerScope c.relHalf (some scope), relKnow := s.knowledge (c.coreNo a) })

/-- `fence.s kind, scope` (R160, R161). -/
def execFenceS (kind scope : BitVec 5) (s : State) : Exec :=
  launch .sOnly sysCharge (fun s =>
    if kind = 0#5 || kind.toNat > 3 || scope.toNat > 4 then illegal s
    else
      let s := if kind.getLsbD 0 then s.acquireHalf s.who (scope.setWidth 3) else s
      (if kind.getLsbD 1 then s.releaseHalf s.who (scope.setWidth 3) else s, .done)) s

/-- A base FENCE acts as `fence.s acqrel, device` whatever its fields hold (R162). -/
def execFence (_fm _pred _succ : BitVec 4) (_rs1 _rd : XReg) (s : State) : Exec :=
  launch .sOnly [(0, 1)] (fun s => ((s.acquireHalf s.who 3#3).releaseHalf s.who 3#3, .done)) s

/-! ## Draining (R218) -/

/-- A fabric operation's outcome writes a register. -/
def FabDest.register : FabDest → Bool
  | .xreg _ => true
  | _ => false

/-- Fabric operations of an agent without an outcome that have a destination register; remote stores are not waited for
(R218). -/
def State.fabricWaits (s : State) (a : Agent) : Bool :=
  (s.part (s.regs a).part).seqs.any (fun q => q.who == .agent a && q.ops.any (·.dest.register))

/-- The issue number below which a `vdrain` waits: that of its start, which it keeps while it waits (R218). -/
def Ctx.drainGate (c : Ctx) : Nat := if c.nS.drain = 0 then c.nextSeq else c.nS.drain

/-- Nothing that `vdrain` waits for is left: no queue entry, copy, matrix or gather operation issued before it began, and no
fabric operation with a destination register, which S alone issues (R218). -/
def State.vdrained (s : State) (a : Agent) : Bool :=
  let c := s.regs a
  let old (e : QEntry) : Bool := e.seq < c.drainGate
  !c.vecQ.any old && !c.matQ.any old && !c.copyQ.any old && !c.copies.any (·.seq < c.drainGate) && c.reds.all (·.want == []) && !s.fabricWaits a

/-- `vdrain` (R218). -/
def execVdrain (s : State) : Exec :=
  launch .sOnly sysCharge (fun s =>
    if !s.vdrained s.who then (s.onMy (fun c => { c with nS := { c.nS with drain := c.drainGate } }), .wait .full)
    else match s.my.firstFault with
      | some p => s.deliverFirst p
      | none => (s, .done)) s

/-! ## Leaving a wait -/

/-- WAIT_SATISFIED: a blocked needle whose condition holds leaves its wait (R13, R43, R45). At a `meet` all leave together
(R21); in every other wait the needle executes its instruction again, which reads its condition afresh. So does a needle blocked while a
pre-emption request is pending, which then runs to its next yield point (R41; DEDUCED, log entry 42). -/
def execWaitSatisfied (a : Agent) (n : Needle) (s : State) : Exec :=
  let wake : State := s.onRegs a (fun c => c.setNeedle n { c.needle n with run := .running })
  .next (if !s.runs a then s else match ((s.regs a).needle n).run with
    | .blocked (.meet _) => s.settleMeet a
    | .blocked .join => if (s.regs a).drained then wake else s
    | .blocked _ => wake
    | _ => s)

end Sys2Proof.Machine
end

