-- ==== Sys2Proof/Machine/VecOp.lean ====
section
/-! DEFINITION. The vector arithmetic instructions as operations: how the vector engine reads them from a queue entry's word,
and what formats, groups and overlaps each allows (R182-R184, R191, R226-R247, R248-R272). -/

namespace Sys2Proof.Machine
open Sys2Proof

/-- Integer operations of two elements (R237). -/
inductive IntOp where
  | add | sub | mul | mulh | mulhu | div | divu | rem | remu | min | minu | max | maxu | and | or | xor
  | sll | srl | sra | sadd | saddu | ssub | ssubu
  deriving DecidableEq, Repr
/-- Integer compares (R238). -/
inductive CmpOp where
  | eq | ne | lt | ltu | le | leu
  deriving DecidableEq, Repr
/-- Integer unary operations (R242). -/
inductive UnOp where
  | mv | id | abs | neg | not | clz | popcnt
  deriving DecidableEq, Repr
/-- Integer reductions (R246). -/
inductive RedOp where
  | sum | min | minu | max | maxu | and | or | xor
  deriving DecidableEq, Repr
/-- Floating-point operations of two elements (R255, R256). -/
inductive FBin where
  | add | sub | mul | div | min | max | sgnj | sgnjn | sgnjx
  deriving DecidableEq, Repr
/-- Fused forms (R257). -/
inductive FMa where
  | macc | nmacc | msac | nmsac
  deriving DecidableEq, Repr
/-- Floating-point compares (R258). -/
inductive FCmp where
  | eq | ne | lt | le | un
  deriving DecidableEq, Repr
/-- Special functions (R269). -/
inductive SpecOp where
  | sqrt | recip | rsqrt | exp2 | log2 | tanh | silu | gelu | sin | cos
  deriving DecidableEq, Repr
/-- Floating-point reductions (R272). -/
inductive FRed where
  | sum | max | min | amax
  deriving DecidableEq, Repr
/-- Conversions (R262, R263). -/
inductive CvtOp where
  | up | dn | fi | if_
  deriving DecidableEq, Repr

/-- A vector arithmetic operation; VV and VX forms differ in their first source only. -/
inductive VOp where
  | int (o : IntOp)
  | cmp (o : CmpOp)
  | merge
  | perm
  | slideup
  | slidedn
  | un (o : UnOp)
  | ext (signed : Bool)
  | clip (signed : Bool)
  | iota
  | compress
  | red (o : RedOp)
  | mpopc
  | mfirst
  | fbin (o : FBin)
  | fma (o : FMa)
  | fcmp (o : FCmp)
  | fmerge
  | cmul (acc : Bool)
  | fwmacc
  | cvt (o : CvtOp) (fmt : BitVec 4)
  | quant
  | dequant
  | bscale (tf : BitVec 4)
  /-- VX `vbscale`, which ignores `vl`, `vtype` and `vbeg` (R267). -/
  | bscaleX (tf : BitVec 6)
  | bamax
  | spec (o : SpecOp)
  | fclass
  | fabs
  | fneg
  | conj
  | fred (o : FRed)
  | purl (inverse complex : Bool)
  | retag
  | tagclr
  deriving DecidableEq, Repr

/-- The first source of an operation. -/
inductive VSrc where
  | none
  | v (r : VReg)
  | x (r : XReg)
  | f (r : FReg)
  deriving DecidableEq, Repr

/-- A vector arithmetic instruction. -/
structure VInstr where
  op : VOp
  vd : VReg
  vs2 : VReg
  src : VSrc := .none
  w : Bool
  m : Bool
  deriving DecidableEq, Repr

/-! ## Reading a queue entry's word (R182-R184) -/

/-- Funct5 0 to 22 of custom-2 and of custom-1 with cls 0. -/
def intOps : List IntOp :=
  [.add, .sub, .mul, .mulh, .mulhu, .div, .divu, .rem, .remu, .min, .minu, .max, .maxu, .and, .or, .xor, .sll, .srl, .sra,
   .sadd, .saddu, .ssub, .ssubu]

/-- Funct5 0 to 29 of both integer forms. -/
def intNames : List VOp := intOps.map .int ++ [.cmp .eq, .cmp .ne, .cmp .lt, .cmp .ltu, .cmp .le, .cmp .leu, .merge]

/-- Sub-operations of custom-2 with funct5 31 (R182). -/
def viuNames : List VOp :=
  [.un .mv, .un .id, .iota, .compress, .red .sum, .red .min, .red .minu, .red .max, .red .maxu, .red .and, .red .or, .red .xor,
   .mpopc, .mfirst, .un .abs, .un .neg, .un .not, .un .clz, .un .popcnt, .ext true, .ext false, .clip true, .clip false]

/-- Funct5 0 to 18 of both floating-point forms. -/
def floatNames : List VOp :=
  [.fbin .add, .fbin .sub, .fbin .mul, .fbin .div, .fbin .min, .fbin .max, .fbin .sgnj, .fbin .sgnjn, .fbin .sgnjx,
   .fma .macc, .fma .nmacc, .fma .msac, .fma .nmsac, .fcmp .eq, .fcmp .ne, .fcmp .lt, .fcmp .le, .fcmp .un, .fmerge]

/-- Funct5 19 to 29 of custom-3; `t` is the format code in the vs1 field (R254). -/
def floatRest (t : BitVec 4) : List VOp :=
  [.cmul false, .cmul true, .fwmacc, .cvt .up t, .cvt .dn t, .cvt .fi t, .cvt .if_ t, .quant, .dequant, .bscale t, .bamax]

/-- Sub-operations of custom-3 with funct5 31 (R183). -/
def vfuNames : List VOp :=
  [.spec .sqrt, .spec .recip, .spec .rsqrt, .fclass, .spec .exp2, .spec .log2, .spec .tanh, .spec .silu, .spec .gelu, .spec .sin,
   .spec .cos, .fabs, .fneg, .conj, .fred .sum, .fred .max, .fred .min, .fred .amax, .purl false false, .purl true false,
   .purl false true, .purl true true, .retag, .tagclr]

/-- Does a VV operation read a register named by its vs1 field? -/
def VOp.readsVs1 : VOp → Bool
  | .int _ | .cmp _ | .merge | .perm | .fbin _ | .fma _ | .fcmp _ | .fmerge | .cmul _ | .fwmacc | .quant | .dequant => true
  | _ => false

/-- Names of custom-1 operations by cls and funct5 (R184). -/
def vxName (fp : Bool) (f : Nat) (t : BitVec 6) : Option VOp :=
  if fp then
    if f = 21 then some .fwmacc else if f = 28 then some (.bscaleX t) else floatNames[f]?
  else if f = 30 then some .slideup else if f = 31 then some .slidedn else intNames[f]?

/-- The vector instruction of a word that custom-1, custom-2 or custom-3 holds (R180, R182-R184). -/
def vecOfWord (w : BitVec 32) : Option VInstr :=
  let vd := w.extractLsb' 7 6
  if w.extractLsb' 0 7 == 0x2B#7 then
    let fp := w.getLsbD 31
    let r : BitVec 5 := w.extractLsb' 13 5
    let vs2 : VReg := w.extractLsb' 18 6
    (vxName fp (w.extractLsb' 26 5).toNat vs2).map
      (fun o => { op := o, vd := vd, vs2 := vs2, src := if fp then .f r else .x r, w := w.getLsbD 25, m := w.getLsbD 24 })
  else
    let f := (w.extractLsb' 27 5).toNat
    let vs1 : VReg := w.extractLsb' 13 6
    let name : Option VOp :=
      if w.extractLsb' 0 7 == 0x5B#7 then
        if f = 31 then viuNames[vs1.toNat]? else if f = 30 then some .perm else intNames[f]?
      else if w.extractLsb' 0 7 == 0x7B#7 then
        if f = 31 then vfuNames[vs1.toNat]? else if f < 19 then floatNames[f]? else (floatRest (vs1.setWidth 4))[f - 19]?
      else none
    name.map (fun o => { op := o, vd := vd, vs2 := w.extractLsb' 19 6, src := if o.readsVs1 then .v vs1 else .none
                         w := w.getLsbD 26, m := w.getLsbD 25 })

/-! ## What an instruction captures at issue (R226, R249, R322) -/

/-- Format code captured. -/
def Capture.fmt (k : Capture) : Nat := vtypeFmt k.vtype
/-- Group size captured. -/
def Capture.grp (k : Capture) : Nat := vtypeGroup k.vtype
/-- Elements of a quantisation block; one block holds the whole tensor when blk is 0b10 (R91). -/
def Capture.blk (k : Capture) : Nat := if k.vqcfg.extractLsb' 0 2 == 0#2 then 16 else if k.vqcfg.extractLsb' 0 2 == 1#2 then 32 else 2 ^ 20

/-! ## Shapes: formats, groups, tags (R228-R233, R243, R248, R251, R252, R261-R268) -/

/-- Tag that a destination takes (R232, R251). -/
inductive DTag where
  | zero
  | vs2
  deriving DecidableEq, Repr

/-- What an instruction's captured `vtype` allows and names. -/
structure Shape where
  /-- Format and group allowed, else 0x02. -/
  ok : Bool
  dst : Group
  ops : List Operand
  tags : TagRule := .spatial
  dtag : DTag := .vs2
  /-- Reads every element before it writes any (R36, R234, R253). -/
  barrier : Bool := false
  /-- Writes element 0 whatever elements are present (R230). -/
  always : Bool := false
  /-- Writes active and inactive elements alike (R239). -/
  allActive : Bool := false
  /-- Elements that are read together before any of them is written (R265, R328). -/
  block : Nat := 1
  deriving DecidableEq, Repr

/-- Is a format an integer one? -/
def fmtInt (f : Nat) : Bool := f ≤ 3
/-- Is a format FP16, BF16, FP32 or FP64? -/
def fmtFloat (f : Nat) : Bool := 4 ≤ f && f ≤ 7
/-- Is a format complex? -/
def fmtComplex (f : Nat) : Bool := f == 14 || f == 15
/-- Is a format SB8, SB5 or SB3? -/
def fmtShared (f : Nat) : Bool := 11 ≤ f && f ≤ 13

/-- The pairs of R99, source and destination of an up-step. -/
def upPair (s d : Nat) : Bool :=
  (s == 6 && d == 7) || ((s == 4 || s == 5) && d == 6) || ((s == 8 || s == 9) && (d == 4 || d == 5)) || (s == 10 && (d == 8 || d == 9))

/-- Source group size of a conversion: max(1, G × sw ÷ dw); 0 when it exceeds 8 registers (R243, R262, R263). -/
def convGroup (g sw dw : Nat) : Nat := if g * sw / dw > 8 then 0 else max 1 (g * sw / dw)

/-- Registers of the FP32 group that goes with a quantised group, 0 when the group is not allowed (R264). -/
def wideGroup (fmt g : Nat) : Nat :=
  if fmt == 0 || fmt == 8 || fmt == 9 || fmt == 11 then (if g ≤ 2 then 4 * g else 0)
  else if fmt == 10 || fmt == 12 || fmt == 13 then (if g == 1 then 8 else 0) else 0

/-- The quantised group of a format (R80, R264). -/
def quantGroup (r fmt g : Nat) : Group := ⟨r, g, formatBits fmt, fmtShared fmt⟩

/-- The mask operand v0 (R229). -/
def maskOperand : Operand := ⟨maskAt 0#6, .any, false, 1, true⟩

/-- Shape of an instruction under its captured `vtype`; `l` is L. -/
def VInstr.shape (i : VInstr) (k : Capture) (l : Nat) : Shape :=
  let f := k.fmt
  let g := k.grp
  let eb := formatBits f
  let vx := match i.src with
    | .x _ => true
    | .f _ => true
    | _ => false
  let d : Group := ⟨i.vd.toNat, g, eb, false⟩
  let s2 (rel : Rel) : Operand := ⟨⟨i.vs2.toNat, g, eb, false⟩, rel, true, 1, true⟩
  let s1 (rel : Rel) : List Operand := match i.src with
    | .v r => [⟨⟨r.toNat, g, eb, false⟩, rel, true, 1, true⟩]
    | _ => []
  let acc : List Operand := [⟨d, .any, true, 1, true⟩]
  let mk : List Operand := if i.m then [maskOperand] else []
  let one : Group := ⟨i.vd.toNat, 1, eb, false⟩
  match i.op with
  | .int _ => { ok := fmtInt f, dst := d, ops := s2 .same :: s1 .same ++ mk }
  | .cmp _ => { ok := fmtInt f, dst := maskAt i.vd, ops := s2 .disjoint :: s1 .disjoint ++ mk, dtag := .zero }
  | .merge => { ok := fmtInt f, dst := d, ops := s2 .same :: s1 .same ++ mk, tags := if vx then .none else .equal, allActive := true }
  | .perm => { ok := fmtInt f, dst := d, ops := s2 .disjoint :: (s1 .disjoint).map (fun o => { o with data := false }) ++ mk
               tags := .none, barrier := true }
  | .slideup => { ok := fmtInt f, dst := d, ops := s2 .disjoint :: mk, tags := .none, barrier := true }
  | .slidedn => { ok := fmtInt f, dst := d, ops := s2 .disjoint :: mk, tags := .none, barrier := true }
  | .un .mv => { ok := fmtInt f, dst := d, ops := s2 .same :: mk, tags := .none }
  | .un .id => { ok := fmtInt f, dst := d, ops := mk, dtag := .zero }
  | .un _ => { ok := fmtInt f, dst := d, ops := s2 .same :: mk }
  | .ext _ => { ok := 1 ≤ f && f ≤ 3, dst := d, ops := ⟨⟨i.vs2.toNat, max 1 (g / 2), eb / 2, false⟩, .disjoint, true, 1, true⟩ :: mk }
  | .clip _ => { ok := f ≤ 2 && g ≤ 4, dst := d, ops := ⟨⟨i.vs2.toNat, 2 * g, 2 * eb, false⟩, .disjoint, true, 1, true⟩ :: mk }
  | .iota => { ok := fmtInt f, dst := d, ops := ⟨maskAt i.vs2, .disjoint, false, 1, true⟩ :: mk, dtag := .zero, barrier := true }
  | .compress => { ok := fmtInt f, dst := d, ops := s2 .disjoint :: mk, tags := .none, barrier := true }
  | .red _ => { ok := fmtInt f, dst := one, ops := s2 .any :: mk, dtag := .zero, barrier := true, always := true }
  | .mpopc => { ok := f == 2 || f == 3, dst := one, ops := ⟨maskAt i.vs2, .any, false, 1, true⟩ :: mk, dtag := .zero, barrier := true, always := true }
  | .mfirst => { ok := f == 2 || f == 3, dst := one, ops := ⟨maskAt i.vs2, .any, false, 1, true⟩ :: mk, dtag := .zero, barrier := true, always := true }
  | .fbin o =>
    let cx := (o == .add || o == .sub) && fmtComplex f && !vx
    { ok := fmtFloat f || cx, dst := d, ops := s2 .same :: s1 .same ++ mk, tags := if fmtComplex f then .spectral else .spatial }
  | .fma _ => { ok := fmtFloat f, dst := d, ops := s2 .same :: s1 .same ++ acc ++ mk }
  | .fcmp _ => { ok := fmtFloat f, dst := maskAt i.vd, ops := s2 .disjoint :: s1 .disjoint ++ mk, dtag := .zero }
  | .fmerge => { ok := fmtFloat f || (fmtComplex f && !vx), dst := d, ops := s2 .same :: s1 .same ++ mk, tags := if vx then .none else .equal, allActive := true }
  | .cmul a => { ok := fmtComplex f, dst := d, ops := s2 .same :: s1 .same ++ (if a then acc else []) ++ mk, tags := .spectral }
  | .fwmacc =>
    let wide : Group := ⟨i.vd.toNat, 2 * g, 2 * eb, false⟩
    { ok := 4 ≤ f && f ≤ 6 && g ≤ 4, dst := wide, ops := s2 .disjoint :: s1 .disjoint ++ [⟨wide, .any, true, 1, true⟩] ++ mk }
  | .cvt o t =>
    let sw := formatBits t.toNat
    let n := convGroup g sw eb
    let pair := match o with
      | .up => upPair t.toNat f
      | .dn => upPair f t.toNat && g ≤ 4
      | .fi => fmtInt f && fmtFloat t.toNat
      | .if_ => fmtFloat f && fmtInt t.toNat
    { ok := pair && n != 0, dst := d
      ops := ⟨⟨i.vs2.toNat, n, sw, false⟩, if sw == eb then .same else .disjoint, true, 1, true⟩ :: mk }
  | .quant =>
    let n := wideGroup f g
    let side : Operand := match i.src with
      | .v r => if fmtShared f then ⟨⟨r.toNat, 1, 32, false⟩, .disjoint, false, 16, false⟩ else ⟨⟨r.toNat, 1, 16, false⟩, .disjoint, true, k.blk, true⟩
      | _ => maskOperand
    { ok := n != 0 && (fmtShared f || k.vqcfg.extractLsb' 0 2 != 3#2) && (!(f == 12 || f == 13) || k.vl ≤ 256 * l)
      dst := quantGroup i.vd.toNat f g
      block := if fmtShared f then 16 else 1
      ops := ⟨⟨i.vs2.toNat, n, 32, false⟩, .disjoint, true, 1, true⟩ :: side :: mk }
  | .dequant =>
    let n := wideGroup f g
    let side : Operand := match i.src with
      | .v r => if fmtShared f then ⟨⟨r.toNat, 1, 32, false⟩, .disjoint, true, 16, true⟩ else ⟨⟨r.toNat, 1, 16, false⟩, .disjoint, true, k.blk, true⟩
      | _ => maskOperand
    { ok := n != 0 && (fmtShared f || k.vqcfg.extractLsb' 0 2 != 3#2) && (!(f == 12 || f == 13) || k.vl ≤ 256 * l)
      dst := ⟨i.vd.toNat, n, 32, false⟩
      ops := ⟨quantGroup i.vs2.toNat f g, .disjoint, true, 1, true⟩ :: side :: mk }
  | .bscale t =>
    { ok := (t == 0#4 || (8 ≤ t.toNat && t.toNat ≤ 10)) && ((f == 6 && g ≤ 2) || (f == 7 && g ≤ 4))
      dst := ⟨i.vd.toNat, 1, 16, false⟩, ops := s2 .disjoint :: mk, dtag := .zero }
  | .bscaleX t =>
    { ok := t == 0#6 || (8 ≤ t.toNat && t.toNat ≤ 10), dst := ⟨i.vd.toNat, 1, 16, false⟩, ops := [], dtag := .zero, barrier := true, always := true }
  | .bamax =>
    { ok := (f == 6 || f == 7) && k.vqcfg.extractLsb' 0 2 != 3#2, dst := one, ops := s2 .disjoint :: mk, dtag := .zero, barrier := true }
  | .spec o =>
    { ok := (4 ≤ f && f ≤ 6) || (f == 7 && (o == .sqrt || o == .recip)), dst := d, ops := s2 .same :: mk }
  | .fclass => { ok := fmtFloat f, dst := d, ops := s2 .same :: mk, dtag := .zero }
  | .fabs => { ok := fmtFloat f, dst := d, ops := s2 .same :: mk }
  | .fneg => { ok := fmtFloat f, dst := d, ops := s2 .same :: mk }
  | .conj => { ok := fmtComplex f, dst := d, ops := s2 .same :: mk, tags := .spectral }
  | .fred _ => { ok := fmtFloat f, dst := one, ops := s2 .any :: mk, dtag := .zero, barrier := true, always := true }
  | .purl inv cx =>
    let lc := (k.pblk.extractLsb' 0 4).toNat
    { ok := (if cx then fmtComplex f else f == 5 || f == 6) && lc ≤ 8 && k.vl % 2 ^ (lc + 4) == 0
      dst := if cx || inv then d else { d with eb := 2 * eb }
      ops := [s2 .same], tags := .none, block := 2 ^ (lc + 4) }
  | .retag =>
    let t := k.pblk.extractLsb' 8 6
    { ok := t.extractLsb' 4 2 == 0#2 || (t.extractLsb' 4 2 != 3#2 && (t.extractLsb' 0 4).toNat ≤ 8), dst := d, ops := [s2 .same], tags := .none
      barrier := true, always := true }
  | .tagclr => { ok := true, dst := d, ops := [s2 .same], tags := .none, barrier := true, always := true }

/-- Does an instruction check `frm`? Those of R248's table that round under it; of the reductions `vfredsum` alone, though R85
speaks of reductions in general. (DEDUCED, log entry 54.) -/
def VInstr.usesFrm (i : VInstr) : Bool :=
  match i.op with
  | .fbin o => o == .add || o == .sub || o == .mul || o == .div
  | .fma _ | .cmul _ | .fwmacc | .cvt _ _ => true
  | .fred o => o == .sum
  | _ => false

/-- Is it a transform? -/
def VInstr.transform (i : VInstr) : Bool :=
  match i.op with
  | .purl _ _ => true
  | _ => false

/-- The register that takes the headers of `vquant` into a shared-block format (R265). -/
def VInstr.headers (i : VInstr) (k : Capture) : Option Group :=
  match i.op, i.src with
  | .quant, .v r => if fmtShared k.fmt then some ⟨r.toNat, 1, 32, false⟩ else none
  | _, _ => none

/-- The m bit a word must hold: `vmerge` and `vcompress` need 1, VX `vbscale`, the transforms and the tag overrides 0, and with m = 1 the destination must not
be v0, at which alone an aligned group includes v0 (R231, R239, R259, R267, R325, R329). -/
def VInstr.maskOk (i : VInstr) : Bool :=
  match i.op with
  | .merge | .fmerge | .compress => i.m && i.vd != 0#6
  | .bscaleX _ | .purl _ _ | .retag | .tagclr => !i.m
  | _ => !(i.m && i.vd == 0#6)

end Sys2Proof.Machine
end

