-- ==== Sys2Proof/Machine/VecInt.lean ====
section
/-! DEFINITION. What the integer vector instructions compute, element by element and over whole groups
(14_vector_integer_instructions R237-R247). -/

namespace Sys2Proof.Machine
open Sys2Proof

/-- n clamped to the signed w-bit range, as an encoding; ss when it changes (R89 SatInt). -/
def satInt (w : Nat) (n : Int) : Rounded :=
  let hi : Int := 2 ^ (w - 1) - 1
  let lo : Int := -(2 ^ (w - 1))
  if n > hi then ⟨(BitVec.ofInt w hi).toNat, 0#5, qss⟩
  else if n < lo then ⟨(BitVec.ofInt w lo).toNat, 0#5, qss⟩
  else ⟨(BitVec.ofInt w n).toNat, 0#5, 0#12⟩

/-- n clamped to [0, 2^w − 1]; ss when it changes. -/
def satNat (w : Nat) (n : Int) : Rounded :=
  if n < 0 then ⟨0, 0#5, qss⟩
  else if n.toNat > 2 ^ w - 1 then ⟨2 ^ w - 1, 0#5, qss⟩
  else ⟨n.toNat, 0#5, 0#12⟩

/-- A bit pattern with no flag. -/
def plain (n : Nat) : Rounded := ⟨n, 0#5, 0#12⟩

/-- Op(a, b) on w-bit elements (R237). -/
def IntOp.apply (o : IntOp) (w x y : Nat) : Rounded :=
  let a := BitVec.ofNat w x
  let b := BitVec.ofNat w y
  let sh := y % w
  match o with
  | .add => plain (a + b).toNat
  | .sub => plain (a - b).toNat
  | .mul => plain (a * b).toNat
  | .mulh => plain (BitVec.ofInt w (a.toInt * b.toInt / 2 ^ w)).toNat
  | .mulhu => plain (x * y / 2 ^ w)
  | .div => plain (divS a b).toNat
  | .divu => plain (divU a b).toNat
  | .rem => plain (remS a b).toNat
  | .remu => plain (remU a b).toNat
  | .min => plain (if a.slt b then x else y)
  | .minu => plain (if x < y then x else y)
  | .max => plain (if a.slt b then y else x)
  | .maxu => plain (if x < y then y else x)
  | .and => plain (a &&& b).toNat
  | .or => plain (a ||| b).toNat
  | .xor => plain (a ^^^ b).toNat
  | .sll => plain (a <<< sh).toNat
  | .srl => plain (a >>> sh).toNat
  | .sra => plain (a.sshiftRight sh).toNat
  | .sadd => satInt w (a.toInt + b.toInt)
  | .saddu => satNat w ((x : Int) + y)
  | .ssub => satInt w (a.toInt - b.toInt)
  | .ssubu => satNat w ((x : Int) - y)

/-- A compare of w-bit elements (R238). -/
def CmpOp.holds (o : CmpOp) (w x y : Nat) : Bool :=
  let a := BitVec.ofNat w x
  let b := BitVec.ofNat w y
  match o with
  | .eq => a == b
  | .ne => a != b
  | .lt => a.slt b
  | .ltu => a.ult b
  | .le => a.sle b
  | .leu => a.ule b

/-- Leading zero bits of a w-bit element. -/
def leadingZeros (w x : Nat) : Nat := if x = 0 then w else w - 1 - x.log2

/-- Number of one bits among the low `w`. -/
def onesIn (w x : Nat) : Nat := ((List.range w).filter (fun k => x.testBit k)).length

/-- A unary operation on element `i` (R242). -/
def UnOp.apply (o : UnOp) (w i x : Nat) : Nat :=
  let a := BitVec.ofNat w x
  match o with
  | .mv => x
  | .id => i % 2 ^ w
  | .abs => (if a.slt 0#w then -a else a).toNat
  | .neg => (-a).toNat
  | .not => (~~~a).toNat
  | .clz => leadingZeros w x
  | .popcnt => onesIn w x

/-- Sign or zero extension from w ÷ 2 bits (R243). -/
def extendElt (signed : Bool) (w x : Nat) : Nat :=
  if signed then ((BitVec.ofNat (w / 2) x).signExtend w).toNat else x

/-- Narrowing from 2w bits with saturation (R243). -/
def clipElt (signed : Bool) (w x : Nat) : Rounded :=
  if signed then satInt w (BitVec.ofNat (2 * w) x).toInt else satNat w x

/-- What a lane-barrier instruction reads before it writes: elements of vs2 and vs1, and which are active. -/
structure WholeReader where
  vl : Nat
  vbeg : Nat
  a : Nat → Nat
  b : Nat → Nat
  active : Nat → Bool
  /-- Mask bit of v0. -/
  mask : Nat → Bool

/-- Elements that a whole-group instruction writes, with flags and sticky bits. -/
structure WholeOut where
  puts : List (Nat × Nat)
  flags : FFlags := 0#5
  q : QFlags := 0#12
  deriving DecidableEq, Repr

/-- Elements `vbeg` to `vl` − 1. -/
def WholeReader.range (r : WholeReader) : List Nat := (List.range (r.vl - r.vbeg)).map (r.vbeg + ·)

/-- The active ones. -/
def WholeReader.acts (r : WholeReader) : List Nat := r.range.filter r.active

/-- `vperm` (R240). -/
def permOut (r : WholeReader) : WholeOut := ⟨r.acts.map (fun i => (i, if r.b i < r.vl then r.a (r.b i) else 0)), 0#5, 0#12⟩

/-- `vslideup` by c (R241). -/
def slideupOut (c : Nat) (r : WholeReader) : WholeOut := ⟨(r.acts.filter (c ≤ ·)).map (fun i => (i, r.a (i - c))), 0#5, 0#12⟩

/-- `vslidedn` by c (R241). -/
def slidednOut (c : Nat) (r : WholeReader) : WholeOut := ⟨r.acts.map (fun i => (i, if i + c < r.vl then r.a (i + c) else 0)), 0#5, 0#12⟩

/-- Number of j < i with a property. -/
def countBelow (p : Nat → Bool) (i : Nat) : Nat := ((List.range i).filter p).length

/-- `viota` (R244): the count runs from element 0. -/
def iotaOut (w : Nat) (m : Bool) (r : WholeReader) : WholeOut :=
  ⟨r.acts.map (fun i => (i, countBelow (fun j => r.a j == 1 && (!m || r.mask j)) i % 2 ^ w)), 0#5, 0#12⟩

/-- Places selected elements at rising positions from k (R245). -/
def packFrom (r : WholeReader) : Nat → List Nat → List (Nat × Nat)
  | _, [] => []
  | k, i :: is => if r.mask i then (k, r.a i) :: packFrom r (k + 1) is else packFrom r k is

/-- `vcompress` (R245). -/
def compressOut (r : WholeReader) : WholeOut := ⟨packFrom r (countBelow r.mask r.vbeg) r.range, 0#5, 0#12⟩

/-- Result of an integer reduction when no element is active (R246). -/
def RedOp.empty (o : RedOp) (w : Nat) : Nat :=
  match o with
  | .sum => 0
  | .min => 2 ^ (w - 1) - 1
  | .minu => 2 ^ w - 1
  | .max => 2 ^ (w - 1)
  | .maxu => 0
  | .and => 2 ^ w - 1
  | .or => 0
  | .xor => 0

/-- The operation of an integer reduction (R246). -/
def RedOp.op (o : RedOp) : IntOp :=
  match o with
  | .sum => .add
  | .min => .min
  | .minu => .minu
  | .max => .max
  | .maxu => .maxu
  | .and => .and
  | .or => .or
  | .xor => .xor

/-- An integer reduction; its result does not depend on the tree's shape (R104, R246). -/
def redOut (o : RedOp) (w : Nat) (r : WholeReader) : WholeOut :=
  ⟨[(0, r.acts.foldl (fun t i => (o.op.apply w t (r.a i)).bits) (o.empty w))], 0#5, 0#12⟩

/-- `vmpopc` (R247). -/
def mpopcOut (r : WholeReader) : WholeOut := ⟨[(0, (r.acts.filter (fun i => r.a i == 1)).length)], 0#5, 0#12⟩

/-- `vmfirst` (R247). -/
def mfirstOut (w : Nat) (r : WholeReader) : WholeOut := ⟨[(0, ((r.acts.find? (fun i => r.a i == 1)).getD (2 ^ w - 1)))], 0#5, 0#12⟩

end Sys2Proof.Machine
end

