-- ==== Sys2Proof/Machine/VecFloat.lean ====
section
/-! DEFINITION. What the floating-point, complex, conversion and special-function vector instructions compute
(15_vector_float_instructions R250, R255-R263, R268-R272; R98-R100, R104). -/

namespace Sys2Proof.Machine
open Sys2Proof

/-- The floating-point format of a code; FP32 for codes that name none, which no caller passes. -/
def ffmt (code : Nat) : FFormat := (floatFormat code).getD fp32

/-- Format of the parts of a complex element (R98). -/
def partFmt (code : Nat) : FFormat := if code == 14 then bf16 else fp32

/-- The scalar operand of a VX form with cls 1 (R250): f[rs1] rounded to the format, no flags. -/
def scalarElt (code : Nat) (w : Word) : Nat := ((ffmt code).round .rne .ieee (fp64.value w.toNat)).bits

/-- Do two parts make an element: real part low (R98)? -/
def joinParts (pw re im : Nat) : Nat := re + im * 2 ^ pw

/-- One floating-point operation on a whole element (R255, R256). -/
def FBin.real (o : FBin) (f : FFormat) (rm : Rm) (x y : Nat) : Rounded :=
  let sign (s : Bool) : Rounded := plain (x % 2 ^ (f.ew + f.fw) + f.signCode s)
  let sx := x.testBit (f.ew + f.fw)
  let sy := y.testBit (f.ew + f.fw)
  let pick (larger : Bool) : Rounded :=
    if (f.value x).isNan || (f.value y).isNan then ⟨f.nanCode, (f.value x).snan ||| (f.value y).snan, 0#12⟩ else f.pick larger x y
  match o with
  | .add => f.add rm x y
  | .sub => f.sub rm x y
  | .mul => f.mul rm x y
  | .div => f.div rm x y
  | .min => pick false
  | .max => pick true
  | .sgnj => sign sy
  | .sgnjn => sign !sy
  | .sgnjx => sign (sx != sy)

/-- The operation on an element of a format: complex elements part by part (R98, R255). -/
def FBin.apply (o : FBin) (code : Nat) (rm : Rm) (x y : Nat) : Rounded :=
  if fmtComplex code then
    let f := partFmt code
    let m := 2 ^ f.width
    let re := o.real f rm (x % m) (y % m)
    let im := o.real f rm (x / m) (y / m)
    ⟨joinParts f.width re.bits im.bits, re.flags ||| im.flags, re.q ||| im.q⟩
  else o.real (ffmt code) rm x y

/-- A fused form: one rounding of ±(a × b) ± c (R257). -/
def FMa.apply (o : FMa) (f : FFormat) (rm : Rm) (x y z : Nat) : Rounded :=
  let a := f.value x
  let c := f.value z
  let (a, c) := match o with
    | .macc => (a, c)
    | .nmacc => (a.negate, c.negate)
    | .msac => (a, c.negate)
    | .nmsac => (a.negate, c)
  f.deliver rm .ieee (fmaExact rm a (f.value y) c)

/-- A compare, as a mask bit with its flag (R258). -/
def FCmp.apply (o : FCmp) (f : FFormat) (x y : Nat) : Rounded :=
  let a := f.value x
  let b := f.value y
  let nan := a.isNan || b.isNan
  let bit (p : Bool) (fl : FFlags) : Rounded := ⟨if p then 1 else 0, fl, 0#12⟩
  let quiet := a.snan ||| b.snan
  match o with
  | .eq => bit (!nan && a.eqv b) quiet
  | .ne => bit (nan || !a.eqv b) quiet
  | .lt => bit (!nan && a.lt b) (if nan then nv else 0#5)
  | .le => bit (!nan && a.le b) (if nan then nv else 0#5)
  | .un => bit nan quiet

/-- The exact sum of products and an addend, each product's own flags kept (R98). -/
def sumProducts (rm : Rm) (ps : List Exact) (c : List Val) : Exact :=
  let r := sumExact rm (ps.map (·.val) ++ c)
  ⟨r.val, ps.foldl (fun a p => a ||| p.flags) r.flags⟩

/-- The two parts of a complex product, or of a slot-0 pair of real bins, exact (R98, R260). -/
def complexTerms (pair : Bool) (ar ai br bi : Val) : List Exact × List Exact :=
  if pair then ([mulExact ar br], [mulExact ai bi])
  else ([mulExact ar br, mulExact ai.negate bi], [mulExact ar bi, mulExact ai br])

/-- `vcmul` and `vcmac` on one element; `pair` at a half-spectrum slot 0 (R260). -/
def cmulElt (code : Nat) (rm : Rm) (pair acc : Bool) (x y z : Nat) : Rounded :=
  let f := partFmt code
  let m := 2 ^ f.width
  let v (w : Nat) : Val := f.value (w % m)
  let (re, im) := complexTerms pair (v x) (v (x / m)) (v y) (v (y / m))
  let r := f.deliver rm .ieee (sumProducts rm re (if acc then [v z] else []))
  let t := f.deliver rm .ieee (sumProducts rm im (if acc then [v (z / m)] else []))
  ⟨joinParts f.width r.bits t.bits, r.flags ||| t.flags, r.q ||| t.q⟩

/-- Is element `i` of a half-spectrum its slot 0 (R260)? -/
def slotZero (tag : BitVec 6) (i : Nat) : Bool :=
  tag.extractLsb' 4 2 == 1#2 && i % 2 ^ ((tag.extractLsb' 0 4).toNat + 3) == 0

/-- `vfwmacc` on one element (R261): source format, then the wide one. -/
def fwmaccElt (code : Nat) (rm : Rm) (x y z : Nat) : Rounded :=
  let f := ffmt code
  let wide := if code == 6 then fp64 else fp32
  wide.deliver rm .ieee (fmaExact rm (f.value x) (f.value y) (wide.value z))

/-- A width conversion (R99, R262): under SAT where `vqcfg` says so for FP8 and FP4, nan0 as in Quant. -/
def convertElt (src dst : Nat) (rm : Rm) (vq : BitVec 6) (x : Nat) : Rounded :=
  let v := (ffmt src).value x
  let small := 8 ≤ dst && dst ≤ 10
  let r : Rounded :=
    if v.isNan && vq.getLsbD 5 && small then ⟨0, 0#5, qsn⟩
    else (ffmt dst).round rm (if small && vq.getLsbD 4 then .sat else .ieee) v
  { r with flags := r.flags ||| v.snan }

/-- Floating point to a signed integer of `w` bits (R100). -/
def toIntElt (src w : Nat) (rm : Rm) (x : Nat) : Rounded :=
  let hi : Int := 2 ^ (w - 1) - 1
  let r := toIntSat rm (-(2 ^ (w - 1))) hi hi ((ffmt src).value x)
  ⟨(BitVec.ofInt w r.1).toNat, r.2, 0#12⟩

/-- A signed integer of `w` bits to floating point (R100). -/
def ofIntElt (w dst : Nat) (rm : Rm) (x : Nat) : Rounded := (ffmt dst).round rm .ieee (Val.ofInt (BitVec.ofNat w x).toInt)

/-- A conversion between the format code `t` and `vtype`'s (R262, R263). -/
def CvtOp.apply (o : CvtOp) (t code : Nat) (rm : Rm) (vq : BitVec 6) (x : Nat) : Rounded :=
  match o with
  | .up => convertElt t code rm vq x
  | .dn => convertElt t code rm vq x
  | .fi => toIntElt t (formatBits code) rm x
  | .if_ => ofIntElt (formatBits t) code rm x

/-- A special function of an element (R269). -/
def SpecOp.apply (o : SpecOp) (f : FFormat) (x : Nat) : Rounded :=
  let v := f.value x
  match o with
  | .sqrt => f.sqrtVal .rne v
  | .recip => f.recip v
  | .rsqrt => f.rsqrt v
  | .exp2 => f.exp2 v
  | .log2 => f.log2 v
  | .tanh => f.tanh v
  | .silu => f.silu v
  | .gelu => f.gelu v
  | .sin => f.sin v
  | .cos => f.cos v

/-- `vconj`: the imaginary sign inverted, but for slot 0 (R271). -/
def conjElt (code : Nat) (pair : Bool) (x : Nat) : Nat :=
  if pair then x else (BitVec.ofNat (formatBits code) x ^^^ BitVec.ofNat (formatBits code) (2 ^ (formatBits code - 1))).toNat

/-! ## Reductions (R104, R272) -/

/-- A node of the tree: an absent operand passes its partner through. -/
def meetElts (op : Nat → Nat → Rounded) (x y : Option Nat) (fl : FFlags) : Option Nat × FFlags :=
  match x, y with
  | some a, some b => (some (op a b).bits, fl ||| (op a b).flags)
  | some a, none => (some a, fl)
  | none, y => (y, fl)

/-- One level of the tree. -/
def treeLevel (op : Nat → Nat → Rounded) : List (Option Nat) → FFlags → List (Option Nat) × FFlags
  | x :: y :: t, fl =>
    let r := meetElts op x y fl
    let u := treeLevel op t r.2
    (r.1 :: u.1, u.2)
  | t, fl => (t, fl)

/-- ReduceTree (R104): levels until one element is left; sixteen levels cover every vector length. -/
def reduceTree (op : Nat → Nat → Rounded) : Nat → List (Option Nat) → FFlags → Option Nat × FFlags
  | 0, t, fl => (t.headD none, fl)
  | n + 1, t, fl =>
    let r := treeLevel op t fl
    reduceTree op n r.1 r.2

/-- Empty result of a reduction (R272). -/
def FRed.empty (o : FRed) (f : FFormat) : Nat :=
  match o with
  | .sum => 0
  | .max => f.signCode true + f.infCode
  | .min => f.infCode
  | .amax => 0

/-- The operation at a node (R272). -/
def FRed.op (o : FRed) : FBin :=
  match o with
  | .sum => .add
  | .max => .max
  | .min => .min
  | .amax => .max

/-- A floating-point reduction (R272): a NaN result is the default NaN, and a present signalling NaN raises NV (R104). -/
def fredOut (o : FRed) (code : Nat) (rm : Rm) (r : WholeReader) : WholeOut :=
  let f := ffmt code
  let x (i : Nat) : Nat := if o == .amax then r.a i % 2 ^ (f.ew + f.fw) else r.a i
  let xs : List (Option Nat) := (List.range r.vl).map (fun i => if r.vbeg ≤ i && r.active i then some (x i) else none)
  let sn := r.acts.foldl (fun a i => a ||| (f.value (r.a i)).snan) 0#5
  let t := reduceTree (o.op.real f rm) 16 xs sn
  let v := t.1.getD (o.empty f)
  let anyNan := o != .sum && r.acts.any (fun i => (f.value (r.a i)).isNan)
  ⟨[(0, if anyNan || (f.value v).isNan then f.nanCode else v)], t.2, 0#12⟩

/-- The largest magnitude among present elements: the default NaN beside a NaN, +0 when none is present (R268). -/
def blockMax (f : FFormat) (xs : List Nat) : Nat :=
  if xs.any (fun x => (f.value x).isNan) then f.nanCode
  else xs.foldl (fun m x => max m (x % 2 ^ (f.ew + f.fw))) 0

/-- `vbamax` (R268): block k of `blk` elements to element k. -/
def bamaxOut (code blk : Nat) (r : WholeReader) : WholeOut :=
  let f := ffmt code
  let n := (r.vl + blk - 1) / blk
  let present (k : Nat) : List Nat :=
    ((List.range (min blk (r.vl - k * blk))).map (k * blk + ·)).filter (fun i => r.vbeg ≤ i && r.active i)
  if r.vbeg ≥ r.vl then ⟨[], 0#5, 0#12⟩
  else ⟨(List.range n).map (fun k => (k, blockMax f ((present k).map r.a))),
        r.acts.foldl (fun a i => a ||| (f.value (r.a i)).snan) 0#5, 0#12⟩

end Sys2Proof.Machine
end

