-- ==== Sys2Proof/Machine/Quant.lean ====
section
/-! DEFINITION. Block scales, quantisation, dequantisation and the shared-block formats (05_number_formats R90-R96;
15_vector_float_instructions R264-R267). -/

namespace Sys2Proof.Machine
open Sys2Proof

/-- Exponent of a target's largest binade (R92). -/
def emaxOf (tf : Nat) : Int := if tf == 8 then 8 else if tf == 9 then 15 else if tf == 10 then 2 else 6

/-- ScaleCode (R92); a negative amax counts as its magnitude (R267). -/
def scaleCode (tf : Nat) : Val → Rounded
  | .nan _ => plain 1023
  | .inf _ => ⟨1022, 0#5, qsi⟩
  | .fin _ 0 _ => plain 0
  | .fin _ m e =>
    let c := (m.log2 : Int) + e - emaxOf tf + 511
    if c < 0 then ⟨0, 0#5, qsu⟩ else if c > 1022 then ⟨1022, 0#5, qss⟩ else plain c.toNat

/-- A value times a power of two. -/
def Val.scale (v : Val) (k : Int) : Val :=
  match v with
  | .fin s m e => .fin s m (e + k)
  | v => v

/-- Quant (R93) of an FP32 encoding against scale code `c`; it raises sticky bits only (R88). -/
def quantElt (tf : Nat) (vq : BitVec 6) (c x : Nat) : Rounded :=
  let rm : Rm := if vq.getLsbD 3 then .rtz else .rne
  let v : Val := if c = 1023 then .nan false else (fp32.value x).scale (511 - (c : Int))
  if v.isNan && vq.getLsbD 5 then ⟨0, 0#5, qsn⟩
  else if tf == 0 then
    match v with
    | .nan _ => ⟨0, 0#5, qsn⟩
    | .inf s => satInt 8 (if s then -1000 else 1000)
    | v => satInt 8 (roundInt rm v).1
  else { (ffmt tf).round rm (if vq.getLsbD 4 then .sat else .ieee) v with flags := 0#5 }

/-- Value of an element that quantisation makes: INT8 or a floating-point code. -/
def codeValue (tf x : Nat) : Val := if tf == 0 then Val.ofInt (BitVec.ofNat 8 x).toInt else (ffmt tf).value x

/-- Dequant (R93) to FP32; NV and DZ never accrue, nor a sticky bit (R266). -/
def dequantElt (tf c x : Nat) : Rounded :=
  if c = 1023 then plain fp32.nanCode
  else { fp32.round .rne .ieee ((codeValue tf x).scale ((c : Int) - 511)) with q := 0#12 }

/-! ## Shared blocks (R94-R96) -/

/-- Magnitude bits of an element: 7, 4 or 2 (R94). -/
def magBits (code : Nat) : Nat := formatBits code - 1

/-- Value of element `i` of a block (R95). -/
def sharedValue (code header i x : Nat) : Val :=
  let m := magBits code
  let e := header % 1024
  if e = 1023 then .nan false
  else
    let mu := if header.testBit (10 + i / 2) then 1 else 0
    .fin (x.testBit m) (x % 2 ^ m) ((e : Int) - 511 - mu - (m - 1))

/-- Is |v| below 2^k? -/
def belowPow (v : Val) (k : Int) : Bool :=
  match v with
  | .fin _ m e => m = 0 || (m.log2 : Int) + e < k
  | _ => false

/-- SBEncode (R96): header, the sixteen elements, sticky bits. -/
def sharedEncode (code : Nat) (xs : List Nat) : Nat × List Nat × QFlags :=
  let m := magBits code
  let vs := xs.map fp32.value
  let sn := vs.any Val.isNan
  let vs := vs.map (fun v => if v.isNan then .fin false 0 0 else v)
  let infinite := vs.any (fun v => v == .inf true || v == .inf false)
  let top : Int := (vs.map (fun v => match v with
    | .fin _ n e => if n = 0 then -1000 else (n.log2 : Int) + e
    | _ => -1000)).foldl max (-1000)
  let e : Nat := if infinite then 638 else if vs.all Val.isZero then 0 else (top + 511).toNat
  let small (v : Val) : Bool := belowPow v ((e : Int) - 512)
  let mu (p : Nat) : Bool := e > 0 && small (vs.getD (2 * p) (.fin false 0 0)) && small (vs.getD (2 * p + 1) (.fin false 0 0))
  let header := e + ((List.range 8).map (fun p => if mu p then 2 ^ (10 + p) else 0)).foldl (· + ·) 0
  let elt (i : Nat) : Nat :=
    let v := vs.getD i (.fin false 0 0)
    let q := match v with
      | .fin _ n x => min (roundInt .rne (.fin false n (x + ((m : Int) - 1 - e + 511 + (if mu (i / 2) then 1 else 0))))).1.toNat (2 ^ m - 1)
      | _ => 2 ^ m - 1
    q + (if v.neg then 2 ^ m else 0)
  (header, (List.range 16).map elt, (if sn then qsn else 0#12) ||| (if infinite then qss else 0#12))

end Sys2Proof.Machine
end

