-- ==== Sys2Proof/Machine/Purl.lean ====
section
/-! DEFINITION. The transforms of the purl unit on one block (R107, R108, R326, R327). -/

namespace Sys2Proof.Machine
open Sys2Proof

/-- RoundFP32(x, RNE) of x ÷ 2^prec, which is never exact. -/
def roundTrig (neg : Bool) (x : Nat) : Nat := (fp32.roundReal neg x prec 0).bits

/-- Tw(k) of a length-m transform, 0 ≤ k < m ÷ 2: cos and −sin of 2πk ÷ m, each rounded; an exact zero is +0 (R326). -/
def twiddle (k m : Nat) : Nat × Nat :=
  if 4 * k < m then
    if k = 0 then (fp32.one false, 0)
    else
      let x := piFix prec * 2 * k / m
      (roundTrig false (cosFix prec x), roundTrig true (sinFix prec x))
  else if 4 * k = m then (0, fp32.one true)
  else
    let x := piFix prec * (4 * k - m) / (2 * m)
    (roundTrig true (sinFix prec x), roundTrig true (cosFix prec x))

/-- A complex number with FP32 parts. -/
abbrev Cx := Nat × Nat

/-- Sum with each part rounded. -/
def Cx.add (a c : Cx) : Cx := ((fp32.add .rne a.1 c.1).bits, (fp32.add .rne a.2 c.2).bits)
/-- Difference with each part rounded. -/
def Cx.sub (a c : Cx) : Cx := ((fp32.sub .rne a.1 c.1).bits, (fp32.sub .rne a.2 c.2).bits)
/-- Product with each part rounded once (R98). -/
def Cx.mul (d w : Cx) : Cx :=
  let v (x : Nat) : Val := fp32.value x
  let t := complexTerms false (v d.1) (v d.2) (v w.1) (v w.2)
  ((fp32.deliver .rne .ieee (sumProducts .rne t.1 [])).bits, (fp32.deliver .rne .ieee (sumProducts .rne t.2 [])).bits)

/-- The sign of an FP32 encoding reversed. -/
def negate32 (x : Nat) : Nat := if x < 2 ^ 31 then x + 2 ^ 31 else x - 2 ^ 31

/-- The twiddle of a transform or, conjugated, of an inverse (R326). -/
def twiddleOf (inverse : Bool) (k m : Nat) : Cx :=
  let w := twiddle k m
  if inverse then (w.1, negate32 w.2) else w

/-- Two lists, element by element in turn. -/
def interleave : List Cx → List Cx → List Cx
  | a :: as, b :: bs => a :: b :: interleave as bs
  | _, _ => []

/-- DIF of 2^n values without the final scaling: the first stage's sums give the even bins, its twisted differences the
odd ones, which is the bit-reversed order of R326. -/
def dif (inverse : Bool) : Nat → List Cx → List Cx
  | 0, xs => xs
  | n + 1, xs =>
    let h := 2 ^ n
    let lo := xs.take h
    let hi := xs.drop h
    let sums := List.zipWith Cx.add lo hi
    let diffs := ((List.zipWith Cx.sub lo hi).zipIdx).map (fun d => Cx.mul d.1 (twiddleOf inverse d.2 (2 * h)))
    interleave (dif inverse n sums) (dif inverse n diffs)

/-- DIF with the scaling of an inverse (R326). -/
def transform (inverse : Bool) (n : Nat) (xs : List Cx) : List Cx :=
  let ys := dif inverse n xs
  let part (x : Nat) : Nat := (fp32.round .rne .ieee ((fp32.value x).scale (-(n : Int)))).bits
  if inverse then ys.map (fun y => (part y.1, part y.2)) else ys

/-- A part as FP32: BF16 converts exactly. -/
def widenPart (narrow : Bool) (x : Nat) : Nat := if narrow then x * 2 ^ 16 else x
/-- An FP32 part as delivered: BF16 is rounded once (R326). -/
def deliverPart (narrow : Bool) (x : Nat) : Nat := if narrow then (bf16.round .rne .ieee (fp32.value x)).bits else x

/-- A block's elements through one of the four transforms (R327): `n` is log2 b; parts are BF16 when `narrow`. Real blocks
go to half-spectra of complex elements and back; complex blocks to complex blocks. -/
def purlBlock (inverse complex narrow : Bool) (n : Nat) (xs : List Nat) : List Nat :=
  let pw := if narrow then 16 else 32
  let split (x : Nat) : Cx := (widenPart narrow (x % 2 ^ pw), widenPart narrow (x / 2 ^ pw))
  let join (z : Cx) : Nat := joinParts pw (deliverPart narrow z.1) (deliverPart narrow z.2)
  let half := 2 ^ (n - 1)
  if complex then (transform inverse n (xs.map split)).map join
  else if inverse then
    let s := xs.map split
    let s0 := s.headD (0, 0)
    let up := (s.drop 1)
    let down := (up.map (fun z => (z.1, negate32 z.2))).reverse
    (transform true n ((s0.1, 0) :: up ++ (s0.2, 0) :: down)).map (fun z => deliverPart narrow z.1)
  else
    let x := transform false n (xs.map (fun r => (widenPart narrow r, 0)))
    let x0 := x.headD (0, 0)
    let mid := x.getD half (0, 0)
    join (x0.1, mid.1) :: ((x.take half).drop 1).map join

end Sys2Proof.Machine
end

