-- ==== Sys2Proof/Machine/VecRun.lean ====
section
/-! DEFINITION. Running vector arithmetic: the checks at issue, the inline queue, one run over elements with its precise
stops, and completion (R16, R28, R38, R226-R235, R249-R253, R265, R324-R329, R355, R358, R382). -/

namespace Sys2Proof.Machine
open Sys2Proof

/-! ## What a run writes -/

/-- Sources of a run, read before it writes. -/
structure VReader where
  vl : Nat
  vbeg : Nat
  a : Nat → Nat
  /-- vs2 as elements of twice the width (R327). -/
  aa : Nat → Nat
  b : Nat → Nat
  z : Nat → Nat
  active : Nat → Bool
  mask : Nat → Bool
  tag2 : BitVec 6

/-- Scalar operand of a VX form: wrapped to the width, or rounded to the format with sign forms taking bit 63 (R236, R250, R256). -/
def VInstr.scalarElt (i : VInstr) (k : Capture) : Nat :=
  let eb := formatBits k.fmt
  match i.src, i.op with
  | .f _, .fbin .sgnj => if k.scalar.msb then 2 ^ (eb - 1) else 0
  | .f _, .fbin .sgnjn => if k.scalar.msb then 2 ^ (eb - 1) else 0
  | .f _, .fbin .sgnjx => if k.scalar.msb then 2 ^ (eb - 1) else 0
  | .f _, _ => Machine.scalarElt k.fmt k.scalar
  | _, _ => k.scalar.toNat % 2 ^ eb

/-- Result of element `j` of an element-wise instruction. -/
def VInstr.elt (i : VInstr) (k : Capture) (r : VReader) (j : Nat) : Rounded :=
  let eb := formatBits k.fmt
  let rm := (rmOf k.frm).getD .rne
  let f := ffmt k.fmt
  let x := r.a j
  let y := r.b j
  match i.op with
  | .int o => o.apply eb x y
  | .cmp o => plain (if o.holds eb x y then 1 else 0)
  | .merge | .fmerge => plain (if r.mask j then y else x)
  | .un o => plain (o.apply eb j x)
  | .ext sg => plain (extendElt sg eb x)
  | .clip sg => clipElt sg eb x
  | .fbin o => o.apply k.fmt rm x y
  | .fma o => o.apply f rm x y (r.z j)
  | .fcmp o => o.apply f x y
  | .cmul acc => cmulElt k.fmt rm (slotZero r.tag2 j) acc x y (r.z j)
  | .fwmacc => fwmaccElt k.fmt rm x y (r.z j)
  | .cvt o t => o.apply t.toNat k.fmt rm k.vqcfg x
  | .quant => quantElt k.fmt k.vqcfg (y % 1024) x
  | .dequant =>
    if fmtShared k.fmt then { fp32.round .rne .ieee (sharedValue k.fmt y (j % 16) x) with q := 0#12 }
    else dequantElt k.fmt (y % 1024) x
  | .bscale t => scaleCode t.toNat (f.value x)
  | .spec o => o.apply f x
  | .fclass => plain (f.classify x)
  | .fabs => plain (x % 2 ^ (f.ew + f.fw))
  | .fneg => plain (x % 2 ^ (f.ew + f.fw) + f.signCode (!x.testBit (f.ew + f.fw)))
  | .conj => plain (conjElt k.fmt (slotZero r.tag2 j) x)
  | _ => plain 0

/-- Elements a run writes: to the destination, to `vquant`'s headers, with flags and sticky bits. -/
structure VOut where
  puts : List (Nat × Nat) := []
  side : List (Nat × Nat) := []
  flags : FFlags := 0#5
  q : QFlags := 0#12
  deriving DecidableEq, Repr

/-- The whole-group instructions of the integer chapter read as `VecInt` says. -/
def VReader.whole (r : VReader) : WholeReader := ⟨r.vl, r.vbeg, r.a, r.b, r.active, r.mask⟩

/-- What a whole-group instruction writes. -/
def WholeOut.out (o : WholeOut) : VOut := ⟨o.puts, [], o.flags, o.q⟩

/-- Block `q` of `vquant` into a shared-block format (R265). -/
def sharedBlock (code : Nat) (r : VReader) (q : Nat) : VOut :=
  let e := sharedEncode code ((List.range 16).map (fun j => if 16 * q + j < r.vl then r.a (16 * q + j) else 0))
  ⟨e.2.1.zipIdx.map (fun p => (16 * q + p.2, p.1)), [(q, e.1)], 0#5, e.2.2⟩

/-- Block `q` of a transform (R327). -/
def purlOut (inverse complex : Bool) (k : Capture) (r : VReader) (q : Nat) : VOut :=
  let n := (k.pblk.extractLsb' 0 4).toNat + 4
  let b := 2 ^ n
  let half := b / 2
  let xs := if inverse && !complex then (List.range half).map (fun j => r.aa (q * half + j)) else (List.range b).map (fun j => r.a (q * b + j))
  let ys := purlBlock inverse complex (k.fmt == 5 || k.fmt == 14) n xs
  let base := if inverse || complex then q * b else q * half
  ⟨ys.zipIdx.map (fun p => (base + p.2, p.1)), [], 0#5, 0#12⟩

/-- Joins what two blocks write. -/
def VOut.append (a b : VOut) : VOut := ⟨a.puts ++ b.puts, a.side ++ b.side, a.flags ||| b.flags, a.q ||| b.q⟩

/-- Everything a run over elements [lo, hi) writes. -/
def VInstr.produce (i : VInstr) (k : Capture) (all : Bool) (r : VReader) (lo hi : Nat) : VOut :=
  let eb := formatBits k.fmt
  let rm := (rmOf k.frm).getD .rne
  let blocks (b : Nat) (f : Nat → VOut) : VOut := ((List.range ((hi + b - 1) / b - lo / b)).map (fun n => f (lo / b + n))).foldl VOut.append {}
  match i.op with
  | .perm => (permOut r.whole).out
  | .slideup => (slideupOut k.scalar.toNat r.whole).out
  | .slidedn => (slidednOut k.scalar.toNat r.whole).out
  | .iota => (iotaOut eb i.m r.whole).out
  | .compress => (compressOut r.whole).out
  | .red o => (redOut o eb r.whole).out
  | .mpopc => (mpopcOut r.whole).out
  | .mfirst => (mfirstOut eb r.whole).out
  | .fred o => (fredOut o k.fmt rm r.whole).out
  | .bamax => (bamaxOut k.fmt k.blk r.whole).out
  | .bscaleX t => let s := scaleCode t.toNat (fp64.value k.scalar.toNat); ⟨[(0, s.bits)], [], 0#5, s.q⟩
  | .purl inv cx => blocks (2 ^ ((k.pblk.extractLsb' 0 4).toNat + 4)) (purlOut inv cx k r)
  | _ =>
    if i.op == .quant && fmtShared k.fmt then blocks 16 (sharedBlock k.fmt r)
    else
      let es := (((List.range (hi - lo)).map (lo + ·)).filter (fun j => all || r.active j)).map (fun j => (j, i.elt k r j))
      ⟨es.map (fun e => (e.1, e.2.bits)), [], es.foldl (fun a e => a ||| e.2.flags) 0#5, es.foldl (fun a e => a ||| e.2.q) 0#12⟩

/-! ## Checks at issue (R198 order 5) -/

/-- The checks that the word, the captured `vtype` and the captured controls decide, before readiness; R231's comes first (DEDUCED, log
entry 28). -/
def VInstr.checkIssue (i : VInstr) (k : Capture) (l : Nat) (s : State) : Option Act :=
  let sh := i.shape k l
  let ill : Act := .trap 0x01#8 (s.ir.setWidth 64) 0#64
  let wrongRel := sh.ops.any (fun o => o.rel != .any && !o.rel.allows sh.dst o.g)
  let pairwise : Bool := match i.op, sh.ops with
    | .quant, a :: b :: _ => a.g.disjoint b.g
    | .dequant, a :: b :: _ => a.g.disjoint b.g
    | _, _ => true
  if !i.maskOk then some ill
  else if !sh.ok then some (.trap 0x02#8 (s.ir.setWidth 64) (k.vtype.setWidth 64))
  else if !sh.dst.aligned || sh.ops.any (fun o => !o.g.aligned) || wrongRel || !pairwise then some ill
  else if i.op == .quant && fmtShared k.fmt && i.m then some ill
  else if i.usesFrm && (rmOf k.frm).isNone then some ill
  else none

/-- Sources of an instruction with the wait bit that covers them (R31, R234). -/
def VInstr.sources (i : VInstr) (sh : Shape) (c : Ctx) : List Src :=
  (match i.src with
    | .x r => [.x r i.w]
    | .f r => [.f r i.w]
    | _ => []) ++ (sh.ops.filter (·.read)).map (fun o => c.groupSrc o.g i.w)

/-- What an instruction captures now (R226, R249). -/
def VInstr.capture (i : VInstr) (c : Ctx) : Capture :=
  { vl := c.strip.vl.toNat, vbeg := c.vbeg.toNat, vtype := c.strip.vtype, frm := c.frm, vqcfg := c.vqcfg.setWidth 6, pblk := c.pblk
    scalar := match i.src with
      | .x r => c.getX r
      | .f r => c.getF r
      | _ => 0#64 }

/-! ## One run -/

/-- Tag rule of a transform: spatial in, or exactly the spectrum that `pblk` names; with a non-zero start in place, also
what it produces (R323, R328). -/
def VInstr.purlTag (i : VInstr) (k : Capture) (c : Ctx) (g : Group) : Option (BitVec 8 × Word × Word) :=
  let lc := k.pblk.extractLsb' 0 4
  match i.op with
  | .purl inv cx =>
    let spec : BitVec 6 := (if cx then 2#2 else 1#2) ++ lc
    let out : BitVec 6 := if inv then 0#6 else spec
    let resume (t : BitVec 6) : Bool := k.vbeg != 0 && i.vd == i.vs2 && t == out
    let good (t : BitVec 6) : Bool := (if inv then t == spec else t.extractLsb' 4 2 == 0#2) || resume t
    ((c.tagRegs g).find? (fun r => !good (c.tagAt k.tags r))).map (fun r => tagFault (c.tagAt k.tags r) r (if inv then spec.toNat else 0))
  | _ => none

/-- Tag that an instruction gives its destination. -/
def VInstr.outTag (i : VInstr) (k : Capture) (sh : Shape) (c : Ctx) : BitVec 6 :=
  match i.op with
  | .purl inv cx => if inv then 0#6 else (if cx then 2#2 else 1#2) ++ k.pblk.extractLsb' 0 4
  | .retag => k.pblk.extractLsb' 8 6
  | .tagclr => 0#6
  | _ => match sh.dtag with
    | .zero => 0#6
    | .vs2 => c.tagAt k.tags i.vs2.toNat

/-- Words of operand `o` that element `j` reads: a `pinv` reads complex elements (R327). -/
def VInstr.wordsOf (i : VInstr) (ls : List Nat) (o : Operand) (j : Nat) : List Nat :=
  match i.op with
  | .purl true false => Group.words ls { o.g with eb := 2 * o.g.eb } (j / 2)
  | _ => o.g.words ls (j / o.div)

/-- Every word of a register group. -/
def Group.allWords (g : Group) : List Nat := (List.range (g.n * 512)).map (g.r * 512 + ·)

/-- The first source element that an instruction reads: the whole-group moves and counts read every one, from element 0 (R234, R244,
R245); any other starts at `vbeg` (R230). -/
def VInstr.readsFrom (i : VInstr) (k : Capture) : Nat :=
  match i.op with
  | .perm | .slideup | .slidedn | .iota | .compress => 0
  | _ => k.vbeg

/-- The first element at which uncorrectable data that it reads stops a run, with its register; a lane-barrier instruction reads all it
reads before it writes (R139, R234). -/
def VInstr.firstBad (i : VInstr) (k : Capture) (sh : Shape) (c : Ctx) (ls : List Nat) (bad : Sparse Unit) : Option (Nat × Nat) :=
  if bad = [] then none
  else
    let reads := sh.ops.filter (fun o => o.read && (c.stream o.g.r).isNone)
    let narrow (j : Nat) : List Nat := if sh.dst.eb < 32 && (c.stream sh.dst.r).isNone && !sh.barrier then sh.dst.words ls j else []
    let on (j : Nat) : Bool := !i.m || sh.allActive || c.maskBit ls 0 j
    let at_ (j : Nat) : Option Nat :=
      match badAmong bad (if i.m then (maskAt 0#6).words ls j else []) with
      | some r => some r
      | none => if on j then badAmong bad (reads.flatMap (fun o => i.wordsOf ls o j) ++ narrow j) else none
    match i.op with
    | .retag | .tagclr => (badAmong bad (reads.flatMap (·.g.allWords))).map (fun r => (0, r))
    | .bscaleX _ => (badAmong bad (sh.dst.words ls 0)).map (fun r => (0, r))
    | _ =>
      if sh.barrier then
        let from_ := i.readsFrom k
        (badAmong bad (((List.range (k.vl - from_)).map (from_ + ·)).flatMap (fun j => reads.flatMap (fun o => i.wordsOf ls o j)))).map (fun r => (k.vbeg, r))
      else ((List.range (k.vl - k.vbeg)).find? (fun n => (at_ (k.vbeg + n)).isSome)).map (fun n => (k.vbeg + n, (at_ (k.vbeg + n)).getD 0))

/-- Registers in yarn mode that a run pops, each once (R285). -/
def Shape.streams (sh : Shape) (c : Ctx) : List Nat :=
  ((sh.ops.filter (·.read)).map (·.g.r)).filter (fun r => (c.stream r).isSome) |>.eraseDups

/-- How many results an instruction pushes where that is not its elements from `vbeg` to `vl` − 1 (R246, R247, R268, R286). -/
def VInstr.results (i : VInstr) (k : Capture) (sh : Shape) : Option Nat :=
  match i.op with
  | .bamax => some ((k.vl + k.blk - 1) / k.blk)
  | .retag | .tagclr => none
  | _ => if sh.always then some 1 else none

/-- The destination as a stream takes it: `pfwd` pushes its complex results as their real and imaginary parts, `vl` − `vbeg` of
them (R286, R325; DEDUCED, log entry 31). -/
def VInstr.pushed (i : VInstr) (k : Capture) (sh : Shape) (c : Ctx) : Group :=
  if i.op == .purl false false && (c.stream sh.dst.r).isSome then { sh.dst with eb := formatBits k.fmt } else sh.dst

/-- What bounds a run by the room of the streams it pushes to: results, and headers of 16 elements each (R286, R288). -/
def VInstr.rooms (i : VInstr) (k : Capture) (sh : Shape) (c : Ctx) : List (Nat × VStop) :=
  (((c.stream sh.dst.r).map Stream.room).toList.filterMap (fun r => match i.results k sh with
    | none => some r
    | some m => if m ≤ r.1 then none else some (0, r.2)))
  ++ (((i.headers k).bind (fun g => (c.stream g.r).map Stream.room)).toList.map (fun r => (16 * r.1, r.2)))

/-- Operand `o` as a function of element index, from registers or from its stream. -/
def Ctx.fetch (c : Ctx) (ls : List Nat) (vbeg : Nat) (o : Operand) (j : Nat) : Nat :=
  match c.stream o.g.r with
  | some t => ((if vbeg ≤ j then t.buf[j - vbeg]? else none).getD (Config.hiddenElement o.g.r t.pos j)).toNat % 2 ^ o.g.eb
  | none => c.read ls o.g (j / o.div)

/-- The bytes of a source group that a tag override copies: its registers, or, for a yarn register, the elements that it pops
(R285, R329). -/
def Ctx.groupData (c : Ctx) (ls : List Nat) (k : Capture) (tick : Nat) (g : Group) : List (BitVec 16384) :=
  let reg (j : Nat) : VReg := BitVec.ofNat 6 (g.r + j)
  let d := match c.stream g.r with
    | none => c
    | some _ =>
      let hidden := (List.range g.n).foldl (fun (d : Ctx) j => d.setV (reg j) { d.getV (reg j) with data := Config.hiddenRegister tick (g.r + j) }) c
      ((List.range (k.vl - k.vbeg)).map (k.vbeg + ·)).foldl (fun (d : Ctx) j => d.write ls g j (c.fetch ls k.vbeg { g := g } j)) hidden
  (List.range g.n).map (fun j => (d.getV (reg j)).data)

/-- The reader of a run. -/
def VInstr.reader (i : VInstr) (k : Capture) (sh : Shape) (c : Ctx) (ls : List Nat) : VReader :=
  let a (j : Nat) : Nat := match sh.ops with
    | o :: _ => c.fetch ls k.vbeg o j
    | [] => 0
  let eb := formatBits k.fmt
  { vl := k.vl, vbeg := k.vbeg, a := a
    aa := fun j => match c.stream i.vs2.toNat with
      | some _ => a (2 * j) + 2 ^ eb * a (2 * j + 1)
      | none => c.elt ls i.vs2.toNat (2 * eb) j
    b := match i.src, sh.ops with
      | .v _, _ :: o :: _ => fun j => c.fetch ls k.vbeg o j
      | _, _ => fun _ => i.scalarElt k
    z := fun j => c.read ls sh.dst j
    active := fun j => !i.m || c.maskBit ls 0 j
    mask := fun j => c.maskBit ls 0 j
    tag2 := c.tagAt k.tags i.vs2.toNat }

/-- The register of a word with uncorrectable data which a lane-barrier instruction would write in part (R139). -/
def VInstr.badTarget (i : VInstr) (k : Capture) (sh : Shape) (c : Ctx) (ls : List Nat) (bad : Sparse Unit) : Option Nat :=
  if bad = [] || sh.dst.eb ≥ 32 || (c.stream sh.dst.r).isSome then none
  else badAmong bad ((i.produce k sh.allActive (i.reader k sh c ls) k.vbeg k.vl).puts.flatMap (fun p => sh.dst.words ls p.1))

/-- How far a run may go: the first element it cannot perform, and why. A debug step ends with its element group, or with the
16-element block that holds the group's last element (R265, R382; DEDUCED, log entry 44). A lane barrier that could do all of it checks
what it writes too. -/
def VInstr.limit (i : VInstr) (k : Capture) (sh : Shape) (c : Ctx) (ls : List Nat) (bad : Sparse Unit) (single : Bool) : Nat × VStop :=
  let n := k.vl - k.vbeg
  let least (best : Nat × VStop) (x : Nat × VStop) : Nat × VStop := if x.1 < best.1 then x else best
  let pops := (sh.streams c).filterMap (fun r => (c.stream r).map Stream.supply)
  let push := i.rooms k sh c
  let unc := ((i.firstBad k sh c ls bad).map (fun e => (e.1 - k.vbeg, badRegStop e.2))).toList
  let l := ls.length
  let step := if single && !sh.barrier && sh.block ≤ 16 && !i.transform then
      [((l * (k.vbeg / l + 1) + sh.block - 1) / sh.block * sh.block - k.vbeg, VStop.step)] else []
  let r := (pops ++ push ++ unc ++ step).foldl least (n, .done)
  if r.2 == .done && n == 0 then
    match unc ++ (if (i.results k sh).isSome then push else []) with
    | u :: _ => if sh.always then (0, u.2) else r
    | [] => r
  else if r.2 == .done && sh.barrier then
    match i.badTarget k sh c ls bad with
    | some v => (0, badRegStop v)
    | none => r
  else r

/-- Writes elements to a group; the stored words that they touch are written, whole or in part (R138). -/
def State.putGroup (s : State) (a : Agent) (ls : List Nat) (g : Group) (puts : List (Nat × Nat)) : State :=
  let s := s.onRegs a (fun c => puts.foldl (fun c p => c.write ls g p.1 p.2) c)
  s.healRegs a (!g.plane && g.eb ≥ 32) (puts.flatMap (fun p => g.words ls p.1))

/-- Elements whose bytes the valid length covers: those below the captured `vl`, or every one for VX `vbscale`, which ignores
`vl` (R368). -/
def VInstr.dstCount (i : VInstr) (k : Capture) (sh : Shape) : Nat :=
  match i.op with
  | .purl false false => k.vl / 2
  | .quant => if fmtShared k.fmt then (k.vl + 15) / 16 * 16 else k.vl
  | .bamax => (k.vl + k.blk - 1) / k.blk
  | .bscaleX _ => 1024
  | _ => if sh.always then max 1 k.vl else k.vl

/-- Entry of the weight table that an element group charges (R356). -/
def VInstr.entry (i : VInstr) (k : Capture) : Nat :=
  match i.op with
  | .int _ | .cmp _ | .merge | .perm | .slideup | .slidedn | .un _ | .ext _ | .clip _ | .iota | .compress | .red _ | .mpopc | .mfirst => 3
  | .spec _ => 6
  | _ => if k.fmt == 7 then 5 else if fmtInt k.fmt then 3 else 4

/-- What a run over elements [lo, hi) charges: the element groups it performs, or those that a lane barrier reads (R356; DEDUCED, log
entry 23). -/
def VInstr.chargeOf (i : VInstr) (k : Capture) (l lo hi : Nat) : Charge :=
  let groups := (hi - lo + l - 1) / l
  match i.op with
  | .retag | .tagclr => [(i.entry k, k.grp * (1024 / formatBits k.fmt))]
  | .bscaleX _ => [(i.entry k, 1)]
  | .purl _ _ =>
    let n := (k.pblk.extractLsb' 0 4).toNat + 4
    [(8, (hi - lo) / 2 * n), (i.entry k, groups)]
  | _ => [(i.entry k, (hi - min lo (i.readsFrom k) + l - 1) / l)]

/-- Elements that a run pushes to a write stream as its results. -/
def VInstr.pushWords (i : VInstr) (k : Capture) (sh : Shape) (tick hi : Nat) (puts : List (Nat × Nat)) : List Word :=
  let eb := formatBits k.fmt
  match i.results k sh, i.op with
  | some _, _ => puts.map (fun p => BitVec.ofNat 64 p.2)
  | none, .purl false false => puts.flatMap (fun p => [BitVec.ofNat 64 (p.2 % 2 ^ eb), BitVec.ofNat 64 (p.2 / 2 ^ eb)])
  | none, _ => (List.range (hi - k.vbeg)).map (fun j =>
      ((puts.find? (fun p => p.1 == k.vbeg + j)).map (fun p => BitVec.ofNat 64 p.2)).getD (Config.slideElement tick (k.vbeg + j)))

/-- Writes what a run over elements [vbeg, hi) makes to its destination, register group or stream. -/
def VInstr.deliver (i : VInstr) (k : Capture) (a : Agent) (ls : List Nat) (sh : Shape) (tag : BitVec 6) (hi : Nat) (why : VStop)
    (puts : List (Nat × Nat)) (s : State) : State :=
  match (s.regs a).stream sh.dst.r with
  | some _ => s.onRegs a (fun c => c.push sh.dst.r (i.pushWords k sh s.tick hi puts) why)
  | none =>
    (s.putGroup a ls sh.dst puts).onRegs a (fun c =>
      if hi > k.vbeg || sh.always then c.markV sh.dst ls.length (i.dstCount k sh) tag (why == .done) else c)

/-- Writes the headers of `vquant` (R265). -/
def VInstr.deliverHeaders (i : VInstr) (k : Capture) (a : Agent) (ls : List Nat) (why : VStop) (side : List (Nat × Nat)) (s : State) : State :=
  match i.headers k, side with
  | some g, _ :: _ =>
    match (s.regs a).stream g.r with
    | some _ => s.onRegs a (fun c => c.push g.r (side.map (fun p => BitVec.ofNat 64 p.2)) why)
    | none => (s.putGroup a ls g side).onRegs a (fun c => c.markV g ls.length ((k.vl + 15) / 16) 0#6 (why == .done))
  | _, _ => s

/-- A tag override (R329): a copy of the group, or a push of the elements it would hold (R286); `pop` takes what it consumed. -/
def VInstr.override (k : Capture) (a : Agent) (ls : List Nat) (sh : Shape) (src : Group) (tag : BitVec 6) (pop : Ctx → Ctx) (s : State) : State :=
  let c := s.regs a
  match c.stream sh.dst.r with
  | some _ => s.onRegs a (fun d => (pop d).push sh.dst.r (((List.range (k.vl - k.vbeg)).map (k.vbeg + ·)).map (fun j =>
      BitVec.ofNat 64 (c.fetch ls k.vbeg { g := src } j))) .done)
  | none => (s.onRegs a (fun d => (pop d).copyGroup sh.dst (c.groupData ls k s.tick src) tag)).healRegs a true sh.dst.allWords

/-- Runs a vector instruction from its captured start: the state it leaves, why it stops, and the element it has reached.
It goes whole to completion, or to the first element that faults, or waits with no effect for a stream that cannot yet
give every element, or performs one element group of a debug step (R38, R285, R382). (DEDUCED, log entry 12.) A lane barrier that
a stream fault stops writes nothing and keeps `vbeg` as captured, and what it popped before the fault stays consumed (R234, R288;
DEDUCED, log entry 41). -/
def VInstr.run (i : VInstr) (k0 : Capture) (word : BitVec 32) (single : Bool) (a : Agent) (s : State) : State × VStop × Nat :=
  let c := s.regs a
  let ls := lanesOf (s.lanemap a)
  let l := ls.length
  let sh := i.shape k0 l
  let k := if sh.block == 1 then k0 else { k0 with vbeg := k0.vbeg / sh.block * sh.block }
  let reads := sh.ops.filter (·.read)
  let tag := i.outTag k sh c
  match (c.yarnMisuse i.m (some (i.pushed k sh c)) reads).or ((i.headers k).bind (fun g => c.yarnMisuse i.m (some g) [])) with
  | some e => (s, .fault e (word.setWidth 64) (if e == 0x02#8 then k.vtype.setWidth 64 else 0#64), k0.vbeg)
  | none =>
  match (c.tagCheck k.tags sh.tags reads).or ((i.purlTag k0 c ⟨i.vs2.toNat, k.grp, 8, false⟩).or
      ((c.pushTag sh.dst.r tag).or ((i.headers k).bind (fun g => c.pushTag g.r 0#6)))) with
  | some (e, v0, v1) => (s, .fault e v0 v1, k0.vbeg)
  | none =>
    let lim : Nat × VStop := i.limit k sh c ls (s.badRegs a) single
    let n := lim.1
    let why := lim.2
    let popAll (n : Nat) (d : Ctx) : Ctx := (sh.streams c).foldl (fun d p => d.pop p n why) d
    if why == .wait then (s, why, k0.vbeg)
    else if sh.barrier && why != .done then
      if why.isStream then (s.onRegs a (fun c => (popAll n c).push sh.dst.r [] why), why, k0.vbeg) else (s, why, k0.vbeg)
    else
      let hi := if why == .done then k.vl else (k.vbeg + n) / sh.block * sh.block
      let q := i.chargeOf k l k.vbeg hi
      match i.op with
      | .retag | .tagclr =>
        ((VInstr.override k a ls sh ⟨i.vs2.toNat, k.grp, formatBits k.fmt, false⟩ tag (popAll n) s).charge a q, .done, 0)
      | _ =>
        if k.vbeg ≥ k.vl && !sh.always then (s, .done, 0)
        else
          let o : VOut := i.produce k sh.allActive (i.reader k sh c ls) k.vbeg hi
          let t := i.deliverHeaders k a ls why o.side (i.deliver k a ls sh tag hi why o.puts s)
          ((t.onRegs a (fun c => ((popAll (hi - k.vbeg) c).accrue o.flags).accrueQ o.q)).charge a q, why, if why == .done then 0 else hi)

/-! ## Needle V, S and the queue -/

/-- What an entry of the vector queue captured. -/
def QEntry.capture (e : QEntry) : Capture :=
  { vl := e.vl.toNat, vbeg := e.vbeg.toNat, vtype := e.vtype, frm := e.frm, vqcfg := e.vqcfg, pblk := e.pblk, scalar := e.opnd, tags := e.tags }

/-- Register groups that an entry of the vector queue writes. -/
def QEntry.writes (e : QEntry) : List Group :=
  match vecOfWord e.word with
  | none => []
  | some i => (i.shape e.capture e.lanes.toNat).dst :: (i.headers e.capture).toList

/-- Registers an instruction names: what it reads and writes. -/
def VInstr.touches (i : VInstr) (k : Capture) (sh : Shape) : List Group := sh.dst :: (i.headers k).toList ++ sh.ops.map (·.g)

/-- The head entry of the vector queue is held until the context resumes (R358). -/
def Ctx.holdQueue (c : Ctx) : Ctx :=
  match c.vecQ with
  | [] => c
  | e :: es => { c with vecQ := { e with held := true } :: es }

/-- A lane barrier of S has begun and not finished: needle V starts no vector instruction (R36). -/
def Ctx.barred (c : Ctx) : Bool := c.vfab.any (·.begun) || c.nS.part.any (·.barrier)

/-- The vector engine stands at the head of its queue: it runs the entry (R16, R358). A stop that is no wait holds the
context at the entry, which stays at the head with the element it has reached. -/
def State.runVecHead (s : State) (a : Agent) : State :=
  match (s.regs a).vecQ with
  | [] => s
  | e :: es =>
    match vecOfWord e.word with
    | none => s.onRegs a (fun c => { c with vecQ := es })
    | some i =>
      let k := e.capture
      let stepping := (s.regs a).stepping
      let (t, why, at_) := i.run k e.word stepping a s
      let keep : State := t.onRegs a (fun c => { c.stopAt at_ with vecQ := { e with vbeg := BitVec.ofNat 64 at_ } :: es })
      let step (u : State) : State :=
        if stepping then u.takeTrap a .S 0x18#8 (u.regs a).vbeg 0#64 e.ipc e.ipc else u
      match why with
      | .done => step (t.onRegs a (fun c => { c with vbeg := 0#64, vecQ := es }))
      | .step => step keep
      | .wait => s
      | .fault x v0 v1 => (keep.onRegs a Ctx.holdQueue).takeTrap a .S x v0 v1 e.ipc e.ipc
      | .stream v0 v1 ipc => (keep.onRegs a Ctx.holdQueue).takeTrap a .S 0x14#8 v0 v1 e.ipc ipc

/-- Is a word `ystr` or `yend`? -/
def isYarnWord (w : BitVec 32) : Bool := let f := (w.extractLsb' 27 5).toNat; f == 9 || f == 10

/-- S waits, whatever its wait bits, while an inline instruction of its own that writes one of the registers named is not finished
(R28). -/
def Ctx.vecHeld (c : Ctx) (gs : List Group) : Bool :=
  c.vecQ.any (fun e => e.writes.any (fun g => gs.any (fun h => !g.disjoint h))) || c.copyQ.any (fun e => isYarnWord e.word)

/-- A vector arithmetic instruction: S places it in the vector queue, V executes it (R15, R16). -/
def vecArith (i : VInstr) (s : State) : Exec :=
  launch .vector [] (fun s =>
    let a := s.who
    let c := s.my
    let l := s.lanes a
    match s.ndl with
    | .S =>
      let k := i.capture c
      match i.checkIssue k l s with
      | some act => (s, act)
      | none =>
        let srcs := i.sources (i.shape k l) c
        if c.vecHeld (i.touches k (i.shape k l)) || c.vecQ.length ≥ 32 then (s, .stall)
        else reading srcs (fun s =>
          let e : QEntry := { word := s.ir, opnd := k.scalar, vl := BitVec.ofNat 32 k.vl, vbeg := c.vbeg, vtype := k.vtype
                              frm := k.frm, vqcfg := k.vqcfg, lanes := BitVec.ofNat 5 l, pblk := k.pblk, ipc := s.pc, seq := c.nextSeq, tags := some s.my.tagString }
          let s := s.onMy (fun c => { c with vecQ := c.vecQ ++ [e], nextSeq := c.nextSeq + 1 })
          (if c.stepping then s.runVecHead a else s, .done)) s
    | n =>
      if c.barred then (s, .stall)
      else
      let k := ((c.needle n).part).getD (i.capture c)
      let go (s : State) : State × Act :=
        let (t, why, at_) := i.run k s.ir c.stepping a s
        let stop := t.onMy (·.stopAt at_)
        match why with
        | .done => (t.onMy (fun c => { c with vbeg := 0#64 }), .done)
        | .step => (stop, .trap 0x18#8 (BitVec.ofNat 64 at_) 0#64)
        | .wait => (s.onMy (fun c => c.setNeedle n { c.needle n with part := some { k with tags := some (k.tags.getD c.tagString) } }), .wait .full)
        | .fault x v0 v1 => (stop, .trap x v0 v1)
        | .stream v0 v1 ipc => (stop, .trapAt 0x14#8 v0 v1 ipc)
      match (c.needle n).part with
      | some _ => go s
      | none =>
        match i.checkIssue k l s with
        | some act => (s, act)
        | none => reading (i.sources (i.shape k l) c) go s) s

end Sys2Proof.Machine
end

