-- ==== Sys2Proof/Machine/VMem.lean ====
section
/-! DEFINITION. Vector loads and stores, bank updates and vector locks (17_memory_instructions R273-R283; R126-R129, R135-R137,
R161, R164-R166). -/

namespace Sys2Proof.Machine
open Sys2Proof

/-- A vector memory instruction: direction, qualifiers, register group, wait and mask bits. -/
structure VMem where
  load : Bool
  fe : Bool := false
  fec : Bool := false
  sc : Bool := false
  nt : Bool := false
  v : VReg
  w : Bool
  m : Bool
  deriving DecidableEq, Repr

/-- How addresses are formed (R274). -/
inductive VAddr where
  | unit
  | strided (rs2 : XReg)
  | indexed (vs2 : VReg)
  deriving DecidableEq, Repr

/-- An indexed access is a lane barrier (R36). -/
def VAddr.isIndexed : VAddr → Bool
  | .indexed _ => true
  | _ => false

/-- Registers of an offset group: max(1, G × 32 ÷ eb) (R279). -/
def offsetRegs (k : Capture) : Nat := max 1 (k.grp * 32 / formatBits k.fmt)

/-- The offset group of an indexed access (R279). -/
def offsetGroup (k : Capture) (vs2 : VReg) : Group := ⟨vs2.toNat, offsetRegs k, 32, false⟩

/-- Progress of a run over elements: the state, the values loaded, the first element's tag, and the stop. -/
structure MemRun where
  s : State
  at_ : Nat
  why : VStop := .done
  vals : List (Nat × Nat) := []
  tag : Option (BitVec 6) := none
  deriving DecidableEq, Repr

/-- Performs the active elements of a list in order, until one stops. -/
def memLoop (step : MemRun → Nat → MemRun) (act : Nat → Bool) : List Nat → MemRun → MemRun
  | [], r => r
  | i :: is, r =>
    if act i then
      let t := step r i
      if t.why == .done then memLoop step act is t else { t with at_ := i }
    else memLoop step act is r

/-- A memory fault as a stop. -/
def MemFault.stop (e : MemFault) : VStop := .fault e.cause e.ptr e.val1

/-- Domain tag at a physical address; 0 outside scratchpad (R275). -/
def State.tagAt (s : State) (acc : Access) : BitVec 6 := if acc.region == .spad then s.tileTag (tileOf acc.phys) else 0#6

/-- One element of a load (R277): after its checks it waits on its granule, then reads, a plain one checked for a race (R156), and empties the granule after its last element. A `.sc` element is
an acquire and a release, which counts, though no later read can return a value of it (R157, R164). -/
def loadStep (o : VMem) (a : Agent) (sz : Nat) (addr : Nat → Word) (lastOfGranule : Nat → Bool) (bad : Nat → Option Nat)
    (r : MemRun) (i : Nat) : MemRun :=
  let s := r.s
  let c := s.regs a
  let need : Need := { size := sz, align := sz, kind := if o.fe || o.fec then .granule else if o.sc then .ticket else .any }
  match bad i with
  | some v => { r with why := badRegStop v }
  | none =>
  match s.access (c.view a) (addr i) need with
  | .error e => { r with why := e.stop }
  | .ok acc =>
    if (o.fe || o.fec) && !(s.granule (granuleOf acc.phys)).full then { r with why := .wait }
    else match if o.sc then none else s.race (c.view a) (addr i) acc sz with
    | some e => { r with why := e.stop }
    | none =>
      let t := s.tagAt acc
      if r.tag.any (· != t) then
        let (e, v0, v1) := tagFault t o.v.toNat ((r.tag.getD 0#6).toNat)
        { r with why := .fault e v0 v1 }
      else
        let w := s.read acc.key acc.phys sz
        let s :=
          if o.sc then ({ s with ticket := s.ticket + 1#64 }.acquireAll (c.coreNo a) 3#3 (s.releasesAt acc.phys sz)).countRelease (c.coreNo a) 3#3
          else s.noteReads a acc.phys sz
        let s := if o.fec && lastOfGranule i then
            let g := granuleOf acc.phys
            s.setGranule g { s.granule g with full := false }
          else s
        { r with s := s, vals := (i, w) :: r.vals, tag := some t }

/-- A release at a scope of everything that its core knows (R153). -/
def State.fullHalf (s : State) (a : Agent) (scope : BitVec 3) : Half := { scope := scope, know := s.knowledge ((s.regs a).coreNo a) }

/-- A write that is a release when one is given: the count first, then the write, then the release (R157). -/
def State.putRelease (s : State) (a : Agent) (acc : Access) (n w : Nat) (atomic : Bool) (rel : Option Half) : State :=
  let c := s.regs a
  let put (s : State) : State := if atomic then s.putAtomic c.core acc n w else s.putPlain c.core acc n w
  match rel with
  | none => put s
  | some h =>
    let s := put (s.countRelease (c.coreNo a) h.scope)
    s.addRelease (s.releaseHalfOn (c.coreNo a) h acc.phys n)

/-- One element of a store (R275, R277). A `.sc` element acquires the releases whose values it replaces, as an AMO acquires those it
reads. (DEDUCED, log entry 56.) -/
def storeStep (o : VMem) (a : Agent) (sz : Nat) (addr : Nat → Word) (val : Nat → Nat) (tag : BitVec 6) (half : Option Half)
    (bad : Nat → Option Nat) (r : MemRun) (i : Nat) : MemRun :=
  let s := r.s
  let c := s.regs a
  let need : Need := { size := sz, align := sz, write := true, kind := if o.fe then .granule else if o.sc then .ticket else .any }
  match bad i with
  | some v => { r with why := badRegStop v }
  | none =>
  match if o.sc then s.access (c.view a) (addr i) need else s.plainAccess (c.view a) (addr i) need with
  | .error e => { r with why := e.stop }
  | .ok acc =>
    let s := if o.sc then
        { s with ticket := s.ticket + 1#64 }.acquireAll (c.coreNo a) 3#3 (s.releasesAt acc.phys sz)
      else s
    let rel := if o.sc then some (s.fullHalf a ((widerScope (half.map (·.scope)) (some 3#3)).getD 3#3)) else half
    let s := s.putRelease a acc sz (val i) o.sc rel
    let s := if o.fe then s.fillGranules acc.phys sz else s
    { r with s := if acc.region == .spad then s.tagTiles tag acc.phys sz else s }

/-- Formats that vector loads and stores move (R273). -/
def memFormat (f : Nat) : Bool := f ≤ 9 || f == 14 || f == 15

/-- Stops and waits of S at a vector memory instruction that reaches element `at_` of its captured start: one that waits keeps what
it captured, and `vbeg` names its element once the context is held (R277). (DEDUCED, log entry 12.) -/
def memEnd (k : Capture) (why : VStop) (at_ : Nat) (s : State) : State × Act :=
  match why with
  | .done => (s.onMy (fun c => { c with vbeg := 0#64 }), .done)
  | .wait | .step =>
    (s.onMy (fun c => c.setNeedle s.ndl { c.needle s.ndl with part := some { k with vbeg := at_, tags := some (k.tags.getD c.tagString) } }), .wait .full)
  | .fault x v0 v1 => (s.onMy (·.stopAt at_), .trap x v0 v1)
  | .stream v0 v1 ipc => (s.onMy (·.stopAt at_), .trapAt 0x14#8 v0 v1 ipc)

/-- What S captures at the issue of a vector memory instruction, or what it captured before a wait. -/
def State.captureMem (s : State) : Capture :=
  let c := s.my
  ((c.needle s.ndl).part).getD
    { vl := c.strip.vl.toNat, vbeg := c.vbeg.toNat, vtype := c.strip.vtype, frm := c.frm, vqcfg := c.vqcfg.setWidth 6, pblk := c.pblk, scalar := 0#64 }

/-- S's vector memory instructions wait until its inline vector instructions and streams stand as it left them (R28). -/
def Ctx.memHeld (c : Ctx) : Bool := c.vecQ != [] || c.copyQ.any (fun e => isYarnWord e.word)

/-- Checks of order 5 on a group, its mask and an offset group: R231's, then 0x02, then 0x01 (R191, R231, R279; DEDUCED, log entry 28). -/
def memChecks (s : State) (k : Capture) (okFmt : Bool) (g : Group) (written m : Bool) (off : Option VReg) : Option Act :=
  let ill : Act := .trap 0x01#8 (s.ir.setWidth 64) 0#64
  let og := off.map (offsetGroup k)
  if m && written && g.r == 0 then some ill
  else if !okFmt || og.any (fun h => h.n > 8) then some (.trap 0x02#8 (s.ir.setWidth 64) (k.vtype.setWidth 64))
  else if !g.aligned || og.any (fun h => !h.aligned || (written && !g.disjoint h)) then some ill
  else none

/-- The operands that a vector memory instruction reads before its first element: pointer, stride, the offset group whole and the
mask (R274, R280). -/
def Ctx.memOperands (c : Ctx) (ls : List Nat) (k : Capture) (ad : VAddr) (rs1 : XReg) (m : Bool) : Capture :=
  { k with
    scalar := c.getX rs1
    stride := match ad with
      | .strided r => c.getX r
      | _ => 0#64
    offs := match ad with
      | .indexed v => if (c.stream v.toNat).isSome then [] else (List.range k.vl).map (fun i => BitVec.ofNat 32 (c.read ls (offsetGroup k v) i))
      | _ => []
    act := if m then (List.range k.vl).filter (c.maskBit ls 0) else []
    fsel := c.fsel }

/-- Is element `i` active (R230)? -/
def Capture.active (k : Capture) (m : Bool) (i : Nat) : Bool := !m || k.act.contains i

/-- Offset of element `i`: as the group held it, or popped as the elements reach it (R280). -/
def Ctx.offset (c : Ctx) (ls : List Nat) (k : Capture) (vs2 : VReg) (i : Nat) : Nat :=
  match c.stream vs2.toNat with
  | some _ => c.fetch ls k.vbeg { g := offsetGroup k vs2 } i
  | none => (k.offs.getD i 0#32).toNat

/-- Element `i`'s pointer (R274). -/
def Ctx.elementPtr (c : Ctx) (ls : List Nat) (k : Capture) (sz : Nat) (ad : VAddr) (i : Nat) : Word :=
  match ad with
  | .unit => k.scalar + BitVec.ofNat 64 (i * sz)
  | .strided _ => k.scalar + BitVec.ofNat 64 i * k.stride
  | .indexed v => k.scalar + BitVec.ofNat 64 (c.offset ls k v i)

/-- Progress word of `vst.nt` (R137): the count grows by `n` and is stored as a release at device scope. -/
def State.progress (s : State) (a : Agent) (acc : Access) (n : Nat) : State :=
  let s := s.onRegs a (fun c => { c with vprogCount := c.vprogCount + BitVec.ofNat 64 n })
  s.putRelease a acc 8 (s.regs a).vprogCount.toNat false (some (s.fullHalf a 3#3))

/-- Issue of a vector memory instruction by S: its checks, its interlock, readiness, misuse of a yarn register, and what it
captures; one that waits goes on with what it captured at issue (R43, R280). -/
def memIssue (k : Capture) (check : Option Act) (srcs : List Src) (m : Bool) (dst : Option Group) (ops : List Operand) (take : Ctx → Capture)
    (go : Capture → State → State × Act) (s : State) : State × Act :=
  match (s.my.needle s.ndl).part with
  | some k => go k s
  | none =>
    match check with
    | some act => (s, act)
    | none =>
      if s.my.memHeld then (s, .stall)
      else reading srcs (fun s =>
        match s.my.yarnMisuse m dst ops with
        | some e => (s, .trap e (s.ir.setWidth 64) (if e == 0x02#8 then k.vtype.setWidth 64 else 0#64))
        | none => go (take s.my) s) s

/-- The elements of a vector load or store, from what it captured. -/
def VMem.body (o : VMem) (ad : VAddr) (ops : List Operand) (k : Capture) (s : State) : State × Act :=
  let a := s.who
  let c := s.my
  let ls := lanesOf (s.lanemap a)
  let l := ls.length
  let sz := formatBits k.fmt / 8
  let g : Group := ⟨o.v.toNat, k.grp, formatBits k.fmt, false⟩
  let streams := ((ops.map (·.g.r)).filter (fun r => (c.stream r).isSome)).eraseDups
  let sup := streams.filterMap (fun r => (c.stream r).map Stream.supply) ++ (if o.load then ((c.stream g.r).map Stream.room).toList else [])
  let lim : Nat × VStop := sup.foldl (fun b x => if x.1 < b.1 then x else b) (k.vl - k.vbeg, .done)
  if lim.2 == .wait then memEnd k .wait k.vbeg s
  else
    let addr (i : Nat) : Word := c.elementPtr ls k sz ad i
    let badRegs := s.badRegs a
    let bad (i : Nat) : Option Nat :=
      if badRegs = [] then none
      else badAmong badRegs ((ops.filter (fun p => (c.stream p.g.r).isNone)).flatMap (fun p => p.g.words ls i) ++ (if o.load && sz < 4 then g.words ls i else []))
    let prog : Except MemFault (Option Access) :=
      if o.nt && c.vprog != 0#64 then (s.plainAccess (c.view a) c.vprog { size := 8, align := 8, write := true }).map some else .ok none
    match prog with
    | .error e => memEnd k e.stop k.vbeg s
    | .ok prog =>
    let range := (List.range lim.1).map (k.vbeg + ·)
    -- each element counts its own release (R161)
    let half := if o.load then none else (s.takeHalf a).2
    let later (i : Nat) : Bool := !((List.range 16).any (fun d =>
      i + 1 + d < k.vl && k.active o.m (i + 1 + d) && addr (i + 1 + d) >>> 4 == addr i >>> 4))
    -- data pushed to a stream must carry its record's tag (R286)
    let need := ((c.stream g.r).map (·.pat.tag)).or k.need
    let r := if o.load then memLoop (loadStep o a sz addr later bad) (k.active o.m) range ⟨s, k.vbeg + lim.1, .done, [], need⟩
      else memLoop (storeStep o a sz addr (fun i => c.fetch ls k.vbeg { g := g } i) (c.tagAt k.tags g.r) half bad) (k.active o.m) range ⟨s, k.vbeg + lim.1, .done, [], none⟩
    let why := if r.why == .done then lim.2 else r.why
    let hi := r.at_
    let s := if o.load then
        match c.stream g.r with
        | some _ => r.s.onRegs a (fun c => c.push g.r (r.vals.reverse.map (fun p => BitVec.ofNat 64 p.2)) why)
        | none =>
          let s := r.s.putGroup a ls g r.vals
          s.onRegs a (fun c => if hi > k.vbeg then match r.tag with
            | some t => c.markV g l k.vl t (why == .done)
            | none => (List.range g.n).foldl (fun c j => c.markReg g l k.vl (c.tagOf (g.r + j)) (why == .done) j) c
          else c)
      else r.s
    let s := s.onRegs a (fun c => streams.foldl (fun c p => c.pop p (hi - k.vbeg) why) c)
    let s := match prog with
      | some acc => s.progress a acc (hi - k.vbeg)
      | none => s
    let s := s.charge a [(7, (hi - k.vbeg + l - 1) / l)]
    -- a half that no element has used stays, and so does one while elements are left, which are its releases too (R161)
    let s := if why == .done && half.isSome && (prog.isSome || range.any (k.active o.m)) then s.onRegs a (fun c => { c with relHalf := none, openHalf := none }) else s
    memEnd { k with need := if o.load then r.tag else none, barrier := ad.isIndexed || o.sc } why (if why == .done then k.vl else hi) s

/-- A vector load or store (R273-R280). -/
def vecMem (o : VMem) (ad : VAddr) (rs1 : XReg) (s : State) : Exec :=
  launch .sOnly [] (fun s =>
    let k := s.captureMem
    let ls := lanesOf (s.lanemap s.who)
    let g : Group := ⟨o.v.toNat, k.grp, formatBits k.fmt, false⟩
    let off : Option VReg := match ad with
      | .indexed v => some v
      | _ => none
    let ops : List Operand := (if o.load then [] else [{ g := g }]) ++ (off.map (fun v => ({ g := offsetGroup k v, data := false } : Operand))).toList
      ++ (if o.m then [maskOperand] else [])
    let srcs : List Src := [.x rs1 o.w] ++ (match ad with
      | .strided r => [.x r o.w]
      | _ => []) ++ ops.map (fun p => s.my.groupSrc p.g o.w)
    memIssue k (memChecks s k (memFormat k.fmt) g o.load o.m off) srcs o.m (if o.load then some g else none) ops
      (fun c => c.memOperands ls k ad rs1 o.m) (o.body ad ops) s) s

/-- `vld` (R276, R277). -/
def execVld (vd : VReg) (rs1 : XReg) (w m : Bool) (s : State) : Exec := vecMem { load := true, v := vd, w := w, m := m } .unit rs1 s
/-- `vld.fe` (R277). -/
def execVldFe (vd : VReg) (rs1 : XReg) (w m : Bool) (s : State) : Exec := vecMem { load := true, fe := true, v := vd, w := w, m := m } .unit rs1 s
/-- `vld.fec` (R277). -/
def execVldFec (vd : VReg) (rs1 : XReg) (w m : Bool) (s : State) : Exec := vecMem { load := true, fec := true, v := vd, w := w, m := m } .unit rs1 s
/-- `vld.sc` (R164-R166). -/
def execVldSc (vd : VReg) (rs1 : XReg) (w m : Bool) (s : State) : Exec := vecMem { load := true, sc := true, v := vd, w := w, m := m } .unit rs1 s
/-- `vst` (R276, R277). -/
def execVst (vd : VReg) (rs1 : XReg) (w m : Bool) (s : State) : Exec := vecMem { load := false, v := vd, w := w, m := m } .unit rs1 s
/-- `vst.fe` (R277). -/
def execVstFe (vd : VReg) (rs1 : XReg) (w m : Bool) (s : State) : Exec := vecMem { load := false, fe := true, v := vd, w := w, m := m } .unit rs1 s
/-- `vst.nt` (R137, R277). -/
def execVstNt (vd : VReg) (rs1 : XReg) (w m : Bool) (s : State) : Exec := vecMem { load := false, nt := true, v := vd, w := w, m := m } .unit rs1 s
/-- `vst.sc` (R164-R166). -/
def execVstSc (vd : VReg) (rs1 : XReg) (w m : Bool) (s : State) : Exec := vecMem { load := false, sc := true, v := vd, w := w, m := m } .unit rs1 s
/-- `vlds` (R278). -/
def execVlds (vd : VReg) (rs1 rs2 : XReg) (w m : Bool) (s : State) : Exec := vecMem { load := true, v := vd, w := w, m := m } (.strided rs2) rs1 s
/-- `vlds.fe` (R278). -/
def execVldsFe (vd : VReg) (rs1 rs2 : XReg) (w m : Bool) (s : State) : Exec := vecMem { load := true, fe := true, v := vd, w := w, m := m } (.strided rs2) rs1 s
/-- `vsts` (R278). -/
def execVsts (vd : VReg) (rs1 rs2 : XReg) (w m : Bool) (s : State) : Exec := vecMem { load := false, v := vd, w := w, m := m } (.strided rs2) rs1 s
/-- `vsts.fe` (R278). -/
def execVstsFe (vd : VReg) (rs1 rs2 : XReg) (w m : Bool) (s : State) : Exec := vecMem { load := false, fe := true, v := vd, w := w, m := m } (.strided rs2) rs1 s
/-- `vldx` (R278-R280). -/
def execVldx (vd : VReg) (rs1 : XReg) (vs2 : VReg) (w m : Bool) (s : State) : Exec := vecMem { load := true, v := vd, w := w, m := m } (.indexed vs2) rs1 s
/-- `vldx.fe` (R278-R280). -/
def execVldxFe (vd : VReg) (rs1 : XReg) (vs2 : VReg) (w m : Bool) (s : State) : Exec := vecMem { load := true, fe := true, v := vd, w := w, m := m } (.indexed vs2) rs1 s
/-- `vstx` (R278-R280). -/
def execVstx (vd : VReg) (rs1 : XReg) (vs2 : VReg) (w m : Bool) (s : State) : Exec := vecMem { load := false, v := vd, w := w, m := m } (.indexed vs2) rs1 s
/-- `vstx.fe` (R278-R280). -/
def execVstxFe (vd : VReg) (rs1 : XReg) (vs2 : VReg) (w m : Bool) (s : State) : Exec := vecMem { load := false, fe := true, v := vd, w := w, m := m } (.indexed vs2) rs1 s

/-! ## Bank updates (R281, R282) -/

/-- The update of a word that an element makes (R282): no flags. -/
inductive BankOp where
  | add | fadd | fmax | or
  deriving DecidableEq, Repr

/-- The new word. -/
def BankOp.apply (o : BankOp) (fmt old d : Nat) : Nat :=
  match o with
  | .add => (old + d) % 2 ^ formatBits fmt
  | .fadd => ((ffmt fmt).add .rne old d).bits
  | .fmax => (FBin.max.real (ffmt fmt) .rne old d).bits
  | .or => old ||| d

/-- Formats of an update (R281). -/
def BankOp.format (o : BankOp) (f : Nat) : Bool :=
  match o with
  | .add | .or => f == 2 || f == 3
  | .fadd | .fmax => f == 6 || f == 7

/-- One element of a bank update: one indivisible step (R282). -/
def bankStep (o : BankOp) (fmt : Nat) (a : Agent) (sz : Nat) (addr : Nat → Word) (val : Nat → Nat) (bad : Nat → Option Nat) (r : MemRun) (i : Nat) : MemRun :=
  let s := r.s
  let c := s.regs a
  match bad i with
  | some v => { r with why := badRegStop v }
  | none =>
  match s.access (c.view a) (addr i) { size := sz, align := sz, write := true, rmw := true, kind := .rmw } with
  | .error e => { r with why := e.stop }
  | .ok acc => { r with s := s.putAtomic c.core acc sz (o.apply fmt (s.read acc.key acc.phys sz) (val i)) }

/-- The elements of a bank update (R282), from what it captured. -/
def BankOp.body (o : BankOp) (vd vs2 : VReg) (m : Bool) (ops : List Operand) (k : Capture) (s : State) : State × Act :=
  let a := s.who
  let c := s.my
  let ls := lanesOf (s.lanemap a)
  let l := ls.length
  let eb := formatBits k.fmt
  match c.tagCheck k.tags .spatial ops with
  | some (e, v0, v1) => (s, .trap e v0 v1)
  | none =>
    let streams := ((ops.map (·.g.r)).filter (fun r => (c.stream r).isSome)).eraseDups
    let lim : Nat × VStop := (streams.filterMap (fun r => (c.stream r).map Stream.supply)).foldl (fun b x => if x.1 < b.1 then x else b) (k.vl - k.vbeg, .done)
    if lim.2 == .wait then memEnd k .wait k.vbeg s
    else
      let badRegs := s.badRegs a
      let bad (i : Nat) : Option Nat := if badRegs = [] then none else
        badAmong badRegs ((ops.filter (fun p => (c.stream p.g.r).isNone)).flatMap (fun p => p.g.words ls i))
      let r := memLoop (bankStep o k.fmt a (eb / 8) (c.elementPtr ls k (eb / 8) (.indexed vs2)) (fun i => c.fetch ls k.vbeg { g := ⟨vd.toNat, k.grp, eb, false⟩ } i) bad)
        (k.active m) ((List.range lim.1).map (k.vbeg + ·)) ⟨s, k.vbeg + lim.1, .done, [], none⟩
      let why := if r.why == .done then lim.2 else r.why
      let s := (r.s.onRegs a (fun c => streams.foldl (fun c p => c.pop p (r.at_ - k.vbeg) why) c)).charge a [(7, (r.at_ - k.vbeg + l - 1) / l)]
      memEnd k why (if why == .done then k.vl else r.at_) s

/-- `vbadd`, `vbfadd`, `vbfmax`, `vbor` (R282). -/
def bankUpdate (o : BankOp) (vd vs2 : VReg) (rs1 : XReg) (w m : Bool) (s : State) : Exec :=
  launch .sOnly [] (fun s =>
    let k := s.captureMem
    let ls := lanesOf (s.lanemap s.who)
    let g : Group := ⟨vd.toNat, k.grp, formatBits k.fmt, false⟩
    let ops : List Operand := [{ g := g }, { g := offsetGroup k vs2, data := false }] ++ (if m then [maskOperand] else [])
    memIssue k (memChecks s k (o.format k.fmt) g false m (some vs2)) ([.x rs1 w] ++ ops.map (fun p => s.my.groupSrc p.g w)) m none ops
      (fun c => c.memOperands ls k (.indexed vs2) rs1 m) (o.body vd vs2 m ops) s) s

/-- `vbadd` (R282). -/
def execVbadd (vd vs2 : VReg) (rs1 : XReg) (w m : Bool) (s : State) : Exec := bankUpdate .add vd vs2 rs1 w m s
/-- `vbfadd` (R282). -/
def execVbfadd (vd vs2 : VReg) (rs1 : XReg) (w m : Bool) (s : State) : Exec := bankUpdate .fadd vd vs2 rs1 w m s
/-- `vbfmax` (R282). -/
def execVbfmax (vd vs2 : VReg) (rs1 : XReg) (w m : Bool) (s : State) : Exec := bankUpdate .fmax vd vs2 rs1 w m s
/-- `vbor` (R282). -/
def execVbor (vd vs2 : VReg) (rs1 : XReg) (w m : Bool) (s : State) : Exec := bankUpdate .or vd vs2 rs1 w m s

/-! ## Vector locks (R135, R283) -/

/-- A candidate: element, pointer and the access that passed its checks. -/
abbrev Cand := Nat × Access

/-- Checks every candidate before any word is touched (R135). -/
def lockAccesses (s : State) (v : View) (addr : Nat → Word) : List Nat → Except MemFault (List Cand)
  | [] => .ok []
  | i :: is =>
    match s.access v (addr i) { size := 8, align := 8, write := true, rmw := true, kind := .lock } with
    | .error e => .error e
    | .ok acc => (lockAccesses s v addr is).map ((i, acc) :: ·)

/-- Inserts a candidate by physical address, before one of the same word, which has a higher element. (DEDUCED, log entry 57.) -/
def insertCand (x : Cand) : List Cand → List Cand
  | [] => [x]
  | y :: ys => if x.2.phys ≤ y.2.phys then x :: y :: ys else y :: insertCand x ys

/-- Takes free locks in order, and stops at the first that is held (R135). -/
def takeLocks (a : Agent) (me : Nat) : List Cand → State → List Nat → State × List Nat
  | [], s, got => (s, got)
  | (i, acc) :: rest, s, got =>
    if s.read acc.key acc.phys 8 != 0 then (s, got)
    else
      let c := s.regs a
      let s := (s.acquireAll (c.coreNo a) 2#3 (s.releasesAt acc.phys 8)).putAtomic c.core acc 8 me
      takeLocks a me rest s (i :: got)

/-- Frees the locks this core holds, each a release at panel scope (R135, R162). -/
def freeLocks (a : Agent) (me : Nat) : List Cand → State → List Nat → State × List Nat
  | [], s, got => (s, got)
  | (i, acc) :: rest, s, got =>
    if s.read acc.key acc.phys 8 != me then freeLocks a me rest s got
    else freeLocks a me rest (s.putRelease a acc 8 0 true (some (s.fullHalf a 2#3))) (i :: got)

/-- The value that a core writes to a lock it holds: its device-wide index plus 1; a hub core, which has none, writes 1 (R135;
DESIGN CHOICE, log entry 49). -/
def Ctx.holder (c : Ctx) : Nat := c.core.getD 0 + 1

/-- Elements 0 to vl − 1 of `vlock` or `vunlock`, from what it captured: `start` is `vbeg` as captured, which a fault leaves (R283). -/
def lockBody (take : Bool) (vd vs2 : VReg) (m : Bool) (ops : List Operand) (k0 : Capture) (s : State) : State × Act :=
  let a := s.who
  let c := s.my
  let k := { k0 with vbeg := 0 }
  let ls := lanesOf (s.lanemap a)
  let l := ls.length
  let lim : Nat × VStop := (((c.stream vs2.toNat).map Stream.supply).toList).foldl (fun b x => if x.1 < b.1 then x else b) (k.vl, .done)
  let pop (n : Nat) (s : State) : State := s.onRegs a (fun c => c.pop vs2.toNat n lim.2)
  let badRegs := s.badRegs a
  let badNow := if badRegs = [] then none else
    badAmong badRegs ((List.range k.vl).flatMap (fun i => (ops.filter (fun p => (c.stream p.g.r).isNone)).flatMap (fun p => p.g.words ls i) ++ (maskAt vd).words ls i))
  if lim.2 != .done then memEnd k0 lim.2 k0.vbeg (if lim.2.isStream then pop lim.1 s else s)
  else match badNow with
  | some r => memEnd k0 (badRegStop r) k0.vbeg s
  | none =>
    let addr := c.elementPtr ls k 8 (.indexed vs2)
    let act := (List.range k.vl).filter (k.active m)
    let cand := if take then act.filter (fun i => !(act.any (fun j => j < i && addr j == addr i))) else act
    match lockAccesses s (c.view a) addr cand with
    | .error e => memEnd k0 e.stop k0.vbeg s
    | .ok cs =>
      let (s, got) := if take then takeLocks a c.holder (cs.foldr insertCand []) s [] else freeLocks a c.holder cs s []
      let s := s.putGroup a ls (maskAt vd) ((List.range k.vl).map (fun i => (i, if got.contains i then 1 else 0)))
      let s := pop k.vl s
      let s := s.onRegs a (fun c => if k.vl = 0 then c else c.markV (maskAt vd) l k.vl 0#6 true)
      memEnd k .done k.vl (s.charge a [(7, (k.vl + l - 1) / l)])

/-- `vlock` and `vunlock`: elements 0 to vl − 1 whatever `vbeg` holds (R283). -/
def vecLock (take : Bool) (vd vs2 : VReg) (rs1 : XReg) (w m : Bool) (s : State) : Exec :=
  launch .sOnly [] (fun s =>
    let k := s.captureMem
    let ls := lanesOf (s.lanemap s.who)
    let ops : List Operand := { g := offsetGroup k vs2, data := false } :: (if m then [maskOperand] else [])
    memIssue k (memChecks s k (k.fmt == 3) (maskAt vd) true m (some vs2)) ([.x rs1 w] ++ ops.map (fun p => s.my.groupSrc p.g w)) m (some (maskAt vd)) ops
      (fun c => c.memOperands ls k (.indexed vs2) rs1 m) (lockBody take vd vs2 m ops) s) s

/-- `vlock` (R135, R283). -/
def execVlock (vd vs2 : VReg) (rs1 : XReg) (w m : Bool) (s : State) : Exec := vecLock true vd vs2 rs1 w m s
/-- `vunlock` (R135, R283). -/
def execVunlock (vd vs2 : VReg) (rs1 : XReg) (w m : Bool) (s : State) : Exec := vecLock false vd vs2 rs1 w m s

end Sys2Proof.Machine
end

