-- ==== Sys2Proof/Machine/Yarn.lean ====
section
/-! DEFINITION. Yarn streams: opening and ending one, reading ahead and writing out (17_memory_instructions R284-R289). -/

namespace Sys2Proof.Machine
open Sys2Proof

/-- The pattern record in its 48 bytes (R284). -/
def Pattern.ofRecord (r : BitVec 384) : Pattern :=
  { base := r.extractLsb' 0 64, stride0 := r.extractLsb' 64 64, stride1 := r.extractLsb' 128 64, stride2 := r.extractLsb' 192 64
    count0 := r.extractLsb' 256 32, count1 := r.extractLsb' 288 32, count2 := r.extractLsb' 320 32
    tag := r.extractLsb' 360 6, scope := r.extractLsb' 357 3, rel := r.getLsbD 356, acq := r.getLsbD 355, dir := r.getLsbD 354
    esz := r.extractLsb' 352 2 }

/-- The record of a pattern: reserved bits are 0 (R5, R284). -/
def Pattern.record (p : Pattern) : BitVec 384 :=
  0#18 ++ p.tag ++ p.scope ++ BitVec.ofBool p.rel ++ BitVec.ofBool p.acq ++ BitVec.ofBool p.dir ++ p.esz
    ++ p.count2 ++ p.count1 ++ p.count0 ++ p.stride2 ++ p.stride1 ++ p.stride0 ++ p.base

/-- A count of 0 or a scope of 5 to 7 (R284). -/
def Pattern.invalid (p : Pattern) : Bool := p.count0 == 0#32 || p.count1 == 0#32 || p.count2 == 0#32 || p.scope.toNat > 4

/-- Slots through which a stream or copy resolves pointers: the seats as they resolved, the fixed slots as they stand (R124). -/
def Ctx.viewAt (c : Ctx) (a : Agent) (seats : List Seat) : View := ⟨isManager a, c.core, c.slot0, seats, c.fixed, c.requester a⟩

/-- Size of a stream element in bytes. -/
def Pattern.bytes (p : Pattern) : Nat := 2 ^ p.esz.toNat

/-- A register whose stream has ended: 0 in every element, tag 0, full; written whole (R289, R368). -/
def endedReg : VecReg := { data := 0#16384, tag := 0#6, full := true, dirty := true, vlb := 128#8, stream := none }

/-- Ends a stream of a register (R289): the state, and how it stops. A write stream waits until everything is written and
reports a recorded fault, which leaves it open; then it releases, on its last element, when rel is set: what the stream wrote, and with
acq set what the `ystr` knew (R169). The register is written whole, check bits included (R140). -/
def State.endStream (s : State) (a : Agent) (v : VReg) : State × VStop :=
  let c := s.regs a
  match (c.getV v).stream with
  | none => (s, .done)
  | some t =>
    let close (s : State) : State := (s.onRegs a (fun c => c.setV v endedReg)).healRegs a true (Group.allWords ⟨v.toNat, 1, 8, false⟩)
    if !t.pat.dir then (close s, .done)
    else match t.fault with
    | some f => (s.onRegs a (fun c => c.setV v { c.getV v with stream := some { t with fault := none } }), f.stop t.ipc)
    | none =>
      if t.buf != [] then (s, .wait)
      else
        let s := if t.pat.rel && t.pos > 0 then
            match s.access (c.viewAt a t.seats) (t.pat.pointer (t.pos - 1)) { size := t.pat.bytes, align := t.pat.bytes, write := true } with
            | .ok acc =>
              let s := s.countRelease (c.coreNo a) t.pat.scope
              s.addRelease (s.releaseOp (c.coreNo a) t.pat.scope acc.phys t.pat.bytes t.know)
            | .error _ => s
          else s
        (close s, .done)

/-- Opens a stream on the record at a pointer (R284, R285); an open stream of the register is first ended. The slots resolve here, when
the copy engine opens the stream, for a `ystr` that S issued inline as for C's. (DEDUCED, log entry 58.) -/
def State.openStream (s : State) (a : Agent) (v : VReg) (ptr : Word) (word : BitVec 32) (ipc : Word) : State × VStop :=
  let c := s.regs a
  match s.plainAccess (c.view a) ptr { size := 48, align := 16 } with
  | .error e => (s, e.stop)
  | .ok acc =>
    let p := Pattern.ofRecord (BitVec.ofNat 384 (s.read acc.key acc.phys 48))
    if p.invalid then (s, .fault 0x01#8 (word.setWidth 64) 0#64)
    else match s.endStream a v with
    | (t, .done) =>
      (t.onRegs a (fun c => c.setV v { c.getV v with
        full := true
        stream := some { pat := p, ipc := ipc, seats := c.b.toList.filterMap id, know := if p.acq then t.knowledge (c.coreNo a) else {} } }), .done)
    | r => r

/-- `ystr` and `yend` on S: a queue entry of the copy engine; on C: executed now (R15, R16). -/
def yarnInstr (srcs : List Src) (opnd : Ctx → Word) (run : State → Agent → Word → BitVec 32 → Word → State × VStop) (s : State) : Exec :=
  launch .copy [(14, 1)] (fun s =>
    let c := s.my
    match s.ndl with
    | .S =>
      if c.vecQ != [] || c.copyQ.length ≥ 32 then (s, .stall)
      else reading srcs (fun s =>
        let e : QEntry := { word := s.ir, opnd := opnd s.my, ipc := s.pc, seq := c.nextSeq }
        (s.onMy (fun c => { c with copyQ := c.copyQ ++ [e], nextSeq := c.nextSeq + 1 }), .done)) s
    | _ => reading srcs (fun s =>
        match run s s.who (opnd s.my) s.ir s.pc with
        | (t, .done) => (t, .done)
        | (_, .wait) => (s, .wait .full)
        | (_, .step) => (s, .stall)
        | (t, .fault e v0 v1) => (t, .trap e v0 v1)
        | (t, .stream v0 v1 ipc) => (t, .trapAt 0x14#8 v0 v1 ipc)) s) s

/-- `ystr vd, (xs1)` (R284, R285). -/
def execYstr (vd : VReg) (rs1 : XReg) (w : Bool) (s : State) : Exec :=
  yarnInstr [.x rs1 w] (·.getX rs1) (fun s a p word ipc => s.openStream a vd p word ipc) s

/-- `yend vd` (R289). -/
def execYend (vd : VReg) (s : State) : Exec :=
  yarnInstr [] (fun _ => 0#64) (fun s a _ _ _ => s.endStream a vd) s

/-- A party's engines act while the agent is on a core: a hub core always is. Those of a context that `ctxload` has restored resolve their
slots at its resume and act from then on (R124, R371). -/
def State.onCore (s : State) (a : Agent) : Bool :=
  s.moduleOn && match a with
    | .hub _ => true
    | .ctx i => match Sparse.find s.ctxs i with
      | some c => c.core.isSome && !c.loaded && (c.life == .running || c.life == .held || c.life == .ending)
      | none => false

/-- Records a fault of a stream at its next element (R288). -/
def Stream.record (t : Stream) (n : Nat) (e : MemFault) : Stream := { t with fault := some ⟨n, e.cause, e.sub, e.ptr.extractLsb' 0 48⟩ }

/-- STREAM_READ_AHEAD: the copy engine fetches the next element of an open read stream (R285); it records the first that
fails and fetches nothing beyond it (R288). -/
def execStreamReadAhead (a : Agent) (v : VReg) (s : State) : Exec :=
  let c := s.regs a
  .next (match (c.getV v).stream with
    | none => s
    | some t =>
      let n := t.pos + t.buf.length
      if t.pat.dir || t.fault.any (·.element ≤ n) || n ≥ t.pat.total || t.buf.length ≥ readAheadMax || !s.onCore a then s
      else
        let view := c.viewAt a t.seats
        let put (s : State) (t : Stream) : State := s.onRegs a (fun c => c.setV v { c.getV v with stream := some t })
        match s.plainAccess view (t.pat.pointer n) { size := t.pat.bytes, align := t.pat.bytes } with
        | .error e => put s (t.record n e)
        | .ok acc =>
          (put s { t with buf := t.buf ++ [BitVec.ofNat 64 (s.read acc.key acc.phys t.pat.bytes)] }).charge a [(byteEntry view acc, t.pat.bytes)])

/-- The copy engine writes the next pushed element of a write stream: plain, granules full, the record's tag (R286). -/
def State.writeOut (s : State) (a : Agent) (v : VReg) : State :=
  let c := s.regs a
  match (c.getV v).stream with
  | none => s
  | some t =>
    match t.buf with
    | [] => s
    | w :: ws =>
      if !t.pat.dir || t.fault.isSome then s
      else
        let view := c.viewAt a t.seats
        let put (s : State) (t : Stream) : State := s.onRegs a (fun c => c.setV v { c.getV v with stream := some t })
        match s.plainAccess view (t.pat.pointer t.pos) { size := t.pat.bytes, align := t.pat.bytes, write := true } with
        | .error e => put s (t.record t.pos e)
        | .ok acc =>
          let s := s.putPlain c.core acc t.pat.bytes w.toNat
          let s := if acc.region == .spad then (s.fillGranules acc.phys t.pat.bytes).tagTiles t.pat.tag acc.phys t.pat.bytes else s
          (put s { t with pos := t.pos + 1, buf := ws }).charge a [(byteEntry view acc, t.pat.bytes)]

/-- STREAM_WRITE_OUT (R286). -/
def execStreamWriteOut (a : Agent) (v : VReg) (s : State) : Exec := .next (if s.onCore a then s.writeOut a v else s)

end Sys2Proof.Machine
end

