-- ==== Sys2Proof/Machine/Copy.lean ====
section
/-! DEFINITION. Copies: the records, the checks at issue, chunks, credits, follow-on commands, completion, and the copy queue
(17_memory_instructions R290-R297; R143, R167-R169, R320, R361, R375). -/

namespace Sys2Proof.Machine
open Sys2Proof

/-! ## Records -/

/-- A copy's record, the two layouts of R293 and R295 as one. -/
structure CopyPlan where
  /-- Bytes of the byte stream. -/
  total : Nat
  /-- Bytes of a row. -/
  rowb : Nat
  rows : Nat
  /-- Base and pitch of each endpoint in memory; `none` for a register endpoint. -/
  src : Option (Word × Word)
  dst : Option (Word × Word)
  bar : Word
  tag : BitVec 6
  scope : BitVec 3
  rel : Bool
  acq : Bool
  /-- log2 of the element size, and the registers of the group. -/
  esz : Nat := 0
  grp : Nat := 1
  pk : Bool := false
  fow : Option (BitVec 32) := none
  fox : Word := 0#64
  deriving DecidableEq, Repr

/-- The record as it was read at issue. -/
def CopyOp.plan (o : CopyOp) : CopyPlan :=
  let r := o.record
  match o.kind with
  | .ytile =>
    let rows := (r.extractLsb' 256 32).toNat
    let rowb := (r.extractLsb' 288 32).toNat
    { total := rows * rowb, rowb := rowb, rows := rows
      src := some (r.extractLsb' 0 64, r.extractLsb' 128 64), dst := some (r.extractLsb' 64 64, r.extractLsb' 192 64)
      bar := r.extractLsb' 320 64, tag := r.extractLsb' 390 6, scope := r.extractLsb' 386 3, rel := r.getLsbD 385, acq := r.getLsbD 384
      pk := r.getLsbD 389, fow := if r.getLsbD 396 then some (r.extractLsb' 416 32) else none, fox := r.extractLsb' 448 64 }
  | k =>
    let mem : Word := r.extractLsb' 0 64
    let esz := (r.extractLsb' 96 2).toNat
    let n := (r.extractLsb' 64 32).toNat * 2 ^ esz
    { total := n, rowb := n, rows := 1, src := if k == .yld then some (mem, 0#64) else none, dst := if k == .yst then some (mem, 0#64) else none
      bar := r.extractLsb' 128 64, tag := r.extractLsb' 105 6, scope := r.extractLsb' 102 3, rel := r.getLsbD 101, acq := r.getLsbD 100
      esz := esz, grp := 2 ^ (r.extractLsb' 98 2).toNat }

/-- The mem word of a `yxfer` record: peer register in [13:8], peer core in [6:0] (R293). -/
def CopyOp.mem (o : CopyOp) : Word := o.record.extractLsb' 0 64

/-- The copy's register group. -/
def CopyOp.group (o : CopyOp) (p : CopyPlan) : Group := ⟨o.vreg.toNat, p.grp, 8 * 2 ^ p.esz, false⟩

/-- The peer group of a `yxfer`. -/
def CopyOp.peerGroup (o : CopyOp) (p : CopyPlan) : Group := ⟨(o.mem.extractLsb' 8 6).toNat, p.grp, 8 * 2 ^ p.esz, false⟩

/-- Does the copy name a register group (R293)? -/
def CopyKind.hasGroup (k : CopyKind) : Bool := k != .ytile

/-- Is the register group one that the copy writes? -/
def CopyKind.fills (k : CopyKind) : Bool := k == .yld || k == .yxfer

/-- The entry of a K slot that a pointer names, when it does. -/
def CopyOp.packedAt (o : CopyOp) (p : Word) : Option SlotEntry :=
  ((o.seats.find? (·.slot == p.extractLsb' 52 12)).map (·.entry)).filter (·.packed)

/-- The pointer to the row that holds stream byte `lo`, less that byte's place in it (R295). -/
def CopyPlan.rowOf (p : CopyPlan) (e : Word × Word) (lo : Nat) : Word := e.1 + BitVec.ofNat 64 (lo / p.rowb) * e.2

/-- The entry of the K slot that holds an endpoint's row with stream byte `lo`: a pitch may enter or leave one (R110, R143). -/
def CopyOp.packedRow (o : CopyOp) (p : CopyPlan) (e : Option (Word × Word)) (lo : Nat) : Option SlotEntry :=
  e.bind (fun e => o.packedAt (p.rowOf e lo))

/-- Is an endpoint a K slot, by its pointer in the record (R295)? -/
def CopyOp.packedEnd (o : CopyOp) (e : Option (Word × Word)) : Bool :=
  match e with
  | some (p, _) => (o.packedAt p).isSome
  | none => false

/-- A record whose fields break R293, R294, R295, R296 or R167, or a register that R287 excludes: code 0x01. -/
def CopyOp.invalid (o : CopyOp) (p : CopyPlan) (c : Ctx) : Bool :=
  p.scope.toNat > 4 ||
  match o.kind with
  | .ytile => p.total ≥ 2 ^ 32 || p.pk != (o.packedEnd p.src || o.packedEnd p.dst) || (match p.fow with
      | some w => !followOnOk w
      | none => false)
  | k =>
    let g := o.group p
    let count := p.total / 2 ^ p.esz
    count == 0 || count > 1024 * o.lanes.toNat * p.grp / g.eb || !g.aligned
      || (List.range p.grp).any (fun j => (c.stream (g.r + j)).isSome)
      || (k == .yxfer && (!(o.peerGroup p).aligned || o.mem &&& ~~~0x3F7F#64 != 0#64))

/-- The first row in a K slot whose offset, or whose length, is no multiple of 256 (R143, R295). -/
def CopyOp.packedFault (o : CopyOp) (p : CopyPlan) : Option MemFault :=
  let bad (e : Option (Word × Word)) : Option MemFault := e.bind (fun e =>
    ((List.range p.rows).find? (fun r =>
      let q := p.rowOf e (r * p.rowb)
      (o.packedAt q).isSome && q.extractLsb' 48 4 == 0#4 && (q.toNat % 256 != 0 || p.rowb % 256 != 0))).map (fun r =>
        ⟨0x0C#8, p.rowOf e (r * p.rowb), 1#64⟩))
  if p.rowb = 0 || !o.seats.any (·.entry.packed) then none else (bad p.src).or (bad p.dst)

/-! ## Status and completion -/

/-- The status word (R291). -/
def copyStatus (ipc : Word) (bytes : Nat) (code : BitVec 8) : Word :=
  ipc.extractLsb' 2 24 ++ BitVec.ofNat 32 bytes ++ code

/-- Code of the status word (R291, R296). -/
def CopyOp.finalCode (o : CopyOp) : BitVec 8 :=
  if o.code != 0#8 then o.code else match o.fail with
    | some e => e.cause
    | none => 0#8

/-- Completion: the status word is written, every destination turns full, and a failure is recorded for delivery (R290,
R291, R296, R361). -/
def State.completeCopy (s : State) (a : Agent) (o : CopyOp) : State :=
  let p := o.plan
  let code := o.finalCode
  let status := copyStatus o.ipc o.bytes code
  let s := s.onRegs a (fun c =>
    let c := { c with copies := c.copies.filter (·.seq != o.seq) }
    let c := if o.kind.fills && (o.group p).aligned then
        (List.range p.grp).foldl (fun c j =>
          let q : VReg := BitVec.ofNat 6 (o.vreg.toNat + j)
          c.setV q { c.getV q with full := true }) c
      else c
    let c := match p.fow with
      | some w => if o.follow == FollowOn.waiting then c.tilesFull true (((matOfWord w).map MInstr.tiles).getD []) else c
      | none => c
    let c := c.setX o.xd status
    match o.fail with
    | none => c
    | some e =>
      let onFollow := code.getLsbD 7
      { c with pend := c.pend ++ [{ seq := o.seq, xd := if o.xd = 0#5 then none else some o.xd, status := status
                                    iword := if onFollow then p.fow.getD 0#32 else o.word, kind := if onFollow then .matrix else .copy
                                    sub := e.sub, cause := e.cause, ptr := e.ptr, val1 := e.val1, ipc := o.ipc }] })
  match a with
  | .ctx i => s.settleEnd i
  | .hub _ => s

/-- Has a copy come to its outcome: a failure, or every chunk moved and no follow-on command left (R290, R296)? -/
def CopyOp.finished (o : CopyOp) : Bool :=
  o.fail.isSome || (o.nextChunk ≥ (o.plan.total + 63) / 64 && (o.follow == .none || o.follow == .finished))

/-! ## Issue -/

/-- The record's checks at issue, in order: the fields (code 0x01), K-slot alignment (0x0C), the barrier pointer (R292,
R297, R143). -/
def State.copyFault (s : State) (a : Agent) (o : CopyOp) : Option MemFault :=
  let p := o.plan
  let c := s.regs a
  if o.invalid p c then some ⟨0x01#8, 0#64, 0#64⟩
  else match o.packedFault p with
  | some e => some e
  | none =>
    if p.bar = 0#64 then none
    else match s.access (c.viewAt a o.seats) p.bar (barNeed true true) with
      | .error e => some e
      | .ok _ => none

/-- The copy that an instruction names, its record read at issue as one read (R290). -/
def State.readCopy (s : State) (a : Agent) (k : CopyKind) (rd : XReg) (vreg : VReg) (ptr : Word) : Except Act CopyOp :=
  let c := s.regs a
  let n := if k == .ytile then 64 else 32
  match s.plainAccess (c.view a) ptr { size := n, align := n } with
  | .error e => .error e.act
  | .ok acc =>
    .ok { kind := k, seq := c.nextSeq, word := s.ir, ipc := s.pc, xd := rd, vreg := vreg, record := BitVec.ofNat 512 (s.read acc.key acc.phys n)
          lanes := BitVec.ofNat 5 (s.lanes a), pblk := c.pblk, mapitch := c.mapitch, mwpitch := c.mwpitch, mzmap := c.mzmap
          seats := c.copySeats, inline := s.ndl == .S }

/-- Issues a copy: its destinations turn empty; a record that fails its checks completes at once (R290, R292, R296). -/
def State.issueCopy (s : State) (a : Agent) (o : CopyOp) (place : CopyOp → Ctx → Ctx) : State :=
  let p := o.plan
  let s := s.onRegs a (fun c => { c with nextSeq := c.nextSeq + 1 })
  match s.copyFault a o with
  | some e => s.completeCopy a { o with fail := some e, follow := if p.fow.any followOnOk then .waiting else .none }
  | none =>
    s.onRegs a (fun c =>
      let c := c.emptyX o.xd
      let c := if o.kind.fills then
          (List.range p.grp).foldl (fun c j =>
            let q : VReg := BitVec.ofNat 6 (o.vreg.toNat + j)
            c.setV q { c.getV q with full := false }) c
        else c
      let c := match p.fow with
        | some w => c.tilesFull false (((matOfWord w).map MInstr.tiles).getD [])
        | none => c
      let know : Knowledge := if p.acq then s.knowledge (c.coreNo a) else {}
      place { o with follow := if p.fow.isSome then .waiting else .none, know := know } c)

/-- Sources of a copy that wait on its w bit once the record is known: the group of a `yst` (R293, R198). -/
def CopyOp.sources (o : CopyOp) (w : Bool) (bad : Bool) : List Src :=
  if o.kind == .yst && !bad then [.v o.vreg o.plan.grp w] else []

/-- A copy instruction (R290): C hands the copy to the engine; S does too, or places it behind the queue (R16). -/
def copyInstr (k : CopyKind) (rd : XReg) (vreg : VReg) (rs1 : XReg) (w : Bool) (s : State) : Exec :=
  launch .copy [(14, 1)] (fun s =>
    let a := s.who
    let c := s.my
    let inline := s.ndl == .S
    let queued := inline && (c.copyQ != [] || c.copies.length ≥ 16)
    if (inline && k.hasGroup && (c.vecQ != [] || c.copyQ.any (fun e => isYarnWord e.word))) || (queued && c.copyQ.length ≥ 32)
        || (!inline && c.copies.length ≥ 16) then (s, .stall)
    else reading [.x rs1 w] (fun s =>
      match s.readCopy a k rd vreg (s.my.getX rs1) with
      | .error act => (s, act)
      | .ok o =>
        match s.my.unready (o.sources w (o.invalid o.plan s.my)) with
        | some act => (s, act)
        | none =>
          (s.issueCopy a o (fun o c =>
            if queued then { c with copyQ := c.copyQ ++ [{ word := o.word, opnd := s.my.getX rs1, ipc := o.ipc, seq := o.seq, copy := some o }] }
            else { c with copies := c.copies ++ [o] }), .done)) s) s

/-- `yld xd, vd, (xs1)` (R290, R293). -/
def execYld (rd : XReg) (vd : VReg) (rs1 : XReg) (w : Bool) (s : State) : Exec := copyInstr .yld rd vd rs1 w s
/-- `yst xd, vs, (xs1)` (R290, R293). -/
def execYst (rd : XReg) (vd : VReg) (rs1 : XReg) (w : Bool) (s : State) : Exec := copyInstr .yst rd vd rs1 w s
/-- `yxfer xd, vd, (xs1)` (R290, R294). -/
def execYxfer (rd : XReg) (vd : VReg) (rs1 : XReg) (w : Bool) (s : State) : Exec := copyInstr .yxfer rd vd rs1 w s
/-- `ytile xd, (xs1)` (R290, R295). -/
def execYtile (rd : XReg) (rs1 : XReg) (w1 : Bool) (s : State) : Exec := copyInstr .ytile rd 0#6 rs1 w1 s

/-! ## Chunks -/

/-- The runs of consecutive bytes that stream bytes [lo, hi) make at an endpoint: pointer and length (R295). -/
def segments (base pitch : Word) (rowb : Nat) : Nat → Nat → Nat → List (Word × Nat)
  | 0, _, _ => []
  | f + 1, lo, hi =>
    if lo ≥ hi || rowb = 0 then []
    else
      let j := lo % rowb
      let n := min (rowb - j) (hi - lo)
      (base + BitVec.ofNat 64 (lo / rowb) * pitch + BitVec.ofNat 64 j, n) :: segments base pitch rowb f (lo + n) hi

/-- Bytes read by a copy, as a little-endian number, and what they charge; `error none` waits. -/
abbrev Got := Except (Option MemFault) (Nat × Charge)

/-- Reads runs of bytes in order, each a plain access (R292). -/
def State.readRuns (s : State) (v : View) : List (Word × Nat) → Got
  | [] => .ok (0, [])
  | (p, n) :: rest =>
    match s.plainAccess v p { size := n, align := 1, copy := true } with
    | .error e => .error (some e)
    | .ok acc =>
      match s.readRuns v rest with
      | .error e => .error e
      | .ok (w, q) => .ok (s.read acc.key acc.phys n + 2 ^ (8 * n) * w, (byteEntry v acc, n) :: q)

/-- Pointers of the header and the frame of the packed block that a pointer names (R143); a malformed pointer raises 0x06 (R110). A
block whose header would lie past the plane is bounded as its frame is, which lies past the limit. -/
def SlotEntry.blockAt (e : SlotEntry) (p : Word) : Except MemFault (Word × Word) :=
  let k := p.toNat % 2 ^ 48 / 256
  let start : Word := p.extractLsb' 52 12 ++ 0#52
  let frame : Word := start + BitVec.ofNat 64 (min (e.headerPlane + 256 * k) (2 ^ 48 - 1))
  if p.extractLsb' 48 4 != 0#4 then .error ⟨0x06#8, p, 0#64⟩
  else .ok (if k < e.headerPlane then start + BitVec.ofNat 64 k else frame, frame)

/-- Reads and decodes the packed block that holds a pointer (R143, R146); 0x14 where it is malformed, as a block at or past n is whose
header would lie in the padding of the header plane, which holds zeros. (DEDUCED, log entry 59.) -/
def State.readBlock (s : State) (v : View) (e : SlotEntry) (p : Word) : Got :=
  match e.blockAt p with
  | .error x => .error (some x)
  | .ok (hp, fp) =>
  match s.plainAccess v hp { size := 1, align := 1, copy := true } with
  | .error e => .error (some e)
  | .ok acc =>
    let h := s.read acc.key acc.phys 1
    let bad : MemFault := ⟨0x14#8, p, 0#64⟩
    if h = 0 || h > 8 then .error (some bad)
    else match s.plainAccess v fp { size := frameBytes h, align := 1, copy := true } with
    | .error e => .error (some e)
    | .ok acc' =>
      match unpackBlock h (s.read acc'.key acc'.phys (frameBytes h)) with
      | none => .error (some bad)
      | some w => .ok (w, [(byteEntry v acc, 1), (byteEntry v acc', frameBytes h)])

/-- The peer whose registers a `yxfer` reads (R294). -/
def State.peerOf (s : State) (a : Agent) (o : CopyOp) : Except MemFault Nat :=
  let own := (s.regs a).core.getD 0
  let idx := (o.mem.extractLsb' 0 7).toNat
  let tgt := own / 128 * 128 + idx
  let k := s.core tgt
  if !s.cableAllows (own / 128) (own % 128) idx then .error ⟨0x13#8, o.mem, BitVec.ofNat 64 idx⟩
  else match k.resident with
    | none => .error ⟨0x11#8, o.mem, BitVec.ofNat 64 idx⟩
    | some i => if k.quiesced then .error ⟨0x11#8, o.mem, BitVec.ofNat 64 idx⟩ else .ok i

/-- Elements [lo, hi) of a register group as bytes. -/
def Ctx.groupBytes (c : Ctx) (ls : List Nat) (g : Group) (lo hi : Nat) : Nat :=
  joinWords g.eb ((List.range (hi - lo)).map (fun k => c.read ls g (lo + k)))

/-- The fault of an uncorrectable register word as a memory fault (R118). -/
def badRegFault (r : Nat) : MemFault := ⟨0x17#8, regWord 2#2 r, BitVec.ofNat 64 (2 ^ 63)⟩

/-- Where the source is a K slot, its block is decoded whole before its first chunk is written, and kept for the others; a copy
that has been restored decodes it again (R143, R371). -/
def State.fetchBlock (s : State) (a : Agent) (o : CopyOp) (p : CopyPlan) (lo : Nat) : Except (Option MemFault) (CopyOp × Charge) :=
  match p.src with
  | none => .ok (o, [])
  | some (base, pitch) =>
    match o.packedRow p p.src lo with
    | none => .ok (o, [])
    | some e =>
      if lo % 256 ≠ 0 && o.block.isSome then .ok (o, [])
      else match segments base pitch p.rowb 1 (lo / 256 * 256) (lo / 256 * 256 + 256) with
      | (q, _) :: _ => (s.readBlock ((s.regs a).viewAt a o.seats) e q).map (fun r => ({ o with block := some r.1 }, r.2))
      | [] => .ok (o, [])

/-- Reads stream bytes [lo, hi) of a copy at its source; those of a K slot come from the block decoded last. -/
def State.copyRead (s : State) (a : Agent) (o : CopyOp) (p : CopyPlan) (lo hi : Nat) : Got :=
  let c := s.regs a
  let v := c.viewAt a o.seats
  match p.src with
  | some (base, pitch) =>
    match o.packedRow p p.src lo with
    | some _ => .ok (o.block.getD 0 / 2 ^ (8 * (lo % 256)) % 2 ^ (8 * (hi - lo)), [])
    | none => s.readRuns v (segments base pitch p.rowb 64 lo hi)
  | none =>
    let es := 2 ^ p.esz
    let from_ (b : Agent) (g : Group) : Got :=
      let ls := lanesOf (s.lanemap b)
      let bad := s.badRegs b
      match if bad = [] then none else badAmong bad ((List.range (hi / es - lo / es)).flatMap (fun k => g.words ls (lo / es + k))) with
      | some r => .error (some (badRegFault r))
      | none => .ok ((s.regs b).groupBytes ls g (lo / es) (hi / es), [])
    if o.kind == .yxfer then
      match s.peerOf a o with
      | .error e => .error (some e)
      | .ok i =>
        let b : Agent := .ctx i
        let g := o.peerGroup p
        let ls := lanesOf (s.lanemap b)
        let regs := ((List.range (hi / es - lo / es)).map (fun k => g.r + (lanePlace ls g.eb (lo / es + k)).1)).eraseDups
        if regs.all (fun r => let x := (s.regs b).getV (BitVec.ofNat 6 r); x.full && x.stream.isNone) then from_ b g else .error none
    else from_ a (o.group p)

/-- Writes runs whose checks have passed: plain, granules full, the record's tag (R126, R128, R292). -/
def State.putRuns (s : State) (core : Option Nat) (tag : BitVec 6) : List (Access × Nat) → Nat → State
  | [], _ => s
  | (acc, n) :: rest, w =>
    let s := s.putPlain core acc n (w % 2 ^ (8 * n))
    let s := if acc.region == .spad then (s.fillGranules acc.phys n).tagTiles tag acc.phys n else s
    s.putRuns core tag rest (w / 2 ^ (8 * n))

/-- Checks runs before anything of them is written (R292). -/
def State.checkRuns (s : State) (v : View) : List (Word × Nat) → Except MemFault (List (Access × Nat))
  | [] => .ok []
  | (p, n) :: rest =>
    match s.plainAccess v p { size := n, align := 1, write := true, copy := true } with
    | .error e => .error e
    | .ok acc => (s.checkRuns v rest).map ((acc, n) :: ·)

/-- Writes stream bytes [lo, hi) at a copy's destination, or fails with nothing of them written. -/
def State.copyWrite (s : State) (a : Agent) (o : CopyOp) (p : CopyPlan) (lo hi w : Nat) : Except MemFault State :=
  let c := s.regs a
  let v := c.viewAt a o.seats
  match p.dst with
  | some (base, pitch) =>
    match o.packedRow p p.dst lo with
    | some e =>
      match segments base pitch p.rowb 1 lo hi with
      | (q, _) :: _ =>
        match e.blockAt q with
        | .error x => .error x
        | .ok (hp, fp) =>
        let (h, frame) := packBlock w
        match s.checkRuns v [(hp, 1), (fp, frameBytes h)] with
        | .error x => .error x
        | .ok accs => .ok ((s.putRuns c.core p.tag accs (h + 256 * frame)).charge a (accs.map (fun x => (byteEntry v x.1, x.2))))
      | [] => .ok s
    | none =>
      match s.checkRuns v (segments base pitch p.rowb 64 lo hi) with
      | .error x => .error x
      | .ok accs => .ok ((s.putRuns c.core p.tag accs w).charge a (accs.map (fun x => (byteEntry v x.1, x.2))))
  | none =>
    let es := 2 ^ p.esz
    let g := o.group p
    let ls := lanesOf (s.lanemap a)
    let n := hi / es - lo / es
    let bad := s.badRegs a
    match if bad = [] || es ≥ 4 then none else badAmong bad ((List.range n).flatMap (fun k => g.words ls (lo / es + k))) with
    | some r => .error (badRegFault r)
    | none =>
      let s := s.putGroup a ls g ((List.range n).map (fun k => (lo / es + k, w / 2 ^ (g.eb * k) % 2 ^ g.eb)))
      -- a copy ignores vl: its registers' valid length is 128 (R368)
      .ok (s.onRegs a (fun c => c.markV g ls.length (1024 * ls.length * p.grp) p.tag false))

/-! ## Credits, release, the follow-on command -/

/-- The check of the barrier word that a copy credits, made before a chunk moves: a copy that resumes without the barrier's slot, or
whose barrier word is uncorrectable, fails here (R124, R139, R215). (DEDUCED, log entry 60.) -/
def State.barCheck (s : State) (a : Agent) (o : CopyOp) (p : CopyPlan) : Option MemFault :=
  if p.bar = 0#64 then none
  else match s.access ((s.regs a).viewAt a o.seats) p.bar (barNeed true true) with
    | .error e => some e
    | .ok _ => none

/-- One barrier credit (R297, R163, R169): Arrive with the chunk's bytes. -/
def State.credit (s : State) (a : Agent) (o : CopyOp) (p : CopyPlan) (n : Nat) : State :=
  if p.bar = 0#64 then s
  else match s.access ((s.regs a).viewAt a o.seats) p.bar (barNeed true true) with
    | .error _ => s
    | .ok acc => s.arrive a acc n p.scope (some o.know)

/-- Sizes of the chunks of stream bytes [lo, hi). -/
def chunkSizes (lo hi : Nat) : List Nat := (List.range ((hi - lo + 63) / 64)).map (fun k => min 64 (hi - lo - 64 * k))

/-- Performs credits in chunk order. -/
def State.credits (s : State) (a : Agent) (o : CopyOp) (p : CopyPlan) (ns : List Nat) : State := ns.foldl (fun s n => s.credit a o p n) s

/-- The last byte that a copy writes at an endpoint in memory: the byte stream's last, or in a K slot the last of its block's frame, whose
length the header that it has just written says (R143). -/
def State.lastByte (s : State) (v : View) (o : CopyOp) (p : CopyPlan) (e : Word × Word) : Option Word :=
  match segments e.1 e.2 p.rowb 1 (p.total - 1) p.total, o.packedRow p (some e) (p.total - 1) with
  | [], _ => none
  | (q, _) :: _, none => some q
  | (q, _) :: _, some k =>
    match k.blockAt q with
    | .error _ => none
    | .ok (hp, fp) =>
      match s.access v hp { size := 1, align := 1, copy := true } with
      | .error _ => none
      | .ok acc => some (fp + BitVec.ofNat 64 (frameBytes (s.read acc.key acc.phys 1) - 1))

/-- The release after the last write, when rel is set (R169). The write that carries it is the last byte written alone. (DEDUCED, log
entry 61.) -/
def State.copyRelease (s : State) (a : Agent) (o : CopyOp) (p : CopyPlan) : State :=
  if !p.rel || p.total = 0 then s
  else
    let c := s.regs a
    let s := s.countRelease (c.coreNo a) p.scope
    match p.dst.bind (s.lastByte (c.viewAt a o.seats) o p) with
    | none => s
    | some q =>
      match s.access (c.viewAt a o.seats) q { size := 1, align := 1, write := true, copy := true } with
      | .error _ => s
      | .ok acc => s.addRelease (s.releaseOp (c.coreNo a) p.scope acc.phys 1 o.know)

/-- Places the follow-on command behind every entry of the matrix queue, with fox as x[rs1] (R296, R303, R320). -/
def State.placeFollowOn (s : State) (a : Agent) (o : CopyOp) (p : CopyPlan) (w : BitVec 32) : State :=
  let e : QEntry := { word := w, fo := some o.seq, opnd := p.fox, pblk := o.pblk, mapitch := o.mapitch, mwpitch := o.mwpitch, mzmap := o.mzmap
                      ipc := o.ipc, seq := o.seq, byS := false }
  s.onRegs a (fun c => { c with matQ := c.matQ ++ [e] })

/-- Changes a copy in flight. -/
def State.onCopy (s : State) (a : Agent) (seq : Nat) (f : CopyOp → CopyOp) : State :=
  s.onRegs a (fun c => { c with copies := c.copies.map (fun o => if o.seq == seq then f o else o) })

/-- After the last write: the follow-on command is placed when the matrix queue has room, and then the last credits are
performed (R296, R320). -/
def State.endOfCopy (s : State) (a : Agent) (o : CopyOp) (p : CopyPlan) (ns : List Nat) : State :=
  match p.fow with
  | none => s.credits a o p ns
  | some w =>
    if (s.regs a).matQ.length ≥ 32 then s
    else ((s.placeFollowOn a o p w).credits a o p ns).onCopy a o.seq (fun o => { o with follow := .queued })

/-- Stream bytes that one step of a copy moves from byte `lo` on: a chunk, or the block that a row in a K slot is written by
(R143, R292). -/
def CopyOp.stepBytes (o : CopyOp) (p : CopyPlan) (lo : Nat) : Nat := if (o.packedRow p p.dst lo).isSome then 256 else 64

/-- COPY_CHUNK: the engine moves the next chunk of a copy (R292), the block of four where the destination is a K slot
(R143); after the last it releases, places the follow-on command and credits (R296, R297, R320). -/
def State.chunk (s : State) (a : Agent) (o : CopyOp) : State :=
  let p := o.plan
  let lo := 64 * o.nextChunk
  let hi := min (lo + o.stepBytes p lo) p.total
  let failed (e : MemFault) : State := s.onCopy a o.seq (fun o => { o with fail := some e })
  if o.fail.isSome || o.parked || (lo ≥ p.total && o.follow != .waiting) then s
  else match s.barCheck a o p with
  | some e => failed e
  | none =>
  if lo ≥ p.total then s.endOfCopy a o p (if p.total = 0 then [] else chunkSizes ((p.total - 1) / o.stepBytes p (p.total - 1) * o.stepBytes p (p.total - 1)) p.total)
  else
    let parts := chunkSizes lo hi
    match s.fetchBlock a o p lo with
    | .error none => s
    | .error (some e) => failed e
    | .ok (o, q0) =>
    let got : Got := parts.zipIdx.foldl (fun r e =>
      match r with
      | .error x => .error x
      | .ok (w, q) =>
        let b := lo + 64 * e.2
        match s.copyRead a o p b (b + e.1) with
        | .error x => .error x
        | .ok (w', q') => .ok (w + 2 ^ (8 * (b - lo)) * w', q ++ q')) (.ok (0, q0))
    match got with
    | .error none => s
    | .error (some e) => failed e
    | .ok (w, q) =>
      match s.copyWrite a o p lo hi w with
      | .error e => failed e
      | .ok t =>
        let o' : CopyOp := { o with nextChunk := o.nextChunk + parts.length, bytes := hi }
        let t := (t.charge a q).onCopy a o.seq (fun _ => o')
        if hi < p.total then t.credits a o' p parts
        else (t.copyRelease a o' p).endOfCopy a o' p parts

/-- COPY_CHUNK of the copy with an issue number (R292). -/
def execCopyChunk (a : Agent) (k : Nat) (s : State) : Exec :=
  .next (match (s.regs a).copies.find? (·.seq == k) with
    | some o => if s.onCore a then s.chunk a o else s
    | none => s)

/-- COPY_COMPLETION of the copy with an issue number (R290). -/
def execCopyCompletion (a : Agent) (k : Nat) (s : State) : Exec :=
  .next (match (s.regs a).copies.find? (·.seq == k) with
    | some o => if s.onCore a && o.finished && !o.parked then s.completeCopy a o else s
    | none => s)

/-! ## The inline queues -/

/-- The copy engine stands at the head of its queue (R16): a copy is handed to the engine while it has room; `ystr` and
`yend` are executed, and a fault of theirs holds the context with the entry at the head (R358). -/
def State.runCopyHead (s : State) (a : Agent) : State :=
  let c := s.regs a
  match c.copyQ with
  | [] => s
  | e :: es =>
    match e.copy with
    | some o => if c.copies.length ≥ 16 then s else s.setRegs a { c with copyQ := es, copies := c.copies ++ [o] }
    | none =>
      let v : VReg := e.word.extractLsb' 20 6
      let r := if e.word.extractLsb' 27 5 == 9#5 then s.openStream a v e.opnd e.word e.ipc else s.endStream a v
      match r.2 with
      | .done => r.1.onRegs a (fun c => { c with copyQ := es })
      | .wait | .step => s
      | .fault x v0 v1 => r.1.takeTrap a .S x v0 v1 e.ipc e.ipc
      | .stream v0 v1 ipc => r.1.takeTrap a .S 0x14#8 v0 v1 e.ipc ipc

/-- ENGINE_QUEUE_ENTRY: an engine executes the head entry of its inline queue (R16, R358). -/
def execEngineQueueEntry (a : Agent) (q : Engine) (s : State) : Exec :=
  .next (if !s.runs a then s else match q with
    | .vector => s.runVecHead a
    | .copy => s.runCopyHead a)

end Sys2Proof.Machine
end

