-- ==== Sys2Proof/Machine/FabSend.lean ====
section
/-! DEFINITION. The requester's side of the fabric: packets, sequences, the combining buffer, forwarding, outcomes, replies,
owner restart and retransmission (26_fabric_and_exactly_once R385-R387, R395-R399, R403-R405, R407-R409, R413, R415). -/

namespace Sys2Proof.Machine
open Sys2Proof

/-! ## Packets (R387) -/

/-- A request with every field 0. -/
def blankPacket : Packet :=
  { op := 0#8, rsp := false, new := false, ch := false, rt := false, fl := false, dst := 0#16, src := 0#16, sid := 0#16
    serial := 0#32, key := 0#32, offset := 0#48, inc := 0#16, ack := 0#32, n := 0#16, status := 0#8, opd0 := 0#64
    opd1 := 0#64, name := 0#64, red := 0#64, payload := [] }

/-- Flits of a payload. -/
def flitsOf (bytes : List Byte) : Nat := (bytes.length + 63) / 64

/-- A packet with a payload, and the number of its flits, at most 16 (R387). -/
def withPayload (pk : Packet) (bytes : List Byte) : Packet := { pk with payload := bytes, pf := BitVec.ofNat 8 (flitsOf bytes) }

/-- The payload that a packet's `pf` flits hold (R387). -/
def packetBody (pk : Packet) : List Byte := pk.payload.take (64 * min 16 pk.pf.toNat)

/-- The header flit of a packet (R387). -/
def packetHeader (pk : Packet) : BitVec 512 :=
  pk.red ++ pk.name ++ pk.opd1 ++ pk.opd0 ++ pk.pf ++ pk.status ++ pk.n ++ pk.ack ++ pk.inc ++ pk.offset ++ pk.key ++ pk.serial ++ pk.sid ++ pk.src ++ pk.dst
    ++ BitVec.ofBool pk.rsp ++ 0#3 ++ BitVec.ofBool pk.new ++ BitVec.ofBool pk.ch ++ BitVec.ofBool pk.rt ++ BitVec.ofBool pk.fl ++ pk.op

/-- Loads and indexed gets carry no serial (R387). -/
def isLoadOp (op : BitVec 8) : Bool := op == 0x01#8 || op == 0x07#8
/-- Stores and indexed puts are acknowledged, not answered with a result (R397). -/
def isStoreOp (op : BitVec 8) : Bool := op == 0x02#8 || op == 0x08#8

/-- Serial `b` is later than serial `a` (R398). -/
def serialLater (b a : BitVec 32) : Bool := 1 ≤ (b - a).toNat && (b - a).toNat ≤ 2 ^ 31 - 1

/-- Incarnation `b` is newer than `a` (R402). -/
def incNewer (b a : BitVec 16) : Bool := 1 ≤ (b - a).toNat && (b - a).toNat ≤ 2 ^ 15 - 1

/-- Bytes as a little-endian number. -/
def bytesNat (bs : List Byte) : Nat := joinWords 8 (bs.map BitVec.toNat)

/-- The `n` low bytes of a number, lowest first. -/
def natBytes (n w : Nat) : List Byte := (List.range n).map (fun k => BitVec.ofNat 8 (w / 2 ^ (8 * k)))

/-- `n` bytes of a number as whole flits of 64. -/
def natFlits (n w : Nat) : List Byte := natBytes ((n + 63) / 64 * 64) (w % 2 ^ (8 * n))

/-- Store data of a packet of `n` bytes: opd0, or payload flits where it is longer (DESIGN CHOICE, log entry 30). -/
def packetData (pk : Packet) : Nat :=
  if pk.n.toNat ≤ 8 then pk.opd0.toNat % 2 ^ (8 * pk.n.toNat) else bytesNat (packetBody pk) % 2 ^ (8 * pk.n.toNat)

/-- A packet with `n` bytes of store data at an offset. -/
def packetWith (pk : Packet) (off : BitVec 48) (n w : Nat) : Packet :=
  withPayload { pk with offset := off, n := BitVec.ofNat 16 n, opd0 := BitVec.ofNat 64 w } (if n ≤ 8 then [] else natFlits n w)

/-- The 32-bit offsets of an indexed packet (R387). -/
def packetOffsets (pk : Packet) : List Nat :=
  (List.range pk.n.toNat).map (fun k => bytesNat (((packetBody pk).drop (4 * k)).take 4))

/-- Element `k` of `sz` bytes from the data flits of an indexed packet, which follow its offset flits (R387). -/
def elementOf (payload : List Byte) (n sz k : Nat) : Nat := bytesNat ((payload.drop (64 * ((n + 15) / 16) + sz * k)).take sz)

/-- Payload of an indexed packet: offset flits, then data flits (R387). -/
def indexFlits (offs : List Nat) (sz : Nat) (data : List Nat) : List Byte :=
  natFlits (4 * offs.length) (joinWords 32 offs) ++ natFlits (sz * data.length) (joinWords (8 * sz) data)

/-! ## Sequences -/

/-- R: every serial up to it has its outcome (R399). -/
def Seq.rack (q : Seq) : BitVec 32 :=
  match q.ops.find? (fun o => !isLoadOp o.pk.op) with
  | some o => o.pk.serial - 1#32
  | none => q.next - 1#32

/-- The fields that a packet takes from its sequence, the partition and the device's incarnation when it is sent (R387, R399, R402). -/
def Seq.stamp (q : Seq) (p : Part) (inc : BitVec 16) (pk : Packet) : Packet :=
  { pk with dst := q.ep, src := p.epid, sid := q.sid, inc := inc, ack := q.rack }

/-- Is an operation held for its acquire flag: a remote store issued before it is not acknowledged yet (R407)? -/
def Part.held (p : Part) (who : Requester) (o : FabOp) : Bool :=
  match o.holdFor with
  | none => false
  | some k => p.seqs.any (fun q => q.who == who && q.ops.any (fun x => isStoreOp x.pk.op && x.issuers.any (·.seq < k)))

/-- The bits of a header occupy one flit, and the packet is its header and its payload flits (R387). -/
def packetFlits (pk : Packet) : List Byte := (List.range 64).map (fun k => (packetHeader pk).extractLsb' (8 * k) 8) ++ packetBody pk

/-- Bytes of one element of an indexed packet (DESIGN CHOICE, log entry 30). -/
def indexSize (pk : Packet) : Nat := 2 ^ (pk.opd1.toNat % 4)

/-- Offsets that an indexed packet names. -/
def indexOffsets (pk : Packet) : List Nat := (packetOffsets pk).map (fun o => (pk.offset.toNat + o) % 2 ^ 48)

/-- Is a packet's data a list of elements with offsets? -/
def isIndexOp (op : BitVec 8) : Bool := op == 0x07#8 || op == 0x08#8

/-- The bytes that a packet's operation touches: offset and length of each run. -/
def packetRuns (pk : Packet) : List (Nat × Nat) :=
  if isIndexOp pk.op then (indexOffsets pk).map (fun o => (o, indexSize pk)) else [(pk.offset.toNat, pk.n.toNat)]

/-- The values that a store's packet writes, run by run. -/
def packetValues (pk : Packet) : List Nat :=
  if isIndexOp pk.op then (List.range pk.n.toNat).map (elementOf (packetBody pk) pk.n.toNat (indexSize pk)) else [packetData pk]

/-- The byte at an offset that a store's packet writes last. -/
def packetByte (pk : Packet) (b : Nat) : Option Byte :=
  (((packetRuns pk).zip (packetValues pk)).reverse.find? (fun e => e.1.1 ≤ b && b < e.1.1 + e.1.2)).map (fun e => BitVec.ofNat 8 (e.2 / 2 ^ (8 * (b - e.1.1))))

/-- The newest byte that unacknowledged stores of a requester hold for a far location (R396, R171). -/
def Part.newest (p : Part) (who : Requester) (ep : BitVec 16) (key : BitVec 32) (b : Nat) : Option Byte :=
  let hit (o : FabOp) : Bool := isStoreOp o.pk.op && o.pk.key == key && (packetByte o.pk b).isSome
  let ops := (p.seqs.filter (fun q => q.who == who && q.ep == ep)).flatMap (fun q => q.ops.filter hit)
  let age (o : FabOp) : Nat := (o.issuers.map (·.seq)).foldl max 0
  (ops.foldl (fun (best : Option FabOp) o => match best with
    | none => some o
    | some x => if age x < age o then some o else best) none).bind (fun o => packetByte o.pk b)

/-- How unacknowledged stores cover `n` bytes of a far location: all of them, none, or some (R396). -/
inductive Cover where
  | all (w : Nat)
  | none
  | some
  deriving DecidableEq, Repr

/-- Coverage of a load. -/
def Part.cover (p : Part) (who : Requester) (ep : BitVec 16) (key : BitVec 32) (off : BitVec 48) (n : Nat) : Cover :=
  let bs := (List.range n).map (fun k => p.newest who ep key (off.toNat + k))
  if bs.all (·.isSome) then .all (bytesNat (bs.filterMap id))
  else if bs.any (·.isSome) then .some else .none

/-- What keeps an unsent operation back: nothing; or itself alone; or it and all behind it. -/
inductive Gate3 where
  | send | skip | stop
  deriving DecidableEq, Repr

/-- Does a load or indexed get wait for this reply? Loads carry no serial: operation, key, offset, size, and the offsets of an indexed
get tell them apart. (DEDUCED, log entry 34.) -/
def FabOp.reads (o : FabOp) (pk : Packet) : Bool :=
  o.pk.op == pk.op && o.pk.key == pk.key && o.pk.offset == pk.offset && o.pk.n == pk.n && (pk.op != 0x07#8 || packetOffsets o.pk == packetOffsets pk)

/-- An earlier load of the sequence that no reply could tell from this one. -/
def Seq.twin (q : Seq) (o : FabOp) : Bool := isLoadOp o.pk.op && (q.ops.takeWhile (· != o)).any (·.reads o.pk)

/-- A packet waits while it is open or held, and the later ones of its sequence with it (R396, R407); a load that is partly
covered (R396), or that its reply could not be told from another's, waits on its own. -/
def Part.gate (p : Part) (q : Seq) (o : FabOp) : Gate3 :=
  if o.open_ || p.held q.who o then .stop
  else if q.twin o then .skip
  else if o.pk.op == 0x01#8 && p.cover q.who q.ep o.pk.key o.pk.offset o.pk.n.toNat == .some then .skip
  else .send

/-- Sends the operations that may be sent, in order. -/
def pumpOps (gate : FabOp → Gate3) : List FabOp → List FabOp × List Packet
  | [] => ([], [])
  | o :: os =>
    let rest := pumpOps gate os
    if o.sent then (o :: rest.1, rest.2)
    else match gate o with
      | .send => ({ o with sent := true } :: rest.1, o.pk :: rest.2)
      | .skip => (o :: rest.1, rest.2)
      | .stop => (o :: os, [])

/-- What a sequence sends now: packets that may go; else an acknowledgement after 64 outcomes; close when it is to close and
nothing is outstanding (R396, R399). -/
def Seq.pump (p : Part) (inc : BitVec 16) (q : Seq) : Seq × List Packet :=
  let r := pumpOps (p.gate q) q.ops
  let pks := r.2.map (q.stamp p inc)
  let ackOnly := pks == [] && q.unreported ≥ 64
  let close := q.closing && q.ops == [] && !q.closeSent
  ({ q with ops := r.1, unreported := if pks != [] || ackOnly then 0 else q.unreported, closeSent := q.closeSent || close },
    pks ++ (if ackOnly then [q.stamp p inc { blankPacket with op := 0x0E#8 }] else []) ++ (if close then [q.stamp p inc { blankPacket with op := 0x0F#8 }] else []))

/-- Packets that leave a partition. -/
def State.emit (s : State) (pi : Nat) (pks : List Packet) : State := { s with outputs := s.outputs ++ pks.map (.packet pi) }

/-- Every sequence of a partition sends what it may. -/
def State.pump (s : State) (pi : Nat) : State :=
  let p := s.part pi
  let rs := p.seqs.map (Seq.pump p s.incarnation)
  (s.setPart pi { p with seqs := rs.map (·.1) }).emit pi (rs.flatMap (·.2))

/-- Closes every open packet of a requester: no more stores join it, and it is sent (R396). -/
def Part.closeOpens (p : Part) (t : Requester → Bool) : Part :=
  { p with seqs := p.seqs.map (fun q => if t q.who then { q with ops := q.ops.map (fun o => { o with open_ := false }) } else q) }

/-- The sequence id that a new sequence takes: the first from the partition's counter that no sequence has (R395). -/
def Part.freshSid (p : Part) : BitVec 16 :=
  ((List.range (p.seqs.length + 1)).map (fun k => p.nextSid + BitVec.ofNat 16 k)).find? (fun k => !p.seqs.any (·.sid == k)) |>.getD p.nextSid

/-- Adds a sequence. -/
def Part.addSeq (p : Part) (who : Requester) (stream : BitVec 3) (ep : BitVec 16) (ops : List FabOp) : Part :=
  { p with seqs := p.seqs ++ [{ who := who, stream := stream, ep := ep, sid := p.freshSid, ops := ops }], nextSid := p.freshSid + 1#16 }

/-- The sequence of a stream for an owner. -/
def Seq.isFor (q : Seq) (who : Requester) (stream : BitVec 3) (ep : BitVec 16) : Bool :=
  q.who == who && q.stream == stream && q.ep == ep && !q.closing

/-- Replaces the first entry that satisfies a test. -/
def updateFirst {α : Type} (t : α → Bool) (f : α → α) : List α → List α
  | [] => []
  | x :: xs => if t x then f x :: xs else x :: updateFirst t f xs

/-- Makes sure that a stream has a sequence for an owner. With 16 owners an idle sequence is closed first; `none` stalls
(R395). -/
def Part.seqFor (p : Part) (who : Requester) (stream : BitVec 3) (ep : BitVec 16) : Option Part :=
  if p.seqs.any (·.isFor who stream ep) then some p
  else
    let mine (q : Seq) : Bool := q.who == who && q.stream == stream && !q.closing
    if (p.seqs.filter mine).length < 16 then some (p.addSeq who stream ep [])
    else
      let idle (q : Seq) : Bool := mine q && q.ops == []
      if p.seqs.any idle then some ({ p with seqs := updateFirst idle (fun q => { q with closing := true }) p.seqs }.addSeq who stream ep [])
      else none

/-- A sequence with room for `n` more serials: 4,096 may be outstanding beyond R (R395). -/
def Part.roomFor (p : Part) (who : Requester) (stream : BitVec 3) (ep : BitVec 16) (n : Nat) : Option Part :=
  match p.seqFor who stream ep with
  | none => none
  | some p =>
    if p.seqs.any (fun q => q.isFor who stream ep && (q.next - 1#32 - q.rack).toNat + n ≤ 4096) then some p else none

/-- An operation joins a sequence; all but loads take the next serial (R395). -/
def Seq.add (q : Seq) (o : FabOp) : Seq :=
  if isLoadOp o.pk.op then { q with ops := q.ops ++ [o] }
  else { q with ops := q.ops ++ [{ o with pk := { o.pk with serial := q.next, new := !q.started } }], next := q.next + 1#32, started := true }

/-- Places an 8-byte word of a line among others in order of offset, over one at the same offset. -/
def putWord (x : Nat × Nat) : List (Nat × Nat) → List (Nat × Nat)
  | [] => [x]
  | y :: ys => if x.1 < y.1 then x :: y :: ys else if x.1 = y.1 then x :: ys else y :: putWord x ys

/-- The 8-byte words that a packet of combined stores holds. -/
def packetWords (pk : Packet) : List (Nat × Nat) :=
  if pk.op == 0x08#8 then (indexOffsets pk).zip (packetValues pk)
  else (List.range (pk.n.toNat / 8)).map (fun k => (pk.offset.toNat + 8 * k, packetData pk / 2 ^ (64 * k) % 2 ^ 64))

/-- A packet of 8-byte words at rising offsets: a store where they touch, else an indexed put of 8-byte elements. (DESIGN CHOICE, log
entry 30.) -/
def wordsPacket (pk : Packet) (ws : List (Nat × Nat)) : Packet :=
  let lo := (ws.head?.map (·.1)).getD 0
  if ws.zipIdx.all (fun x => x.1.1 == lo + 8 * x.2) then
    packetWith { pk with op := 0x02#8, opd1 := 0#64 } (BitVec.ofNat 48 lo) (8 * ws.length) (joinWords 64 (ws.map (·.2)))
  else
    withPayload { pk with op := 0x08#8, offset := BitVec.ofNat 48 lo, n := BitVec.ofNat 16 ws.length, opd0 := 0#64, opd1 := 3#64 }
      (indexFlits (ws.map (·.1 - lo)) 8 (ws.map (·.2)))

/-- A store joins the open packet of its sequence: same key, same 64-byte line (R396). (DEDUCED, log entry 34.) -/
def Seq.combine (q : Seq) (o : FabOp) : Option Seq :=
  match q.ops.getLast? with
  | none => none
  | some l =>
    let b := o.pk.offset.toNat
    let old := packetWords l.pk
    if l.open_ && o.open_ && l.pk.key == o.pk.key && old.all (fun w => w.1 / 64 == b / 64) then
      let ws := putWord (b, packetData o.pk) old
      let l := { l with pk := wordsPacket l.pk ws, issuers := l.issuers ++ o.issuers, open_ := ws.length < 8 }
      some { q with ops := q.ops.dropLast ++ [l] }
    else none

/-- Issues an operation on a sequence that has room. A store that does not join the open packet, or any other operation,
ends the requester's open packets (R396). -/
def Part.issue (p : Part) (who : Requester) (stream : BitVec 3) (ep : BitVec 16) (o : FabOp) : Part :=
  match if o.pk.op == 0x02#8 then (p.seqs.find? (·.isFor who stream ep)).bind (·.combine o) else none with
  | some q => { p with seqs := updateFirst (·.isFor who stream ep) (fun _ => q) p.seqs }
  | none =>
    let p := p.closeOpens (· == who)
    { p with seqs := updateFirst (·.isFor who stream ep) (·.add o) p.seqs }

/-! ## An owner on this device -/

/-- An entry of the region table. -/
structure FarRegion where
  writable : Bool
  valid : Bool
  kid : BitVec 7
  base : BitVec 48
  gen : BitVec 16
  len : BitVec 48
  deriving DecidableEq, Repr

/-- Physical address of the region-table entry of a key (R392, R393). -/
def Part.regionAddr (p : Part) (key : BitVec 32) : Nat := p.rtbase.toNat * 16 + 16 * (key.extractLsb' 0 16).toNat

/-- The region-table entry of a key. -/
def State.region (s : State) (p : Part) (key : BitVec 32) : FarRegion :=
  let a := p.regionAddr key
  let w0 : Word := BitVec.ofNat 64 (s.read 0 a 8)
  let w1 : Word := BitVec.ofNat 64 (s.read 0 (a + 8) 8)
  ⟨w0.getLsbD 56, w0.getLsbD 55, w0.extractLsb' 48 7, w0.extractLsb' 0 48, w1.extractLsb' 48 16, w1.extractLsb' 0 48⟩

/-- The bytes of a region as an access. -/
def State.farAccess (s : State) (p : Part) (key : BitVec 32) (off : Nat) : Access :=
  let r := s.region p key
  let base := r.base.toNat / 256 * 256
  ⟨base + off, r.kid.toNat, (regionOf base).getD .hbm⟩

/-- The partition of this device that has an endpoint id. -/
def State.partOf (s : State) (ep : BitVec 16) : Option Part := (s.parts.find? (fun e => e.2.epid == ep)).map (·.2)

/-- The releases that a request's write is, when a party of this device issued it: packets carry none from another device (R153, R161; log
entry 62). -/
def State.issuedHalves (s : State) (pk : Packet) : List Release :=
  match s.partOf pk.src with
  | none => []
  | some p => ((p.seqs.filter (fun q => q.sid == pk.sid && q.ep == pk.dst)).flatMap (fun q =>
      q.ops.filter (fun o => !isLoadOp o.pk.op && o.pk.serial == pk.serial))).flatMap (·.halves)

/-- A release on a far location, and on the bytes of its region where this device owns it, under which a load there reads it (R153). -/
def State.addFarRelease (s : State) (ep : BitVec 16) (key : BitVec 32) (off n : Nat) (r : Release) : State :=
  let s := s.addRelease r
  match s.partOf ep with
  | none => s
  | some p => s.addRelease { r with lo := (s.farAccess p key off).phys, len := n }

/-! ## Outcomes -/

/-- Where the releases on a far location are listed: beyond every physical address. -/
def farAddr (ep : BitVec 16) (key : BitVec 32) (off : BitVec 48) : Nat := 2 ^ 112 + ep.toNat * 2 ^ 80 + key.toNat * 2 ^ 48 + off.toNat

/-- Second operand word of a failure at the owner or of an owner's restart (R409). -/
def Outcome.val1 (r : Outcome) : Word :=
  if r.code == 0x0D#8 then (r.op.pk.dst ++ r.op.pk.key).setWidth 64
  else if r.code == 0x0F#8 then (r.op.pk.dst ++ r.inc).setWidth 64
  else 0#64

/-- The faults of a failed operation, one for each instruction that issued it (R361, R362, R409). -/
def Outcome.faults (r : Outcome) (xd : Option XReg) : List PendingFault :=
  if r.code == 0#8 then []
  else r.op.issuers.map (fun i =>
    { seq := i.seq, xd := xd.filter (· != 0#5), stream := if isStoreOp r.op.pk.op then some r.stream else none, status := copyStatus i.ipc 0 r.code
      iword := i.word, kind := .fabric, sub := 0#8, cause := r.code, ptr := i.ptr, val1 := r.val1, ipc := i.ipc })

/-- Did a successful operation write? A compare-and-swap only where the value it returned is the compare value (R407, R408). -/
def Outcome.wrote (r : Outcome) : Bool := !isLoadOp r.op.pk.op && (r.op.pk.op != 0x04#8 || r.value == r.op.pk.opd1)

/-- Where an operation's bytes are listed: start and length of each run. -/
def FabOp.places (o : FabOp) : List (Nat × Nat) := (packetRuns o.pk).map (fun e => (farAddr o.pk.dst o.pk.key (BitVec.ofNat 48 e.1), e.2))

/-- The halves that depend on an operation whose outcome is now known: none of them if it wrote, else they depend on it no more. -/
def settleHalves (who : Agent × Nat) (wrote : Bool) (rs : List Release) : List Release :=
  if wrote then rs.filter (fun r => !r.unsure.contains who) else rs.map (fun r => { r with unsure := r.unsure.erase who })

/-- The same in an operation that has not performed yet. -/
def FabOp.settleHalves (o : FabOp) (who : Agent × Nat) (wrote : Bool) : FabOp := { o with halves := Machine.settleHalves who wrote o.halves }

/-- The half that it took waits again for the next store once no operation before that store can have written (R161, R408). -/
def Ctx.settleHalf (c : Ctx) (who : Agent × Nat) (wrote : Bool) : Ctx :=
  let c := { c with vfab := c.vfab.map (fun (f : VFab) => { f with todo := f.todo.map (fun (x : BitVec 16 × FabOp) => (x.1, x.2.settleHalves who wrote)) }) }
  match c.openHalf with
  | none => c
  | some h =>
    if !h.unsure.contains who then c
    else if wrote then { c with openHalf := none }
    else if h.unsure.erase who == [] then
      { c with openHalf := none, relHalf := widerScope c.relHalf (some h.scope), relKnow := if c.relHalf.isSome then c.relKnow else h.know }
    else { c with openHalf := some { h with unsure := h.unsure.erase who } }

/-- The outcome of a scalar operation that took a release half is known: did it write (R161, R408)? A vector instruction's half is settled
when it ends. (DEDUCED, log entry 62.) -/
def State.settleHalf (s : State) (a : Agent) (o : FabOp) (wrote : Bool) : State :=
  match o.halves, o.dest, o.issuers with
  | [], _, _ => s
  | _, .elements _, _ => s
  | _, _, [] => s
  | _, _, i :: _ =>
    let who := (a, i.seq)
    let pi := (s.regs a).part
    let p := s.part pi
    let p := { p with
      seqs := p.seqs.map (fun q => { q with ops := q.ops.map (·.settleHalves who wrote) })
      parked := p.parked.map (fun r => { r with op := r.op.settleHalves who wrote }) }
    ({ s.setPart pi p with releases := settleHalves who wrote s.releases }).onRegs a (·.settleHalf who wrote)

/-- An operation of an agent has succeeded: a plain write hides the releases it overwrites, an atomic one lets them be read through
it (R153); the write's own releases, then that of the release flag on its last run, stand (R161, R169). -/
def State.performed (s : State) (a : Agent) (r : Outcome) : State :=
  let o := r.op
  let s := s.settleHalf a o r.wrote
  let s := if !r.wrote then s
    else
      let s := o.places.foldl (fun s e => if isStoreOp o.pk.op then s.hideReleases e.1 e.2 else s.showReleases e.1 e.2) s
      o.halves.foldl (fun s x => s.addRelease x) s
  match o.rel with
  | none => s
  | some sc =>
    let core := (s.regs a).coreNo a
    let s := s.countRelease core sc
    match if r.wrote then (packetRuns o.pk).getLast? else none with
    | none => s
    | some e => s.addFarRelease o.pk.dst o.pk.key e.1 e.2 (s.releaseOp core sc (farAddr o.pk.dst o.pk.key (BitVec.ofNat 48 e.1)) e.2 o.know)

/-- The fields of `fstat` from a reply's red word (R387, R394). -/
def fstatOf (red : Word) : Word := red.extractLsb' 0 32 ++ red.extractLsb' 32 16 ++ 0#8 ++ red.extractLsb' 48 8

/-- A pending reduction with its reply and a `fabrw` that waits: `fstat` first, then every destination; the entry is freed
(R415). -/
def Ctx.settleRed (c : Ctx) (name : Word) : Ctx :=
  match c.reds.find? (·.name == name) with
  | none => c
  | some d =>
    if d.want == [] then c
    else
      let give (c : Ctx) (w : Word) : Ctx := { d.want.foldl (fun c x => c.setX x w) c with reds := c.reds.filter (·.name != name) }
      match d.failed, d.reply with
      | some _, _ => give c 0#64
      | none, some (w, st) => give { c with fstat := st } w
      | none, none => c

/-- An outcome reaches a vector instruction under way: values of a get, or the lowest refused packet (R410, R411). -/
def VFab.take (f : VFab) (r : Outcome) (es : List (Nat × Word)) : VFab :=
  match es with
  | [] => f
  | (i, ptr) :: _ =>
    if r.code != 0#8 then
      if f.bad.any (fun b => b.1 ≤ i) then f else { f with bad := some (i, r.code, ptr, r.val1) }
    else if r.op.pk.op == 0x07#8 then
      { f with vals := f.vals ++ es.zipIdx.map (fun e => (e.1.1, elementOf r.payload es.length (indexSize r.op.pk) e.2)) }
    else f

/-- What an outcome makes of a reduction: its reply, FP32 results zero-extended, or its failure (R415). -/
def Reduction.settle (d : Reduction) (r : Outcome) : Reduction :=
  if r.code == 0#8 then
    { d with reply := some (if d.op.toNat ≤ 2 then (r.value.extractLsb' 0 32).setWidth 64 else r.value, fstatOf r.red) }
  else { d with failed := some (r.code, r.val1) }

/-- The value of an operation stands in its destination register; its read is a load by S once S has read the register full (R408). -/
def Ctx.landX (c : Ctx) (x : XReg) (w : Word) (rs : List Release) : Ctx :=
  { c.setX x w with fabReads := (if rs = [] || x = 0#5 then [] else [(x, w, rs)]) ++ c.fabReads.filter (fun e => e.1 != x) }

/-- An outcome reaches its agent's registers (R407, R409, R413, R415). -/
def State.landAt (s : State) (a : Agent) (r : Outcome) : State :=
  let seen := if r.code == 0#8 && r.op.pk.op != 0x02#8 then r.op.places.map (fun e => s.releasesAt e.1 e.2) else []
  let s := if r.code == 0#8 then s.performed a r else s.settleHalf a r.op false
  s.onRegs a (fun c =>
    match r.op.dest with
    | .nothing => { c with pend := c.pend ++ r.faults none }
    | .xreg x => { c.landX x (if r.code == 0#8 then r.value else 0#64) seen.flatten with pend := c.pend ++ r.faults (some x) }
    | .elements es =>
      let got := if isLoadOp r.op.pk.op then (es.map (·.1)).zip seen else []
      { c with vfab := c.vfab.map (fun f => { f.take r es with seen := got ++ f.seen }) }
    | .reduction name =>
      let mine : Option Reduction := c.reds.find? (·.name == name)
      { c with reds := c.reds.map (fun (d : Reduction) => if d.name == name then d.settle r else d)
               pend := c.pend ++ r.faults (mine.bind (fun d => d.want.head?)) : Ctx }.settleRed name)

/-- An outcome: it lands, waits for a context that is switched out, or goes to its node; for a context that is gone it goes
nowhere (R339, R404). -/
def State.land (s : State) (pi : Nat) (r : Outcome) : State :=
  match r.who with
  | .node h g =>
    let p := s.part pi
    s.setPart pi { p with nodes := p.nodes.map (fun d => if d.handle == h && d.gen == g then { d with red := d.red.map (·.settle r) } else d) }
  | .agent (.hub h) => s.landAt (.hub h) r
  | .agent (.ctx i) =>
    match (s.regs (.ctx i)).life with
    | .switchedOut => let p := s.part pi; s.setPart pi { p with parked := p.parked ++ [r] }
    | .ended | .killed => s
    | _ => s.landAt (.ctx i) r

/-- Takes from a sequence the operations that have come to their outcome. -/
def Seq.finish (q : Seq) (t : FabOp → Bool) : Seq × List FabOp :=
  let done := q.ops.filter t
  ({ q with ops := q.ops.filter (fun o => !t o), unreported := q.unreported + (done.filter (fun o => !isLoadOp o.pk.op)).length }, done)

/-- An outcome of an operation of a sequence. -/
def Seq.outcome (q : Seq) (o : FabOp) (code : BitVec 8) : Outcome :=
  { who := q.who, stream := q.stream, op := { o with pk := { o.pk with dst := q.ep } }, code := code }

/-- A sequence that the owner no longer holds (R403): everything but loads completes with 0x0F; loads are sent again on a new
sequence. One that is closing is done. -/
def Part.lose (p : Part) (inc : BitVec 16) (q : Seq) : Part × List Outcome :=
  let outs := (q.ops.filter (fun o => !isLoadOp o.pk.op)).map (fun o => { q.outcome o 0x0F#8 with inc := inc })
  let p := { p with seqs := p.seqs.filter (·.sid != q.sid) }
  (if q.closing then p else p.addSeq q.who q.stream q.ep ((q.ops.filter (fun o => isLoadOp o.pk.op)).map (fun o => { o with sent := false })), outs)

/-- A new incarnation of an owner: every sequence to it that does not carry it is lost (R403). -/
def Part.restart (p : Part) (ep inc : BitVec 16) : Part × List Outcome :=
  (p.seqs.filter (fun q => q.ep == ep && q.inc != some inc)).foldl (fun r q =>
    let t := r.1.lose inc q
    (t.1, r.2 ++ t.2)) (p, [])

/-- A load that was sent and waits for this reply. -/
def FabOp.answeredBy (o : FabOp) (pk : Packet) : Bool := o.sent && o.reads pk

/-- Stores that a reply acknowledges: at or before its ack, with no failure at or before them (R397). -/
def Seq.acknowledge (q : Seq) (pk : Packet) : Seq × List Outcome :=
  let fail := pk.opd1.setWidth 32
  let r := q.finish (fun o => o.sent && isStoreOp o.pk.op && !serialLater o.pk.serial pk.ack && (fail == 0#32 || serialLater fail o.pk.serial))
  (r.1, r.2.map (fun o => q.outcome o 0#8))

/-- What a reply does to the operation it answers (R397, R400, R401). -/
def Seq.answered (q : Seq) (pk : Packet) : Seq × List Outcome :=
  let refused := pk.status == 0x0D#8 || pk.status == 0x0E#8 || pk.status == 0x17#8
  if pk.status != 0#8 && !refused then (q, [])
  else if isLoadOp pk.op then
    match q.ops.find? (·.answeredBy pk) with
    | none => (q, [])
    | some o => ({ q with ops := q.ops.erase o }, [{ q.outcome o pk.status with value := pk.opd0, payload := packetBody pk }])
  else
    let mine (o : FabOp) : Bool := o.sent && !isLoadOp o.pk.op && o.pk.serial == pk.serial && o.pk.op == pk.op
    let r := q.finish (fun o => mine o && (refused || !isStoreOp o.pk.op))
    (r.1, r.2.map (fun o => { q.outcome o pk.status with value := pk.opd0, red := pk.red }))

/-- What a reply does to the operations of its sequence: its own, then the stores it acknowledges (R397). -/
def Seq.reply (q : Seq) (pk : Packet) : Seq × List Outcome :=
  let r := q.answered pk
  let t := r.1.acknowledge pk
  (t.1, r.2 ++ t.2)

/-- A reply at the requester (R397, R399, R403). -/
def Part.reply (p : Part) (pk : Packet) : Part × List Outcome :=
  match if pk.rsp && pk.dst == p.epid then p.seqs.find? (fun q => q.sid == pk.sid && q.ep == pk.src) else none with
  | none => (p, [])
  | some q =>
    if q.inc.any (· != pk.inc) then p.restart pk.src pk.inc
    else
      let q := { q with inc := some pk.inc, asked := false }
      let put (q : Seq) : Part := { p with seqs := updateFirst (·.sid == q.sid) (fun _ => q) p.seqs }
      if pk.op == 0x0F#8 then
        (if q.closing && q.closeSent then { p with seqs := p.seqs.filter (·.sid != q.sid) } else put q, [])
      else if pk.status == 3#8 then
        if q.ops.any (·.pk.new) then (put q, []) else p.lose pk.inc q
      else
        let r := q.reply pk
        (put r.1, r.2)

/-- Outcomes land, contexts that waited for them end, and what may now be sent is sent. -/
def State.settleFabric (s : State) (pi : Nat) (outs : List Outcome) : State :=
  let s := outs.foldl (fun s r => s.land pi r) s
  let s := outs.foldl (fun s r => match r.who with
    | .agent (.ctx i) => if (s.regs (.ctx i)).life == .ending then s.settleEnd i else s
    | _ => s) s
  s.pump pi

/-- FABRIC_REPLY (R397, R403). -/
def execFabricReply (p : Nat) (pk : Packet) (s : State) : Exec :=
  let r := (s.part p).reply pk
  .next ((s.setPart p r.1).settleFabric p r.2)

/-- RETRANSMISSION_TIMER: open packets are sent; each packet without an outcome is sent again with rt = 1, and close until it
is answered (R397, R399). -/
def execRetransmissionTimer (p : Nat) (s : State) : Exec :=
  let t := s.part p
  let again := t.seqs.flatMap (fun q =>
    (q.ops.filter (·.sent)).map (fun o => q.stamp t s.incarnation { o.pk with rt := true })
      ++ (if q.closeSent then [q.stamp t s.incarnation { blankPacket with op := 0x0F#8, rt := true }] else []))
  let t := (t.closeOpens (fun _ => true))
  let t := { t with seqs := t.seqs.map (fun q => if q.ops.any (·.sent) then { q with unreported := 0 } else q) }
  .next (((s.setPart p t).emit p again).pump p)

/-- A save sends every packet in the combining buffer of its context (R404). -/
def State.flushFabric (s : State) (a : Agent) : State :=
  let pi := (s.regs a).part
  (s.setPart pi ((s.part pi).closeOpens (· == .agent a))).pump pi

/-- The record of a sequence in the fabric section of a skein (R405). -/
def Seq.record (q : Seq) : BitVec 512 :=
  let acked := ((q.ops.find? (fun o => isStoreOp o.pk.op)).map (·.pk.serial)).getD q.next
  0#288 ++ BitVec.ofNat 32 q.ops.length ++ q.rack ++ acked ++ q.next ++ 0#16 ++ q.inc.getD 0#16 ++ q.sid ++ q.ep ++ 0#29 ++ q.stream

/-- The records of a context's open sequences (R405). -/
def State.fabricRecords (s : State) (i : Nat) : List (BitVec 512) :=
  ((s.part (s.regs (.ctx i)).part).seqs.filter (fun q => q.who == .agent (.ctx i) && !q.closing)).map Seq.record

/-- After a `ctxload` the outcomes that waited land (R404). -/
def State.unpark (s : State) (i : Nat) : State :=
  let pi := (s.regs (.ctx i)).part
  let p := s.part pi
  let mine (r : Outcome) : Bool := r.who == .agent (.ctx i)
  (p.parked.filter mine).foldl (fun s r => s.landAt (.ctx i) r) (s.setPart pi { p with parked := p.parked.filter (fun r => !mine r) })

/-- The sequences of a context that is killed close once their outcomes have arrived; nothing lands (R364, R404). -/
def State.killFabric (s : State) (i : Nat) : State :=
  let pi := (s.regs (.ctx i)).part
  let p := s.part pi
  let mine (w : Requester) : Bool := w == .agent (.ctx i)
  (s.setPart pi { (p.closeOpens mine) with
    seqs := (p.closeOpens mine).seqs.map (fun q => if mine q.who then { q with closing := true, ops := q.ops.map (fun o => { o with dest := .nothing }) } else q)
    parked := p.parked.filter (fun r => !mine r.who) }).pump pi

end Sys2Proof.Machine
end

