-- ==== Sys2Proof/Machine/FabOwner.lean ====
section
/-! DEFINITION. A partition as the owner of regions: the region table, OwnerAccept, the reply cache, incarnations and REVOKE
(26_fabric_and_exactly_once R392, R393, R397, R400-R402, R407). -/

namespace Sys2Proof.Machine
open Sys2Proof

/-! ## Regions (R393) -/

/-- Status 0, 0x0D or 0x0E of accesses of `n` bytes at offsets (R393). -/
def State.farStatus (s : State) (p : Part) (key : BitVec 32) (write : Bool) (offs : List Nat) (n : Nat) : BitVec 8 :=
  let r := s.region p key
  let base := r.base.toNat / 256 * 256
  if !r.valid || r.gen != key.extractLsb' 16 16 || (write && !r.writable) then 0x0D#8
  else match regionOf base with
  | some .hbm | some .bank =>
    if offs.any (fun o => o + n > r.len.toNat || regionOf (base + o + (n - 1)) != regionOf base) then 0x0E#8 else 0#8
  | _ => 0x0D#8

/-- The status of accesses to an owner's memory. Data that the owner reads, a region's entry among them, and words that it would write in
part may be uncorrectable: 0x17, and nothing is done (R139; DESIGN CHOICE, log entry 66). -/
def State.farJudge (s : State) (p : Part) (key : BitVec 32) (read write : Bool) (offs : List Nat) (n : Nat) : BitVec 8 :=
  if (s.badWord (p.regionAddr key) 16).isSome then 0x17#8
  else
    let st := s.farStatus p key write offs n
    if st == 0#8 && offs.any (fun o => (s.badFor read (s.farAccess p key o).phys n).isSome) then 0x17#8 else st

/-! ## Sequences and the reply cache (R400, R401) -/

/-- The sequence of a packet's source and sid. -/
def OwnerSeq.isOf (q : OwnerSeq) (pk : Packet) : Bool := q.src == pk.src && q.sid == pk.sid

/-- An entry of a packet's sequence. -/
def CacheEntry.isOf (e : CacheEntry) (pk : Packet) : Bool := e.src == pk.src && e.sid == pk.sid

/-- Entries the cache holds at most (R400). -/
def cacheSize : Nat := 65536

/-- The lowest held failed serial of a sequence, or 0 (R387, R400). -/
def Part.lowestFailed (p : Part) (pk : Packet) : BitVec 32 :=
  ((p.cache.filter (fun e => e.isOf pk && e.status != 0#8)).foldl (fun (b : Option (BitVec 32)) e => match b with
    | none => some e.serial
    | some x => if serialLater x e.serial then some e.serial else b) none).getD 0#32

/-- A reply to a packet, with ack := A and fail as they stand (R387, R400, R403). -/
def Part.answer (p : Part) (inc : BitVec 16) (pk : Packet) (status : BitVec 8) (result : Word) (payload : List Byte) : Packet :=
  let q := p.ownerSeqs.find? (·.isOf pk)
  withPayload
    { blankPacket with
      op := pk.op, rsp := true, dst := pk.src, src := pk.dst, sid := pk.sid, serial := pk.serial, key := pk.key, offset := pk.offset
      inc := inc, ack := (q.map (·.applied)).getD 0#32, n := pk.n, status := status, opd0 := result
      opd1 := (p.lowestFailed pk).setWidth 64 } payload

/-- Sends a reply. -/
def State.answer (s : State) (pi : Nat) (pk : Packet) (status : BitVec 8) (result : Word) (payload : List Byte) : State :=
  s.emit pi [(s.part pi).answer s.incarnation pk status result payload]

/-- R402: a newer incarnation of a source closes what is held for it; a packet with an older one is dropped (`none`). -/
def Part.sourceCheck (p : Part) (pk : Packet) : Option Part :=
  match Sparse.find p.sources pk.src.toNat with
  | none => some { p with sources := Sparse.insert p.sources pk.src.toNat pk.inc }
  | some i =>
    if pk.inc == i then some p
    else if incNewer pk.inc i then
      some { p with sources := Sparse.insert p.sources pk.src.toNat pk.inc, ownerSeqs := p.ownerSeqs.filter (·.src != pk.src)
                    cache := p.cache.filter (·.src != pk.src) }
    else none

/-- Entries whose serial is not later than the requester's acknowledgement retire (R399, R400). -/
def Part.retire (p : Part) (pk : Packet) : Part := { p with cache := p.cache.filter (fun e => !(e.isOf pk && !serialLater e.serial pk.ack)) }

/-- Accepts a request: it must be one of this row, for this endpoint, of a source that is not outdated. -/
def owned (pi : Nat) (pk : Packet) (op : BitVec 8) (body : State → State) (s : State) : Exec :=
  let p := s.part pi
  .next (if pk.op != op || pk.rsp || pk.dst != p.epid then s
    else match p.sourceCheck pk with
      | none => s
      | some p => body (s.setPart pi p))

/-- FABRIC_LOAD: data or a refusal; no serial, no state (R400). -/
def execFabricLoad (p : Nat) (pk : Packet) (s : State) : Exec :=
  owned p pk 0x01#8 (fun s =>
    let n := pk.n.toNat
    let st := s.farJudge (s.part p) pk.key true false [pk.offset.toNat] n
    if st != 0#8 then s.answer p pk st 0#64 []
    else
      let acc := s.farAccess (s.part p) pk.key pk.offset.toNat
      let w := s.read acc.key acc.phys n
      s.answer p pk 0#8 (BitVec.ofNat 64 w) (if n ≤ 8 then [] else natFlits n w)) s

/-- FABRIC_INDEXED_GET: the elements, behind their offsets as in the request, which a refusal repeats too (R387, R400). -/
def execFabricIndexedGet (p : Nat) (pk : Packet) (s : State) : Exec :=
  owned p pk 0x07#8 (fun s =>
    let sz := indexSize pk
    let offs := indexOffsets pk
    let st := s.farJudge (s.part p) pk.key true false offs sz
    if st != 0#8 then s.answer p pk st 0#64 (indexFlits (packetOffsets pk) sz [])
    else
      let ws := offs.map (fun o => let acc := s.farAccess (s.part p) pk.key o; s.read acc.key acc.phys sz)
      s.answer p pk 0#8 0#64 (indexFlits (packetOffsets pk) sz ws)) s

/-- What applying a packet does at the owner: the state and the result (R407). -/
abbrev Apply := State → State × Word

/-- The status a packet would have, before the cache is looked at. -/
abbrev Judge := State → BitVec 8

/-- OwnerAccept for a packet with a serial (R400). `keeps`: an atomic or a contribution, whose answer is held. -/
def State.ownerAccept (s : State) (pi : Nat) (pk : Packet) (keeps : Bool) (judge : Judge) (apply : Apply) : State :=
  let p := s.part pi
  if !p.ownerSeqs.any (·.isOf pk) && !pk.new then s.answer pi pk 3#8 0#64 []
  else
    let p := (if p.ownerSeqs.any (·.isOf pk) then p else { p with ownerSeqs := p.ownerSeqs ++ [{ src := pk.src, sid := pk.sid }] }).retire pk
    let s := s.setPart pi p
    let q := (p.ownerSeqs.find? (·.isOf pk)).getD { src := pk.src, sid := pk.sid }
    let d := (pk.serial - q.applied).toNat
    if d = 0 || d ≥ 2 ^ 31 then
      match p.cache.find? (fun e => e.isOf pk && e.serial == pk.serial) with
      | some e => s.answer pi pk e.status e.result []
      | none => s.answer pi pk 0#8 0#64 []
    else if d > 1 then s
    else
      let st := if pk.ch && !q.lastOk then q.lastStatus else judge s
      let hold := st != 0#8 || keeps
      if hold && p.cache.length ≥ cacheSize then s.answer pi pk 1#8 0#64 []
      else
        let (s, r) := if st = 0#8 then apply s else (s, 0#64)
        let p := s.part pi
        let stores := if !hold then q.stores + 1 else q.stores
        let tell := hold || pk.fl || stores ≥ 64
        let q' : OwnerSeq := { q with applied := pk.serial, lastOk := st = 0#8, lastStatus := st, stores := stores % 64 }
        let p := { p with ownerSeqs := updateFirst (·.isOf pk) (fun _ => q') p.ownerSeqs
                          cache := if hold then p.cache ++ [⟨pk.src, pk.sid, pk.serial, st, r⟩] else p.cache }
        let s := s.setPart pi p
        if tell then s.answer pi pk st r [] else s

/-- A store of `n` bytes at the owner, and the release that it is, if any. -/
def State.farPut (s : State) (pi : Nat) (key : BitVec 32) (off n w : Nat) (half : Option Release) : State :=
  let acc := s.farAccess (s.part pi) key off
  let s := s.putPlain none acc n w
  match half with
  | none => s
  | some r => s.addRelease { r with lo := acc.phys, len := n }

/-- FABRIC_STORE (R400). -/
def execFabricStore (p : Nat) (pk : Packet) (s : State) : Exec :=
  owned p pk 0x02#8 (fun s =>
    s.ownerAccept p pk false (fun s => s.farJudge (s.part p) pk.key false true [pk.offset.toNat] pk.n.toNat)
      (fun s => (s.farPut p pk.key pk.offset.toNat pk.n.toNat (packetData pk) (s.issuedHalves pk).head?, 0#64))) s

/-- FABRIC_INDEXED_PUT: every element, as one step (R400, R410). -/
def execFabricIndexedPut (p : Nat) (pk : Packet) (s : State) : Exec :=
  owned p pk 0x08#8 (fun s =>
    let sz := indexSize pk
    let offs := indexOffsets pk
    s.ownerAccept p pk false (fun s => s.farJudge (s.part p) pk.key false true offs sz)
      (fun s =>
        let halves := s.issuedHalves pk
        (offs.zipIdx.foldl (fun s e => s.farPut p pk.key e.1 sz (elementOf (packetBody pk) offs.length sz e.2) halves[e.2]?) s, 0#64))) s

/-- An atomic at the owner: the 8 bytes m become what `f` makes of them, if anything; the result is m (R407). -/
def fabricAtomic (p : Nat) (pk : Packet) (op : BitVec 8) (f : Word → Option Word) (s : State) : Exec :=
  owned p pk op (fun s =>
    s.ownerAccept p pk true (fun s => s.farJudge (s.part p) pk.key true true [pk.offset.toNat] 8)
      (fun s =>
        let acc := s.farAccess (s.part p) pk.key pk.offset.toNat
        let m : Word := BitVec.ofNat 64 (s.read acc.key acc.phys 8)
        match f m with
        | none => (s, m)
        | some w => ((s.issuedHalves pk).foldl (fun t r => t.addRelease { r with lo := acc.phys, len := 8 }) (s.putAtomic none acc 8 w.toNat), m))) s

/-- FABRIC_FETCH_ADD (R400, R407). -/
def execFabricFetchAdd (p : Nat) (pk : Packet) (s : State) : Exec := fabricAtomic p pk 0x03#8 (fun m => some (m + pk.opd0)) s
/-- FABRIC_COMPARE_AND_SWAP (R400, R407). -/
def execFabricCompareAndSwap (p : Nat) (pk : Packet) (s : State) : Exec :=
  fabricAtomic p pk 0x04#8 (fun m => if m = pk.opd1 then some pk.opd0 else none) s
/-- FABRIC_SWAP (R400, R407). -/
def execFabricSwap (p : Nat) (pk : Packet) (s : State) : Exec := fabricAtomic p pk 0x05#8 (fun _ => some pk.opd0) s

/-- FABRIC_CONTRIBUTION: the device holds no reduction slots (R393). -/
def execFabricContribution (p : Nat) (pk : Packet) (s : State) : Exec :=
  owned p pk 0x06#8 (fun s => s.ownerAccept p pk true (fun _ => 0x0E#8) (fun s => (s, 0#64))) s

/-- FABRIC_ACKNOWLEDGEMENT_ONLY: entries retire; the reply says A (R399, R400). -/
def execFabricAcknowledgementOnly (p : Nat) (pk : Packet) (s : State) : Exec :=
  owned p pk 0x0E#8 (fun s =>
    if (s.part p).ownerSeqs.any (·.isOf pk) then (s.setPart p ((s.part p).retire pk)).answer p pk 0#8 0#64 []
    else s.answer p pk 3#8 0#64 []) s

/-- FABRIC_CLOSE: the sequence goes, and its entries with it; the reply ends the requester's closing (R399, R400). -/
def execFabricClose (p : Nat) (pk : Packet) (s : State) : Exec :=
  owned p pk 0x0F#8 (fun s =>
    let t := s.part p
    if t.ownerSeqs.any (·.isOf pk) then
      let r := (t.retire pk).answer s.incarnation pk 0#8 0#64 []
      (s.setPart p { t with ownerSeqs := t.ownerSeqs.filter (fun q => !q.isOf pk), cache := t.cache.filter (fun e => !e.isOf pk) }).emit p [r]
    else s.answer p pk 3#8 0#64 []) s

/-! ## REVOKE (R392, R393) -/

/-- Clears V of a key's entry, when the entry is that key's (R393). (DEDUCED, log entry 34.) -/
def State.revokeKey (s : State) (pi : Nat) (key : BitVec 32) : State :=
  let p := s.part pi
  let a := p.regionAddr key
  let w0 : Word := BitVec.ofNat 64 (s.read 0 a 8)
  if (s.region p key).gen == key.extractLsb' 16 16 then
    (s.touch none ((regionOf a).getD .hbm) a 8).write 0 a 8 (w0 &&& ~~~(1#64 <<< 55)).toNat
  else s

/-- REVOKE: one event at the fabric arbiter (R393). -/
def execRevoke (p : Nat) (key : BitVec 32) (s : State) : Exec := .next (s.revokeKey p key)

end Sys2Proof.Machine
end

