-- ==== Sys2Proof/Machine/Fabric.lean ====
section
/-! DEFINITION. The fabric instructions: scalar remote operations, `fabfl`, reductions, and vector remote access
(26_fabric_and_exactly_once R389-R391, R394, R396, R406-R413, R415). -/

namespace Sys2Proof.Machine
open Sys2Proof

/-! ## Far pointers (R389-R391) -/

/-- Where a far pointer leads. -/
structure Far where
  ep : BitVec 16
  key : BitVec 32
  off : BitVec 48
  deriving DecidableEq, Repr

/-- The checks of R391 on an access of `size` bytes through the handle table of an image (R390). -/
def State.far (s : State) (image : Nat) (p : Word) (size : Nat) : Except (BitVec 8 × Word × Word) Far :=
  if p.extractLsb' 48 4 != 0#4 then .error (0x06#8, p, 0#64)
  else
    let a := (Sparse.at s.images {} image).stbase.toNat + 0x10000 + 16 * (p.extractLsb' 52 12).toNat
    match s.badWord a 16 with
    | some w => .error (0x17#8, p, BitVec.ofNat 64 (3 * 2 ^ 62 + w))
    | none =>
      let w0 : Word := BitVec.ofNat 64 (s.read 0 a 8)
      let len := (BitVec.ofNat 48 (s.read 0 (a + 8) 8)).toNat
      let off : BitVec 48 := p.extractLsb' 0 48
      if !w0.getLsbD 63 then .error (0x0D#8, p, (w0.extractLsb' 0 48).setWidth 64)
      else if off.toNat % size != 0 then .error (0x0C#8, p, 1#64)
      else if off.toNat + size > len then .error (0x0E#8, p, BitVec.ofNat 64 len)
      else .ok ⟨w0.extractLsb' 32 16, w0.extractLsb' 0 32, off⟩

/-! ## The fields of `fsel` (R394) -/

/-- Stream. -/
def fselStream (f : BitVec 9) : BitVec 3 := f.extractLsb' 0 3
/-- Acquire flag. -/
def fselAcq (f : BitVec 9) : Bool := f.getLsbD 3
/-- Release flag. -/
def fselRel (f : BitVec 9) : Bool := f.getLsbD 4
/-- Scope. -/
def fselScope (f : BitVec 9) : BitVec 3 := f.extractLsb' 6 3

/-- What a fabric instruction of an agent captures into an operation (R394, R407). -/
def State.fabOp (s : State) (a : Agent) (fsel : BitVec 9) (dest : FabDest) (ptr : Word) (far : Far) (pk : Packet) : FabOp :=
  let c := s.regs a
  { pk := { pk with key := far.key, offset := far.off }, dest := dest, issuers := [⟨c.nextSeq, s.ir, s.pc, ptr⟩]
    holdFor := if fselAcq fsel then some c.nextSeq else none
    rel := if fselRel fsel then some (fselScope fsel) else none
    know := if fselAcq fsel then s.knowledge (c.coreNo a) else {}
    open_ := pk.op == 0x02#8 && !fselAcq fsel && !fselRel fsel && c.relHalf.isNone && c.openHalf.isNone }

/-- A scalar operation that may write takes the release half; until its outcome is known a store behind it takes the half too (R161,
R408). -/
def State.fabHalf (s : State) (a : Agent) (far : Far) (n : Nat) : State × List Release :=
  let c := s.regs a
  match s.takeHalf a with
  | (_, none) => (s, [])
  | (t, some h) =>
    (t.onRegs a (fun d => { d with openHalf := some { h with unsure := h.unsure ++ [(a, c.nextSeq)] } }),
      [t.releaseHalfOn (c.coreNo a) h (farAddr far.ep far.key far.off) n])

/-- Closes the open packets of an agent and sends what may go: its next operation is no store to their line (R396). -/
def State.closeLine (s : State) (a : Agent) : State := s.flushFabric a

/-- One issue number is used. -/
def State.bumpSeq (s : State) (a : Agent) : State := s.onRegs a (fun c => { c with nextSeq := c.nextSeq + 1 })

/-- An operation whose scope is 5-7 performs nothing and completes with code 0x01 (R167, R407). (DEDUCED, log entry 34.) -/
def State.refuseScope (s : State) (a : Agent) (o : FabOp) : State :=
  (s.bumpSeq a).landAt a { who := .agent a, stream := fselStream (s.regs a).fsel, op := o, code := 0x01#8 }

/-- The destination of an operation under way is empty (R30). -/
def FabDest.empty (d : FabDest) (c : Ctx) : Ctx :=
  match d with
  | .xreg x => c.emptyX x
  | _ => c

/-- The five scalar operations (R407). The bytes that go to the fabric are charged; a forwarded load and a refused scope move none
(R356). -/
def fabInstr (op : BitVec 8) (srcs : List Src) (rd : XReg) (rs1 : XReg) (v cmp : Ctx → Word) (s : State) : Exec :=
  launch .sOnly sysCharge (reading srcs (fun s =>
    let a := s.who
    let c := s.my
    let p := c.getX rs1
    match s.far c.image p 8 with
    | .error (e, v0, v1) => (s, .trap e v0 v1)
    | .ok far =>
      let dest : FabDest := if op == 0x02#8 then .nothing else .xreg rd
      let o := s.fabOp a c.fsel dest p far { blankPacket with op := op, n := 8#16, opd0 := v c, opd1 := cmp c }
      let part := s.part c.part
      if (fselScope c.fsel).toNat > 4 then (s.refuseScope a o, .done)
      else match if isLoadOp op then part.cover (.agent a) far.ep far.key far.off 8 else .none with
      | .all w => ((s.closeLine a).onMy (·.setX rd (BitVec.ofNat 64 w)), .done)
      | _ =>
        match part.roomFor (.agent a) (fselStream c.fsel) far.ep 1 with
        | none => (s, .stall)
        | some part =>
          let s := s.charge a [(20, 8)]
          let (s, halves) := if isLoadOp op then (s, []) else s.fabHalf a far 8
          let s := (s.bumpSeq a).onRegs a dest.empty
          let s := s.setPart c.part (part.issue (.agent a) (fselStream c.fsel) far.ep { o with halves := halves })
          (s.pump c.part, .done))) s

/-- `fabld xd, (xs1)` (R407). -/
def execFabld (rd rs1 : XReg) (w1 : Bool) (s : State) : Exec :=
  fabInstr 0x01#8 [.x rs1 w1] rd rs1 (fun _ => 0#64) (fun _ => 0#64) s
/-- `fabst xs2, (xs1)` (R407). -/
def execFabst (rs1 rs2 : XReg) (w1 w2 : Bool) (s : State) : Exec :=
  fabInstr 0x02#8 [.x rs1 w1, .x rs2 w2] 0#5 rs1 (·.getX rs2) (fun _ => 0#64) s
/-- `fabadd xd, xs2, (xs1)` (R407). -/
def execFabadd (rd rs1 rs2 : XReg) (w1 w2 : Bool) (s : State) : Exec :=
  fabInstr 0x03#8 [.x rs1 w1, .x rs2 w2] rd rs1 (·.getX rs2) (fun _ => 0#64) s
/-- `fabcas xd, xs2, (xs1)`: x[rd] is the compare value, which w2 covers too (R406, R407). -/
def execFabcas (rd rs1 rs2 : XReg) (w1 w2 : Bool) (s : State) : Exec :=
  fabInstr 0x04#8 [.x rs1 w1, .x rs2 w2, .x rd w2] rd rs1 (·.getX rs2) (·.getX rd) s
/-- `fabswp xd, xs2, (xs1)` (R407). -/
def execFabswp (rd rs1 rs2 : XReg) (w1 w2 : Bool) (s : State) : Exec :=
  fabInstr 0x05#8 [.x rs1 w1, .x rs2 w2] rd rs1 (·.getX rs2) (fun _ => 0#64) s

/-- `fabfl` sends what is open in the captured stream and asks for acknowledgements at once, once per reply (R396, R397). -/
def State.askAcks (s : State) (a : Agent) (stream : BitVec 3) : State :=
  let pi := (s.regs a).part
  let mine (q : Seq) : Bool := q.who == .agent a && q.stream == stream && !q.closing && q.ops.any (fun o => isStoreOp o.pk.op)
  let s := s.flushFabric a
  let p := s.part pi
  let asks := (p.seqs.filter (fun q => mine q && !q.asked)).map (fun q => q.stamp p s.incarnation { blankPacket with op := 0x0E#8, fl := true })
  (s.setPart pi { p with seqs := p.seqs.map (fun q => if mine q then { q with asked := true, unreported := 0 } else q) }).emit pi asks

/-- Stores of a stream that have neither been acknowledged nor failed (R408). -/
def State.storesLeft (s : State) (a : Agent) (stream : BitVec 3) : Bool :=
  (s.part (s.regs a).part).seqs.any (fun q => q.who == .agent a && q.stream == stream && q.ops.any (fun o => isStoreOp o.pk.op))

/-- `fabfl` (R396, R408, R409): every packet in the combining buffer is sent; then a full/empty wait for the stores of the captured
stream, whose faults it delivers. -/
def execFabfl (s : State) : Exec :=
  launch .sOnly sysCharge (fun s =>
    let st := fselStream s.my.fsel
    let s := s.closeLine s.who
    if s.storesLeft s.who st then (s.askAcks s.who st, .wait .full)
    else match firstPending (·.stream == some st) s.my.pend with
      | some p => s.deliver p
      | none => (s, .done)) s

/-! ## Reductions (R412, R413, R415) -/

/-- A descriptor (R412). -/
structure RedDesc where
  name : Word
  node : Word
  deadline : BitVec 32
  index : BitVec 8
  count : BitVec 8
  op : BitVec 8
  deriving DecidableEq, Repr

/-- The descriptor in its 32 bytes. -/
def RedDesc.ofRecord (r : BitVec 256) : RedDesc :=
  ⟨r.extractLsb' 0 64, r.extractLsb' 64 64, r.extractLsb' 128 32, r.extractLsb' 160 8, r.extractLsb' 168 8, r.extractLsb' 176 8⟩

/-- A field lies outside the table of R412. -/
def RedDesc.invalid (d : RedDesc) : Bool :=
  d.deadline == 0#32 || d.count == 0#8 || d.count.toNat > 32 || d.index.toNat ≥ d.count.toNat || d.op.toNat > 4
    || d.node.extractLsb' 0 48 != 0#48

/-- The contribution of a value (R387, R413). -/
def RedDesc.packet (d : RedDesc) (v : Word) : Packet :=
  { blankPacket with op := 0x06#8, n := 8#16, opd0 := if d.op.toNat ≤ 2 then (v.extractLsb' 0 32).setWidth 64 else v, name := d.name
                     red := (d.op ++ d.count ++ d.index ++ d.deadline).setWidth 64 }

/-- `fabred xs2, (xs1)` (R413). It takes no release half (DEDUCED, log entry 62). -/
def execFabred (rs1 rs2 : XReg) (w1 w2 : Bool) (s : State) : Exec :=
  launch .sOnly sysCharge (reading [.x rs1 w1, .x rs2 w2] (fun s =>
    let a := s.who
    let c := s.my
    match s.plainAccess (c.view a) (c.getX rs1) { size := 32, align := 32 } with
    | .error e => (s, e.act)
    | .ok acc =>
      let d := RedDesc.ofRecord (BitVec.ofNat 256 (s.read acc.key acc.phys 32))
      match s.far c.image d.node 8 with
      | .error (e, v0, v1) => (s, .trap e v0 v1)
      | .ok far =>
        if d.invalid || c.reds.any (·.name == d.name) then illegal s
        else if c.reds.length ≥ 16 then (s, .stall)
        else
          let o := s.fabOp a c.fsel (.reduction d.name) d.node far (d.packet (c.getX rs2))
          let enter (s : State) : State := s.onRegs a (fun k => { k with reds := k.reds ++ [{ name := d.name, seq := c.nextSeq, op := d.op }] })
          if (fselScope c.fsel).toNat > 4 then ((enter s).refuseScope a o, .done)
          else match (s.part c.part).roomFor (.agent a) (fselStream c.fsel) far.ep 1 with
          | none => (s, .stall)
          | some part =>
            let s := ((enter s).bumpSeq a).charge a [(20, 8)]
            ((s.setPart c.part (part.issue (.agent a) (fselStream c.fsel) far.ep o)).pump c.part, .done))) s

/-- The first `fabrw` of a failed reduction becomes the one whose register delivers its fault (R409, R415). -/
def Ctx.bindRedFault (c : Ctx) (seq : Nat) (xd : XReg) : Ctx :=
  { c with pend := c.pend.map (fun p => if p.seq == seq && p.xd.isNone && xd != 0#5 then { p with xd := some xd } else p) }

/-- `fabrw xd, (xs1)` (R415). -/
def execFabrw (rd rs1 : XReg) (w1 : Bool) (s : State) : Exec :=
  launch .sOnly sysCharge (reading [.x rs1 w1] (fun s =>
    let c := s.my
    match s.plainAccess (c.view s.who) (c.getX rs1) { size := 8, align := 8 } with
    | .error e => (s, e.act)
    | .ok acc =>
      let name : Word := BitVec.ofNat 64 (s.read acc.key acc.phys 8)
      match c.reds.find? (·.name == name) with
      | none => (s.onMy (fun c => { c with fstat := c.fstat &&& ~~~0xFF#64 ||| 5#64 }.setX rd 0#64), .done)
      | some d =>
        (s.onMy (fun c =>
          let c := if d.failed.isSome then c.bindRedFault d.seq rd else c
          ({ c.emptyX rd with reds := c.reds.map (fun (e : Reduction) => if e.name == name then { e with want := e.want ++ [rd] } else e) }).settleRed name),
          .done))) s

/-! ## Vector remote access (R410, R411) -/

/-- An active element with where it leads. -/
structure FarElt where
  i : Nat
  ptr : Word
  far : Far
  deriving DecidableEq, Repr

/-- Checks active elements in order (R391); stops at the first that fails: its element and fault. -/
def State.farElts (s : State) (image : Nat) (sz : Nat) (addr : Nat → Word) : List Nat → List FarElt × Option (Nat × BitVec 8 × Word × Word)
  | [] => ([], none)
  | i :: is =>
    match s.far image (addr i) sz with
    | .error e => ([], some (i, e))
    | .ok far => let r := s.farElts image sz addr is; (⟨i, addr i, far⟩ :: r.1, r.2)

/-- Packets in ascending element order, up to 64 elements each, to one region each (R410). -/
def chunk64 : Nat → List FarElt → List (List FarElt)
  | 0, _ => []
  | _, [] => []
  | f + 1, e :: es =>
    let same := (e :: es).takeWhile (fun x => x.far.ep == e.far.ep && x.far.key == e.far.key)
    let g := same.take 64
    g :: chunk64 f ((e :: es).drop g.length)

/-- The packet of a group of elements: offsets from the base pointer, and data for a put. The log2 of the element size stands
in opd1 (DESIGN CHOICE, log entry 30). -/
def indexPacket (put : Bool) (base : Word) (sz log2 : Nat) (first last : Bool) (val : Nat → Nat) (g : List FarElt) : Packet :=
  withPayload
    { blankPacket with op := if put then 0x08#8 else 0x07#8, ch := put && !first, fl := put && last, n := BitVec.ofNat 16 g.length
                       opd1 := BitVec.ofNat 64 log2 }
    (indexFlits (g.map (fun e => (e.ptr - base).toNat % 2 ^ 32)) sz (if put then g.map (fun e => val e.i) else []))

/-- The end of a `vfabget` or `vfabput` whose outcomes have all arrived: values below the failing element are written, and what they
returned are loads by S (R408); `vbeg` names that element, or 0 when there is none (R410, R411). Where a popped stream ended short,
the rest waits (R280). The bytes of the elements that went to the fabric are charged (R356). (DEDUCED, log entry 34.) -/
def vfabEnd (put : Bool) (g : Group) (streams : List Nat) (f : VFab) (s : State) : State × Act :=
  let a := s.who
  let ls := lanesOf (s.lanemap a)
  let l := ls.length
  let k := { f.cap with barrier := f.cap.barrier || f.far != [] }
  let (hi, fault) : Nat × Option (BitVec 8 × Word × Word) := match f.bad with
    | some (e, x) => (e, some x)
    | none => (f.hi, f.stop)
  let vals := (f.vals.filter (fun p => p.1 < hi)).mergeSort (fun x y => x.1 ≤ y.1)
  let why : VStop := match fault with
    | none => if hi < k.vl then .wait else .done
    | some (x, v0, v1) => .fault x v0 v1
  let s := if put then s
    else if (s.my.stream g.r).isSome then s.onMy (fun c => c.push g.r (vals.map (fun p => BitVec.ofNat 64 p.2)) why)
    else
      let s := s.putGroup a ls g vals
      s.onMy (fun c => if hi > k.vbeg then c.markV g l k.vl 0#6 fault.isNone else c)
  let seen := (f.seen.filter (fun e => e.1 < hi)).flatMap (·.2)
  let s := s.onMy (fun c => { streams.foldl (fun c r => c.pop r (hi - k.vbeg) why) c with vfab := none, reads := seen ++ c.reads })
  let s := s.charge a [(7, (hi - k.vbeg + l - 1) / l), (20, (f.far.filter (· < hi)).length * (g.eb / 8))]
  let s := if put && why == .done && k.barrier then s.onMy (fun c => { c with relHalf := none, openHalf := none }) else s
  memEnd k why hi s

/-- Is it a packet of a vector instruction? -/
def FabDest.vector : FabDest → Bool
  | .elements _ => true
  | _ => false

/-- Operations of vector packets still without an outcome. -/
def State.vfabWaits (s : State) (a : Agent) : Bool :=
  (s.part (s.regs a).part).seqs.any (fun q => q.who == .agent a && q.ops.any (·.dest.vector))

/-- Issues packets in order until one finds no room (R395): the partition, and what is left. -/
def Part.issueAll (who : Requester) (stream : BitVec 3) : List (BitVec 16 × FabOp) → Part → Part × List (BitVec 16 × FabOp)
  | [], p => (p, [])
  | x :: xs, p =>
    match p.roomFor who stream x.1 1 with
    | none => (p, x :: xs)
    | some p => Part.issueAll who stream xs (p.issue who stream x.1 x.2)

/-- Issues what it can of the packets that a vector instruction has left; none after a refusal (R411). -/
def vfabMore (f : VFab) (s : State) : State :=
  let a := s.who
  let c := s.my
  let r := (s.part c.part).issueAll (.agent a) (fselStream f.cap.fsel) f.todo
  let s := s.onMy (fun c => { c with vfab := some { f with todo := if f.bad.isSome then [] else r.2 } })
  if f.bad.isSome then s else (s.setPart c.part r.1).pump c.part

/-- Starts a `vfabget` or `vfabput` from what it captured: elements are checked, covered ones forwarded, the others sent; while stores
cover one in part it waits (R396, R410). -/
def vfabStart (put : Bool) (k : Capture) (g : Group) (vs2 : VReg) (m : Bool) (lim : Nat) (s : State) : State × Act :=
  let a := s.who
  let who : Requester := .agent a
  let s := s.closeLine a
  let c := s.my
  let ls := lanesOf (s.lanemap a)
  let sz := g.eb / 8
  let base := k.scalar
  let act := ((List.range lim).map (k.vbeg + ·)).filter (k.active m)
  let (es, bad) := s.farElts c.image sz (c.elementPtr ls k sz (.indexed vs2)) act
  let p := s.part c.part
  let cov (e : FarElt) : Cover := if put then .none else p.cover who e.far.ep e.far.key e.far.off sz
  if es.any (fun e => cov e == .some) then (s.onMy (fun c => { c with vfab := some { cap := k, hi := k.vbeg, stop := none, begun := false } }), .stay)
  else
    let sent := es.filter (fun e => cov e == .none)
    let vals := es.filterMap (fun e => match cov e with
      | .all w => some (e.i, w)
      | _ => none)
    let gs := chunk64 sent.length sent
    let data : Operand := { g := g }
    let lg := (([1, 2, 4, 8] : List Nat).findIdx? (· == sz)).getD 0
    -- the half stays until every element has been stored, for they all are its releases (R161)
    let half := if put && gs != [] then (s.takeHalf a).2 else none
    let t := match half with
      | none => s
      | some h => s.countRelease (c.coreNo a) h.scope
    let halves (e : List FarElt) : List Release := match half with
      | none => []
      | some h => e.map (fun e => t.releaseHalfOn (c.coreNo a) h (farAddr e.far.ep e.far.key e.far.off) sz)
    let op (x : List FarElt × Nat) (e : FarElt) : FabOp :=
      { s.fabOp a k.fsel (.elements (x.1.map (fun e => (e.i, e.ptr)))) e.ptr { e.far with off := base.extractLsb' 0 48 }
          (indexPacket put base sz lg (x.2 == 0) (x.2 + 1 == gs.length) (fun i => c.fetch ls k.vbeg data i) x.1) with halves := halves x.1 }
    let ops := gs.zipIdx.filterMap (fun x => x.1.head?.map (fun e => (e.far.ep, op x e)))
    let f : VFab := { cap := k, hi := (bad.map (·.1)).getD (k.vbeg + lim), stop := bad.map (·.2), vals := vals, todo := ops, far := sent.map (·.i) }
    (vfabMore f (t.bumpSeq a), .stay)

/-- Begins a `vfabget` or `vfabput` from what it captured: scope, tag of a push, register data, streams (R286, R288, R394). -/
def vfabGo (put : Bool) (g : Group) (ops : List Operand) (streams : List Nat) (vs2 : VReg) (m : Bool) (k : Capture) (s : State) : State × Act :=
  let a := s.who
  let c := s.my
  let ls := lanesOf (s.lanemap a)
  if (fselScope k.fsel).toNat > 4 then illegal s
  else match if put then none else c.pushTag g.r 0#6 with
  | some (e, v0, v1) => (s, .trap e v0 v1)
  | none =>
    let sup := streams.filterMap (fun r => (c.stream r).map Stream.supply) ++ (if put then [] else ((c.stream g.r).map Stream.room).toList)
    let lim : Nat × VStop := sup.foldl (fun b x => if x.1 < b.1 then x else b) (k.vl - k.vbeg, .done)
    let badRegs := s.badRegs a
    let badNow := if badRegs = [] then none else badAmong badRegs ((List.range (k.vl - k.vbeg)).flatMap (fun j =>
      (ops.filter (fun p => (c.stream p.g.r).isNone)).flatMap (fun p => p.g.words ls (k.vbeg + j))
        ++ (if !put && g.eb < 32 && k.active m (k.vbeg + j) && (c.stream g.r).isNone then g.words ls (k.vbeg + j) else [])))
    match badNow with
    | some r => memEnd k (badRegStop r) k.vbeg s
    | none =>
      if lim.1 = 0 || lim.2 == .wait then
        let s := if lim.2.isStream then s.onMy (fun c => (streams.foldl (fun c r => c.pop r 0 lim.2) c).push g.r [] lim.2) else s
        memEnd k (if k.vbeg ≥ k.vl then .done else lim.2) k.vbeg s
      else vfabStart put k g vs2 m lim.1 s

/-- `vfabget` and `vfabput` (R410, R411). -/
def vfab (put : Bool) (vd vs2 : VReg) (rs1 : XReg) (w m : Bool) (s : State) : Exec :=
  launch .sOnly [] (fun s =>
    let a := s.who
    let c := s.my
    let k := (c.vfab.map (·.cap)).getD s.captureMem
    let g : Group := ⟨vd.toNat, k.grp, formatBits k.fmt, false⟩
    let ls := lanesOf (s.lanemap a)
    let ops : List Operand := (if put then [{ g := g }] else []) ++ [{ g := offsetGroup k vs2, data := false }] ++ (if m then [maskOperand] else [])
    let streams := ((ops.map (·.g.r)).filter (fun r => (c.stream r).isSome)).eraseDups
    match c.vfab with
    | some f =>
      if !f.begun then vfabGo put g ops streams vs2 m f.cap (s.onMy (fun c => { c with vfab := none }))
      else if f.todo != [] then (vfabMore f s, .stay) else if s.vfabWaits a then (s, .stay) else vfabEnd put g streams f s
    | none =>
      memIssue k (memChecks s k (memFormat k.fmt) g (!put) m (some vs2)) ([.x rs1 w] ++ ops.map (fun p => c.groupSrc p.g w)) m
        (if put then none else some g) ops (fun c => c.memOperands ls k (.indexed vs2) rs1 m) (vfabGo put g ops streams vs2 m) s) s

/-- `vfabget vd, vs2, (xs1)` (R410). -/
def execVfabget (vd vs2 : VReg) (rs1 : XReg) (w m : Bool) (s : State) : Exec := vfab false vd vs2 rs1 w m s
/-- `vfabput vd, vs2, (xs1)` (R410). -/
def execVfabput (vd vs2 : VReg) (rs1 : XReg) (w m : Bool) (s : State) : Exec := vfab true vd vs2 rs1 w m s

end Sys2Proof.Machine
end

