-- ==== Sys2Proof/Machine/Gcm.lean ====
section
/-! DEFINITION. AES-256-GCM, the cipher of protected skeins (24_traps_and_preemption R376): the published algorithms of
FIPS 197 and NIST SP 800-38D over lists of bytes (PRESUMED, log entry 25). -/

namespace Sys2Proof.Machine.Aes
open Sys2Proof

/-- Doubling in the field of AES. -/
def xtime (a : Byte) : Byte := if a.msb then (a <<< 1) ^^^ 0x1B#8 else a <<< 1

/-- Product in the field of AES, over the `n` low bits of `b`. -/
def mulBits (a b : Byte) : Nat → Byte
  | 0 => 0#8
  | n + 1 => (if b.getLsbD 0 then a else 0#8) ^^^ mulBits (xtime a) (b >>> 1) n

/-- Product in the field of AES. -/
def mul (a b : Byte) : Byte := mulBits a b 8

/-- Inverse in the field of AES, 0 for 0: the 254th power. -/
def inv (a : Byte) : Byte :=
  let a2 := mul a a
  let a4 := mul a2 a2
  let a8 := mul a4 a4
  let a16 := mul a8 a8
  let a32 := mul a16 a16
  let a64 := mul a32 a32
  mul (mul (mul (mul (mul (mul a2 a4) a8) a16) a32) a64) (mul a64 a64)

/-- The S-box. -/
def sbox (a : Byte) : Byte :=
  let b := inv a
  b ^^^ b.rotateLeft 1 ^^^ b.rotateLeft 2 ^^^ b.rotateLeft 3 ^^^ b.rotateLeft 4 ^^^ 0x63#8

/-- Bytes combined one by one. -/
def xorBytes (a b : List Byte) : List Byte := a.zipWith (· ^^^ ·) b

/-- Expands a key schedule by `n` words of four bytes; the words so far stand newest first, `i` of them. -/
def expand : Nat → Nat → Byte → List (List Byte) → List (List Byte)
  | 0, _, _, ws => ws
  | n + 1, i, rc, ws =>
    let last := ws.headD []
    let t : List Byte :=
      if i % 8 = 0 then xorBytes ((last.drop 1 ++ last.take 1).map sbox) [rc, 0#8, 0#8, 0#8]
      else if i % 8 = 4 then last.map sbox else last
    expand n (i + 1) (if i % 8 = 0 then xtime rc else rc) (xorBytes (ws.getD 7 []) t :: ws)

/-- Consecutive pieces of `k` bytes, at most `n` of them. -/
def pieces (k : Nat) : Nat → List Byte → List (List Byte)
  | 0, _ => []
  | _, [] => []
  | n + 1, bs => bs.take k :: pieces k n (bs.drop k)

/-- The fifteen round keys of a 256-bit key, 16 bytes each. -/
def schedule (key : List Byte) : List (List Byte) :=
  pieces 16 15 ((expand 52 8 1#8 (pieces 4 8 key).reverse).reverse.flatten)

/-- Rows of the state shifted: byte `4c + r` comes from column `c + r`. -/
def shiftRows (b : List Byte) : List Byte :=
  (List.range 16).map (fun k => b.getD ((k + 4 * (k % 4)) % 16) 0#8)

/-- One column mixed. -/
def mixColumn (b : List Byte) : List Byte :=
  (List.range 4).map (fun r =>
    xtime (b.getD r 0#8) ^^^ (xtime (b.getD ((r + 1) % 4) 0#8) ^^^ b.getD ((r + 1) % 4) 0#8) ^^^ b.getD ((r + 2) % 4) 0#8 ^^^ b.getD ((r + 3) % 4) 0#8)

/-- The rounds after the first key addition. -/
def rounds : List (List Byte) → List Byte → List Byte
  | [], b => b
  | [k], b => xorBytes (shiftRows (b.map sbox)) k
  | k :: ks, b => rounds ks (xorBytes ((pieces 4 4 (shiftRows (b.map sbox))).map mixColumn).flatten k)

/-- Enciphers a block of 16 bytes under a key schedule. -/
def encipher (ks : List (List Byte)) (b : List Byte) : List Byte := rounds (ks.drop 1) (xorBytes b (ks.headD []))

/-- Bytes as a number, the first byte highest. -/
def big (bs : List Byte) : Nat := bs.foldl (fun n b => 256 * n + b.toNat) 0

/-- A number as `n` bytes, the highest first. -/
def bigBytes (n w : Nat) : List Byte := (List.range n).map (fun k => BitVec.ofNat 8 (w / 256 ^ (n - 1 - k)))

/-- Product of two blocks in the field of GHASH, over the bits of `x` from bit `n − 1` down. -/
def gmul (x v z : BitVec 128) : Nat → BitVec 128
  | 0 => z
  | n + 1 =>
    gmul x (if v.getLsbD 0 then (v >>> 1) ^^^ 0xE1000000000000000000000000000000#128 else v >>> 1) (if x.getLsbD n then z ^^^ v else z) n

/-- GHASH over blocks of 16 bytes, the last filled with zeros. -/
def ghash (h : BitVec 128) (blocks : List (List Byte)) : BitVec 128 :=
  blocks.foldl (fun y b => gmul (y ^^^ BitVec.ofNat 128 (big (b ++ List.replicate (16 - b.length) 0#8))) h 0#128 128) 0#128

/-- The counter mode of GCM: a text combined with the key stream. -/
def stream (ks : List (List Byte)) (nonce text : List Byte) : List Byte :=
  ((pieces 16 (text.length / 16 + 1) text).zipIdx.map (fun p => p.1.zipWith (· ^^^ ·) (encipher ks (nonce ++ bigBytes 4 (p.2 + 2))))).flatten

/-- The tag of GCM over a header and a cipher text. -/
def tag (ks : List (List Byte)) (nonce header cipher : List Byte) : List Byte :=
  let h := BitVec.ofNat 128 (big (encipher ks (List.replicate 16 0#8)))
  let y := ghash h (pieces 16 (header.length / 16 + 1) header ++ pieces 16 (cipher.length / 16 + 1) cipher
    ++ [bigBytes 8 (8 * header.length) ++ bigBytes 8 (8 * cipher.length)])
  xorBytes (bigBytes 16 y.toNat) (encipher ks (nonce ++ bigBytes 4 1))

end Sys2Proof.Machine.Aes
end

