-- ==== Sys2Proof/Machine/Irq.lean ====
section
/-! DEFINITION. MSI-X vectors, coalescing and the error register of a function (23_scheduling_tenancy_power R340, R341, R352;
28_host_and_platform R419). -/

namespace Sys2Proof.Machine
open Sys2Proof

/-- Is a number that of a virtual function (R418)? -/
def validVf (vf : Nat) : Bool := 1 ≤ vf && vf ≤ 1024

/-- A virtual function that the manager has enabled (R418, R419). -/
def State.enabled (s : State) (vf : Nat) : Bool := validVf vf && (s.func vf).enabled

/-- A request that completes as an Unsupported Request (R419, R420). -/
def State.unsupported (s : State) (vf : Nat) : State := { s with outputs := s.outputs ++ [.cxlUnsupported vf] }

/-- What QPROG shows of a queue: the done and head fields (R340). -/
def Func.progress (f : Func) : BitVec 63 := f.done ++ f.head

/-- QPROG as its host reads it: with sw = 1 the value committed last while the queue is switched out, else as the queue stands (R340,
R342). -/
def Func.qprog (f : Func) : Word :=
  match f.committed with
  | some w => 1#1 ++ w
  | none => 0#1 ++ f.progress

/-- What word `i` of an MSI-X table holds at reset: the vector's mask bit set (PRESUMED, log entry 15). -/
def msixReset (i : Nat) : Word := if i % 2 = 1 then 1#64 <<< 32 else 0#64

/-- Word `i` of a function's MSI-X table (R419). -/
def Func.msixWord (f : Func) (i : Nat) : Word := Sparse.at f.msix (msixReset i) i

/-- Is a vector masked: bit 0 of its vector control? -/
def Func.masked (f : Func) (vec : Nat) : Bool := (f.msixWord (2 * vec + 1)).getLsbD 32

/-- The coalescing timer of a function runs while it is enabled and a vector has pending events (R352). -/
def Func.restartTimer (f : Func) : Func := { f with timer := f.coalTmr != 0#10 && f.counts.any (·.2 != 0) }

/-- One message of a vector: its count is cleared and the timer starts again where another count is not zero; a masked vector
sets its Pending Bit Array bit and sends nothing (R352). -/
def State.message (s : State) (vf vec : Nat) : State :=
  let f := s.func vf
  let g : Func := { f with counts := Sparse.drop f.counts vec }.restartTimer
  if f.masked vec then s.setFunc vf { g with pba := g.pba ||| (1#64 <<< vec) }
  else { s.setFunc vf g with outputs := s.outputs ++ [.msix vf (BitVec.ofNat 6 vec)] }

/-- An event of a vector (R352): vector 0 is never coalesced; 0 in cnt acts as 1, and 0 in tmr disables coalescing. -/
def State.raise (s : State) (vf : Nat) (vec : BitVec 6) : State :=
  let f := s.func vf
  if vec == 0#6 || f.coalTmr == 0#10 then s.message vf vec.toNat
  else
    let n := Sparse.at f.counts 0 vec.toNat + 1
    if n ≥ max f.coalCnt.toNat 1 then s.message vf vec.toNat
    else s.setFunc vf { f with counts := Sparse.insert f.counts vec.toNat n, timer := true }

/-- Records a refusal or a failure in QERR and raises vector 0 (R340, R347, R352). -/
def State.queueError (s : State) (vf : Nat) (idx : BitVec 32) (reason : BitVec 8) : State :=
  let f := s.func vf
  (s.setFunc vf { f with errIdx := idx, errReason := reason, errCount := if f.errCount == 0xFFFF#16 then f.errCount else f.errCount + 1#16 }).raise
    vf 0#6

/-- COALESCING_TIMER_EXPIRY: every vector with a count that is not zero sends one message (R352). -/
def execCoalescingTimerExpiry (vf : Nat) (s : State) : Exec :=
  let f := s.func vf
  .next (if !f.timer then s
    else
      let t := (f.counts.filter (·.2 != 0)).foldl (fun s e => s.message vf e.1) s
      t.setFunc vf { t.func vf with timer := false })

/-- MSI_X_VECTOR_UNMASK: a host write clears a vector's mask; a message held for it is sent (R352, R419). -/
def execMsiXVectorUnmask (vf : Nat) (vec : BitVec 6) (s : State) : Exec :=
  let f := s.func vf
  let i := 2 * vec.toNat + 1
  let held := f.pba.getLsbD vec.toNat
  let g : Func := { f with msix := Sparse.write f.msix (msixReset i) i (f.msixWord i &&& ~~~(1#64 <<< 32)), pba := f.pba &&& ~~~(1#64 <<< vec.toNat) }
  .next (if !s.enabled vf then s.unsupported vf
    else if held then { s.setFunc vf g with outputs := s.outputs ++ [.msix vf vec] } else s.setFunc vf g)

end Sys2Proof.Machine
end

