-- ==== Sys2Proof/Machine/Loom.lean ====
section
/-! DEFINITION. The Loom: node records, acceptance, queues, `lpost`, readiness, dispatch, aging and gangs, the node kinds, and
completion (23_scheduling_tenancy_power R333-R347; R11, R39, R130, R153, R219). -/

namespace Sys2Proof.Machine
open Sys2Proof

/-! ## Node records (R334, R335) -/

/-- A node record's fields. -/
abbrev NodeRecord := BitVec 1024

/-- Image id. -/
def recImage (r : NodeRecord) : Nat := (r.extractLsb' 32 32).toNat
/-- Predecessor count. -/
def recPreds (r : NodeRecord) : Nat := (r.extractLsb' 16 16).toNat
/-- MSI-X vector. -/
def recVec (r : NodeRecord) : BitVec 6 := r.extractLsb' 9 6
/-- Signal vec at completion. -/
def recIrq (r : NodeRecord) : Bool := r.getLsbD 8
/-- 0 prog, 1 bank, 2 tile, 3 coll. -/
def recKind (r : NodeRecord) : Nat := (r.extractLsb' 5 2).toNat
/-- 0 core, 1 cluster, 2 panel, 3 device. -/
def recWidth (r : NodeRecord) : Nat := (r.extractLsb' 3 2).toNat
/-- Priority. -/
def recPrio (r : NodeRecord) : BitVec 3 := r.extractLsb' 0 3
/-- Entry byte offset in slot 0. -/
def recEntry (r : NodeRecord) : Nat := (r.extractLsb' 64 32).toNat
/-- aff: pin, valid and unit index. -/
def recPin (r : NodeRecord) : Bool := r.getLsbD 127
/-- aff names a preferred unit. -/
def recValid (r : NodeRecord) : Bool := r.getLsbD 126
/-- Unit index of aff. -/
def recUnit (r : NodeRecord) : Nat := (r.extractLsb' 96 12).toNat
/-- The four successor entries. -/
def recSucc (r : NodeRecord) : List (BitVec 16) := (List.range 4).map (fun j => r.extractLsb' (128 + 16 * j) 16)
/-- Argument word `k`. -/
def recArg (r : NodeRecord) (k : Nat) : Word := r.extractLsb' (192 + 64 * k) 64
/-- The swatches that are not all zero. -/
def recSwatches (r : NodeRecord) : List (BitVec 48) :=
  ((List.range 6).map (fun j => r.extractLsb' (704 + 48 * j) 48)).filter (· != 0#48)
/-- A reserved bit is not zero. -/
def recReserved (r : NodeRecord) : Bool :=
  r.getLsbD 15 || r.getLsbD 7 || r.extractLsb' 108 18 != 0#18 || r.extractLsb' 992 32 != 0#32

/-- Slot of a swatch. -/
def swSlot (w : BitVec 48) : Nat := (w.extractLsb' 36 12).toNat
/-- The node writes the region. -/
def swOut (w : BitVec 48) : Bool := w.getLsbD 35
/-- Bytes of a swatch's unit. -/
def swUnit (w : BitVec 48) : Nat := 256 * 16 ^ (w.extractLsb' 33 2).toNat
/-- Start of the region in its slot. -/
def swStart (w : BitVec 48) : Nat := (w.extractLsb' 0 20).toNat * swUnit w
/-- Length of the region. -/
def swLen (w : BitVec 48) : Nat := (w.extractLsb' 20 13).toNat * swUnit w

/-! ## Units (R11, R344, R425) -/

/-- Cores of a unit of a width. -/
def unitSize (w : Nat) : Nat := ([1, 128, 1024, 4096] : List Nat).getD w 4096

/-- The cores of unit `u` of a width. -/
def unitCores (w u : Nat) : List Nat := (List.range (unitSize w)).map (fun k => u * unitSize w + k)

/-- A core that belongs to a partition; one with fewer than 8 lanes joins none (R425). -/
def State.coreIn (s : State) (pi k : Nat) : Bool :=
  let c := s.core k
  c.part == pi && !c.disabled && (lanesOf c.lanemap).length ≥ 8

/-- Is a unit of a width within a partition? -/
def State.unitIn (s : State) (pi w u : Nat) : Bool := u < 4096 / unitSize w && (unitCores w u).all (s.coreIn pi)

/-- Is a core in a unit that a gang other than this node has reserved? Of two gangs whose units meet, the one that reserved first
goes first (R345; DEDUCED, log entry 35). -/
def Part.reserved (p : Part) (d : Node) (k : Nat) : Bool :=
  (p.gangs.takeWhile (·.1 != d.handle)).any (fun g =>
    (p.nodes.find? (·.handle == g.1)).any (fun e => (unitCores (recWidth e.record) g.2).contains k))

/-- Is a core free for a node: nothing resident, and not in a unit reserved for another gang (R345)? -/
def State.coreFree (s : State) (pi : Nat) (d : Node) (k : Nat) : Bool :=
  (s.core k).resident.isNone && s.coreIn pi k && !(s.part pi).reserved d k

/-! ## Acceptance (R336-R338) -/

/-- May a submitter name this image: its function's, or for `lpost` the poster's own (R219, R333)? -/
def State.imageOk (s : State) (vf image : Nat) (poster : Option Nat) : Bool :=
  match Sparse.find s.images image with
  | none => false
  | some d => d.vf.toNat == vf && (match poster with
    | none => true
    | some i => i == image)

/-- A successor entry breaks R336. `q` gives the record's queue index and the end of its tail advance. -/
def Part.badSucc (p : Part) (vf : Nat) (q : Option (BitVec 32 × BitVec 32)) (e : BitVec 16) : Bool :=
  if e == 0#16 then false
  else
    let k := e.extractLsb' 0 15
    if e.getLsbD 15 then
      match q with
      | none => true
      | some (i, stop) => k == 0#15 || k.toNat ≥ (stop - i).toNat
    else !p.nodes.any (fun d => d.handle == k.toNat && d.vf == vf && (match d.state with
      | .waiting n => n > 0
      | _ => false))

/-- The reason for which a record is refused, in the order of R338. -/
def State.refusal (s : State) (pi vf image : Nat) (r : NodeRecord) (poster : Option Nat) (q : Option (BitVec 32 × BitVec 32)) :
    Option (BitVec 8) :=
  let prog := recKind r == 0
  if !s.imageOk vf image poster then some 2#8
  else if recReserved r || (!prog && (recWidth r != 0 || recEntry r != 0))
      || (prog && (recEntry r % 4 != 0 || recEntry r ≥ (s.slotEntry image 0).limit.toNat)) then some 1#8
  else if (recSucc r).any ((s.part pi).badSucc vf q) then some 3#8
  else if (recSwatches r).any (fun w => swLen w == 0 || swSlot w == 0 || swSlot w ≥ 4032 || swStart w + swLen w > 2 ^ 48) then some 4#8
  else if recPin r && !s.unitIn pi (recWidth r) (recUnit r) then some 5#8
  else none

/-- Generation of a handle (R337). -/
def Part.gen (p : Part) (h : Nat) : BitVec 16 := Sparse.at p.gens 1#16 h

/-- The lowest handle that is free (R337). (DESIGN CHOICE, log entry 27.) -/
def Part.freeHandle (p : Part) : Nat :=
  ((List.range (p.nodes.length + 1)).map (· + 1)).find? (fun h => !p.nodes.any (·.handle == h)) |>.getD 0

/-- Is the Loom full (R337, R341)? -/
def Part.full (p : Part) : Bool := p.nodes.length ≥ min p.quota 32767

/-- Changes a node. -/
def State.onNode (s : State) (pi h : Nat) (f : Node → Node) : State :=
  let p := s.part pi
  s.setPart pi { p with nodes := p.nodes.map (fun d => if d.handle == h then f d else d) }

/-- Physical ranges of a record's swatches through the slot table as it stands (R346). -/
def State.swatchRanges (s : State) (image : Nat) (r : NodeRecord) : List (Nat × Nat × Bool) :=
  (recSwatches r).map (fun w =>
    let lo := (s.slotEntry image (swSlot w)).base.toNat / 256 * 256 + swStart w
    (lo, lo + swLen w, swOut w))

/-- A node becomes ready at its prio level; its swatches are resolved (R343, R346). -/
def State.makeReady (s : State) (pi h : Nat) : State :=
  let p := s.part pi
  let s := s.setPart pi { p with readyCount := p.readyCount + 1 }
  s.onNode pi h (fun d => { d with state := .ready, readyOrder := p.readyCount, level := recPrio d.record, ranges := s.swatchRanges d.image d.record })

/-- A record becomes a node (R336, R337, R343). Completions that named it before it was taken count. -/
def State.accept (s : State) (pi vf image : Nat) (r : NodeRecord) (qidx : Option (BitVec 32)) : State × Nat :=
  let p := s.part pi
  let h := p.freeHandle
  let f := s.func vf
  let owed := (qidx.bind (fun i => f.owed.find? (·.1 == i))).map (·.2)
  let preds := recPreds r - (owed.map (·.1)).getD 0
  let cancelled := (owed.map (·.2.1)).getD false
  let d : Node :=
    { handle := h, vf := vf, image := image, record := r, qidx := qidx, level := recPrio r, state := .waiting preds, gen := p.gen h
      cancelled := cancelled, past := (owed.map (·.2.2)).getD []
      succs := (recSucc r).filterMap (fun e => if e != 0#16 && !e.getLsbD 15 then some (e.toNat, p.gen e.toNat) else none)
      fwd := match qidx with
        | some i => (recSucc r).filterMap (fun e => if e.getLsbD 15 then some (i + (e.extractLsb' 0 15).setWidth 32) else none)
        | none => [] }
  let s := s.setPart pi { p with nodes := p.nodes ++ [d] }
  let s := match qidx with
    | some i => s.setFunc vf { f with owed := f.owed.filter (·.1 != i) }
    | none => s
  (if preds = 0 && !cancelled then s.makeReady pi h else s, h)

/-! ## Queues (R340-R342) -/

/-- Records in a ring. -/
def Func.ringSize (f : Func) : Nat := 2 ^ f.qn

/-- Key id under which a function's queue is read: that of the window that holds it (R340, R420). (DEDUCED, log entry 35.) -/
def Func.queueKey (f : Func) : Nat :=
  ((f.wins.toList.find? (fun w => w.base ≤ f.qbase && f.qbase < w.base + w.len)).map (·.key.toNat)).getD 0

/-- A write of QTAIL (R341, R342): a function that is not enabled ignores it and answers Unsupported Request (R419). -/
def State.writeQtail (s : State) (vf : Nat) (v : BitVec 32) : State :=
  let f := s.func vf
  if !s.enabled vf then s.unsupported vf
  else if (v - f.head).toNat ≤ f.ringSize then
    s.setFunc vf { f with tail := v, adv := (f.adv.filter (fun t => (t - f.head).toNat < (v - f.head).toNat)) ++ (if v == f.head then [] else [v]) }
  else s.queueError vf v 1#8

/-- QTAIL_WRITE (R341, R342). -/
def execQtailWrite (vf : Nat) (v : BitVec 32) (s : State) : Exec := .next (s.writeQtail vf v)

/-- Is a function's queue switched in (R349)? -/
def State.switchedIn (s : State) (vf : Nat) : Bool := s.enabled vf && (s.part (s.func vf).part).func == some vf

/-- RECORD_TAKE: the next record in index order is accepted or refused, and head advances; a full Loom stops it (R341). -/
def execRecordTake (vf : Nat) (s : State) : Exec :=
  let f := s.func vf
  let pi := f.part
  .next (if !s.switchedIn vf || f.head == f.tail || (s.part pi).full then s
    else
      let i := f.head
      let r : NodeRecord := BitVec.ofNat 1024 (s.read f.queueKey (f.qbase + 128 * (i.toNat % f.ringSize)) 128)
      let stop := ((f.adv.find? (fun t => (t - i).toNat > 0)).getD f.tail)
      let s := match s.refusal pi vf (recImage r) r none (some (i, stop)) with
        | some e => (s.setFunc vf { f with owed := f.owed.filter (·.1 != i) }).queueError vf i e
        | none => (s.accept pi vf (recImage r) r (some i)).1
      let f := s.func vf
      s.setFunc vf { f with head := i + 1#32, adv := f.adv.filter (· != i + 1#32) })

/-- `lpost xd, (xs1)` (R219). A full Loom answers before the record is examined. (DEDUCED, log entry 35.) -/
def execLpost (rd rs1 : XReg) (w1 : Bool) (s : State) : Exec :=
  launch .sOnly sysCharge (reading [.x rs1 w1] (fun s =>
    let c := s.my
    match s.plainAccess (c.view s.who) (c.getX rs1) { size := 128, align := 128 } with
    | .error e => (s, e.act)
    | .ok acc =>
      let r : NodeRecord := BitVec.ofNat 1024 (s.read acc.key acc.phys 128)
      let image := if recImage r = 0 then c.image else recImage r
      if (s.part c.part).full then s.put rd (0x01#8 ++ 0#56)
      else match s.refusal c.part c.vf image r (some c.image) none with
      | some _ => s.put rd (0x02#8 ++ 0#56)
      | none =>
        let t := s.accept c.part c.vf image r none
        -- what the poster did happens before the node (R219)
        let before := s.pastFor s.who
        (t.1.onNode c.part t.2 (fun d => { d with past := mergeMax d.past before })).put rd (((s.part c.part).gen t.2 ++ BitVec.ofNat 16 t.2).setWidth 64))) s

/-! ## Dispatch (R344-R346, R348) -/

/-- Two byte ranges overlap. -/
def rangesMeet (a b : Nat × Nat × Bool) : Bool := a.1 < b.2.1 && b.1 < a.2.1

/-- Two nodes conflict (R346). Of two that are ready or running no chain of edges orders one before the other. -/
def Node.conflicts (d e : Node) : Bool := d.ranges.any (fun a => e.ranges.any (fun b => (a.2.2 || b.2.2) && rangesMeet a b))

/-- Is a node ready or running? -/
def Node.inPool (d : Node) : Bool := d.state == .ready || d.state == .running

/-- A node that an earlier ready or running one conflicts with waits for it (R346). -/
def Part.blockedBy (p : Part) (d : Node) : Bool :=
  p.nodes.any (fun e => e.handle != d.handle && e.inPool && e.readyOrder < d.readyOrder && d.conflicts e)

/-- Does a node touch a gate that is on (R348)? -/
def Node.gated (d : Node) (g : Gate) : Bool := g.on && d.ranges.any (fun r => rangesMeet r (256 * g.base, 256 * (g.base + g.limit), true))

/-- A swatch names a slot with P = 0 (R344). -/
def State.swatchAbsent (s : State) (d : Node) : Bool := (recSwatches d.record).any (fun w => !(s.slotEntry d.image (swSlot w)).present)

/-- Insertion by level, 7 first, then by age. -/
def insertReady (d : Node) : List Node → List Node
  | [] => [d]
  | e :: es => if e.level.toNat < d.level.toNat || (e.level == d.level && d.readyOrder < e.readyOrder) then d :: e :: es else e :: insertReady d es

/-- The ready nodes of the function that is switched in, as the dispatcher scans them (R344). -/
def Part.scan (p : Part) : List Node :=
  (p.nodes.filter (fun d => d.state == .ready && !d.cancelled && p.func == some d.vf)).foldr insertReady []

/-- Slots of an image's table that pointers name, as seats. -/
def State.tableSeats (s : State) (image : Nat) (ptrs : List Word) : List Seat :=
  (((ptrs.map (fun p => p.extractLsb' 52 12)).filter (fun k => k != 0#12 && k.toNat < 4032)).eraseDups).filterMap (fun k =>
    let e := s.slotEntry image k.toNat
    some ⟨k, e, !e.present⟩)

/-- The view of a node that has no context: its image's slot table (R339). -/
def State.tableView (s : State) (image : Nat) (ptrs : List Word) : View :=
  ⟨false, none, s.slotEntry image 0, s.tableSeats image ptrs, Vector.replicate 4 {}, (Sparse.at s.images {} image).vf.toNat⟩

/-- Bytes of one panel's HBM (R114). -/
def panelSize : Nat := 0x2000000000

/-- Panel whose bank units hold a bank node's arg1: that of its bank memory or of its HBM stacks (R114, R132, R339). -/
def State.bankPanel (s : State) (d : Node) : Nat :=
  let p := recArg d.record 1
  match s.place (s.tableView d.image [p]) (p.extractLsb' 52 12).toNat (p.extractLsb' 0 48).toNat 8 with
  | some t => if t.region == some .hbm then t.phys / panelSize % 4 else (t.phys - bankStart) / bankSize % 4
  | none => 0

/-- Copies of a core's copy engine: its context's, and the tile nodes on it. -/
def State.copySlots (s : State) (pi k : Nat) : Nat :=
  (match (s.core k).resident with
    | some i => (s.regs (.ctx i)).copies.length
    | none => 0) + ((s.part pi).nodes.filter (fun d => d.state == .running && recKind d.record == 2 && d.units == [k])).length

/-- The units a node may take, in the order in which they are tried: the pinned one; else the preferred one, then the order
the dispatcher happens to have (`hint`, then ascending) (R344). -/
def Node.candidates (d : Node) (hint : List Nat) : List Nat :=
  if recPin d.record then [recUnit d.record]
  else (if recValid d.record then [recUnit d.record] else []) ++ hint ++ List.range (4096 / unitSize (recWidth d.record))

/-- Where a node is placed, or `none` where no unit is free (R11, R339, R344). -/
def State.placement (s : State) (pi : Nat) (d : Node) (hint : List Nat) : Option (List Nat) :=
  match recKind d.record with
  | 0 =>
    let w := recWidth d.record
    (((d.candidates hint).filter (fun u => u < 4096 / unitSize w)).find? (fun u => (unitCores w u).all (s.coreFree pi d))).map (unitCores w)
  | 1 =>
    let b := s.bankPanel d
    if (s.part pi).nodes.any (fun e => e.state == .running && recKind e.record == 1 && e.units == [b]) then none else some [b]
  | 2 => ((d.candidates hint).find? (fun k => k < 4096 && s.coreIn pi k && s.copySlots pi k < 16 && !(s.part pi).reserved d k)).map ([·])
  | _ => some []

/-- Can a node be dispatched now, its swatches present? -/
def State.dispatchable (s : State) (pi : Nat) (hint : List Nat) (d : Node) : Bool :=
  let p := s.part pi
  !s.swatchAbsent d && !p.blockedBy d && !p.gates.toList.any d.gated && (s.placement pi d hint).isSome

/-- Posts swatch-absent once for every ready node that has an absent slot (R344). -/
def State.postAbsent (s : State) (pi : Nat) : State :=
  let p := s.part pi
  let new := (p.scan.filter (fun d => s.swatchAbsent d && !d.swatchPosted)).map (·.handle)
  let s := new.foldl (fun s h => s.onNode pi h (fun d => { d with swatchPosted := true })) s
  new.foldl (fun s _ => s.post pi 4#8 0) s

/-- A context id that no context has used. -/
def State.freshId (s : State) : Nat := s.ctxs.foldl (fun a e => if a ≤ e.1 && e.1 < 2 ^ 32 then e.1 + 1 else a) 1

/-- Ids for `n` contexts: the given ones where they are distinct and free, else fresh ones. (DESIGN CHOICE, log entry 27.) -/
def State.idsFor (s : State) (given : List Nat) (n : Nat) : List Nat :=
  let ids := given.take n
  let free (i : Nat) : Bool := i < 2 ^ 32 && (match Sparse.find s.ctxs i with
    | none => true
    | some c => c.life == .ended || c.life == .killed)
  if ids.length == n && ids.eraseDups.length == n && ids.all free then ids else (List.range n).map (s.freshId + ·)

/-- Every granule of a core's scratchpad allowance is full, with no writer tag, and every tile has tag 0 (R130). -/
def State.freshSpad (s : State) (k : FixedSlot) : State :=
  let lo := k.base.toNat - spadStart
  let hi := lo + k.limit.toNat
  { s with granules := s.granules.filter (fun e => !(lo ≤ 16 * e.1 && 16 * e.1 < hi))
           tileTags := s.tileTags.filter (fun e => !(lo ≤ 2048 * e.1 && 2048 * e.1 < hi)) }

/-- A context starts on a core, after everything that its node's predecessors did (R39, R130, R153, R157, R365, R376). Its registers and
tiles are written whole, check bits included (R138, R140). -/
def State.startContext (s : State) (pi : Nat) (d : Node) (core id : Nat) : State :=
  let img := Sparse.at s.images {} d.image
  let prot := img.key != 0#7
  let u := s.core core
  let c : Ctx :=
    { image := d.image, vf := d.vf, part := pi, prot := prot, node := d.handle, core := some core, slot0 := s.slotEntry d.image 0, fixed := u.fixed
      nS := { pc := BitVec.ofNat 64 (recEntry d.record), run := .running }, keyInst := if prot then s.nextKey else 0, chargedAt := s.timer
      spused := ((u.fixed.toList.getD 3 {}).limit).setWidth 64 }
  let c := (List.range 8).foldl (fun c k => c.setX (BitVec.ofNat 5 (10 + k)) (recArg d.record k)) c
  let s := { s.setRegs (.ctx id) c with nextKey := if prot then s.nextKey + 1 else s.nextKey }
  let s := s.setCore core { u with resident := some id, quiesced := false, lastVf := d.vf, badReg := [], corrReg := [] }
  ((s.freshSpad (u.fixed.toList.getD 3 {})).resetKnow core d.past).onNode pi d.handle (fun e => { e with ctxs := e.ctxs ++ [id] })

/-- A coll node issues its contribution (R339, R413); a descriptor that cannot be read or used makes the node fail. -/
def State.startColl (s : State) (pi : Nat) (d : Node) : State :=
  let fail : State := s.onNode pi d.handle (fun e => { e with failed := true })
  let p := recArg d.record 0
  match s.plainAccess (s.tableView d.image [p]) p { size := 32, align := 32 } with
  | .error _ => fail
  | .ok acc =>
    let r := RedDesc.ofRecord (BitVec.ofNat 256 (s.read acc.key acc.phys 32))
    match s.far d.image r.node 8 with
    | .error _ => fail
    | .ok far =>
      let who : Requester := .node d.handle d.gen
      if r.invalid then fail
      else match (s.part pi).roomFor who 0#3 far.ep 1 with
      | none => fail
      | some q =>
        let o : FabOp := { pk := { r.packet (recArg d.record 1) with key := far.key, offset := far.off }, dest := .reduction r.name, issuers := [⟨0, 0#32, 0#64, r.node⟩] }
        let s := s.setPart pi (q.issue who 0#3 far.ep o)
        (s.onNode pi d.handle (fun e => { e with red := some { name := r.name, seq := 0, op := r.op } })).pump pi

/-- A node starts on its unit (R344). A gang's reservation ends with its start (R345). -/
def State.startNode (s : State) (pi : Nat) (d : Node) (units ids : List Nat) : State :=
  let s := s.onNode pi d.handle (fun e => { e with state := .running, units := units })
  let p := s.part pi
  let s := s.setPart pi { p with gangs := p.gangs.filter (·.1 != d.handle) }
  match recKind d.record with
  | 0 => (units.zip (s.idsFor ids units.length)).foldl (fun s e => s.startContext pi d e.1 e.2) s
  | 3 => s.startColl pi d
  | _ => s

/-- NODE_DISPATCH: the oldest ready node of the highest level whose placement can be met starts (R344). `ids` are the ids of
its contexts and `units` the units the dispatcher tries first where the spec leaves the choice open. -/
def execNodeDispatch (p : Nat) (ids units : List Nat) (s : State) : Exec :=
  let s := s.postAbsent p
  .next (match (s.part p).scan.find? (s.dispatchable p units) with
    | none => s
    | some d => match s.placement p d units with
      | none => s
      | some us => s.startNode p d us ids)

/-- AGING_INTERVAL_EXPIRY: a ready node of the function switched in moves up one level (R345). -/
def execAgingIntervalExpiry (p handle : Nat) (s : State) : Exec :=
  .next (s.onNode p handle (fun d => if d.state == .ready && (s.part p).func == some d.vf && d.level.toNat < 7 then { d with level := d.level + 1#3 } else d))

/-- The unit that a gang reserves (R345). -/
def State.reserveUnit (s : State) (pi : Nat) (d : Node) : Option Nat :=
  let w := recWidth d.record
  if recPin d.record || (recValid d.record && s.unitIn pi w (recUnit d.record)) then some (recUnit d.record)
  else
    let free (u : Nat) : Nat := ((unitCores w u).filter (s.coreFree pi d)).length
    ((List.range (4096 / unitSize w)).filter (s.unitIn pi w)).foldl (fun (b : Option Nat) u => match b with
      | none => some u
      | some v => if free v < free u then some u else b) none

/-- GANG_RESERVATION: the head of level 7, when it is a gang that holds no reservation, reserves a unit; other gangs keep theirs
(R345). -/
def execGangReservation (p : Nat) (s : State) : Exec :=
  let t := s.part p
  .next (match t.scan.head? with
    | some d =>
      if d.level == 7#3 && recKind d.record == 0 && recWidth d.record != 0 && !t.gangs.any (·.1 == d.handle) then
        s.setPart p { t with gangs := t.gangs ++ ((s.reserveUnit p d).map (fun u => (d.handle, u))).toList }
      else s
    | none => s)

/-! ## The kinds that are not prog (R339) -/

/-- One element of a bank node: dst[i] := dst[i] op src[i]. -/
def State.bankElement (s : State) (v : View) (o : BankOp) (dst src : Word) : Except MemFault State :=
  match s.plainAccess v src { size := 8, align := 8 } with
  | .error e => .error e
  | .ok a =>
    match s.access v dst { size := 8, align := 8, write := true, rmw := true, kind := .rmw } with
    | .error e => .error e
    | .ok b =>
      let fmt := match o with
        | .add | .or => 3
        | _ => 7
      .ok (s.putAtomic none b 8 (o.apply fmt (s.read b.key b.phys 8) (s.read a.key a.phys 8)))

/-- `n` elements of a bank node from element `i` on; stops at the first that fails. -/
def State.bankRun (s : State) (v : View) (o : BankOp) (dst src : Word) : Nat → Nat → State × Bool
  | 0, _ => (s, true)
  | n + 1, i =>
    match s.bankElement v o (dst + BitVec.ofNat 64 (8 * i)) (src + BitVec.ofNat 64 (8 * i)) with
    | .error _ => (s, false)
    | .ok t => t.bankRun v o dst src n (i + 1)

/-- The op of a bank node: arg0 bits [1:0]; it fixes the format. -/
def bankOpOf (w : Word) : BankOp :=
  match (w.extractLsb' 0 2).toNat with
  | 0 => .add
  | 1 => .fadd
  | 2 => .fmax
  | _ => .or

/-- A bank node's effect, and whether it succeeded: its elements, in bank memory or HBM as for the instructions of R282 (R132). -/
def State.runBank (s : State) (d : Node) : State × Bool :=
  let r := d.record
  s.bankRun (s.tableView d.image [recArg r 1, recArg r 2]) (bankOpOf (recArg r 0)) (recArg r 1) (recArg r 2) (recArg r 3).toNat 0

/-- Moves `n` steps of a tile node's copy. -/
def State.tileSteps (s : State) (a : Agent) (seq : Nat) : Nat → State
  | 0 => s
  | n + 1 => match (s.regs a).copies.find? (·.seq == seq) with
    | some o => if o.finished then s else (s.chunk a o).tileSteps a seq n
    | none => s

/-- A tile node's effect, and whether it succeeded: the `ytile` record at arg0, on the copy engine of its core, through its
image's slot table. -/
def State.runTile (s : State) (pi : Nat) (d : Node) : State × Bool :=
  let p := recArg d.record 0
  let v := s.tableView d.image [p]
  match s.plainAccess v p { size := 64, align := 64 } with
  | .error _ => (s, false)
  | .ok acc =>
    let id := 2 ^ 33 + d.handle
    let a : Agent := .ctx id
    let core := (d.units.head?).getD 0
    let know := (s.core core).know
    let rec_ : BitVec 512 := BitVec.ofNat 512 (s.read acc.key acc.phys 64)
    let o : CopyOp := { kind := .ytile, seq := 1, word := 0#32, ipc := 0#64, xd := 0#5, vreg := 0#6, record := rec_, lanes := 16#5, pblk := 0#17
                        mapitch := 0#64, mwpitch := 0#64, mzmap := 0#64, seats := [] }
    let q := o.plan
    let ptrs := (q.src.toList ++ q.dst.toList).map (·.1) ++ [q.bar]
    let o := { o with seats := s.tableSeats d.image ptrs, know := if q.acq then { past := d.past } else {} }
    let c : Ctx := { image := d.image, vf := d.vf, part := pi, core := some core, slot0 := s.slotEntry d.image 0, fixed := (s.core core).fixed, copies := [o] }
    -- what precedes the node precedes its copy, and nothing else on its core follows from that (R153, R168)
    let onCore (s : State) (k : Knowledge) : State := s.setCore core { s.core core with know := k }
    let t := onCore (s.setRegs a c) { know with past := mergeMax know.past d.past }
    if q.fow.isSome || (t.copyFault a o).isSome then (s, false)
    else
      let t := t.tileSteps a 1 ((q.total + 63) / 64 + 1)
      let good := ((t.regs a).copies.find? (·.seq == 1)).any (fun o => o.fail.isNone)
      (onCore { t with ctxs := Sparse.drop t.ctxs id } know, good)

/-- The end of a coll node: the result and `fstat` are stored at arg2 (R339, R415). -/
def State.runColl (s : State) (d : Node) : State × Bool :=
  match d.red.bind (·.reply) with
  | none => (s, false)
  | some (w, st) =>
    let p := recArg d.record 2
    let v := s.tableView d.image [p]
    match s.plainAccess v p { size := 16, align := 8, write := true } with
    | .error _ => (s, false)
    | .ok acc => (s.putPlain none acc 16 (w.toNat + 2 ^ 64 * st.toNat), true)

/-! ## Completion (R343, R347, R352) -/

/-- A predecessor has completed: on success the count falls, what the predecessor did happens before the node (R153), and at zero the
node is ready; else the node is cancelled. -/
def State.settleSucc (s : State) (pi : Nat) (good : Bool) (past : Sparse Nat) (d : Node) : State :=
  match d.state with
  | .waiting n =>
    if !good then s.onNode pi d.handle (fun e => { e with cancelled := true })
    else
      let s := s.onNode pi d.handle (fun e => { e with state := .waiting (n - 1), past := mergeMax e.past past })
      if n = 1 && !d.cancelled then s.makeReady pi d.handle else s
  | _ => if good then s else s.onNode pi d.handle (fun e => { e with cancelled := e.cancelled || e.state == .ready })

/-- A record not yet taken is named by a completed node; one that has been taken and is no node any more was refused or has completed
(R343). -/
def Func.owe (f : Func) (i : BitVec 32) (good : Bool) (past : Sparse Nat) : Func :=
  let n := if good then 1 else 0
  let past := if good then past else []
  if (i - f.head).toNat ≥ 2 ^ 31 then f
  else match f.owed.find? (·.1 == i) with
  | some (_, k, bad, old) => { f with owed := f.owed.map (fun x => if x.1 == i then (i, k + n, bad || !good, mergeMax old past) else x) }
  | none => { f with owed := f.owed ++ [(i, n, !good, past)] }

/-- What a node's completion orders before what follows it, by core: what its contexts did, and the copy of a tile node (R153). -/
def State.nodePast (s : State) (d : Node) : Sparse Nat :=
  if recKind d.record == 2 then mergeMax d.past (d.units.map (fun k => (k, s.tick + 1))) else d.past

/-- The completion of a node happens before the later nodes that conflict with it (R346). -/
def State.orderConflicts (s : State) (pi : Nat) (d : Node) (past : Sparse Nat) : State :=
  let p := s.part pi
  s.setPart pi { p with nodes := p.nodes.map (fun e =>
    if d.inPool && e.inPool && d.readyOrder < e.readyOrder && d.conflicts e then { e with past := mergeMax e.past past } else e) }

/-- A node completes: its handle is freed, done counts it, a failure or cancellation is recorded in QERR, vec is raised, and
its successors are told (R337, R343, R347, R352). A success happens before them and before the nodes that conflict with it (R153,
R346, R347). -/
def State.completeNode (s : State) (pi : Nat) (d : Node) (good : Bool) : State :=
  let p := s.part pi
  let g := d.gen + 1#16
  let past := s.nodePast d
  let s := if good then s.orderConflicts pi d past else s
  let p := { p with nodes := (s.part pi).nodes }
  let s := s.setPart pi { p with nodes := p.nodes.filter (·.handle != d.handle), gens := Sparse.write p.gens 1#16 d.handle (if g == 0#16 then 1#16 else g)
                                 gangs := p.gangs.filter (·.1 != d.handle)
                                 seqs := p.seqs.map (fun q => if q.who == .node d.handle d.gen then { q with closing := true } else q) }
  let s := match d.qidx with
    | none => s
    | some i =>
      let f := s.func d.vf
      let s := s.setFunc d.vf { f with done := f.done + 1#31 }
      if good then s else s.queueError d.vf i (if d.cancelled && !d.failed then 7#8 else 6#8)
  let s := if recIrq d.record then s.raise d.vf (recVec d.record) else s
  let s := d.succs.foldl (fun s h => match (s.part pi).nodes.find? (fun e => e.handle == h.1 && e.gen == h.2) with
    | some e => s.settleSucc pi good past e
    | none => s) s
  let s := d.fwd.foldl (fun s i =>
    match (s.part pi).nodes.find? (fun e => e.vf == d.vf && e.qidx == some i) with
    | some e => s.settleSucc pi good past e
    | none => s.setFunc d.vf ((s.func d.vf).owe i good past)) s
  s.pump pi

/-- The outcome of a node that can complete now: the state after its effect, and whether it succeeded (R20, R339, R347). -/
def State.nodeOutcome (s : State) (pi : Nat) (d : Node) : Option (State × Bool) :=
  match d.state with
  | .running =>
    match recKind d.record with
    | 0 => if d.ctxs == [] then some (s, !d.failed) else none
    | 1 => some (s.runBank d)
    | 2 => some (s.runTile pi d)
    | _ =>
      if d.failed then some (s, false)
      else match d.red with
        | some r => if r.failed.isSome then some (s, false) else if r.reply.isSome then some (s.runColl d) else none
        | none => none
  | _ => if d.cancelled then some (s, false) else none

/-- NODE_COMPLETION (R11, R20, R347). (DEDUCED, log entry 35.) -/
def execNodeCompletion (p handle : Nat) (s : State) : Exec :=
  .next (match (s.part p).nodes.find? (·.handle == handle) with
    | none => s
    | some d => match s.nodeOutcome p d with
      | none => s
      | some (t, good) => t.completeNode p (if good then d else { d with failed := d.state == .running }) good)

end Sys2Proof.Machine
end

