-- ==== Sys2Proof/Machine/Tenant.lean ====
section
/-! DEFINITION. Tenants and the gauge arbiter: killing a context, function-level reset, scrubbing, slices, hold gates, keys,
cable masks, grants and static energy (23_scheduling_tenancy_power R348-R356; 24_traps_and_preemption R364, R365;
28_host_and_platform R420-R422, R427). -/

namespace Sys2Proof.Machine
open Sys2Proof

/-! ## Killing (R364, R365) -/

/-- A context that still exists: not ended and not killed. -/
def Ctx.exists_ (c : Ctx) : Bool := c.life != .ended && c.life != .killed

/-- A context that still exists under an id. -/
def State.live (s : State) (i : Nat) : Bool := (Sparse.find s.ctxs i).any Ctx.exists_

/-- A context is killed without saving it (R364): its core is quiesced, its copies are aborted, its trap record and pending
faults go, its node fails once every context of it has ended, and its sequences close (R365, R404). -/
def State.kill (s : State) (i : Nat) : State :=
  if !s.live i then s
  else
    let c := s.regs (.ctx i)
    let s := s.chargeStatic i
    let s := match c.core with
      | some k => s.setCore k { s.core k with resident := none, quiesced := true }
      | none => s
    let s := s.onRegs (.ctx i) (fun c =>
      { c with life := .killed, core := none, copies := [], copyQ := [], matQ := [], vecQ := [], trap := none, pend := [], request := none
               stepping := false, keyInst := 0, vfab := none, reds := [] })
    let p := s.part c.part
    (s.setPart c.part { p with nodes := p.nodes.map (fun d =>
      if d.ctxs.contains i then { d with ctxs := d.ctxs.filter (· != i), failed := true } else d) }).killFabric i

/-- CKILL: one event at the partition's event arbiter (R363, R364). -/
def execCkill (p : Nat) (c : Nat) (s : State) : Exec := .next (if (s.regs (.ctx c)).part == p then s.kill c else s)

/-! ## Function-level reset and scrubbing (R353) -/

/-- Keys of a partition's region table whose region lies in a function's registered ranges. -/
def State.keysOf (s : State) (pi : Nat) (f : Func) : List (BitVec 32) :=
  let p := s.part pi
  let lo := p.rtbase.toNat * 16
  -- only an entry whose byte 6, which holds V, is not zero can be valid
  let idx := s.mem.filterMap (fun e => if lo ≤ e.1 && e.1 < lo + 2 ^ 20 && (e.1 - lo) % 16 == 6 then some ((e.1 - lo) / 16) else none)
  (idx.map (fun i =>
    let key0 : BitVec 32 := BitVec.ofNat 32 i
    let r := s.region p key0
    (r, (r.gen ++ BitVec.ofNat 16 i : BitVec 32)))).filterMap (fun e =>
      if e.1.valid && f.ranges.any (fun g => g.base ≤ e.1.base.toNat && e.1.base.toNat < g.base + g.len) then some e.2 else none)

/-- Running nodes of a function. -/
def Part.runningOf (p : Part) (vf : Nat) : List Node := p.nodes.filter (fun d => d.vf == vf && d.state == .running)

/-- Nodes of a function that a failure has cancelled complete, and theirs in turn (R347). -/
def State.cancelNodes (pi vf : Nat) : Nat → State → State
  | 0, s => s
  | n + 1, s => match (s.part pi).nodes.find? (fun d => d.vf == vf && d.cancelled && d.state != .running) with
    | some d => State.cancelNodes pi vf n (s.completeNode pi d false)
    | none => s

/-- The waiting and ready nodes of a function are discarded: their handles are free, their reservations gone (R337, R353). -/
def Part.discardNodes (p : Part) (vf : Nat) : Part :=
  let dead := p.nodes.filter (fun d => d.vf == vf && d.state != .running)
  { p with nodes := p.nodes.filter (fun d => !(d.vf == vf && d.state != .running))
           gens := dead.foldl (fun g d => Sparse.write g 1#16 d.handle (if d.gen + 1#16 == 0#16 then 1#16 else d.gen + 1#16)) p.gens
           gangs := p.gangs.filter (fun g => !dead.any (·.handle == g.1)) }

/-- FUNCTION_LEVEL_RESET, its steps in order (R353): running nodes fail and cancel what follows them before the nodes left are
discarded (R347). (DEDUCED, log entry 35.) -/
def execFunctionLevelReset (vf : Nat) (s : State) : Exec :=
  let pi := (s.func vf).part
  let mine := (s.ctxs.filter (fun e => e.2.vf == vf && e.2.exists_)).map (·.1)
  -- 1, 2: contexts and their copies; nodes
  let s := mine.foldl (fun s i => s.kill i) s
  let s := ((s.part pi).runningOf vf).foldl (fun s d => s.completeNode pi { d with failed := true } false) s
  let s := State.cancelNodes pi vf (s.part pi).nodes.length s
  let s := s.setPart pi ((s.part pi).discardNodes vf)
  -- 3: remote keys
  let s := (s.keysOf pi (s.func vf)).foldl (fun s k => s.revokeKey pi k) s
  -- 4: the context keys went with the contexts (R376); 5, 6, 7: interrupts, queue, scrubs
  let f := s.func vf
  .next (s.setFunc vf { f with counts := [], pba := 0#64, timer := false, head := 0#32, tail := 0#32, done := 0#31, adv := [], owed := [], committed := none
                               enabled := false, ranges := f.ranges.map (fun r => if r.len = 0 then r else { r with mark := some 0, touched := [] }) })

/-- The scrub of a range passes its next block: a block that a store has written already is left as it is. -/
def State.scrubNext (s : State) (r : Range) (w : Nat) : State × Range :=
  let a := r.base + w
  let s := if r.touched.contains w then s else s.scrubBytes a (min 256 (r.len - w))
  (s, if w + 256 ≥ r.len then { r with mark := none, touched := [] } else { r with mark := some (w + 256), touched := r.touched.filter (· != w) })

/-- SCRUB_BLOCK: the next 256-byte block of a function's first unfinished range is zeroed and the watermark advances (R353). -/
def execScrubBlock (vf : Nat) (s : State) : Exec :=
  let f := s.func vf
  .next (match f.ranges.find? (·.mark.isSome) with
    | none => s
    | some r =>
      let t := s.scrubNext r (r.mark.getD 0)
      t.1.setFunc vf { t.1.func vf with ranges := updateFirst (·.mark.isSome) (fun _ => t.2) f.ranges })

/-! ## Slices and gates (R348, R349) -/

/-- The function that follows in a partition: the next enabled one by number, around. -/
def State.nextFunc (s : State) (pi : Nat) (cur : Option Nat) : Option Nat :=
  let fs := (s.funcs.filter (fun e => e.2.part == pi && e.2.enabled)).map (·.1)
  match cur with
  | none => fs.head?
  | some v => (fs.find? (v < ·)).or fs.head?


/-- QOS_EXPIRY: the slice ends. Pre-emption of the outgoing function's contexts is requested, its queue is switched out and
the next function's is switched in, and the event goes to the manager (R41, R342, R349, R360). -/
def execQosExpiry (p : Nat) (s : State) : Exec :=
  let cur := (s.part p).func
  let next := s.nextFunc p cur
  let s : State := s.post p 6#8 0
  .next (if next == cur then s
    else
      let s : State := match cur with
        | none => s
        | some v =>
          let ids : List Nat := (s.ctxs.filter (fun e => e.2.vf == v && e.2.part == p && e.2.life == .running && e.2.request.isNone)).map (·.1)
          let s := ids.foldl (fun s i => s.onRegs (.ctx i) (fun c => { c with request := some .slice })) s
          s.setFunc v { s.func v with committed := some (s.func v).progress }
      let s : State := match next with
        | none => s
        | some v => s.setFunc v { s.func v with committed := none }
      s.setPart p { s.part p with func := next })

/-- HOLD_GATE_WRITE: one event at the completion arbiter (R348). -/
def execHoldGateWrite (p : Nat) (gate : BitVec 3) (en : Bool) (base limit : Nat) (s : State) : Exec :=
  let t := s.part p
  .next (s.setPart p { t with gates := t.gates.set gate.toNat { on := en, base := base, limit := limit } gate.isLt })

/-- GATE_DRAINED: no running node touches the gate, and the manager is told once for its setting (R348, R360). -/
def execGateDrained (p : Nat) (gate : BitVec 3) (s : State) : Exec :=
  let t := s.part p
  let g := t.gates.get gate.toFin
  .next (if g.on && !g.drained && !t.nodes.any (fun d => d.state == .running && d.gated g) then
      (s.setPart p { t with gates := t.gates.set gate.toNat { g with drained := true } gate.isLt }).post p 5#8 0
    else s)

/-! ## Settings that the manager's windows make as events -/

/-- EVHUB_WRITE: later events of the partition go to another hub core (R428). -/
def execEvhubWrite (p : Nat) (v : Word) (s : State) : Exec := .next (s.setPart p { s.part p with evhub := v.extractLsb' 0 3 })

/-- CABLEMASK_WRITE: the half-row that a hub core's `cablesel` selects is replaced (R350). -/
def execCablemaskWrite (h : Nat) (v : Word) (s : State) : Exec := .next (s.writeCablemask h v)

/-- GAUGETAB_WRITE (R356). -/
def execGaugetabWrite (h : Nat) (v : Word) (s : State) : Exec := .next (s.writeGaugetab h v)

/-- KEY_GENERATE (R422). -/
def execKeyGenerate (id : BitVec 7) (s : State) : Exec := .next (s.genKey id)

/-- KEY_DESTROY (R422). -/
def execKeyDestroy (id : BitVec 7) (s : State) : Exec := .next (s.killKey id)

/-- VPROG_WRITE: the running count starts again at 0 (R136). -/
def execVprogWrite (a : Agent) (v : Word) (s : State) : Exec := .next (s.onRegs a (·.setVprog v))

/-! ## Power (R354, R355, R427) -/

/-- One round of a grant: the excess over 640 W goes to the panels below it in proportion to their grants (R354). -/
def grantRound (g : List Rat) : List Rat :=
  let excess := (g.map (fun x => if x > 640 then x - 640 else 0)).sum
  let g := g.map (fun x => if x > 640 then 640 else x)
  let low := ((g.filter (· < 640))).sum
  if excess = 0 || low = 0 then g else g.map (fun x => if x < 640 then x + excess * x / low else x)

/-- Resident contexts: function and core. -/
def State.residents (s : State) : List (Nat × Nat) := s.ctxs.filterMap (fun e => e.2.core.map (fun k => (e.2.vf, k)))

/-- The grants of the four panels in watts, exact (R354). -/
def State.panelGrants (s : State) (b : Rat) : List Rat :=
  let rs := s.residents
  let fs := (rs.map (·.1)).eraseDups
  let total := (fs.map (fun f => (s.func f).weight)).sum
  let start : List Rat := (List.range 4).map (fun p =>
    (fs.map (fun f =>
      let mine := rs.filter (·.1 == f)
      let here := (mine.filter (fun r => r.2 / 1024 == p)).length
      b * ((s.func f).weight : Rat) / (total : Rat) * (here : Rat) / (mine.length : Rat))).sum)
  grantRound (grantRound (grantRound (grantRound (grantRound start))))

/-- GAUGE_GRANT: panel limits to half a watt, throttling above 100 °C, and static energy (R354, R355, R427; DESIGN CHOICE, log entry 45). -/
def execGaugeGrant (phub phbm : Nat) (hot : Bool) (s : State) : Exec :=
  let g := (s.panelGrants (s.plimit - phub - phbm)).map (fun x => (2 * x).floor.toNat)
  let s := { s with phub := phub, phbm := phbm, plimit := if hot then s.plimit * 9 / 10 else s.plimit
                    grants := #v[g.getD 0 0, g.getD 1 0, g.getD 2 0, g.getD 3 0] }
  .next (s.ctxs.foldl (fun s e => s.chargeStatic e.1) s)

/-- THERMAL_SHUTDOWN: the module is off until a device reset (R427). -/
def execThermalShutdown (s : State) : Exec := .next { s with moduleOn := false }

/-- PLIMIT_SET: 1,200 W to 3,000 W (R427); a value outside changes nothing. (DESIGN CHOICE, log entry 63.) -/
def execPlimitSet (watts : Nat) (s : State) : Exec := .next (if 1200 ≤ watts && watts ≤ 3000 then { s with plimit := (watts : Rat) } else s)

end Sys2Proof.Machine
end

