-- ==== Sys2Proof/Machine/Manager.lean ====
section
/-! DEFINITION. The manager's instructions on hub cores, but for the skeins, and the steps of the event arbiter: requests,
holds, resumes, events (12_control_and_system_instructions R220-R222, R224; R41, R42, R123, R133, R157, R359, R360, R366, R382). -/

namespace Sys2Proof.Machine
open Sys2Proof

/-! ## Events at a hub core (R221, R359) -/

/-- Does an event name a context: trap, held, yield expired (R360)? -/
def Event.named (e : Event) : Bool := 1 ≤ e.code.toNat && e.code.toNat ≤ 3

/-- May an event enter a hub core now: none is being handled, nothing blocks the core? -/
def State.eventReady (s : State) (h : Nat) : Bool :=
  let u := s.hub h
  s.moduleOn && !u.ev && !u.stopped && u.save.isNone && u.regs.vfab.isNone && s.events.any (fun e => e.hub.toNat == h)

/-- MANAGER_EVENT_ENTRY: the oldest event for the hub core, whichever partition posted it, enters at `tvec`; the return point is held
internally (R221; DESIGN CHOICE, log entry 27). -/
def execManagerEventEntry (h : Nat) (s : State) : Exec :=
  .next (if !s.eventReady h then s
    else match s.events.find? (fun e => e.hub.toNat == h) with
    | none => s
    | some e =>
      let u := s.hub h
      let d := u.regs.nS
      let idle := d.run == .idle
      let s := { s with events := updateDrop (fun e => e.hub.toNat == h) s.events }
      s.setHub h { u with event := e.code, ev := true, halted := false, ret := some (d.pc, idle)
                          ctxid := if e.named then BitVec.ofNat 32 e.ctx else u.ctxid
                          regs := { u.regs.stopWaits with nS := { d with pc := u.tvec ++ 0#2, run := .running, part := none, fresh := false, drain := 0 } } })
where
  /-- Drops the first event that satisfies a test. -/
  updateDrop (t : Event → Bool) : List Event → List Event
    | [] => []
    | e :: es => if t e then es else e :: updateDrop t es

/-- The hub core whose turn it is. -/
def State.hubNo (s : State) : Nat :=
  match s.who with
  | .hub h => h
  | .ctx _ => 0

/-- `tret`: back to the return point; outside event handling 0x01 (R221). -/
def execTret (s : State) : Exec :=
  launch .manager sysCharge (fun s =>
    let u := s.hub s.hubNo
    match u.ev, u.ret with
    | true, some (pc, idle) =>
      let d := u.regs.nS
      (s.setHub s.hubNo { u with ev := false, ret := none
                                 regs := { u.regs with nS := { d with pc := pc, run := if idle then .idle else .running, fresh := false } } }, .placed)
    | _, _ => illegal s) s

/-- `halt`: stops the hub core until an event enters (R221). -/
def execHalt (s : State) : Exec :=
  launch .manager sysCharge (fun s => (s.setHub s.hubNo { s.hub s.hubNo with halted := true }, .done)) s

/-! ## Holds (R41, R42, R222, R366) -/

/-- The context that an operand names: bits [63:32] must be zero (R220). -/
def ctxOperand (w : Word) : Option Nat := if w.extractLsb' 32 32 == 0#32 then some (w.extractLsb' 0 32).toNat else none

/-- `chold xs1`: posts a hold request (R222). -/
def execChold (rs1 : XReg) (w1 : Bool) (s : State) : Exec :=
  launch .manager sysCharge (reading [.x rs1 w1] (fun s =>
    match ctxOperand (s.my.getX rs1) with
    | none => (s, .done)
    | some i =>
      if !s.live i then (s, .done)
      else
        let c := s.regs (.ctx i)
        if c.life == .running && c.request.isNone then (s.setRegs (.ctx i) { c with request := some .hold }, .done) else (s, .done))) s

/-- PREEMPTION_HONOURED: every active needle is at a yield point or blocked; the context is held, its record notes S's next
instruction, and a held event is posted (R41, R366, R383). (DEDUCED, log entry 42.) -/
def execPreemptionHonoured (i : Nat) (s : State) : Exec :=
  let c := s.regs (.ctx i)
  .next (if s.live i && c.life == .running && c.request.isSome && c.honourable then
      (s.setRegs (.ctx i) { c with life := .held, request := none, trap := some ⟨0#8, 0#2, c.nS.pc, c.nS.pc, 0#64, 0#64⟩ }).post c.part 2#8 i
    else s)

/-- Needles stopped at a yield point go on. -/
def Ctx.continueNeedles (c : Ctx) : Ctx := needles.foldl (fun c n => c.setNeedle n { c.needle n with atYield := false }) c

/-- YIELD_WINDOW_EXPIRY: the request is withdrawn and the manager is told (R42). -/
def execYieldWindowExpiry (i : Nat) (s : State) : Exec :=
  let c := s.regs (.ctx i)
  .next (if s.live i && c.life == .running && c.request.isSome then
      (s.setRegs (.ctx i) { c.continueNeedles with request := none }).post c.part 3#8 i
    else s)

/-- A needle as a resume finds it: at a held point it goes on; blocked, it executes its instruction again (R43, R222). -/
def NeedleState.resume (d : NeedleState) : NeedleState :=
  { d with atYield := false, drain := 0, run := if d.blocked then .running else d.run, part := none }

/-- After 0x19 or 0x1A S goes on behind the ECALL or EBREAK (R222), whatever refusals have put into the trap record since (R383). -/
def Ctx.skipCall (c : Ctx) : Ctx := if c.skip then { c.advance .S with skip := false } else c

/-- A held context resumes, after everything that the hub core which resumes it knows (R123, R133, R157, R222, R299, R382). (DEDUCED, log
entry 44.) -/
def State.resume (s : State) (i : Nat) : State :=
  let a : Agent := .ctx i
  let step := s.dbgStep && s.dbgCtx.toNat == i
  let s := s.reseat a
  let s := match (s.regs a).core with
    | some k => s.resetKnow k (mergeMax (s.core k).know.past (s.pastFor s.who))
    | none => s
  s.onRegs a (fun c =>
    let c := needles.foldl (fun c n => c.setNeedle n (c.needle n).resume) c.stopWaits
    { c.skipCall with life := .running, vecQ := c.vecQ.map (fun (e : QEntry) => { e with held := false }), trap := none, resv := none, request := none, stepping := step })

/-- `cres xs1` (R222). -/
def execCres (rs1 : XReg) (w1 : Bool) (s : State) : Exec :=
  launch .manager sysCharge (reading [.x rs1 w1] (fun s =>
    match ctxOperand (s.my.getX rs1) with
    | none => (s, .done)
    | some i => if s.live i && (s.regs (.ctx i)).life == .held then (s.resume i, .done) else (s, .done))) s

/-! ## `scrub` (R224) -/

/-- Words of a lane's slice: vector registers only (R34, R141). -/
def inLane (lane : Nat) (k : Nat) : Bool := k < 512 * 64 && k % 512 / 32 == lane

/-- `scrub xd, xs1`: one pass over one lane slice of a core's register file. -/
def execScrub (rd rs1 : XReg) (w1 : Bool) (s : State) : Exec :=
  launch .manager sysCharge (reading [.x rs1 w1] (fun s =>
    let w := s.my.getX rs1
    let k := (w.extractLsb' 0 12).toNat
    let lane := (w.extractLsb' 12 4).toNat
    let u := s.core k
    if w.extractLsb' 16 48 != 0#48 || u.disabled then s.put rd (1#64 <<< 61)
    else if u.resident.isSome then s.put rd (1#64 <<< 62)
    else
      let bad := (u.badReg.filter (fun e => inLane lane e.1)).length
      let corr := (u.corrReg.filter (fun e => inLane lane e.1)).length
      (s.setCore k { u with badReg := u.badReg.filter (fun e => !inLane lane e.1), corrReg := u.corrReg.filter (fun e => !inLane lane e.1) }).put rd
        (BitVec.ofNat 64 (min bad 0xFFFF * 2 ^ 32 + corr)))) s

end Sys2Proof.Machine
end

