-- ==== Sys2Proof/Machine/Matrix.lean ====
section
/-! DEFINITION. The matrix array: issue of its nine instructions, their execution from the matrix queue, exact K-steps,
array faults and discards (19_matrix_instructions R300-R319; R101-R103, R296, R320, R330, R331). -/

namespace Sys2Proof.Machine
open Sys2Proof

/-! ## Formats (R306) -/

/-- Classes of formats. -/
inductive MClass where
  | integer | real | fp64 | complex
  deriving DecidableEq, Repr

/-- Class of a format. -/
def matClass (f : Nat) : MClass := if f = 0 then .integer else if f = 7 then .fp64 else if f = 14 then .complex else .real

/-- Klim, the largest K that a format allows. -/
def kLimit (f : Nat) : Nat :=
  if f == 4 || f == 5 then 32 else if f == 7 then 4 else if f == 14 then 8 else if f == 0 || f == 8 || f == 9 || f == 11 then 64 else 128

/-- Bits of an element of a matrix operand; a CB4 weight is a 4-bit index. -/
def matBits (f : Nat) : Nat := if f = 16 then 4 else formatBits f

/-- Entry of the weight table that a MAC charges, from the activation and weight formats (R356; DEDUCED, log entry 23). -/
def macEntry (af wf : Nat) : Nat :=
  if wf == 16 || af == 10 || af == 12 || af == 13 then 11 else if af == 4 || af == 5 then 9 else if af == 7 then 12 else if af == 14 then 13 else 10

/-- Packed length of a row of `n` elements (R308, R309); weight rows of the shared-block formats hold one whole block, of
CB4 16 bytes. -/
def rowLength (f n : Nat) (weight : Bool) : Nat :=
  if weight && fmtShared f then 2 * matBits f else if f = 16 then 16 else (matBits f * n + 7) / 8

/-- Alignment of a row: the size of its 2-, 4- or 8-byte elements (R311). -/
def rowAlign (f : Nat) : Nat := if matBits f ≥ 16 then matBits f / 8 else 1

/-- Pitch of an operand: the signed CSR field, or the packed length when it is 0 (R303). -/
def pitchOf (field : BitVec 32) (packed : Nat) : Word := if field = 0#32 then BitVec.ofNat 64 packed else field.signExtend 64

/-! ## Operand reads (R311) -/

/-- Domain tags that `n` bytes touch; outside scratchpad they count as 0 (R275, R311). -/
def State.tagsAt (s : State) (acc : Access) (n : Nat) : List (BitVec 6) :=
  if acc.region == .spad then (spanOf tileOf acc.phys n).map s.tileTag else [0#6]

/-- The domain mismatch of an operand row: its pointer and the required tag (R196, R311, R330). -/
def rowTagFault (ptr : Word) (need : Nat) : MemFault := ⟨0x09#8, ptr, BitVec.ofNat 64 need⟩

/-- A tag check on the tags of a row. -/
abbrev TagTest := Word → List (BitVec 6) → Option MemFault

/-- Every tag of domain 00 (R311). -/
def spatialTest : TagTest := fun p ts => if ts.any (fun t => t.extractLsb' 4 2 != 0#2) then some (rowTagFault p 0) else none

/-- Domain 01 or 10 and one and the same tag (R330). -/
def spectralTest (tag : BitVec 6) : TagTest := fun p ts =>
  let d := tag.extractLsb' 4 2
  let ok := d == 1#2 || d == 2#2
  if ok && ts.all (· == tag) then none else some (rowTagFault p (if ok then tag.toNat else 0x40))

/-- No check: weight rows of the complex class, headers and bitmaps. -/
def noTest : TagTest := fun _ _ => none

/-- Reads operand pieces of `n` bytes in order, each checked as one read: their values and charges, or the fault with the
bytes read before it. -/
def State.readPieces (s : State) (v : View) (ptr : Nat → Word) (n align : Nat) (test : TagTest) : List Nat → Nat → Except (MemFault × Nat) (List Nat × Charge)
  | [], _ => .ok ([], [])
  | k :: ks, done =>
    if n = 0 then (s.readPieces v ptr n align test ks done).map (fun r => (0 :: r.1, r.2))
    else match s.plainAccess v (ptr k) { size := n, align := align } with
    | .error e => .error (e, done)
    | .ok acc =>
      match test (ptr k) (s.tagsAt acc n) with
      | some e => .error (e, done)
      | none => (s.readPieces v ptr n align test ks (done + n)).map (fun r => (s.read acc.key acc.phys n :: r.1, (byteEntry v acc, n) :: r.2))

/-! ## The weight latch and values -/

/-- Value of a latched weight: an INT8 integer, a real value, a codebook entry, or a complex pair (R95, R97, R98). -/
def ArrayState.weight (r : ArrayState) (k : Nat) (n : Nat) (w : Nat) : Val × Val :=
  let f := r.wfmt.toNat
  if f = 0 then (Val.ofInt (BitVec.ofNat 8 w).toInt, .fin false 0 0)
  else if f = 16 then (bf16.value ((r.wcode >>> (16 * (w % 16))).toNat % 2 ^ 16), .fin false 0 0)
  else if f = 14 then (bf16.value (w % 2 ^ 16), bf16.value (w / 2 ^ 16))
  else if fmtShared f then (sharedValue f (Sparse.at r.whdr 0#32 k).toNat n w, .fin false 0 0)
  else ((ffmt f).value w, .fin false 0 0)

/-- Value of an activation element; `headers` are the 32-bit headers of its row's blocks. -/
def activation (f : Nat) (row : Nat) (headers : List Nat) (k : Nat) : Val × Val :=
  let w := row / 2 ^ (matBits f * k) % 2 ^ matBits f
  if f = 0 then (Val.ofInt (BitVec.ofNat 8 w).toInt, .fin false 0 0)
  else if f = 14 then (bf16.value (w % 2 ^ 16), bf16.value (w / 2 ^ 16))
  else if fmtShared f then (sharedValue f (headers.getD (k / 16) 0) (k % 16) w, .fin false 0 0)
  else ((ffmt f).value w, .fin false 0 0)

/-- MatStep (R101): the accumulator and the present products, one exact sum, one rounding. -/
def matStep (f : FFormat) (acc : Nat) (ps : List Val) : Nat := (f.deliver .rne .ieee (sumExact .rne (f.value acc :: ps))).bits

/-- One output element of a K-step from its accumulator and its present operand pairs (R102, R316, R330). -/
def kStep (cl : MClass) (pairs : Bool) (acc : Nat) (xs : List ((Val × Val) × (Val × Val))) : Nat :=
  match cl with
  | .integer =>
    let t := xs.foldl (fun t x => t + (x.1.1.at 0) * (x.2.1.at 0)) (0 : Int)
    (BitVec.ofInt 32 ((BitVec.ofNat 32 acc).toInt + t)).toNat
  | .real => matStep fp32 acc (xs.map (fun x => (mulExact x.1.1 x.2.1).val))
  | .fp64 => matStep fp64 acc (xs.map (fun x => (mulExact x.1.1 x.2.1).val))
  | .complex =>
    let re := xs.flatMap (fun x => if pairs then [(mulExact x.1.1 x.2.1).val] else [(mulExact x.1.1 x.2.1).val, (mulExact x.1.2 x.2.2).val.negate])
    let im := xs.flatMap (fun x => if pairs then [(mulExact x.1.2 x.2.2).val] else [(mulExact x.1.1 x.2.2).val, (mulExact x.1.2 x.2.1).val])
    joinParts 32 (matStep fp32 (acc % 2 ^ 32) re) (matStep fp32 (acc / 2 ^ 32) im)

/-- Keys of 32-bit words `ws` of a tile among the protected words of a core (R138). -/
def tileKeys (z : ZReg) (ws : List Nat) : List Nat := ws.map (fun w => 512 * (64 + z.toNat) + w)

/-- The fault of an uncorrectable word of a tile (R118, R139). -/
def State.badTile (s : State) (a : Agent) (z : ZReg) (ws : List Nat) : Option MemFault :=
  let bad := s.badRegs a
  if bad = [] then none
  else (badAmong bad (tileKeys z ws)).map (fun _ => ⟨0x17#8, regWord 3#2 z.toNat, BitVec.ofNat 64 (2 ^ 63)⟩)

/-! ## Executing an entry -/

/-- How an entry ends: done with charges, or an array fault with the bytes counted before it; the state holds what it has
done. -/
inductive MOut where
  | ok (s : State) (q : Charge)
  | fault (s : State) (e : MemFault) (bytes : Nat)
  deriving DecidableEq, Repr

/-- A fault without a pointer: an illegal format field, or tiles that record another tag. -/
def formatFault (f : Nat) : MemFault := ⟨0x02#8, 0#64, BitVec.ofNat 64 f⟩

/-- Changes the array state of an agent. -/
def State.onArr (s : State) (a : Agent) (f : ArrayState → ArrayState) : State := s.onRegs a (fun c => { c with arr := f c.arr })

/-- The grants of `mtset` (R307); `none` where f is no weight format. -/
def grant (x0 x1 x2 : Word) : Option (Nat × Nat × Nat) :=
  let f := (x2.extractLsb' 56 5).toNat
  if weightFormat f then some (min x0.toNat 32, min x1.toNat 16, min (x2.extractLsb' 0 48).toNat (kLimit f)) else none

/-- `mtset` (R307). -/
def State.runMtset (s : State) (a : Agent) (i : MInstr) (e : QEntry) : MOut :=
  let put (g : Nat × Nat × Nat) : State :=
    s.onRegs a (fun c =>
      let c := { c with arr := { c.arr with mg := BitVec.ofNat 8 g.1, ng := BitVec.ofNat 8 g.2.1, kg := BitVec.ofNat 8 g.2.2 } }
      ((c.setX i.rd (BitVec.ofNat 64 g.1)).setX (i.rd + 1#5) (BitVec.ofNat 64 g.2.1)).setX (i.rd + 2#5) (BitVec.ofNat 64 g.2.2))
  match grant e.opnd e.opnd1 e.opnd2 with
  | some g => .ok (put g) []
  | none => .fault (put (0, 0, 0)) (formatFault (e.opnd2.extractLsb' 56 5).toNat) 0

/-- `mwld` (R308, R313). -/
def State.runMwld (s : State) (a : Agent) (i : MInstr) (e : QEntry) : MOut :=
  let c := s.regs a
  let v := c.view a
  let f := i.fmt.toNat
  let ng := c.arr.ng.toNat
  let kg := c.arr.kg.toNat
  if kg > kLimit f then .fault s (formatFault f) 0
  else
    let n := rowLength f ng true
    let pitch := pitchOf (e.mwpitch.extractLsb' 0 32) n
    let test := if matClass f == .complex then noTest else spatialTest
    match s.readPieces v (fun k => e.opnd + BitVec.ofNat 64 k * pitch) n (rowAlign f) test (List.range kg) 0 with
    | .error x => .fault s x.1 x.2
    | .ok (rows, q) =>
      match s.readPieces v (fun k => e.opnd + (e.mwpitch.extractLsb' 32 32).signExtend 64 + BitVec.ofNat 64 (4 * k)) 4 4 noTest
          (if fmtShared f then List.range kg else []) (kg * n) with
      | .error x => .fault s x.1 x.2
      | .ok (hs, q') =>
        let eb := matBits f
        let cells : Sparse Word := rows.zipIdx.flatMap (fun r => (List.range ng).filterMap (fun n =>
          if f = 16 && r.1.testBit (64 + n) then none else some (16 * r.2 + n, BitVec.ofNat 64 (r.1 / 2 ^ (eb * n) % 2 ^ eb))))
        .ok (s.onArr a (fun r => { r with cells := cells, whdr := hs.zipIdx.map (fun h => (h.2, BitVec.ofNat 32 h.1)), wfmt := i.fmt
                                          wcode := if f = 16 then r.codebook else r.wcode })) (q ++ q')

/-- The checks on one `mgath` row (R315). -/
def State.gatherRow (s : State) (v : View) (p : Word) : Except MemFault Access :=
  let across := (s.place v (p.extractLsb' 52 12).toNat (p.extractLsb' 0 48).toNat 64).any (fun t => t.phys % 2048 + 64 > 2048)
  match s.plainAccess v p { size := 64, align := 16, kind := .granule } with
  | .error e => .error (if across && (e.cause == 0x03#8 || e.cause == 0x13#8 || e.cause == 0x11#8 || e.cause == 0x17#8 || e.cause == 0x0A#8) then ⟨0x0C#8, p, 1#64⟩ else e)
  | .ok acc => if across then .error ⟨0x0C#8, p, 1#64⟩ else .ok acc

/-- Reads the rows of an `mgath` in order: bytes, tag and charge of each. -/
def State.gatherRows (s : State) (v : View) (base : Word) : List (BitVec 32) → Nat → Except (MemFault × Nat) (List (Nat × BitVec 6) × Charge)
  | [], _ => .ok ([], [])
  | o :: os, done =>
    match s.gatherRow v (base + o.setWidth 64) with
    | .error e => .error (e, done)
    | .ok acc => (s.gatherRows v base os (done + 64)).map (fun r => ((s.read acc.key acc.phys 64, s.tileTag (tileOf acc.phys)) :: r.1, (byteEntry v acc, 64) :: r.2))

/-- `mgath` (R315). -/
def State.runMgath (s : State) (a : Agent) (e : QEntry) : MOut :=
  let c := s.regs a
  match s.gatherRows (c.view a) e.opnd (e.idx.take c.arr.mg.toNat) 0 with
  | .error x => .fault s x.1 x.2
  | .ok (rows, q) =>
    .ok (s.onArr a (fun r => rows.zipIdx.foldl (fun r (x : (Nat × BitVec 6) × Nat) =>
      { r with latch := putBits r.latch (512 * x.2) 512 x.1.1
               latchTags := (r.latchTags &&& ~~~(0x3F#192 <<< (6 * x.2))) ||| ((x.1.2.setWidth 192 : BitVec 192) <<< (6 * x.2 : Nat)) }) r)) q

/-- Tag of operand-latch row `m`. -/
def ArrayState.latchTag (r : ArrayState) (m : Nat) : BitVec 6 := r.latchTags.extractLsb' (6 * m) 6

/-- The activation rows of a K-step, from memory or from the operand latch (R309, R316). -/
def State.activations (s : State) (a : Agent) (i : MInstr) (e : QEntry) (test : TagTest) : Except (MemFault × Nat) (List Nat × Charge) :=
  let c := s.regs a
  let f := i.fmt.toNat
  let n := rowLength f c.arr.kg.toNat false
  if i.rs1 = 0#5 then
    match ((List.range c.arr.mg.toNat).map (fun m => test 0#64 [c.arr.latchTag m])).find? (·.isSome) with
    | some (some x) => .error (x, 0)
    | _ => .ok ((List.range c.arr.mg.toNat).map (fun m => (c.arr.latch.extractLsb' (512 * m) 512).toNat), [])
  else
    let pitch := pitchOf (e.mapitch.extractLsb' 0 32) n
    s.readPieces (c.view a) (fun m => e.opnd + BitVec.ofNat 64 m * pitch) n (rowAlign f) test (List.range c.arr.mg.toNat) 0

/-- Tag of the first activation row: of the tile that holds its first byte, or of the latch row (R330). -/
def State.firstTag (s : State) (a : Agent) (i : MInstr) (e : QEntry) : BitVec 6 :=
  let c := s.regs a
  if i.rs1 = 0#5 then c.arr.latchTag 0
  else match s.access (c.view a) e.opnd { size := 1, align := 1 } with
    | .ok acc => s.tagAt acc
    | .error _ => 0#6

/-- `mmac` and `mmacz` (R316, R330): one K-step. -/
def State.runMmac (s : State) (a : Agent) (i : MInstr) (e : QEntry) : MOut :=
  let c := s.regs a
  let r := c.arr
  let v := c.view a
  let f := i.fmt.toNat
  let cl := matClass f
  let (mg, ng, kg) := (r.mg.toNat, r.ng.toNat, r.kg.toNat)
  let latch := i.rs1 == 0#5
  if cl != matClass r.wfmt.toNat || kg > kLimit f || (fmtShared f && (latch || kg % 16 != 0)) then .fault s (formatFault f) 0
  else if mg = 0 || ng = 0 || kg = 0 then .ok s []
  else
    let tag := s.firstTag a i e
    match s.activations a i e (if cl == .complex then spectralTest tag else spatialTest) with
    | .error x => .fault s x.1 x.2
    | .ok (rows, q) =>
      let blocks := kg / 16
      let read := if latch then 0 else mg * rowLength f kg false
      match s.readPieces v (fun j => e.opnd + (e.mapitch.extractLsb' 32 32).signExtend 64 + BitVec.ofNat 64 (32 * (j / blocks) + 4 * (j % blocks))) 4 4 noTest
          (if fmtShared f then List.range (mg * blocks) else []) read with
      | .error x => .fault s x.1 x.2
      | .ok (hs, q') =>
        match s.readPieces v (fun m => e.mzmap + BitVec.ofNat 64 (16 * m)) 16 16 noTest (if i.op == .mmacz then List.range mg else [])
            (read + 4 * hs.length) with
        | .error x => .fault s x.1 x.2
        | .ok (maps, q'') =>
          let z : ZReg := i.rd.setWidth 3
          let zs := i.tiles
          let wrong := if cl == .complex then zs.find? (fun z => (c.getZ z).mode == 2#2 && (c.getZ z).tag != tag) else none
          match wrong with
          | some z => .fault s (rowTagFault 0#64 (c.getZ z).tag.toNat) (read + 4 * hs.length + 16 * maps.length)
          | none =>
            let pair := usesPair f
            let eb := if pair then 64 else 32
            let pairs := cl == .complex && e.pblk.getLsbD 16 && tag.extractLsb' 4 2 == 1#2
            let cols := (List.range ng).map (fun n => r.cells.filterMap (fun x =>
              if x.1 % 16 = n && x.1 / 16 < kg then some (x.1 / 16, r.weight (x.1 / 16) n x.2.toNat) else none))
            let place (m n : Nat) : ZReg × Nat :=
              if pair then (z + BitVec.ofNat 3 (m / 16), eb * (16 * (m % 16) + n)) else (z, eb * (16 * m + n))
            let words (z : ZReg) : List Nat := ((List.range mg).flatMap (fun m => (List.range ng).map (place m))).flatMap (fun p =>
              if p.1 == z then (List.range (eb / 32)).map (p.2 / 32 + ·) else [])
            match (zs.map (fun z => s.badTile a z (words z))).find? (·.isSome) with
            | some (some x) => .fault s x (read + 4 * hs.length + 16 * maps.length)
            | _ =>
            let out := rows.zipIdx.flatMap (fun row =>
              let m := row.2
              let acts := (List.range kg).map (activation f row.1 ((hs.drop (m * blocks)).take blocks))
              cols.zipIdx.map (fun col =>
                let xs := col.1.filterMap (fun w => if (maps.getD m 0).testBit w.1 then none else some (acts.getD w.1 (.fin false 0 0, .fin false 0 0), w.2))
                let p := place m col.2
                (p, kStep cl pairs ((c.getZ p.1).data.extractLsb' p.2 eb).toNat xs)))
            let mode : BitVec 2 := match cl with
              | .fp64 => 1#2
              | .complex => 2#2
              | _ => 0#2
            let put (c : Ctx) (z : ZReg) : Ctx :=
              let t := c.getZ z
              c.setZ z { t with data := (out.filter (fun o => o.1.1 == z)).foldl (fun d o => putBits d o.1.2 eb o.2) t.data
                                mode := mode, tag := if cl == .complex then tag else 0#6, written := true }
            .ok (s.onRegs a (fun c => zs.foldl put c)) (q ++ q' ++ q'' ++ [(macEntry f r.wfmt.toNat, mg * ng * kg)])

/-- `mzero` (R317). -/
def State.runMzero (s : State) (a : Agent) (i : MInstr) : MOut :=
  let z : ZReg := i.rd.setWidth 3
  let s := s.healRegs a true (tileKeys z (List.range 512))
  .ok (s.onRegs a (fun c => c.setZ z { data := 0#16384, mode := 0#2, tag := 0#6, full := true, written := true })) []

/-- G of an `mrd`: the smallest of 1, 2, 4 and 8 with L × G ≥ 16 (R318). -/
def mrdGroup (l : Nat) : Nat := if l ≥ 16 then 1 else if l ≥ 8 then 2 else if l ≥ 4 then 4 else 8

/-- Tag that a tile's contents carry: the recorded tag in mode 2, else 0 (R318, R319, R331). -/
def Tile.outTag (t : Tile) : BitVec 6 := if t.mode == 2#2 then t.tag else 0#6

/-- `mrd` (R318, R331). -/
def State.runMrd (s : State) (a : Agent) (i : MInstr) (e : QEntry) : MOut :=
  let t := (s.regs a).getZ (i.rs1.setWidth 3)
  match s.badTile a (i.rs1.setWidth 3) (List.range 512) with
  | some x => .fault s x 0
  | none =>
  let eb := if t.mode == 0#2 then 32 else 64
  let g : Group := ⟨i.v.toNat, mrdGroup e.lanes.toNat, eb, false⟩
  let s := s.putGroup a (lanesOf (s.lanemap a)) g ((List.range (16384 / eb)).map (fun k => (k, (t.data.extractLsb' (eb * k) eb).toNat)))
  .ok (s.onRegs a (fun c => (List.range g.n).foldl (fun c j =>
    let q : VReg := BitVec.ofNat 6 (g.r + j)
    (c.setV q { c.getV q with tag := t.outTag }).markWhole q) c)) []

/-- Writes the chunks of an `mst` in order, stopping at the first that fails (R305, R319). -/
def State.storeTile (s : State) (a : Agent) (z : ZReg) (p : Word) (q : Charge) : List Nat → MOut
  | [] => .ok s q
  | j :: js =>
    let c := s.regs a
    let v := c.view a
    let t := c.getZ z
    match s.badTile a z ((List.range 16).map (16 * j + ·)) with
    | some x => .fault s x (64 * j)
    | none =>
    match s.plainAccess v (p + BitVec.ofNat 64 (64 * j)) { size := 64, align := 64, write := true } with
    | .error e => .fault s e (64 * j)
    | .ok acc =>
      let s := s.putPlain c.core acc 64 (t.data.extractLsb' (512 * j) 512).toNat
      (if acc.region == .spad then s.tagTiles t.outTag acc.phys 64 else s).storeTile a z p (q ++ [(byteEntry v acc, 64)]) js

/-- `mcode` (R314). -/
def State.runMcode (s : State) (a : Agent) (e : QEntry) : MOut :=
  let v := (s.regs a).view a
  match s.plainAccess v e.opnd { size := 32, align := 32 } with
  | .error x => .fault s x 0
  | .ok acc => .ok (s.onArr a (fun r => { r with codebook := BitVec.ofNat 256 (s.read acc.key acc.phys 32) })) [(byteEntry v acc, 32)]

/-- Executes a matrix instruction of the queue. -/
def State.runMatrix (s : State) (a : Agent) (i : MInstr) (e : QEntry) : MOut :=
  match i.op with
  | .mtset => s.runMtset a i e
  | .mwld => s.runMwld a i e
  | .mgath => s.runMgath a e
  | .mmac | .mmacz => s.runMmac a i e
  | .mzero => s.runMzero a i
  | .mrd => s.runMrd a i e
  | .mst => s.storeTile a (i.rd.setWidth 3) e.opnd [] (List.range 32)
  | .mcode => s.runMcode a e

/-- Sets full, unchanged, every destination that an entry had set empty: the tiles of an `mmac`, an `mmacz` or a follow-on command, the
group of an `mrd`, the x registers of an `mtset` that S issued (R296, R305, R307, R316). -/
def Ctx.fillDests (c : Ctx) (i : MInstr) (e : QEntry) : Ctx :=
  let c := if e.fo.isSome || i.op == .mmac || i.op == .mmacz then c.tilesFull true i.tiles else c
  match i.op with
  | .mrd => (List.range (mrdGroup e.lanes.toNat)).foldl (fun c j =>
      let q : VReg := BitVec.ofNat 6 (i.v.toNat + j)
      c.setV q { c.getV q with full := true }) c
  | .mtset => if e.byS then ((c.fillX i.rd).fillX (i.rd + 1#5)).fillX (i.rd + 2#5) else c
  | _ => c

/-- A follow-on command comes to its end: its copy may complete (R291, R296). -/
def State.endFollowOn (s : State) (a : Agent) (seq : Nat) (e : Option MemFault) : State :=
  s.onCopy a seq (fun o => { o with follow := .finished, fail := e, code := match e with
    | some x => 0x80#8 ||| x.cause
    | none => 0#8 })

/-- The array executes the head entry of its queue (R302, R305). -/
def State.runMatHead (s : State) (a : Agent) : State :=
  let c := s.regs a
  match c.matQ with
  | [] => s
  | e :: es =>
    match matOfWord e.word with
    | none => s.onRegs a (fun c => { c with matQ := es })
    | some i =>
      let s := s.onRegs a (fun c => { c with matQ := es, arr := { c.arr with used := true } })
      if c.arr.fault.isSome then
        let s := s.onRegs a (·.fillDests i e)
        match e.fo with
        | some k => s.endFollowOn a k (some ⟨0x12#8, 0#64, 0#64⟩)
        | none => s
      else match s.runMatrix a i e with
      | .ok s q =>
        let s := (s.onRegs a (fun c => c.tilesFull true i.tiles)).charge a q
        match e.fo with
        | some k => s.endFollowOn a k none
        | none => s
      | .fault s x n =>
        let s := s.onRegs a (·.fillDests i e)
        match e.fo with
        | some k => s.endFollowOn a k (some x)
        | none =>
          let f : ArrayFault := { status := copyStatus e.ipc n x.cause, iword := e.word, sub := x.sub, ptr := x.ptr, val1 := x.val1, ipc := e.ipc, seq := e.seq }
          s.onArr a (fun r => { r with fault := some f })

/-- MATRIX_QUEUE_ENTRY: the array executes an entry (R302), also while the context is held (R300, R367). -/
def execMatrixQueueEntry (a : Agent) (s : State) : Exec :=
  .next (if !s.onCore a then s else match a with
    | .ctx i => (s.runMatHead a).settleEnd i
    | .hub _ => s.runMatHead a)

/-! ## Issue -/

/-- The operand of an `mgath`: 32 elements of one register (R315). -/
def gatherGroup (v : VReg) : Group := ⟨v.toNat, 1, 32, false⟩

/-- Elements `vbeg` to `vl` − 1, as many as an `mgath` consumes of a yarn register (R285). -/
def Ctx.gatherCount (c : Ctx) : Nat := c.strip.vl.toNat - c.vbeg.toNat

/-- Index element `k` of an `mgath`: of a yarn register an element it pops, or one the stream does not give (R285, R315; DESIGN
CHOICE, log entry 29). -/
def Ctx.gatherIndex (c : Ctx) (ls : List Nat) (v : VReg) (k : Nat) : BitVec 32 :=
  BitVec.ofNat 32 (if (c.stream v.toNat).isSome && k ≥ c.strip.vl.toNat then (Config.hiddenElement v.toNat ((c.stream v.toNat).map (·.pos) |>.getD 0) k).toNat
    else c.fetch ls c.vbeg.toNat { g := gatherGroup v } k)

/-- What stops an `mgath` that names a yarn register: misuse (R287), or a stream that cannot give its elements yet or at all (R285,
R288). -/
def gatherStop (v : VReg) (s : State) : Option (State × Act) :=
  let c := s.my
  match c.stream v.toNat with
  | none => none
  | some t =>
    match c.yarnMisuse false none [{ g := gatherGroup v }] with
    | some e => some (s, .trap e (s.ir.setWidth 64) (if e == 0x02#8 then c.strip.vtype.setWidth 64 else 0#64))
    | none =>
      let r := t.supply
      if c.gatherCount ≤ r.1 then none
      else match r.2 with
        | .stream v0 v1 ipc => some (s.onMy (fun c => (c.pop v.toNat r.1 r.2).stopAt (c.vbeg.toNat + r.1)), .trapAt 0x14#8 v0 v1 ipc)
        | _ => some (s, .wait .full)

/-- What an instruction captures (R303, R322, R375). -/
def State.matEntry (s : State) (i : MInstr) : QEntry :=
  let c := s.my
  let step := i.op == .mmac || i.op == .mmacz
  { word := s.ir, opnd := if i.op == .mrd then 0#64 else c.getX i.rs1, lanes := BitVec.ofNat 5 (s.lanes s.who), ipc := s.pc, seq := c.nextSeq, byS := s.ndl == .S
    opnd1 := if i.op == .mtset then c.getX (i.rs1 + 1#5) else 0#64, opnd2 := if i.op == .mtset then c.getX (i.rs1 + 2#5) else 0#64
    pblk := if step then c.pblk else 0#17, mapitch := if step then c.mapitch else 0#64
    mwpitch := if i.op == .mwld then c.mwpitch else 0#64, mzmap := if i.op == .mmacz then c.mzmap else 0#64
    idx := if i.op == .mgath then (List.range 32).map (c.gatherIndex (lanesOf (s.lanemap s.who)) i.v) else [] }

/-- Destinations turn empty at issue (R30, R316, R318). -/
def Ctx.matEmpty (c : Ctx) (i : MInstr) (l : Nat) (byS : Bool) : Ctx :=
  match i.op with
  | .mmac | .mmacz => c.tilesFull false i.tiles
  | .mrd => (List.range (mrdGroup l)).foldl (fun c j =>
      let q : VReg := BitVec.ofNat 6 (i.v.toNat + j)
      c.setV q { c.getV q with full := false }) c
  | .mtset => if byS then ((c.emptyX i.rd).emptyX (i.rd + 1#5)).emptyX (i.rd + 2#5) else c
  | _ => c

/-- A matrix instruction: M and S place it in the matrix queue (R15, R16, R302). -/
def matInstr (i : MInstr) (srcs : List Src) (s : State) : Exec :=
  launch .matrix [] (fun s =>
    let c := s.my
    let l := s.lanes s.who
    let g : Group := ⟨i.v.toNat, if i.op == .mrd then mrdGroup l else 1, 32, false⟩
    let f := i.fmt.toNat
    let badFormat := (i.op == .mwld && !weightFormat f) || ((i.op == .mmac || i.op == .mmacz) && !activationFormat f)
    let names := i.op == .mrd || i.op == .mgath
    let xs := srcs.filterMap Src.xreg ++ (if i.op == .mtset then [i.rd, i.rd + 1#5, i.rd + 2#5] else [])
    if badFormat then (s, .trap 0x02#8 (s.ir.setWidth 64) (BitVec.ofNat 64 f))
    else if i.op == .mrd && (!g.aligned || (List.range g.n).any (fun j => (c.stream (g.r + j)).isSome)) then illegal s
    else if c.matQ.length ≥ 32 || c.mtsetHolds s.ndl xs || (s.ndl == .S && names && (c.vecQ != [] || c.copyQ.any (fun e => isYarnWord e.word))) then (s, .stall)
    else reading srcs (fun s =>
      let e := s.matEntry i
      let yarn := i.op == .mgath && (s.my.stream i.v.toNat).isSome
      match if yarn then gatherStop i.v s else none with
      | some r => r
      | none =>
      match if i.op == .mgath && !yarn && s.badRegs s.who != [] then badAmong (s.badRegs s.who)
          ((List.range 32).flatMap (fun k => Group.words (lanesOf (s.lanemap s.who)) (gatherGroup i.v) k)) else none with
      | some r => (s, (badRegFault r).act)
      | none =>
        let s := if yarn then s.onMy (fun c => c.pop i.v.toNat c.gatherCount .done) else s
        (s.onMy (fun c => { (c.matEmpty i l (s.ndl == .S)) with matQ := c.matQ ++ [e], nextSeq := c.nextSeq + 1 }), .done)) s) s

/-- `mtset xd, xs1` (R307). -/
def execMtset (rd rs1 : XReg) (w1 : Bool) (s : State) : Exec :=
  matInstr ⟨.mtset, rd, rs1, 0#5, 0#6⟩ [.x rs1 w1, .x (rs1 + 1#5) w1, .x (rs1 + 2#5) w1] s
/-- `mwld (xs1), fmt` (R313). -/
def execMwld (rs1 : XReg) (fmt : BitVec 5) (w1 : Bool) (s : State) : Exec := matInstr ⟨.mwld, 0#5, rs1, fmt, 0#6⟩ [.x rs1 w1] s
/-- `mgath vs, (xs1)` (R315). -/
def execMgath (vs : VReg) (rs1 : XReg) (w : Bool) (s : State) : Exec :=
  matInstr ⟨.mgath, 0#5, rs1, 0#5, vs⟩ [.x rs1 w, s.my.groupSrc (gatherGroup vs) w] s
/-- `mmac zd, (xs1), fmt` (R316). -/
def execMmac (zd : ZReg) (rs1 : XReg) (fmt : BitVec 5) (w1 : Bool) (s : State) : Exec :=
  matInstr ⟨.mmac, zd.setWidth 5, rs1, fmt, 0#6⟩ [.x rs1 w1] s
/-- `mmacz zd, (xs1), fmt` (R310, R316). -/
def execMmacz (zd : ZReg) (rs1 : XReg) (fmt : BitVec 5) (w1 : Bool) (s : State) : Exec :=
  matInstr ⟨.mmacz, zd.setWidth 5, rs1, fmt, 0#6⟩ [.x rs1 w1] s
/-- `mzero zd` (R317). -/
def execMzero (zd : ZReg) (s : State) : Exec := matInstr ⟨.mzero, zd.setWidth 5, 0#5, 0#5, 0#6⟩ [] s
/-- `mrd vd, zd` (R318). -/
def execMrd (vd : VReg) (zs : BitVec 5) (w : Bool) (s : State) : Exec := matInstr ⟨.mrd, 0#5, zs, 0#5, vd⟩ [.z (zs.setWidth 3) w] s
/-- `mst zd, (xs1)` (R319). -/
def execMst (zs : ZReg) (rs1 : XReg) (w1 : Bool) (s : State) : Exec := matInstr ⟨.mst, zs.setWidth 5, rs1, 0#5, 0#6⟩ [.x rs1 w1] s
/-- `mcode (xs1)` (R314). -/
def execMcode (rs1 : XReg) (w1 : Bool) (s : State) : Exec := matInstr ⟨.mcode, 0#5, rs1, 0#5, 0#6⟩ [.x rs1 w1] s

end Sys2Proof.Machine
end

