-- ==== Sys2Proof/Machine/Platform.lean ====
section
/-! DEFINITION. Register writes of the host and the manager outside the CSRs, host accesses through device-memory windows,
device reset and attestation (28_host_and_platform R418-R425; R33, R112, R333, R340, R345, R349, R352, R353, R363, R392). -/

namespace Sys2Proof.Machine
open Sys2Proof

/-- Writes of a function's registers that the manager has not enabled are Unsupported Requests (R419). -/
def State.hostWrite (s : State) (vf : Nat) (f : Func → Func) : State :=
  if s.enabled vf then s.setFunc vf (f (s.func vf)) else s.unsupported vf

/-- A word of an MSI-X table (R419). -/
def State.writeMsix (s : State) (vf : Nat) (i : Nat) (v : Word) : State :=
  if !s.enabled vf then s.unsupported vf
  else
    let f := s.func vf
    let s := s.setFunc vf { f with msix := Sparse.write f.msix (msixReset i) i v }
    let vec := i / 2
    if i % 2 = 1 && f.masked vec && !v.getLsbD 32 && f.pba.getLsbD vec then
      { s.setFunc vf { s.func vf with pba := f.pba &&& ~~~(1#64 <<< vec) } with outputs := s.outputs ++ [.msix vf (BitVec.ofNat 6 vec)] }
    else s

/-- A function that is enabled is switched in where no function is (R349); else its queue is switched out, with what it shows
committed (R342). After a boot that failed none can be enabled (R423). -/
def State.enableFunc (s : State) (vf : Nat) (on : Bool) : State :=
  if s.bootFailed && on then s
  else
    let f := s.func vf
    let p := s.part f.part
    let mine := p.func.isNone || p.func == some vf
    let s := s.setFunc vf { f with enabled := on, committed := if on && !mine then some f.progress else none }
    if on && p.func.isNone then s.setPart f.part { p with func := some vf } else s

/-- Changes a device-memory window (R420): base and length are multiples of 256 MiB. -/
def Func.setWindow (f : Func) (w : BitVec 3) (g : Window → Window) : Func := { f with wins := f.wins.set w.toNat (g (f.wins.get w.toFin)) w.isLt }

/-- A multiple of 256 MiB at or below a value: what a base or length that is none becomes (R420; DESIGN CHOICE, log entry 63). -/
def winGrain (v : Word) : Nat := v.toNat / 2 ^ 28 * 2 ^ 28

/-- Changes a fixed-slot setting of a core, and of the context resident there (R112). A limit above the stated maximum stands as written.
(DESIGN CHOICE, log entry 63.) -/
def State.setFixed (s : State) (core : Nat) (k : BitVec 2) (g : FixedSlot → FixedSlot) : State :=
  let upd (v : Vector FixedSlot 4) : Vector FixedSlot 4 := v.set k.toNat (g (v.get k.toFin)) k.isLt
  let u := s.core core
  let s := s.setCore core { u with fixed := upd u.fixed }
  match u.resident with
  | some i => s.onRegs (.ctx i) (fun c => { c with fixed := upd c.fixed })
  | none => s

/-- An image descriptor with a word written (R333). -/
def Image.setWord (d : Image) (i : BitVec 2) (v : Word) : Image :=
  match i.toNat with
  | 0 => { d with stbase := v.setWidth 48 &&& ~~~0xF#48 }
  | 1 => { d with vf := v.setWidth 32, scratch := v.extractLsb' 32 32 }
  | 2 => { d with key := v.setWidth 7 }
  | _ => d

/-- QERR as a host write leaves it: a count of 0 clears it, any other is ignored (R340; DESIGN CHOICE, log entry 63). -/
def Func.writeQerr (f : Func) (v : Word) : Func := if v.extractLsb' 0 16 == 0#16 then { f with errCount := 0#16 } else f

/-- QCOAL as a host write leaves it (R352). -/
def Func.writeQcoal (f : Func) (v : Word) : Func := { f with coalCnt := v.extractLsb' 16 10, coalTmr := v.extractLsb' 0 10 }

/-- A host write of 8 bytes in a function's BAR0 page; the rest of the page ignores it (R340, R419). -/
def State.writePage (s : State) (vf off : Nat) (v : Word) : State :=
  if off = 0 then s.writeQtail vf (v.setWidth 32)
  else if 0x1000 ≤ off && off < 0x1400 then s.writeMsix vf ((off - 0x1000) / 8) v
  else s.hostWrite vf (fun f => if off = 0x10 then f.writeQerr v else if off = 0x18 then f.writeQcoal v else f)

/-- The 8 bytes at an offset of a function's BAR0 page, as its host reads them (R340, R352, R419). -/
def Func.pageWord (f : Func) (off : Nat) : Word :=
  if off = 0 then f.tail.setWidth 64
  else if off = 8 then f.qprog
  else if off = 0x10 then f.errIdx ++ f.errReason ++ 0#8 ++ f.errCount
  else if off = 0x18 then 0#38 ++ f.coalCnt ++ 0#6 ++ f.coalTmr
  else if 0x1000 ≤ off && off < 0x1400 then f.msixWord ((off - 0x1000) / 8)
  else if off = 0x2000 then f.pba
  else 0#64

/-- The boot status register of physical function 0 (R425). -/
def State.bootStatus (s : State) : Word := BitVec.ofBool s.bootFailed ++ 0#59 ++ s.bootStep

/-- Bytes of a page that words make up. -/
def pageBytes (word : Nat → Word) (off n : Nat) : List Byte :=
  (List.range n).map (fun k => (word ((off + k) / 8 * 8)).extractLsb' (8 * ((off + k) % 8)) 8)

/-- A host read of a function's BAR0 page (R419), or, as function 0, of the boot status register, which stands at offset 0 (R425;
DEDUCED, log entry 35). -/
def State.readPage (s : State) (vf off n : Nat) : State :=
  if vf = 0 then { s with outputs := s.outputs ++ [.cxlData vf (pageBytes (fun o => if o = 0 then s.bootStatus else 0#64) off n)] }
  else if !s.enabled vf || off + n > 0x10000 then s.unsupported vf
  else { s with outputs := s.outputs ++ [.cxlData vf (pageBytes (s.func vf).pageWord off n)] }

/-- The function whose register or setting a write names. -/
def settingVf : HwReg → Option Nat
  | .bar0 vf _ | .qerr vf | .qcoal vf | .msix vf _ | .queueBase vf | .queueSize vf | .funcEnable vf | .funcWeight vf | .funcPart vf
  | .winBase vf _ | .winLen vf _ | .winKey vf _ | .rangeBind vf _ | .rangeDrop vf => some vf
  | _ => none

/-- A write to one of the registers and settings that have no behaviour of their own; reserved bits are ignored (R5), and so are the
settings of a function that there is not (R418) and values out of range; a queue base is rounded down to a multiple of 128 (DESIGN CHOICE,
log entry 63). -/
def State.writeRegister (s : State) (r : HwReg) (v : Word) : State :=
  if (settingVf r).any (fun vf => !validVf vf) then s else
  match r with
  | .bar0 vf off => s.writePage vf off v
  | .qerr vf => s.hostWrite vf (·.writeQerr v)
  | .qcoal vf => s.hostWrite vf (·.writeQcoal v)
  | .msix vf i => s.writeMsix vf i.toNat v
  | .opbase p => s.setPart p { s.part p with opbase := v.extractLsb' 6 42 }
  | .rtbase p => s.setPart p { s.part p with rtbase := v.extractLsb' 4 44 }
  | .fabrt p => s.setPart p { s.part p with fabrt := v.setWidth 16 }
  | .epid p => s.setPart p { s.part p with epid := v.setWidth 16 }
  | .queueBase vf => s.setFunc vf { s.func vf with qbase := v.toNat % 2 ^ 48 / 128 * 128 }
  | .queueSize vf => if 4 ≤ v.toNat && v.toNat ≤ 16 then s.setFunc vf { s.func vf with qn := v.toNat } else s
  | .funcEnable vf => s.enableFunc vf (v.getLsbD 0)
  | .funcWeight vf => if 1 ≤ v.toNat && v.toNat ≤ 255 then s.setFunc vf { s.func vf with weight := v.toNat } else s
  | .funcPart vf => s.setFunc vf { s.func vf with part := v.toNat }
  | .winBase vf w => s.setFunc vf ((s.func vf).setWindow w (fun x => { x with base := winGrain v }))
  | .winLen vf w => s.setFunc vf ((s.func vf).setWindow w (fun x => { x with len := winGrain v }))
  | .winKey vf w => s.setFunc vf ((s.func vf).setWindow w (fun x => { x with key := v.setWidth 7 }))
  | .rangeBind vf len => s.setFunc vf { s.func vf with ranges := (s.func vf).ranges ++ [{ base := v.toNat, len := len }] }
  | .rangeDrop vf => s.setFunc vf { s.func vf with ranges := (s.func vf).ranges.filter (fun r => r.base != v.toNat || r.mark.isSome) }
  | .aging p => if 10 ≤ v.toNat && v.toNat ≤ 65535 then s.setPart p { s.part p with aging := v.toNat } else s
  | .baseSlice p => s.setPart p { s.part p with baseSlice := v.toNat }
  | .quota p => s.setPart p { s.part p with quota := min v.toNat 32767 }
  | .corePart k => s.setCore k { s.core k with part := v.toNat }
  | .fixedBase k i => s.setFixed k i (fun x => { x with base := v.setWidth 48 })
  | .fixedLimit k i => s.setFixed k i (fun x => { x with limit := v.setWidth 48 })
  | .imageDesc id i => { s with images := Sparse.insert s.images id ((Sparse.at s.images {} id).setWord i v) }
  | .lanemap k => if (s.core k).resident.isSome then s else s.setCore k { s.core k with lanemap := v.setWidth 16 }

/-- REGISTER_WRITE. -/
def execRegisterWrite (r : HwReg) (v : Word) (s : State) : Exec := .next (s.writeRegister r v)

/-- CXL_MEM_ACCESS: a host access through a window, checked against its length; outside it, or of a function that is not
enabled, an Unsupported Request (R419, R420), and so is a read of an uncorrectable word or a write of a part of one, which is not done
(R139; DESIGN CHOICE, log entry 66). A read of the register page is the host's as well (R419). -/
def execCxlMemAccess (vf : Nat) (win : BitVec 3) (off : Nat) (acc : HostAccess) (s : State) : Exec :=
  let f := s.func vf
  let w := f.wins.get win.toFin
  let a := w.base + off
  let bad (read : Bool) (n : Nat) : Bool := !s.enabled vf || off + n > w.len || a + n > hbmEnd || (s.badFor read a n).isSome
  .next (match acc with
    | .page n => s.readPage vf off n
    | .read n =>
      if bad true n then s.unsupported vf else { s with outputs := s.outputs ++ [.cxlData vf (natBytes n (s.read w.key.toNat a n))] }
    | .write bs => if bad false bs.length then s.unsupported vf else s.putPlain none ⟨a, w.key.toNat, .hbm⟩ bs.length (bytesNat bs))

/-! ## Device reset (R423, R425) -/

/-- Lanes of a core left after the lane test. -/
def lanesLeft (failed : List (Nat × BitVec 16)) (k : Nat) : BitVec 16 :=
  failed.foldl (fun m e => if e.1 == k then m &&& ~~~e.2 else m) 0xFFFF#16

/-- A hub core whose firmware was not started. -/
def Hub.idle : Hub := {}

/-- Does the boot ROM run this firmware: the right key, a signature that holds, a security version high enough (R423)? -/
def Fuses.accepts (f : Fuses) (w : Firmware) : Bool := w.keyHash == f.keyHash && w.signed == w.digest && f.minVersion ≤ w.version

/-- The step of R425 at which a reset fails, 0 for none: the one given, but for step 2, which fails just where the firmware does. -/
def Fuses.failsAt (f : Fuses) (w : Firmware) (step : Nat) : Nat :=
  if step = 1 then 1 else if !f.accepts w then 2 else if 3 ≤ step && step ≤ 7 then step else 0

/-- DEVICE_RESET (R425): the steps in order up to the first that fails, whose number the boot status shows with the failure; what a later
step would do is not done (DESIGN CHOICE, log entry 20). Every state is at its reset value but for what a reset does not undo: fuses, the
host's own memory, the model's record of turns, steps and outputs, and the supply of fresh keys. -/
def execDeviceReset (w : Firmware) (found : BootTest) (s : State) : Exec :=
  let at_ := s.fuses.failsAt w found.failedStep
  let done (k : Nat) : Bool := at_ = 0 || k < at_
  let lanes (k : Nat) : BitVec 16 := if done 5 then lanesLeft found.lanes k else 0xFFFF#16
  let cleared (a : Nat) : Bool := (a < hbmEnd && done 3) || (hbmEnd ≤ a && a < hostStart && done 4)
  .next { State.reset with
    turns := s.turns, tick := s.tick, outputs := s.outputs, hostBars := s.hostBars, fuses := s.fuses, firmware := w
    keys := if done 1 then [(0, s.nextKey)] else [], nextKey := s.nextKey + 1
    mem := s.mem.filter (fun e => !cleared e.1), badMem := s.badMem.filter (fun e => !cleared (8 * e.1))
    keyOf := if done 3 then [] else s.keyOf, clearKey := if done 3 then s.nextKey else s.clearKey
    cores := found.lanes.foldl (fun m e =>
      Sparse.insert m e.1 { Core.start e.1 with lanemap := lanes e.1, disabled := (lanesOf (lanes e.1)).length < 8 }) []
    bootLanes := found.lanes.foldl (fun m e => Sparse.insert m e.1 (lanes e.1)) []
    hubs := if done 6 then [] else (List.range 8).map (fun h => (h, Hub.idle))
    incarnation := if done 6 then s.incarnation + 1#16 else s.incarnation
    bootStep := BitVec.ofNat 4 (if at_ = 0 then 7 else at_), bootFailed := at_ != 0 }

/-! ## Attestation (R424) -/

/-- An SPDM request over the mailbox of physical function 0 is answered; the bytes are not the spec's (DESIGN CHOICE, log entry 20). -/
def spdmAnswer (answer : State → SpdmAnswer) (s : State) : Exec := .next { s with outputs := s.outputs ++ [.spdm (answer s)] }

/-- The measurements of the latest boot: boot ROM, manager firmware, security version with the fuse state, and the lane map of every
core after the lane test (R424). (DESIGN CHOICE, log entry 20.) -/
def State.measured (s : State) : List (BitVec 512) :=
  [s.fuses.rom, s.firmware.digest, Config.fuseDigest s.firmware.version s.fuses.keyHash s.fuses.minVersion,
    Config.laneDigest ((List.range 4096).map (Sparse.at s.bootLanes 0xFFFF#16))]

/-- The identity key's signature of an answer to a request. -/
def State.signed (s : State) (request : List Byte) (content : List (BitVec 512)) : BitVec 4096 :=
  Config.identitySign s.fuses.secret request content s.tick

/-- GET_VERSION (R424): SPDM 1.3. -/
def execGetVersion (_request : List (BitVec 8)) (s : State) : Exec := spdmAnswer (fun _ => .version 0x13#8) s
/-- GET_CAPABILITIES (R424): no secure sessions. -/
def execGetCapabilities (_request : List (BitVec 8)) (s : State) : Exec := spdmAnswer (fun _ => .capabilities false) s
/-- NEGOTIATE_ALGORITHMS (R424): RSASSA-4096 and SHA-512. -/
def execNegotiateAlgorithms (_request : List (BitVec 8)) (s : State) : Exec := spdmAnswer (fun _ => .algorithms 4096 512) s
/-- GET_DIGESTS (R424). -/
def execGetDigests (_request : List (BitVec 8)) (s : State) : Exec := spdmAnswer (fun s => .digests (sha512 s.fuses.chain)) s
/-- GET_CERTIFICATE (R424). -/
def execGetCertificate (_request : List (BitVec 8)) (s : State) : Exec := spdmAnswer (fun s => .certificate s.fuses.chain) s
/-- CHALLENGE (R424). -/
def execChallenge (request : List (BitVec 8)) (s : State) : Exec :=
  spdmAnswer (fun s => .challengeAuth (sha512 s.fuses.chain) (s.signed request [sha512 s.fuses.chain])) s
/-- GET_MEASUREMENTS (R424): those of the latest boot. -/
def execGetMeasurements (request : List (BitVec 8)) (s : State) : Exec :=
  spdmAnswer (fun s => .measurements s.measured (s.signed request s.measured)) s

end Sys2Proof.Machine
end

