-- ==== Sys2Proof/Machine/ScalarFp.lean ====
section
/-! DEFINITION. The RV64D instructions: FP64 arithmetic, comparison, conversion and moves (R178, R179); loads and stores
are with the scalar memory instructions. -/

namespace Sys2Proof.Machine
open Sys2Proof

/-- An operation on two f registers with a rounding mode. -/
def fpTwo (fd fs1 fs2 : FReg) (rm : BitVec 3) (op : Rm → Nat → Nat → Rounded) (s : State) : Exec :=
  launch .sOnly [(1, 1)] (reading [.f fs1 false, .f fs2 false] (withMode rm (fun m s =>
    s.putF fd (op m (s.my.getF fs1).toNat (s.my.getF fs2).toNat)))) s

/-- An operation on one f register with a rounding mode. -/
def fpOne (fd fs1 : FReg) (rm : BitVec 3) (op : Rm → Nat → Rounded) (s : State) : Exec :=
  launch .sOnly [(1, 1)] (reading [.f fs1 false] (withMode rm (fun m s => s.putF fd (op m (s.my.getF fs1).toNat)))) s

/-- A fused multiply-add: the product and the addend each with their sign kept or reversed, one rounding. -/
def fpFused (fd fs1 fs2 fs3 : FReg) (rm : BitVec 3) (negP negC : Bool) (s : State) : Exec :=
  launch .sOnly [(1, 1)] (reading [.f fs1 false, .f fs2 false, .f fs3 false] (withMode rm (fun m s =>
    let v (r : FReg) : Val := fp64.value (s.my.getF r).toNat
    let a := if negP then (v fs1).negate else v fs1
    let c := if negC then (v fs3).negate else v fs3
    s.putF fd (fp64.deliver m .ieee (fmaExact m a (v fs2) c))))) s

/-- A sign operation: bits copied, the sign chosen (R83). -/
def fpSign (fd fs1 fs2 : FReg) (sign : Bool → Bool → Bool) (s : State) : Exec :=
  launch .sOnly [(1, 1)] (reading [.f fs1 false, .f fs2 false] (fun s =>
    let a := s.my.getF fs1
    let b := s.my.getF fs2
    (s.onMy (·.setF fd ((if sign a.msb b.msb then 1#1 else 0#1) ++ a.extractLsb' 0 63)), .done))) s

/-- A minimum or maximum. -/
def fpPick (fd fs1 fs2 : FReg) (larger : Bool) (s : State) : Exec :=
  launch .sOnly [(1, 1)] (reading [.f fs1 false, .f fs2 false] (fun s =>
    s.putF fd (fp64.pick larger (s.my.getF fs1).toNat (s.my.getF fs2).toNat))) s

/-- A comparison: a NaN makes it false, and raises NV when it signals or the comparison is a signalling one. -/
def fpCompare (rd : XReg) (fs1 fs2 : FReg) (signalling : Bool) (cmp : Val → Val → Bool) (s : State) : Exec :=
  launch .sOnly [(1, 1)] (reading [.f fs1 false, .f fs2 false] (fun s =>
    let a := fp64.value (s.my.getF fs1).toNat
    let b := fp64.value (s.my.getF fs2).toNat
    if a.isNan || b.isNan then s.putX rd 0#64 (if signalling then nv else a.snan ||| b.snan)
    else s.putX rd (boolWord (cmp a b)) 0#5)) s

/-- Conversion to an integer of range [lo, hi]; a NaN gives hi. -/
def fpToInt (rd : XReg) (fs1 : FReg) (rm : BitVec 3) (lo hi : Int) (widen : Int → Word) (s : State) : Exec :=
  launch .sOnly [(1, 1)] (reading [.f fs1 false] (withMode rm (fun m s =>
    let r := toIntSat m lo hi hi (fp64.value (s.my.getF fs1).toNat)
    s.putX rd (widen r.1) r.2))) s

/-- Conversion from an integer. -/
def fpOfInt (fd : FReg) (rs1 : XReg) (rm : BitVec 3) (read : Word → Int) (s : State) : Exec :=
  launch .sOnly [(1, 1)] (reading [.x rs1 false] (withMode rm (fun m s =>
    s.putF fd (fp64.round m .ieee (Val.ofInt (read (s.my.getX rs1))))))) s

/-- `fmadd.d`: a × b + c. -/
def execFmaddD (fd fs1 fs2 fs3 : FReg) (rm : BitVec 3) (s : State) : Exec :=
  fpFused fd fs1 fs2 fs3 rm false false s

/-- `fmsub.d`: a × b − c. -/
def execFmsubD (fd fs1 fs2 fs3 : FReg) (rm : BitVec 3) (s : State) : Exec :=
  fpFused fd fs1 fs2 fs3 rm false true s

/-- `fnmsub.d`: −(a × b) + c. -/
def execFnmsubD (fd fs1 fs2 fs3 : FReg) (rm : BitVec 3) (s : State) : Exec :=
  fpFused fd fs1 fs2 fs3 rm true false s

/-- `fnmadd.d`: −(a × b) − c. -/
def execFnmaddD (fd fs1 fs2 fs3 : FReg) (rm : BitVec 3) (s : State) : Exec :=
  fpFused fd fs1 fs2 fs3 rm true true s

/-- `fadd.d`. -/
def execFaddD (fd fs1 fs2 : FReg) (rm : BitVec 3) (s : State) : Exec :=
  fpTwo fd fs1 fs2 rm fp64.add s

/-- `fsub.d`. -/
def execFsubD (fd fs1 fs2 : FReg) (rm : BitVec 3) (s : State) : Exec :=
  fpTwo fd fs1 fs2 rm fp64.sub s

/-- `fmul.d`. -/
def execFmulD (fd fs1 fs2 : FReg) (rm : BitVec 3) (s : State) : Exec :=
  fpTwo fd fs1 fs2 rm fp64.mul s

/-- `fdiv.d`. -/
def execFdivD (fd fs1 fs2 : FReg) (rm : BitVec 3) (s : State) : Exec :=
  fpTwo fd fs1 fs2 rm fp64.div s

/-- `fsqrt.d`. -/
def execFsqrtD (fd fs1 : FReg) (rm : BitVec 3) (s : State) : Exec :=
  fpOne fd fs1 rm (fun m a => fp64.sqrtVal m (fp64.value a)) s

/-- `fsgnj.d`. -/
def execFsgnjD (fd fs1 fs2 : FReg) (s : State) : Exec :=
  fpSign fd fs1 fs2 (fun _ b => b) s

/-- `fsgnjn.d`. -/
def execFsgnjnD (fd fs1 fs2 : FReg) (s : State) : Exec :=
  fpSign fd fs1 fs2 (fun _ b => !b) s

/-- `fsgnjx.d`. -/
def execFsgnjxD (fd fs1 fs2 : FReg) (s : State) : Exec :=
  fpSign fd fs1 fs2 (fun a b => a != b) s

/-- `fmin.d`. -/
def execFminD (fd fs1 fs2 : FReg) (s : State) : Exec :=
  fpPick fd fs1 fs2 false s

/-- `fmax.d`. -/
def execFmaxD (fd fs1 fs2 : FReg) (s : State) : Exec :=
  fpPick fd fs1 fs2 true s

/-- `fle.d`, a signalling comparison. -/
def execFleD (rd : XReg) (fs1 fs2 : FReg) (s : State) : Exec :=
  fpCompare rd fs1 fs2 true Val.le s

/-- `flt.d`, a signalling comparison. -/
def execFltD (rd : XReg) (fs1 fs2 : FReg) (s : State) : Exec :=
  fpCompare rd fs1 fs2 true Val.lt s

/-- `feq.d`, a quiet comparison. -/
def execFeqD (rd : XReg) (fs1 fs2 : FReg) (s : State) : Exec :=
  fpCompare rd fs1 fs2 false Val.eqv s

/-- `fclass.d`. -/
def execFclassD (rd : XReg) (fs1 : FReg) (s : State) : Exec :=
  launch .sOnly [(1, 1)] (reading [.f fs1 false] (fun s =>
    s.putX rd (BitVec.ofNat 64 (fp64.classify (s.my.getF fs1).toNat)) 0#5)) s

/-- `fmv.x.d`: bits copied. -/
def execFmvXD (rd : XReg) (fs1 : FReg) (s : State) : Exec :=
  launch .sOnly [(1, 1)] (reading [.f fs1 false] (fun s => s.putX rd (s.my.getF fs1) 0#5)) s

/-- `fmv.d.x`: bits copied. -/
def execFmvDX (fd : FReg) (rs1 : XReg) (s : State) : Exec :=
  launch .sOnly [(1, 1)] (reading [.x rs1 false] (fun s => (s.onMy (·.setF fd (s.my.getX rs1)), .done))) s

/-- `fcvt.w.d`. -/
def execFcvtWD (rd : XReg) (fs1 : FReg) (rm : BitVec 3) (s : State) : Exec :=
  fpToInt rd fs1 rm (-(2 ^ 31)) (2 ^ 31 - 1) (fun n => BitVec.ofInt 64 n) s

/-- `fcvt.wu.d`: the 32-bit result is sign-extended. -/
def execFcvtWuD (rd : XReg) (fs1 : FReg) (rm : BitVec 3) (s : State) : Exec :=
  fpToInt rd fs1 rm 0 (2 ^ 32 - 1) (fun n => (BitVec.ofInt 32 n).signExtend 64) s

/-- `fcvt.l.d`. -/
def execFcvtLD (rd : XReg) (fs1 : FReg) (rm : BitVec 3) (s : State) : Exec :=
  fpToInt rd fs1 rm (-(2 ^ 63)) (2 ^ 63 - 1) (fun n => BitVec.ofInt 64 n) s

/-- `fcvt.lu.d`. -/
def execFcvtLuD (rd : XReg) (fs1 : FReg) (rm : BitVec 3) (s : State) : Exec :=
  fpToInt rd fs1 rm 0 (2 ^ 64 - 1) (fun n => BitVec.ofInt 64 n) s

/-- `fcvt.d.w`. -/
def execFcvtDW (fd : FReg) (rs1 : XReg) (rm : BitVec 3) (s : State) : Exec :=
  fpOfInt fd rs1 rm (fun w => (w.setWidth 32).toInt) s

/-- `fcvt.d.wu`. -/
def execFcvtDWu (fd : FReg) (rs1 : XReg) (rm : BitVec 3) (s : State) : Exec :=
  fpOfInt fd rs1 rm (fun w => ((w.setWidth 32).toNat : Int)) s

/-- `fcvt.d.l`. -/
def execFcvtDL (fd : FReg) (rs1 : XReg) (rm : BitVec 3) (s : State) : Exec :=
  fpOfInt fd rs1 rm (fun w => w.toInt) s

/-- `fcvt.d.lu`. -/
def execFcvtDLu (fd : FReg) (rs1 : XReg) (rm : BitVec 3) (s : State) : Exec :=
  fpOfInt fd rs1 rm (fun w => (w.toNat : Int)) s

end Sys2Proof.Machine
end

