-- ==== Sys2Proof/Machine/ScalarMem.lean ====
section
/-! DEFINITION. Scalar loads and stores, AMO, LR and SC, and the partition control pages that the manager reaches through slot
4091 (07_memory_and_relocation R132, R133; 10_consistency_model R150, R153, R161, R162; 11_instruction_encoding R178, R179;
17_memory_instructions R298; 24_traps_and_preemption R363, R428; 26_fabric_and_exactly_once R392). -/

namespace Sys2Proof.Machine
open Sys2Proof

/-! ## Partition control pages -/

/-- Partition and register offset of an 8-byte access to a control page (R363; DESIGN CHOICE, log entry 17). -/
def controlPage (addr n : Nat) : Option (Nat × Nat) :=
  let base := 0x01C001000000
  if n = 8 && base ≤ addr && addr < base + 4096 * 4096 && (addr - base) % 4096 ≤ 0x30 then some ((addr - base) / 4096, (addr - base) % 4096) else none

/-- A register of a control page as it reads (R363, R392, R428). -/
def State.readControl (s : State) (p off : Nat) : Word :=
  let t := s.part p
  match off with
  | 0x08 => (t.opbase ++ 0#6).setWidth 64
  | 0x10 => (t.rtbase ++ 0#4).setWidth 64
  | 0x20 => t.fabrt.setWidth 64
  | 0x28 => (s.incarnation ++ t.epid).setWidth 64
  | 0x30 => t.evhub.setWidth 64
  | _ => 0#64

/-- A write to a register of a control page (R363, R364, R392, R393, R428). -/
def State.writeControl (s : State) (p off : Nat) (v : Word) : State :=
  let t := s.part p
  match off with
  | 0x00 =>
    let i := (v.extractLsb' 0 32).toNat
    if (s.regs (.ctx i)).part == p then s.kill i else s
  | 0x08 => s.setPart p { t with opbase := v.extractLsb' 6 42 }
  | 0x10 => s.setPart p { t with rtbase := v.extractLsb' 4 44 }
  | 0x18 => s.revokeKey p (v.setWidth 32)
  | 0x20 => s.setPart p { t with fabrt := v.setWidth 16 }
  | 0x28 => s.setPart p { t with epid := v.setWidth 16 }
  | 0x30 => s.setPart p { t with evhub := v.extractLsb' 0 3 }
  | _ => s

/-! ## Loads and stores -/

/-- Address of a scalar access: x[rs1] plus the sign-extended immediate (R178). -/
def State.scalarAddr (s : State) (rs1 : XReg) (imm : BitVec 12) : Word := s.my.getX rs1 + imm.signExtend 64

/-- A load of `n` bytes by S (R117, R156); it notes the releases that it reads (R161). -/
def loadS (n : Nat) (rs1 : XReg) (imm : BitVec 12) (put : Ctx → Nat → Ctx) (s : State) : Exec :=
  launch .sOnly [(2, 1)] (reading [.x rs1 false] (fun s =>
    match s.plainAccess (s.my.view s.who) (s.scalarAddr rs1 imm) { size := n, align := n, mmio := true } with
    | .error e => (s, e.act)
    | .ok a =>
      if a.region == .mmio then
        match controlPage a.phys n with
        | some (p, off) => (s.onMy (fun c => put c (s.readControl p off).toNat), .done)
        | none => (s, .stop (.mmioHole a.phys))
      else
        let w := s.read a.key a.phys n
        ((s.noteReads s.who a.phys n).onMy (fun c => put c w), .done))) s

/-- A store of the `n` low bytes of a value by S (R117, R156), a release when a release half waits (R161). -/
def storeOf (n : Nat) (srcs : List Src) (rs1 : XReg) (imm : BitVec 12) (val : Ctx → Word) (s : State) : Exec :=
  launch .sOnly [(2, 1)] (reading (.x rs1 false :: srcs) (fun s =>
    match s.plainAccess (s.my.view s.who) (s.scalarAddr rs1 imm) { size := n, align := n, write := true, mmio := true } with
    | .error e => (s, e.act)
    | .ok a =>
      if a.region == .mmio then
        match controlPage a.phys n with
        | some (p, off) => ((s.takeHalf s.who).1.writeControl p off (val s.my), .done)
        | none => (s, .stop (.mmioHole a.phys))
      else (s.storeS s.who a n (val s.my).toNat, .done))) s

/-- `n` bytes sign-extended. -/
def signLoad (n w : Nat) : Word := ((BitVec.ofNat 64 w) <<< (64 - 8 * n)).sshiftRight (64 - 8 * n)

/-- `lb` (R178). -/
def execLb (rd rs1 : XReg) (imm : BitVec 12) (s : State) : Exec := loadS 1 rs1 imm (fun c w => c.setX rd (signLoad 1 w)) s
/-- `lh` (R178). -/
def execLh (rd rs1 : XReg) (imm : BitVec 12) (s : State) : Exec := loadS 2 rs1 imm (fun c w => c.setX rd (signLoad 2 w)) s
/-- `lw` (R178). -/
def execLw (rd rs1 : XReg) (imm : BitVec 12) (s : State) : Exec := loadS 4 rs1 imm (fun c w => c.setX rd (signLoad 4 w)) s
/-- `ld` (R178). -/
def execLd (rd rs1 : XReg) (imm : BitVec 12) (s : State) : Exec := loadS 8 rs1 imm (fun c w => c.setX rd (BitVec.ofNat 64 w)) s
/-- `lbu` (R178). -/
def execLbu (rd rs1 : XReg) (imm : BitVec 12) (s : State) : Exec := loadS 1 rs1 imm (fun c w => c.setX rd (BitVec.ofNat 64 w)) s
/-- `lhu` (R178). -/
def execLhu (rd rs1 : XReg) (imm : BitVec 12) (s : State) : Exec := loadS 2 rs1 imm (fun c w => c.setX rd (BitVec.ofNat 64 w)) s
/-- `lwu` (R178). -/
def execLwu (rd rs1 : XReg) (imm : BitVec 12) (s : State) : Exec := loadS 4 rs1 imm (fun c w => c.setX rd (BitVec.ofNat 64 w)) s
/-- `sb` (R178). -/
def execSb (rs1 rs2 : XReg) (imm : BitVec 12) (s : State) : Exec := storeOf 1 [.x rs2 false] rs1 imm (·.getX rs2) s
/-- `sh` (R178). -/
def execSh (rs1 rs2 : XReg) (imm : BitVec 12) (s : State) : Exec := storeOf 2 [.x rs2 false] rs1 imm (·.getX rs2) s
/-- `sw` (R178). -/
def execSw (rs1 rs2 : XReg) (imm : BitVec 12) (s : State) : Exec := storeOf 4 [.x rs2 false] rs1 imm (·.getX rs2) s
/-- `sd` (R178). -/
def execSd (rs1 rs2 : XReg) (imm : BitVec 12) (s : State) : Exec := storeOf 8 [.x rs2 false] rs1 imm (·.getX rs2) s
/-- `fld` (R178, R179): f registers hold FP64 values without boxing. -/
def execFld (fd : FReg) (rs1 : XReg) (imm : BitVec 12) (s : State) : Exec := loadS 8 rs1 imm (fun c w => c.setF fd (BitVec.ofNat 64 w)) s
/-- `fsd` (R178, R179). -/
def execFsd (rs1 : XReg) (fs2 : FReg) (imm : BitVec 12) (s : State) : Exec := storeOf 8 [.f fs2 false] rs1 imm (·.getF fs2) s

/-! ## Atomics (R132-R134, R150, R162) -/

/-- What an atomic read by S orders: it notes the releases it reads, and with aq it acquires them at device scope (R161,
R162). -/
def State.atomicRead (s : State) (a : Agent) (acc : Access) (n : Nat) (aq : Bool) : State :=
  let rs := s.releasesAt acc.phys n
  let s := s.noteReads a acc.phys n
  if aq then s.acquireAll ((s.regs a).coreNo a) 3#3 rs else s

/-- An atomic write by S: a release at device scope with rl, at the half's scope when one waits, at the wider of the two with
both (R161, R162). -/
def State.atomicWrite (s : State) (a : Agent) (acc : Access) (n w : Nat) (rl : Bool) : State :=
  let (s, half) := (if rl then s.releaseHalf a 3#3 else s).takeHalf a
  let c := s.regs a
  let s := s.putAtomic c.core acc n w
  match half with
  | none => s
  | some h => s.addRelease (s.releaseHalfOn (c.coreNo a) h acc.phys n)

/-- What an access of an AMO, LR or SC asks for; an AMO reads what it replaces (R117, R132, R139). -/
def atomicNeed (n : Nat) (write rmw : Bool) : Need := { size := n, align := n, write := write, rmw := rmw, kind := .rmw }

/-- A word or doubleword as it is delivered to an x register. -/
def atomicResult (n w : Nat) : Word := signLoad n w

/-- An AMO: one indivisible step at its address; x[rd] takes the old value (R132, R150). -/
def amo (n : Nat) (aq rl : Bool) (rd rs1 rs2 : XReg) (op : Word → Word → Word) (s : State) : Exec :=
  launch .sOnly [(2, 1)] (reading [.x rs1 false, .x rs2 false] (fun s =>
    match s.access (s.my.view s.who) (s.my.getX rs1) (atomicNeed n true true) with
    | .error e => (s, e.act)
    | .ok a =>
      let old := s.read a.key a.phys n
      let new := op (atomicResult n old) (atomicResult n ((s.my.getX rs2).toNat % 2 ^ (8 * n)))
      (((s.atomicRead s.who a n aq).atomicWrite s.who a n new.toNat rl).onMy (·.setX rd (atomicResult n old)), .done))) s

/-- LR: the load, and the reservation of its granule (R133). -/
def loadReserved (n : Nat) (aq rl : Bool) (rd rs1 : XReg) (s : State) : Exec :=
  launch .sOnly [(2, 1)] (reading [.x rs1 false] (fun s =>
    match s.access (s.my.view s.who) (s.my.getX rs1) (atomicNeed n false false) with
    | .error e => (s, e.act)
    | .ok a =>
      let w := s.read a.key a.phys n
      let s := s.atomicRead s.who a n aq
      let s := if rl then s.countRelease (s.my.coreNo s.who) 3#3 else s
      (s.onMy (fun c => { c with resv := some (a.phys / 16) }.setX rd (atomicResult n w)), .done))) s

/-- What a failing SC writes to x[rd]: a free value other than 0 (R178; DESIGN CHOICE, log entry 33). -/
def scFailed (tick : Nat) : Word := if Config.scFailure tick = 0#64 then 1#64 else Config.scFailure tick

/-- SC: every check first; then it stores and writes 0 when its granule is still reserved, else it writes `scFailed` and nothing else.
Either way the reservation ends (R133, R162). (DESIGN CHOICE, log entry 33.) -/
def storeConditional (n : Nat) (rl : Bool) (rd rs1 rs2 : XReg) (s : State) : Exec :=
  launch .sOnly [(2, 1)] (reading [.x rs1 false, .x rs2 false] (fun s =>
    match s.access (s.my.view s.who) (s.my.getX rs1) (atomicNeed n true false) with
    | .error e => (s, e.act)
    | .ok a =>
      let good := s.my.resv == some (a.phys / 16)
      let w := (s.my.getX rs2).toNat % 2 ^ (8 * n)
      let s := s.onMy (fun c => { c with resv := none })
      let s := if good then s.atomicWrite s.who a n w rl else s
      s.put rd (if good then 0#64 else scFailed s.tick))) s

/-- The smaller or larger of two words. -/
def pickWord (first : Bool) (a b : Word) : Word := if first then a else b

/-- `lr.w` (R133). -/
def execLrW (aq rl : Bool) (rd rs1 : XReg) (s : State) : Exec := loadReserved 4 aq rl rd rs1 s
/-- `sc.w` (R133): an SC reads nothing, so aq orders nothing. -/
def execScW (_aq rl : Bool) (rd rs1 rs2 : XReg) (s : State) : Exec := storeConditional 4 rl rd rs1 rs2 s
/-- `amoswap.w` (R132). -/
def execAmoswapW (aq rl : Bool) (rd rs1 rs2 : XReg) (s : State) : Exec := amo 4 aq rl rd rs1 rs2 (fun _ b => b) s
/-- `amoadd.w` (R132). -/
def execAmoaddW (aq rl : Bool) (rd rs1 rs2 : XReg) (s : State) : Exec := amo 4 aq rl rd rs1 rs2 (fun a b => a + b) s
/-- `amoxor.w` (R132). -/
def execAmoxorW (aq rl : Bool) (rd rs1 rs2 : XReg) (s : State) : Exec := amo 4 aq rl rd rs1 rs2 (fun a b => a ^^^ b) s
/-- `amoand.w` (R132). -/
def execAmoandW (aq rl : Bool) (rd rs1 rs2 : XReg) (s : State) : Exec := amo 4 aq rl rd rs1 rs2 (fun a b => a &&& b) s
/-- `amoor.w` (R132). -/
def execAmoorW (aq rl : Bool) (rd rs1 rs2 : XReg) (s : State) : Exec := amo 4 aq rl rd rs1 rs2 (fun a b => a ||| b) s
/-- `amomin.w` (R132). -/
def execAmominW (aq rl : Bool) (rd rs1 rs2 : XReg) (s : State) : Exec := amo 4 aq rl rd rs1 rs2 (fun a b => pickWord (a.slt b) a b) s
/-- `amomax.w` (R132). -/
def execAmomaxW (aq rl : Bool) (rd rs1 rs2 : XReg) (s : State) : Exec := amo 4 aq rl rd rs1 rs2 (fun a b => pickWord (b.slt a) a b) s
/-- `amominu.w` (R132). -/
def execAmominuW (aq rl : Bool) (rd rs1 rs2 : XReg) (s : State) : Exec := amo 4 aq rl rd rs1 rs2 (fun a b => pickWord (a.ult b) a b) s
/-- `amomaxu.w` (R132). -/
def execAmomaxuW (aq rl : Bool) (rd rs1 rs2 : XReg) (s : State) : Exec := amo 4 aq rl rd rs1 rs2 (fun a b => pickWord (b.ult a) a b) s
/-- `lr.d` (R133). -/
def execLrD (aq rl : Bool) (rd rs1 : XReg) (s : State) : Exec := loadReserved 8 aq rl rd rs1 s
/-- `sc.d` (R133): an SC reads nothing, so aq orders nothing. -/
def execScD (_aq rl : Bool) (rd rs1 rs2 : XReg) (s : State) : Exec := storeConditional 8 rl rd rs1 rs2 s
/-- `amoswap.d` (R132). -/
def execAmoswapD (aq rl : Bool) (rd rs1 rs2 : XReg) (s : State) : Exec := amo 8 aq rl rd rs1 rs2 (fun _ b => b) s
/-- `amoadd.d` (R132). -/
def execAmoaddD (aq rl : Bool) (rd rs1 rs2 : XReg) (s : State) : Exec := amo 8 aq rl rd rs1 rs2 (fun a b => a + b) s
/-- `amoxor.d` (R132). -/
def execAmoxorD (aq rl : Bool) (rd rs1 rs2 : XReg) (s : State) : Exec := amo 8 aq rl rd rs1 rs2 (fun a b => a ^^^ b) s
/-- `amoand.d` (R132). -/
def execAmoandD (aq rl : Bool) (rd rs1 rs2 : XReg) (s : State) : Exec := amo 8 aq rl rd rs1 rs2 (fun a b => a &&& b) s
/-- `amoor.d` (R132). -/
def execAmoorD (aq rl : Bool) (rd rs1 rs2 : XReg) (s : State) : Exec := amo 8 aq rl rd rs1 rs2 (fun a b => a ||| b) s
/-- `amomin.d` (R132). -/
def execAmominD (aq rl : Bool) (rd rs1 rs2 : XReg) (s : State) : Exec := amo 8 aq rl rd rs1 rs2 (fun a b => pickWord (a.slt b) a b) s
/-- `amomax.d` (R132). -/
def execAmomaxD (aq rl : Bool) (rd rs1 rs2 : XReg) (s : State) : Exec := amo 8 aq rl rd rs1 rs2 (fun a b => pickWord (b.slt a) a b) s
/-- `amominu.d` (R132). -/
def execAmominuD (aq rl : Bool) (rd rs1 rs2 : XReg) (s : State) : Exec := amo 8 aq rl rd rs1 rs2 (fun a b => pickWord (a.ult b) a b) s
/-- `amomaxu.d` (R132). -/
def execAmomaxuD (aq rl : Bool) (rd rs1 rs2 : XReg) (s : State) : Exec := amo 8 aq rl rd rs1 rs2 (fun a b => pickWord (b.ult a) a b) s

end Sys2Proof.Machine
end

