-- ==== Sys2Proof/Machine/SkeinImage.lean ====
section
/-! DEFINITION. The image of a context as a skein: its sections as bytes, the sizes its header gives, the checks of their
consistency, and the context read back from them (24_traps_and_preemption R366, R368-R376, R379, R380; 26_fabric_and_exactly_once
R405). What the spec gives no layout for is laid out by DESIGN CHOICE, log entry 19. -/

namespace Sys2Proof.Machine
open Sys2Proof

/-! ## Bytes -/

/-- Words, little-endian (R4). -/
def wordBytes (ws : List Word) : List Byte := ws.flatMap (fun w => natBytes 8 w.toNat)

/-- Bytes filled with zeros to a length. -/
def padTo (n : Nat) (bs : List Byte) : List Byte := bs ++ List.replicate (n - bs.length) 0#8

/-- A length rounded up to a multiple of 64 (R372). -/
def pad64 (n : Nat) : Nat := (n + 63) / 64 * 64

/-- A section filled to a multiple of 64 (R372). -/
def padSection (bs : List Byte) : List Byte := padTo (pad64 bs.length) bs

/-- The `n` bytes at an offset as a number; bytes that are missing read as zero. -/
def natAt (bs : List Byte) (off n : Nat) : Nat := bytesNat ((bs.drop off).take n)

/-- The word at an offset. -/
def wordAt (bs : List Byte) (off : Nat) : Word := BitVec.ofNat 64 (natAt bs off 8)

/-! ## Queues and pending faults (R372, R375) -/

/-- A held queue entry; an `mgath` is followed by its index elements. The field of `vbeg` has 32 bits: it saturates. (DESIGN CHOICE, log
entry 19.) -/
def QEntry.bytes (e : QEntry) (queue : Nat) : List Byte :=
  let opnds : List Byte :=
    if queue == 1 && e.word &&& 0xFC00707F#32 == 0x0000600B#32 then
      natBytes 8 e.opnd1.toNat ++ natBytes 8 0 ++ natBytes 8 e.opnd2.toNat ++ natBytes 16 0
    else
      natBytes 4 e.vl.toNat ++ natBytes 4 (min e.vbeg.toNat (2 ^ 32 - 1)) ++ natBytes 1 e.vtype.toNat ++ natBytes 1 e.frm.toNat ++ natBytes 1 e.vqcfg.toNat
        ++ natBytes 1 e.lanes.toNat ++ natBytes 4 e.pblk.toNat ++ wordBytes [e.mapitch, e.mwpitch, e.mzmap]
  natBytes 4 e.word.toNat ++ natBytes 4 ((if e.fo.isSome then 128 else 0) + queue) ++ natBytes 8 e.opnd.toNat ++ opnds ++ natBytes 8 e.ipc.toNat
    ++ e.idx.flatMap (fun x => natBytes 4 x.toNat)

/-- Is a matrix word `mgath`? -/
def isGather (w : Nat) : Bool := (matOfWord (BitVec.ofNat 32 w)).any (·.op == .mgath)

/-- A held entry read back from its 64 bytes, with the index elements that follow; its issue number is given. -/
def QEntry.ofBytes (bs : List Byte) (queue seq : Nat) : QEntry :=
  let w := natAt bs 0 4
  let step := queue == 1 && (BitVec.ofNat 32 w) &&& 0xFC00707F#32 == 0x0000600B#32
  let plain : QEntry := { word := BitVec.ofNat 32 w, opnd := wordAt bs 8, ipc := wordAt bs 56, seq := seq }
  if step then { plain with opnd1 := wordAt bs 16, opnd2 := wordAt bs 32 }
  else
    { plain with
      vl := BitVec.ofNat 32 (natAt bs 16 4), vbeg := BitVec.ofNat 64 (natAt bs 20 4), vtype := BitVec.ofNat 6 (natAt bs 24 1)
      frm := BitVec.ofNat 3 (natAt bs 25 1), vqcfg := BitVec.ofNat 6 (natAt bs 26 1), lanes := BitVec.ofNat 5 (natAt bs 27 1)
      pblk := BitVec.ofNat 17 (natAt bs 28 4), mapitch := wordAt bs 32, mwpitch := wordAt bs 40, mzmap := wordAt bs 48
      idx := if queue == 1 && isGather w then (List.range 32).map (fun k => BitVec.ofNat 32 (natAt bs (64 + 4 * k) 4)) else [] }

/-- Bytes of the entry that stands at the head of a run. -/
def entrySize (bs : List Byte) (queue : Nat) : Nat := if queue == 1 && isGather (natAt bs 0 4) then 192 else 64

/-- `n` entries of a queue from the head of a run of bytes, with the bytes that are left; `seqs` are issue numbers. -/
def readEntries (queue : Nat) : Nat → List Nat → List Byte → List QEntry × List Byte
  | 0, _, bs => ([], bs)
  | n + 1, seqs, bs =>
    let r := readEntries queue n (seqs.drop 1) (bs.drop (entrySize bs queue))
    (QEntry.ofBytes bs queue (seqs.headD 0) :: r.1, r.2)

/-- The queue section of a context (R372). -/
def Ctx.queueBytes (c : Ctx) : List Byte :=
  c.vecQ.flatMap (·.bytes 0) ++ c.matQ.flatMap (·.bytes 1) ++ c.copyQ.flatMap (·.bytes 2)

/-- Faults recorded and not yet delivered, the array's among them, in the order of delivery (R305, R361, R372). -/
def Ctx.pendingInOrder (c : Ctx) : List PendingFault :=
  (c.pend ++ (c.arr.fault.map ArrayFault.pending).toList).mergeSort (fun a b => a.seq ≤ b.seq)

/-- A pending fault read back. -/
def PendingFault.ofBytes (bs : List Byte) (seq : Nat) (xd : Option XReg) : PendingFault :=
  { seq := seq, xd := xd, status := wordAt bs 0, iword := BitVec.ofNat 32 (natAt bs 8 4), cause := BitVec.ofNat 8 (natAt bs 12 1)
    sub := BitVec.ofNat 8 (natAt bs 13 1)
    kind := match natAt bs 14 1 % 4 with
      | 0 => .copy
      | 1 => .matrix
      | 2 => .fabric
      | _ => .stream
    ptr := wordAt bs 16, val1 := wordAt bs 24, ipc := wordAt bs 32 }

/-! ## Vector data (R368, R374) -/

/-- Is a register's data saved? -/
def Ctx.savesV (c : Ctx) (strip : Bool) (r : Nat) : Bool := (c.getV (BitVec.ofNat 6 r)).dirty && !(strip && c.vdead.getLsbD r)

/-- A directory entry. -/
def Ctx.directory (c : Ctx) (strip : Bool) (r : Nat) : Word :=
  let a := c.getV (BitVec.ofNat 6 r)
  let b (n : Nat) (x : Bool) : Nat := if x then 2 ^ n else 0
  if a.dirty && !c.savesV strip r then BitVec.ofNat 64 (2 ^ 62 + b 61 a.stream.isSome)
  else BitVec.ofNat 64 (b 63 a.dirty + b 62 a.full + b 61 a.stream.isSome + a.tag.toNat * 2 ^ 48 + (if a.dirty then a.vlb.toNat else 0))

/-- Bytes of a saved register: `vlb` bytes of each active lane's slice; an uncorrectable word is stored as zero (R379). -/
def Ctx.vectorBytes (c : Ctx) (ls : List Nat) (bad : Sparse Unit) (strip : Bool) (r : Nat) : List Byte :=
  if c.savesV strip r then
    let a := c.getV (BitVec.ofNat 6 r)
    ls.flatMap (fun l => (List.range a.vlb.toNat).map (fun k =>
      if (Sparse.find bad (512 * r + 32 * l + k / 4)).isSome then 0#8 else a.data.extractLsb' (1024 * l + 8 * k) 8))
  else []

/-- A register read back from its directory entry and the data that stand at the head of a run; the bytes that are left. -/
def VecReg.ofBytes (dir : Word) (ls : List Nat) (stream : Option Stream) (bs : List Byte) : VecReg × List Byte :=
  let n := if dir.getLsbD 63 then (dir.extractLsb' 0 8).toNat else 0
  let data := ls.zipIdx.foldl (fun (d : BitVec 16384) p => d ||| (BitVec.ofNat 16384 (bytesNat ((bs.drop (n * p.2)).take n)) <<< (1024 * p.1))) 0#16384
  ({ data := data, tag := dir.extractLsb' 48 6, full := dir.getLsbD 62, dirty := false, vlb := BitVec.ofNat 8 n, stream := stream }, bs.drop (n * ls.length))

/-- Vector registers read back in ascending number. -/
def readVectors (ls : List Nat) : List (Word × Option Stream) → List Byte → List VecReg
  | [], _ => []
  | (d, t) :: rest, bs =>
    let r := VecReg.ofBytes d ls t bs
    r.1 :: readVectors ls rest r.2

/-! ## The array (R369, R372; DESIGN CHOICE, log entry 19) -/

/-- Bytes of a latched weight of a format. -/
def cellBytes (f : Nat) : Nat := (matBits f + 7) / 8

/-- The array's fault record in its 80 bytes. -/
def ArrayFault.bytes (f : Option ArrayFault) : List Byte :=
  match f with
  | none => natBytes 80 0
  | some f => natBytes 64 f.pending.record ++ natBytes 8 f.seq ++ natBytes 8 1

/-- The array's fault record read back. -/
def ArrayFault.ofBytes (bs : List Byte) : Option ArrayFault :=
  if natAt bs 72 8 = 0 then none
  else some { status := wordAt bs 0, iword := BitVec.ofNat 32 (natAt bs 8 4), sub := BitVec.ofNat 8 (natAt bs 13 1)
              ptr := wordAt bs 16, val1 := wordAt bs 24, ipc := wordAt bs 32, seq := natAt bs 64 8 }

/-- The 5,120 bytes of array state. -/
def ArrayState.bytes (r : ArrayState) : List Byte :=
  let eb := cellBytes r.wfmt.toNat
  let cell (k : Nat) : List Byte := natBytes eb (Sparse.at r.cells 0#64 k).toNat
  let bit (k : Nat) : Nat := (List.range 8).foldl (fun n j => if (Sparse.find r.cells (8 * k + j)).isSome then n + 2 ^ j else n) 0
  padTo 5120 (natBytes 4 r.mg.toNat ++ natBytes 4 r.ng.toNat ++ natBytes 4 r.kg.toNat ++ natBytes 4 r.wfmt.toNat
    ++ natBytes 32 r.codebook.toNat ++ natBytes 32 r.wcode.toNat ++ (List.range 256).flatMap (fun k => natBytes 1 (bit k))
    ++ padTo 2048 ((List.range (2048 / eb)).flatMap cell) ++ natBytes 2048 r.latch.toNat ++ natBytes 32 r.latchTags.toNat
    ++ ArrayFault.bytes r.fault ++ natBytes 16 0 ++ (List.range 128).flatMap (fun k => natBytes 4 (Sparse.at r.whdr 0#32 k).toNat))

/-- Array state read back. -/
def ArrayState.ofBytes (bs : List Byte) : ArrayState :=
  let f : BitVec 5 := BitVec.ofNat 5 (natAt bs 12 4)
  let eb := cellBytes f.toNat
  { mg := BitVec.ofNat 8 (natAt bs 0 4), ng := BitVec.ofNat 8 (natAt bs 4 4), kg := BitVec.ofNat 8 (natAt bs 8 4), wfmt := f
    codebook := BitVec.ofNat 256 (natAt bs 16 32), wcode := BitVec.ofNat 256 (natAt bs 48 32)
    cells := (List.range (2048 / eb)).filterMap (fun k =>
      if (natAt bs (80 + k / 8) 1).testBit (k % 8) then some (k, BitVec.ofNat 64 (natAt bs (336 + eb * k) eb)) else none)
    latch := BitVec.ofNat 16384 (natAt bs 2384 2048), latchTags := BitVec.ofNat 192 (natAt bs 4432 24)
    fault := ArrayFault.ofBytes (bs.drop 4464)
    whdr := if fmtShared f.toNat then (List.range 128).map (fun k => (k, BitVec.ofNat 32 (natAt bs (4560 + 4 * k) 4))) else [] }

/-- The array section; empty when nothing is saved. -/
def Ctx.arrayBytes (c : Ctx) (bad : Sparse Unit) : List Byte :=
  let ts := c.z.toList
  if !c.arr.used && !ts.any (·.written) then []
  else
    padTo 64 (ts.flatMap (fun t => natBytes 2 ((if t.written then 128 else 0) + t.mode.toNat + 256 * t.tag.toNat)))
      ++ ts.zipIdx.flatMap (fun p => if p.1.written then (List.range 512).flatMap (fun w =>
          natBytes 4 (if (Sparse.find bad (512 * (64 + p.2) + w)).isSome then 0 else (p.1.data.extractLsb' (32 * w) 32).toNat)) else [])
      ++ c.arr.bytes

/-- Tiles read back: `ix` are the two bytes of each, `data` what is left of the tiles' data. -/
def readTiles (full : Nat → Bool) (ix : List Byte) : List (Tile × Nat) → List Byte → List Tile
  | [], _ => []
  | (t, k) :: rest, data =>
    let e := natAt ix (2 * k) 2
    let t := { t with full := full k, written := false }
    if e.testBit 7 then
      { t with data := BitVec.ofNat 16384 (natAt data 0 2048), mode := BitVec.ofNat 2 e, tag := BitVec.ofNat 6 (e / 256) } ::
        readTiles full ix rest (data.drop 2048)
    else t :: readTiles full ix rest data

/-! ## Streams and copies (R371, R372, R289; DESIGN CHOICE, log entry 19) -/

/-- The position that a skein holds of a stream: the next element to pop or to push (R289). (DEDUCED, log entry 31.) -/
def Stream.saved (t : Stream) : Nat := if t.pat.dir then t.pos + t.buf.length else t.pos

/-- An open stream: the record of R284, its position, how far the element of a recorded fault is from it, and the fault's
cause and sub-code with the stitch pointer of the `ystr`. -/
def Stream.bytes (t : Stream) : List Byte :=
  let far : Nat := match t.fault with
    | none => 0
    | some f => if t.pat.dir then t.saved - f.element else f.element - t.saved
  let why : Nat := match t.fault with
    | none => 0
    | some f => f.cause.toNat + 2 ^ 8 * f.sub.toNat
  natBytes 48 t.pat.record.toNat ++ natBytes 6 t.saved ++ natBytes 2 far ++ natBytes 8 (why + 2 ^ 16 * (t.ipc.extractLsb' 2 46).toNat)

/-- A stream read back, with no element in its buffer. -/
def Stream.ofBytes (bs : List Byte) : Stream :=
  let p := Pattern.ofRecord (BitVec.ofNat 384 (natAt bs 0 48))
  let pos := natAt bs 48 6
  let e := if p.dir then pos - natAt bs 54 2 else pos + natAt bs 54 2
  { pat := p, pos := pos, ipc := BitVec.ofNat 64 (4 * (natAt bs 58 6 % 2 ^ 46))
    fault := if natAt bs 56 1 = 0 then none
      else some ⟨e, BitVec.ofNat 8 (natAt bs 56 1), BitVec.ofNat 8 (natAt bs 57 1), (p.pointer e).setWidth 48⟩ }

/-- The bits of a copy's record that are no reserved field (R293, R295). -/
def CopyKind.fields (k : CopyKind) : BitVec 512 :=
  if k == .ytile then ~~~(0x7FFFF#512 <<< 397) else (0xFFFFFFFFFFFFFFFF#512 <<< 128) ||| (0x7FFF#512 <<< 96) ||| 0xFFFFFFFFFFFFFFFFFFFFFFFF#512

/-- A parked copy: its record, whose reserved fields read as zero (R5), `ipc`, word, next chunk, follow-on state, captured values, issue
number and status word. (DESIGN CHOICE, log entry 19.) -/
def CopyOp.image (o : CopyOp) : List Byte :=
  natBytes 64 (o.record &&& o.kind.fields).toNat ++ natBytes 8 o.ipc.toNat ++ natBytes 4 o.word.toNat ++ natBytes 4 o.nextChunk
    ++ natBytes 1 (if o.follow == .waiting then 1 else 0) ++ natBytes 3 o.lanes.toNat ++ natBytes 4 o.pblk.toNat
    ++ wordBytes [o.mapitch, o.mwpitch, o.mzmap] ++ natBytes 8 o.seq ++ natBytes 8 (copyStatus o.ipc o.bytes o.code).toNat

/-- The kind of a copy by its word (R181, R188). -/
def copyKindOf (w : BitVec 32) : CopyKind :=
  match (w.extractLsb' 27 5).toNat with
  | 11 => .yld
  | 12 => .yst
  | 13 => .yxfer
  | _ => .ytile

/-- A parked copy read back. -/
def CopyOp.ofBytes (bs : List Byte) : CopyOp :=
  let w : BitVec 32 := BitVec.ofNat 32 (natAt bs 72 4)
  { kind := copyKindOf w, seq := natAt bs 112 8, word := w, ipc := wordAt bs 64, xd := w.extractLsb' 7 5
    vreg := if copyKindOf w == .ytile then 0#6 else w.extractLsb' 20 6
    record := BitVec.ofNat 512 (natAt bs 0 64), lanes := BitVec.ofNat 5 (natAt bs 81 1), pblk := BitVec.ofNat 17 (natAt bs 84 4)
    mapitch := wordAt bs 88, mwpitch := wordAt bs 96, mzmap := wordAt bs 104, seats := [], nextChunk := natAt bs 76 4
    bytes := natAt bs 121 4, code := BitVec.ofNat 8 (natAt bs 120 1), follow := if natAt bs 80 1 = 1 then .waiting else .none, parked := true }

/-- The section of streams, in ascending register number, and parked copies. -/
def Ctx.streamBytes (c : Ctx) : List Byte :=
  c.v.toList.flatMap (fun r => (r.stream.map Stream.bytes).getD []) ++ c.copies.flatMap CopyOp.image

/-! ## Core state (R373) -/

/-- CSR numbers of the core-state section, in its order. -/
def savedCsrs : List Nat := [0x001, 0x002] ++ (List.range 14).map (0x800 + ·)

/-- A context CSR by number, of those a skein holds. -/
def Ctx.savedCsr (c : Ctx) (n : Nat) : Word := (({ ctxs := [(0, c)], cur := (.ctx 0, .S) } : State).ctxCsr n).getD 0#64

/-- A needle's 208 bytes. -/
def NeedleState.bytes (d : NeedleState) : List Byte :=
  let run : Nat := match d.run with
    | .idle => 0
    | .running => 1
    | .blocked _ => 2
  padTo 208 (wordBytes [d.pc, BitVec.ofNat 64 (run + if d.atYield then 4 else 0)] ++ d.loops.flatMap (fun l => wordBytes [l.start, l.last, l.count, l.index]))

/-- A needle read back: a blocked one enters its wait afresh (R43); one that stands at the start of its innermost loop's
body begins an iteration (DESIGN CHOICE, log entry 19). `gate` is what it still waits for by R16. -/
def NeedleState.ofBytes (bs : List Byte) (gate : Nat) : NeedleState :=
  let st := natAt bs 8 8
  let lv := (List.range 6).map (fun k => Level.mk (wordAt bs (16 + 32 * k)) (wordAt bs (24 + 32 * k)) (wordAt bs (32 + 32 * k)) (wordAt bs (40 + 32 * k)))
  let ls := lv.filter (fun l => l.count != 0#64)
  { pc := wordAt bs 0, run := if st % 4 = 0 then .idle else if st % 4 = 1 then .running else .blocked .full, loops := ls
    atYield := st.testBit 2, fresh := ls.head?.any (·.start == wordAt bs 0), forkWait := gate }

/-- The trap record's five words. -/
def TrapRecord.words (t : Option TrapRecord) : List Word :=
  match t with
  | none => [0#64, 0#64, 0#64, 0#64, 0#64]
  | some t => [(t.needle ++ t.cause).setWidth 64, t.tpc, t.tipc, t.tval0, t.tval1]

/-- The trap record read back; five zeros mean none. -/
def TrapRecord.ofBytes (bs : List Byte) : Option TrapRecord :=
  if natAt bs 0 40 = 0 then none
  else some ⟨BitVec.ofNat 8 (natAt bs 0 1), BitVec.ofNat 2 (natAt bs 1 1), wordAt bs 8, wordAt bs 16, wordAt bs 24, wordAt bs 32⟩

/-- The core-state section. -/
def Ctx.coreBytes (c : Ctx) (strip : Bool) : List Byte :=
  let t := c.strip
  let csrs := savedCsrs.map c.savedCsr ++ [c.cycle, c.instret, t.vl, t.vtype.setWidth 64, BitVec.ofNat 64 (c.gauge / 16), if c.gaugest then 1#64 else 0#64,
    c.vprogCount, BitVec.ofNat 64 (c.gauge % 16)]
  let seat (b : Option Seat) : Nat := match b with
    | none => 0
    | some s => 0x8000 + s.slot.toNat
  padTo 4096 (wordBytes (c.x.toList.drop 1) ++ wordBytes [(c.fFull ++ (c.xFull ||| 1#32))] ++ wordBytes c.f.toList ++ padTo 256 (wordBytes csrs)
    ++ needles.flatMap (fun n => (c.needle n).bytes)
    ++ wordBytes [(needleId t.owner).setWidth 64, t.start, if t.cont then 1#64 else 0#64, if t.opened then 1#64 else 0#64]
    ++ c.b.toList.flatMap (fun b => natBytes 2 (seat b))
    ++ wordBytes (c.fixed.toList.flatMap (fun k => [k.base.setWidth 64, k.limit.setWidth 64]))
    ++ wordBytes ((List.range 64).map (c.directory strip))
    ++ padTo 64 (c.z.toList.map (fun z => if z.full then 0x80#8 else 0#8))
    ++ padTo 128 (natBytes 2 c.vecQ.length ++ natBytes 2 c.matQ.length ++ natBytes 2 c.copyQ.length)
    ++ wordBytes (TrapRecord.words c.trap)
    ++ wordBytes [match c.relHalf with
      | none => 0#64
      | some sc => BitVec.ofNat 64 (1 + 2 * sc.toNat)])

/-- The registers, CSRs, needles, strip, base registers, fixed slots, trap record and fence state of a core-state section,
written over a context. -/
def Ctx.restoreCore (c : Ctx) (bs : List Byte) : Ctx :=
  let full : BitVec 64 := wordAt bs 248
  let csr (k : Nat) : Word := wordAt bs (512 + 8 * k)
  let c := savedCsrs.zipIdx.foldl (fun (c : Ctx) p => c.writeCsr p.1 (csr p.2)) c
  let d (n : Nat) (old : NeedleState) : NeedleState := NeedleState.ofBytes ((bs.drop (768 + 208 * n)).take 208) old.forkWait
  let seat (k : Nat) : Option Seat :=
    let w : BitVec 16 := BitVec.ofNat 16 (natAt bs (1632 + 2 * k) 2)
    if w.getLsbD 15 then some { slot := w.extractLsb' 0 12, entry := {} } else none
  { c with
    x := Vector.ofFn (fun (k : Fin 32) => if k.val = 0 then 0#64 else wordAt bs (8 * (k.val - 1)))
    f := Vector.ofFn (fun (k : Fin 32) => wordAt bs (256 + 8 * k.val))
    xFull := full.extractLsb' 0 32 ||| 1#32, fFull := full.extractLsb' 32 32
    cycle := csr 16, instret := csr 17, gauge := 16 * ((csr 20).toNat % 2 ^ 48) + (csr 23).toNat % 16, gaugest := (csr 21).getLsbD 0, vprogCount := csr 22
    strip := { c.strip with vl := csr 18, vtype := (csr 19).setWidth 6, owner := needleOf (BitVec.ofNat 2 (natAt bs 1600 8)), start := wordAt bs 1608
                            cont := (wordAt bs 1616).getLsbD 0, opened := (wordAt bs 1624).getLsbD 0 }
    nS := d 0 c.nS, nV := d 1 c.nV, nM := d 2 c.nM, nC := d 3 c.nC
    b := Vector.ofFn (fun (k : Fin 16) => seat k.val)
    fixed := Vector.ofFn (fun (k : Fin 4) => ⟨(wordAt bs (1664 + 16 * k.val)).setWidth 48, (wordAt bs (1672 + 16 * k.val)).setWidth 48⟩)
    trap := TrapRecord.ofBytes ((bs.drop 2432).take 40)
    relHalf := if (wordAt bs 2472).getLsbD 0 then some ((wordAt bs 2472).extractLsb' 1 3) else none }

/-! ## Scratchpad (R370) -/

/-- Bytes of the scratchpad that are saved: `spused` rounded up to 2 KiB, at most the limit of slot 4095. -/
def spadLength (spused : Word) (limit : BitVec 48) : Nat := min ((spused.toNat + 2047) / 2048 * 2048) limit.toNat

/-- Bytes of a scratchpad section for a saved length. -/
def spadSection (n : Nat) : Nat := n + ((n + 15) / 16 + 7) / 8 + (n + 2047) / 2048

/-- The scratchpad section: bytes, full bits, tags; an uncorrectable word is stored as zero (R379). -/
def State.spadBytes (s : State) (c : Ctx) : List Byte :=
  let k := c.fixed.toList.getD 3 {}
  let base := k.base.toNat
  let n := spadLength c.spused k.limit
  let bad := s.badMem.map (·.1)
  let byte (j : Nat) : Byte := if bad.contains ((base + j) / 8) then 0#8 else s.byteAt 0 (base + j)
  let bits (j : Nat) : Nat := (List.range 8).foldl (fun w g =>
    if 16 * (8 * j + g) < n && (s.granule (granuleOf (base + 16 * (8 * j + g)))).full then w + 2 ^ g else w) 0
  (List.range n).map byte ++ (List.range (((n + 15) / 16 + 7) / 8)).map (fun j => BitVec.ofNat 8 (bits j))
    ++ (List.range ((n + 2047) / 2048)).map (fun t => (s.tileTag (tileOf (base + 2048 * t))).setWidth 8)

/-- A context's scratchpad after a restore: the saved bytes, zero above them, writer tags 0, full bits and tags as saved and
full and 0 above (R370). -/
def State.restoreSpad (s : State) (k : FixedSlot) (n : Nat) (bs : List Byte) : State :=
  let base := k.base.toNat
  let lim := k.limit.toNat
  let lo := base - spadStart
  let hi := lo + lim
  let s := (s.dropReservations base lim).healWords base lim
  let s := { s with granules := s.granules.filter (fun e => !(lo ≤ 16 * e.1 && 16 * e.1 < hi))
                    tileTags := s.tileTags.filter (fun e => !(lo ≤ 2048 * e.1 && 2048 * e.1 < hi))
                    releases := s.releases.filter (fun r => !(r.lo < base + lim && base < r.lo + r.len))
                    mem := s.mem.filter (fun e => !(base ≤ e.1 && e.1 < base + lim)) }
  let s := (bs.take n).zipIdx.foldl (fun (s : State) p => { s with mem := Sparse.write s.mem Memory.blank (base + p.2) p.1 }) s
  let fe := bs.drop n
  let s := (List.range ((n + 15) / 16)).foldl (fun (s : State) g =>
    if (natAt fe (g / 8) 1).testBit (g % 8) then s else s.setGranule (granuleOf (base + 16 * g)) { full := false }) s
  let tg := fe.drop (((n + 15) / 16 + 7) / 8)
  (List.range ((n + 2047) / 2048)).foldl (fun s t => s.setTileTag (tileOf (base + 2048 * t)) (BitVec.ofNat 6 (natAt tg t 1))) s

/-! ## Header and sections (R372) -/

/-- The sections of a skein in their order, without padding. -/
structure Skein where
  core : List Byte
  queues : List Byte
  pending : List Byte
  vector : List Byte
  array : List Byte
  spad : List Byte
  streams : List Byte
  fabric : List Byte
  deriving DecidableEq, Repr

/-- The sections one after the other, each padded. -/
def Skein.body (k : Skein) : List Byte :=
  padSection k.core ++ padSection k.queues ++ padSection k.pending ++ padSection k.vector ++ padSection k.array ++ padSection k.spad
    ++ padSection k.streams ++ padSection k.fabric

/-- The header of a skein of a context. -/
def Skein.header (k : Skein) (ctx : Nat) (c : Ctx) (lanes : Nat) (strip lossy : Bool) : List Byte :=
  padTo 64 (natBytes 4 0x4E49454B ++ natBytes 2 1 ++ natBytes 1 ((if strip then 4 else 0) + (if lossy then 2 else 0) + (if c.prot then 1 else 0))
    ++ natBytes 1 lanes ++ natBytes 4 ctx ++ natBytes 4 c.image ++ natBytes 8 c.saveCount.toNat
    ++ natBytes 4 k.vector.length ++ natBytes 4 k.array.length ++ natBytes 4 k.spad.length ++ natBytes 4 k.streams.length
    ++ natBytes 4 k.fabric.length ++ natBytes 4 k.queues.length ++ natBytes 4 k.pending.length)

/-- Section sizes that a header gives, in the order of the sections. -/
def headerSizes (h : List Byte) : List Nat :=
  [4096, natAt h 44 4, natAt h 48 4, natAt h 24 4, natAt h 28 4, natAt h 32 4, natAt h 36 4, natAt h 40 4]

/-- Sections cut from a body by their sizes. -/
def cutSections : List Nat → List Byte → List (List Byte)
  | [], _ => []
  | n :: ns, bs => bs.take n :: cutSections ns (bs.drop (pad64 n))

/-- The sections of a body. -/
def Skein.ofBody (sizes : List Nat) (body : List Byte) : Skein :=
  let p := cutSections sizes body
  let g (k : Nat) : List Byte := p.getD k []
  ⟨g 0, g 1, g 2, g 3, g 4, g 5, g 6, g 7⟩

/-- Entries held in the three queues (R373). -/
def Skein.counts (k : Skein) : Nat × Nat × Nat := (natAt k.core 2304 2, natAt k.core 2306 2, natAt k.core 2308 2)

/-- Directory entries (R373). -/
def Skein.dirs (k : Skein) : List Word := (List.range 64).map (fun r => wordAt k.core (1728 + 8 * r))

/-- Saved length of the scratchpad that the core state gives. -/
def Skein.spadLen (k : Skein) : Nat := spadLength (wordAt k.core 616) ((wordAt k.core 1720).setWidth 48)

/-- Total size of `n` entries at the head of a run. -/
def entriesSize (queue : Nat) : Nat → List Byte → Nat
  | 0, _ => 0
  | n + 1, bs => entrySize bs queue + entriesSize queue n (bs.drop (entrySize bs queue))

/-- The sizes agree with the core state and the directory (R379 order 7, R375), and the fabric records with the parked state
(R405). -/
def Skein.consistent (k : Skein) (lanes : Nat) (parked : List (BitVec 512)) : Bool :=
  let n := k.counts
  let qv := entriesSize 0 n.1 k.queues
  let qm := entriesSize 1 n.2.1 (k.queues.drop qv)
  let yarns := (k.dirs.filter (·.getLsbD 61)).length
  let tiles := ((List.range 8).filter (fun t => (natAt k.array (2 * t) 1).testBit 7)).length
  n.1 ≤ 32 && n.2.1 ≤ 32 && n.2.2 ≤ 32 && k.queues.length == qv + qm + 64 * n.2.2
    && k.pending.length % 64 == 0
    && k.dirs.all (fun d => !d.getLsbD 63 || ((d.extractLsb' 0 8).toNat ≤ 128 && (d.extractLsb' 0 8).toNat % 8 == 0))
    && k.vector.length == (k.dirs.map (fun d => if d.getLsbD 63 then lanes * (d.extractLsb' 0 8).toNat else 0)).sum
    && (k.array.length == 0 || k.array.length == 64 + 2048 * tiles + 5120)
    && k.spad.length == spadSection k.spadLen
    && 64 * yarns ≤ k.streams.length && (k.streams.length - 64 * yarns) % 128 == 0
    && k.fabric == parked.flatMap (fun r => natBytes 64 r.toNat)

end Sys2Proof.Machine
end

