-- ==== Sys2Proof/Machine/Skein.lean ====
section
/-! DEFINITION. Saving and loading a context: `ctxsave` with its drain, `ctxload` with its checks, and refusals
(12_control_and_system_instructions R220, R223; 24_traps_and_preemption R366-R371, R376-R380;
25_program_protected_preemption R383, R384; 26_fabric_and_exactly_once R404, R405; R40, R142, R358). -/

namespace Sys2Proof.Machine
open Sys2Proof

/-! ## The drain (R367) -/

/-- Step 1: entries of the vector queue run until one waits, faults or is held at a fault already (R358). -/
def State.drainVector (a : Agent) : Nat → State → State
  | 0, s => s
  | n + 1, s =>
    if (s.regs a).vecQ.head?.any (·.held) then s
    else
      let t := s.runVecHead a
      if (t.regs a).vecQ.length < (s.regs a).vecQ.length then drainVector a n t else t

/-- Step 1 for an instruction that V has in part executed and that no fault of its own has stopped: it runs on (R367, R382). -/
def State.drainV (s : State) (a : Agent) : State :=
  let c := s.regs a
  let faulted := c.trap.any (fun t => t.needle == needleId .V && t.cause != 0x18#8)
  if c.nV.run == .running && s.vUnfinished c && !faulted then
    let w := s.fetchWord c c.nV.pc
    match vecOfWord w with
    | none => s
    | some i => match vecArith i { s with cur := (a, .V), ir := w } with
      | .next t => { t with cur := s.cur, ir := s.ir }
      | _ => s
  else s

/-- Step 2: every entry of the matrix queue completes. -/
def State.drainMatrix (a : Agent) : Nat → State → State
  | 0, s => s
  | n + 1, s => if (s.regs a).matQ == [] then s else drainMatrix a n (s.runMatHead a)

/-- Elements pushed to a write stream are written as far as they can be (R286, R289). -/
def State.drainStream (a : Agent) (v : VReg) : Nat → State → State
  | 0, s => s
  | n + 1, s => drainStream a v n (s.writeOut a v)

/-- Write streams of every register are written out. -/
def State.drainStreams (s : State) (a : Agent) : State :=
  (List.range 64).foldl (fun s r =>
    let v : VReg := BitVec.ofNat 6 r
    s.drainStream a v ((((s.regs a).getV v).stream.map (·.buf.length)).getD 0)) s

/-- Step 3: copies that have come to their outcome complete; the others park at their chunk boundary, those still in the
copy queue among them. -/
def State.parkCopies (s : State) (a : Agent) : State :=
  let s := ((s.regs a).copies.filter (·.finished)).foldl (fun s o => s.completeCopy a o) s
  s.onRegs a (fun c =>
    let queued := c.copyQ.filterMap (·.copy)
    { c with copies := (c.copies ++ queued).map (fun (o : CopyOp) => { o with parked := true }), copyQ := c.copyQ.filter (·.copy.isNone) })

/-- The drain in its order; fabric packets that were still combining are sent (R404). -/
def State.drain (s : State) (a : Agent) : State :=
  let s := s.drainV a
  let s := s.drainVector a ((s.regs a).vecQ.length)
  let s := s.drainMatrix a ((s.regs a).matQ.length)
  ((s.drainStreams a).parkCopies a).flushFabric a

/-! ## What the skein records (R366, R368, R379) -/

/-- Does a needle stand before a `vlset` whose y bit is 1, the third case of R40? -/
def State.beforeYieldVlset (s : State) (c : Ctx) (n : Needle) : Bool :=
  let pc := (c.needle n).pc
  (c.targetFault pc).isNone && s.fetchWord c pc &&& 0xF800707F#32 == 0x0800300B#32

/-- Does a stopped needle stand at a yield point: at one of the three cases of R40, whatever stopped it, and not part way through a
vector instruction? -/
def State.standsAtYield (s : State) (c : Ctx) (n : Needle) : Bool :=
  let d := c.needle n
  !(n == .V && s.vUnfinished c) && (d.atYield || c.atYieldPoint n || s.beforeYieldVlset c n)

/-- Taken at a strip yield point: S stopped before a `vlset` with y = 1, every other active needle stopped at a yield point or
blocked (R366). A needle that waits before its first instruction stands at a yield point (R16, R40). -/
def State.stripPoint (s : State) (a : Agent) : Bool :=
  let c := s.regs a
  c.nS.active && !c.nS.blocked && s.beforeYieldVlset c .S
    && needles.all (fun n => n == .S || !(c.needle n).active || (c.needle n).blocked || s.standsAtYield c n)

/-- Is a word that the save stores uncorrectable? -/
def State.lossy (s : State) (a : Agent) (strip : Bool) : Bool :=
  let c := s.regs a
  let ls := lanesOf (s.lanemap a)
  let k := c.fixed.toList.getD 3 {}
  let n := spadLength c.spused k.limit
  (s.badRegs a).any (fun e =>
    let r := e.1 / 512
    if r < 64 then c.savesV strip r && ls.contains (e.1 % 512 / 32) && 4 * (e.1 % 32) < (c.getV (BitVec.ofNat 6 r)).vlb.toNat
    else (c.z.toList.getD (r - 64) {}).written)
    || s.badMem.any (fun e => k.base.toNat < 8 * e.1 + 8 && 8 * e.1 < k.base.toNat + n)

/-- The sections of a context. -/
def State.skein (s : State) (i : Nat) (strip : Bool) : Skein :=
  let a : Agent := .ctx i
  let c := s.regs a
  let bad := s.badRegs a
  { core := c.coreBytes strip, queues := c.queueBytes, pending := c.pendingInOrder.flatMap (fun p => natBytes 64 p.record)
    vector := (List.range 64).flatMap (c.vectorBytes (lanesOf (s.lanemap a)) bad strip), array := c.arrayBytes bad, spad := s.spadBytes c
    streams := c.streamBytes, fabric := (s.fabricRecords i).flatMap (fun r => natBytes 64 r.toNat) }

/-- Key schedule of a context's key (R376). -/
def contextSchedule (inst : Nat) : List (List Byte) := Aes.schedule (Aes.bigBytes 32 (Config.contextKey inst).toNat)

/-- Nonce: context id and save counter, the bits [95:0] from the highest byte on (R376). -/
def skeinNonce (ctx : Nat) (count : Word) : List Byte := Aes.bigBytes 4 ctx ++ Aes.bigBytes 8 count.toNat

/-- The bytes of a skein, enciphered for a protected context (R372, R376). -/
def Skein.bytes (k : Skein) (ctx : Nat) (c : Ctx) (lanes : Nat) (strip lossy : Bool) : List Byte :=
  let h := k.header ctx c lanes strip lossy
  if c.prot then
    let ks := contextSchedule c.keyInst
    let text := Aes.stream ks (skeinNonce ctx c.saveCount) k.body
    h ++ text ++ Aes.tag ks (skeinNonce ctx c.saveCount) h text
  else h ++ k.body

/-! ## Skein bytes in memory (R223, R384) -/

/-- A skein's address: a multiple of 256 in HBM or the host window. -/
def skeinAddress (a : Word) : Bool := a.toNat % 256 == 0 && (regionOf a.toNat == some .hbm || regionOf a.toNat == some .host)

/-- The view of the save engine: a hub core's, of which it uses slot 4091 alone (R298, R384). -/
def physView : View := ⟨true, none, {}, [], Vector.replicate 4 {}, 0⟩

/-- The first access that fails its checks among those that `n` skein bytes take through slot 4091, 64 bytes each: past the end of the
region, rejected by the host, or on an uncorrectable word (R117, R139, R298, R384, R421). -/
def State.skeinFault (s : State) (write : Bool) (addr n : Nat) : Option MemFault :=
  (List.range ((n + 63) / 64)).findSome? (fun k =>
    match s.access physView (BitVec.ofNat 64 (4091 * 2 ^ 52 + addr + 64 * k)) { size := min 64 (n - 64 * k), align := 1, write := write } with
    | .error e => some e
    | .ok _ => none)

/-- Writes bytes whose accesses have passed their checks, under key id 0, 64 at a time. -/
def State.putSkein (s : State) (addr : Nat) (bs : List Byte) : State :=
  ((Aes.pieces 64 (bs.length / 64 + 1) bs).zipIdx).foldl (fun s p =>
    match regionOf (addr + 64 * p.2) with
    | some r => s.putPlain none ⟨addr + 64 * p.2, 0, r⟩ p.1.length (bytesNat p.1)
    | none => s) s

/-- Reads bytes under key id 0. -/
def State.getSkein (s : State) (addr n : Nat) : List Byte := (List.range n).map (fun k => s.byteAt 0 (addr + k))

/-! ## Refusals (R383) -/

/-- Status word of `ctxsave` and `ctxload`. -/
def skeinStatus (bytes : Nat) (code : BitVec 8) : Word := BitVec.ofNat 56 bytes ++ code

/-- A refusal: the named context's trap record holds the cause, `ctxid` names it, and the status is code 4; a context held at an ECALL
or EBREAK still goes on behind it (R222). (DEDUCED, log entry 37.) -/
def State.refuseSkein (s : State) (h i : Nat) (addr : Word) (cause : BitVec 8) (val1 : Word) : State × Word :=
  let s := s.onRegs (.ctx i) (fun c => { c with trap := some ⟨cause, 0#2, 0#64, 0#64, addr, val1⟩ })
  (s.setHub h { s.hub h with ctxid := BitVec.ofNat 32 i }, skeinStatus 0 4#8)

/-- Why `ctxsave` of a context ends before it begins: codes 1 and 2. -/
def State.saveCode (s : State) (i : Nat) : Option (BitVec 8) :=
  if !s.live i then some 1#8
  else
    let c := s.regs (.ctx i)
    if c.life == .held && c.core.isSome then none else some 2#8

/-- `ctxsave xd, xs1, xs2` (R223): checked at once; then the hub core is blocked until the save engine has written the
skein. -/
def execCtxsave (rd rs1 rs2 : XReg) (w1 w2 : Bool) (s : State) : Exec :=
  launch .manager sysCharge (reading [.x rs1 w1, .x rs2 w2] (fun s =>
    let h := s.hubNo
    let addr := s.my.getX rs2
    match ctxOperand (s.my.getX rs1) with
    | none => s.put rd (skeinStatus 0 1#8)
    | some i => match s.saveCode i with
      | some code => s.put rd (skeinStatus 0 code)
      | none =>
        if skeinAddress addr then (s.setHub h { s.hub h with save := some ⟨i, addr.toNat, rd⟩ }, .stay)
        else
          let r := s.refuseSkein h i addr 0x03#8 0#64
          r.1.put rd r.2)) s

/-- The save itself: the drain, the counter, the skein's bytes; then the context is switched out and its core free (R223,
R355, R367, R378). Where the context was stopped counts as it was before the drain (R366). -/
def State.saveContext (s : State) (i addr : Nat) : Except MemFault (State × Word) :=
  let a : Agent := .ctx i
  let strip := s.stripPoint a
  let s := ((s.onRegs a Ctx.stopWaits).drain a).chargeStatic i
  let s := s.onRegs a (fun c => { c with saveCount := c.saveCount + 1#64 })
  let lossy := s.lossy a strip
  let recs := s.fabricRecords i
  let past := s.pastOf ((s.regs a).core.getD 0)
  let bs := (s.skein i strip).bytes i (s.regs a) (s.lanes a) strip lossy
  match s.skeinFault true addr bs.length with
  | some e => .error e
  | none =>
    let s := (s.putSkein addr bs).leaveCore i
    .ok (s.onRegs a (fun c => { c with life := .switchedOut, trap := none, request := none, resv := none, fabSaved := recs, past := past }),
      skeinStatus bs.length (if lossy then 3#8 else 0#8))

/-- SKEIN_WRITE: the save of a hub core's `ctxsave` takes place, and the instruction ends (R367, R368). A context that was
killed or resumed meanwhile is not saved; an access that fails its checks refuses the save, with nothing of it done (R223, R384). -/
def execSkeinWrite (h : Nat) (s : State) : Exec :=
  match (s.hub h).save with
  | none => .next s
  | some j =>
    let s := { s with cur := (.hub h, .S) }
    let t := s.setHub h { s.hub h with save := none }
    match t.saveCode j.ctx with
    | some code => finish s sysCharge (t.put j.xd (skeinStatus 0 code))
    | none =>
      let r := match t.saveContext j.ctx j.addr with
        | .ok r => r
        | .error e => t.refuseSkein h j.ctx (BitVec.ofNat 64 j.addr) e.cause 0#64
      finish s sysCharge (r.1.put j.xd r.2)

/-! ## Loading (R379, R380) -/

/-- The core that a context is loaded on: the one it was on last, else the lowest of its partition that is free (log
entry 24). -/
def State.loadCore (s : State) (c : Ctx) : Option Nat :=
  let free (k : Nat) : Bool := (s.core k).resident.isNone && !(s.core k).disabled
  if free c.lastCore then some c.lastCore else (List.range 4096).find? (fun k => free k && (s.core k).part == c.part)

/-- Pending faults of a skein: those the context held at the save where the section still holds exactly them; else each but the
array's, which the array section holds, with the status register that its issuing word names (DESIGN CHOICE, log entry 19). -/
def State.pendingOf (s : State) (c : Ctx) (arr : ArrayState) (section_ : List Byte) : List PendingFault :=
  let ofArray (bs : List Byte) : Bool := arr.fault.any (fun f => natBytes 64 f.pending.record == bs)
  if c.pendingInOrder.flatMap (fun p => natBytes 64 p.record) == section_ then c.pend
  else (((Aes.pieces 64 (section_.length / 64) section_).zipIdx).filter (fun p => !ofArray p.1)).map (fun p =>
    let word : BitVec 32 := if natAt p.1 14 1 % 4 = 1 then s.fetchWord c (wordAt p.1 32) else BitVec.ofNat 32 (natAt p.1 8 4)
    let xd : XReg := word.extractLsb' 7 5
    PendingFault.ofBytes p.1 p.2 (if xd = 0#5 then none else some xd))

/-- The context that a skein's sections describe, over what is not in it (R380). A context whose record is that of an ECALL or EBREAK
goes on behind it (R222). -/
def State.contextOf (s : State) (c : Ctx) (k : Skein) (ls : List Nat) (core : Nat) : Ctx :=
  let c := { c with slot0 := s.slotEntry c.image 0 }
  let n := k.counts
  let (vq, rest) := readEntries 0 n.1 (c.vecQ.map (·.seq)) k.queues
  let (mq, rest) := readEntries 1 n.2.1 (c.matQ.map (·.seq)) rest
  let (cq, _) := readEntries 2 n.2.2 (c.copyQ.map (·.seq)) rest
  let yarns := (List.range 64).filter (fun r => (k.dirs.getD r 0#64).getLsbD 61)
  let stream (r : Nat) : Option Stream := if yarns.contains r then 
      some { Stream.ofBytes ((k.streams.drop (64 * yarns.idxOf r)).take 64) with know := ((c.stream r).map (·.know)).getD {} } else none
  let copies := (Aes.pieces 128 (k.streams.length / 128) (k.streams.drop (64 * yarns.length))).map CopyOp.ofBytes
  let vs := readVectors ls ((List.range 64).map (fun r => (k.dirs.getD r 0#64, stream r))) k.vector
  let full (z : Nat) : Bool := (natAt k.core (2240 + z) 1).testBit 7
  let ix := if k.array.length = 0 then [] else k.array.take 16
  let zs := readTiles full ix c.z.toList.zipIdx (k.array.drop 64)
  let saved := ((List.range 8).filter (fun t => (natAt ix (2 * t) 1).testBit 7)).length
  let old := c
  let c := c.restoreCore k.core
  let arr := if k.array.length = 0 then { c.arr with used := false } else ArrayState.ofBytes (k.array.drop (64 + 2048 * saved))
  { c with
    life := .held, core := some core, lastCore := core, request := none, stepping := false, resv := none, chargedAt := s.timer, loaded := true
    v := Vector.ofFn (fun (r : Fin 64) => vs.getD r.val {})
    z := Vector.ofFn (fun (t : Fin 8) => zs.getD t.val {})
    arr := arr
    skip := c.skip || c.trap.any (fun t => t.cause == 0x19#8 || t.cause == 0x1A#8)
    vecQ := match vq.map (fun e => { e with tags := (old.vecQ.find? (·.seq == e.seq)).bind (·.tags) }) with
      | [] => []
      | e :: es => { e with held := true } :: es
    matQ := mq, copyQ := cq, pend := s.pendingOf c arr k.pending
    copies := copies.map (fun (o : CopyOp) => match c.copies.find? (·.seq == o.seq) with
      | some old => { o with know := old.know, inline := old.inline }
      | none => o) }

/-- The checks of R379 from order 2 on: the sections and their size, or the cause and second operand word of the refusal. The checks
on the accesses themselves come where the bytes are read: the header's before order 2, the sections' before order 7 (R384;
DEDUCED, log entry 37). -/
def State.checkSkein (s : State) (i addr core : Nat) : Except (BitVec 8 × Word) (Skein × Nat) :=
  let c := s.regs (.ctx i)
  let h := s.getSkein addr 64
  let count := wordAt h 16
  let lanes := (lanesOf (s.core core).lanemap).length
  let prot := (natAt h 6 1).testBit 0
  match s.skeinFault false addr 64 with
  | some e => .error (e.cause, 0#64)
  | none =>
  if natAt h 0 4 != 0x4E49454B || natAt h 4 2 != 1 then .error (0x15#8, 0#64)
  else if natAt h 8 4 != i || count != c.saveCount || natAt h 7 1 != lanes then .error (0x15#8, count)
  else if prot != c.prot then .error (0x16#8, count)
  else
    let sizes := headerSizes h
    let n := (sizes.map pad64).sum
    match s.skeinFault false (addr + 64) (n + if prot then 16 else 0) with
    | some e => .error (e.cause, count)
    | none =>
    let text := s.getSkein (addr + 64) n
    let ks := contextSchedule c.keyInst
    let nonce := skeinNonce i count
    let k := Skein.ofBody sizes (if prot then Aes.stream ks nonce text else text)
    if !k.consistent lanes c.fabSaved then .error (0x15#8, count)
    else if prot && s.getSkein (addr + 64 + n) 16 != Aes.tag ks nonce h text then .error (0x16#8, count)
    else .ok (k, 64 + n + if prot then 16 else 0)

/-- A context takes a core with what its skein holds; outcomes that waited for it arrive (R370, R380, R404). -/
def State.loadContext (s : State) (i core : Nat) (k : Skein) : State :=
  let u := s.core core
  let c := s.contextOf (s.regs (.ctx i)) k (lanesOf u.lanemap) core
  let s := s.setCore core { u with resident := some i, quiesced := false, lastVf := c.vf, badReg := [], corrReg := [], know := { past := c.past } }
  ((s.setRegs (.ctx i) c).restoreSpad (c.fixed.toList.getD 3 {}) k.spadLen k.spad).unpark i

/-- `ctxload xd, xs1, xs2` (R223, R379, R383): with no core free it waits (DESIGN CHOICE, log entry 24). -/
def execCtxload (rd rs1 rs2 : XReg) (w1 w2 : Bool) (s : State) : Exec :=
  launch .manager sysCharge (reading [.x rs1 w1, .x rs2 w2] (fun s =>
    let addr := s.my.getX rs2
    match ctxOperand (s.my.getX rs1) with
    | none => s.put rd (skeinStatus 0 1#8)
    | some i =>
      let c := s.regs (.ctx i)
      if !s.live i then s.put rd (skeinStatus 0 1#8)
      else if c.core.isSome then s.put rd (skeinStatus 0 2#8)
      else
        let refuse (cause : BitVec 8) (val1 : Word) : State × Act :=
          let r := s.refuseSkein s.hubNo i addr cause val1
          r.1.put rd r.2
        if !skeinAddress addr then refuse 0x03#8 0#64
        else match s.loadCore c with
        | none => (s, .stall)
        | some core => match s.checkSkein i addr.toNat core with
          | .error (cause, val1) => refuse cause val1
          | .ok (k, n) => (s.loadContext i core k).put rd (skeinStatus n 0#8))) s

end Sys2Proof.Machine
end

