-- ==== Sys2Proof/Machine/Schedule.lean ====
section
/-! DEFINITION. The turn that the model takes of itself when none is given: a fair rotation over the parties that have something
to do (R1, R3, R7; DESIGN CHOICE, log entry 1). Every other order is reached by giving the turns. -/

namespace Sys2Proof.Machine
open Sys2Proof

/-- Turns of an agent's needles that can move now; a blocked needle's is that its wait may be over. -/
noncomputable def State.needleTurns (s : State) (a : Agent) : List Turn :=
  (needles.filter (s.mayRun a)).map (fun n => if ((s.regs a).needle n).blocked then .event (.waitSatisfied a n) else .needle a n)

/-- Turns of an agent's streams: reading ahead up to 16,384 elements, writing out. -/
noncomputable def State.streamTurns (s : State) (a : Agent) : List Turn :=
  (List.range 64).filterMap (fun r =>
    let v : VReg := BitVec.ofNat 6 r
    ((s.regs a).stream r).bind (fun t =>
      if t.pat.dir then (if t.buf != [] && t.fault.isNone then some (.event (.streamWriteOut a v)) else none)
      else if t.buf.length < 16384 && t.pos + t.buf.length < t.pat.total && !t.fault.any (·.element ≤ t.pos + t.buf.length)
        then some (.event (.streamReadAhead a v)) else none))

/-- Turns of an agent's engines. -/
noncomputable def State.engineTurns (s : State) (a : Agent) : List Turn :=
  let c := s.regs a
  if !s.onCore a then []
  else
    (if c.matQ != [] then [.event (.matrixQueueEntry a)] else [])
      ++ (if c.vecQ != [] && s.runs a then [.event (.engineQueueEntry a .vector)] else [])
      ++ (if c.copyQ != [] && s.runs a then [.event (.engineQueueEntry a .copy)] else [])
      ++ (c.copies.filter (fun o => !o.parked && o.follow != FollowOn.queued)).map
          (fun o => if o.finished then .event (.copyCompletion a o.seq) else .event (.copyChunk a o.seq))
      ++ s.streamTurns a

/-- Turns of one agent. -/
noncomputable def State.agentTurns (s : State) (a : Agent) : List Turn :=
  (match a with
    | .hub h => (if (s.hub h).save.isSome then [.event (.skeinWrite h)] else []) ++ (if s.eventReady h then [.event (.managerEventEntry h)] else [])
    | .ctx i =>
      let c := s.regs a
      if s.live i && c.life == .running && c.request.isSome && c.honourable then [.event (.preemptionHonoured i)] else [])
    ++ s.engineTurns a ++ s.needleTurns a

/-- Turns of the Loom in a partition: nodes that can complete, and a dispatch. -/
noncomputable def State.loomTurns (s : State) (pi : Nat) : List Turn :=
  let p := s.part pi
  ((p.nodes.filter (fun d => (s.nodeOutcome pi d).isSome)).map (fun d => .event (.nodeCompletion pi d.handle)))
    ++ (if p.scan.any (s.dispatchable pi []) then [.event (.nodeDispatch pi [] [])] else [])

/-- Turns of a function's submission queue. -/
noncomputable def State.queueTurns (s : State) (vf : Nat) : List Turn :=
  let f := s.func vf
  if s.switchedIn vf && f.head != f.tail && !(s.part f.part).full then [.event (.recordTake vf)] else []

/-- The turns that each party offers: the eight hub cores, the contexts, the partitions' Looms, the queues. -/
noncomputable def State.offers (s : State) : List (List Turn) :=
  (List.range 8).map (fun h => s.agentTurns (.hub h)) ++ s.ctxs.map (fun e => s.agentTurns (.ctx e.1)) ++ s.parts.map (fun e => s.loomTurns e.1)
    ++ s.funcs.map (fun e => s.queueTurns e.1)

/-- The turn the model takes when none is given: parties that have something to do take turns, and each rotates over what it
can do; with nothing to do, hub core 0 lets a turn pass. -/
noncomputable def State.defaultTurn (s : State) : Turn :=
  let os := s.offers.filter (· != [])
  let o := os.getD (s.tick % os.length) []
  o.getD (s.tick / os.length % o.length) (.needle (.hub 0) .S)

end Sys2Proof.Machine
end

