-- ==== Sys2Proof/Machine/VecArith.lean ====
section
/-! DEFINITION. The vector arithmetic instructions: custom-1, custom-2 and custom-3, every sub-operation (R182-R184). What
each computes is its operation in VecInt, VecFloat, Quant and Purl; how it runs is VecRun's. -/

namespace Sys2Proof.Machine
open Sys2Proof

/-- `VADD_VV` (R237). -/
def execVaddVv (vd vs2 vs1 : VReg) (w m : Bool) (s : State) : Exec :=
  vecArith ⟨(.int .add), vd, vs2, .v vs1, w, m⟩ s

/-- `VSUB_VV` (R237). -/
def execVsubVv (vd vs2 vs1 : VReg) (w m : Bool) (s : State) : Exec :=
  vecArith ⟨(.int .sub), vd, vs2, .v vs1, w, m⟩ s

/-- `VMUL_VV` (R237). -/
def execVmulVv (vd vs2 vs1 : VReg) (w m : Bool) (s : State) : Exec :=
  vecArith ⟨(.int .mul), vd, vs2, .v vs1, w, m⟩ s

/-- `VMULH_VV` (R237). -/
def execVmulhVv (vd vs2 vs1 : VReg) (w m : Bool) (s : State) : Exec :=
  vecArith ⟨(.int .mulh), vd, vs2, .v vs1, w, m⟩ s

/-- `VMULHU_VV` (R237). -/
def execVmulhuVv (vd vs2 vs1 : VReg) (w m : Bool) (s : State) : Exec :=
  vecArith ⟨(.int .mulhu), vd, vs2, .v vs1, w, m⟩ s

/-- `VDIV_VV` (R237). -/
def execVdivVv (vd vs2 vs1 : VReg) (w m : Bool) (s : State) : Exec :=
  vecArith ⟨(.int .div), vd, vs2, .v vs1, w, m⟩ s

/-- `VDIVU_VV` (R237). -/
def execVdivuVv (vd vs2 vs1 : VReg) (w m : Bool) (s : State) : Exec :=
  vecArith ⟨(.int .divu), vd, vs2, .v vs1, w, m⟩ s

/-- `VREM_VV` (R237). -/
def execVremVv (vd vs2 vs1 : VReg) (w m : Bool) (s : State) : Exec :=
  vecArith ⟨(.int .rem), vd, vs2, .v vs1, w, m⟩ s

/-- `VREMU_VV` (R237). -/
def execVremuVv (vd vs2 vs1 : VReg) (w m : Bool) (s : State) : Exec :=
  vecArith ⟨(.int .remu), vd, vs2, .v vs1, w, m⟩ s

/-- `VMIN_VV` (R237). -/
def execVminVv (vd vs2 vs1 : VReg) (w m : Bool) (s : State) : Exec :=
  vecArith ⟨(.int .min), vd, vs2, .v vs1, w, m⟩ s

/-- `VMINU_VV` (R237). -/
def execVminuVv (vd vs2 vs1 : VReg) (w m : Bool) (s : State) : Exec :=
  vecArith ⟨(.int .minu), vd, vs2, .v vs1, w, m⟩ s

/-- `VMAX_VV` (R237). -/
def execVmaxVv (vd vs2 vs1 : VReg) (w m : Bool) (s : State) : Exec :=
  vecArith ⟨(.int .max), vd, vs2, .v vs1, w, m⟩ s

/-- `VMAXU_VV` (R237). -/
def execVmaxuVv (vd vs2 vs1 : VReg) (w m : Bool) (s : State) : Exec :=
  vecArith ⟨(.int .maxu), vd, vs2, .v vs1, w, m⟩ s

/-- `VAND_VV` (R237). -/
def execVandVv (vd vs2 vs1 : VReg) (w m : Bool) (s : State) : Exec :=
  vecArith ⟨(.int .and), vd, vs2, .v vs1, w, m⟩ s

/-- `VOR_VV` (R237). -/
def execVorVv (vd vs2 vs1 : VReg) (w m : Bool) (s : State) : Exec :=
  vecArith ⟨(.int .or), vd, vs2, .v vs1, w, m⟩ s

/-- `VXOR_VV` (R237). -/
def execVxorVv (vd vs2 vs1 : VReg) (w m : Bool) (s : State) : Exec :=
  vecArith ⟨(.int .xor), vd, vs2, .v vs1, w, m⟩ s

/-- `VSLL_VV` (R237). -/
def execVsllVv (vd vs2 vs1 : VReg) (w m : Bool) (s : State) : Exec :=
  vecArith ⟨(.int .sll), vd, vs2, .v vs1, w, m⟩ s

/-- `VSRL_VV` (R237). -/
def execVsrlVv (vd vs2 vs1 : VReg) (w m : Bool) (s : State) : Exec :=
  vecArith ⟨(.int .srl), vd, vs2, .v vs1, w, m⟩ s

/-- `VSRA_VV` (R237). -/
def execVsraVv (vd vs2 vs1 : VReg) (w m : Bool) (s : State) : Exec :=
  vecArith ⟨(.int .sra), vd, vs2, .v vs1, w, m⟩ s

/-- `VSADD_VV` (R237). -/
def execVsaddVv (vd vs2 vs1 : VReg) (w m : Bool) (s : State) : Exec :=
  vecArith ⟨(.int .sadd), vd, vs2, .v vs1, w, m⟩ s

/-- `VSADDU_VV` (R237). -/
def execVsadduVv (vd vs2 vs1 : VReg) (w m : Bool) (s : State) : Exec :=
  vecArith ⟨(.int .saddu), vd, vs2, .v vs1, w, m⟩ s

/-- `VSSUB_VV` (R237). -/
def execVssubVv (vd vs2 vs1 : VReg) (w m : Bool) (s : State) : Exec :=
  vecArith ⟨(.int .ssub), vd, vs2, .v vs1, w, m⟩ s

/-- `VSSUBU_VV` (R237). -/
def execVssubuVv (vd vs2 vs1 : VReg) (w m : Bool) (s : State) : Exec :=
  vecArith ⟨(.int .ssubu), vd, vs2, .v vs1, w, m⟩ s

/-- `VSEQ_VV` (R238). -/
def execVseqVv (vd vs2 vs1 : VReg) (w m : Bool) (s : State) : Exec :=
  vecArith ⟨(.cmp .eq), vd, vs2, .v vs1, w, m⟩ s

/-- `VSNE_VV` (R238). -/
def execVsneVv (vd vs2 vs1 : VReg) (w m : Bool) (s : State) : Exec :=
  vecArith ⟨(.cmp .ne), vd, vs2, .v vs1, w, m⟩ s

/-- `VSLT_VV` (R238). -/
def execVsltVv (vd vs2 vs1 : VReg) (w m : Bool) (s : State) : Exec :=
  vecArith ⟨(.cmp .lt), vd, vs2, .v vs1, w, m⟩ s

/-- `VSLTU_VV` (R238). -/
def execVsltuVv (vd vs2 vs1 : VReg) (w m : Bool) (s : State) : Exec :=
  vecArith ⟨(.cmp .ltu), vd, vs2, .v vs1, w, m⟩ s

/-- `VSLE_VV` (R238). -/
def execVsleVv (vd vs2 vs1 : VReg) (w m : Bool) (s : State) : Exec :=
  vecArith ⟨(.cmp .le), vd, vs2, .v vs1, w, m⟩ s

/-- `VSLEU_VV` (R238). -/
def execVsleuVv (vd vs2 vs1 : VReg) (w m : Bool) (s : State) : Exec :=
  vecArith ⟨(.cmp .leu), vd, vs2, .v vs1, w, m⟩ s

/-- `VMERGE_VV` (R239). -/
def execVmergeVv (vd vs2 vs1 : VReg) (w : Bool) (s : State) : Exec :=
  vecArith ⟨.merge, vd, vs2, .v vs1, w, true⟩ s

/-- `VPERM` (R240). -/
def execVperm (vd vs2 vs1 : VReg) (w m : Bool) (s : State) : Exec :=
  vecArith ⟨.perm, vd, vs2, .v vs1, w, m⟩ s

/-- `VMV` (R242). -/
def execVmv (vd vs2 : VReg) (w m : Bool) (s : State) : Exec :=
  vecArith ⟨(.un .mv), vd, vs2, .none, w, m⟩ s

/-- `VID` (R242). -/
def execVid (vd : VReg) (w m : Bool) (s : State) : Exec :=
  vecArith ⟨(.un .id), vd, 0#6, .none, w, m⟩ s

/-- `VIOTA` (R244). -/
def execViota (vd vs2 : VReg) (w m : Bool) (s : State) : Exec :=
  vecArith ⟨.iota, vd, vs2, .none, w, m⟩ s

/-- `VCOMPRESS` (R245). -/
def execVcompress (vd vs2 : VReg) (w : Bool) (s : State) : Exec :=
  vecArith ⟨.compress, vd, vs2, .none, w, true⟩ s

/-- `VREDSUM` (R246). -/
def execVredsum (vd vs2 : VReg) (w m : Bool) (s : State) : Exec :=
  vecArith ⟨(.red .sum), vd, vs2, .none, w, m⟩ s

/-- `VREDMIN` (R246). -/
def execVredmin (vd vs2 : VReg) (w m : Bool) (s : State) : Exec :=
  vecArith ⟨(.red .min), vd, vs2, .none, w, m⟩ s

/-- `VREDMINU` (R246). -/
def execVredminu (vd vs2 : VReg) (w m : Bool) (s : State) : Exec :=
  vecArith ⟨(.red .minu), vd, vs2, .none, w, m⟩ s

/-- `VREDMAX` (R246). -/
def execVredmax (vd vs2 : VReg) (w m : Bool) (s : State) : Exec :=
  vecArith ⟨(.red .max), vd, vs2, .none, w, m⟩ s

/-- `VREDMAXU` (R246). -/
def execVredmaxu (vd vs2 : VReg) (w m : Bool) (s : State) : Exec :=
  vecArith ⟨(.red .maxu), vd, vs2, .none, w, m⟩ s

/-- `VREDAND` (R246). -/
def execVredand (vd vs2 : VReg) (w m : Bool) (s : State) : Exec :=
  vecArith ⟨(.red .and), vd, vs2, .none, w, m⟩ s

/-- `VREDOR` (R246). -/
def execVredor (vd vs2 : VReg) (w m : Bool) (s : State) : Exec :=
  vecArith ⟨(.red .or), vd, vs2, .none, w, m⟩ s

/-- `VREDXOR` (R246). -/
def execVredxor (vd vs2 : VReg) (w m : Bool) (s : State) : Exec :=
  vecArith ⟨(.red .xor), vd, vs2, .none, w, m⟩ s

/-- `VMPOPC` (R247). -/
def execVmpopc (vd vs2 : VReg) (w m : Bool) (s : State) : Exec :=
  vecArith ⟨.mpopc, vd, vs2, .none, w, m⟩ s

/-- `VMFIRST` (R247). -/
def execVmfirst (vd vs2 : VReg) (w m : Bool) (s : State) : Exec :=
  vecArith ⟨.mfirst, vd, vs2, .none, w, m⟩ s

/-- `VABS` (R242). -/
def execVabs (vd vs2 : VReg) (w m : Bool) (s : State) : Exec :=
  vecArith ⟨(.un .abs), vd, vs2, .none, w, m⟩ s

/-- `VNEG` (R242). -/
def execVneg (vd vs2 : VReg) (w m : Bool) (s : State) : Exec :=
  vecArith ⟨(.un .neg), vd, vs2, .none, w, m⟩ s

/-- `VNOT` (R242). -/
def execVnot (vd vs2 : VReg) (w m : Bool) (s : State) : Exec :=
  vecArith ⟨(.un .not), vd, vs2, .none, w, m⟩ s

/-- `VCLZ` (R242). -/
def execVclz (vd vs2 : VReg) (w m : Bool) (s : State) : Exec :=
  vecArith ⟨(.un .clz), vd, vs2, .none, w, m⟩ s

/-- `VPOPCNT` (R242). -/
def execVpopcnt (vd vs2 : VReg) (w m : Bool) (s : State) : Exec :=
  vecArith ⟨(.un .popcnt), vd, vs2, .none, w, m⟩ s

/-- `VSEXT` (R243). -/
def execVsext (vd vs2 : VReg) (w m : Bool) (s : State) : Exec :=
  vecArith ⟨(.ext true), vd, vs2, .none, w, m⟩ s

/-- `VZEXT` (R243). -/
def execVzext (vd vs2 : VReg) (w m : Bool) (s : State) : Exec :=
  vecArith ⟨(.ext false), vd, vs2, .none, w, m⟩ s

/-- `VNCLIP` (R243). -/
def execVnclip (vd vs2 : VReg) (w m : Bool) (s : State) : Exec :=
  vecArith ⟨(.clip true), vd, vs2, .none, w, m⟩ s

/-- `VNCLIPU` (R243). -/
def execVnclipu (vd vs2 : VReg) (w m : Bool) (s : State) : Exec :=
  vecArith ⟨(.clip false), vd, vs2, .none, w, m⟩ s

/-- `VADD_VX` (R237). -/
def execVaddVx (vd vs2 : VReg) (rs1 : XReg) (w m : Bool) (s : State) : Exec :=
  vecArith ⟨(.int .add), vd, vs2, .x rs1, w, m⟩ s

/-- `VSUB_VX` (R237). -/
def execVsubVx (vd vs2 : VReg) (rs1 : XReg) (w m : Bool) (s : State) : Exec :=
  vecArith ⟨(.int .sub), vd, vs2, .x rs1, w, m⟩ s

/-- `VMUL_VX` (R237). -/
def execVmulVx (vd vs2 : VReg) (rs1 : XReg) (w m : Bool) (s : State) : Exec :=
  vecArith ⟨(.int .mul), vd, vs2, .x rs1, w, m⟩ s

/-- `VMULH_VX` (R237). -/
def execVmulhVx (vd vs2 : VReg) (rs1 : XReg) (w m : Bool) (s : State) : Exec :=
  vecArith ⟨(.int .mulh), vd, vs2, .x rs1, w, m⟩ s

/-- `VMULHU_VX` (R237). -/
def execVmulhuVx (vd vs2 : VReg) (rs1 : XReg) (w m : Bool) (s : State) : Exec :=
  vecArith ⟨(.int .mulhu), vd, vs2, .x rs1, w, m⟩ s

/-- `VDIV_VX` (R237). -/
def execVdivVx (vd vs2 : VReg) (rs1 : XReg) (w m : Bool) (s : State) : Exec :=
  vecArith ⟨(.int .div), vd, vs2, .x rs1, w, m⟩ s

/-- `VDIVU_VX` (R237). -/
def execVdivuVx (vd vs2 : VReg) (rs1 : XReg) (w m : Bool) (s : State) : Exec :=
  vecArith ⟨(.int .divu), vd, vs2, .x rs1, w, m⟩ s

/-- `VREM_VX` (R237). -/
def execVremVx (vd vs2 : VReg) (rs1 : XReg) (w m : Bool) (s : State) : Exec :=
  vecArith ⟨(.int .rem), vd, vs2, .x rs1, w, m⟩ s

/-- `VREMU_VX` (R237). -/
def execVremuVx (vd vs2 : VReg) (rs1 : XReg) (w m : Bool) (s : State) : Exec :=
  vecArith ⟨(.int .remu), vd, vs2, .x rs1, w, m⟩ s

/-- `VMIN_VX` (R237). -/
def execVminVx (vd vs2 : VReg) (rs1 : XReg) (w m : Bool) (s : State) : Exec :=
  vecArith ⟨(.int .min), vd, vs2, .x rs1, w, m⟩ s

/-- `VMINU_VX` (R237). -/
def execVminuVx (vd vs2 : VReg) (rs1 : XReg) (w m : Bool) (s : State) : Exec :=
  vecArith ⟨(.int .minu), vd, vs2, .x rs1, w, m⟩ s

/-- `VMAX_VX` (R237). -/
def execVmaxVx (vd vs2 : VReg) (rs1 : XReg) (w m : Bool) (s : State) : Exec :=
  vecArith ⟨(.int .max), vd, vs2, .x rs1, w, m⟩ s

/-- `VMAXU_VX` (R237). -/
def execVmaxuVx (vd vs2 : VReg) (rs1 : XReg) (w m : Bool) (s : State) : Exec :=
  vecArith ⟨(.int .maxu), vd, vs2, .x rs1, w, m⟩ s

/-- `VAND_VX` (R237). -/
def execVandVx (vd vs2 : VReg) (rs1 : XReg) (w m : Bool) (s : State) : Exec :=
  vecArith ⟨(.int .and), vd, vs2, .x rs1, w, m⟩ s

/-- `VOR_VX` (R237). -/
def execVorVx (vd vs2 : VReg) (rs1 : XReg) (w m : Bool) (s : State) : Exec :=
  vecArith ⟨(.int .or), vd, vs2, .x rs1, w, m⟩ s

/-- `VXOR_VX` (R237). -/
def execVxorVx (vd vs2 : VReg) (rs1 : XReg) (w m : Bool) (s : State) : Exec :=
  vecArith ⟨(.int .xor), vd, vs2, .x rs1, w, m⟩ s

/-- `VSLL_VX` (R237). -/
def execVsllVx (vd vs2 : VReg) (rs1 : XReg) (w m : Bool) (s : State) : Exec :=
  vecArith ⟨(.int .sll), vd, vs2, .x rs1, w, m⟩ s

/-- `VSRL_VX` (R237). -/
def execVsrlVx (vd vs2 : VReg) (rs1 : XReg) (w m : Bool) (s : State) : Exec :=
  vecArith ⟨(.int .srl), vd, vs2, .x rs1, w, m⟩ s

/-- `VSRA_VX` (R237). -/
def execVsraVx (vd vs2 : VReg) (rs1 : XReg) (w m : Bool) (s : State) : Exec :=
  vecArith ⟨(.int .sra), vd, vs2, .x rs1, w, m⟩ s

/-- `VSADD_VX` (R237). -/
def execVsaddVx (vd vs2 : VReg) (rs1 : XReg) (w m : Bool) (s : State) : Exec :=
  vecArith ⟨(.int .sadd), vd, vs2, .x rs1, w, m⟩ s

/-- `VSADDU_VX` (R237). -/
def execVsadduVx (vd vs2 : VReg) (rs1 : XReg) (w m : Bool) (s : State) : Exec :=
  vecArith ⟨(.int .saddu), vd, vs2, .x rs1, w, m⟩ s

/-- `VSSUB_VX` (R237). -/
def execVssubVx (vd vs2 : VReg) (rs1 : XReg) (w m : Bool) (s : State) : Exec :=
  vecArith ⟨(.int .ssub), vd, vs2, .x rs1, w, m⟩ s

/-- `VSSUBU_VX` (R237). -/
def execVssubuVx (vd vs2 : VReg) (rs1 : XReg) (w m : Bool) (s : State) : Exec :=
  vecArith ⟨(.int .ssubu), vd, vs2, .x rs1, w, m⟩ s

/-- `VSEQ_VX` (R238). -/
def execVseqVx (vd vs2 : VReg) (rs1 : XReg) (w m : Bool) (s : State) : Exec :=
  vecArith ⟨(.cmp .eq), vd, vs2, .x rs1, w, m⟩ s

/-- `VSNE_VX` (R238). -/
def execVsneVx (vd vs2 : VReg) (rs1 : XReg) (w m : Bool) (s : State) : Exec :=
  vecArith ⟨(.cmp .ne), vd, vs2, .x rs1, w, m⟩ s

/-- `VSLT_VX` (R238). -/
def execVsltVx (vd vs2 : VReg) (rs1 : XReg) (w m : Bool) (s : State) : Exec :=
  vecArith ⟨(.cmp .lt), vd, vs2, .x rs1, w, m⟩ s

/-- `VSLTU_VX` (R238). -/
def execVsltuVx (vd vs2 : VReg) (rs1 : XReg) (w m : Bool) (s : State) : Exec :=
  vecArith ⟨(.cmp .ltu), vd, vs2, .x rs1, w, m⟩ s

/-- `VSLE_VX` (R238). -/
def execVsleVx (vd vs2 : VReg) (rs1 : XReg) (w m : Bool) (s : State) : Exec :=
  vecArith ⟨(.cmp .le), vd, vs2, .x rs1, w, m⟩ s

/-- `VSLEU_VX` (R238). -/
def execVsleuVx (vd vs2 : VReg) (rs1 : XReg) (w m : Bool) (s : State) : Exec :=
  vecArith ⟨(.cmp .leu), vd, vs2, .x rs1, w, m⟩ s

/-- `VMERGE_VX` (R239). -/
def execVmergeVx (vd vs2 : VReg) (rs1 : XReg) (w : Bool) (s : State) : Exec :=
  vecArith ⟨.merge, vd, vs2, .x rs1, w, true⟩ s

/-- `VSLIDEUP` (R241). -/
def execVslideup (vd vs2 : VReg) (rs1 : XReg) (w m : Bool) (s : State) : Exec :=
  vecArith ⟨.slideup, vd, vs2, .x rs1, w, m⟩ s

/-- `VSLIDEDN` (R241). -/
def execVslidedn (vd vs2 : VReg) (rs1 : XReg) (w m : Bool) (s : State) : Exec :=
  vecArith ⟨.slidedn, vd, vs2, .x rs1, w, m⟩ s

/-- `VFADD_VV` (R255). -/
def execVfaddVv (vd vs2 vs1 : VReg) (w m : Bool) (s : State) : Exec :=
  vecArith ⟨(.fbin .add), vd, vs2, .v vs1, w, m⟩ s

/-- `VFSUB_VV` (R255). -/
def execVfsubVv (vd vs2 vs1 : VReg) (w m : Bool) (s : State) : Exec :=
  vecArith ⟨(.fbin .sub), vd, vs2, .v vs1, w, m⟩ s

/-- `VFMUL_VV` (R255). -/
def execVfmulVv (vd vs2 vs1 : VReg) (w m : Bool) (s : State) : Exec :=
  vecArith ⟨(.fbin .mul), vd, vs2, .v vs1, w, m⟩ s

/-- `VFDIV_VV` (R255). -/
def execVfdivVv (vd vs2 vs1 : VReg) (w m : Bool) (s : State) : Exec :=
  vecArith ⟨(.fbin .div), vd, vs2, .v vs1, w, m⟩ s

/-- `VFMIN_VV` (R256). -/
def execVfminVv (vd vs2 vs1 : VReg) (w m : Bool) (s : State) : Exec :=
  vecArith ⟨(.fbin .min), vd, vs2, .v vs1, w, m⟩ s

/-- `VFMAX_VV` (R256). -/
def execVfmaxVv (vd vs2 vs1 : VReg) (w m : Bool) (s : State) : Exec :=
  vecArith ⟨(.fbin .max), vd, vs2, .v vs1, w, m⟩ s

/-- `VFSGNJ_VV` (R256). -/
def execVfsgnjVv (vd vs2 vs1 : VReg) (w m : Bool) (s : State) : Exec :=
  vecArith ⟨(.fbin .sgnj), vd, vs2, .v vs1, w, m⟩ s

/-- `VFSGNJN_VV` (R256). -/
def execVfsgnjnVv (vd vs2 vs1 : VReg) (w m : Bool) (s : State) : Exec :=
  vecArith ⟨(.fbin .sgnjn), vd, vs2, .v vs1, w, m⟩ s

/-- `VFSGNJX_VV` (R256). -/
def execVfsgnjxVv (vd vs2 vs1 : VReg) (w m : Bool) (s : State) : Exec :=
  vecArith ⟨(.fbin .sgnjx), vd, vs2, .v vs1, w, m⟩ s

/-- `VFMACC_VV` (R257). -/
def execVfmaccVv (vd vs2 vs1 : VReg) (w m : Bool) (s : State) : Exec :=
  vecArith ⟨(.fma .macc), vd, vs2, .v vs1, w, m⟩ s

/-- `VFNMACC_VV` (R257). -/
def execVfnmaccVv (vd vs2 vs1 : VReg) (w m : Bool) (s : State) : Exec :=
  vecArith ⟨(.fma .nmacc), vd, vs2, .v vs1, w, m⟩ s

/-- `VFMSAC_VV` (R257). -/
def execVfmsacVv (vd vs2 vs1 : VReg) (w m : Bool) (s : State) : Exec :=
  vecArith ⟨(.fma .msac), vd, vs2, .v vs1, w, m⟩ s

/-- `VFNMSAC_VV` (R257). -/
def execVfnmsacVv (vd vs2 vs1 : VReg) (w m : Bool) (s : State) : Exec :=
  vecArith ⟨(.fma .nmsac), vd, vs2, .v vs1, w, m⟩ s

/-- `VFEQ_VV` (R258). -/
def execVfeqVv (vd vs2 vs1 : VReg) (w m : Bool) (s : State) : Exec :=
  vecArith ⟨(.fcmp .eq), vd, vs2, .v vs1, w, m⟩ s

/-- `VFNE_VV` (R258). -/
def execVfneVv (vd vs2 vs1 : VReg) (w m : Bool) (s : State) : Exec :=
  vecArith ⟨(.fcmp .ne), vd, vs2, .v vs1, w, m⟩ s

/-- `VFLT_VV` (R258). -/
def execVfltVv (vd vs2 vs1 : VReg) (w m : Bool) (s : State) : Exec :=
  vecArith ⟨(.fcmp .lt), vd, vs2, .v vs1, w, m⟩ s

/-- `VFLE_VV` (R258). -/
def execVfleVv (vd vs2 vs1 : VReg) (w m : Bool) (s : State) : Exec :=
  vecArith ⟨(.fcmp .le), vd, vs2, .v vs1, w, m⟩ s

/-- `VFUN_VV` (R258). -/
def execVfunVv (vd vs2 vs1 : VReg) (w m : Bool) (s : State) : Exec :=
  vecArith ⟨(.fcmp .un), vd, vs2, .v vs1, w, m⟩ s

/-- `VFMERGE_VV` (R259). -/
def execVfmergeVv (vd vs2 vs1 : VReg) (w : Bool) (s : State) : Exec :=
  vecArith ⟨.fmerge, vd, vs2, .v vs1, w, true⟩ s

/-- `VCMUL` (R260). -/
def execVcmul (vd vs2 vs1 : VReg) (w m : Bool) (s : State) : Exec :=
  vecArith ⟨(.cmul false), vd, vs2, .v vs1, w, m⟩ s

/-- `VCMAC` (R260). -/
def execVcmac (vd vs2 vs1 : VReg) (w m : Bool) (s : State) : Exec :=
  vecArith ⟨(.cmul true), vd, vs2, .v vs1, w, m⟩ s

/-- `VFWMACC_VV` (R261). -/
def execVfwmaccVv (vd vs2 vs1 : VReg) (w m : Bool) (s : State) : Exec :=
  vecArith ⟨.fwmacc, vd, vs2, .v vs1, w, m⟩ s

/-- `VCVTUP` (R262). -/
def execVcvtup (vd vs2 : VReg) (fmt : BitVec 4) (w m : Bool) (s : State) : Exec :=
  vecArith ⟨(.cvt .up fmt), vd, vs2, .none, w, m⟩ s

/-- `VCVTDN` (R262). -/
def execVcvtdn (vd vs2 : VReg) (fmt : BitVec 4) (w m : Bool) (s : State) : Exec :=
  vecArith ⟨(.cvt .dn fmt), vd, vs2, .none, w, m⟩ s

/-- `VCVTFI` (R263). -/
def execVcvtfi (vd vs2 : VReg) (fmt : BitVec 4) (w m : Bool) (s : State) : Exec :=
  vecArith ⟨(.cvt .fi fmt), vd, vs2, .none, w, m⟩ s

/-- `VCVTIF` (R263). -/
def execVcvtif (vd vs2 : VReg) (fmt : BitVec 4) (w m : Bool) (s : State) : Exec :=
  vecArith ⟨(.cvt .if_ fmt), vd, vs2, .none, w, m⟩ s

/-- `VQUANT` (R265). -/
def execVquant (vd vs2 vs1 : VReg) (w m : Bool) (s : State) : Exec :=
  vecArith ⟨.quant, vd, vs2, .v vs1, w, m⟩ s

/-- `VDEQUANT` (R266). -/
def execVdequant (vd vs2 vs1 : VReg) (w m : Bool) (s : State) : Exec :=
  vecArith ⟨.dequant, vd, vs2, .v vs1, w, m⟩ s

/-- `VBSCALE_VV` (R267). -/
def execVbscaleVv (vd vs2 : VReg) (fmt : BitVec 4) (w m : Bool) (s : State) : Exec :=
  vecArith ⟨(.bscale fmt), vd, vs2, .none, w, m⟩ s

/-- `VBAMAX` (R268). -/
def execVbamax (vd vs2 : VReg) (w m : Bool) (s : State) : Exec :=
  vecArith ⟨.bamax, vd, vs2, .none, w, m⟩ s

/-- `VFSQRT` (R269). -/
def execVfsqrt (vd vs2 : VReg) (w m : Bool) (s : State) : Exec :=
  vecArith ⟨(.spec .sqrt), vd, vs2, .none, w, m⟩ s

/-- `VFREC` (R269). -/
def execVfrec (vd vs2 : VReg) (w m : Bool) (s : State) : Exec :=
  vecArith ⟨(.spec .recip), vd, vs2, .none, w, m⟩ s

/-- `VFRSQRT` (R269). -/
def execVfrsqrt (vd vs2 : VReg) (w m : Bool) (s : State) : Exec :=
  vecArith ⟨(.spec .rsqrt), vd, vs2, .none, w, m⟩ s

/-- `VFCLASS` (R270). -/
def execVfclass (vd vs2 : VReg) (w m : Bool) (s : State) : Exec :=
  vecArith ⟨.fclass, vd, vs2, .none, w, m⟩ s

/-- `VFEXP2` (R269). -/
def execVfexp2 (vd vs2 : VReg) (w m : Bool) (s : State) : Exec :=
  vecArith ⟨(.spec .exp2), vd, vs2, .none, w, m⟩ s

/-- `VFLOG2` (R269). -/
def execVflog2 (vd vs2 : VReg) (w m : Bool) (s : State) : Exec :=
  vecArith ⟨(.spec .log2), vd, vs2, .none, w, m⟩ s

/-- `VFTANH` (R269). -/
def execVftanh (vd vs2 : VReg) (w m : Bool) (s : State) : Exec :=
  vecArith ⟨(.spec .tanh), vd, vs2, .none, w, m⟩ s

/-- `VFSILU` (R269). -/
def execVfsilu (vd vs2 : VReg) (w m : Bool) (s : State) : Exec :=
  vecArith ⟨(.spec .silu), vd, vs2, .none, w, m⟩ s

/-- `VFGELU` (R269). -/
def execVfgelu (vd vs2 : VReg) (w m : Bool) (s : State) : Exec :=
  vecArith ⟨(.spec .gelu), vd, vs2, .none, w, m⟩ s

/-- `VFSIN` (R269). -/
def execVfsin (vd vs2 : VReg) (w m : Bool) (s : State) : Exec :=
  vecArith ⟨(.spec .sin), vd, vs2, .none, w, m⟩ s

/-- `VFCOS` (R269). -/
def execVfcos (vd vs2 : VReg) (w m : Bool) (s : State) : Exec :=
  vecArith ⟨(.spec .cos), vd, vs2, .none, w, m⟩ s

/-- `VFABS` (R271). -/
def execVfabs (vd vs2 : VReg) (w m : Bool) (s : State) : Exec :=
  vecArith ⟨.fabs, vd, vs2, .none, w, m⟩ s

/-- `VFNEG` (R271). -/
def execVfneg (vd vs2 : VReg) (w m : Bool) (s : State) : Exec :=
  vecArith ⟨.fneg, vd, vs2, .none, w, m⟩ s

/-- `VCONJ` (R271). -/
def execVconj (vd vs2 : VReg) (w m : Bool) (s : State) : Exec :=
  vecArith ⟨.conj, vd, vs2, .none, w, m⟩ s

/-- `VFREDSUM` (R272). -/
def execVfredsum (vd vs2 : VReg) (w m : Bool) (s : State) : Exec :=
  vecArith ⟨(.fred .sum), vd, vs2, .none, w, m⟩ s

/-- `VFREDMAX` (R272). -/
def execVfredmax (vd vs2 : VReg) (w m : Bool) (s : State) : Exec :=
  vecArith ⟨(.fred .max), vd, vs2, .none, w, m⟩ s

/-- `VFREDMIN` (R272). -/
def execVfredmin (vd vs2 : VReg) (w m : Bool) (s : State) : Exec :=
  vecArith ⟨(.fred .min), vd, vs2, .none, w, m⟩ s

/-- `VFREDAMAX` (R272). -/
def execVfredamax (vd vs2 : VReg) (w m : Bool) (s : State) : Exec :=
  vecArith ⟨(.fred .amax), vd, vs2, .none, w, m⟩ s

/-- `PFWD` (R327). -/
def execPfwd (vd vs2 : VReg) (w : Bool) (s : State) : Exec :=
  vecArith ⟨(.purl false false), vd, vs2, .none, w, false⟩ s

/-- `PINV` (R327). -/
def execPinv (vd vs2 : VReg) (w : Bool) (s : State) : Exec :=
  vecArith ⟨(.purl true false), vd, vs2, .none, w, false⟩ s

/-- `PFWDC` (R327). -/
def execPfwdc (vd vs2 : VReg) (w : Bool) (s : State) : Exec :=
  vecArith ⟨(.purl false true), vd, vs2, .none, w, false⟩ s

/-- `PINVC` (R327). -/
def execPinvc (vd vs2 : VReg) (w : Bool) (s : State) : Exec :=
  vecArith ⟨(.purl true true), vd, vs2, .none, w, false⟩ s

/-- `VRETAG` (R329). -/
def execVretag (vd vs2 : VReg) (w : Bool) (s : State) : Exec :=
  vecArith ⟨.retag, vd, vs2, .none, w, false⟩ s

/-- `VTAGCLR` (R329). -/
def execVtagclr (vd vs2 : VReg) (w : Bool) (s : State) : Exec :=
  vecArith ⟨.tagclr, vd, vs2, .none, w, false⟩ s

/-- `VFADD_VF` (R255). -/
def execVfaddVf (vd vs2 : VReg) (fs1 : FReg) (w m : Bool) (s : State) : Exec :=
  vecArith ⟨(.fbin .add), vd, vs2, .f fs1, w, m⟩ s

/-- `VFSUB_VF` (R255). -/
def execVfsubVf (vd vs2 : VReg) (fs1 : FReg) (w m : Bool) (s : State) : Exec :=
  vecArith ⟨(.fbin .sub), vd, vs2, .f fs1, w, m⟩ s

/-- `VFMUL_VF` (R255). -/
def execVfmulVf (vd vs2 : VReg) (fs1 : FReg) (w m : Bool) (s : State) : Exec :=
  vecArith ⟨(.fbin .mul), vd, vs2, .f fs1, w, m⟩ s

/-- `VFDIV_VF` (R255). -/
def execVfdivVf (vd vs2 : VReg) (fs1 : FReg) (w m : Bool) (s : State) : Exec :=
  vecArith ⟨(.fbin .div), vd, vs2, .f fs1, w, m⟩ s

/-- `VFMIN_VF` (R256). -/
def execVfminVf (vd vs2 : VReg) (fs1 : FReg) (w m : Bool) (s : State) : Exec :=
  vecArith ⟨(.fbin .min), vd, vs2, .f fs1, w, m⟩ s

/-- `VFMAX_VF` (R256). -/
def execVfmaxVf (vd vs2 : VReg) (fs1 : FReg) (w m : Bool) (s : State) : Exec :=
  vecArith ⟨(.fbin .max), vd, vs2, .f fs1, w, m⟩ s

/-- `VFSGNJ_VF` (R256). -/
def execVfsgnjVf (vd vs2 : VReg) (fs1 : FReg) (w m : Bool) (s : State) : Exec :=
  vecArith ⟨(.fbin .sgnj), vd, vs2, .f fs1, w, m⟩ s

/-- `VFSGNJN_VF` (R256). -/
def execVfsgnjnVf (vd vs2 : VReg) (fs1 : FReg) (w m : Bool) (s : State) : Exec :=
  vecArith ⟨(.fbin .sgnjn), vd, vs2, .f fs1, w, m⟩ s

/-- `VFSGNJX_VF` (R256). -/
def execVfsgnjxVf (vd vs2 : VReg) (fs1 : FReg) (w m : Bool) (s : State) : Exec :=
  vecArith ⟨(.fbin .sgnjx), vd, vs2, .f fs1, w, m⟩ s

/-- `VFMACC_VF` (R257). -/
def execVfmaccVf (vd vs2 : VReg) (fs1 : FReg) (w m : Bool) (s : State) : Exec :=
  vecArith ⟨(.fma .macc), vd, vs2, .f fs1, w, m⟩ s

/-- `VFNMACC_VF` (R257). -/
def execVfnmaccVf (vd vs2 : VReg) (fs1 : FReg) (w m : Bool) (s : State) : Exec :=
  vecArith ⟨(.fma .nmacc), vd, vs2, .f fs1, w, m⟩ s

/-- `VFMSAC_VF` (R257). -/
def execVfmsacVf (vd vs2 : VReg) (fs1 : FReg) (w m : Bool) (s : State) : Exec :=
  vecArith ⟨(.fma .msac), vd, vs2, .f fs1, w, m⟩ s

/-- `VFNMSAC_VF` (R257). -/
def execVfnmsacVf (vd vs2 : VReg) (fs1 : FReg) (w m : Bool) (s : State) : Exec :=
  vecArith ⟨(.fma .nmsac), vd, vs2, .f fs1, w, m⟩ s

/-- `VFEQ_VF` (R258). -/
def execVfeqVf (vd vs2 : VReg) (fs1 : FReg) (w m : Bool) (s : State) : Exec :=
  vecArith ⟨(.fcmp .eq), vd, vs2, .f fs1, w, m⟩ s

/-- `VFNE_VF` (R258). -/
def execVfneVf (vd vs2 : VReg) (fs1 : FReg) (w m : Bool) (s : State) : Exec :=
  vecArith ⟨(.fcmp .ne), vd, vs2, .f fs1, w, m⟩ s

/-- `VFLT_VF` (R258). -/
def execVfltVf (vd vs2 : VReg) (fs1 : FReg) (w m : Bool) (s : State) : Exec :=
  vecArith ⟨(.fcmp .lt), vd, vs2, .f fs1, w, m⟩ s

/-- `VFLE_VF` (R258). -/
def execVfleVf (vd vs2 : VReg) (fs1 : FReg) (w m : Bool) (s : State) : Exec :=
  vecArith ⟨(.fcmp .le), vd, vs2, .f fs1, w, m⟩ s

/-- `VFUN_VF` (R258). -/
def execVfunVf (vd vs2 : VReg) (fs1 : FReg) (w m : Bool) (s : State) : Exec :=
  vecArith ⟨(.fcmp .un), vd, vs2, .f fs1, w, m⟩ s

/-- `VFMERGE_VF` (R259). -/
def execVfmergeVf (vd vs2 : VReg) (fs1 : FReg) (w : Bool) (s : State) : Exec :=
  vecArith ⟨.fmerge, vd, vs2, .f fs1, w, true⟩ s

/-- `VFWMACC_VF` (R261). -/
def execVfwmaccVf (vd vs2 : VReg) (fs1 : FReg) (w m : Bool) (s : State) : Exec :=
  vecArith ⟨.fwmacc, vd, vs2, .f fs1, w, m⟩ s

/-- `VBSCALE_VF` (R267). -/
def execVbscaleVf (vd : VReg) (tf : BitVec 6) (fs1 : FReg) (w : Bool) (s : State) : Exec :=
  vecArith ⟨(.bscaleX tf), vd, tf, .f fs1, w, false⟩ s

end Sys2Proof.Machine
end

