-- ==== Sys2Proof/Machine/Dispatch.lean ====
section
/-! DEFINITION. exec: one arm per constructor of Instr, each one direct call of its meaning. -/

namespace Sys2Proof.Machine
open Sys2Proof

/-- The meaning of each instruction or step. -/
def exec (i : Instr) (s : State) : Host.Outcome State Fault Refusal :=
  match i with
  | .lui rd imm => Sys2Proof.Machine.execLui rd imm s
  | .auipc rd imm => Sys2Proof.Machine.execAuipc rd imm s
  | .jal rd off => Sys2Proof.Machine.execJal rd off s
  | .jalr rd rs1 imm => Sys2Proof.Machine.execJalr rd rs1 imm s
  | .beq rs1 rs2 off => Sys2Proof.Machine.execBeq rs1 rs2 off s
  | .bne rs1 rs2 off => Sys2Proof.Machine.execBne rs1 rs2 off s
  | .blt rs1 rs2 off => Sys2Proof.Machine.execBlt rs1 rs2 off s
  | .bge rs1 rs2 off => Sys2Proof.Machine.execBge rs1 rs2 off s
  | .bltu rs1 rs2 off => Sys2Proof.Machine.execBltu rs1 rs2 off s
  | .bgeu rs1 rs2 off => Sys2Proof.Machine.execBgeu rs1 rs2 off s
  | .lb rd rs1 imm => Sys2Proof.Machine.execLb rd rs1 imm s
  | .lh rd rs1 imm => Sys2Proof.Machine.execLh rd rs1 imm s
  | .lw rd rs1 imm => Sys2Proof.Machine.execLw rd rs1 imm s
  | .ld rd rs1 imm => Sys2Proof.Machine.execLd rd rs1 imm s
  | .lbu rd rs1 imm => Sys2Proof.Machine.execLbu rd rs1 imm s
  | .lhu rd rs1 imm => Sys2Proof.Machine.execLhu rd rs1 imm s
  | .lwu rd rs1 imm => Sys2Proof.Machine.execLwu rd rs1 imm s
  | .sb rs1 rs2 imm => Sys2Proof.Machine.execSb rs1 rs2 imm s
  | .sh rs1 rs2 imm => Sys2Proof.Machine.execSh rs1 rs2 imm s
  | .sw rs1 rs2 imm => Sys2Proof.Machine.execSw rs1 rs2 imm s
  | .sd rs1 rs2 imm => Sys2Proof.Machine.execSd rs1 rs2 imm s
  | .addi rd rs1 imm => Sys2Proof.Machine.execAddi rd rs1 imm s
  | .slti rd rs1 imm => Sys2Proof.Machine.execSlti rd rs1 imm s
  | .sltiu rd rs1 imm => Sys2Proof.Machine.execSltiu rd rs1 imm s
  | .xori rd rs1 imm => Sys2Proof.Machine.execXori rd rs1 imm s
  | .ori rd rs1 imm => Sys2Proof.Machine.execOri rd rs1 imm s
  | .andi rd rs1 imm => Sys2Proof.Machine.execAndi rd rs1 imm s
  | .slli rd rs1 sh => Sys2Proof.Machine.execSlli rd rs1 sh s
  | .srli rd rs1 sh => Sys2Proof.Machine.execSrli rd rs1 sh s
  | .srai rd rs1 sh => Sys2Proof.Machine.execSrai rd rs1 sh s
  | .addiw rd rs1 imm => Sys2Proof.Machine.execAddiw rd rs1 imm s
  | .slliw rd rs1 sh => Sys2Proof.Machine.execSlliw rd rs1 sh s
  | .srliw rd rs1 sh => Sys2Proof.Machine.execSrliw rd rs1 sh s
  | .sraiw rd rs1 sh => Sys2Proof.Machine.execSraiw rd rs1 sh s
  | .add rd rs1 rs2 => Sys2Proof.Machine.execAdd rd rs1 rs2 s
  | .sll rd rs1 rs2 => Sys2Proof.Machine.execSll rd rs1 rs2 s
  | .slt rd rs1 rs2 => Sys2Proof.Machine.execSlt rd rs1 rs2 s
  | .sltu rd rs1 rs2 => Sys2Proof.Machine.execSltu rd rs1 rs2 s
  | .xor rd rs1 rs2 => Sys2Proof.Machine.execXor rd rs1 rs2 s
  | .srl rd rs1 rs2 => Sys2Proof.Machine.execSrl rd rs1 rs2 s
  | .or rd rs1 rs2 => Sys2Proof.Machine.execOr rd rs1 rs2 s
  | .and rd rs1 rs2 => Sys2Proof.Machine.execAnd rd rs1 rs2 s
  | .sub rd rs1 rs2 => Sys2Proof.Machine.execSub rd rs1 rs2 s
  | .sra rd rs1 rs2 => Sys2Proof.Machine.execSra rd rs1 rs2 s
  | .mul rd rs1 rs2 => Sys2Proof.Machine.execMul rd rs1 rs2 s
  | .mulh rd rs1 rs2 => Sys2Proof.Machine.execMulh rd rs1 rs2 s
  | .mulhsu rd rs1 rs2 => Sys2Proof.Machine.execMulhsu rd rs1 rs2 s
  | .mulhu rd rs1 rs2 => Sys2Proof.Machine.execMulhu rd rs1 rs2 s
  | .div rd rs1 rs2 => Sys2Proof.Machine.execDiv rd rs1 rs2 s
  | .divu rd rs1 rs2 => Sys2Proof.Machine.execDivu rd rs1 rs2 s
  | .rem rd rs1 rs2 => Sys2Proof.Machine.execRem rd rs1 rs2 s
  | .remu rd rs1 rs2 => Sys2Proof.Machine.execRemu rd rs1 rs2 s
  | .addw rd rs1 rs2 => Sys2Proof.Machine.execAddw rd rs1 rs2 s
  | .sllw rd rs1 rs2 => Sys2Proof.Machine.execSllw rd rs1 rs2 s
  | .srlw rd rs1 rs2 => Sys2Proof.Machine.execSrlw rd rs1 rs2 s
  | .subw rd rs1 rs2 => Sys2Proof.Machine.execSubw rd rs1 rs2 s
  | .sraw rd rs1 rs2 => Sys2Proof.Machine.execSraw rd rs1 rs2 s
  | .mulw rd rs1 rs2 => Sys2Proof.Machine.execMulw rd rs1 rs2 s
  | .divw rd rs1 rs2 => Sys2Proof.Machine.execDivw rd rs1 rs2 s
  | .divuw rd rs1 rs2 => Sys2Proof.Machine.execDivuw rd rs1 rs2 s
  | .remw rd rs1 rs2 => Sys2Proof.Machine.execRemw rd rs1 rs2 s
  | .remuw rd rs1 rs2 => Sys2Proof.Machine.execRemuw rd rs1 rs2 s
  | .fence fm pred succ rs1 rd => Sys2Proof.Machine.execFence fm pred succ rs1 rd s
  | .ecall => Sys2Proof.Machine.execEcall s
  | .ebreak => Sys2Proof.Machine.execEbreak s
  | .csrrw rd rs1 csr => Sys2Proof.Machine.execCsrrw rd rs1 csr s
  | .csrrs rd rs1 csr => Sys2Proof.Machine.execCsrrs rd rs1 csr s
  | .csrrc rd rs1 csr => Sys2Proof.Machine.execCsrrc rd rs1 csr s
  | .csrrwi rd uimm csr => Sys2Proof.Machine.execCsrrwi rd uimm csr s
  | .csrrsi rd uimm csr => Sys2Proof.Machine.execCsrrsi rd uimm csr s
  | .csrrci rd uimm csr => Sys2Proof.Machine.execCsrrci rd uimm csr s
  | .lrW aq rl rd rs1 => Sys2Proof.Machine.execLrW aq rl rd rs1 s
  | .scW aq rl rd rs1 rs2 => Sys2Proof.Machine.execScW aq rl rd rs1 rs2 s
  | .amoswapW aq rl rd rs1 rs2 => Sys2Proof.Machine.execAmoswapW aq rl rd rs1 rs2 s
  | .amoaddW aq rl rd rs1 rs2 => Sys2Proof.Machine.execAmoaddW aq rl rd rs1 rs2 s
  | .amoxorW aq rl rd rs1 rs2 => Sys2Proof.Machine.execAmoxorW aq rl rd rs1 rs2 s
  | .amoandW aq rl rd rs1 rs2 => Sys2Proof.Machine.execAmoandW aq rl rd rs1 rs2 s
  | .amoorW aq rl rd rs1 rs2 => Sys2Proof.Machine.execAmoorW aq rl rd rs1 rs2 s
  | .amominW aq rl rd rs1 rs2 => Sys2Proof.Machine.execAmominW aq rl rd rs1 rs2 s
  | .amomaxW aq rl rd rs1 rs2 => Sys2Proof.Machine.execAmomaxW aq rl rd rs1 rs2 s
  | .amominuW aq rl rd rs1 rs2 => Sys2Proof.Machine.execAmominuW aq rl rd rs1 rs2 s
  | .amomaxuW aq rl rd rs1 rs2 => Sys2Proof.Machine.execAmomaxuW aq rl rd rs1 rs2 s
  | .lrD aq rl rd rs1 => Sys2Proof.Machine.execLrD aq rl rd rs1 s
  | .scD aq rl rd rs1 rs2 => Sys2Proof.Machine.execScD aq rl rd rs1 rs2 s
  | .amoswapD aq rl rd rs1 rs2 => Sys2Proof.Machine.execAmoswapD aq rl rd rs1 rs2 s
  | .amoaddD aq rl rd rs1 rs2 => Sys2Proof.Machine.execAmoaddD aq rl rd rs1 rs2 s
  | .amoxorD aq rl rd rs1 rs2 => Sys2Proof.Machine.execAmoxorD aq rl rd rs1 rs2 s
  | .amoandD aq rl rd rs1 rs2 => Sys2Proof.Machine.execAmoandD aq rl rd rs1 rs2 s
  | .amoorD aq rl rd rs1 rs2 => Sys2Proof.Machine.execAmoorD aq rl rd rs1 rs2 s
  | .amominD aq rl rd rs1 rs2 => Sys2Proof.Machine.execAmominD aq rl rd rs1 rs2 s
  | .amomaxD aq rl rd rs1 rs2 => Sys2Proof.Machine.execAmomaxD aq rl rd rs1 rs2 s
  | .amominuD aq rl rd rs1 rs2 => Sys2Proof.Machine.execAmominuD aq rl rd rs1 rs2 s
  | .amomaxuD aq rl rd rs1 rs2 => Sys2Proof.Machine.execAmomaxuD aq rl rd rs1 rs2 s
  | .fld fd rs1 imm => Sys2Proof.Machine.execFld fd rs1 imm s
  | .fsd rs1 fs2 imm => Sys2Proof.Machine.execFsd rs1 fs2 imm s
  | .fmaddD fd fs1 fs2 fs3 rm => Sys2Proof.Machine.execFmaddD fd fs1 fs2 fs3 rm s
  | .fmsubD fd fs1 fs2 fs3 rm => Sys2Proof.Machine.execFmsubD fd fs1 fs2 fs3 rm s
  | .fnmsubD fd fs1 fs2 fs3 rm => Sys2Proof.Machine.execFnmsubD fd fs1 fs2 fs3 rm s
  | .fnmaddD fd fs1 fs2 fs3 rm => Sys2Proof.Machine.execFnmaddD fd fs1 fs2 fs3 rm s
  | .faddD fd fs1 fs2 rm => Sys2Proof.Machine.execFaddD fd fs1 fs2 rm s
  | .fsubD fd fs1 fs2 rm => Sys2Proof.Machine.execFsubD fd fs1 fs2 rm s
  | .fmulD fd fs1 fs2 rm => Sys2Proof.Machine.execFmulD fd fs1 fs2 rm s
  | .fdivD fd fs1 fs2 rm => Sys2Proof.Machine.execFdivD fd fs1 fs2 rm s
  | .fsqrtD fd fs1 rm => Sys2Proof.Machine.execFsqrtD fd fs1 rm s
  | .fsgnjD fd fs1 fs2 => Sys2Proof.Machine.execFsgnjD fd fs1 fs2 s
  | .fsgnjnD fd fs1 fs2 => Sys2Proof.Machine.execFsgnjnD fd fs1 fs2 s
  | .fsgnjxD fd fs1 fs2 => Sys2Proof.Machine.execFsgnjxD fd fs1 fs2 s
  | .fminD fd fs1 fs2 => Sys2Proof.Machine.execFminD fd fs1 fs2 s
  | .fmaxD fd fs1 fs2 => Sys2Proof.Machine.execFmaxD fd fs1 fs2 s
  | .fleD rd fs1 fs2 => Sys2Proof.Machine.execFleD rd fs1 fs2 s
  | .fltD rd fs1 fs2 => Sys2Proof.Machine.execFltD rd fs1 fs2 s
  | .feqD rd fs1 fs2 => Sys2Proof.Machine.execFeqD rd fs1 fs2 s
  | .fclassD rd fs1 => Sys2Proof.Machine.execFclassD rd fs1 s
  | .fmvXD rd fs1 => Sys2Proof.Machine.execFmvXD rd fs1 s
  | .fmvDX fd rs1 => Sys2Proof.Machine.execFmvDX fd rs1 s
  | .fcvtWD rd fs1 rm => Sys2Proof.Machine.execFcvtWD rd fs1 rm s
  | .fcvtWuD rd fs1 rm => Sys2Proof.Machine.execFcvtWuD rd fs1 rm s
  | .fcvtLD rd fs1 rm => Sys2Proof.Machine.execFcvtLD rd fs1 rm s
  | .fcvtLuD rd fs1 rm => Sys2Proof.Machine.execFcvtLuD rd fs1 rm s
  | .fcvtDW fd rs1 rm => Sys2Proof.Machine.execFcvtDW fd rs1 rm s
  | .fcvtDWu fd rs1 rm => Sys2Proof.Machine.execFcvtDWu fd rs1 rm s
  | .fcvtDL fd rs1 rm => Sys2Proof.Machine.execFcvtDL fd rs1 rm s
  | .fcvtDLu fd rs1 rm => Sys2Proof.Machine.execFcvtDLu fd rs1 rm s
  | .vaddVv vd vs2 vs1 w m => Sys2Proof.Machine.execVaddVv vd vs2 vs1 w m s
  | .vsubVv vd vs2 vs1 w m => Sys2Proof.Machine.execVsubVv vd vs2 vs1 w m s
  | .vmulVv vd vs2 vs1 w m => Sys2Proof.Machine.execVmulVv vd vs2 vs1 w m s
  | .vmulhVv vd vs2 vs1 w m => Sys2Proof.Machine.execVmulhVv vd vs2 vs1 w m s
  | .vmulhuVv vd vs2 vs1 w m => Sys2Proof.Machine.execVmulhuVv vd vs2 vs1 w m s
  | .vdivVv vd vs2 vs1 w m => Sys2Proof.Machine.execVdivVv vd vs2 vs1 w m s
  | .vdivuVv vd vs2 vs1 w m => Sys2Proof.Machine.execVdivuVv vd vs2 vs1 w m s
  | .vremVv vd vs2 vs1 w m => Sys2Proof.Machine.execVremVv vd vs2 vs1 w m s
  | .vremuVv vd vs2 vs1 w m => Sys2Proof.Machine.execVremuVv vd vs2 vs1 w m s
  | .vminVv vd vs2 vs1 w m => Sys2Proof.Machine.execVminVv vd vs2 vs1 w m s
  | .vminuVv vd vs2 vs1 w m => Sys2Proof.Machine.execVminuVv vd vs2 vs1 w m s
  | .vmaxVv vd vs2 vs1 w m => Sys2Proof.Machine.execVmaxVv vd vs2 vs1 w m s
  | .vmaxuVv vd vs2 vs1 w m => Sys2Proof.Machine.execVmaxuVv vd vs2 vs1 w m s
  | .vandVv vd vs2 vs1 w m => Sys2Proof.Machine.execVandVv vd vs2 vs1 w m s
  | .vorVv vd vs2 vs1 w m => Sys2Proof.Machine.execVorVv vd vs2 vs1 w m s
  | .vxorVv vd vs2 vs1 w m => Sys2Proof.Machine.execVxorVv vd vs2 vs1 w m s
  | .vsllVv vd vs2 vs1 w m => Sys2Proof.Machine.execVsllVv vd vs2 vs1 w m s
  | .vsrlVv vd vs2 vs1 w m => Sys2Proof.Machine.execVsrlVv vd vs2 vs1 w m s
  | .vsraVv vd vs2 vs1 w m => Sys2Proof.Machine.execVsraVv vd vs2 vs1 w m s
  | .vsaddVv vd vs2 vs1 w m => Sys2Proof.Machine.execVsaddVv vd vs2 vs1 w m s
  | .vsadduVv vd vs2 vs1 w m => Sys2Proof.Machine.execVsadduVv vd vs2 vs1 w m s
  | .vssubVv vd vs2 vs1 w m => Sys2Proof.Machine.execVssubVv vd vs2 vs1 w m s
  | .vssubuVv vd vs2 vs1 w m => Sys2Proof.Machine.execVssubuVv vd vs2 vs1 w m s
  | .vseqVv vd vs2 vs1 w m => Sys2Proof.Machine.execVseqVv vd vs2 vs1 w m s
  | .vsneVv vd vs2 vs1 w m => Sys2Proof.Machine.execVsneVv vd vs2 vs1 w m s
  | .vsltVv vd vs2 vs1 w m => Sys2Proof.Machine.execVsltVv vd vs2 vs1 w m s
  | .vsltuVv vd vs2 vs1 w m => Sys2Proof.Machine.execVsltuVv vd vs2 vs1 w m s
  | .vsleVv vd vs2 vs1 w m => Sys2Proof.Machine.execVsleVv vd vs2 vs1 w m s
  | .vsleuVv vd vs2 vs1 w m => Sys2Proof.Machine.execVsleuVv vd vs2 vs1 w m s
  | .vmergeVv vd vs2 vs1 w => Sys2Proof.Machine.execVmergeVv vd vs2 vs1 w s
  | .vperm vd vs2 vs1 w m => Sys2Proof.Machine.execVperm vd vs2 vs1 w m s
  | .vmv vd vs2 w m => Sys2Proof.Machine.execVmv vd vs2 w m s
  | .vid vd w m => Sys2Proof.Machine.execVid vd w m s
  | .viota vd vs2 w m => Sys2Proof.Machine.execViota vd vs2 w m s
  | .vcompress vd vs2 w => Sys2Proof.Machine.execVcompress vd vs2 w s
  | .vredsum vd vs2 w m => Sys2Proof.Machine.execVredsum vd vs2 w m s
  | .vredmin vd vs2 w m => Sys2Proof.Machine.execVredmin vd vs2 w m s
  | .vredminu vd vs2 w m => Sys2Proof.Machine.execVredminu vd vs2 w m s
  | .vredmax vd vs2 w m => Sys2Proof.Machine.execVredmax vd vs2 w m s
  | .vredmaxu vd vs2 w m => Sys2Proof.Machine.execVredmaxu vd vs2 w m s
  | .vredand vd vs2 w m => Sys2Proof.Machine.execVredand vd vs2 w m s
  | .vredor vd vs2 w m => Sys2Proof.Machine.execVredor vd vs2 w m s
  | .vredxor vd vs2 w m => Sys2Proof.Machine.execVredxor vd vs2 w m s
  | .vmpopc vd vs2 w m => Sys2Proof.Machine.execVmpopc vd vs2 w m s
  | .vmfirst vd vs2 w m => Sys2Proof.Machine.execVmfirst vd vs2 w m s
  | .vabs vd vs2 w m => Sys2Proof.Machine.execVabs vd vs2 w m s
  | .vneg vd vs2 w m => Sys2Proof.Machine.execVneg vd vs2 w m s
  | .vnot vd vs2 w m => Sys2Proof.Machine.execVnot vd vs2 w m s
  | .vclz vd vs2 w m => Sys2Proof.Machine.execVclz vd vs2 w m s
  | .vpopcnt vd vs2 w m => Sys2Proof.Machine.execVpopcnt vd vs2 w m s
  | .vsext vd vs2 w m => Sys2Proof.Machine.execVsext vd vs2 w m s
  | .vzext vd vs2 w m => Sys2Proof.Machine.execVzext vd vs2 w m s
  | .vnclip vd vs2 w m => Sys2Proof.Machine.execVnclip vd vs2 w m s
  | .vnclipu vd vs2 w m => Sys2Proof.Machine.execVnclipu vd vs2 w m s
  | .vaddVx vd vs2 rs1 w m => Sys2Proof.Machine.execVaddVx vd vs2 rs1 w m s
  | .vsubVx vd vs2 rs1 w m => Sys2Proof.Machine.execVsubVx vd vs2 rs1 w m s
  | .vmulVx vd vs2 rs1 w m => Sys2Proof.Machine.execVmulVx vd vs2 rs1 w m s
  | .vmulhVx vd vs2 rs1 w m => Sys2Proof.Machine.execVmulhVx vd vs2 rs1 w m s
  | .vmulhuVx vd vs2 rs1 w m => Sys2Proof.Machine.execVmulhuVx vd vs2 rs1 w m s
  | .vdivVx vd vs2 rs1 w m => Sys2Proof.Machine.execVdivVx vd vs2 rs1 w m s
  | .vdivuVx vd vs2 rs1 w m => Sys2Proof.Machine.execVdivuVx vd vs2 rs1 w m s
  | .vremVx vd vs2 rs1 w m => Sys2Proof.Machine.execVremVx vd vs2 rs1 w m s
  | .vremuVx vd vs2 rs1 w m => Sys2Proof.Machine.execVremuVx vd vs2 rs1 w m s
  | .vminVx vd vs2 rs1 w m => Sys2Proof.Machine.execVminVx vd vs2 rs1 w m s
  | .vminuVx vd vs2 rs1 w m => Sys2Proof.Machine.execVminuVx vd vs2 rs1 w m s
  | .vmaxVx vd vs2 rs1 w m => Sys2Proof.Machine.execVmaxVx vd vs2 rs1 w m s
  | .vmaxuVx vd vs2 rs1 w m => Sys2Proof.Machine.execVmaxuVx vd vs2 rs1 w m s
  | .vandVx vd vs2 rs1 w m => Sys2Proof.Machine.execVandVx vd vs2 rs1 w m s
  | .vorVx vd vs2 rs1 w m => Sys2Proof.Machine.execVorVx vd vs2 rs1 w m s
  | .vxorVx vd vs2 rs1 w m => Sys2Proof.Machine.execVxorVx vd vs2 rs1 w m s
  | .vsllVx vd vs2 rs1 w m => Sys2Proof.Machine.execVsllVx vd vs2 rs1 w m s
  | .vsrlVx vd vs2 rs1 w m => Sys2Proof.Machine.execVsrlVx vd vs2 rs1 w m s
  | .vsraVx vd vs2 rs1 w m => Sys2Proof.Machine.execVsraVx vd vs2 rs1 w m s
  | .vsaddVx vd vs2 rs1 w m => Sys2Proof.Machine.execVsaddVx vd vs2 rs1 w m s
  | .vsadduVx vd vs2 rs1 w m => Sys2Proof.Machine.execVsadduVx vd vs2 rs1 w m s
  | .vssubVx vd vs2 rs1 w m => Sys2Proof.Machine.execVssubVx vd vs2 rs1 w m s
  | .vssubuVx vd vs2 rs1 w m => Sys2Proof.Machine.execVssubuVx vd vs2 rs1 w m s
  | .vseqVx vd vs2 rs1 w m => Sys2Proof.Machine.execVseqVx vd vs2 rs1 w m s
  | .vsneVx vd vs2 rs1 w m => Sys2Proof.Machine.execVsneVx vd vs2 rs1 w m s
  | .vsltVx vd vs2 rs1 w m => Sys2Proof.Machine.execVsltVx vd vs2 rs1 w m s
  | .vsltuVx vd vs2 rs1 w m => Sys2Proof.Machine.execVsltuVx vd vs2 rs1 w m s
  | .vsleVx vd vs2 rs1 w m => Sys2Proof.Machine.execVsleVx vd vs2 rs1 w m s
  | .vsleuVx vd vs2 rs1 w m => Sys2Proof.Machine.execVsleuVx vd vs2 rs1 w m s
  | .vmergeVx vd vs2 rs1 w => Sys2Proof.Machine.execVmergeVx vd vs2 rs1 w s
  | .vslideup vd vs2 rs1 w m => Sys2Proof.Machine.execVslideup vd vs2 rs1 w m s
  | .vslidedn vd vs2 rs1 w m => Sys2Proof.Machine.execVslidedn vd vs2 rs1 w m s
  | .vfaddVv vd vs2 vs1 w m => Sys2Proof.Machine.execVfaddVv vd vs2 vs1 w m s
  | .vfsubVv vd vs2 vs1 w m => Sys2Proof.Machine.execVfsubVv vd vs2 vs1 w m s
  | .vfmulVv vd vs2 vs1 w m => Sys2Proof.Machine.execVfmulVv vd vs2 vs1 w m s
  | .vfdivVv vd vs2 vs1 w m => Sys2Proof.Machine.execVfdivVv vd vs2 vs1 w m s
  | .vfminVv vd vs2 vs1 w m => Sys2Proof.Machine.execVfminVv vd vs2 vs1 w m s
  | .vfmaxVv vd vs2 vs1 w m => Sys2Proof.Machine.execVfmaxVv vd vs2 vs1 w m s
  | .vfsgnjVv vd vs2 vs1 w m => Sys2Proof.Machine.execVfsgnjVv vd vs2 vs1 w m s
  | .vfsgnjnVv vd vs2 vs1 w m => Sys2Proof.Machine.execVfsgnjnVv vd vs2 vs1 w m s
  | .vfsgnjxVv vd vs2 vs1 w m => Sys2Proof.Machine.execVfsgnjxVv vd vs2 vs1 w m s
  | .vfmaccVv vd vs2 vs1 w m => Sys2Proof.Machine.execVfmaccVv vd vs2 vs1 w m s
  | .vfnmaccVv vd vs2 vs1 w m => Sys2Proof.Machine.execVfnmaccVv vd vs2 vs1 w m s
  | .vfmsacVv vd vs2 vs1 w m => Sys2Proof.Machine.execVfmsacVv vd vs2 vs1 w m s
  | .vfnmsacVv vd vs2 vs1 w m => Sys2Proof.Machine.execVfnmsacVv vd vs2 vs1 w m s
  | .vfeqVv vd vs2 vs1 w m => Sys2Proof.Machine.execVfeqVv vd vs2 vs1 w m s
  | .vfneVv vd vs2 vs1 w m => Sys2Proof.Machine.execVfneVv vd vs2 vs1 w m s
  | .vfltVv vd vs2 vs1 w m => Sys2Proof.Machine.execVfltVv vd vs2 vs1 w m s
  | .vfleVv vd vs2 vs1 w m => Sys2Proof.Machine.execVfleVv vd vs2 vs1 w m s
  | .vfunVv vd vs2 vs1 w m => Sys2Proof.Machine.execVfunVv vd vs2 vs1 w m s
  | .vfmergeVv vd vs2 vs1 w => Sys2Proof.Machine.execVfmergeVv vd vs2 vs1 w s
  | .vcmul vd vs2 vs1 w m => Sys2Proof.Machine.execVcmul vd vs2 vs1 w m s
  | .vcmac vd vs2 vs1 w m => Sys2Proof.Machine.execVcmac vd vs2 vs1 w m s
  | .vfwmaccVv vd vs2 vs1 w m => Sys2Proof.Machine.execVfwmaccVv vd vs2 vs1 w m s
  | .vcvtup vd vs2 fmt w m => Sys2Proof.Machine.execVcvtup vd vs2 fmt w m s
  | .vcvtdn vd vs2 fmt w m => Sys2Proof.Machine.execVcvtdn vd vs2 fmt w m s
  | .vcvtfi vd vs2 fmt w m => Sys2Proof.Machine.execVcvtfi vd vs2 fmt w m s
  | .vcvtif vd vs2 fmt w m => Sys2Proof.Machine.execVcvtif vd vs2 fmt w m s
  | .vquant vd vs2 vs1 w m => Sys2Proof.Machine.execVquant vd vs2 vs1 w m s
  | .vdequant vd vs2 vs1 w m => Sys2Proof.Machine.execVdequant vd vs2 vs1 w m s
  | .vbscaleVv vd vs2 fmt w m => Sys2Proof.Machine.execVbscaleVv vd vs2 fmt w m s
  | .vbamax vd vs2 w m => Sys2Proof.Machine.execVbamax vd vs2 w m s
  | .vfsqrt vd vs2 w m => Sys2Proof.Machine.execVfsqrt vd vs2 w m s
  | .vfrec vd vs2 w m => Sys2Proof.Machine.execVfrec vd vs2 w m s
  | .vfrsqrt vd vs2 w m => Sys2Proof.Machine.execVfrsqrt vd vs2 w m s
  | .vfclass vd vs2 w m => Sys2Proof.Machine.execVfclass vd vs2 w m s
  | .vfexp2 vd vs2 w m => Sys2Proof.Machine.execVfexp2 vd vs2 w m s
  | .vflog2 vd vs2 w m => Sys2Proof.Machine.execVflog2 vd vs2 w m s
  | .vftanh vd vs2 w m => Sys2Proof.Machine.execVftanh vd vs2 w m s
  | .vfsilu vd vs2 w m => Sys2Proof.Machine.execVfsilu vd vs2 w m s
  | .vfgelu vd vs2 w m => Sys2Proof.Machine.execVfgelu vd vs2 w m s
  | .vfsin vd vs2 w m => Sys2Proof.Machine.execVfsin vd vs2 w m s
  | .vfcos vd vs2 w m => Sys2Proof.Machine.execVfcos vd vs2 w m s
  | .vfabs vd vs2 w m => Sys2Proof.Machine.execVfabs vd vs2 w m s
  | .vfneg vd vs2 w m => Sys2Proof.Machine.execVfneg vd vs2 w m s
  | .vconj vd vs2 w m => Sys2Proof.Machine.execVconj vd vs2 w m s
  | .vfredsum vd vs2 w m => Sys2Proof.Machine.execVfredsum vd vs2 w m s
  | .vfredmax vd vs2 w m => Sys2Proof.Machine.execVfredmax vd vs2 w m s
  | .vfredmin vd vs2 w m => Sys2Proof.Machine.execVfredmin vd vs2 w m s
  | .vfredamax vd vs2 w m => Sys2Proof.Machine.execVfredamax vd vs2 w m s
  | .pfwd vd vs2 w => Sys2Proof.Machine.execPfwd vd vs2 w s
  | .pinv vd vs2 w => Sys2Proof.Machine.execPinv vd vs2 w s
  | .pfwdc vd vs2 w => Sys2Proof.Machine.execPfwdc vd vs2 w s
  | .pinvc vd vs2 w => Sys2Proof.Machine.execPinvc vd vs2 w s
  | .vretag vd vs2 w => Sys2Proof.Machine.execVretag vd vs2 w s
  | .vtagclr vd vs2 w => Sys2Proof.Machine.execVtagclr vd vs2 w s
  | .vfaddVf vd vs2 fs1 w m => Sys2Proof.Machine.execVfaddVf vd vs2 fs1 w m s
  | .vfsubVf vd vs2 fs1 w m => Sys2Proof.Machine.execVfsubVf vd vs2 fs1 w m s
  | .vfmulVf vd vs2 fs1 w m => Sys2Proof.Machine.execVfmulVf vd vs2 fs1 w m s
  | .vfdivVf vd vs2 fs1 w m => Sys2Proof.Machine.execVfdivVf vd vs2 fs1 w m s
  | .vfminVf vd vs2 fs1 w m => Sys2Proof.Machine.execVfminVf vd vs2 fs1 w m s
  | .vfmaxVf vd vs2 fs1 w m => Sys2Proof.Machine.execVfmaxVf vd vs2 fs1 w m s
  | .vfsgnjVf vd vs2 fs1 w m => Sys2Proof.Machine.execVfsgnjVf vd vs2 fs1 w m s
  | .vfsgnjnVf vd vs2 fs1 w m => Sys2Proof.Machine.execVfsgnjnVf vd vs2 fs1 w m s
  | .vfsgnjxVf vd vs2 fs1 w m => Sys2Proof.Machine.execVfsgnjxVf vd vs2 fs1 w m s
  | .vfmaccVf vd vs2 fs1 w m => Sys2Proof.Machine.execVfmaccVf vd vs2 fs1 w m s
  | .vfnmaccVf vd vs2 fs1 w m => Sys2Proof.Machine.execVfnmaccVf vd vs2 fs1 w m s
  | .vfmsacVf vd vs2 fs1 w m => Sys2Proof.Machine.execVfmsacVf vd vs2 fs1 w m s
  | .vfnmsacVf vd vs2 fs1 w m => Sys2Proof.Machine.execVfnmsacVf vd vs2 fs1 w m s
  | .vfeqVf vd vs2 fs1 w m => Sys2Proof.Machine.execVfeqVf vd vs2 fs1 w m s
  | .vfneVf vd vs2 fs1 w m => Sys2Proof.Machine.execVfneVf vd vs2 fs1 w m s
  | .vfltVf vd vs2 fs1 w m => Sys2Proof.Machine.execVfltVf vd vs2 fs1 w m s
  | .vfleVf vd vs2 fs1 w m => Sys2Proof.Machine.execVfleVf vd vs2 fs1 w m s
  | .vfunVf vd vs2 fs1 w m => Sys2Proof.Machine.execVfunVf vd vs2 fs1 w m s
  | .vfmergeVf vd vs2 fs1 w => Sys2Proof.Machine.execVfmergeVf vd vs2 fs1 w s
  | .vfwmaccVf vd vs2 fs1 w m => Sys2Proof.Machine.execVfwmaccVf vd vs2 fs1 w m s
  | .vbscaleVf vd tf fs1 w => Sys2Proof.Machine.execVbscaleVf vd tf fs1 w s
  | .vld vd rs1 w m => Sys2Proof.Machine.execVld vd rs1 w m s
  | .vldFe vd rs1 w m => Sys2Proof.Machine.execVldFe vd rs1 w m s
  | .vldFec vd rs1 w m => Sys2Proof.Machine.execVldFec vd rs1 w m s
  | .vldSc vd rs1 w m => Sys2Proof.Machine.execVldSc vd rs1 w m s
  | .vst vd rs1 w m => Sys2Proof.Machine.execVst vd rs1 w m s
  | .vstFe vd rs1 w m => Sys2Proof.Machine.execVstFe vd rs1 w m s
  | .vstNt vd rs1 w m => Sys2Proof.Machine.execVstNt vd rs1 w m s
  | .vstSc vd rs1 w m => Sys2Proof.Machine.execVstSc vd rs1 w m s
  | .vlds vd rs1 rs2 w m => Sys2Proof.Machine.execVlds vd rs1 rs2 w m s
  | .vldsFe vd rs1 rs2 w m => Sys2Proof.Machine.execVldsFe vd rs1 rs2 w m s
  | .vsts vd rs1 rs2 w m => Sys2Proof.Machine.execVsts vd rs1 rs2 w m s
  | .vstsFe vd rs1 rs2 w m => Sys2Proof.Machine.execVstsFe vd rs1 rs2 w m s
  | .vldx vd rs1 vs2 w m => Sys2Proof.Machine.execVldx vd rs1 vs2 w m s
  | .vldxFe vd rs1 vs2 w m => Sys2Proof.Machine.execVldxFe vd rs1 vs2 w m s
  | .vstx vd rs1 vs2 w m => Sys2Proof.Machine.execVstx vd rs1 vs2 w m s
  | .vstxFe vd rs1 vs2 w m => Sys2Proof.Machine.execVstxFe vd rs1 vs2 w m s
  | .vbadd vd vs2 rs1 w m => Sys2Proof.Machine.execVbadd vd vs2 rs1 w m s
  | .vbfadd vd vs2 rs1 w m => Sys2Proof.Machine.execVbfadd vd vs2 rs1 w m s
  | .vbfmax vd vs2 rs1 w m => Sys2Proof.Machine.execVbfmax vd vs2 rs1 w m s
  | .vbor vd vs2 rs1 w m => Sys2Proof.Machine.execVbor vd vs2 rs1 w m s
  | .vlock vd vs2 rs1 w m => Sys2Proof.Machine.execVlock vd vs2 rs1 w m s
  | .vunlock vd vs2 rs1 w m => Sys2Proof.Machine.execVunlock vd vs2 rs1 w m s
  | .vfabget vd vs2 rs1 w m => Sys2Proof.Machine.execVfabget vd vs2 rs1 w m s
  | .vfabput vd vs2 rs1 w m => Sys2Proof.Machine.execVfabput vd vs2 rs1 w m s
  | .join => Sys2Proof.Machine.execJoin s
  | .nend => Sys2Proof.Machine.execNend s
  | .meet k => Sys2Proof.Machine.execMeet k s
  | .yield => Sys2Proof.Machine.execYield s
  | .bfree bd => Sys2Proof.Machine.execBfree bd s
  | .blim rd bs => Sys2Proof.Machine.execBlim rd bs s
  | .bptr rd bs => Sys2Proof.Machine.execBptr rd bs s
  | .feclr cls num => Sys2Proof.Machine.execFeclr cls num s
  | .vfeclr vd => Sys2Proof.Machine.execVfeclr vd s
  | .barInit rs1 w1 => Sys2Proof.Machine.execBarInit rs1 w1 s
  | .barExp rs1 rs2 w1 w2 => Sys2Proof.Machine.execBarExp rs1 rs2 w1 w2 s
  | .barArr rs1 rs2 scope w1 w2 => Sys2Proof.Machine.execBarArr rs1 rs2 scope w1 w2 s
  | .barWait rs1 rs2 scope w1 w2 => Sys2Proof.Machine.execBarWait rs1 rs2 scope w1 w2 s
  | .vdrain => Sys2Proof.Machine.execVdrain s
  | .fenceS kind scope => Sys2Proof.Machine.execFenceS kind scope s
  | .lpost rd rs1 w1 => Sys2Proof.Machine.execLpost rd rs1 w1 s
  | .tret => Sys2Proof.Machine.execTret s
  | .ctxsave rd rs1 rs2 w1 w2 => Sys2Proof.Machine.execCtxsave rd rs1 rs2 w1 w2 s
  | .ctxload rd rs1 rs2 w1 w2 => Sys2Proof.Machine.execCtxload rd rs1 rs2 w1 w2 s
  | .chold rs1 w1 => Sys2Proof.Machine.execChold rs1 w1 s
  | .fabld rd rs1 w1 => Sys2Proof.Machine.execFabld rd rs1 w1 s
  | .fabst rs1 rs2 w1 w2 => Sys2Proof.Machine.execFabst rs1 rs2 w1 w2 s
  | .fabadd rd rs1 rs2 w1 w2 => Sys2Proof.Machine.execFabadd rd rs1 rs2 w1 w2 s
  | .fabcas rd rs1 rs2 w1 w2 => Sys2Proof.Machine.execFabcas rd rs1 rs2 w1 w2 s
  | .fabswp rd rs1 rs2 w1 w2 => Sys2Proof.Machine.execFabswp rd rs1 rs2 w1 w2 s
  | .fabfl => Sys2Proof.Machine.execFabfl s
  | .fabred rs1 rs2 w1 w2 => Sys2Proof.Machine.execFabred rs1 rs2 w1 w2 s
  | .fabrw rd rs1 w1 => Sys2Proof.Machine.execFabrw rd rs1 w1 s
  | .cres rs1 w1 => Sys2Proof.Machine.execCres rs1 w1 s
  | .halt => Sys2Proof.Machine.execHalt s
  | .scrub rd rs1 w1 => Sys2Proof.Machine.execScrub rd rs1 w1 s
  | .bslot bd imm rs1 => Sys2Proof.Machine.execBslot bd imm rs1 s
  | .loop rs1 off w1 => Sys2Proof.Machine.execLoop rs1 off w1 s
  | .lbrk => Sys2Proof.Machine.execLbrk s
  | .lnext => Sys2Proof.Machine.execLnext s
  | .vstrip off => Sys2Proof.Machine.execVstrip off s
  | .fork off => Sys2Proof.Machine.execFork off s
  | .vlset rd rs1 fmt grp y w1 => Sys2Proof.Machine.execVlset rd rs1 fmt grp y w1 s
  | .mtset rd rs1 w1 => Sys2Proof.Machine.execMtset rd rs1 w1 s
  | .mwld rs1 fmt w1 => Sys2Proof.Machine.execMwld rs1 fmt w1 s
  | .mgath vs rs1 w => Sys2Proof.Machine.execMgath vs rs1 w s
  | .mmac zd rs1 fmt w1 => Sys2Proof.Machine.execMmac zd rs1 fmt w1 s
  | .mmacz zd rs1 fmt w1 => Sys2Proof.Machine.execMmacz zd rs1 fmt w1 s
  | .mzero zd => Sys2Proof.Machine.execMzero zd s
  | .mrd vd zs w => Sys2Proof.Machine.execMrd vd zs w s
  | .mst zs rs1 w1 => Sys2Proof.Machine.execMst zs rs1 w1 s
  | .mcode rs1 w1 => Sys2Proof.Machine.execMcode rs1 w1 s
  | .ystr vd rs1 w => Sys2Proof.Machine.execYstr vd rs1 w s
  | .yend vd => Sys2Proof.Machine.execYend vd s
  | .yld rd vd rs1 w => Sys2Proof.Machine.execYld rd vd rs1 w s
  | .yst rd vd rs1 w => Sys2Proof.Machine.execYst rd vd rs1 w s
  | .yxfer rd vd rs1 w => Sys2Proof.Machine.execYxfer rd vd rs1 w s
  | .ytile rd rs1 w1 => Sys2Proof.Machine.execYtile rd rs1 w1 s
  | .engineQueueEntry a q => Sys2Proof.Machine.execEngineQueueEntry a q s
  | .matrixQueueEntry a => Sys2Proof.Machine.execMatrixQueueEntry a s
  | .waitSatisfied a n => Sys2Proof.Machine.execWaitSatisfied a n s
  | .copyChunk a k => Sys2Proof.Machine.execCopyChunk a k s
  | .copyCompletion a k => Sys2Proof.Machine.execCopyCompletion a k s
  | .streamReadAhead a v => Sys2Proof.Machine.execStreamReadAhead a v s
  | .streamWriteOut a v => Sys2Proof.Machine.execStreamWriteOut a v s
  | .preemptionHonoured c => Sys2Proof.Machine.execPreemptionHonoured c s
  | .yieldWindowExpiry c => Sys2Proof.Machine.execYieldWindowExpiry c s
  | .managerEventEntry h => Sys2Proof.Machine.execManagerEventEntry h s
  | .skeinWrite h => Sys2Proof.Machine.execSkeinWrite h s
  | .qtailWrite vf v => Sys2Proof.Machine.execQtailWrite vf v s
  | .recordTake vf => Sys2Proof.Machine.execRecordTake vf s
  | .nodeDispatch p ids units => Sys2Proof.Machine.execNodeDispatch p ids units s
  | .nodeCompletion p handle => Sys2Proof.Machine.execNodeCompletion p handle s
  | .agingIntervalExpiry p handle => Sys2Proof.Machine.execAgingIntervalExpiry p handle s
  | .gangReservation p => Sys2Proof.Machine.execGangReservation p s
  | .qosExpiry p => Sys2Proof.Machine.execQosExpiry p s
  | .holdGateWrite p gate en base limit => Sys2Proof.Machine.execHoldGateWrite p gate en base limit s
  | .gateDrained p gate => Sys2Proof.Machine.execGateDrained p gate s
  | .coalescingTimerExpiry vf => Sys2Proof.Machine.execCoalescingTimerExpiry vf s
  | .functionLevelReset vf => Sys2Proof.Machine.execFunctionLevelReset vf s
  | .scrubBlock vf => Sys2Proof.Machine.execScrubBlock vf s
  | .cxlMemAccess vf win off acc => Sys2Proof.Machine.execCxlMemAccess vf win off acc s
  | .ckill p c => Sys2Proof.Machine.execCkill p c s
  | .revoke p key => Sys2Proof.Machine.execRevoke p key s
  | .evhubWrite p v => Sys2Proof.Machine.execEvhubWrite p v s
  | .cablemaskWrite h v => Sys2Proof.Machine.execCablemaskWrite h v s
  | .gaugetabWrite h v => Sys2Proof.Machine.execGaugetabWrite h v s
  | .keyGenerate id => Sys2Proof.Machine.execKeyGenerate id s
  | .keyDestroy id => Sys2Proof.Machine.execKeyDestroy id s
  | .vprogWrite a v => Sys2Proof.Machine.execVprogWrite a v s
  | .registerWrite r v => Sys2Proof.Machine.execRegisterWrite r v s
  | .gaugeGrant phub phbm hot => Sys2Proof.Machine.execGaugeGrant phub phbm hot s
  | .thermalShutdown => Sys2Proof.Machine.execThermalShutdown s
  | .plimitSet watts => Sys2Proof.Machine.execPlimitSet watts s
  | .fabricLoad p pk => Sys2Proof.Machine.execFabricLoad p pk s
  | .fabricStore p pk => Sys2Proof.Machine.execFabricStore p pk s
  | .fabricFetchAdd p pk => Sys2Proof.Machine.execFabricFetchAdd p pk s
  | .fabricCompareAndSwap p pk => Sys2Proof.Machine.execFabricCompareAndSwap p pk s
  | .fabricSwap p pk => Sys2Proof.Machine.execFabricSwap p pk s
  | .fabricContribution p pk => Sys2Proof.Machine.execFabricContribution p pk s
  | .fabricIndexedGet p pk => Sys2Proof.Machine.execFabricIndexedGet p pk s
  | .fabricIndexedPut p pk => Sys2Proof.Machine.execFabricIndexedPut p pk s
  | .fabricAcknowledgementOnly p pk => Sys2Proof.Machine.execFabricAcknowledgementOnly p pk s
  | .fabricClose p pk => Sys2Proof.Machine.execFabricClose p pk s
  | .fabricReply p pk => Sys2Proof.Machine.execFabricReply p pk s
  | .retransmissionTimer p => Sys2Proof.Machine.execRetransmissionTimer p s
  | .deviceReset w found => Sys2Proof.Machine.execDeviceReset w found s
  | .getVersion request => Sys2Proof.Machine.execGetVersion request s
  | .getCapabilities request => Sys2Proof.Machine.execGetCapabilities request s
  | .negotiateAlgorithms request => Sys2Proof.Machine.execNegotiateAlgorithms request s
  | .getDigests request => Sys2Proof.Machine.execGetDigests request s
  | .getCertificate request => Sys2Proof.Machine.execGetCertificate request s
  | .challenge request => Sys2Proof.Machine.execChallenge request s
  | .getMeasurements request => Sys2Proof.Machine.execGetMeasurements request s
  | .msiXVectorUnmask vf vec => Sys2Proof.Machine.execMsiXVectorUnmask vf vec s

end Sys2Proof.Machine
end

