-- ==== Sys2Proof/Machine/Step.lean ====
section
/-! DEFINITION. One step of the machine, and placing an instruction where the next step fetches it. -/

namespace Sys2Proof.Machine
open Sys2Proof

/-- A needle's turn: it stops at a yield point when a request waits (R41); else it fetches a word, checks it (R198) and
executes it. A needle that cannot run lets the turn pass. -/
noncomputable def stepNeedle (s : State) (a : Agent) (n : Needle) : Host.Outcome State Fault Refusal :=
  let s := s.beginTurn a n
  if !s.mayRun a n then .next s
  else if s.my.request.isSome && s.my.atYieldPoint n then finish s [] (s, .yieldStop)
  else
    match s.fetchFault s.my s.pc with
    | some (e, v0, v1) => finish s [] (s, .trap e v0 v1)
    | none =>
      let s := { s with ir := s.fetchWord s.my s.pc }
      match decode s.ir with
      | .ok i => exec i s
      | .error _ => finish s [] (illegal s)

/-- The turn that comes next: the first of those given, else the model's own choice. -/
noncomputable def State.nextTurn (s : State) : Turn × State :=
  match s.turns with
  | t :: ts => (t, { s with turns := ts })
  | [] => (s.defaultTurn, s)

/-- A turn is taken. Of two whose writes race, the late units of the first are accepted after the second's (R32). -/
noncomputable def stepTurn : Turn → State → Host.Outcome State Fault Refusal
  | .needle a n, s => stepNeedle s a n
  | .event i, s =>
    if i.hasWord then .fault .turnIsNoEvent
    else if s.heeds i then exec i { s with tick := s.tick + 1 } else .next { s with tick := s.tick + 1 }
  | .race t a late u, s =>
    match stepTurn t s with
    | .next s₁ =>
      if t.racesWith a u then
        match stepTurn u (s.holdBack s₁ a late) with
        | .next s₂ => .next (s.landLate s₁ s₂ a late)
        | r => r
      else stepTurn u s₁
    | r => r

/-- One step: the next turn is taken. -/
noncomputable def step (s : State) : Host.Outcome State Fault Refusal := stepTurn s.nextTurn.1 s.nextTurn.2

/-- The state in which the very next step fetches and runs the given instruction: its word stands at the pc of hub core
0, whose slot 0 is made to hold it (DESIGN CHOICE, log entry 4). -/
def State.withFetchWord (s : State) (nbits w : Nat) : State :=
  let c := s.regs (.hub 0)
  let d := c.nS
  let s := { s with cur := (.hub 0, .S), turns := [.needle (.hub 0) .S] }
  let e : SlotEntry := { c.slot0 with present := true, code := true, key := 0#7, base := 0#48, limit := BitVec.ofNat 48 (d.pc.toNat + 4) }
  let s := s.setRegs (.hub 0) { c with slot0 := e }
  s.write 0 (d.pc.extractLsb' 0 48).toNat 4 (w % 2 ^ nbits % 2 ^ 32)

end Sys2Proof.Machine
end

