-- ==== Sys2Proof/Safety.lean ====
section
/-! DEFINITION. The terms that statements use: good states, when an instruction issues, how one ends, and what two states
have in common. -/

namespace Sys2Proof.Machine
open Sys2Proof

/-! ## Good states -/

/-- Memory stands in its canonical form: addresses rise strictly and no listed byte reads as an unlisted one does. -/
def State.memOk (s : State) : Prop := Memory.wf s.mem = true

/-- Bounds on an agent's registers: six open loop levels on a needle (R24), the gauge's 48 bits of pJ and its fraction (R355), 16 reductions
under way (R413). -/
structure Ctx.Bounded (c : Ctx) : Prop where
  loops : ∀ n, (c.needle n).loops.length ≤ 6
  gauge : c.gauge < 2 ^ 52
  reds : c.reds.length ≤ 16

/-- A partition's tables: every node of its Loom has a handle of its own, from 1 to 32,767, and there are no more of them (R337); a source has one
sequence under an id (R399), and the reply cache holds 65,536 answers at most (R400). -/
structure Part.Sound (p : Part) : Prop where
  distinct : (p.nodes.map (·.handle)).Nodup
  handles : ∀ d ∈ p.nodes, 1 ≤ d.handle ∧ d.handle ≤ 32767
  nodes : p.nodes.length ≤ 32767
  sequences : (p.ownerSeqs.map (fun q => (q.src, q.sid))).Nodup
  cache : p.cache.length ≤ 65536

/-! ## Which needles may execute an instruction (R15) -/

/-- The class of R15's table that an instruction belongs to; `none` for a step that no needle executes. -/
def issueClass : Instr → Option Class
  | .lui .. | .auipc .. | .jal .. | .jalr .. | .beq .. | .bne .. | .blt .. | .bge .. | .bltu .. | .bgeu .. | .addi .. | .slti .. | .sltiu ..
  | .xori .. | .ori .. | .andi .. | .slli .. | .srli .. | .srai .. | .addiw .. | .slliw .. | .srliw .. | .sraiw .. | .add .. | .sll .. | .slt ..
  | .sltu .. | .xor .. | .srl .. | .or .. | .and .. | .sub .. | .sra .. | .addw .. | .sllw .. | .srlw .. | .subw .. | .sraw .. | .nend .. | .meet ..
  | .loop .. | .lbrk .. | .lnext .. | .vstrip .. | .vlset .. => some .base
  | .lb .. | .lh .. | .lw .. | .ld .. | .lbu .. | .lhu .. | .lwu .. | .sb .. | .sh .. | .sw .. | .sd .. | .mul .. | .mulh .. | .mulhsu .. | .mulhu ..
  | .div .. | .divu .. | .rem .. | .remu .. | .mulw .. | .divw .. | .divuw .. | .remw .. | .remuw .. | .fence .. | .ecall .. | .ebreak .. | .csrrw ..
  | .csrrs .. | .csrrc .. | .csrrwi .. | .csrrsi .. | .csrrci .. | .lrW .. | .scW .. | .amoswapW .. | .amoaddW .. | .amoxorW .. | .amoandW ..
  | .amoorW .. | .amominW .. | .amomaxW .. | .amominuW .. | .amomaxuW .. | .lrD .. | .scD .. | .amoswapD .. | .amoaddD .. | .amoxorD .. | .amoandD ..
  | .amoorD .. | .amominD .. | .amomaxD .. | .amominuD .. | .amomaxuD .. | .fld .. | .fsd .. | .fmaddD .. | .fmsubD .. | .fnmsubD .. | .fnmaddD ..
  | .faddD .. | .fsubD .. | .fmulD .. | .fdivD .. | .fsqrtD .. | .fsgnjD .. | .fsgnjnD .. | .fsgnjxD .. | .fminD .. | .fmaxD .. | .fleD .. | .fltD ..
  | .feqD .. | .fclassD .. | .fmvXD .. | .fmvDX .. | .fcvtWD .. | .fcvtWuD .. | .fcvtLD .. | .fcvtLuD .. | .fcvtDW .. | .fcvtDWu .. | .fcvtDL ..
  | .fcvtDLu .. | .vld .. | .vldFe .. | .vldFec .. | .vldSc .. | .vst .. | .vstFe .. | .vstNt .. | .vstSc .. | .vlds .. | .vldsFe .. | .vsts ..
  | .vstsFe .. | .vldx .. | .vldxFe .. | .vstx .. | .vstxFe .. | .vbadd .. | .vbfadd .. | .vbfmax .. | .vbor .. | .vlock .. | .vunlock ..
  | .vfabget .. | .vfabput .. | .join .. | .yield .. | .bfree .. | .blim .. | .bptr .. | .feclr .. | .vfeclr .. | .barInit .. | .barExp ..
  | .barArr .. | .barWait .. | .vdrain .. | .fenceS .. | .lpost .. | .fabld .. | .fabst .. | .fabadd .. | .fabcas .. | .fabswp .. | .fabfl ..
  | .fabred .. | .fabrw .. | .bslot .. | .fork .. => some .sOnly
  | .vaddVv .. | .vsubVv .. | .vmulVv .. | .vmulhVv .. | .vmulhuVv .. | .vdivVv .. | .vdivuVv .. | .vremVv .. | .vremuVv .. | .vminVv .. | .vminuVv ..
  | .vmaxVv .. | .vmaxuVv .. | .vandVv .. | .vorVv .. | .vxorVv .. | .vsllVv .. | .vsrlVv .. | .vsraVv .. | .vsaddVv .. | .vsadduVv .. | .vssubVv ..
  | .vssubuVv .. | .vseqVv .. | .vsneVv .. | .vsltVv .. | .vsltuVv .. | .vsleVv .. | .vsleuVv .. | .vmergeVv .. | .vperm .. | .vmv .. | .vid ..
  | .viota .. | .vcompress .. | .vredsum .. | .vredmin .. | .vredminu .. | .vredmax .. | .vredmaxu .. | .vredand .. | .vredor .. | .vredxor ..
  | .vmpopc .. | .vmfirst .. | .vabs .. | .vneg .. | .vnot .. | .vclz .. | .vpopcnt .. | .vsext .. | .vzext .. | .vnclip .. | .vnclipu .. | .vaddVx ..
  | .vsubVx .. | .vmulVx .. | .vmulhVx .. | .vmulhuVx .. | .vdivVx .. | .vdivuVx .. | .vremVx .. | .vremuVx .. | .vminVx .. | .vminuVx .. | .vmaxVx ..
  | .vmaxuVx .. | .vandVx .. | .vorVx .. | .vxorVx .. | .vsllVx .. | .vsrlVx .. | .vsraVx .. | .vsaddVx .. | .vsadduVx .. | .vssubVx .. | .vssubuVx ..
  | .vseqVx .. | .vsneVx .. | .vsltVx .. | .vsltuVx .. | .vsleVx .. | .vsleuVx .. | .vmergeVx .. | .vslideup .. | .vslidedn .. | .vfaddVv ..
  | .vfsubVv .. | .vfmulVv .. | .vfdivVv .. | .vfminVv .. | .vfmaxVv .. | .vfsgnjVv .. | .vfsgnjnVv .. | .vfsgnjxVv .. | .vfmaccVv .. | .vfnmaccVv ..
  | .vfmsacVv .. | .vfnmsacVv .. | .vfeqVv .. | .vfneVv .. | .vfltVv .. | .vfleVv .. | .vfunVv .. | .vfmergeVv .. | .vcmul .. | .vcmac ..
  | .vfwmaccVv .. | .vcvtup .. | .vcvtdn .. | .vcvtfi .. | .vcvtif .. | .vquant .. | .vdequant .. | .vbscaleVv .. | .vbamax .. | .vfsqrt ..
  | .vfrec .. | .vfrsqrt .. | .vfclass .. | .vfexp2 .. | .vflog2 .. | .vftanh .. | .vfsilu .. | .vfgelu .. | .vfsin .. | .vfcos .. | .vfabs ..
  | .vfneg .. | .vconj .. | .vfredsum .. | .vfredmax .. | .vfredmin .. | .vfredamax .. | .pfwd .. | .pinv .. | .pfwdc .. | .pinvc .. | .vretag ..
  | .vtagclr .. | .vfaddVf .. | .vfsubVf .. | .vfmulVf .. | .vfdivVf .. | .vfminVf .. | .vfmaxVf .. | .vfsgnjVf .. | .vfsgnjnVf .. | .vfsgnjxVf ..
  | .vfmaccVf .. | .vfnmaccVf .. | .vfmsacVf .. | .vfnmsacVf .. | .vfeqVf .. | .vfneVf .. | .vfltVf .. | .vfleVf .. | .vfunVf .. | .vfmergeVf ..
  | .vfwmaccVf .. | .vbscaleVf .. => some .vector
  | .mtset .. | .mwld .. | .mgath .. | .mmac .. | .mmacz .. | .mzero .. | .mrd .. | .mst .. | .mcode .. => some .matrix
  | .ystr .. | .yend .. | .yld .. | .yst .. | .yxfer .. | .ytile .. => some .copy
  | .tret .. | .ctxsave .. | .ctxload .. | .chold .. | .cres .. | .halt .. | .scrub .. => some .manager
  | .engineQueueEntry .. | .matrixQueueEntry .. | .waitSatisfied .. | .copyChunk .. | .copyCompletion .. | .streamReadAhead .. | .streamWriteOut ..
  | .preemptionHonoured .. | .yieldWindowExpiry .. | .managerEventEntry .. | .skeinWrite .. | .qtailWrite .. | .recordTake .. | .nodeDispatch ..
  | .nodeCompletion .. | .agingIntervalExpiry .. | .gangReservation .. | .qosExpiry .. | .holdGateWrite .. | .gateDrained ..
  | .coalescingTimerExpiry .. | .functionLevelReset .. | .scrubBlock .. | .cxlMemAccess .. | .ckill .. | .revoke .. | .evhubWrite ..
  | .cablemaskWrite .. | .gaugetabWrite .. | .keyGenerate .. | .keyDestroy .. | .vprogWrite .. | .registerWrite .. | .gaugeGrant ..
  | .thermalShutdown .. | .plimitSet .. | .fabricLoad .. | .fabricStore .. | .fabricFetchAdd .. | .fabricCompareAndSwap .. | .fabricSwap ..
  | .fabricContribution .. | .fabricIndexedGet .. | .fabricIndexedPut .. | .fabricAcknowledgementOnly .. | .fabricClose .. | .fabricReply ..
  | .retransmissionTimer .. | .deviceReset .. | .getVersion .. | .getCapabilities .. | .negotiateAlgorithms .. | .getDigests .. | .getCertificate ..
  | .challenge .. | .getMeasurements .. | .msiXVectorUnmask .. => none

/-! ## When an instruction issues (R15, R16, R28, R31, R120, R198, R361) -/

/-- A source register that an instruction finds full (R31). -/
def Src.ready (c : Ctx) : Src → Prop
  | .x r _ => c.isFullX r = true
  | .f r _ => c.isFullF r = true
  | .z r _ => (c.getZ r).full = true
  | .v r n _ => ∀ k, k < n → (c.getV (BitVec.ofNat 6 (r.toNat + k))).full = true

/-- No asynchronous fault waits to be delivered by a read of one of these registers (R361). -/
def Ctx.undelivered (c : Ctx) (srcs : List Src) : Prop :=
  ∀ p ∈ c.pend, ∀ r, p.xd = some r → r ≠ 0#5 → ∀ q ∈ srcs, q.isX r = false

/-- An instruction of a class passes the checks that come before its own: its needle may execute it in its mode (R198 orders
3 and 4), nothing interlocks it (R28), its sources are full and no read of them delivers a fault (R31, R361)
or is a load of a fabric read (R408). -/
structure State.Allowed (s : State) (k : Class) (srcs : List Src) : Prop where
  clear : s.my.interlocked s.ndl k = false
  mode : k = .manager → isManager s.who = true
  needle : k.allows s.ndl = true
  inline : s.ndl = .S → k.inlineAllowed s.my = true
  full : ∀ q ∈ srcs, q.ready s.my
  quiet : s.my.undelivered srcs
  /-- S has read each source since a fabric read wrote it: a first read also makes that a load for the next acquire half (R408). -/
  known : s.ndl = .S → s.my.unseen srcs = false

/-- It is allowed, and the loop return that it makes on going on in sequence, when it makes one, has a good target (R120). -/
structure State.Issues (s : State) (k : Class) (srcs : List Src) : Prop extends State.Allowed s k srcs where
  back : s.my.returnFault s.ndl = none

/-- A control target that passes the check of R120: slot 0, no reserved bit, below slot 0's limit, a multiple of 4. -/
def Ctx.goodTarget (c : Ctx) (t : Word) : Prop := t.toNat < 2 ^ 48 ∧ t.toNat < c.slot0.limit.toNat ∧ t.toNat % 4 = 0

/-! ## How an instruction ends -/

/-- It retires: from the state `t` that its own effect leaves, the needle goes on in sequence, one more instruction is counted
with its charge, and a debug step ends (R25, R193, R355, R382). -/
def State.retired (s : State) (q : Charge) (t : State) : State := ((t.onMy (·.advance s.ndl)).retireCount q).endStep s.ndl s.pc

/-- It retires by a transfer of control to a target (R26). -/
def State.jumped (s : State) (q : Charge) (t : State) (targ : Word) : State :=
  ((t.onMy (·.goTo s.ndl targ)).retireCount q).endStep s.ndl s.pc

/-- It retires and its own effect has placed the needle. -/
def State.placed (s : State) (q : Charge) (t : State) : State := (t.retireCount q).endStep s.ndl s.pc

/-- It writes x[rd] and retires. -/
def State.givesX (s : State) (q : Charge) (rd : XReg) (v : Word) : State := s.retired q (s.onMy (·.setX rd v))

/-- It writes f[fd], accrues flags and retires. -/
def State.givesF (s : State) (q : Charge) (fd : FReg) (r : Rounded) : State :=
  s.retired q (s.onMy (fun c => (c.setF fd (BitVec.ofNat 64 r.bits)).accrue r.flags))

/-- It writes x[rd], accrues flags and retires. -/
def State.givesXF (s : State) (q : Charge) (rd : XReg) (v : Word) (fl : FFlags) : State :=
  s.retired q (s.onMy (fun c => (c.setX rd v).accrue fl))

/-- It raises a trap at itself (R44, R359). -/
def State.trapped (s : State) (e : BitVec 8) (v0 v1 : Word) : State := s.takeTrap s.who s.ndl e v0 v1 s.pc s.pc

/-- Its needle blocks (R13). -/
def State.blockedIn (s : State) (w : Wait) : State := s.onMy (fun c => c.setNeedle s.ndl { c.needle s.ndl with run := .blocked w })

/-- The needle stands where a loop step leads: its pc, its open levels, and whether an iteration begins. -/
def State.sentTo (s : State) (r : Word × List Level × Bool) : State :=
  s.onMy (fun c => c.setNeedle s.ndl
    { c.needle s.ndl with pc := r.1, loops := r.2.1, fresh := r.2.2, run := .running, atYield := false, forkWait := 0 })

/-! ## Vector instructions on needle V (R15, R38, R139, R191, R226, R229, R231, R251, R285) -/

/-- V executes a vector instruction from its start and nothing stops it part way: it issues (its x or f source, its source groups and, when it is
masked, v0 are full), no lane barrier of S is under way, no debug step is under way, no register is in yarn mode, no register word is uncorrectable, its groups are
aligned, a masked destination is not v0, and some element is left. -/
structure State.RunsV (s : State) (w m : Bool) (vd : VReg) (nd : Nat) (xs : List Src) (gs : List (VReg × Nat)) : Prop where
  issues : s.Issues .vector (xs ++ gs.map (fun g => .v g.1 g.2 w) ++ if m then [.v 0#6 1 w] else [])
  onV : s.ndl = .V
  start : s.my.nV.part = none
  free : s.my.barred = false
  whole : s.my.stepping = false
  plain : ∀ r, (s.my.getV r).stream = none
  sound : s.badRegs s.who = []
  dst : vd.toNat % nd = 0 ∧ vd.toNat + nd ≤ 64
  src : ∀ g ∈ gs, g.1.toNat % g.2 = 0 ∧ g.1.toNat + g.2 ≤ 64
  mask : m = true → vd ≠ 0#6
  some : s.my.vbeg.toNat < s.my.strip.vl.toNat

/-- S executes a vector memory instruction from its start and nothing stops it part way: it issues, no inline work of its own is left (R28), no register is
in yarn mode, no register word is uncorrectable, its source groups are aligned. -/
structure State.RunsMem (s : State) (w m : Bool) (xs : List Src) (gs : List (VReg × Nat)) : Prop where
  issues : s.Issues .sOnly (xs ++ gs.map (fun g => .v g.1 g.2 w) ++ if m then [.v 0#6 1 w] else [])
  start : (s.my.needle s.ndl).part = none
  free : s.my.memHeld = false
  plain : ∀ r, (s.my.getV r).stream = none
  sound : s.badRegs s.who = []
  src : ∀ g ∈ gs, g.1.toNat % g.2 = 0 ∧ g.1.toNat + g.2 ≤ 64

/-- Every register of these groups holds spatial data (R232, R251). -/
def Ctx.Spatial (c : Ctx) (gs : List (VReg × Nat)) : Prop :=
  ∀ g ∈ gs, ∀ k, k < g.2 → (c.getV (BitVec.ofNat 6 (g.1.toNat + k))).tag.extractLsb' 4 2 = 0#2

/-- Every register of these groups has the same tag. -/
def Ctx.SameTag (c : Ctx) (gs : List (VReg × Nat)) (tag : BitVec 6) : Prop :=
  ∀ g ∈ gs, ∀ k, k < g.2 → (c.getV (BitVec.ofNat 6 (g.1.toNat + k))).tag = tag

/-- Two register groups share no register. -/
def Apart (a : VReg × Nat) (b : VReg × Nat) : Prop := a.1.toNat + a.2 ≤ b.1.toNat ∨ b.1.toNat + b.2 ≤ a.1.toNat

/-- Lanes, format, element bits and group size in force. -/
def State.myLanes (s : State) : List Nat := lanesOf (s.lanemap s.who)
def State.fmt (s : State) : Nat := vtypeFmt s.my.strip.vtype
def State.eb (s : State) : Nat := formatBits s.fmt
def State.grp (s : State) : Nat := vtypeGroup s.my.strip.vtype

/-- Element `j` of `w` bits of the group at a register (R34). -/
def State.elem (s : State) (r : VReg) (w j : Nat) : Nat := s.my.elt s.myLanes r.toNat w j

/-- Mask bit `j` (R229). -/
def State.bit (s : State) (r : VReg) (j : Nat) : Bool := s.my.maskBit s.myLanes r.toNat j

/-- Elements `vbeg` to `vl` − 1, and those of them that are active (R230). -/
def State.span (s : State) : List Nat := (List.range (s.my.strip.vl.toNat - s.my.vbeg.toNat)).map (s.my.vbeg.toNat + ·)
def State.acts (s : State) (m : Bool) : List Nat := s.span.filter (fun j => !m || s.bit 0#6 j)

/-- Element groups of a run, which the gauge charges (R356). -/
def State.groups (s : State) : Nat := (s.my.strip.vl.toNat - s.my.vbeg.toNat + s.myLanes.length - 1) / s.myLanes.length

/-- A vector instruction completes on V: the elements listed are written to its destination group, whose registers take the tag, become
full and dirty and hold `n` elements; flags and sticky bits accrue, the charge is made, `vbeg` becomes 0, and it retires. -/
def State.vGives (s : State) (q : Charge) (d : Group) (n : Nat) (tag : BitVec 6) (o : VOut) : State :=
  s.retired [] (((((s.putGroup s.who s.myLanes d o.puts).onRegs s.who (fun c => c.markV d s.myLanes.length n tag true)).onRegs s.who
    (fun c => (c.accrue o.flags).accrueQ o.q)).charge s.who q).onMy (fun c => { c with vbeg := 0#64 }))

/-- An instruction that reads these sources in this order ends at the first that is empty: with its w bit set it blocks, else it raises
register empty (0x07) with the register's number, f registers from 256, v from 512 and z from 768 (R31). -/
def State.EmptyStops (s : State) (i : Instr) (srcs : List Src) : Prop :=
  ∀ before src after, srcs = before ++ src :: after → (∀ q ∈ before, q.ready s.my) →
    let ends (w : Bool) (reg : Nat) : Prop := exec i s = .next (if w then s.blockedIn .full else s.trapped 0x07#8 (BitVec.ofNat 64 reg) 0#64)
    (∀ r w, src = .x r w → s.my.isFullX r = false → ends w r.toNat) ∧
    (∀ r w, src = .f r w → s.my.isFullF r = false → ends w (256 + r.toNat)) ∧
    (∀ r w, src = .z r w → (s.my.getZ r).full = false → ends w (768 + r.toNat)) ∧
    (∀ r n w k, src = .v r n w → r.toNat + n ≤ 64 → k < n → (s.my.getV (BitVec.ofNat 6 (r.toNat + k))).full = false →
      (∀ j, j < k → (s.my.getV (BitVec.ofNat 6 (r.toNat + j))).full = true) → ends w (512 + r.toNat + k))

/-! ## What two states have in common -/

/-- Every byte of memory reads the same under every key. -/
def SameMemory (s t : State) : Prop := ∀ key a, t.byteAt key a = s.byteAt key a

/-- Byte `x` reads under key id `key'` as before when `n` bytes at `a` are stored under key id `key`: it lies outside them, and it is not
in an HBM line that the store touches, unless it is read under the store's own key (R422). -/
def Untouched (key a n key' x : Nat) : Prop :=
  (x < a ∨ a + n ≤ x) ∧ (key' = key ∨ hbmEnd ≤ x ∨ x / lineSize < a / lineSize ∨ (a + n - 1) / lineSize < x / lineSize)

/-- A key under which a byte can be written and read: any outside HBM, in HBM one that is valid (R422). -/
def State.keyValid (s : State) (key a : Nat) : Prop := a < hbmEnd → (Sparse.find s.keys key).isSome = true

/-- What writes leave in memory, each of them an access, a number of bytes and a value, in their order: a byte that none of them touches reads
as before, and the bytes of each, lowest first, read back under its key where no later one touches them. -/
def Leaves (s t : State) (ws : List (Access × Nat × Nat)) : Prop :=
  (∀ key x, (∀ w ∈ ws, Untouched w.1.key w.1.phys w.2.1 key x) → t.byteAt key x = s.byteAt key x) ∧
  ∀ pre w post, ws = pre ++ w :: post → ∀ k, k < w.2.1 → s.keyValid w.1.key (w.1.phys + k) →
    (∀ u ∈ post, Untouched u.1.key u.1.phys u.2.1 w.1.key (w.1.phys + k)) → t.byteAt w.1.key (w.1.phys + k) = BitVec.ofNat 8 (w.2.2 / 256 ^ k)

/-- Everything that belongs to no agent's registers and is not memory: cores, hub cores' own registers, partitions, functions,
images, granules, tile tags, keys, releases, barriers, device registers. -/
structure SameDevice (s t : State) : Prop where
  cores : t.cores = s.cores
  parts : t.parts = s.parts
  funcs : t.funcs = s.funcs
  images : t.images = s.images
  granules : t.granules = s.granules
  tileTags : t.tileTags = s.tileTags
  badMem : t.badMem = s.badMem
  releases : t.releases = s.releases
  barriers : t.barriers = s.barriers
  keys : t.keys = s.keys
  cable : t.cable = s.cable
  ticket : t.ticket = s.ticket
  timer : t.timer = s.timer
  yieldwin : t.yieldwin = s.yieldwin
  debug : t.dbgCtx = s.dbgCtx ∧ t.dbgNeedle = s.dbgNeedle ∧ t.dbgStep = s.dbgStep
  power : t.plimit = s.plimit ∧ t.grants = s.grants ∧ t.phub = s.phub ∧ t.phbm = s.phbm ∧ t.moduleOn = s.moduleOn

/-- The special registers that a scalar instruction has no business with: base registers, vector configuration, matrix and
fabric CSRs, the strip, the queues of the engines, copies and streams, the reservation and the release half. -/
structure SameSpecial (c d : Ctx) : Prop where
  b : d.b = c.b
  slot0 : d.slot0 = c.slot0
  fixed : d.fixed = c.fixed
  frm : d.frm = c.frm
  vdead : d.vdead = c.vdead
  vbeg : d.vbeg = c.vbeg
  vprog : d.vprog = c.vprog
  vqcfg : d.vqcfg = c.vqcfg
  matrix : d.pblk = c.pblk ∧ d.mapitch = c.mapitch ∧ d.mwpitch = c.mwpitch ∧ d.mzmap = c.mzmap
  fabric : d.fsel = c.fsel ∧ d.fstat = c.fstat ∧ d.reds = c.reds
  slip : d.slip = c.slip
  spused : d.spused = c.spused
  strip : d.strip = c.strip
  array : d.z = c.z ∧ d.arr = c.arr
  vector : d.v = c.v
  queues : d.vecQ = c.vecQ ∧ d.matQ = c.matQ ∧ d.copyQ = c.copyQ ∧ d.copies = c.copies
  resv : d.resv = c.resv
  half : d.relHalf = c.relHalf ∧ d.relKnow = c.relKnow ∧ d.openHalf = c.openHalf

/-- The registers of every other agent are as they were. -/
def SameOthers (s t : State) : Prop := ∀ b, b ≠ s.who → t.regs b = s.regs b

end Sys2Proof.Machine
end

