-- ==== Sys2Proof/Certificates/Slice0/Obligations.lean ====
section
/-! DEFINITION. The statements for the provers. -/

open Sys2Proof Sys2Proof.Machine

/-! ## RV64I and RV64M (R15, R178, R356) -/

/-- R178 and R15 (RV64I, register and register): the 64-bit operations, their results written as integer arithmetic reduced to
64 bits; shift amounts are the low six bits of x[rs2]; x0 as destination discards the result (`setX`).
R178 and R15 (RV64I, immediates): the same operations with a sign-extended 12-bit immediate or a shift amount, and `lui` and
`auipc` with their 20-bit immediate in bits [31:12].
R178 and R15 (RV64I, word forms): the operation on the low 32 bits, its 32-bit result sign-extended.
R178 and R15 (RV64M, which only S executes): products and their high halves, quotients rounded toward zero and remainders;
a division by zero gives all ones and the dividend, and the overflow of a signed division wraps. -/
def Obligations.IntegerArithmetic : Prop :=
  (∀ (s : State) (rd rs1 rs2 : XReg), s.Issues .base [.x rs1 false, .x rs2 false] →
    let a := s.my.getX rs1
    let b := s.my.getX rs2
    let out (v : Word) : Exec := .next (s.givesX [(0, 1)] rd v)
    exec (.add rd rs1 rs2) s = out (BitVec.ofInt 64 (a.toInt + b.toInt)) ∧
    exec (.sub rd rs1 rs2) s = out (BitVec.ofInt 64 (a.toInt - b.toInt)) ∧
    exec (.slt rd rs1 rs2) s = out (if a.toInt < b.toInt then 1#64 else 0#64) ∧
    exec (.sltu rd rs1 rs2) s = out (if a.toNat < b.toNat then 1#64 else 0#64) ∧
    exec (.xor rd rs1 rs2) s = out (a ^^^ b) ∧
    exec (.or rd rs1 rs2) s = out (a ||| b) ∧
    exec (.and rd rs1 rs2) s = out (a &&& b) ∧
    exec (.sll rd rs1 rs2) s = out (BitVec.ofNat 64 (a.toNat * 2 ^ (b.toNat % 64))) ∧
    exec (.srl rd rs1 rs2) s = out (BitVec.ofNat 64 (a.toNat / 2 ^ (b.toNat % 64))) ∧
    exec (.sra rd rs1 rs2) s = out (BitVec.ofInt 64 (a.toInt / 2 ^ (b.toNat % 64)))) ∧
  (∀ (s : State) (rd rs1 : XReg) (imm : BitVec 12) (sh : BitVec 6) (up : BitVec 20), s.Issues .base [.x rs1 false] →
    let a := s.my.getX rs1
    let out (v : Word) : Exec := .next (s.givesX [(0, 1)] rd v)
    exec (.addi rd rs1 imm) s = out (BitVec.ofInt 64 (a.toInt + imm.toInt)) ∧
    exec (.slti rd rs1 imm) s = out (if a.toInt < imm.toInt then 1#64 else 0#64) ∧
    exec (.sltiu rd rs1 imm) s = out (if a.toNat < (imm.signExtend 64).toNat then 1#64 else 0#64) ∧
    exec (.xori rd rs1 imm) s = out (a ^^^ imm.signExtend 64) ∧
    exec (.ori rd rs1 imm) s = out (a ||| imm.signExtend 64) ∧
    exec (.andi rd rs1 imm) s = out (a &&& imm.signExtend 64) ∧
    exec (.slli rd rs1 sh) s = out (BitVec.ofNat 64 (a.toNat * 2 ^ sh.toNat)) ∧
    exec (.srli rd rs1 sh) s = out (BitVec.ofNat 64 (a.toNat / 2 ^ sh.toNat)) ∧
    exec (.srai rd rs1 sh) s = out (BitVec.ofInt 64 (a.toInt / 2 ^ sh.toNat)) ∧
    exec (.lui rd up) s = out (BitVec.ofInt 64 (up.toInt * 4096)) ∧
    exec (.auipc rd up) s = out (BitVec.ofInt 64 (s.pc.toInt + up.toInt * 4096))) ∧
  (∀ (s : State) (rd rs1 rs2 : XReg) (imm : BitVec 12) (sh : BitVec 5), s.Issues .base [.x rs1 false, .x rs2 false] →
    let a : BitVec 32 := (s.my.getX rs1).extractLsb' 0 32
    let b : BitVec 32 := (s.my.getX rs2).extractLsb' 0 32
    let out (v : Int) : Exec := .next (s.givesX [(0, 1)] rd ((BitVec.ofInt 32 v).signExtend 64))
    exec (.addw rd rs1 rs2) s = out (a.toInt + b.toInt) ∧
    exec (.subw rd rs1 rs2) s = out (a.toInt - b.toInt) ∧
    exec (.sllw rd rs1 rs2) s = out (a.toNat * 2 ^ (b.toNat % 32)) ∧
    exec (.srlw rd rs1 rs2) s = out ((a.toNat / 2 ^ (b.toNat % 32) : Nat)) ∧
    exec (.sraw rd rs1 rs2) s = out (a.toInt / 2 ^ (b.toNat % 32)) ∧
    exec (.addiw rd rs1 imm) s = out (a.toInt + imm.toInt) ∧
    exec (.slliw rd rs1 sh) s = out (a.toNat * 2 ^ sh.toNat) ∧
    exec (.srliw rd rs1 sh) s = out ((a.toNat / 2 ^ sh.toNat : Nat)) ∧
    exec (.sraiw rd rs1 sh) s = out (a.toInt / 2 ^ sh.toNat)) ∧
  (∀ (s : State) (rd rs1 rs2 : XReg), s.Issues .sOnly [.x rs1 false, .x rs2 false] →
    let a := s.my.getX rs1
    let b := s.my.getX rs2
    let c : BitVec 32 := a.extractLsb' 0 32
    let d : BitVec 32 := b.extractLsb' 0 32
    let out (v : Int) : Exec := .next (s.givesX [(0, 1)] rd (BitVec.ofInt 64 v))
    let outw (v : Int) : Exec := .next (s.givesX [(0, 1)] rd ((BitVec.ofInt 32 v).signExtend 64))
    exec (.mul rd rs1 rs2) s = out (a.toInt * b.toInt) ∧
    exec (.mulh rd rs1 rs2) s = out (a.toInt * b.toInt / 2 ^ 64) ∧
    exec (.mulhsu rd rs1 rs2) s = out (a.toInt * b.toNat / 2 ^ 64) ∧
    exec (.mulhu rd rs1 rs2) s = out (a.toNat * b.toNat / 2 ^ 64) ∧
    exec (.div rd rs1 rs2) s = out (if b.toInt = 0 then -1 else a.toInt.tdiv b.toInt) ∧
    exec (.divu rd rs1 rs2) s = out (if b.toNat = 0 then -1 else a.toNat / b.toNat) ∧
    exec (.rem rd rs1 rs2) s = out (a.toInt.tmod b.toInt) ∧
    exec (.remu rd rs1 rs2) s = out (a.toNat % b.toNat) ∧
    exec (.mulw rd rs1 rs2) s = outw (c.toInt * d.toInt) ∧
    exec (.divw rd rs1 rs2) s = outw (if d.toInt = 0 then -1 else c.toInt.tdiv d.toInt) ∧
    exec (.divuw rd rs1 rs2) s = outw (if d.toNat = 0 then -1 else c.toNat / d.toNat) ∧
    exec (.remw rd rs1 rs2) s = outw (c.toInt.tmod d.toInt) ∧
    exec (.remuw rd rs1 rs2) s = outw (c.toNat % d.toNat))

/-! ## Control transfer (R26, R120, R178, R225) -/

/-- R178 and R26: the six conditional branches. Where the condition holds the needle goes to PC + 2 × offset and nothing else is
written; where it does not, the needle goes on in sequence.
R225: `jal` and `jalr` link PC + 4 and go to their target, `jal`'s offset in units of two bytes, `jalr`'s bit 0 cleared;
the link is written before the transfer and x[rs1] is read before the link. -/
def Obligations.JumpsAndBranches : Prop :=
  (∀ (s : State) (rs1 rs2 : XReg) (off : BitVec 12), s.Issues .base [.x rs1 false, .x rs2 false] →
    let a := s.my.getX rs1
    let b := s.my.getX rs2
    let t := s.pc + BitVec.ofInt 64 (2 * off.toInt)
    s.my.goodTarget t →
    let out (taken : Prop) [Decidable taken] : Exec := .next (if taken then s.jumped [(0, 1)] s t else s.retired [(0, 1)] s)
    exec (.beq rs1 rs2 off) s = out (a = b) ∧
    exec (.bne rs1 rs2 off) s = out (a ≠ b) ∧
    exec (.blt rs1 rs2 off) s = out (a.toInt < b.toInt) ∧
    exec (.bge rs1 rs2 off) s = out (b.toInt ≤ a.toInt) ∧
    exec (.bltu rs1 rs2 off) s = out (a.toNat < b.toNat) ∧
    exec (.bgeu rs1 rs2 off) s = out (b.toNat ≤ a.toNat)) ∧
  ((∀ (s : State) (rd : XReg) (off : BitVec 20), s.Allowed .base [] →
    let t := s.pc + BitVec.ofInt 64 (2 * off.toInt)
    s.my.goodTarget t → exec (.jal rd off) s = .next (s.jumped [(0, 1)] (s.onMy (·.setX rd (s.pc + 4#64))) t)) ∧
  (∀ (s : State) (rd rs1 : XReg) (imm : BitVec 12), s.Allowed .base [.x rs1 false] →
    let t := (s.my.getX rs1 + imm.signExtend 64) &&& ~~~1#64
    s.my.goodTarget t → exec (.jalr rd rs1 imm) s = .next (s.jumped [(0, 1)] (s.onMy (·.setX rd (s.pc + 4#64))) t)))

/-- R120: a control target with a reserved bit set raises 0x06, one in another slot or at or above slot 0's limit 0x03 (the
size of the access 4 and the limit in operand word 1, its bit 63 set for code), one that is no multiple of 4 raises 0x0C with
sub-code 1; the trap stands at the transferring instruction, which has no effect: `jal`, `jalr`, a branch that is taken, `vstrip` with
elements left, `fork`, and the return at the end of a loop body, whichever instruction reaches it. -/
def Obligations.BadTargets : Prop :=
  ∀ (s : State) (rd rs1 rs2 : XReg) (imm : BitVec 12) (off20 : BitVec 20) (off12 : BitVec 12) (off : BitVec 11),
    let c := s.my
    let lim := c.slot0.limit.toNat
    let bad (t : Word) (e : BitVec 8) (v1 : Word) : Prop :=
      (t.toNat / 2 ^ 48 % 16 ≠ 0 ∧ e = 0x06#8 ∧ v1 = 0#64) ∨
      (t.toNat / 2 ^ 48 % 16 = 0 ∧ (2 ^ 52 ≤ t.toNat ∨ lim ≤ t.toNat) ∧ e = 0x03#8 ∧ v1 = BitVec.ofNat 64 (2 ^ 63 + 4 * 2 ^ 48 + lim)) ∨
      (t.toNat < 2 ^ 48 ∧ t.toNat < lim ∧ t.toNat % 4 ≠ 0 ∧ e = 0x0C#8 ∧ v1 = 1#64)
    let traps (i : Instr) (t : Word) : Prop := ∀ e v1, bad t e v1 → exec i s = .next (s.trapped e t v1)
    let a := c.getX rs1
    let b := c.getX rs2
    let to12 := s.pc + BitVec.ofInt 64 (2 * off12.toInt)
    let to11 := s.pc + BitVec.ofInt 64 (4 * off.toInt)
    let t := c.strip
    let ls := (c.needle s.ndl).loops
    (s.Allowed .base [.x rs1 false] → traps (.jalr rd rs1 imm) ((a + imm.signExtend 64) &&& ~~~1#64)) ∧
    (s.Allowed .base [] → traps (.jal rd off20) (s.pc + BitVec.ofInt 64 (2 * off20.toInt))) ∧
    (s.Allowed .base [.x rs1 false, .x rs2 false] →
      (a = b → traps (.beq rs1 rs2 off12) to12) ∧ (a ≠ b → traps (.bne rs1 rs2 off12) to12) ∧
      (a.toInt < b.toInt → traps (.blt rs1 rs2 off12) to12) ∧ (b.toInt ≤ a.toInt → traps (.bge rs1 rs2 off12) to12) ∧
      (a.toNat < b.toNat → traps (.bltu rs1 rs2 off12) to12) ∧ (b.toNat ≤ a.toNat → traps (.bgeu rs1 rs2 off12) to12)) ∧
    (s.Allowed .base ((sptrRegs t.sptr).map (fun e => .x e.1 false)) → t.opened = true → t.owner = s.ndl → to11 = t.start →
      t.vl.toNat < t.srem.toNat → traps (.vstrip off) to11) ∧
    (s.Allowed .sOnly [] → c.nV.active = false → c.nM.active = false → c.nC.active = false → traps (.fork off) to11) ∧
    (∀ l rest, ls = l :: rest → l.index.toNat + 1 < l.count.toNat →
      (s.Allowed .base [] → traps .lnext l.start) ∧
      (l.last = s.pc → ∀ (k : Machine.Class) (q : Charge) (srcs : List Src) (body : State → State × Act) (u : State), s.Allowed k srcs → body s = (u, .done) →
        ∀ e v1, bad l.start e v1 → launch k q (reading srcs body) s = .next (s.trapped e l.start v1)) ∧
      (l.last = s.pc → s.Allowed .base [.x rs1 false] → traps (.addi rd rs1 imm) l.start)) ∧
    (∀ l m rest, ls = l :: m :: rest → m.last = l.last → m.index.toNat + 1 < m.count.toNat → s.Allowed .base [] → traps .lbrk m.start)

/-! ## Scalar memory (R117, R118, R132, R133, R150, R156, R162, R178, R298) -/

/-- R178: the scalar loads. Where the access passes its checks, x[rd] or f[fd] takes the `n` bytes at it, little-endian, sign- or
zero-extended; the load notes the releases that it reads (R161) and charges entry 2.
R178: the scalar stores. Where the access passes its checks, the `n` low bytes of x[rs2] or f[fs2] are stored at it; a release
half that waits makes the store a release (`storeS`, R161). -/
def Obligations.LoadsAndStores : Prop :=
  (∀ (s : State) (rd rs1 : XReg) (fd : FReg) (imm : BitVec 12), s.Issues .sOnly [.x rs1 false] →
    ∀ (n : Nat) (a : Access), s.plainAccess (s.my.view s.who) (s.my.getX rs1 + imm.signExtend 64) { size := n, align := n, mmio := true } = .ok a →
      a.region ≠ .mmio →
      let w := s.read a.key a.phys n
      let t := s.noteReads s.who a.phys n
      let out (v : Word) : Exec := .next (s.retired [(2, 1)] (t.onMy (·.setX rd v)))
      (n = 1 → exec (.lb rd rs1 imm) s = out ((BitVec.ofNat 8 w).signExtend 64)) ∧
      (n = 2 → exec (.lh rd rs1 imm) s = out ((BitVec.ofNat 16 w).signExtend 64)) ∧
      (n = 4 → exec (.lw rd rs1 imm) s = out ((BitVec.ofNat 32 w).signExtend 64)) ∧
      (n = 8 → exec (.ld rd rs1 imm) s = out (BitVec.ofNat 64 w)) ∧
      (n = 1 → exec (.lbu rd rs1 imm) s = out ((BitVec.ofNat 8 w).setWidth 64)) ∧
      (n = 2 → exec (.lhu rd rs1 imm) s = out ((BitVec.ofNat 16 w).setWidth 64)) ∧
      (n = 4 → exec (.lwu rd rs1 imm) s = out ((BitVec.ofNat 32 w).setWidth 64)) ∧
      (n = 8 → exec (.fld fd rs1 imm) s = .next (s.retired [(2, 1)] (t.onMy (·.setF fd (BitVec.ofNat 64 w)))))) ∧
  (∀ (s : State) (rs1 rs2 : XReg) (fs2 : FReg) (imm : BitVec 12), s.Issues .sOnly [.x rs1 false, .x rs2 false] →
    ∀ (n : Nat) (a : Access),
      s.plainAccess (s.my.view s.who) (s.my.getX rs1 + imm.signExtend 64) { size := n, align := n, write := true, mmio := true } = .ok a →
      a.region ≠ .mmio →
      let out (v : Word) : Exec := .next (s.retired [(2, 1)] (s.storeS s.who a n v.toNat))
      (n = 1 → exec (.sb rs1 rs2 imm) s = out (s.my.getX rs2)) ∧
      (n = 2 → exec (.sh rs1 rs2 imm) s = out (s.my.getX rs2)) ∧
      (n = 4 → exec (.sw rs1 rs2 imm) s = out (s.my.getX rs2)) ∧
      (n = 8 → exec (.sd rs1 rs2 imm) s = out (s.my.getX rs2)) ∧
      (n = 8 → s.my.isFullF fs2 = true → exec (.fsd rs1 fs2 imm) s = out (s.my.getF fs2)))

/-- R4, R178, R132, R133, R214 to R216, R273 to R282, R137: what the stores of S leave in memory (`Leaves`). A scalar store leaves the `n` low bytes of its register at its
access; an AMO its result; an SC whose granule is reserved x[rs2], any other nothing; `bar.init` 128 zero bits, `bar.exp` and `bar.arr` the word after their step, or nothing
where they raise 0x0B; LR and `bar.wait` nothing. A vector store leaves each active element at its own access, `vst.nt` then its count at `vprog`. A bank update leaves in each word
the result of the updates of the elements that name it, in element order. One whose access fails leaves nothing. Bytes read back under the key they were stored with (outside HBM every
key is one), and every other byte as before under that key, under every key where it lies outside the HBM lines that a store touches (R422: such a line is its last writer's
key's; its 64 bytes are PRESUMED, log entry 7). -/
def Obligations.StoreFrame : Prop :=
  (∀ (s t : State) (rs1 rs2 : XReg) (fs2 : FReg) (imm : BitVec 12), s.Issues .sOnly [.x rs1 false, .x rs2 false, .f fs2 false] →
    ∀ (n : Nat) (i : Instr) (v : Word),
      (n, i, v) ∈ [(1, Instr.sb rs1 rs2 imm, s.my.getX rs2), (2, .sh rs1 rs2 imm, s.my.getX rs2), (4, .sw rs1 rs2 imm, s.my.getX rs2),
        (8, .sd rs1 rs2 imm, s.my.getX rs2), (8, .fsd rs1 fs2 imm, s.my.getF fs2)] →
      exec i s = .next t →
      match s.plainAccess (s.my.view s.who) (s.my.getX rs1 + imm.signExtend 64) { size := n, align := n, write := true, mmio := true } with
      | .error _ => Leaves s t []
      | .ok a => a.region ≠ .mmio → Leaves s t [(a, n, v.toNat)]) ∧
  (∀ (s t : State) (aq rl : Bool) (rd rs1 rs2 : XReg), s.Issues .sOnly [.x rs1 false, .x rs2 false] → ∀ (n : Nat) (i : Instr),
    let word (v : Nat) : Word := if n = 4 then (BitVec.ofNat 32 v).signExtend 64 else BitVec.ofNat 64 v
    let y := word (s.my.getX rs2).toNat
    let least (x y : Word) : Word := if x.toInt < y.toInt then x else y
    let most (x y : Word) : Word := if y.toInt < x.toInt then x else y
    let leastu (x y : Word) : Word := if x.toNat < y.toNat then x else y
    let mostu (x y : Word) : Word := if y.toNat < x.toNat then x else y
    let acc (write rmw : Bool) := s.access (s.my.view s.who) (s.my.getX rs1) { size := n, align := n, write := write, rmw := rmw, kind := .rmw }
    exec i s = .next t →
    (∀ f : Word → Word → Word, (n, i, f) ∈ ([(4, .amoswapW aq rl rd rs1 rs2, fun _ y => y), (4, .amoaddW aq rl rd rs1 rs2, (· + ·)), (4, .amoxorW aq rl rd rs1 rs2, (· ^^^ ·)),
        (4, .amoandW aq rl rd rs1 rs2, (· &&& ·)), (4, .amoorW aq rl rd rs1 rs2, (· ||| ·)), (4, .amominW aq rl rd rs1 rs2, least), (4, .amomaxW aq rl rd rs1 rs2, most),
        (4, .amominuW aq rl rd rs1 rs2, leastu), (4, .amomaxuW aq rl rd rs1 rs2, mostu), (8, .amoswapD aq rl rd rs1 rs2, fun _ y => y), (8, .amoaddD aq rl rd rs1 rs2, (· + ·)),
        (8, .amoxorD aq rl rd rs1 rs2, (· ^^^ ·)), (8, .amoandD aq rl rd rs1 rs2, (· &&& ·)), (8, .amoorD aq rl rd rs1 rs2, (· ||| ·)), (8, .amominD aq rl rd rs1 rs2, least),
        (8, .amomaxD aq rl rd rs1 rs2, most), (8, .amominuD aq rl rd rs1 rs2, leastu), (8, .amomaxuD aq rl rd rs1 rs2, mostu)] : List (Nat × Instr × (Word → Word → Word))) →
      match acc true true with
      | .error _ => Leaves s t []
      | .ok a => Leaves s t [(a, n, (f (word (s.read a.key a.phys n)) y).toNat)]) ∧
    ((n, i) ∈ [(4, Instr.scW aq rl rd rs1 rs2), (8, .scD aq rl rd rs1 rs2)] →
      match acc true false with
      | .error _ => Leaves s t []
      | .ok a => Leaves s t (if s.my.resv = some (a.phys / 16) then [(a, n, y.toNat)] else [])) ∧
    ((n, i) ∈ [(4, Instr.lrW aq rl rd rs1), (8, .lrD aq rl rd rs1)] → Leaves s t [])) ∧
  (∀ (s t : State) (rs1 rs2 : XReg) (scope : BitVec 5) (w1 w2 : Bool), s.Issues .sOnly [.x rs1 w1, .x rs2 w2] →
    let n := (s.my.getX rs2).toNat
    let acc (write read : Bool) := s.access (s.my.view s.who) (s.my.getX rs1) { size := 16, align := 16, write := write, rmw := read, kind := .barrier }
    let leaves (x : Except MemFault Access) (word : BarWord → Option (BitVec 128)) : Prop := match x with
      | .error _ => Leaves s t []
      | .ok a => Leaves s t (match word (s.barWord a) with
        | none => []
        | some v => [(a, 16, v.toNat)])
    (exec (.barInit rs1 w1) s = .next t → leaves (acc true false) (fun _ => some 0#128)) ∧
    (exec (.barExp rs1 rs2 w1 w2) s = .next t → leaves (acc true true) (fun b => (b.expect n).map BarWord.bits)) ∧
    (exec (.barArr rs1 rs2 scope w1 w2) s = .next t → scope.toNat ≤ 4 → leaves (acc true true) (fun b => if n ≤ 2 ^ 31 - 1 then some (b.arrive n).bits else none)) ∧
    (exec (.barWait rs1 rs2 scope w1 w2) s = .next t → Leaves s t [])) ∧
  (∀ (s t : State) (vd vs2 : VReg) (rs1 rs2 : XReg) (w m : Bool) (acc : Nat → Access) (word : Access) (i : Instr) (ptr : Nat → Word) (k : Support) (xs : List Src)
      (gs : List (VReg × Nat)),
    let g := s.grp
    let sz := s.eb / 8
    let n2 := max 1 (g * 32 / s.eb)
    let acts := s.acts m
    let base := s.my.getX rs1
    let unit (j : Nat) : Word := base + BitVec.ofNat 64 (j * sz)
    let strided (j : Nat) : Word := base + BitVec.ofNat 64 j * s.my.getX rs2
    let indexed (j : Nat) : Word := base + BitVec.ofNat 64 (s.elem vs2 32 j)
    let told : Prop := i = .vstNt vd rs1 w m ∧ s.my.vprog ≠ 0#64
    (i, ptr, k, xs, gs) ∈ [(Instr.vst vd rs1 w m, unit, Support.any, [Src.x rs1 w], []), (.vstFe vd rs1 w m, unit, .granule, [.x rs1 w], []),
      (.vstNt vd rs1 w m, unit, .any, [.x rs1 w], []), (.vstSc vd rs1 w m, unit, .ticket, [.x rs1 w], []), (.vsts vd rs1 rs2 w m, strided, .any, [.x rs1 w, .x rs2 w], []),
      (.vstsFe vd rs1 rs2 w m, strided, .granule, [.x rs1 w, .x rs2 w], []), (.vstx vd rs1 vs2 w m, indexed, .any, [.x rs1 w], [(vs2, n2)]),
      (.vstxFe vd rs1 vs2 w m, indexed, .granule, [.x rs1 w], [(vs2, n2)])] →
    (s.fmt ≤ 9 ∨ 14 ≤ s.fmt) → s.my.vbeg.toNat < s.my.strip.vl.toNat → (gs ≠ [] → n2 ≤ 8) → s.RunsMem w m xs ((vd, g) :: gs) →
    (∀ j ∈ acts, (if k = .ticket then s.access else s.plainAccess) (s.my.view s.who) (ptr j) { size := sz, align := sz, write := true, kind := k } = .ok (acc j)) →
    (told → s.plainAccess (s.my.view s.who) s.my.vprog { size := 8, align := 8, write := true } = .ok word) → exec i s = .next t →
    let elems := acts.map (fun j => (acc j, sz, s.elem vd s.eb j))
    (told → Leaves s t (elems ++ [(word, 8, (s.my.vprogCount + BitVec.ofNat 64 (s.my.strip.vl.toNat - s.my.vbeg.toNat)).toNat)])) ∧ (¬ told → Leaves s t elems)) ∧
  (∀ (s t : State) (vd vs2 : VReg) (rs1 : XReg) (w m : Bool) (acc : Nat → Access) (i : Instr) (f : Nat → Nat → Nat),
    let g := s.grp
    let sz := s.eb / 8
    let F := ffmt s.fmt
    let n2 := max 1 (g * 32 / s.eb)
    let acts := s.acts m
    let int := s.fmt = 2 ∨ s.fmt = 3
    let real := s.fmt = 6 ∨ s.fmt = 7
    let larger (x y : Nat) : Nat := if ((F.value x).isNan || (F.value y).isNan) = true then F.nanCode else (F.pick true x y).bits
    (int ∧ (i, f) ∈ ([(.vbadd vd vs2 rs1 w m, fun x y => (x + y) % 2 ^ s.eb), (.vbor vd vs2 rs1 w m, (· ||| ·))] : List (Instr × (Nat → Nat → Nat))) ∨
      real ∧ (i, f) ∈ ([(.vbfadd vd vs2 rs1 w m, fun x y => (F.deliver .rne .ieee (sumExact .rne [F.value x, F.value y])).bits), (.vbfmax vd vs2 rs1 w m, larger)] : List (Instr × (Nat → Nat → Nat)))) →
    n2 ≤ 8 → s.my.vbeg.toNat < s.my.strip.vl.toNat → s.RunsMem w m [.x rs1 w] [(vd, g), (vs2, n2)] → s.my.Spatial [(vd, g)] →
    (∀ j ∈ acts, s.access (s.my.view s.who) (s.my.getX rs1 + BitVec.ofNat 64 (s.elem vs2 32 j)) { size := sz, align := sz, write := true, rmw := true, kind := .rmw } = .ok (acc j)) →
    exec i s = .next t →
    (∀ key x, (∀ j ∈ acts, Untouched (acc j).key (acc j).phys sz key x) → t.byteAt key x = s.byteAt key x) ∧
    ((∀ h ∈ acts, ∀ j ∈ acts, acc h = acc j ∨ ∀ b, b < sz → Untouched (acc j).key (acc j).phys sz (acc h).key ((acc h).phys + b)) →
      ∀ h ∈ acts, (∀ b, b < sz → s.keyValid (acc h).key ((acc h).phys + b)) →
        t.read (acc h).key (acc h).phys sz = (acts.filter (fun j => acc j = acc h)).foldl (fun x j => f x (s.elem vd s.eb j)) (s.read (acc h).key (acc h).phys sz)))

/-- R117, R118, R111, R112, R114, R115, R129, R132, R135, R164, R215, R298: the checks on an access, in order, with the words that each trap holds, for any size, alignment, direction and kind of access
(plain, full bits, lock, read and write, ticket, barrier word): through slot 0, whose copy cannot be written; a seated slot from 1 to 4031 on HBM or bank memory, and one whose base no tensor
may have; bank memory through slots 4092 and 4093 and scratchpad through 4095 and the cluster window 4094, where the cable mask and a quiesced peer come last; in manager mode slot 4091's physical
window, and the fixed slots with limit 0. (That a hub core's locks lie in panel 0: log entry 49; the second word of memory codes for host memory: log entry 39; both the model's choice.)
Every scalar load, store, AMO, LR, SC and barrier operation traps on the check that fails, with no effect.
R117, R111 and R115: an access that is aligned, inside the limit, names a slot open to it, and meets no uncorrectable word passes; it lands at the slot's
base plus the offset.
R421: an access to host memory that the host rejects of the image's function, or of physical function 0 for the manager, raises
0x17 (the second operand word's memory code: log entry 39). -/
def Obligations.AccessChecks : Prop :=
  (∀ (s : State) (v : View) (p : Word) (q : Need), q.size ≤ 128 → 0 < q.size → 0 < q.align →
    let slot := p.toNat / 2 ^ 52
    let off := p.toNat % 2 ^ 48
    let traps (e : BitVec 8) (v1 : Nat) : Prop := s.access v p q = .error ⟨e, p, BitVec.ofNat 64 v1⟩
    let bounds (lim : Nat) : Prop := traps 0x03#8 (q.size * 2 ^ 48 + lim)
    let inRegion (r : Region) (phys : Nat) : Prop := regionOf phys = some r ∧ regionOf (phys + q.size - 1) = some r
    let supports (r : Region) (phys : Nat) : Prop := match q.kind with
      | .any => True
      | .granule => False
      | .lock => r = .bank ∧ (phys - bankStart) / bankSize = v.core.getD 0 / 1024
      | .rmw => r = .spad ∨ r = .bank ∨ r = .hbm
      | .ticket => r ≠ .host
      | .barrier => r = .spad ∨ r = .bank
    let judged (r : Region) (code phys key lim : Nat) (fits inside writable : Prop) : Prop :=
      (¬ fits → traps 0x0C#8 3) ∧ (fits → off % q.align ≠ 0 → traps 0x0C#8 1) ∧
      (fits → off % q.align = 0 → (¬ inside → bounds lim) ∧
        (inside → q.write = true → ¬ writable → traps 0x03#8 (2 ^ 63 + q.size * 2 ^ 48 + lim)) ∧
        (inside → (q.write = true → writable) →
          (∀ w, s.badFor (q.rmw || !q.write) phys q.size = some w → traps 0x17#8 (code * 2 ^ 62 + w)) ∧
          (s.badFor (q.rmw || !q.write) phys q.size = none → s.access v p q = .ok ⟨phys, key, r⟩)))
    let entry (e : SlotEntry) (writable : Prop) : Prop :=
      let lim := e.limit.toNat
      let base := e.base.toNat / 256 * 256
      let tensor (r : Region) (code : Nat) : Prop :=
        regionOf base = some r → judged r code (base + off) e.key.toNat lim (supports r (base + off)) (off + q.size ≤ lim ∧ inRegion r (base + off)) writable
      (e.packed = true → q.copy = false → traps 0x0C#8 2) ∧
      (e.packed = false ∨ q.copy = true →
        tensor .hbm 3 ∧ tensor .bank 1 ∧ (regionOf base = some .host → ¬ supports .host (base + off) → traps 0x0C#8 3) ∧
        (regionOf base = some .spad ∨ regionOf base = some .mmio ∨ regionOf base = none → q.kind = .any →
          (off % q.align ≠ 0 → traps 0x0C#8 1) ∧ (off % q.align = 0 → bounds lim)))
    (p.toNat / 2 ^ 48 % 16 ≠ 0 → traps 0x06#8 0) ∧
    (p.toNat / 2 ^ 48 % 16 = 0 →
      (slot = 0 → entry v.slot0 False) ∧
      (4032 ≤ slot → slot ≤ 4091 → slot ≤ 4090 ∨ v.manager = false → traps 0x04#8 slot) ∧
      (1 ≤ slot → slot ≤ 4031 →
        ((∀ t ∈ v.seats, t.slot.toNat ≠ slot) → traps 0x04#8 slot) ∧
        ∀ t, v.seats.find? (fun t => t.slot.toNat = slot) = some t →
          (t.absent = true → traps 0x05#8 slot) ∧ (t.absent = false → entry t.entry (t.entry.writable = true ∧ t.entry.code = false))) ∧
      (v.manager = false →
        let low := off % 2 ^ 27
        let f0 := v.fixed.get 0
        let f1 := v.fixed.get 1
        let f3 := v.fixed.get 3
        (slot = 4092 → judged .bank 1 (f0.base.toNat + off) 0 f0.limit.toNat (supports .bank (f0.base.toNat + off))
          (off < 2 ^ 29 ∧ low + q.size ≤ f0.limit.toNat ∧ low + q.size ≤ 2 ^ 27 ∧ inRegion .bank (f0.base.toNat + off)) True) ∧
        (slot = 4093 → judged .bank 1 (f1.base.toNat + off) 0 f1.limit.toNat (supports .bank (f1.base.toNat + off))
          (off + q.size ≤ f1.limit.toNat ∧ inRegion .bank (f1.base.toNat + off)) True) ∧
        (slot = 4095 → judged .spad 0 (f3.base.toNat + off) 0 f3.limit.toNat (q.kind ≠ .lock)
          (off + q.size ≤ f3.limit.toNat ∧ inRegion .spad (f3.base.toNat + off)) True) ∧
        (∀ own, v.core = some own → slot = 4094 →
          let idx := off / 2 ^ 18 % 128
          let low := off % 2 ^ 18
          let tgt := own / 128 * 128 + idx
          let peer := s.fixedOf tgt 3
          let mine := f3.limit.toNat
          let near := off < 2 ^ 25 ∧ low + q.size ≤ 2 ^ 18 ∧ low + q.size ≤ mine
          let phys := (if tgt = own then f3.base else peer.base).toNat + low
          (q.kind = .lock → traps 0x0C#8 3) ∧ (q.kind ≠ .lock → off % q.align ≠ 0 → traps 0x0C#8 1) ∧
          (q.kind ≠ .lock → off % q.align = 0 →
            (¬ near → bounds mine) ∧ (near → tgt ≠ own → peer.limit.toNat < low + q.size → bounds peer.limit.toNat) ∧
            (near → low + q.size ≤ peer.limit.toNat ∨ tgt = own → inRegion .spad phys →
              let open_ := tgt = own ∨ (s.cableAllows (own / 128) (own % 128) idx = true ∧ (s.core tgt).quiesced = false)
              (tgt ≠ own → s.cableAllows (own / 128) (own % 128) idx = false → traps 0x13#8 idx) ∧
              (tgt ≠ own → s.cableAllows (own / 128) (own % 128) idx = true → (s.core tgt).quiesced = true → traps 0x11#8 idx) ∧
              (open_ → (∀ w, s.badFor (q.rmw || !q.write) phys q.size = some w → traps 0x17#8 w) ∧
                (s.badFor (q.rmw || !q.write) phys q.size = none → s.access v p q = .ok ⟨phys, 0, .spad⟩)))))) ∧
      (v.manager = true →
        (slot = 4091 →
          (regionOf off = none → (off % q.align ≠ 0 → traps 0x0C#8 1) ∧ (off % q.align = 0 → bounds (2 ^ 48 - 1))) ∧
          (∀ r, regionOf off = some r → r ≠ .host →
            judged r (if r = .spad then 0 else if r = .bank then 1 else 3) off 0 (2 ^ 48 - 1) (supports r off) (regionOf (off + q.size - 1) = some r ∧ (r = .mmio → q.mmio = true)) True)) ∧
        (4092 ≤ slot → (off % q.align ≠ 0 → traps 0x0C#8 1) ∧ (off % q.align = 0 → bounds 0))))) ∧
  (∀ (s : State) (rd rs1 rs2 : XReg) (fd fs2 : FReg) (imm : BitVec 12) (aq rl w1 w2 : Bool) (scope : BitVec 5),
    let v := s.my.view s.who
    let p := s.my.getX rs1
    let at_ := p + imm.signExtend 64
    let plain (n : Nat) (write : Bool) : Need := { size := n, align := n, write := write, mmio := true }
    let atomic (n : Nat) (write rmw : Bool) : Need := { size := n, align := n, write := write, rmw := rmw, kind := .rmw }
    let bar (write read : Bool) : Need := { size := 16, align := 16, write := write, rmw := read, kind := .barrier }
    let fails (x : Except MemFault Access) (is : List Instr) : Prop := ∀ e, x = .error e → ∀ i ∈ is, exec i s = .next (s.trapped e.cause e.ptr e.val1)
    (s.Allowed .sOnly [.x rs1 false, .x rs2 false, .f fs2 false] →
      fails (s.plainAccess v at_ (plain 1 false)) [.lb rd rs1 imm, .lbu rd rs1 imm] ∧ fails (s.plainAccess v at_ (plain 2 false)) [.lh rd rs1 imm, .lhu rd rs1 imm] ∧
      fails (s.plainAccess v at_ (plain 4 false)) [.lw rd rs1 imm, .lwu rd rs1 imm] ∧ fails (s.plainAccess v at_ (plain 8 false)) [.ld rd rs1 imm, .fld fd rs1 imm] ∧
      fails (s.plainAccess v at_ (plain 1 true)) [.sb rs1 rs2 imm] ∧ fails (s.plainAccess v at_ (plain 2 true)) [.sh rs1 rs2 imm] ∧
      fails (s.plainAccess v at_ (plain 4 true)) [.sw rs1 rs2 imm] ∧ fails (s.plainAccess v at_ (plain 8 true)) [.sd rs1 rs2 imm, .fsd rs1 fs2 imm] ∧
      fails (s.access v p (atomic 4 true true)) [.amoswapW aq rl rd rs1 rs2, .amoaddW aq rl rd rs1 rs2, .amoxorW aq rl rd rs1 rs2, .amoandW aq rl rd rs1 rs2, .amoorW aq rl rd rs1 rs2,
        .amominW aq rl rd rs1 rs2, .amomaxW aq rl rd rs1 rs2, .amominuW aq rl rd rs1 rs2, .amomaxuW aq rl rd rs1 rs2] ∧
      fails (s.access v p (atomic 8 true true)) [.amoswapD aq rl rd rs1 rs2, .amoaddD aq rl rd rs1 rs2, .amoxorD aq rl rd rs1 rs2, .amoandD aq rl rd rs1 rs2, .amoorD aq rl rd rs1 rs2,
        .amominD aq rl rd rs1 rs2, .amomaxD aq rl rd rs1 rs2, .amominuD aq rl rd rs1 rs2, .amomaxuD aq rl rd rs1 rs2] ∧
      fails (s.access v p (atomic 4 false false)) [.lrW aq rl rd rs1] ∧ fails (s.access v p (atomic 8 false false)) [.lrD aq rl rd rs1] ∧
      fails (s.access v p (atomic 4 true false)) [.scW aq rl rd rs1 rs2] ∧ fails (s.access v p (atomic 8 true false)) [.scD aq rl rd rs1 rs2]) ∧
    (s.Allowed .sOnly [.x rs1 w1, .x rs2 w2] → scope.toNat ≤ 4 →
      fails (s.access v p (bar true false)) [.barInit rs1 w1] ∧ fails (s.access v p (bar true true)) [.barExp rs1 rs2 w1 w2, .barArr rs1 rs2 scope w1 w2] ∧
      fails (s.access v p (bar false true)) [.barWait rs1 rs2 scope w1 w2])) ∧
  (∀ (s : State) (c : Ctx) (a : Agent) (p : Word) (n : Nat) (write : Bool) (t : Seat),
    let slot := p.toNat / 2 ^ 52
    let off := p.toNat % 2 ^ 48
    let base := t.entry.base.toNat / 256 * 256
    p.toNat / 2 ^ 48 % 16 = 0 → 1 ≤ slot → slot ≤ 4031 → (c.b.toList.filterMap id).find? (fun t => t.slot.toNat = slot) = some t →
    t.absent = false → t.entry.packed = false → 0 < n → off % n = 0 → off + n ≤ t.entry.limit.toNat →
    (write = true → t.entry.writable = true ∧ t.entry.code = false) →
    (base + t.entry.limit.toNat ≤ 2 ^ 39 → s.badMem = [] →
      s.plainAccess (c.view a) p { size := n, align := n, write := write, mmio := true } = .ok ⟨base + off, t.entry.key.toNat, .hbm⟩) ∧
    (2 ^ 41 ≤ base → base + t.entry.limit.toNat ≤ 2 ^ 42 → n < 256 → s.hostRejects (if isManager a then 0 else c.vf) (base + off) n = true →
      s.plainAccess (c.view a) p { size := n, align := n, write := write, mmio := true }
        = .error ⟨0x17#8, p, BitVec.ofNat 64 (3 * 2 ^ 62 + (base + off) / 8 * 8)⟩))

/-- R132 and R150: an AMO is one step: it reads the old value, writes the new one at the same bytes, and x[rd] takes the old
value sign-extended; `aq` and `rl` order it as R162 says (`atomicRead`, `atomicWrite`). Minimum and maximum compare as signed or
unsigned integers.
R133: an LR loads its word and reserves the 16-byte granule that holds it, in the place of an earlier reservation; an SC makes
its checks as a store, stores and writes 0 where the granule is still reserved, and otherwise stores nothing and writes a value other than 0.
Either way the reservation ends. (That an SC's `aq` acquires nothing, that an LR's `rl` only counts a release, and that a failing SC ends the reservation:
log entry 33, the model's choice.) -/
def Obligations.Atomics : Prop :=
  (∀ (s : State) (aq rl : Bool) (rd rs1 rs2 : XReg), s.Issues .sOnly [.x rs1 false, .x rs2 false] → ∀ (n : Nat) (a : Access),
    s.access (s.my.view s.who) (s.my.getX rs1) { size := n, align := n, write := true, rmw := true, kind := .rmw } = .ok a →
    let old := s.read a.key a.phys n
    let out (x : Word) (new : Word) : Exec := .next (s.retired [(2, 1)]
      (((s.atomicRead s.who a n aq).atomicWrite s.who a n new.toNat rl).onMy (·.setX rd x)))
    (n = 4 →
      let x := (BitVec.ofNat 32 old).signExtend 64
      let y := (BitVec.ofNat 32 (s.my.getX rs2).toNat).signExtend 64
      exec (.amoswapW aq rl rd rs1 rs2) s = out x y ∧ exec (.amoaddW aq rl rd rs1 rs2) s = out x (x + y) ∧
      exec (.amoxorW aq rl rd rs1 rs2) s = out x (x ^^^ y) ∧ exec (.amoandW aq rl rd rs1 rs2) s = out x (x &&& y) ∧
      exec (.amoorW aq rl rd rs1 rs2) s = out x (x ||| y) ∧
      exec (.amominW aq rl rd rs1 rs2) s = out x (if x.toInt < y.toInt then x else y) ∧
      exec (.amomaxW aq rl rd rs1 rs2) s = out x (if y.toInt < x.toInt then x else y) ∧
      exec (.amominuW aq rl rd rs1 rs2) s = out x (if x.toNat < y.toNat then x else y) ∧
      exec (.amomaxuW aq rl rd rs1 rs2) s = out x (if y.toNat < x.toNat then x else y)) ∧
    (n = 8 →
      let x := BitVec.ofNat 64 old
      let y := s.my.getX rs2
      exec (.amoswapD aq rl rd rs1 rs2) s = out x y ∧ exec (.amoaddD aq rl rd rs1 rs2) s = out x (x + y) ∧
      exec (.amoxorD aq rl rd rs1 rs2) s = out x (x ^^^ y) ∧ exec (.amoandD aq rl rd rs1 rs2) s = out x (x &&& y) ∧
      exec (.amoorD aq rl rd rs1 rs2) s = out x (x ||| y) ∧
      exec (.amominD aq rl rd rs1 rs2) s = out x (if x.toInt < y.toInt then x else y) ∧
      exec (.amomaxD aq rl rd rs1 rs2) s = out x (if y.toInt < x.toInt then x else y) ∧
      exec (.amominuD aq rl rd rs1 rs2) s = out x (if x.toNat < y.toNat then x else y) ∧
      exec (.amomaxuD aq rl rd rs1 rs2) s = out x (if y.toNat < x.toNat then x else y))) ∧
  (∀ (s : State) (aq rl : Bool) (rd rs1 rs2 : XReg) (n : Nat) (a : Access), n = 4 ∨ n = 8 →
    (s.Issues .sOnly [.x rs1 false] → s.access (s.my.view s.who) (s.my.getX rs1) { size := n, align := n, kind := .rmw } = .ok a →
      let t := s.atomicRead s.who a n aq
      let u := if rl then t.countRelease (t.my.coreNo t.who) 3#3 else t
      let w := s.read a.key a.phys n
      exec (if n = 4 then .lrW aq rl rd rs1 else .lrD aq rl rd rs1) s = .next (s.retired [(2, 1)]
        (u.onMy (fun c => { c with resv := some (a.phys / 16) }.setX rd (if n = 4 then (BitVec.ofNat 32 w).signExtend 64 else BitVec.ofNat 64 w))))) ∧
    (s.Issues .sOnly [.x rs1 false, .x rs2 false] →
      s.access (s.my.view s.who) (s.my.getX rs1) { size := n, align := n, write := true, kind := .rmw } = .ok a →
      let i : Instr := if n = 4 then .scW aq rl rd rs1 rs2 else .scD aq rl rd rs1 rs2
      let t := s.onMy (fun c => { c with resv := none })
      (s.my.resv = some (a.phys / 16) →
        exec i s = .next (s.retired [(2, 1)] ((t.atomicWrite t.who a n ((s.my.getX rs2).toNat % 2 ^ (8 * n)) rl).onMy (·.setX rd 0#64)))) ∧
      (s.my.resv ≠ some (a.phys / 16) → ∃ v, v ≠ 0#64 ∧ exec i s = .next (s.retired [(2, 1)] (t.onMy (·.setX rd v))))))

/-- R156 and R157: a plain access by a core's party to scratchpad races on a granule whose writer tag names another core of the cluster, at a
release count that its core does not know to be past. It raises race (0x0A) with the pointer and the tag of the first such granule, and has no effect:
scalar loads and stores of every width, and an element of a vector load or store (here its first). -/
def Obligations.RaceTrap : Prop :=
  ∀ (s : State) (q : Nat),
    let racing (g : Nat) : Prop :=
      let tag := (s.granule g).tag
      let w := (tag.extractLsb' 16 12).toNat
      let c := tag.extractLsb' 0 16
      let known := (BitVec.ofNat 16 (Sparse.at (s.core q).know.counts 0 w) - c).toNat
      tag ≠ 0#28 ∧ w ≠ q ∧ w / 128 = q / 128 ∧ (s.core w).rel < (s.granule g).rel + 32768 ∧ (known = 0 ∨ 32768 < known) ∧
        (s.core q).since ≤ (s.granule g).wrote ∧ Sparse.at (s.core q).know.past 0 w ≤ (s.granule g).wrote
    let first (a : Access) (n g : Nat) : Prop :=
      a.region = .spad ∧ 0 < n ∧ spadStart ≤ a.phys ∧ granuleOf a.phys ≤ g ∧ g ≤ granuleOf (a.phys + n - 1) ∧ racing g ∧ ∀ h, granuleOf a.phys ≤ h → h < g → ¬ racing h
    (∀ (v : View) (p : Word) (need : Need) (a : Access) (g : Nat), v.core = some q → s.access v p need = .ok a → first a need.size g →
      s.plainAccess v p need = .error ⟨0x0A#8, p, (s.granule g).tag.setWidth 64⟩) ∧
    (∀ (rd rs1 rs2 : XReg) (fd fs2 : FReg) (imm : BitVec 12) (a : Access) (g n : Nat) (write : Bool) (i : Instr),
      let p := s.my.getX rs1 + imm.signExtend 64
      s.Allowed .sOnly [.x rs1 false, .x rs2 false, .f fs2 false] → s.my.core = some q →
      (n, write, i) ∈ [(1, false, Instr.lb rd rs1 imm), (1, false, .lbu rd rs1 imm), (2, false, .lh rd rs1 imm), (2, false, .lhu rd rs1 imm), (4, false, .lw rd rs1 imm),
        (4, false, .lwu rd rs1 imm), (8, false, .ld rd rs1 imm), (8, false, .fld fd rs1 imm), (1, true, .sb rs1 rs2 imm), (2, true, .sh rs1 rs2 imm), (4, true, .sw rs1 rs2 imm),
        (8, true, .sd rs1 rs2 imm), (8, true, .fsd rs1 fs2 imm)] →
      s.access (s.my.view s.who) p { size := n, align := n, write := write, mmio := true } = .ok a → first a n g →
      exec i s = .next (s.trapped 0x0A#8 p ((s.granule g).tag.setWidth 64))) ∧
    (∀ (vd : VReg) (rs1 : XReg) (w m : Bool) (a : Access) (g : Nat) (load : Bool) (i : Instr),
      let sz := s.eb / 8
      let at_ := s.my.vbeg.toNat
      let p := s.my.getX rs1 + BitVec.ofNat 64 (at_ * sz)
      (load, i) ∈ [(true, Instr.vld vd rs1 w m), (true, .vldFe vd rs1 w m), (true, .vldFec vd rs1 w m), (false, .vst vd rs1 w m), (false, .vstFe vd rs1 w m)] →
      (s.fmt ≤ 9 ∨ 14 ≤ s.fmt) → at_ < s.my.strip.vl.toNat → s.my.core = some q → (m = true → (load = true → vd ≠ 0#6) ∧ s.bit 0#6 at_ = true) →
      s.RunsMem w m [.x rs1 w] (if load then [] else [(vd, s.grp)]) → vd.toNat % s.grp = 0 ∧ vd.toNat + s.grp ≤ 64 →
      s.access (s.my.view s.who) p { size := sz, align := sz, write := !load, kind := if i ∈ [.vld vd rs1 w m, .vst vd rs1 w m] then .any else .granule } = .ok a → first a sz g →
      (i ∈ [.vldFe vd rs1 w m, .vldFec vd rs1 w m] → (s.granule (granuleOf a.phys)).full = true) →
      ∃ u, exec i s = .next (u.trapped 0x0A#8 p ((s.granule g).tag.setWidth 64)) ∧ SameMemory s u ∧ u.my.v = s.my.v ∧ u.my.vbeg = s.my.vbeg)

/-! ## RV64D (R83, R84, R85, R87, R88, R89, R178, R179) -/

/-- R84, R85, R89 and R179: FP64 arithmetic. With the mode that rm names (`frm` for 0b111), each result is the exact sum,
difference, product, quotient, root or fused result of the operands, rounded once; the flags of the operation and of the rounding
accrue. A quotient of a finite number by zero is an infinity and raises DZ; the root of a negative number is invalid.
R85 and R179: an rm of 0b111 with 5, 6 or 7 in `frm` selects no mode: illegal instruction (0x01, operand word 0 the
instruction word), and nothing else changes: every instruction with an rm field. -/
def Obligations.FloatArithmetic : Prop :=
  (∀ (s : State) (fd fs1 fs2 fs3 : FReg) (rm : BitVec 3) (m : Rm), s.Issues .sOnly [.f fs1 false, .f fs2 false, .f fs3 false] →
    (if rm = 7#3 then rmOf s.my.frm else rmOf rm) = some m →
    let a := fp64.value (s.my.getF fs1).toNat
    let b := fp64.value (s.my.getF fs2).toNat
    let c := fp64.value (s.my.getF fs3).toNat
    let rounded (x : Exact) : Exec := .next (s.givesF [(1, 1)] fd (fp64.deliver m .ieee x))
    exec (.faddD fd fs1 fs2 rm) s = rounded (sumExact m [a, b]) ∧
    exec (.fsubD fd fs1 fs2 rm) s = rounded (sumExact m [a, b.negate]) ∧
    exec (.fmulD fd fs1 fs2 rm) s = rounded (mulExact a b) ∧
    exec (.fmaddD fd fs1 fs2 fs3 rm) s = rounded (fmaExact m a b c) ∧
    exec (.fmsubD fd fs1 fs2 fs3 rm) s = rounded (fmaExact m a b c.negate) ∧
    exec (.fnmsubD fd fs1 fs2 fs3 rm) s = rounded (fmaExact m a.negate b c) ∧
    exec (.fnmaddD fd fs1 fs2 fs3 rm) s = rounded (fmaExact m a.negate b c.negate) ∧
    exec (.fdivD fd fs1 fs2 rm) s = .next (s.givesF [(1, 1)] fd (fp64.divVal m a b)) ∧
    (∀ n k e, a = .fin n (k + 1) e → ∀ g f, b = .fin g 0 f →
      exec (.fdivD fd fs1 fs2 rm) s = .next (s.givesF [(1, 1)] fd ⟨(if n = g then 0 else 2 ^ 63) + 2047 * 2 ^ 52, 0x08#5, 0#12⟩)) ∧
    exec (.fsqrtD fd fs1 rm) s = .next (s.givesF [(1, 1)] fd (fp64.sqrtVal m a)) ∧
    (∀ k e, a = .fin true (k + 1) e → exec (.fsqrtD fd fs1 rm) s = .next (s.givesF [(1, 1)] fd ⟨0x7FF8000000000000, 0x10#5, 0#12⟩)) ∧
    (∀ e, a = .fin true 0 e → exec (.fsqrtD fd fs1 rm) s = .next (s.givesF [(1, 1)] fd ⟨2 ^ 63, 0#5, 0#12⟩))) ∧
  (∀ (s : State) (fd fs1 fs2 fs3 : FReg) (rd rs1 : XReg), s.Allowed .sOnly [.f fs1 false, .f fs2 false, .f fs3 false, .x rs1 false] → 5 ≤ s.my.frm.toNat →
    ∀ i ∈ [Instr.faddD fd fs1 fs2 7#3, .fsubD fd fs1 fs2 7#3, .fmulD fd fs1 fs2 7#3, .fdivD fd fs1 fs2 7#3, .fsqrtD fd fs1 7#3, .fmaddD fd fs1 fs2 fs3 7#3,
        .fmsubD fd fs1 fs2 fs3 7#3, .fnmsubD fd fs1 fs2 fs3 7#3, .fnmaddD fd fs1 fs2 fs3 7#3, .fcvtWD rd fs1 7#3, .fcvtWuD rd fs1 7#3, .fcvtLD rd fs1 7#3, .fcvtLuD rd fs1 7#3,
        .fcvtDW fd rs1 7#3, .fcvtDWu fd rs1 7#3, .fcvtDL fd rs1 7#3, .fcvtDLu fd rs1 7#3],
      exec i s = .next (s.trapped 0x01#8 (s.ir.setWidth 64) 0#64))

/-- R83 and R178: sign operations copy bits and choose the sign; minimum and maximum give a number before a NaN, raise NV for a
signalling operand, take −0 below +0, and give the default NaN for two NaNs.
R83 and R178: comparisons deliver 0 or 1 in x[rd]; a NaN makes each false, `fle.d` and `flt.d` raise NV for any NaN and
`feq.d` for a signalling one; `fclass.d` names one of ten classes; `fmv.x.d` and `fmv.d.x` copy bits. -/
def Obligations.FloatSelectCompareMove : Prop :=
  (∀ (s : State) (fd fs1 fs2 : FReg), s.Issues .sOnly [.f fs1 false, .f fs2 false] →
    let x := s.my.getF fs1
    let y := s.my.getF fs2
    let a := fp64.value x.toNat
    let b := fp64.value y.toNat
    let copy (sign : Bool) : Exec := .next (s.retired [(1, 1)] (s.onMy (·.setF fd (BitVec.ofBool sign ++ x.extractLsb' 0 63))))
    let pick (w : Word) : Exec := .next (s.givesF [(1, 1)] fd ⟨w.toNat, a.snan ||| b.snan, 0#12⟩)
    exec (.fsgnjD fd fs1 fs2) s = copy y.msb ∧ exec (.fsgnjnD fd fs1 fs2) s = copy (!y.msb) ∧
    exec (.fsgnjxD fd fs1 fs2) s = copy (x.msb ^^ y.msb) ∧
    (a.isNan = true → b.isNan = true → exec (.fminD fd fs1 fs2) s = pick 0x7FF8000000000000#64 ∧ exec (.fmaxD fd fs1 fs2) s = pick 0x7FF8000000000000#64) ∧
    (a.isNan = true → b.isNan = false → exec (.fminD fd fs1 fs2) s = pick y ∧ exec (.fmaxD fd fs1 fs2) s = pick y) ∧
    (a.isNan = false → b.isNan = true → exec (.fminD fd fs1 fs2) s = pick x ∧ exec (.fmaxD fd fs1 fs2) s = pick x) ∧
    (a.isNan = false → b.isNan = false → a.isZero = false ∨ b.isZero = false →
      exec (.fminD fd fs1 fs2) s = pick (if a.le b then x else y) ∧ exec (.fmaxD fd fs1 fs2) s = pick (if a.le b then y else x)) ∧
    (a.isZero = true → b.isZero = true →
      exec (.fminD fd fs1 fs2) s = pick (if a.neg then x else y) ∧ exec (.fmaxD fd fs1 fs2) s = pick (if a.neg then y else x))) ∧
  (∀ (s : State) (rd rs1 : XReg) (fd fs1 fs2 : FReg), s.Issues .sOnly [.f fs1 false, .f fs2 false, .x rs1 false] →
    let x := s.my.getF fs1
    let a := fp64.value x.toNat
    let b := fp64.value (s.my.getF fs2).toNat
    let out (v : Word) (fl : FFlags) : Exec := .next (s.givesXF [(1, 1)] rd v fl)
    let e := x.toNat / 2 ^ 52 % 2048
    let f := x.toNat % 2 ^ 52
    let cls : Nat :=
      if e = 2047 ∧ f ≠ 0 then (if f < 2 ^ 51 then 8 else 9)
      else if e = 2047 then (if x.msb then 0 else 7)
      else if e = 0 ∧ f = 0 then (if x.msb then 3 else 4)
      else if e = 0 then (if x.msb then 2 else 5)
      else (if x.msb then 1 else 6)
    ((a.isNan || b.isNan) = true → exec (.fleD rd fs1 fs2) s = out 0#64 0x10#5 ∧ exec (.fltD rd fs1 fs2) s = out 0#64 0x10#5 ∧
      exec (.feqD rd fs1 fs2) s = out 0#64 (a.snan ||| b.snan)) ∧
    ((a.isNan || b.isNan) = false →
      exec (.fleD rd fs1 fs2) s = out (if a.le b then 1#64 else 0#64) 0#5 ∧
      exec (.fltD rd fs1 fs2) s = out (if a.le b ∧ ¬ b.le a then 1#64 else 0#64) 0#5 ∧
      exec (.feqD rd fs1 fs2) s = out (if a.le b ∧ b.le a then 1#64 else 0#64) 0#5) ∧
    exec (.fclassD rd fs1) s = out (BitVec.ofNat 64 (2 ^ cls)) 0#5 ∧
    exec (.fmvXD rd fs1) s = out x 0#5 ∧
    exec (.fmvDX fd rs1) s = .next (s.retired [(1, 1)] (s.onMy (·.setF fd (s.my.getX rs1)))))

/-- R89, R178 and R179: conversions. To an integer the value is rounded by the mode and held to the range, with NV for a value or a
NaN that does not fit and NX for a rounded one, and a NaN gives the largest; `.w` and `.wu` results are sign-extended from 32 bits. From an
integer the result is the integer, rounded once. -/
def Obligations.FloatConvert : Prop :=
  ∀ (s : State) (rd rs1 : XReg) (fd fs1 : FReg) (rm : BitVec 3) (m : Rm), s.Issues .sOnly [.f fs1 false, .x rs1 false] →
    (if rm = 7#3 then rmOf s.my.frm else rmOf rm) = some m →
    let a := fp64.value (s.my.getF fs1).toNat
    let held (lo hi : Int) : Int × FFlags :=
      if a.isNan then (hi, 0x10#5)
      else match a with
        | .inf neg => (if neg then lo else hi, 0x10#5)
        | v =>
          let n := (roundInt m v).1
          if n < lo then (lo, 0x10#5) else if hi < n then (hi, 0x10#5) else (n, if (roundInt m v).2 then 0x01#5 else 0#5)
    let toX (lo hi : Int) (bits : Nat) : Exec := .next (s.givesXF [(1, 1)] rd ((BitVec.ofInt bits (held lo hi).1).signExtend 64) (held lo hi).2)
    let ofX (n : Int) : Exec := .next (s.givesF [(1, 1)] fd (fp64.round m .ieee (.fin (n < 0) n.natAbs 0)))
    let x := s.my.getX rs1
    exec (.fcvtWD rd fs1 rm) s = toX (-(2 ^ 31)) (2 ^ 31 - 1) 32 ∧
    exec (.fcvtWuD rd fs1 rm) s = toX 0 (2 ^ 32 - 1) 32 ∧
    exec (.fcvtLD rd fs1 rm) s = toX (-(2 ^ 63)) (2 ^ 63 - 1) 64 ∧
    exec (.fcvtLuD rd fs1 rm) s = toX 0 (2 ^ 64 - 1) 64 ∧
    exec (.fcvtDW fd rs1 rm) s = ofX (x.extractLsb' 0 32).toInt ∧
    exec (.fcvtDWu fd rs1 rm) s = ofX (x.extractLsb' 0 32).toNat ∧
    exec (.fcvtDL fd rs1 rm) s = ofX x.toInt ∧
    exec (.fcvtDLu fd rs1 rm) s = ofX x.toNat

/-- R89: a number of a format stays as it is when it is rounded to that format, in every mode and under either overflow policy,
and raises nothing. -/
def Obligations.RoundingKeepsNumbers : Prop :=
  ∀ (f : FFormat), f ∈ [fp64, fp32, fp16, bf16, e4m3, e5m2, fp4] → ∀ (rm : Rm) (ovf : Ovf) (w : Nat), w < 2 ^ f.width →
    ∀ neg m e, f.value w = .fin neg m e → f.round rm ovf (f.value w) = ⟨w, 0#5, 0#12⟩

/-! ## Retirement, traps, and what may issue (R15, R16, R25, R31, R44, R193, R198, R355, R359, R361, R362) -/

/-- R25, R193 and R355: an instruction that retires in sequence takes its needle to the next word; where a loop body ends it
returns to the body's start with the index one higher while iterations are left, else the level closes and the next
one that ends there takes its own step. It counts one instruction and charges its energy; no other needle, register, core or byte changes. -/
def Obligations.Retirement : Prop :=
  ∀ (s t : State) (q : Charge), t.cur = s.cur → t.my.needle s.ndl = s.my.needle s.ndl → t.my.stepping = false →
    let d := s.my.needle s.ndl
    let u := s.retired q t
    let e := u.my.needle s.ndl
    e.run = .running ∧
    ((∀ l ∈ d.loops.head?, l.last ≠ d.pc) → e.pc = d.pc + 4#64 ∧ e.loops = d.loops ∧ e.fresh = false) ∧
    (∀ l ls, d.loops = l :: ls → l.last = d.pc → l.index.toNat + 1 < l.count.toNat →
      e.pc = l.start ∧ e.loops = { l with index := l.index + 1#64 } :: ls ∧ e.fresh = true) ∧
    (∀ l ls, d.loops = l :: ls → l.last = d.pc → l.count.toNat ≤ l.index.toNat + 1 →
      ((∀ m ∈ ls.head?, m.last ≠ d.pc) → e.pc = d.pc + 4#64 ∧ e.loops = ls ∧ e.fresh = false) ∧
      (∀ m ms, ls = m :: ms → m.last = d.pc → m.index.toNat + 1 < m.count.toNat →
        e.pc = m.start ∧ e.loops = { m with index := m.index + 1#64 } :: ms ∧ e.fresh = true)) ∧
    u.my.instret = t.my.instret + 1#64 ∧
    (t.my.gaugest = false → t.my.gauge + (t.part t.my.part).energy q ≤ 16 * (2 ^ 48 - 1) → u.my.gauge = t.my.gauge + (t.part t.my.part).energy q) ∧
    (∀ n, n ≠ s.ndl → u.my.needle n = t.my.needle n) ∧
    u.my.x = t.my.x ∧ u.my.f = t.my.f ∧ u.my.fflags = t.my.fflags ∧ SameSpecial t.my u.my ∧ SameDevice t u ∧ SameMemory t u ∧ SameOthers t u

/-- R44 and R359: `ecall` and `ebreak` raise 0x19 and 0x1A with zero operand words. A trap in a context writes its record, holds the
context with every needle where it stands, and posts a trap event to the partition's hub core; nothing else changes.
In manager mode the hub core stops and an internal error is signalled. -/
def Obligations.TrapEntry : Prop :=
  ∀ (s : State), s.Allowed .sOnly [] →
    exec .ecall s = .next (s.trapped 0x19#8 0#64 0#64) ∧ exec .ebreak s = .next (s.trapped 0x1A#8 0#64 0#64) ∧
    (∀ i, s.who = .ctx i → ∀ e v0 v1,
      let t := s.trapped e v0 v1
      t.my = { s.my with trap := some ⟨e, 0#2, s.pc, s.pc, v0, v1⟩
                         skip := s.my.skip || e == 0x19#8 || e == 0x1A#8
                         life := .held
                         request := none
                         stepping := false } ∧
      t.events = s.events ++ [⟨(s.part s.my.part).evhub, 1#8, i⟩] ∧ SameMemory s t ∧ SameDevice s t ∧ SameOthers s t) ∧
    (∀ h, s.who = .hub h → ∀ e v0 v1,
      let t := s.trapped e v0 v1
      (t.hub h).stopped = true ∧ t.my = s.my ∧ t.aer = true ∧ t.events = s.events ∧ SameMemory s t ∧ SameDevice s t)

/-- R31 and R198: an instruction whose needle may execute it ends at its first empty source, in the order of its source list: it raises register empty, or with its w bit blocks; no
other check of its own comes before, but those of the premises. So end every scalar and FP64 instruction, the loop, strip, base, barrier, fabric, Loom and manager instructions with
register sources, vector loads, stores, bank updates, locks and remote accesses, the matrix and copy instructions (a `yst` at its group once its record is good), and every vector
instruction on V and on S. (Which of several empty sources decides: log entry 28, the model's choice.)
R15, R198 and R299: an instruction that its needle may not execute is illegal (0x01); an instruction of the manager outside manager mode raises 0x1B first. -/
def Obligations.IssueTraps : Prop :=
  (∀ (s : State) (rd rs1 rs2 : XReg) (fd fs1 fs2 fs3 : FReg) (csr imm off12 : BitVec 12) (sh6 : BitVec 6) (sh5 : BitVec 5) (rm : BitVec 3) (bd : BReg) (aq rl : Bool),
    let stops (is : List Instr) (srcs : List Src) : Prop := ∀ i ∈ is, s.EmptyStops i srcs
    (s.Allowed .base [] →
      stops [.add rd rs1 rs2, .sub rd rs1 rs2, .slt rd rs1 rs2, .sltu rd rs1 rs2, .xor rd rs1 rs2, .or rd rs1 rs2, .and rd rs1 rs2, .sll rd rs1 rs2, .srl rd rs1 rs2, .sra rd rs1 rs2,
        .addw rd rs1 rs2, .subw rd rs1 rs2, .sllw rd rs1 rs2, .srlw rd rs1 rs2, .sraw rd rs1 rs2, .beq rs1 rs2 off12, .bne rs1 rs2 off12, .blt rs1 rs2 off12, .bge rs1 rs2 off12,
        .bltu rs1 rs2 off12, .bgeu rs1 rs2 off12] [.x rs1 false, .x rs2 false] ∧
      stops [.addi rd rs1 imm, .slti rd rs1 imm, .sltiu rd rs1 imm, .xori rd rs1 imm, .ori rd rs1 imm, .andi rd rs1 imm, .slli rd rs1 sh6, .srli rd rs1 sh6, .srai rd rs1 sh6,
        .addiw rd rs1 imm, .slliw rd rs1 sh5, .srliw rd rs1 sh5, .sraiw rd rs1 sh5, .jalr rd rs1 imm] [.x rs1 false]) ∧
    (s.Allowed .sOnly [] →
      stops [.mul rd rs1 rs2, .mulh rd rs1 rs2, .mulhsu rd rs1 rs2, .mulhu rd rs1 rs2, .div rd rs1 rs2, .divu rd rs1 rs2, .rem rd rs1 rs2, .remu rd rs1 rs2, .mulw rd rs1 rs2,
        .divw rd rs1 rs2, .divuw rd rs1 rs2, .remw rd rs1 rs2, .remuw rd rs1 rs2, .sb rs1 rs2 imm, .sh rs1 rs2 imm, .sw rs1 rs2 imm, .sd rs1 rs2 imm, .scW aq rl rd rs1 rs2,
        .amoswapW aq rl rd rs1 rs2, .amoaddW aq rl rd rs1 rs2, .amoxorW aq rl rd rs1 rs2, .amoandW aq rl rd rs1 rs2, .amoorW aq rl rd rs1 rs2, .amominW aq rl rd rs1 rs2,
        .amomaxW aq rl rd rs1 rs2, .amominuW aq rl rd rs1 rs2, .amomaxuW aq rl rd rs1 rs2, .scD aq rl rd rs1 rs2, .amoswapD aq rl rd rs1 rs2, .amoaddD aq rl rd rs1 rs2,
        .amoxorD aq rl rd rs1 rs2, .amoandD aq rl rd rs1 rs2, .amoorD aq rl rd rs1 rs2, .amominD aq rl rd rs1 rs2, .amomaxD aq rl rd rs1 rs2, .amominuD aq rl rd rs1 rs2,
        .amomaxuD aq rl rd rs1 rs2] [.x rs1 false, .x rs2 false] ∧
      stops [.lb rd rs1 imm, .lh rd rs1 imm, .lw rd rs1 imm, .ld rd rs1 imm, .lbu rd rs1 imm, .lhu rd rs1 imm, .lwu rd rs1 imm, .fld fd rs1 imm, .lrW aq rl rd rs1, .lrD aq rl rd rs1,
        .fmvDX fd rs1, .bslot bd imm rs1, .fcvtDW fd rs1 rm, .fcvtDWu fd rs1 rm, .fcvtDL fd rs1 rm, .fcvtDLu fd rs1 rm] [.x rs1 false] ∧
      (s.readCsr csr.toNat ≠ none → csrManager csr.toNat = false ∨ isManager s.who = true → csrReadOnly csr.toNat = false →
        stops [.csrrw rd rs1 csr, .csrrs rd rs1 csr, .csrrc rd rs1 csr] [.x rs1 false]) ∧
      stops [.fsd rs1 fs2 imm] [.x rs1 false, .f fs2 false] ∧
      stops [.fsgnjD fd fs1 fs2, .fsgnjnD fd fs1 fs2, .fsgnjxD fd fs1 fs2, .fminD fd fs1 fs2, .fmaxD fd fs1 fs2, .fleD rd fs1 fs2, .fltD rd fs1 fs2, .feqD rd fs1 fs2,
        .faddD fd fs1 fs2 rm, .fsubD fd fs1 fs2 rm, .fmulD fd fs1 fs2 rm, .fdivD fd fs1 fs2 rm] [.f fs1 false, .f fs2 false] ∧
      stops [.fclassD rd fs1, .fmvXD rd fs1, .fsqrtD fd fs1 rm, .fcvtWD rd fs1 rm, .fcvtWuD rd fs1 rm, .fcvtLD rd fs1 rm, .fcvtLuD rd fs1 rm] [.f fs1 false] ∧
      stops [.fmaddD fd fs1 fs2 fs3 rm, .fmsubD fd fs1 fs2 fs3 rm, .fnmsubD fd fs1 fs2 fs3 rm, .fnmaddD fd fs1 fs2 fs3 rm] [.f fs1 false, .f fs2 false, .f fs3 false])) ∧
  (∀ (s : State) (rd rs1 rs2 : XReg) (vd vs2 : VReg) (fmt4 : BitVec 4) (grp : BitVec 2) (fmt5 scope zs : BitVec 5) (zd : ZReg) (off : BitVec 11) (y m w w2 : Bool),
    let stops (is : List Instr) (srcs : List Src) : Prop := ∀ i ∈ is, s.EmptyStops i srcs
    let x1 : Src := .x rs1 w
    (s.Allowed .base [] →
      stops [.loop rs1 off w] [x1] ∧ stops [.vstrip off] ((sptrRegs s.my.strip.sptr).map (fun e => .x e.1 false)) ∧
      (y = false ∨ s.my.request = none → stops [.vlset rd rs1 fmt4 grp y w] [x1])) ∧
    (s.Allowed .sOnly [] →
      stops [.fabld rd rs1 w, .fabrw rd rs1 w, .lpost rd rs1 w, .barInit rs1 w] [x1] ∧
      stops [.fabst rs1 rs2 w w2, .fabadd rd rs1 rs2 w w2, .fabswp rd rs1 rs2 w w2, .fabred rs1 rs2 w w2, .barExp rs1 rs2 w w2] [x1, .x rs2 w2] ∧
      stops [.fabcas rd rs1 rs2 w w2] [x1, .x rs2 w2, .x rd w2] ∧
      (scope.toNat ≤ 4 → stops [.barArr rs1 rs2 scope w w2, .barWait rs1 rs2 scope w w2] [x1, .x rs2 w2]) ∧
      ((s.my.needle s.ndl).part = none → s.my.vfab = none → s.my.memHeld = false → (∀ r, (s.my.getV r).stream = none) → (m = true → vd ≠ 0#6) →
        let g := s.grp
        let n2 := max 1 (g * 32 / s.eb)
        let v0 : List Src := if m then [.v 0#6 1 w] else []
        let offs : Src := .v vs2 n2 w
        let data : Src := .v vd g w
        let whole := vd.toNat % g = 0 ∧ vd.toNat + g ≤ 64
        let indexed := n2 ≤ 8 ∧ vs2.toNat % n2 = 0 ∧ vs2.toNat + n2 ≤ 64
        (s.fmt ≤ 9 ∨ 14 ≤ s.fmt → whole →
          stops [.vld vd rs1 w m, .vldFe vd rs1 w m, .vldFec vd rs1 w m, .vldSc vd rs1 w m] (x1 :: v0) ∧
          stops [.vst vd rs1 w m, .vstFe vd rs1 w m, .vstNt vd rs1 w m, .vstSc vd rs1 w m] (x1 :: data :: v0) ∧
          stops [.vlds vd rs1 rs2 w m, .vldsFe vd rs1 rs2 w m] (x1 :: .x rs2 w :: v0) ∧
          stops [.vsts vd rs1 rs2 w m, .vstsFe vd rs1 rs2 w m] (x1 :: .x rs2 w :: data :: v0) ∧
          (indexed → stops [.vstx vd rs1 vs2 w m, .vstxFe vd rs1 vs2 w m, .vfabput vd vs2 rs1 w m] (x1 :: data :: offs :: v0) ∧
            (Apart (vd, g) (vs2, n2) → stops [.vldx vd rs1 vs2 w m, .vldxFe vd rs1 vs2 w m, .vfabget vd vs2 rs1 w m] (x1 :: offs :: v0)))) ∧
        (whole → indexed → (s.fmt = 2 ∨ s.fmt = 3 → stops [.vbadd vd vs2 rs1 w m, .vbor vd vs2 rs1 w m] (x1 :: data :: offs :: v0)) ∧
          (s.fmt = 6 ∨ s.fmt = 7 → stops [.vbfadd vd vs2 rs1 w m, .vbfmax vd vs2 rs1 w m] (x1 :: data :: offs :: v0))) ∧
        (s.fmt = 3 → indexed → Apart (vd, 1) (vs2, n2) → stops [.vlock vd vs2 rs1 w m, .vunlock vd vs2 rs1 w m] (x1 :: offs :: v0)))) ∧
    (s.Allowed .matrix [] → s.my.matQ = [] → s.my.memHeld = false → (∀ r, (s.my.getV r).stream = none) →
      (fmt5 ∈ [0#5, 4#5, 5#5, 7#5, 8#5, 9#5, 10#5, 11#5, 12#5, 13#5, 14#5, 16#5] → stops [.mwld rs1 fmt5 w] [x1] ∧
        (fmt5 ≠ 16#5 → stops [.mmac zd rs1 fmt5 w, .mmacz zd rs1 fmt5 w] [x1])) ∧
      stops [.mst zd rs1 w, .mcode rs1 w] [x1] ∧ stops [.mtset rd rs1 w] [x1, .x (rs1 + 1#5) w, .x (rs1 + 2#5) w] ∧ stops [.mgath vd rs1 w] [x1, .v vd 1 w] ∧
      (vd.toNat % mrdGroup s.myLanes.length = 0 → vd.toNat + mrdGroup s.myLanes.length ≤ 64 → stops [.mrd vd zs w] [.z (zs.setWidth 3) w])) ∧
    (s.Allowed .copy [] → s.my.vecQ = [] → s.my.copyQ = [] → s.my.copies = [] →
      stops [.ystr vd rs1 w, .yld rd vd rs1 w, .yst rd vd rs1 w, .yxfer rd vd rs1 w, .ytile rd rs1 w] [x1]) ∧
    (s.Allowed .copy [.x rs1 w] → s.my.vecQ = [] → s.my.copyQ = [] → s.my.copies = [] →
      ∀ o, s.readCopy s.who .yst rd vd (s.my.getX rs1) = .ok o → o.invalid o.plan s.my = false → stops [.yst rd vd rs1 w] [.v vd o.plan.grp w]) ∧
    (s.Allowed .manager [] → stops [.chold rs1 w, .cres rs1 w, .scrub rd rs1 w] [x1] ∧ stops [.ctxsave rd rs1 rs2 w w2, .ctxload rd rs1 rs2 w w2] [x1, .x rs2 w2])) ∧
  (∀ (s : State) (i : Instr) (v : VInstr), (∀ t, exec i t = vecArith v t) → s.Allowed .vector [] →
    (s.ndl = .V ∧ s.my.nV.part = none ∧ s.my.barred = false) ∨ (s.ndl = .S ∧ s.my.vecQ = [] ∧ s.my.copyQ = []) →
    v.checkIssue (v.capture s.my) s.myLanes.length s = none → s.EmptyStops i (v.sources (v.shape (v.capture s.my) s.myLanes.length) s.my)) ∧
  (∀ (s : State) (i : Instr) (k : Machine.Class), issueClass i = some k → s.my.interlocked s.ndl k = false →
    (k = .manager → isManager s.who = false → exec i s = .next (s.trapped 0x1B#8 (s.ir.setWidth 64) 0#64)) ∧
    (k ≠ .manager ∨ isManager s.who = true →
      (k = .sOnly ∨ k = .manager) ∧ s.ndl ≠ .S ∨
      k = .vector ∧ (s.ndl = .M ∨ s.ndl = .C ∨ (s.ndl = .S ∧ s.my.nV.active = true)) ∨
      k = .matrix ∧ (s.ndl = .V ∨ s.ndl = .C ∨ (s.ndl = .S ∧ s.my.nM.active = true)) ∨
      k = .copy ∧ (s.ndl = .V ∨ s.ndl = .M ∨ (s.ndl = .S ∧ s.my.nC.active = true)) →
      exec i s = .next (s.trapped 0x01#8 (s.ir.setWidth 64) 0#64)))

/-! ## Loops, strips, needles (R17–R27, R201, R202, R205–R209) -/

/-- R201, R24 and R202: `loop` opens a level whose body begins at the next word and ends at PC + 4 × offset, at count 0 steps over
the body, at six levels raises 0x08, and for a body that ends at or before it, or outside the innermost level's body, is illegal. `lnext`
takes the end-of-body step of the innermost level now, `lbrk` closes that level; with no level open both are illegal. -/
def Obligations.LoopInstructions : Prop :=
  ∀ (s : State) (rs1 : XReg) (off : BitVec 11) (w1 : Bool), s.Allowed .base [.x rs1 w1] →
    let ls := (s.my.needle s.ndl).loops
    let count := s.my.getX rs1
    let last := s.pc + BitVec.ofInt 64 (4 * off.toInt)
    let bad (e : BitVec 8) : Exec := .next (s.trapped e (s.ir.setWidth 64) 0#64)
    let targ (r : Word × List Level × Bool) : Exec := .next (s.placed [(15, 1)] (s.sentTo r))
    let reached (r : Word × List Level × Bool) : Prop := r.2.2 = true → s.my.goodTarget r.1
    (0 < off.toInt → count ≠ 0#64 → ls.length < 6 → (∀ l ∈ ls.head?, last.toNat ≤ l.last.toNat) →
      exec (.loop rs1 off w1) s = targ (s.pc + 4#64, ⟨s.pc + 4#64, last, count, 0#64⟩ :: ls, true)) ∧
    (0 < off.toInt → count = 0#64 → reached (endOfBody last ls) → exec (.loop rs1 off w1) s = targ (endOfBody last ls)) ∧
    (0 < off.toInt → count ≠ 0#64 → 6 ≤ ls.length → exec (.loop rs1 off w1) s = bad 0x08#8) ∧
    (0 < off.toInt → count ≠ 0#64 → ls.length < 6 → (∃ l ∈ ls.head?, l.last.toNat < last.toNat) → exec (.loop rs1 off w1) s = bad 0x01#8) ∧
    (off.toInt ≤ 0 → exec (.loop rs1 off w1) s = bad 0x01#8) ∧
    (ls = [] → exec .lnext s = bad 0x01#8 ∧ exec .lbrk s = bad 0x01#8) ∧
    (∀ l rest, ls = l :: rest →
      (reached (endOfBody l.last ls) → exec .lnext s = targ (endOfBody l.last ls)) ∧
      (reached (endOfBody l.last rest) → exec .lbrk s = targ (endOfBody l.last rest)))

/-- R205 and R206: `vlset` sets `vtype`, takes `srem` from x[rs1] unless `vstrip` has just sent control here or rs1 is x0, sets `vl` to what fits
and x[rd] to it, and opens the strip unless `vl` is 0; under y a pending request stops the needle before it. `vstrip` adds `vl`
elements to each enabled pointer, takes them from `srem`, and goes back to the strip's `vlset`, or closes the strip when none is left. -/
def Obligations.Strips : Prop :=
  ∀ (s : State) (rd rs1 : XReg) (fmt : BitVec 4) (grp : BitVec 2) (y w1 : Bool) (off : BitVec 11),
    let t := s.my.strip
    let fits (srem : Word) (f g : Nat) : Word := BitVec.ofNat 64 (min srem.toNat (vlmax f g (s.lanes s.who)))
    let owned := t.opened = false ∨ t.owner = s.ndl
    let bad : Exec := .next (s.trapped 0x01#8 (s.ir.setWidth 64) 0#64)
    (s.Issues .base [.x rs1 w1] → y = false ∨ s.my.request = none → owned →
      let srem := if t.cont = false ∧ rs1 ≠ 0#5 then s.my.getX rs1 else t.srem
      let vl := fits srem fmt.toNat (2 ^ grp.toNat)
      let set : Strip := { t with srem := srem, cont := false, vtype := grp ++ fmt, vl := vl }
      exec (.vlset rd rs1 fmt grp y w1) s = .next (s.retired [(15, 1)] (s.onMy (fun c => { c with
        strip := if vl = 0#64 then { set with opened := false } else { set with opened := true, owner := s.ndl, start := s.pc } }.setX rd vl)))) ∧
    (s.Allowed .base [.x rs1 w1] → y = false ∨ s.my.request = none → t.opened = true → t.owner ≠ s.ndl → exec (.vlset rd rs1 fmt grp y w1) s = bad) ∧
    (s.Allowed .base [] → y = true → s.my.request ≠ none →
      exec (.vlset rd rs1 fmt grp y w1) s = .next (s.onMy (fun c => c.setNeedle s.ndl { c.needle s.ndl with atYield := true }))) ∧
    (s.Issues .base ((sptrRegs t.sptr).map (fun e => .x e.1 false)) → t.opened = true → t.owner = s.ndl →
      s.pc + BitVec.ofInt 64 (4 * off.toInt) = t.start →
      let srem := BitVec.ofNat 64 (t.srem.toNat - t.vl.toNat)
      let next : Strip := { t with srem := srem, vl := fits srem (t.vtype.extractLsb' 0 4).toNat (2 ^ (t.vtype.extractLsb' 4 2).toNat) }
      let moved (n : Strip) : State := s.onMy (fun c => { c.advancePointers t.vl (sptrRegs t.sptr) with strip := n })
      (srem = 0#64 → exec (.vstrip off) s = .next (s.retired [(15, 1)] (moved { next with opened := false }))) ∧
      (srem ≠ 0#64 → s.my.goodTarget t.start → exec (.vstrip off) s = .next (s.jumped [(15, 1)] (moved { next with cont := true }) t.start))) ∧
    (s.Allowed .base ((sptrRegs t.sptr).map (fun e => .x e.1 false)) →
      t.opened = false ∨ t.owner ≠ s.ndl ∨ s.pc + BitVec.ofInt 64 (4 * off.toInt) ≠ t.start → exec (.vstrip off) s = bad)

/-- R17, R19, R21, R207 and R208: `fork` starts V, M and C at the three words of its block, each unless its word is `nend`, once
the queues are empty; it is illegal while one of them is active. `join` blocks S until they are idle and the queues are empty. A needle that is the
last to reach a `meet` lets all of them go on together; the others block. An engine's `nend` makes its needle idle. -/
def Obligations.Needles : Prop :=
  ∀ (s : State) (off : BitVec 11) (k : BitVec 5),
    let c := s.my
    let t := s.pc + BitVec.ofInt 64 (4 * off.toInt)
    let word (j : Nat) : BitVec 32 := s.fetchWord c (t + BitVec.ofNat 64 (4 * j))
    let start (n : Needle) (j : Nat) (d : Ctx) : Ctx :=
      if word j = 0x0800000B#32 then d
      else d.setNeedle n { pc := t + BitVec.ofNat 64 (4 * j), run := .running
                           forkWait := if c.vecQ = [] ∧ c.matQ = [] ∧ c.copyQ = [] ∧ (∀ o ∈ c.copies, o.inline = false) then 0 else c.nextSeq }
    let busy := c.nV.active = true ∨ c.nM.active = true ∨ c.nC.active = true
    let here : Ctx := c.setNeedle s.ndl { c.needle s.ndl with run := .blocked (.meet k) }
    (s.Issues .sOnly [] → ¬ busy → c.goodTarget t → (∃ a, s.access (c.view s.who) t { size := 12, align := 4 } = .ok a) →
      exec (.fork off) s = .next (s.retired [(15, 1)] (s.setMy (start .C 2 (start .M 1 (start .V 0 c)))))) ∧
    (s.Allowed .sOnly [] → ¬ busy → c.goodTarget t → c.slot0.packed = false → c.slot0.limit.toNat < t.toNat + 12 →
      exec (.fork off) s = .next (s.trapped 0x03#8 t (BitVec.ofNat 64 (12 * 2 ^ 48 + c.slot0.limit.toNat)))) ∧
    (s.Allowed .sOnly [] → busy → exec (.fork off) s = .next (s.trapped 0x01#8 (s.ir.setWidth 64) 0#64)) ∧
    (s.Issues .sOnly [] → c.drained = true → c.firstFault = none → exec .join s = .next (s.retired [(15, 1)] s)) ∧
    (s.Allowed .sOnly [] → c.drained = false → exec .join s = .next (s.blockedIn .join)) ∧
    (s.Allowed .base [] → here.allMeet k = false → exec (.meet k) s = .next (s.blockedIn (.meet k))) ∧
    (s.Issues .base [] → here.allMeet k = true →
      let all := (needles.filter (· != s.ndl)).foldl (fun d n => d.leaveMeet (s.part d.part) n) here
      exec (.meet k) s = .next (s.retired [(15, 1)] (s.setMy (all.setNeedle s.ndl { all.needle s.ndl with run := .running })))) ∧
    (s.Allowed .base [] → s.ndl ≠ .S →
      exec .nend s = .next (s.placed [(15, 1)] ((s.onMy (fun d =>
        let d := d.setNeedle s.ndl { d.needle s.ndl with run := .idle, loops := [], fresh := false, part := none }
        if d.strip.opened = true ∧ d.strip.owner = s.ndl then { d with strip := { d.strip with opened := false } } else d)).settleMeet s.who)))

/-- R18, R20, R208 and R209: S's `nend` acts as `join`, then makes S idle and the context ending, which ends it once nothing is outstanding; `yield`
asks for the context's own pre-emption and a request that is pending stands. On a hub core (log entry 8) neither has a context to act on. -/
def Obligations.ContextEndAndYield : Prop :=
  ∀ (s : State),
    let close (d : Ctx) : Ctx :=
      let d := d.setNeedle .S { d.nS with run := .idle, loops := [], fresh := false }
      if d.strip.opened = true ∧ d.strip.owner = .S then { d with strip := { d.strip with opened := false } } else d
    (s.Allowed .base [] → s.ndl = .S → s.my.drained = true → s.my.firstFault = none →
      (∀ i, s.who = .ctx i →
        exec .nend s = .next (s.placed [(15, 1)] (((s.onMy close).onMy (fun d => { d with life := .ending })).settleEnd i))) ∧
      (∀ h, s.who = .hub h → exec .nend s = .next (s.placed [(15, 1)] (s.onMy close)))) ∧
    (s.Allowed .base [] → s.ndl = .S → s.my.drained = false → exec .nend s = .next (s.blockedIn .join)) ∧
    (s.Issues .sOnly [] → ∀ i, s.who = .ctx i →
      exec .yield s = .next (s.retired [(15, 1)] (s.onMy (fun d => if d.request = none then { d with request := some .yield } else d)))) ∧
    (s.Issues .sOnly [] → ∀ h, s.who = .hub h → exec .yield s = .next (s.retired [(15, 1)] s))

/-! ## Slots and full bits (R113, R116, R186, R210–R213) -/

/-- R116, R210, R211 and R212: `bslot` copies a present entry of the image's table into b[bd]; slot 0 and slots from 4032 up raise 0x04, an absent
entry 0x05. `bfree` empties b[bd]; `blim` and `bptr` give the copy's limit and the slot's start pointer, and raise 0x04 with all ones
for a base register that is not seated.
R213 and R186: `feclr` empties the x, f or z register that it names and leaves its value, x0 and the other numbers are
illegal; `vfeclr` empties a vector register. A write that completes sets a register full again (R30), and x0 stays full (R29). -/
def Obligations.BaseAndEmptying : Prop :=
  (∀ (s : State) (bd : BReg) (imm : BitVec 12) (rd rs1 : XReg),
    let slot := imm.setWidth 64 + s.my.getX rs1
    let e := s.slotEntry s.my.image slot.toNat
    (s.Issues .sOnly [.x rs1 false] → 1 ≤ slot.toNat → slot.toNat ≤ 4031 → s.badWord (s.entryAddr s.my.image slot.toNat) 16 = none → e.present = true →
      exec (.bslot bd imm rs1) s = .next (s.retired [(15, 1)] (s.onMy (·.setB bd (some ⟨slot.setWidth 12, e, false⟩))))) ∧
    (s.Allowed .sOnly [.x rs1 false] → slot.toNat = 0 ∨ 4032 ≤ slot.toNat → exec (.bslot bd imm rs1) s = .next (s.trapped 0x04#8 slot slot)) ∧
    (s.Allowed .sOnly [.x rs1 false] → 1 ≤ slot.toNat → slot.toNat ≤ 4031 → s.badWord (s.entryAddr s.my.image slot.toNat) 16 = none → e.present = false →
      exec (.bslot bd imm rs1) s = .next (s.trapped 0x05#8 slot slot)) ∧
    (s.Issues .sOnly [] → exec (.bfree bd) s = .next (s.retired [(15, 1)] (s.onMy (·.setB bd none)))) ∧
    (s.Issues .sOnly [] → ∀ t, s.my.getB bd = some t →
      exec (.blim rd bd) s = .next (s.givesX [(15, 1)] rd (BitVec.ofNat 64 t.entry.limit.toNat)) ∧
      exec (.bptr rd bd) s = .next (s.givesX [(15, 1)] rd (BitVec.ofNat 64 (t.slot.toNat * 2 ^ 52)))) ∧
    (s.Allowed .sOnly [] → s.my.getB bd = none →
      exec (.blim rd bd) s = .next (s.trapped 0x04#8 (BitVec.ofNat 64 bd.toNat) (BitVec.allOnes 64)) ∧
      exec (.bptr rd bd) s = .next (s.trapped 0x04#8 (BitVec.ofNat 64 bd.toNat) (BitVec.allOnes 64)))) ∧
  (∀ (s : State) (cls num : BitVec 5) (vd : VReg) (w : Word),
    let named := (cls = 0#5 ∧ num ≠ 0#5) ∨ cls = 1#5 ∨ (cls = 3#5 ∧ num.toNat ≤ 7)
    (s.Issues .sOnly [] → named → ∃ d : Ctx, exec (.feclr cls num) s = .next (s.retired [(15, 1)] (s.setMy d)) ∧
      (cls = 0#5 → d.isFullX num = false ∧ d.getX num = s.my.getX num ∧ (d.setX num w).isFullX num = true ∧
        (∀ r, r ≠ num → d.isFullX r = s.my.isFullX r) ∧ d = { s.my with xFull := d.xFull }) ∧
      (cls = 1#5 → d.isFullF num = false ∧ (d.setF num w).isFullF num = true ∧ (∀ r, r ≠ num → d.isFullF r = s.my.isFullF r) ∧
        d = { s.my with fFull := d.fFull }) ∧
      (cls = 3#5 → d.z = s.my.z.set (num.toNat % 8) { s.my.z.get (Fin.ofNat 8 num.toNat) with full := false } (Nat.mod_lt _ (by decide)) ∧ d = { s.my with z := d.z })) ∧
    (s.Allowed .sOnly [] → ¬ named → exec (.feclr cls num) s = .next (s.trapped 0x01#8 (s.ir.setWidth 64) 0#64)) ∧
    (s.Issues .sOnly [] → exec (.vfeclr vd) s = .next (s.retired [(15, 1)] (s.onMy (fun c => c.setV vd { c.getV vd with full := false })))) ∧
    s.my.isFullX 0#5 = true ∧ s.my.getX 0#5 = 0#64 ∧ s.my.setX 0#5 w = s.my)

/-! ## Control and status registers (R32, R192, R193, R195) -/

/-- R32 and R192: the Zicsr forms read the old value into x[rd] and write the new one, a set or clear form only when its
operand names x[rs1] ≠ x0 or a non-zero immediate. A manager register in a context raises 0x1B; a number outside the tables, and a write
to a read-only register, are illegal.
R193 and R5: a write to a context register is read back with its reserved bits 0, and leaves every other register of the table
as it was, `fcsr` being `frm` and `fflags` together; a write to `vprog` also sets the running count to 0 (R136). -/
def Obligations.ControlRegisters : Prop :=
  (∀ (s : State) (rd rs1 : XReg) (uimm : BitVec 5) (csr : BitVec 12),
    let n := csr.toNat
    let v := s.my.getX rs1
    let u : Word := uimm.setWidth 64
    let all (P : Instr → Prop) : Prop :=
      P (.csrrw rd rs1 csr) ∧ P (.csrrs rd rs1 csr) ∧ P (.csrrc rd rs1 csr) ∧ P (.csrrwi rd uimm csr) ∧ P (.csrrsi rd uimm csr) ∧ P (.csrrci rd uimm csr)
    (s.Issues .sOnly [.x rs1 false] → csrManager n = false ∨ isManager s.who = true → ∀ old, s.readCsr n = some old →
      let kept : Exec := .next (s.givesX [(0, 1)] rd old)
      let wrote (w : Word) : Exec := .next (s.retired [(0, 1)] ((s.writeCsr n w).onMy (·.setX rd old)))
      (rs1 = 0#5 → exec (.csrrs rd rs1 csr) s = kept ∧ exec (.csrrc rd rs1 csr) s = kept) ∧
      (uimm = 0#5 → exec (.csrrsi rd uimm csr) s = kept ∧ exec (.csrrci rd uimm csr) s = kept) ∧
      (csrReadOnly n = false →
        exec (.csrrw rd rs1 csr) s = wrote v ∧ exec (.csrrwi rd uimm csr) s = wrote u ∧
        (rs1 ≠ 0#5 → exec (.csrrs rd rs1 csr) s = wrote (old ||| v) ∧ exec (.csrrc rd rs1 csr) s = wrote (old &&& ~~~v)) ∧
        (uimm ≠ 0#5 → exec (.csrrsi rd uimm csr) s = wrote (old ||| u) ∧ exec (.csrrci rd uimm csr) s = wrote (old &&& ~~~u)))) ∧
    (s.Allowed .sOnly [] → 0x7C0 ≤ n → n ≤ 0x7FF → isManager s.who = false →
      all (fun i => exec i s = .next (s.trapped 0x1B#8 (s.ir.setWidth 64) 0#64))) ∧
    (s.Allowed .sOnly [] → csrManager n = false ∨ isManager s.who = true → s.readCsr n = none →
      all (fun i => exec i s = .next (s.trapped 0x01#8 (s.ir.setWidth 64) 0#64))) ∧
    (s.Allowed .sOnly [] → csrManager n = false ∨ isManager s.who = true → s.readCsr n ≠ none → csrReadOnly n = true →
      let bad (i : Instr) : Prop := exec i s = .next (s.trapped 0x01#8 (s.ir.setWidth 64) 0#64)
      bad (.csrrw rd rs1 csr) ∧ bad (.csrrwi rd uimm csr) ∧ (rs1 ≠ 0#5 → bad (.csrrs rd rs1 csr) ∧ bad (.csrrc rd rs1 csr)) ∧
        (uimm ≠ 0#5 → bad (.csrrsi rd uimm csr) ∧ bad (.csrrci rd uimm csr)))) ∧
  (∀ (s : State) (n : Nat) (mask v : Word), csrManager n = false →
    (n, mask) ∈ [(0x001, 0x1F#64), (0x002, 0x7#64), (0x003, 0xFF#64), (0x800, BitVec.allOnes 64), (0x801, 0xFFFFFFFF#64), (0x802, BitVec.allOnes 64),
      (0x803, BitVec.allOnes 64), (0x804, BitVec.allOnes 64), (0x805, 0xF3B#64), (0x806, 0x13F0F#64), (0x807, BitVec.allOnes 64),
      (0x808, BitVec.allOnes 64), (0x809, 0xF#64), (0x80A, BitVec.allOnes 64), (0x80B, BitVec.allOnes 64), (0x80C, 0x1DF#64),
      (0x80D, 0xFFFFFFFFFFFF00FF#64)] →
    let t := s.writeCsr n v
    s.readCsr n = s.ctxCsr n ∧ t.readCsr n = some (v &&& mask) ∧
    (∀ k, csrManager k = false → k ≠ n → (3 < n ∨ 3 < k ∨ n + k = 3) → t.readCsr k = s.readCsr k) ∧
    (n = 0x804 → t.my.vprogCount = 0#64) ∧ SameMemory s t ∧ SameDevice s t ∧ SameOthers s t)

/-! ## Fences, barriers, draining (R160–R163, R214–R218) -/

/-- R160, R161, R162 and R218: an acquire half acquires, at its scope, every release that loads have read since the latest one; a release half makes the next
store a release of what S's core knows at the fence, at the wider of the two scopes; a base FENCE is both at device scope whatever its fields hold (that it charges gauge entry 0, which
R356 does not say: the model's choice, log entry 23). Other kinds and scopes above 4
are illegal. `vdrain` retires once the vector, matrix, copy and register-writing fabric work issued before it began is done and blocks S
until then, keeping that mark.
R214, R215 and R216: the four barrier operations on the 128-bit word at an access of 16 bytes that passes its checks: `bar.init` stores zeros;
`bar.exp` adds to what is pending and arms the word, raising 0x0B for an overrun word, for more than 2³¹ − 1 bytes and for a sum past it;
`bar.arr` takes away down to −2³¹ and is a release at its scope; `bar.wait` goes on, acquiring every arrival of the phases that flipped and every release whose value it reads (R153), once the phase
bit differs from x[rs2], and blocks S until then. An armed word with nothing pending flips its phase. Scopes above 4 are illegal. -/
def Obligations.FencesAndBarriers : Prop :=
  (∀ (s : State) (fm pred succ : BitVec 4) (rs1 rd : XReg) (kind scope : BitVec 5),
    let acq (sc : BitVec 3) (s : State) : State := (s.acquireAll (s.my.coreNo s.who) sc s.my.reads).onMy (fun c => { c with reads := [] })
    let rel (sc : BitVec 3) (s : State) : State := s.onMy (fun c => { c with
      relHalf := some (match c.relHalf with
        | none => sc
        | some old => BitVec.ofNat 3 (max old.toNat sc.toNat))
      relKnow := s.knowledge (c.coreNo s.who) })
    let sc : BitVec 3 := scope.setWidth 3
    (s.Issues .sOnly [] → exec (.fence fm pred succ rs1 rd) s = .next (s.retired [(0, 1)] (rel 3#3 (acq 3#3 s)))) ∧
    (s.Issues .sOnly [] → scope.toNat ≤ 4 →
      (kind = 1#5 → exec (.fenceS kind scope) s = .next (s.retired [(15, 1)] (acq sc s))) ∧
      (kind = 2#5 → exec (.fenceS kind scope) s = .next (s.retired [(15, 1)] (rel sc s))) ∧
      (kind = 3#5 → exec (.fenceS kind scope) s = .next (s.retired [(15, 1)] (rel sc (acq sc s))))) ∧
    (s.Allowed .sOnly [] → kind = 0#5 ∨ 4 ≤ kind.toNat ∨ 5 ≤ scope.toNat →
      exec (.fenceS kind scope) s = .next (s.trapped 0x01#8 (s.ir.setWidth 64) 0#64)) ∧
    (s.Issues .sOnly [] → s.vdrained s.who = true → s.my.firstFault = none → exec .vdrain s = .next (s.retired [(15, 1)] s)) ∧
    (s.Allowed .sOnly [] → s.vdrained s.who = false →
      exec .vdrain s = .next ((s.onMy (fun c => { c with nS := { c.nS with drain := c.drainGate } })).blockedIn .full))) ∧
  (∀ (s : State) (rs1 rs2 : XReg) (scope : BitVec 5) (w1 w2 : Bool) (a : Access),
    let at_ (write read : Bool) : Prop := s.access (s.my.view s.who) (s.my.getX rs1) { size := 16, align := 16, write := write, rmw := read, kind := .barrier } = .ok a
    let b := BarWord.ofBits (BitVec.ofNat 128 (s.read a.key a.phys 16))
    let n := (s.my.getX rs2).toNat
    let settled (b : BarWord) : BarWord :=
      if b.armed = true ∧ b.pending ≤ 0 then ⟨max b.pending 0, !b.phase, b.overrun || decide (b.pending < 0), false, b.rest⟩ else b
    let fault : Exec := .next (s.trapped 0x0B#8 (s.my.getX rs1) (b.bits.setWidth 64))
    (s.Issues .sOnly [.x rs1 w1] → at_ true false → exec (.barInit rs1 w1) s =
      .next (s.retired [(15, 1)] { s.putAtomic s.my.core a 16 0 with barriers := Sparse.drop s.barriers a.phys })) ∧
    (s.Issues .sOnly [.x rs1 w1, .x rs2 w2] → at_ true true → b.overrun = false → n ≤ 2 ^ 31 - 1 → b.pending + n ≤ 2 ^ 31 - 1 →
      exec (.barExp rs1 rs2 w1 w2) s = .next (s.retired [(15, 1)] (s.putBar s.my.core a b (settled { b with pending := b.pending + n, armed := true })))) ∧
    (s.Allowed .sOnly [.x rs1 w1, .x rs2 w2] → at_ true true → b.overrun = true ∨ 2 ^ 31 - 1 < n ∨ 2 ^ 31 - 1 < b.pending + n →
      exec (.barExp rs1 rs2 w1 w2) s = fault) ∧
    (s.Issues .sOnly [.x rs1 w1, .x rs2 w2] → scope.toNat ≤ 4 → at_ true true → n ≤ 2 ^ 31 - 1 →
      exec (.barArr rs1 rs2 scope w1 w2) s = .next (s.retired [(15, 1)] (s.arrive s.who a n (scope.setWidth 3) none)) ∧
      b.arrive n = settled { b with pending := max (b.pending - n) (-(2 ^ 31)) }) ∧
    (s.Allowed .sOnly [.x rs1 w1, .x rs2 w2] → scope.toNat ≤ 4 → at_ true true → 2 ^ 31 - 1 < n → exec (.barArr rs1 rs2 scope w1 w2) s = fault) ∧
    (s.Issues .sOnly [.x rs1 w1, .x rs2 w2] → scope.toNat ≤ 4 → at_ false true → b.phase ≠ (s.my.getX rs2).getLsbD 0 →
      exec (.barWait rs1 rs2 scope w1 w2) s = .next (s.retired [(15, 1)]
        (s.acquireAll (s.my.coreNo s.who) (scope.setWidth 3) ((Sparse.at s.barriers ([], []) a.phys).2 ++ s.releasesAt a.phys 16)))) ∧
    (s.Allowed .sOnly [.x rs1 w1, .x rs2 w2] → scope.toNat ≤ 4 → at_ false true → b.phase = (s.my.getX rs2).getLsbD 0 →
      exec (.barWait rs1 rs2 scope w1 w2) s = .next (s.blockedIn .barWait)) ∧
    (s.Allowed .sOnly [] → 5 ≤ scope.toNat →
      exec (.barArr rs1 rs2 scope w1 w2) s = .next (s.trapped 0x01#8 (s.ir.setWidth 64) 0#64) ∧
      exec (.barWait rs1 rs2 scope w1 w2) s = .next (s.trapped 0x01#8 (s.ir.setWidth 64) 0#64)))

/-! ## Frames of the scalar instructions (R4, R15, R178, R179) -/

/-- R178 and R179: the scalar instructions that write at most an x register and flags, and store nothing: in every next state (retired, blocked or trapped) every other x and f register, every flag
that the instruction does not accrue, every special register, every byte of memory, every core and every other agent is as it was.
R178 and R179: the branches, which write no register, the instructions that write an f register, and the scalar loads: in every
next state (retired, blocked or trapped) every x and f register but the destination, every special register, every byte of memory,
every core and every other agent is as it was, and no flag that was set is cleared. -/
def Obligations.ScalarFrame : Prop :=
  (∀ (s t : State) (rd rs1 rs2 : XReg) (fs1 fs2 : FReg) (imm : BitVec 12) (sh : BitVec 6) (sh5 : BitVec 5) (up off : BitVec 20) (rm : BitVec 3) (i : Instr),
    let quiet : List Instr :=
      [.add rd rs1 rs2, .sub rd rs1 rs2, .slt rd rs1 rs2, .sltu rd rs1 rs2, .xor rd rs1 rs2, .or rd rs1 rs2, .and rd rs1 rs2, .sll rd rs1 rs2,
        .srl rd rs1 rs2, .sra rd rs1 rs2, .addi rd rs1 imm, .slti rd rs1 imm, .sltiu rd rs1 imm, .xori rd rs1 imm, .ori rd rs1 imm, .andi rd rs1 imm,
        .slli rd rs1 sh, .srli rd rs1 sh, .srai rd rs1 sh, .lui rd up, .auipc rd up, .addw rd rs1 rs2, .subw rd rs1 rs2, .sllw rd rs1 rs2, .srlw rd rs1 rs2,
        .sraw rd rs1 rs2, .addiw rd rs1 imm, .slliw rd rs1 sh5, .srliw rd rs1 sh5, .sraiw rd rs1 sh5, .mul rd rs1 rs2, .mulh rd rs1 rs2, .mulhsu rd rs1 rs2,
        .mulhu rd rs1 rs2, .div rd rs1 rs2, .divu rd rs1 rs2, .rem rd rs1 rs2, .remu rd rs1 rs2, .mulw rd rs1 rs2, .divw rd rs1 rs2, .divuw rd rs1 rs2,
        .remw rd rs1 rs2, .remuw rd rs1 rs2, .jal rd off, .jalr rd rs1 imm, .fclassD rd fs1, .fmvXD rd fs1]
    let flagged : List Instr :=
      [.fleD rd fs1 fs2, .fltD rd fs1 fs2, .feqD rd fs1 fs2, .fcvtWD rd fs1 rm, .fcvtWuD rd fs1 rm, .fcvtLD rd fs1 rm, .fcvtLuD rd fs1 rm]
    i ∈ quiet ++ flagged → s.my.undelivered [.x rs1 false, .x rs2 false] → exec i s = .next t →
      (∀ r, r ≠ rd → t.my.getX r = s.my.getX r ∧ t.my.isFullX r = s.my.isFullX r) ∧ t.my.f = s.my.f ∧ t.my.fFull = s.my.fFull ∧
      (i ∈ quiet → t.my.fflags = s.my.fflags) ∧ (∀ b, s.my.fflags.getLsbD b = true → t.my.fflags.getLsbD b = true) ∧
      SameSpecial s.my t.my ∧ SameMemory s t ∧ SameDevice s t ∧ SameOthers s t) ∧
  (∀ (s t : State) (rd rs1 rs2 : XReg) (fd fs1 fs2 fs3 : FReg) (imm off : BitVec 12) (rm : BitVec 3) (i : Instr),
    let branches : List Instr := [.beq rs1 rs2 off, .bne rs1 rs2 off, .blt rs1 rs2 off, .bge rs1 rs2 off, .bltu rs1 rs2 off, .bgeu rs1 rs2 off]
    let floats : List Instr :=
      [.faddD fd fs1 fs2 rm, .fsubD fd fs1 fs2 rm, .fmulD fd fs1 fs2 rm, .fdivD fd fs1 fs2 rm, .fsqrtD fd fs1 rm, .fmaddD fd fs1 fs2 fs3 rm, .fmsubD fd fs1 fs2 fs3 rm,
        .fnmsubD fd fs1 fs2 fs3 rm, .fnmaddD fd fs1 fs2 fs3 rm, .fsgnjD fd fs1 fs2, .fsgnjnD fd fs1 fs2, .fsgnjxD fd fs1 fs2, .fminD fd fs1 fs2, .fmaxD fd fs1 fs2,
        .fcvtDW fd rs1 rm, .fcvtDWu fd rs1 rm, .fcvtDL fd rs1 rm, .fcvtDLu fd rs1 rm, .fmvDX fd rs1, .fld fd rs1 imm]
    let loads : List Instr := [.lb rd rs1 imm, .lh rd rs1 imm, .lw rd rs1 imm, .ld rd rs1 imm, .lbu rd rs1 imm, .lhu rd rs1 imm, .lwu rd rs1 imm]
    i ∈ branches ++ floats ++ loads → s.my.undelivered [.x rs1 false, .x rs2 false] → exec i s = .next t →
      (∀ r, (r ≠ rd ∨ i ∉ loads) → t.my.getX r = s.my.getX r ∧ t.my.isFullX r = s.my.isFullX r) ∧
      (∀ r, (r ≠ fd ∨ i ∉ floats) → t.my.getF r = s.my.getF r ∧ t.my.isFullF r = s.my.isFullF r) ∧
      (∀ b, s.my.fflags.getLsbD b = true → t.my.fflags.getLsbD b = true) ∧
      SameSpecial s.my t.my ∧ SameMemory s t ∧ SameDevice s t ∧ SameOthers s t)

/-! ## Vector arithmetic on V (R34, R38, R182–R184, R226–R247) -/

/-- R237 (VV and VX): on integer formats every active element from `vbeg` to `vl` − 1 takes its operation's result on w-bit elements, and every
other element is not written; the scalar of a VX form is x[rs1] reduced to w bits. Division by zero gives all ones, remainder by zero the dividend,
shift amounts are reduced modulo w, and the saturating forms set `ss` when an element saturates. The tag is that of vs2. -/
def Obligations.VectorIntegerArithmetic : Prop :=
  ∀ (s : State) (vd vs2 vs1 : VReg) (rs1 : XReg) (w m : Bool), s.fmt ≤ 3 →
    let g := s.grp
    let sx (a : Nat) : Int := if a < 2 ^ (s.eb - 1) then a else (a : Int) - 2 ^ s.eb
    let wrap (n : Int) : Nat := (n % 2 ^ s.eb).toNat
    let A := s.elem vs2 s.eb
    let gives (B : Nat → Nat) (f : Nat → Nat → Nat) (sat : Nat → Nat → Bool) : Exec :=
      .next (s.vGives [(3, s.groups)] ⟨vd.toNat, g, s.eb, false⟩ s.my.strip.vl.toNat (s.my.getV vs2).tag
        ⟨(s.acts m).map (fun j => (j, f (A j) (B j))), [], 0#5, if (s.acts m).any (fun j => sat (A j) (B j)) then 0x400#12 else 0#12⟩)
    let holds (vv vx : Instr) (f : Nat → Nat → Nat) (sat : Nat → Nat → Bool) : Prop :=
      (s.RunsV w m vd g [] [(vs2, g), (vs1, g)] → s.my.Spatial [(vs2, g), (vs1, g)] → exec vv s = gives (s.elem vs1 s.eb) f sat) ∧
      (s.RunsV w m vd g [.x rs1 w] [(vs2, g)] → s.my.Spatial [(vs2, g)] → exec vx s = gives (fun _ => (s.my.getX rs1).toNat % 2 ^ s.eb) f sat)
    let lo (sg : Bool) : Int := if sg then -(2 ^ (s.eb - 1)) else 0
    let hi (sg : Bool) : Int := if sg then 2 ^ (s.eb - 1) - 1 else 2 ^ s.eb - 1
    (∀ r ∈ ([
        (.vaddVv vd vs2 vs1 w m, .vaddVx vd vs2 rs1 w m, fun a b => wrap (a + b)),
        (.vsubVv vd vs2 vs1 w m, .vsubVx vd vs2 rs1 w m, fun a b => wrap (a - b)),
        (.vmulVv vd vs2 vs1 w m, .vmulVx vd vs2 rs1 w m, fun a b => wrap (a * b)),
        (.vmulhVv vd vs2 vs1 w m, .vmulhVx vd vs2 rs1 w m, fun a b => wrap (sx a * sx b / 2 ^ s.eb)),
        (.vmulhuVv vd vs2 vs1 w m, .vmulhuVx vd vs2 rs1 w m, fun a b => a * b / 2 ^ s.eb),
        (.vdivVv vd vs2 vs1 w m, .vdivVx vd vs2 rs1 w m, fun a b => if b = 0 then 2 ^ s.eb - 1 else wrap ((sx a).tdiv (sx b))),
        (.vdivuVv vd vs2 vs1 w m, .vdivuVx vd vs2 rs1 w m, fun a b => if b = 0 then 2 ^ s.eb - 1 else a / b),
        (.vremVv vd vs2 vs1 w m, .vremVx vd vs2 rs1 w m, fun a b => wrap ((sx a).tmod (sx b))),
        (.vremuVv vd vs2 vs1 w m, .vremuVx vd vs2 rs1 w m, fun a b => a % b),
        (.vminVv vd vs2 vs1 w m, .vminVx vd vs2 rs1 w m, fun a b => if sx a < sx b then a else b),
        (.vminuVv vd vs2 vs1 w m, .vminuVx vd vs2 rs1 w m, fun a b => min a b),
        (.vmaxVv vd vs2 vs1 w m, .vmaxVx vd vs2 rs1 w m, fun a b => if sx a < sx b then b else a),
        (.vmaxuVv vd vs2 vs1 w m, .vmaxuVx vd vs2 rs1 w m, fun a b => max a b), (.vandVv vd vs2 vs1 w m, .vandVx vd vs2 rs1 w m, fun a b => a &&& b),
        (.vorVv vd vs2 vs1 w m, .vorVx vd vs2 rs1 w m, fun a b => a ||| b), (.vxorVv vd vs2 vs1 w m, .vxorVx vd vs2 rs1 w m, fun a b => a ^^^ b),
        (.vsllVv vd vs2 vs1 w m, .vsllVx vd vs2 rs1 w m, fun a b => a * 2 ^ (b % s.eb) % 2 ^ s.eb),
        (.vsrlVv vd vs2 vs1 w m, .vsrlVx vd vs2 rs1 w m, fun a b => a / 2 ^ (b % s.eb)),
        (.vsraVv vd vs2 vs1 w m, .vsraVx vd vs2 rs1 w m, fun a b => wrap (sx a / 2 ^ (b % s.eb)))] : List (Instr × Instr × (Nat → Nat → Nat))),
      holds r.1 r.2.1 r.2.2 (fun _ _ => false)) ∧
    (∀ r ∈ ([
        (.vsaddVv vd vs2 vs1 w m, .vsaddVx vd vs2 rs1 w m, true, fun a b => sx a + sx b),
        (.vsadduVv vd vs2 vs1 w m, .vsadduVx vd vs2 rs1 w m, false, fun a b => (a + b : Int)),
        (.vssubVv vd vs2 vs1 w m, .vssubVx vd vs2 rs1 w m, true, fun a b => sx a - sx b),
        (.vssubuVv vd vs2 vs1 w m, .vssubuVx vd vs2 rs1 w m, false, fun a b => (a - b : Int))] : List (Instr × Instr × Bool × (Nat → Nat → Int))),
      holds r.1 r.2.1 (fun a b => wrap (max (lo r.2.2.1) (min (hi r.2.2.1) (r.2.2.2 a b))))
        (fun a b => r.2.2.2 a b < lo r.2.2.1 || hi r.2.2.1 < r.2.2.2 a b))

/-- R238 and R239: a compare writes its truth as mask bits of vd, tag 0, its destination apart from its sources; `vmerge` writes every element
from `vbeg` to `vl` − 1, vs1's (or the scalar) where v0's bit is 1 and vs2's where it is 0, all sources having one tag, which it keeps. -/
def Obligations.VectorCompareMerge : Prop :=
  ∀ (s : State) (vd vs2 vs1 : VReg) (rs1 : XReg) (w m : Bool), s.fmt ≤ 3 →
    let g := s.grp
    let sx (a : Nat) : Int := if a < 2 ^ (s.eb - 1) then a else (a : Int) - 2 ^ s.eb
    let A := s.elem vs2 s.eb
    let X : Nat → Nat := fun _ => (s.my.getX rs1).toNat % 2 ^ s.eb
    let bits (B : Nat → Nat) (f : Nat → Nat → Bool) : Exec :=
      .next (s.vGives [(3, s.groups)] ⟨vd.toNat, 1, 1, true⟩ s.my.strip.vl.toNat 0#6 ⟨(s.acts m).map (fun j => (j, if f (A j) (B j) then 1 else 0)), [], 0#5, 0#12⟩)
    let merged (B : Nat → Nat) : Exec :=
      .next (s.vGives [(3, s.groups)] ⟨vd.toNat, g, s.eb, false⟩ s.my.strip.vl.toNat (s.my.getV vs2).tag
        ⟨s.span.map (fun j => (j, if s.bit 0#6 j then B j else A j)), [], 0#5, 0#12⟩)
    (∀ r ∈ ([
        (.vseqVv vd vs2 vs1 w m, .vseqVx vd vs2 rs1 w m, fun a b => a = b), (.vsneVv vd vs2 vs1 w m, .vsneVx vd vs2 rs1 w m, fun a b => a ≠ b),
        (.vsltVv vd vs2 vs1 w m, .vsltVx vd vs2 rs1 w m, fun a b => sx a < sx b),
        (.vsltuVv vd vs2 vs1 w m, .vsltuVx vd vs2 rs1 w m, fun a b => a < b),
        (.vsleVv vd vs2 vs1 w m, .vsleVx vd vs2 rs1 w m, fun a b => sx a ≤ sx b),
        (.vsleuVv vd vs2 vs1 w m, .vsleuVx vd vs2 rs1 w m, fun a b => a ≤ b)] : List (Instr × Instr × (Nat → Nat → Bool))),
      (s.RunsV w m vd 1 [] [(vs2, g), (vs1, g)] → s.my.Spatial [(vs2, g), (vs1, g)] → Apart (vd, 1) (vs2, g) → Apart (vd, 1) (vs1, g) →
        exec r.1 s = bits (s.elem vs1 s.eb) r.2.2) ∧
      (s.RunsV w m vd 1 [.x rs1 w] [(vs2, g)] → s.my.Spatial [(vs2, g)] → Apart (vd, 1) (vs2, g) → exec r.2.1 s = bits X r.2.2)) ∧
    (∀ tag, s.RunsV w true vd g [] [(vs2, g), (vs1, g)] → s.my.SameTag [(vs2, g), (vs1, g)] tag → exec (.vmergeVv vd vs2 vs1 w) s = merged (s.elem vs1 s.eb)) ∧
    (s.RunsV w true vd g [.x rs1 w] [(vs2, g)] → exec (.vmergeVx vd vs2 rs1 w) s = merged X)

/-- R242 and R243: `vmv` copies bits and vs2's tag under no tag rule, `vid` gives each element its own index with tag 0, `vabs`, `vneg`, `vnot`, `vclz` and `vpopcnt` work
on spatial data; `vsext` and `vzext` widen elements of half the width from a group of half the size, `vnclip` and `vnclipu` narrow elements of twice the width
with saturation, which sets `ss`. -/
def Obligations.VectorIntegerUnary : Prop :=
  ∀ (s : State) (vd vs2 : VReg) (w m : Bool), s.fmt ≤ 3 →
    let g := s.grp
    let sg (b a : Nat) : Int := if a < 2 ^ (b - 1) then a else (a : Int) - 2 ^ b
    let wrap (n : Int) : Nat := (n % 2 ^ s.eb).toNat
    let A := s.elem vs2 s.eb
    let out (tag : BitVec 6) (f : Nat → Nat) : Exec :=
      .next (s.vGives [(3, s.groups)] ⟨vd.toNat, g, s.eb, false⟩ s.my.strip.vl.toNat tag ⟨(s.acts m).map (fun j => (j, f j)), [], 0#5, 0#12⟩)
    let tag := (s.my.getV vs2).tag
    let n := max 1 (g / 2)
    let half := s.elem vs2 (s.eb / 2)
    let wide := s.elem vs2 (2 * s.eb)
    let clip (lo hi : Int) (f : Nat → Int) : Exec :=
      .next (s.vGives [(3, s.groups)] ⟨vd.toNat, g, s.eb, false⟩ s.my.strip.vl.toNat tag
        ⟨(s.acts m).map (fun j => (j, wrap (max lo (min hi (f j))))), [], 0#5, if (s.acts m).any (fun j => f j < lo || hi < f j) then 0x400#12 else 0#12⟩)
    (s.RunsV w m vd g [] [(vs2, g)] → exec (.vmv vd vs2 w m) s = out tag A) ∧
    (s.RunsV w m vd g [] [] → exec (.vid vd w m) s = out 0#6 (fun j => j % 2 ^ s.eb)) ∧
    (s.RunsV w m vd g [] [(vs2, g)] → s.my.Spatial [(vs2, g)] → exec (.vabs vd vs2 w m) s = out tag (fun j => wrap (sg s.eb (A j)).natAbs)) ∧
    (s.RunsV w m vd g [] [(vs2, g)] → s.my.Spatial [(vs2, g)] → exec (.vneg vd vs2 w m) s = out tag (fun j => wrap (-(A j : Int)))) ∧
    (s.RunsV w m vd g [] [(vs2, g)] → s.my.Spatial [(vs2, g)] → exec (.vnot vd vs2 w m) s = out tag (fun j => 2 ^ s.eb - 1 - A j)) ∧
    (s.RunsV w m vd g [] [(vs2, g)] → s.my.Spatial [(vs2, g)] → exec (.vclz vd vs2 w m) s = out tag (fun j => if A j = 0 then s.eb else s.eb - 1 - (A
    j).log2)) ∧
    (s.RunsV w m vd g [] [(vs2, g)] → s.my.Spatial [(vs2, g)] → exec (.vpopcnt vd vs2 w m) s = out tag (fun j => ((List.range s.eb).filter (fun k => A
    j / 2 ^ k % 2 = 1)).length)) ∧
    (1 ≤ s.fmt → s.RunsV w m vd g [] [(vs2, n)] → s.my.Spatial [(vs2, n)] → Apart (vd, g) (vs2, n) → exec (.vsext vd vs2 w m) s = out tag (fun j =>
    wrap (sg (s.eb / 2) (half j)))) ∧
    (1 ≤ s.fmt → s.RunsV w m vd g [] [(vs2, n)] → s.my.Spatial [(vs2, n)] → Apart (vd, g) (vs2, n) → exec (.vzext vd vs2 w m) s = out tag half) ∧
    (s.fmt ≤ 2 → g ≤ 4 → s.RunsV w m vd g [] [(vs2, 2 * g)] → s.my.Spatial [(vs2, 2 * g)] → Apart (vd, g) (vs2, 2 * g) → exec (.vnclip vd vs2 w m) s =
    clip (-(2 ^ (s.eb - 1))) (2 ^ (s.eb - 1) - 1) (fun j => sg (2 * s.eb) (wide j))) ∧
    (s.fmt ≤ 2 → g ≤ 4 → s.RunsV w m vd g [] [(vs2, 2 * g)] → s.my.Spatial [(vs2, 2 * g)] → Apart (vd, g) (vs2, 2 * g) → exec (.vnclipu vd vs2 w m) s
    = clip 0 (2 ^ s.eb - 1) (fun j => (wide j : Int)))

/-- R240, R241, R244, R245, R246 and R247: `vperm` gathers vs2 by the indices in vs1 (0 beyond `vl`), the slides move elements by x[rs1], `viota` counts the active mask bits below each element, `vcompress` packs
the elements that v0 selects, the reductions leave one result in element 0 with tag 0 (their empty value when no element is active), `vmpopc` and
`vmfirst` count and find mask bits. The gauge is charged for the element groups read: those of the whole group, or of its part from `vbeg` (R356; log entry 23). -/
def Obligations.VectorPermuteReduce : Prop :=
  ∀ (s : State) (vd vs2 vs1 : VReg) (rs1 : XReg) (w m : Bool), s.fmt ≤ 3 →
    let g := s.grp
    let vl := s.my.strip.vl.toNat
    let sx (a : Nat) : Int := if a < 2 ^ (s.eb - 1) then a else (a : Int) - 2 ^ s.eb
    let wrap (n : Int) : Nat := (n % 2 ^ s.eb).toNat
    let A := s.elem vs2 s.eb
    let B := s.elem vs1 s.eb
    let c := (s.my.getX rs1).toNat
    let tag := (s.my.getV vs2).tag
    let count (f : Nat → Bool) (j : Nat) : Nat := ((List.range j).filter f).length
    let whole := (vl + s.myLanes.length - 1) / s.myLanes.length
    let out (tag : BitVec 6) (puts : List (Nat × Nat)) : Exec :=
      .next (s.vGives [(3, whole)] ⟨vd.toNat, g, s.eb, false⟩ vl tag ⟨puts, [], 0#5, 0#12⟩)
    let single (r : Nat) : Exec := .next (s.vGives [(3, s.groups)] ⟨vd.toNat, 1, s.eb, false⟩ vl 0#6 ⟨[(0, r)], [], 0#5, 0#12⟩)
    let xs := (s.acts m).map A
    (s.RunsV w m vd g [] [(vs2, g), (vs1, g)] → Apart (vd, g) (vs2, g) → Apart (vd, g) (vs1, g) → exec (.vperm vd vs2 vs1 w m) s = out tag ((s.acts
    m).map (fun j => (j, if B j < vl then A (B j) else 0)))) ∧
    (s.RunsV w m vd g [.x rs1 w] [(vs2, g)] → Apart (vd, g) (vs2, g) → exec (.vslideup vd vs2 rs1 w m) s = out tag (((s.acts m).filter (c ≤ ·)).map
    (fun j => (j, A (j - c))))) ∧
    (s.RunsV w m vd g [.x rs1 w] [(vs2, g)] → Apart (vd, g) (vs2, g) → exec (.vslidedn vd vs2 rs1 w m) s = out tag ((s.acts m).map (fun j => (j, if j
    + c < vl then A (j + c) else 0)))) ∧
    (s.RunsV w m vd g [] [(vs2, 1)] → Apart (vd, g) (vs2, 1) → exec (.viota vd vs2 w m) s = out 0#6 ((s.acts m).map (fun j => (j, count (fun i =>
    s.bit vs2 i && (!m || s.bit 0#6 i)) j % 2 ^ s.eb)))) ∧
    (s.RunsV w true vd g [] [(vs2, g)] → Apart (vd, g) (vs2, g) → exec (.vcompress vd vs2 w) s = out tag ((s.span.filter (s.bit 0#6)).map (fun j =>
    (count (s.bit 0#6) j, A j)))) ∧
    (s.RunsV w m vd 1 [] [(vs2, g)] → s.my.Spatial [(vs2, g)] → exec (.vredsum vd vs2 w m) s = single (xs.sum % 2 ^ s.eb)) ∧
    (s.RunsV w m vd 1 [] [(vs2, g)] → s.my.Spatial [(vs2, g)] → exec (.vredmin vd vs2 w m) s = single (wrap ((xs.map sx).foldl min (2 ^ (s.eb - 1) -
    1)))) ∧
    (s.RunsV w m vd 1 [] [(vs2, g)] → s.my.Spatial [(vs2, g)] → exec (.vredminu vd vs2 w m) s = single (xs.foldl min (2 ^ s.eb - 1))) ∧
    (s.RunsV w m vd 1 [] [(vs2, g)] → s.my.Spatial [(vs2, g)] → exec (.vredmax vd vs2 w m) s = single (wrap ((xs.map sx).foldl max (-(2 ^ (s.eb -
    1)))))) ∧
    (s.RunsV w m vd 1 [] [(vs2, g)] → s.my.Spatial [(vs2, g)] → exec (.vredmaxu vd vs2 w m) s = single (xs.foldl max 0)) ∧
    (s.RunsV w m vd 1 [] [(vs2, g)] → s.my.Spatial [(vs2, g)] → exec (.vredand vd vs2 w m) s = single (xs.foldl (· &&& ·) (2 ^ s.eb - 1))) ∧
    (s.RunsV w m vd 1 [] [(vs2, g)] → s.my.Spatial [(vs2, g)] → exec (.vredor vd vs2 w m) s = single (xs.foldl (· ||| ·) 0)) ∧
    (s.RunsV w m vd 1 [] [(vs2, g)] → s.my.Spatial [(vs2, g)] → exec (.vredxor vd vs2 w m) s = single (xs.foldl (· ^^^ ·) 0)) ∧
    (2 ≤ s.fmt → s.RunsV w m vd 1 [] [(vs2, 1)] → exec (.vmpopc vd vs2 w m) s = single ((s.acts m).filter (s.bit vs2)).length) ∧
    (2 ≤ s.fmt → s.RunsV w m vd 1 [] [(vs2, 1)] → exec (.vmfirst vd vs2 w m) s = single (((s.acts m).find? (s.bit vs2)).getD (2 ^ s.eb - 1)))

/-- R98, R251 and R255 (formats 14 and 15): `vfadd` and `vfsub` on complex elements of one spectral tag round each part once.
R250, R255, R256, R257 and R261 (VV and VF, FP16, BF16, FP32 and FP64): each active element is one operation, rounded once under `frm`, flags accruing; a VF scalar is f[fs1] rounded to the format, or its sign for the sign
forms; a minimum or maximum with a NaN gives the default NaN; the fused forms read vd as their addend; `vfwmacc` adds products into a group of twice the width. -/
def Obligations.VectorFloatArithmetic : Prop :=
  (∀ (s : State) (vd vs2 vs1 : VReg) (w m : Bool) (rm : Rm), 14 ≤ s.fmt → rmOf s.my.frm = some rm →
    let g := s.grp
    let P := partFmt s.fmt
    let pw := s.eb / 2
    let tag := (s.my.getV vs2).tag
    let part (x i : Nat) : Val := P.value (x / 2 ^ (pw * i) % 2 ^ pw)
    let parts (f : Val → Val → Exact) (i j : Nat) : Rounded := P.deliver rm .ieee (f (part (s.elem vs2 s.eb j) i) (part (s.elem vs1 s.eb j) i))
    let out (f : Val → Val → Exact) : Exec :=
      .next (s.vGives [(4, s.groups)] ⟨vd.toNat, g, s.eb, false⟩ s.my.strip.vl.toNat tag
        ⟨(s.acts m).map (fun j => (j, (parts f 0 j).bits + 2 ^ pw * (parts f 1 j).bits)), [],
          (s.acts m).foldl (fun a j => a ||| ((parts f 0 j).flags ||| (parts f 1 j).flags)) 0#5, (s.acts m).foldl (fun a j => a ||| ((parts f 0 j).q ||| (parts f 1 j).q)) 0#12⟩)
    s.RunsV w m vd g [] [(vs2, g), (vs1, g)] → s.my.SameTag [(vs2, g), (vs1, g)] tag → tag.extractLsb' 4 2 = 1#2 ∨ tag.extractLsb' 4 2 = 2#2 →
      exec (.vfaddVv vd vs2 vs1 w m) s = out (fun a b => sumExact rm [a, b]) ∧ exec (.vfsubVv vd vs2 vs1 w m) s = out (fun a b => sumExact rm [a, b.negate])) ∧
  (∀ (s : State) (vd vs2 vs1 : VReg) (fs1 : FReg) (w m : Bool) (rm : Rm), 4 ≤ s.fmt → s.fmt ≤ 7 →
    let moded := rmOf s.my.frm = some rm
    let g := s.grp
    let F := ffmt s.fmt
    let q : Charge := [(if s.fmt = 7 then 5 else 4, s.groups)]
    let A := s.elem vs2 s.eb
    let V := s.elem vs1 s.eb
    let x := s.my.getF fs1
    let X : Nat → Nat := fun _ => (F.round .rne .ieee (fp64.value x.toNat)).bits
    let S : Nat → Nat := fun _ => if x.msb then 2 ^ (s.eb - 1) else 0
    let out (eb n : Nat) (f : Nat → Rounded) : Exec :=
      .next (s.vGives q ⟨vd.toNat, n, eb, false⟩ s.my.strip.vl.toNat (s.my.getV vs2).tag
        ⟨(s.acts m).map (fun j => (j, (f j).bits)), [], (s.acts m).foldl (fun a j => a ||| (f j).flags) 0#5, (s.acts m).foldl (fun a j => a ||| (f j).q) 0#12⟩)
    let bin (f : Val → Val → Exact) (B : Nat → Nat) : Exec := out s.eb g (fun j => F.deliver rm .ieee (f (F.value (A j)) (F.value (B j))))
    let quot (B : Nat → Nat) : Exec := out s.eb g (fun j => F.divVal rm (F.value (A j)) (F.value (B j)))
    let least (larger : Bool) (B : Nat → Nat) : Exec := out s.eb g (fun j =>
      let a := F.value (A j)
      let b := F.value (B j)
      if (a.isNan || b.isNan) = true then ⟨F.nanCode, a.snan ||| b.snan, 0#12⟩ else F.pick larger (A j) (B j))
    let sign (f : Nat → Nat → Nat) (B : Nat → Nat) : Exec := out s.eb g (fun j =>
      ⟨A j % 2 ^ (s.eb - 1) + 2 ^ (s.eb - 1) * f (A j / 2 ^ (s.eb - 1)) (B j / 2 ^ (s.eb - 1)), 0#5, 0#12⟩)
    let fma (p c : Bool) (B : Nat → Nat) : Exec := out s.eb g (fun j =>
      let a := F.value (A j)
      let d := F.value (s.elem vd s.eb j)
      F.deliver rm .ieee (fmaExact rm (if p then a.negate else a) (F.value (B j)) (if c then d.negate else d)))
    let W := if s.fmt = 6 then fp64 else fp32
    let wide (B : Nat → Nat) : Exec := out (2 * s.eb) (2 * g) (fun j =>
      W.deliver rm .ieee (fmaExact rm (F.value (A j)) (F.value (B j)) (W.value (s.elem vd (2 * s.eb) j))))
    let vv := s.RunsV w m vd g [] [(vs2, g), (vs1, g)] ∧ s.my.Spatial [(vs2, g), (vs1, g)]
    let vf := s.RunsV w m vd g [.f fs1 w] [(vs2, g)] ∧ s.my.Spatial [(vs2, g)]
    let av := s.RunsV w m vd g [] [(vs2, g), (vs1, g), (vd, g)] ∧ s.my.Spatial [(vs2, g), (vs1, g), (vd, g)]
    let af := s.RunsV w m vd g [.f fs1 w] [(vs2, g), (vd, g)] ∧ s.my.Spatial [(vs2, g), (vd, g)]
    let wv := s.RunsV w m vd (2 * g) [] [(vs2, g), (vs1, g), (vd, 2 * g)] ∧ s.my.Spatial [(vs2, g), (vs1, g), (vd, 2 * g)] ∧ Apart (vd, 2 * g) (vs2, g) ∧ Apart (vd, 2 * g) (vs1, g)
    let wf := s.RunsV w m vd (2 * g) [.f fs1 w] [(vs2, g), (vd, 2 * g)] ∧ s.my.Spatial [(vs2, g), (vd, 2 * g)] ∧ Apart (vd, 2 * g) (vs2, g)
    (vv → moded → exec (.vfaddVv vd vs2 vs1 w m) s = bin (fun a b => sumExact rm [a, b]) V) ∧
    (vf → moded → exec (.vfaddVf vd vs2 fs1 w m) s = bin (fun a b => sumExact rm [a, b]) X) ∧
    (vv → moded → exec (.vfsubVv vd vs2 vs1 w m) s = bin (fun a b => sumExact rm [a, b.negate]) V) ∧
    (vf → moded → exec (.vfsubVf vd vs2 fs1 w m) s = bin (fun a b => sumExact rm [a, b.negate]) X) ∧
    (vv → moded → exec (.vfmulVv vd vs2 vs1 w m) s = bin mulExact V) ∧
    (vf → moded → exec (.vfmulVf vd vs2 fs1 w m) s = bin mulExact X) ∧
    (vv → moded → exec (.vfdivVv vd vs2 vs1 w m) s = quot V) ∧
    (vf → moded → exec (.vfdivVf vd vs2 fs1 w m) s = quot X) ∧
    (vv → exec (.vfminVv vd vs2 vs1 w m) s = least false V) ∧
    (vf → exec (.vfminVf vd vs2 fs1 w m) s = least false X) ∧
    (vv → exec (.vfmaxVv vd vs2 vs1 w m) s = least true V) ∧
    (vf → exec (.vfmaxVf vd vs2 fs1 w m) s = least true X) ∧
    (vv → exec (.vfsgnjVv vd vs2 vs1 w m) s = sign (fun _ b => b) V) ∧
    (vf → exec (.vfsgnjVf vd vs2 fs1 w m) s = sign (fun _ b => b) S) ∧
    (vv → exec (.vfsgnjnVv vd vs2 vs1 w m) s = sign (fun _ b => 1 - b) V) ∧
    (vf → exec (.vfsgnjnVf vd vs2 fs1 w m) s = sign (fun _ b => 1 - b) S) ∧
    (vv → exec (.vfsgnjxVv vd vs2 vs1 w m) s = sign (fun a b => (a + b) % 2) V) ∧
    (vf → exec (.vfsgnjxVf vd vs2 fs1 w m) s = sign (fun a b => (a + b) % 2) S) ∧
    (av → moded → exec (.vfmaccVv vd vs2 vs1 w m) s = fma false false V) ∧
    (af → moded → exec (.vfmaccVf vd vs2 fs1 w m) s = fma false false X) ∧
    (av → moded → exec (.vfnmaccVv vd vs2 vs1 w m) s = fma true true V) ∧
    (af → moded → exec (.vfnmaccVf vd vs2 fs1 w m) s = fma true true X) ∧
    (av → moded → exec (.vfmsacVv vd vs2 vs1 w m) s = fma false true V) ∧
    (af → moded → exec (.vfmsacVf vd vs2 fs1 w m) s = fma false true X) ∧
    (av → moded → exec (.vfnmsacVv vd vs2 vs1 w m) s = fma true false V) ∧
    (af → moded → exec (.vfnmsacVf vd vs2 fs1 w m) s = fma true false X) ∧
    (s.fmt ≤ 6 → g ≤ 4 → wv → moded → exec (.vfwmaccVv vd vs2 vs1 w m) s = wide V) ∧
    (s.fmt ≤ 6 → g ≤ 4 → wf → moded → exec (.vfwmaccVf vd vs2 fs1 w m) s = wide X))

/-- R258, R259, R270 and R271: compares write mask bits with tag 0 (a NaN makes each false but `vfne` and `vfun`; `vflt` and `vfle` raise NV for any NaN, the others for a signalling one); `vfmerge` selects by v0, in VV under one
tag, complex formats included; `vfclass` names the class of an element; `vfabs` and `vfneg` change the sign bit alone. -/
def Obligations.VectorFloatCompare : Prop :=
  (∀ (s : State) (vd vs2 vs1 : VReg) (w : Bool) (tag : BitVec 6), 14 ≤ s.fmt → s.RunsV w true vd s.grp [] [(vs2, s.grp), (vs1, s.grp)] →
    s.my.SameTag [(vs2, s.grp), (vs1, s.grp)] tag →
    exec (.vfmergeVv vd vs2 vs1 w) s = .next (s.vGives [(4, s.groups)] ⟨vd.toNat, s.grp, s.eb, false⟩ s.my.strip.vl.toNat tag
      ⟨s.span.map (fun j => (j, if s.bit 0#6 j then s.elem vs1 s.eb j else s.elem vs2 s.eb j)), [], 0#5, 0#12⟩)) ∧
  (∀ (s : State) (vd vs2 vs1 : VReg) (fs1 : FReg) (w m : Bool), 4 ≤ s.fmt → s.fmt ≤ 7 →
    let g := s.grp
    let F := ffmt s.fmt
    let vl := s.my.strip.vl.toNat
    let q : Charge := [(if s.fmt = 7 then 5 else 4, s.groups)]
    let A := s.elem vs2 s.eb
    let V := s.elem vs1 s.eb
    let X : Nat → Nat := fun _ => (F.round .rne .ieee (fp64.value (s.my.getF fs1).toNat)).bits
    let truth (f : Val → Val → Bool) (loud : Bool) (B : Nat → Nat) : Exec :=
      let a (j : Nat) : Val := F.value (A j)
      let b (j : Nat) : Val := F.value (B j)
      let fl (j : Nat) : FFlags := if loud then (if ((a j).isNan || (b j).isNan) = true then 0x10#5 else 0#5) else (a j).snan ||| (b j).snan
      .next (s.vGives q ⟨vd.toNat, 1, 1, true⟩ vl 0#6
        ⟨(s.acts m).map (fun j => (j, if f (a j) (b j) then 1 else 0)), [], (s.acts m).foldl (fun x j => x ||| fl j) 0#5, 0#12⟩)
    let num (a b : Val) : Bool := !(a.isNan || b.isNan)
    let merged (B : Nat → Nat) : Exec :=
      .next (s.vGives q ⟨vd.toNat, g, s.eb, false⟩ vl (s.my.getV vs2).tag ⟨s.span.map (fun j => (j, if s.bit 0#6 j then B j else A j)), [], 0#5, 0#12⟩)
    let out (tag : BitVec 6) (f : Nat → Nat) : Exec :=
      .next (s.vGives q ⟨vd.toNat, g, s.eb, false⟩ vl tag ⟨(s.acts m).map (fun j => (j, f j)), [], 0#5, 0#12⟩)
    let vv := s.RunsV w m vd 1 [] [(vs2, g), (vs1, g)] ∧ s.my.Spatial [(vs2, g), (vs1, g)] ∧ Apart (vd, 1) (vs2, g) ∧ Apart (vd, 1) (vs1, g)
    let vf := s.RunsV w m vd 1 [.f fs1 w] [(vs2, g)] ∧ s.my.Spatial [(vs2, g)] ∧ Apart (vd, 1) (vs2, g)
    let un := s.RunsV w m vd g [] [(vs2, g)] ∧ s.my.Spatial [(vs2, g)]
    let h := 2 ^ (s.eb - 1)
    (vv → exec (.vfeqVv vd vs2 vs1 w m) s = truth (fun a b => num a b && a.le b && b.le a) false V) ∧
    (vf → exec (.vfeqVf vd vs2 fs1 w m) s = truth (fun a b => num a b && a.le b && b.le a) false X) ∧
    (vv → exec (.vfneVv vd vs2 vs1 w m) s = truth (fun a b => !(num a b && a.le b && b.le a)) false V) ∧
    (vf → exec (.vfneVf vd vs2 fs1 w m) s = truth (fun a b => !(num a b && a.le b && b.le a)) false X) ∧
    (vv → exec (.vfltVv vd vs2 vs1 w m) s = truth (fun a b => num a b && a.le b && !b.le a) true V) ∧
    (vf → exec (.vfltVf vd vs2 fs1 w m) s = truth (fun a b => num a b && a.le b && !b.le a) true X) ∧
    (vv → exec (.vfleVv vd vs2 vs1 w m) s = truth (fun a b => num a b && a.le b) true V) ∧
    (vf → exec (.vfleVf vd vs2 fs1 w m) s = truth (fun a b => num a b && a.le b) true X) ∧
    (vv → exec (.vfunVv vd vs2 vs1 w m) s = truth (fun a b => !num a b) false V) ∧
    (vf → exec (.vfunVf vd vs2 fs1 w m) s = truth (fun a b => !num a b) false X) ∧
    ((∃ tag, s.RunsV w true vd g [] [(vs2, g), (vs1, g)] ∧ s.my.SameTag [(vs2, g), (vs1, g)] tag) → exec (.vfmergeVv vd vs2 vs1 w) s = merged V) ∧
    (s.RunsV w true vd g [.f fs1 w] [(vs2, g)] → exec (.vfmergeVf vd vs2 fs1 w) s = merged X) ∧
    (un → exec (.vfclass vd vs2 w m) s = out 0#6 (fun j => F.classify (A j))) ∧
    (un → exec (.vfabs vd vs2 w m) s = out (s.my.getV vs2).tag (fun j => A j % h)) ∧
    (un → exec (.vfneg vd vs2 w m) s = out (s.my.getV vs2).tag (fun j => if A j < h then A j + h else A j - h)))

/-- R98, R99, R100, R254, R260, R262, R263 and R271: `vcmul` and `vcmac` multiply complex elements of one spectral tag, each part an exact sum of products rounded once, slot 0 of a half-spectrum by parts; `vconj` inverts the imaginary sign but of that slot;
the conversions go between the format their code names and `vtype`'s, under SAT and nan0 of `vqcfg` to FP8 and FP4; a source of a
spectral or reserved tag raises 0x09 (R251). By R332 the conversions between FP32 and BF16 take whole CFP32 elements to CBF16 ones and back, here where their number is a multiple of the lanes (others: log entry 64). -/
def Obligations.VectorComplexConvert : Prop :=
  ∀ (s : State) (vd vs2 vs1 : VReg) (code : BitVec 4) (w m : Bool) (rm : Rm),
    let moded := rmOf s.my.frm = some rm
    let g := s.grp
    let vl := s.my.strip.vl.toNat
    let A := s.elem vs2 s.eb
    let B := s.elem vs1 s.eb
    let P := partFmt s.fmt
    let pw := s.eb / 2
    let part (x : Nat) (i : Nat) : Val := P.value (x / 2 ^ (pw * i) % 2 ^ pw)
    let tag := (s.my.getV vs2).tag
    let packed (j : Nat) : Bool := tag.extractLsb' 4 2 = 1#2 && j % 2 ^ ((tag.extractLsb' 0 4).toNat + 3) = 0
    let out (q : Charge) (d : Group) (f : Nat → Rounded) : Exec :=
      .next (s.vGives q d vl tag
        ⟨(s.acts m).map (fun j => (j, (f j).bits)), [], (s.acts m).foldl (fun a j => a ||| (f j).flags) 0#5, (s.acts m).foldl (fun a j => a ||| (f j).q) 0#12⟩)
    let two (re im : Rounded) : Rounded := ⟨re.bits + 2 ^ pw * im.bits, re.flags ||| im.flags, re.q ||| im.q⟩
    let cx (f : Nat → Rounded) : Exec := out [(4, s.groups)] ⟨vd.toNat, g, s.eb, false⟩ f
    let product (acc : Nat → Nat → List Val) (j : Nat) : Rounded :=
      let a := part (A j)
      let b := part (B j)
      if packed j then two (P.deliver rm .ieee (sumProducts rm [mulExact (a 0) (b 0)] (acc j 0))) (P.deliver rm .ieee (sumProducts rm [mulExact (a 1) (b 1)] (acc j 1)))
      else two (P.deliver rm .ieee (sumProducts rm [mulExact (a 0) (b 0), mulExact (a 1).negate (b 1)] (acc j 0)))
        (P.deliver rm .ieee (sumProducts rm [mulExact (a 0) (b 1), mulExact (a 1) (b 0)] (acc j 1)))
    let complex := 14 ≤ s.fmt
    let spectral (gs : List (VReg × Nat)) : Prop := s.my.SameTag gs tag ∧ (tag.extractLsb' 4 2 = 1#2 ∨ tag.extractLsb' 4 2 = 2#2)
    let t := code.toNat
    let sw := formatBits t
    let n := convGroup g sw s.eb
    let C := s.elem vs2 sw
    let q : Charge := [(if s.fmt = 7 then 5 else if s.fmt ≤ 3 then 3 else 4, s.groups)]
    let src := s.RunsV w m vd g [] [(vs2, n)] ∧ s.my.Spatial [(vs2, n)] ∧ n ≠ 0 ∧ (sw = s.eb ∨ Apart (vd, g) (vs2, n))
    let conv (f : Nat → Rounded) : Exec := out q ⟨vd.toNat, g, s.eb, false⟩ f
    let small := 8 ≤ s.fmt ∧ s.fmt ≤ 10
    let other (x : Nat) : Rounded :=
      let v := (ffmt t).value x
      let r : Rounded := if v.isNan = true ∧ s.my.vqcfg.getLsbD 5 = true ∧ small then ⟨0, 0#5, 0x800#12⟩
        else (ffmt s.fmt).round rm (if small ∧ s.my.vqcfg.getLsbD 4 = true then .sat else .ieee) v
      { r with flags := r.flags ||| v.snan }
    let toInt (x : Nat) : Rounded :=
      let r := toIntSat rm (-(2 ^ (s.eb - 1))) (2 ^ (s.eb - 1) - 1) (2 ^ (s.eb - 1) - 1) ((ffmt t).value x)
      ⟨(r.1 % 2 ^ s.eb).toNat, r.2, 0#12⟩
    let ofInt (x : Nat) : Rounded := (ffmt s.fmt).round rm .ieee (Val.ofInt (if x < 2 ^ (sw - 1) then x else (x : Int) - 2 ^ sw))
    let mismatch (i : Instr) (v0 v1 : Nat) : Prop :=
      ∃ u, exec i s = .next (u.trapped 0x09#8 (BitVec.ofNat 64 v0) (BitVec.ofNat 64 v1)) ∧ u.my.v = s.my.v ∧ u.my.vbeg = s.my.vbeg ∧ SameMemory s u
    (complex → s.RunsV w m vd g [] [(vs2, g), (vs1, g)] → spectral [(vs2, g), (vs1, g)] → moded → exec (.vcmul vd vs2 vs1 w m) s = cx (product (fun _ _ => []))) ∧
    (complex → s.RunsV w m vd g [] [(vs2, g), (vs1, g), (vd, g)] → spectral [(vs2, g), (vs1, g), (vd, g)] → moded →
      exec (.vcmac vd vs2 vs1 w m) s = cx (product (fun j i => [part (s.elem vd s.eb j) i]))) ∧
    (complex → s.RunsV w m vd g [] [(vs2, g)] → spectral [(vs2, g)] → exec (.vconj vd vs2 w m) s = cx (fun j =>
      ⟨if packed j then A j else if A j < 2 ^ (s.eb - 1) then A j + 2 ^ (s.eb - 1) else A j - 2 ^ (s.eb - 1), 0#5, 0#12⟩)) ∧
    (complex → s.RunsV w m vd g [] [(vs2, g)] → tag.extractLsb' 4 2 = 0#2 ∨ tag.extractLsb' 4 2 = 3#2 → mismatch (.vconj vd vs2 w m) (tag.toNat + 256 * vs2.toNat) 0x40) ∧
    (upPair t s.fmt = true → src → moded → exec (.vcvtup vd vs2 code w m) s = conv (fun j => other (C j))) ∧
    (upPair s.fmt t = true → g ≤ 4 → src → moded → exec (.vcvtdn vd vs2 code w m) s = conv (fun j => other (C j))) ∧
    (s.fmt ≤ 3 → 4 ≤ t → t ≤ 7 → src → moded → exec (.vcvtfi vd vs2 code w m) s = conv (fun j => toInt (C j))) ∧
    (4 ≤ s.fmt → s.fmt ≤ 7 → t ≤ 3 → src → moded → exec (.vcvtif vd vs2 code w m) s = conv (fun j => ofInt (C j))) ∧
    (∀ i r, moded → s.RunsV w m vd g [] [(vs2, n)] → n ≠ 0 → sw = s.eb ∨ Apart (vd, g) (vs2, n) →
      (upPair t s.fmt = true ∧ i = .vcvtup vd vs2 code w m) ∨ (upPair s.fmt t = true ∧ g ≤ 4 ∧ i = .vcvtdn vd vs2 code w m) ∨
        (s.fmt ≤ 3 ∧ 4 ≤ t ∧ t ≤ 7 ∧ i = .vcvtfi vd vs2 code w m) ∨ (4 ≤ s.fmt ∧ s.fmt ≤ 7 ∧ t ≤ 3 ∧ i = .vcvtif vd vs2 code w m) →
      r < n → let bad := (s.my.getV (BitVec.ofNat 6 (vs2.toNat + r))).tag
      bad.extractLsb' 4 2 ≠ 0#2 → (∀ q, q < r → (s.my.getV (BitVec.ofNat 6 (vs2.toNat + q))).tag.extractLsb' 4 2 = 0#2) → mismatch i (bad.toNat + 256 * (vs2.toNat + r)) 0) ∧
    (∀ k, vl = 2 * k → vl ≤ vlmax s.fmt g (s.lanes s.who) → k % s.myLanes.length = 0 → s.my.vbeg = 0#64 → m = false → src → moded →
      let halves (sw dw x : Nat) : Nat := (other (x % 2 ^ sw)).bits + 2 ^ dw * (other (x / 2 ^ sw)).bits
      (s.fmt = 5 → t = 6 → g ≤ 4 → ∃ u, exec (.vcvtdn vd vs2 code w m) s = .next u ∧ ∀ j, j < k → u.elem vd 32 j = halves 32 16 (s.elem vs2 64 j)) ∧
      (s.fmt = 6 → t = 5 → ∃ u, exec (.vcvtup vd vs2 code w m) s = .next u ∧ ∀ j, j < k → u.elem vd 64 j = halves 16 32 (s.elem vs2 32 j)))

/-- R80, R92 to R96, R264, R265, R266, R267 and R268: `vquant` and `vdequant` take FP32 to INT8, FP8 or FP4 and back under one scale code of ten bits per block, and to and from
the shared-block formats, whole blocks with their headers in vs1 (R94 to R96, R265); `vbscale` gives the scale code of each element, or of f[fs1] in element 0; `vbamax` gives each
block's largest magnitude. -/
def Obligations.VectorQuantise : Prop :=
  ∀ (s : State) (vd vs2 vs1 : VReg) (fs1 : FReg) (t4 : BitVec 4) (tf : BitVec 6) (w m : Bool),
    let g := s.grp
    let vl := s.my.strip.vl.toNat
    let f := s.fmt
    let n := wideGroup f g
    let blk := if s.my.vqcfg.extractLsb' 0 2 = 0#2 then 16 else if s.my.vqcfg.extractLsb' 0 2 = 1#2 then 32 else 2 ^ 20
    let plainFmt := f = 0 ∨ (8 ≤ f ∧ f ≤ 10)
    let tag := (s.my.getV vs2).tag
    let q : Charge := [(if f ≤ 3 then 3 else if f = 7 then 5 else 4, s.groups)]
    let scale (j : Nat) : Nat := s.elem vs1 16 (j / blk) % 1024
    let acc (r : Nat → Rounded) : List (Nat × Nat) × FFlags × QFlags :=
      ((s.acts m).map (fun j => (j, (r j).bits)), (s.acts m).foldl (fun a j => a ||| (r j).flags) 0#5, (s.acts m).foldl (fun a j => a ||| (r j).q) 0#12)
    let out (d : Group) (tag : BitVec 6) (r : Nat → Rounded) : Exec := .next (s.vGives q d vl tag ⟨(acc r).1, [], (acc r).2.1, (acc r).2.2⟩)
    let quant (j : Nat) : Rounded := quantElt f (s.my.vqcfg.setWidth 6) (scale j) (s.elem vs2 32 j)
    let dequant (j : Nat) : Rounded := dequantElt f (scale j) (s.elem vs2 s.eb j)
    let F := ffmt f
    let code (t : Nat) (v : Val) : Rounded :=
      match v with
      | .nan _ => ⟨1023, 0#5, 0#12⟩
      | .inf _ => ⟨1022, 0#5, 0x200#12⟩
      | .fin _ 0 _ => ⟨0, 0#5, 0#12⟩
      | .fin _ k e =>
        let c := (k.log2 : Int) + e - (if t = 8 then 8 else if t = 9 then 15 else if t = 10 then 2 else 6) + 511
        if c < 0 then ⟨0, 0#5, 0x100#12⟩ else if 1022 < c then ⟨1022, 0#5, 0x400#12⟩ else ⟨c.toNat, 0#5, 0#12⟩
    let block (k : Nat) : List Nat := (((List.range (min blk (vl - k * blk))).map (k * blk + ·)).filter (fun j => s.my.vbeg.toNat ≤ j && (!m || s.bit 0#6 j))).map (s.elem vs2 s.eb)
    let most (xs : List Nat) : Nat := if xs.any (fun x => (F.value x).isNan) then F.nanCode else (xs.map (· % 2 ^ (s.eb - 1))).foldl max 0
    let good (t : Nat) : Prop := t = 0 ∨ (8 ≤ t ∧ t ≤ 10)
    let vbs := s.RunsV w m vd 1 [] [(vs2, g)] ∧ s.my.Spatial [(vs2, g)] ∧ Apart (vd, 1) (vs2, g)
    let bc := code tf.toNat (fp64.value (s.my.getF fs1).toNat)
    let shared := 11 ≤ f ∧ f ≤ 13 ∧ n ≠ 0 ∧ (11 < f → vl ≤ 256 * s.myLanes.length)
    let b0 := s.my.vbeg.toNat / 16
    let b1 := (vl + 15) / 16
    let enc (k : Nat) : Nat × List Nat × QFlags :=
      sharedEncode f ((List.range 16).map (fun j => if 16 * (b0 + k) + j < vl then s.elem vs2 32 (16 * (b0 + k) + j) else 0))
    let payload : Group := ⟨vd.toNat, g, s.eb, true⟩
    let heads : Group := ⟨vs1.toNat, 1, 32, false⟩
    let L := s.myLanes
    let blocks : State :=
      let t := (s.putGroup s.who L payload ((List.range (b1 - b0)).flatMap (fun k => (enc k).2.1.zipIdx.map (fun p => (16 * (b0 + k) + p.2, p.1))))).onRegs s.who
        (fun c => c.markV payload L.length (b1 * 16) tag true)
      let t := (t.putGroup s.who L heads ((List.range (b1 - b0)).map (fun k => (b0 + k, (enc k).1)))).onRegs s.who (fun c => c.markV heads L.length b1 0#6 true)
      let t := t.onRegs s.who (fun c => (c.accrue 0#5).accrueQ ((List.range (b1 - b0)).foldl (fun a k => a ||| (enc k).2.2) 0#12))
      s.retired [] ((t.charge s.who [(4, (vl - b0 * 16 + L.length - 1) / L.length)]).onMy (fun c => { c with vbeg := 0#64 }))
    let unblock (j : Nat) : Rounded :=
      let h := s.elem vs1 32 (j / 16)
      let e := h % 1024
      let x := s.my.read L ⟨vs2.toNat, g, s.eb, true⟩ j
      let mag := s.eb - 1
      let mu : Nat := h / 2 ^ (10 + j % 16 / 2) % 2
      if e = 1023 then ⟨fp32.nanCode, 0#5, 0#12⟩
      else { fp32.round .rne .ieee (.fin (x.testBit mag) (x % 2 ^ mag) ((e : Int) - 511 - mu - (mag - 1))) with q := 0#12 }
    (plainFmt → n ≠ 0 → s.my.vqcfg.extractLsb' 0 2 ≠ 3#2 → s.RunsV w m vd g [] [(vs2, n), (vs1, 1)] → s.my.Spatial [(vs2, n), (vs1, 1)] → Apart (vd,
    g) (vs2, n) → Apart (vd, g) (vs1, 1) → Apart (vs2, n) (vs1, 1) → exec (.vquant vd vs2 vs1 w m) s = out ⟨vd.toNat, g, s.eb, false⟩ tag quant) ∧
    (plainFmt → n ≠ 0 → s.my.vqcfg.extractLsb' 0 2 ≠ 3#2 → s.RunsV w m vd n [] [(vs2, g), (vs1, 1)] → s.my.Spatial [(vs2, g), (vs1, 1)] → Apart (vd,
    n) (vs2, g) → Apart (vd, n) (vs1, 1) → Apart (vs2, g) (vs1, 1) → exec (.vdequant vd vs2 vs1 w m) s = out ⟨vd.toNat, n, 32, false⟩ tag dequant) ∧
    (shared → s.RunsV w false vd g [] [(vs2, n)] → s.my.Spatial [(vs2, n)] → Apart (vd, g) (vs2, n) → Apart (vd, g) (vs1, 1) → Apart (vs2, n) (vs1, 1) →
      exec (.vquant vd vs2 vs1 w false) s = .next blocks) ∧
    (shared → s.RunsV w m vd n [] [(vs2, g), (vs1, 1)] → s.my.Spatial [(vs2, g), (vs1, 1)] → Apart (vd, n) (vs2, g) → Apart (vd, n) (vs1, 1) → Apart (vs2, g) (vs1, 1) →
      exec (.vdequant vd vs2 vs1 w m) s = out ⟨vd.toNat, n, 32, false⟩ tag unblock) ∧
    (good t4.toNat → ((f = 6 ∧ g ≤ 2) ∨ (f = 7 ∧ g ≤ 4)) → vbs → exec (.vbscaleVv vd vs2 t4 w m) s = out ⟨vd.toNat, 1, 16, false⟩ 0#6 (fun j => code
    t4.toNat (F.value (s.elem vs2 s.eb j)))) ∧
    (good tf.toNat → s.RunsV w false vd 1 [.f fs1 w] [] → exec (.vbscaleVf vd tf fs1 w) s = .next (s.vGives [(if f = 7 then 5 else if f ≤ 3 then 3
    else 4, 1)] ⟨vd.toNat, 1, 16, false⟩ 1024 0#6 ⟨[(0, bc.bits)], [], 0#5, bc.q⟩)) ∧
    (f = 6 ∨ f = 7 → s.my.vqcfg.extractLsb' 0 2 ≠ 3#2 → vbs → exec (.vbamax vd vs2 w m) s = .next (s.vGives q ⟨vd.toNat, 1, s.eb, false⟩ ((vl + blk -
    1) / blk) 0#6 ⟨(List.range ((vl + blk - 1) / blk)).map (fun k => (k, most (block k))), [], (s.acts m).foldl (fun a j => a ||| (F.value (s.elem vs2
    s.eb j)).snan) 0#5, 0#12⟩))

/-- R104, R105, R269 and R272: the special functions give each active element its function's value, rounded once (FP64 has `vfsqrt` and `vfrec` alone); the reductions combine the present elements in the fixed tree of R104, `vfredsum`
rounding at every node under `frm`, and leave one result in element 0 with tag 0. (That
`vfredmax`, `vfredmin` and `vfredamax` complete under any `frm`: log entry 54, the model's choice.) -/
def Obligations.VectorSpecialReduce : Prop :=
  ∀ (s : State) (vd vs2 : VReg) (w m : Bool), 4 ≤ s.fmt → s.fmt ≤ 7 →
    let g := s.grp
    let F := ffmt s.fmt
    let vl := s.my.strip.vl.toNat
    let A := s.elem vs2 s.eb
    let out (f : Val → Rounded) : Exec :=
      let r (j : Nat) : Rounded := f (F.value (A j))
      .next (s.vGives [(6, s.groups)] ⟨vd.toNat, g, s.eb, false⟩ vl (s.my.getV vs2).tag
        ⟨(s.acts m).map (fun j => (j, (r j).bits)), [], (s.acts m).foldl (fun a j => a ||| (r j).flags) 0#5, (s.acts m).foldl (fun a j => a ||| (r j).q) 0#12⟩)
    let un := s.RunsV w m vd g [] [(vs2, g)] ∧ s.my.Spatial [(vs2, g)]
    let red := s.RunsV w m vd 1 [] [(vs2, g)] ∧ s.my.Spatial [(vs2, g)]
    let present (abs : Bool) (j : Nat) : Option Nat :=
      if s.my.vbeg.toNat ≤ j ∧ (m = false ∨ s.bit 0#6 j = true) then some (if abs then A j % 2 ^ (s.eb - 1) else A j) else none
    let noisy := (s.acts m).foldl (fun a j => a ||| (F.value (A j)).snan) 0#5
    let nan := (s.acts m).any (fun j => (F.value (A j)).isNan)
    let reduced (abs : Bool) (op : Nat → Nat → Rounded) (empty : Nat) (sum : Bool) : Exec :=
      let t := reduceTree op 16 ((List.range vl).map (present abs)) noisy
      let r := t.1.getD empty
      .next (s.vGives [(if s.fmt = 7 then 5 else 4, s.groups)] ⟨vd.toNat, 1, s.eb, false⟩ vl 0#6
        ⟨[(0, if ((!sum && nan) || (F.value r).isNan) = true then F.nanCode else r)], [], t.2, 0#12⟩)
    let larger (l : Bool) (x y : Nat) : Rounded := if ((F.value x).isNan || (F.value y).isNan) = true then ⟨F.nanCode, (F.value x).snan ||| (F.value y).snan, 0#12⟩ else F.pick l x y
    (un → exec (.vfsqrt vd vs2 w m) s = out (F.sqrtVal .rne)) ∧
    (un → exec (.vfrec vd vs2 w m) s = out (F.divVal .rne (.fin false 1 0))) ∧
    (s.fmt ≤ 6 → un → exec (.vfrsqrt vd vs2 w m) s = out F.rsqrt) ∧
    (s.fmt ≤ 6 → un → exec (.vfexp2 vd vs2 w m) s = out F.exp2) ∧
    (s.fmt ≤ 6 → un → exec (.vflog2 vd vs2 w m) s = out F.log2) ∧
    (s.fmt ≤ 6 → un → exec (.vftanh vd vs2 w m) s = out F.tanh) ∧
    (s.fmt ≤ 6 → un → exec (.vfsilu vd vs2 w m) s = out F.silu) ∧
    (s.fmt ≤ 6 → un → exec (.vfgelu vd vs2 w m) s = out F.gelu) ∧
    (s.fmt ≤ 6 → un → exec (.vfsin vd vs2 w m) s = out F.sin) ∧
    (s.fmt ≤ 6 → un → exec (.vfcos vd vs2 w m) s = out F.cos) ∧
    (red → exec (.vfredmax vd vs2 w m) s = reduced false (larger true) (2 ^ (s.eb - 1) + F.infCode) false) ∧
    (red → exec (.vfredmin vd vs2 w m) s = reduced false (larger false) F.infCode false) ∧
    (red → exec (.vfredamax vd vs2 w m) s = reduced true (larger true) 0 false) ∧
    (∀ rm, rmOf s.my.frm = some rm → red → exec (.vfredsum vd vs2 w m) s = reduced false (fun x y => F.deliver rm .ieee (sumExact rm [F.value x,
    F.value y])) 0 true)

/-- R322, R323 and R325 to R329: a transform takes each block from the one that holds `vbeg` through DIF as R326 orders it, real blocks to half-spectra of twice the width and back, and gives vd the tag of `pblk`'s
length (an inverse: tag 0) in place of exactly the tag it requires; `vretag` and `vtagclr` copy a group whole, whatever `vl`, under `pblk`.rtag or tag 0. -/
def Obligations.VectorTransforms : Prop :=
  ∀ (s : State) (vd vs2 : VReg) (w : Bool),
    let g := s.grp
    let code := s.my.pblk.extractLsb' 0 4
    let n := code.toNat + 4
    let b := 2 ^ n
    let vl := s.my.strip.vl.toNat
    let lo := s.my.vbeg.toNat / b
    let L := s.myLanes.length
    let A := s.elem vs2 s.eb
    let pair := s.elem vs2 (2 * s.eb)
    let spectrum (d : BitVec 2) : BitVec 6 := d ++ code
    let out (eb size : Nat) (tag : BitVec 6) (f : Nat → List Nat) : Exec :=
      .next (s.vGives [(8, (vl - lo * b) / 2 * n), (4, (vl - lo * b + L - 1) / L)] ⟨vd.toNat, g, eb, false⟩ (vl / b * size) tag
        ⟨(List.range (vl / b - lo)).flatMap (fun q => (f (lo + q)).zipIdx.map (fun p => ((lo + q) * size + p.2, p.1))), [], 0#5, 0#12⟩)
    let block (inverse complex : Bool) (size : Nat) (x : Nat → Nat) (q : Nat) : List Nat :=
      purlBlock inverse complex (s.fmt == 5 || s.fmt == 14) n ((List.range size).map (fun j => x (q * size + j)))
    let runs := code.toNat ≤ 8 ∧ vl % b = 0 ∧ s.RunsV w false vd g [] [(vs2, g)]
    let d : Group := ⟨vd.toNat, g, s.eb, false⟩
    let copied (tag : BitVec 6) : Exec := .next (s.retired [] ((((s.onMy (fun c => c.copyGroup d ((List.range g).map (fun j => (s.my.getV (BitVec.ofNat 6 (vs2.toNat + j))).data)) tag)).healRegs
      s.who true d.allWords).charge s.who
      [(if s.fmt = 7 then 5 else if s.fmt ≤ 3 then 3 else 4, g * (1024 / s.eb))]).onMy (fun c => { c with vbeg := 0#64 })))
    let copies := s.Issues .vector [.v vs2 g w] ∧ s.ndl = .V ∧ s.my.nV.part = none ∧ s.my.stepping = false ∧ (∀ r, (s.my.getV r).stream = none) ∧ s.badRegs s.who = [] ∧
      (vd.toNat % g = 0 ∧ vd.toNat + g ≤ 64) ∧ vs2.toNat % g = 0 ∧ vs2.toNat + g ≤ 64
    let rtag := s.my.pblk.extractLsb' 8 6
    (s.fmt = 5 ∨ s.fmt = 6 → runs → s.my.Spatial [(vs2, g)] → exec (.pfwd vd vs2 w) s = out (2 * s.eb) (b / 2) (spectrum 1#2) (block false false b A)) ∧
    (s.fmt = 5 ∨ s.fmt = 6 → runs → s.my.SameTag [(vs2, g)] (spectrum 1#2) → exec (.pinv vd vs2 w) s = out s.eb b 0#6 (block true false (b / 2) pair)) ∧
    (14 ≤ s.fmt → runs → s.my.Spatial [(vs2, g)] → exec (.pfwdc vd vs2 w) s = out s.eb b (spectrum 2#2) (block false true b A)) ∧
    (14 ≤ s.fmt → runs → s.my.SameTag [(vs2, g)] (spectrum 2#2) → exec (.pinvc vd vs2 w) s = out s.eb b 0#6 (block true true b A)) ∧
    ((rtag.extractLsb' 4 2 = 0#2 ∨ (rtag.extractLsb' 4 2 ≠ 3#2 ∧ (rtag.extractLsb' 0 4).toNat ≤ 8)) → copies → exec (.vretag vd vs2 w) s = copied
    rtag) ∧
    (copies → exec (.vtagclr vd vs2 w) s = copied 0#6) ∧
    (∀ (c : Ctx) (d : VReg) (eb n k : Nat) (xs : List (BitVec 16384)) (x : BitVec 16384) (tag : BitVec 6), xs[k]? = some x → d.toNat + xs.length ≤ 64 →
      (c.copyGroup ⟨d.toNat, n, eb, false⟩ xs tag).getV (BitVec.ofNat 6 (d.toNat + k)) =
        { c.getV (BitVec.ofNat 6 (d.toNat + k)) with data := x, tag := tag, full := true, dirty := true, vlb := 128#8 })

/-- R164 to R166, R273 to R280: when the access of every active element passes its checks (for `.fe` and `.fec` on a full granule) and the elements' tiles carry one tag, a vector load gives vd those elements from memory with that tag;
where no element is active every register of the group keeps its own tag; `.fec` empties each granule after its last element; `.sc` takes a ticket for each element, which acquires and counts as a release; a plain load notes releases for the next acquire fence. -/
def Obligations.VectorLoads : Prop :=
  ∀ (s : State) (vd vs2 : VReg) (rs1 rs2 : XReg) (w m : Bool) (acc : Nat → Access),
    let g := s.grp
    let eb := s.eb
    let sz := eb / 8
    let a := s.who
    let n2 := max 1 (g * 32 / eb)
    let acts := s.acts m
    let base := s.my.getX rs1
    let unit (i : Nat) : Word := base + BitVec.ofNat 64 (i * sz)
    let strided (i : Nat) : Word := base + BitVec.ofNat 64 i * s.my.getX rs2
    let indexed (i : Nat) : Word := base + BitVec.ofNat 64 (s.elem vs2 32 i)
    let tag := (acts.head?.map (fun i => s.tagAt (acc i))).getD (s.my.getV vd).tag
    let passes (ptr : Nat → Word) (k : Support) : Prop := ∀ i ∈ acts, s.plainAccess (s.my.view a) (ptr i) { size := sz, align := sz, kind := k } = .ok (acc i)
    let exact (ptr : Nat → Word) : Prop := ∀ i ∈ acts, s.access (s.my.view a) (ptr i) { size := sz, align := sz, kind := .ticket } = .ok (acc i)
    let full : Prop := ∀ i ∈ acts, (s.granule (granuleOf (acc i).phys)).full = true
    let runs (xs : List Src) (gs : List (VReg × Nat)) : Prop := (s.fmt ≤ 9 ∨ 14 ≤ s.fmt) ∧ s.my.vbeg.toNat < s.my.strip.vl.toNat ∧ s.RunsMem w m xs gs ∧
      (vd.toNat % g = 0 ∧ vd.toNat + g ≤ 64) ∧ (m = true → vd ≠ 0#6) ∧ ∀ i ∈ acts, s.tagAt (acc i) = tag
    let last (i : Nat) : Bool := !acts.any (fun j => i < j && j ≤ i + 16 && unit j >>> 4 == unit i >>> 4)
    let note (t : State) (i : Nat) : State := t.noteReads a (acc i).phys sz
    let emptied (t : State) (i : Nat) : State :=
      let t := note t i
      let k := granuleOf (acc i).phys
      if last i then t.setGranule k { t.granule k with full := false } else t
    let ordered (t : State) (i : Nat) : State := ({ t with ticket := t.ticket + 1#64 }.acquireAll (s.my.coreNo a) 3#3 (t.releasesAt (acc i).phys sz)).countRelease (s.my.coreNo a) 3#3
    let d : Group := ⟨vd.toNat, g, eb, false⟩
    let kept (c : Ctx) : Ctx :=
      (List.range g).foldl (fun c j => c.markReg d s.myLanes.length s.my.strip.vl.toNat (s.my.getV (BitVec.ofNat 6 (vd.toNat + j))).tag true j) c
    let none_ : State := s.retired [] ((((s.putGroup a s.myLanes d []).onRegs a kept).charge a [(7, s.groups)]).onMy (fun c => { c with vbeg := 0#64 }))
    let loads (f : State → Nat → State) : Exec :=
      .next (if acts = [] then none_ else (acts.foldl f s).vGives [(7, s.groups)] d s.my.strip.vl.toNat tag
        ⟨(acts.map (fun i => (i, s.read (acc i).key (acc i).phys sz))).reverse, [], 0#5, 0#12⟩)
    let xo := n2 ≤ 8 ∧ Apart (vd, g) (vs2, n2) ∧ runs [.x rs1 w] [(vs2, n2)]
    (runs [.x rs1 w] [] → passes unit .any → exec (.vld vd rs1 w m) s = loads note) ∧
    (runs [.x rs1 w] [] → passes unit .granule → full → exec (.vldFe vd rs1 w m) s = loads note) ∧
    (runs [.x rs1 w] [] → passes unit .granule → full → exec (.vldFec vd rs1 w m) s = loads emptied) ∧
    (runs [.x rs1 w] [] → exact unit → exec (.vldSc vd rs1 w m) s = loads ordered) ∧
    (runs [.x rs1 w, .x rs2 w] [] → passes strided .any → exec (.vlds vd rs1 rs2 w m) s = loads note) ∧
    (runs [.x rs1 w, .x rs2 w] [] → passes strided .granule → full → exec (.vldsFe vd rs1 rs2 w m) s = loads note) ∧
    (xo → passes indexed .any → exec (.vldx vd rs1 vs2 w m) s = loads note) ∧
    (xo → passes indexed .granule → full → exec (.vldxFe vd rs1 vs2 w m) s = loads note)

/-- R126 to R128, R137, R161, R164 to R166, R273 to R280: when the access of every active element passes its checks, a vector store writes those elements of vd to memory, and vd's tag to the scratchpad tiles it touches; `.fe` sets the granules full; `.sc` takes a
ticket for each element; under a release half each element is a release; `vst.nt` then adds the elements it covered to its count and stores the count at `vprog` as a release. (That the elements of a `.sc` store acquire the releases that they replace: log
entry 56, the model's choice.) -/
def Obligations.VectorStores : Prop :=
  ∀ (s : State) (vd vs2 : VReg) (rs1 rs2 : XReg) (w m : Bool) (acc : Nat → Access) (word : Access),
    let g := s.grp
    let eb := s.eb
    let sz := eb / 8
    let a := s.who
    let n2 := max 1 (g * 32 / eb)
    let acts := s.acts m
    let base := s.my.getX rs1
    let unit (i : Nat) : Word := base + BitVec.ofNat 64 (i * sz)
    let strided (i : Nat) : Word := base + BitVec.ofNat 64 i * s.my.getX rs2
    let indexed (i : Nat) : Word := base + BitVec.ofNat 64 (s.elem vs2 32 i)
    let tag := (s.my.getV vd).tag
    let passes (ptr : Nat → Word) (k : Support) : Prop := ∀ i ∈ acts, s.plainAccess (s.my.view a) (ptr i) { size := sz, align := sz, write := true, kind := k } = .ok (acc i)
    let exact (ptr : Nat → Word) : Prop := ∀ i ∈ acts, s.access (s.my.view a) (ptr i) { size := sz, align := sz, write := true, kind := .ticket } = .ok (acc i)
    let runs (xs : List Src) (gs : List (VReg × Nat)) : Prop := (s.fmt ≤ 9 ∨ 14 ≤ s.fmt) ∧ s.my.vbeg.toNat < s.my.strip.vl.toNat ∧ s.RunsMem w m xs ((vd, g) :: gs)
    let half : Option Half := match s.my.relHalf, s.my.openHalf with
      | none, h => h
      | some sc, none => some { scope := sc, know := s.my.relKnow }
      | some sc, some h => some { scope := BitVec.ofNat 3 (max sc.toNat h.scope.toNat), know := s.my.relKnow }
    let tile (t : State) (i : Nat) : State := if (acc i).region = .spad then t.tagTiles tag (acc i).phys sz else t
    let put (t : State) (i : Nat) : State := t.putRelease a (acc i) sz (s.elem vd eb i) false half
    let plainly (t : State) (i : Nat) : State := tile (put t i) i
    let filling (t : State) (i : Nat) : State := tile ((put t i).fillGranules (acc i).phys sz) i
    let ordered (t : State) (i : Nat) : State :=
      let u := { t with ticket := t.ticket + 1#64 }.acquireAll (s.my.coreNo a) 3#3 (t.releasesAt (acc i).phys sz)
      tile (u.putRelease a (acc i) sz (s.elem vd eb i) true (some { scope := (half.map (fun h => BitVec.ofNat 3 (max h.scope.toNat 3))).getD 3#3, know := u.knowledge (u.my.coreNo a) })) i
    let count := s.my.strip.vl.toNat - s.my.vbeg.toNat
    let stored (f : State → Nat → State) (progress : Bool) : Exec :=
      let t := acts.foldl f s
      let t := (if progress then t.progress a word count else t).charge a [(7, s.groups)]
      .next (s.retired [] (t.onMy (fun c => { c with vbeg := 0#64, relHalf := if acts = [] ∧ progress = false then c.relHalf else none, openHalf := if acts = [] ∧ progress = false then c.openHalf else none })))
    let xo := n2 ≤ 8 ∧ runs [.x rs1 w] [(vs2, n2)]
    (runs [.x rs1 w] [] → passes unit .any → exec (.vst vd rs1 w m) s = stored plainly false) ∧
    (runs [.x rs1 w] [] → passes unit .granule → exec (.vstFe vd rs1 w m) s = stored filling false) ∧
    (runs [.x rs1 w] [] → passes unit .any → s.my.vprog = 0#64 → exec (.vstNt vd rs1 w m) s = stored plainly false) ∧
    (runs [.x rs1 w] [] → passes unit .any → s.my.vprog ≠ 0#64 → s.plainAccess (s.my.view a) s.my.vprog { size := 8, align := 8, write := true } = .ok
    word → exec (.vstNt vd rs1 w m) s = stored plainly true) ∧
    (runs [.x rs1 w] [] → exact unit → exec (.vstSc vd rs1 w m) s = stored ordered false) ∧
    (runs [.x rs1 w, .x rs2 w] [] → passes strided .any → exec (.vsts vd rs1 rs2 w m) s = stored plainly false) ∧
    (runs [.x rs1 w, .x rs2 w] [] → passes strided .granule → exec (.vstsFe vd rs1 rs2 w m) s = stored filling false) ∧
    (xo → passes indexed .any → exec (.vstx vd rs1 vs2 w m) s = stored plainly false) ∧
    (xo → passes indexed .granule → exec (.vstxFe vd rs1 vs2 w m) s = stored filling false)

/-- R135, R162, R281 to R283: each active element of a bank update makes one indivisible update of its word, in element order, without flags. `vlock` visits the distinct words in rising address order and takes free locks until one is held; `vunlock` frees those that this core
holds, each as a release at panel scope; both give mask bits that say which. (That a hub core's lock value is 1 and its locks lie in panel 0: log entry 49, the model's choice.) -/
def Obligations.BankUpdates : Prop :=
  ∀ (s : State) (vd vs2 : VReg) (rs1 : XReg) (w m : Bool) (acc : Nat → Access) (order : List Nat),
    let g := s.grp
    let eb := s.eb
    let sz := eb / 8
    let F := ffmt s.fmt
    let a := s.who
    let core := s.my.core
    let n2 := max 1 (g * 32 / eb)
    let acts := s.acts m
    let ptr (i : Nat) : Word := s.my.getX rs1 + BitVec.ofNat 64 (s.elem vs2 32 i)
    let update (f : Nat → Nat → Nat) : Exec :=
      let t := acts.foldl (fun (t : State) i => t.putAtomic core (acc i) sz (f (t.read (acc i).key (acc i).phys sz) (s.elem vd eb i))) s
      .next (s.retired [] ((t.charge a [(7, s.groups)]).onMy (fun c => { c with vbeg := 0#64 })))
    let larger (x y : Nat) : Nat := if ((F.value x).isNan || (F.value y).isNan) = true then F.nanCode else (F.pick true x y).bits
    let int := s.fmt = 2 ∨ s.fmt = 3
    let real := s.fmt = 6 ∨ s.fmt = 7
    let runs := n2 ≤ 8 ∧ s.my.vbeg.toNat < s.my.strip.vl.toNat ∧ s.RunsMem w m [.x rs1 w] [(vd, g), (vs2, n2)] ∧ s.my.Spatial [(vd, g)] ∧
      ∀ i ∈ acts, s.access (s.my.view a) (ptr i) { size := sz, align := sz, write := true, rmw := true, kind := .rmw } = .ok (acc i)
    let vl := s.my.strip.vl.toNat
    let all := (List.range vl).filter (fun i => !m || s.bit 0#6 i)
    let first := all.filter (fun i => !all.any (fun j => j < i && ptr j == ptr i))
    let locks (es : List Nat) : Prop := s.fmt = 3 ∧ 0 < vl ∧ s.RunsMem w m [.x rs1 w] [(vs2, n2)] ∧ (m = true → vd ≠ 0#6) ∧ Apart (vd, 1) (vs2, n2) ∧
      ∀ i ∈ es, s.access (s.my.view a) (ptr i) { size := 8, align := 8, write := true, rmw := true, kind := .lock } = .ok (acc i)
    let bits (es : List Nat) (t : State) : Exec :=
      .next (t.vGives [(7, (vl + s.myLanes.length - 1) / s.myLanes.length)] ⟨vd.toNat, 1, 1, true⟩ vl 0#6 ⟨(List.range vl).map (fun i => (i, if es.contains i then 1 else 0)), [], 0#5, 0#12⟩)
    let mine := core.getD 0 + 1
    let taken := order.takeWhile (fun i => s.read (acc i).key (acc i).phys 8 == 0)
    let freed := all.foldl (fun (r : State × List Nat) i =>
      if r.1.read (acc i).key (acc i).phys 8 = mine then (r.1.putRelease a (acc i) 8 0 true (some { scope := 2#3, know := r.1.knowledge (r.1.my.coreNo a) }), i :: r.2) else r) (s, [])
    (int → runs → exec (.vbadd vd vs2 rs1 w m) s = update (fun x y => (x + y) % 2 ^ eb)) ∧
    (int → runs → exec (.vbor vd vs2 rs1 w m) s = update (· ||| ·)) ∧
    (real → runs → exec (.vbfadd vd vs2 rs1 w m) s = update (fun x y => (F.deliver .rne .ieee (sumExact .rne [F.value x, F.value y])).bits)) ∧
    (real → runs → exec (.vbfmax vd vs2 rs1 w m) s = update larger) ∧
    (locks first → order.Perm first → order.Pairwise (fun i j => (acc i).phys + 8 ≤ (acc j).phys) → exec (.vlock vd vs2 rs1 w m) s = bits taken
    (taken.foldl (fun (t : State) i => (t.acquireAll (s.my.coreNo a) 2#3 (t.releasesAt (acc i).phys 8)).putAtomic core (acc i) 8 mine) s)) ∧
    (locks all → exec (.vunlock vd vs2 rs1 w m) s = bits freed.2 freed.1)

/-! ## The matrix array and the inline queues -/

/-- R15, R16, R302, R303, R307, R313 to R319: a matrix instruction whose formats, group and sources are good and whose queue has room places an entry that holds its
word and what it captured; its destinations turn empty, and it retires. On M no `mtset` of its own that is still queued writes an x register it names. -/
def Obligations.MatrixIssue : Prop :=
  ∀ (s : State) (zd : ZReg) (vd : VReg) (rd rs1 zs fmt : BitVec 5) (w : Bool), s.my.matQ.length < 32 →
    let c := s.my
    let L := s.myLanes.length
    let n := if 16 ≤ L then 1 else if 8 ≤ L then 2 else if 4 ≤ L then 4 else 8
    let e : QEntry := { word := s.ir, opnd := c.getX rs1, lanes := BitVec.ofNat 5 L, ipc := s.pc, seq := c.nextSeq, byS := s.ndl == .S }
    let step : QEntry := { e with pblk := c.pblk, mapitch := c.mapitch }
    let placed (f : Ctx → Ctx) (e : QEntry) : Exec :=
      .next (s.retired [] (s.onMy (fun c => { f c with matQ := c.matQ ++ [e], nextSeq := c.nextSeq + 1 })))
    let same (c : Ctx) : Ctx := c
    let one := s.Issues .matrix [.x rs1 w] ∧ c.mtsetHolds s.ndl [rs1] = false
    let free := s.ndl = .S → c.memHeld = false
    let weight := fmt.toNat ∈ [0, 4, 5, 7, 8, 9, 10, 11, 12, 13, 14, 16]
    let act := fmt.toNat ∈ [0, 4, 5, 7, 8, 9, 10, 11, 12, 13, 14]
    let tiles (c : Ctx) : Ctx := c.tilesFull false (if fmt.toNat = 7 ∨ fmt.toNat = 14 then [zd, zd + 1#3] else [zd])
    (s.Issues .matrix [.x rs1 w, .x (rs1 + 1#5) w, .x (rs1 + 2#5) w] → c.mtsetHolds s.ndl [rs1, rs1 + 1#5, rs1 + 2#5, rd, rd + 1#5, rd + 2#5] = false → exec (.mtset rd rs1 w) s =
      placed (fun c => if s.ndl = .S then ((c.emptyX rd).emptyX (rd + 1#5)).emptyX (rd + 2#5) else c) { e with opnd1 := c.getX (rs1 + 1#5), opnd2 := c.getX (rs1 + 2#5) }) ∧
    (weight → one → exec (.mwld rs1 fmt w) s = placed same { e with mwpitch := c.mwpitch }) ∧
    (s.Issues .matrix [.x rs1 w, .v vd 1 w] → c.mtsetHolds s.ndl [rs1] = false → free → (c.getV vd).stream = none → s.badRegs s.who = [] → exec (.mgath vd rs1 w) s =
      placed same { e with idx := (List.range 32).map (fun k => BitVec.ofNat 32 (s.elem vd 32 k)) }) ∧
    (act → one → exec (.mmac zd rs1 fmt w) s = placed tiles step) ∧
    (act → one → exec (.mmacz zd rs1 fmt w) s = placed tiles { step with mzmap := c.mzmap }) ∧
    (s.Issues .matrix [] → exec (.mzero zd) s = placed same { e with opnd := 0#64 }) ∧
    (s.Issues .matrix [.z (zs.setWidth 3) w] → free → (∀ r, (c.getV r).stream = none) → vd.toNat % n = 0 → vd.toNat + n ≤ 64 → exec (.mrd vd zs w) s =
      placed (fun c => (List.range n).foldl (fun c j => c.setV (BitVec.ofNat 6 (vd.toNat + j)) { c.getV (BitVec.ofNat 6 (vd.toNat + j)) with full := false }) c)
        { e with opnd := 0#64 }) ∧
    (one → exec (.mst zd rs1 w) s = placed same e) ∧
    (one → exec (.mcode rs1 w) s = placed same e)

/-- R101, R102, R300, R302, R305, R307, R308, R313 to R319: the array takes the head entry of the matrix queue. With an array fault recorded it discards the entry. `mzero` clears its tile; `mtset` grants the
smaller of each request and the limit; `mwld` latches rows of weights, with the headers of a shared-block format and the codebook of CB4; `mcode` loads the codebook; `mgath` gathers rows into the operand latch; an INT8 `mmac` from that latch
adds each sum of products to its accumulator, modulo 2^32; in every format `mmac` and `mmacz`, from memory or the latch, put into each output element the exact K-step over its old value and the present products, rounded once (`mmacz` leaves out the activations whose
bitmap bit is set), and record the class and tag of the tile; `mrd` and `mst` move a tile out; a format of another class than the latched weights' is recorded as an array fault and changes no accumulator. -/
def Obligations.MatrixQueueEntry : Prop :=
  ∀ (s : State) (a : Agent) (e : QEntry) (es : List QEntry) (i : MInstr) (acc : Nat → Access),
    s.onCore a = true → (s.regs a).matQ = e :: es → e.fo = none → matOfWord e.word = some i → s.badRegs a = [] →
    let c := s.regs a
    let r := c.arr
    let z : ZReg := i.rd.setWidth 3
    let zs : ZReg := i.rs1.setWidth 3
    let f := i.fmt.toNat
    let mg := r.mg.toNat
    let ng := r.ng.toNat
    let kg := r.kg.toNat
    let base := s.onRegs a (fun c => { c with matQ := es, arr := { c.arr with used := true } })
    let done (t : State) : State := match a with
      | .ctx k => t.settleEnd k
      | .hub _ => t
    let runs (op : MOp) : Prop := r.fault = none ∧ i.op = op
    let leaves (p : Ctx → Prop) : Prop := ∃ t, exec (.matrixQueueEntry a) s = .next t ∧ SameMemory s t ∧ (t.regs a).matQ = es ∧ p (t.regs a)
    let others (d : Ctx) (k : ZReg) : Prop := ∀ y, y ≠ k → d.getZ y = c.getZ y
    let eb := matBits f
    let row := rowLength f ng true
    let pitched (w : Word) (n : Nat) : Word := if w.extractLsb' 0 32 = 0#32 then BitVec.ofNat 64 n else (w.extractLsb' 0 32).signExtend 64
    let headersAt (w : Word) : Word := e.opnd + (w.extractLsb' 32 32).signExtend 64
    let elements : Nat := if 16 ≤ eb then eb / 8 else 1
    let w8 (x : Word) : Int := (x.setWidth 8).toInt
    let ringed (m n : Nat) : Int := ((r.cells.filter (fun x => x.1 % 16 = n ∧ x.1 / 16 < kg)).map (fun x => (r.latch.extractLsb' (512 * m + 8 * (x.1 / 16)) 8).toInt * w8 x.2)).sum
    let tile := c.getZ z
    let put (t : State) (j : Nat) : State :=
      let t := t.putPlain c.core (acc j) 64 (tile.data.extractLsb' (512 * j) 512).toNat
      if (acc j).region = .spad then t.tagTiles (if tile.mode = 2#2 then tile.tag else 0#6) (acc j).phys 64 else t
    let src := c.getZ zs
    let sw := if src.mode = 0#2 then 32 else 64
    let n := if 16 ≤ e.lanes.toNat then 1 else if 8 ≤ e.lanes.toNat then 2 else if 4 ≤ e.lanes.toNat then 4 else 8
    (r.fault.isSome = true → exec (.matrixQueueEntry a) s = .next (done (base.onRegs a (fun c => c.fillDests i e)))) ∧
    (runs .mzero → leaves (fun d => d.getZ z = { data := 0#16384, mode := 0#2, tag := 0#6, full := true, written := true } ∧ others d z)) ∧
    (runs .mtset → weightFormat (e.opnd2.extractLsb' 56 5).toNat = true →
      let M := min e.opnd.toNat 32
      let N := min e.opnd1.toNat 16
      let K := min (e.opnd2.extractLsb' 0 48).toNat (kLimit (e.opnd2.extractLsb' 56 5).toNat)
      leaves (fun d => d.arr = { r with used := true, mg := BitVec.ofNat 8 M, ng := BitVec.ofNat 8 N, kg := BitVec.ofNat 8 K } ∧
        ∀ q, d.getX q = (((c.setX i.rd (BitVec.ofNat 64 M)).setX (i.rd + 1#5) (BitVec.ofNat 64 N)).setX (i.rd + 2#5) (BitVec.ofNat 64 K)).getX q)) ∧
    (∀ hdr : Nat → Access, runs .mwld → weightFormat f = true → 0 < row → kg ≤ kLimit f →
      (∀ k, k < kg → s.plainAccess (c.view a) (e.opnd + BitVec.ofNat 64 k * pitched e.mwpitch row) { size := row, align := elements } = .ok (acc k) ∧
        (f ≠ 14 → ∀ t ∈ s.tagsAt (acc k) row, t.extractLsb' 4 2 = 0#2)) →
      (fmtShared f = true → ∀ k, k < kg → s.plainAccess (c.view a) (headersAt e.mwpitch + BitVec.ofNat 64 (4 * k)) { size := 4, align := 4 } = .ok (hdr k)) →
      let bytes (k : Nat) : Nat := s.read (acc k).key (acc k).phys row
      leaves (fun d => d.arr = { r with
        used := true
        wfmt := i.fmt
        whdr := if fmtShared f = true then (List.range kg).map (fun k => (k, BitVec.ofNat 32 (s.read (hdr k).key (hdr k).phys 4))) else []
        wcode := if f = 16 then r.codebook else r.wcode
        cells := (List.range kg).flatMap (fun k => ((List.range ng).filter (fun n => !(f == 16 && (bytes k).testBit (64 + n)))).map (fun n =>
          (16 * k + n, BitVec.ofNat 64 (bytes k / 2 ^ (eb * n) % 2 ^ eb)))) })) ∧
    (runs .mcode → s.plainAccess (c.view a) e.opnd { size := 32, align := 32 } = .ok (acc 0) →
      leaves (fun d => d.arr = { r with used := true, codebook := BitVec.ofNat 256 (s.read (acc 0).key (acc 0).phys 32) })) ∧
    (runs .mgath → e.idx.length = 32 → mg ≤ 32 →
      (∀ k, k < mg → s.plainAccess (c.view a) (e.opnd + (e.idx.getD k 0#32).setWidth 64) { size := 64, align := 16, kind := .granule } = .ok (acc k) ∧
        (acc k).phys % 2048 + 64 ≤ 2048) →
      leaves (fun d => ∀ k, k < mg → d.arr.latch.extractLsb' (512 * k) 512 = BitVec.ofNat 512 (s.read (acc k).key (acc k).phys 64) ∧
        d.arr.latchTags.extractLsb' (6 * k) 6 = s.tileTag (tileOf (acc k).phys))) ∧
    (runs .mmac → i.rs1 = 0#5 → f = 0 → r.wfmt = 0#5 → 0 < mg → mg ≤ 32 → 0 < ng → ng ≤ 16 → 0 < kg → kg ≤ 64 →
      (∀ m, m < mg → (r.latchTags.extractLsb' (6 * m) 6).extractLsb' 4 2 = 0#2) →
      leaves (fun d => (d.getZ z).full = true ∧ (d.getZ z).mode = 0#2 ∧ others d z ∧ ∀ m n, m < mg → n < ng →
        (d.getZ z).data.extractLsb' (32 * (16 * m + n)) 32 = BitVec.ofInt 32 ((tile.data.extractLsb' (32 * (16 * m + n)) 32).toInt + ringed m n))) ∧
    (∀ (hdr : Nat → Nat → Access) (zmap : Nat → Access), runs .mmac ∨ runs .mmacz →
      let latched := i.rs1 = 0#5
      let cx := f = 14
      let wide := f = 7 ∨ f = 14
      let w := if wide then 64 else 32
      let rowA := rowLength f kg false
      let tag := s.firstTag a i e
      let good (t : BitVec 6) : Prop := if cx then t = tag ∧ (tag.extractLsb' 4 2 = 1#2 ∨ tag.extractLsb' 4 2 = 2#2) else t.extractLsb' 4 2 = 0#2
      let bits (m : Nat) : Nat := if latched then (r.latch.extractLsb' (512 * m) 512).toNat else s.read (acc m).key (acc m).phys rowA
      let headers (m : Nat) : List Nat := if fmtShared f = true then (List.range (kg / 16)).map (fun q => s.read (hdr m q).key (hdr m q).phys 4) else []
      let absent (m k : Nat) : Bool := i.op == .mmacz && (s.read (zmap m).key (zmap m).phys 16).testBit k
      let present (m n : Nat) : List ((Val × Val) × (Val × Val)) := r.cells.filterMap (fun x =>
        if x.1 % 16 = n ∧ x.1 / 16 < kg ∧ absent m (x.1 / 16) = false then some (activation f (bits m) (headers m) (x.1 / 16), r.weight (x.1 / 16) n x.2.toNat) else none)
      let pairs : Bool := f == 14 && e.pblk.getLsbD 16 && tag.extractLsb' 4 2 == 1#2
      let home (m : Nat) : ZReg := if wide then z + BitVec.ofNat 3 (m / 16) else z
      let pos (m n : Nat) : Nat := if wide then 64 * (16 * (m % 16) + n) else 32 * (16 * m + n)
      let tiles : List ZReg := if wide then [z, z + 1#3] else [z]
      let old (m n : Nat) : Nat := ((c.getZ (home m)).data.extractLsb' (pos m n) w).toNat
      matClass f = matClass r.wfmt.toNat → kg ≤ kLimit f → (fmtShared f = true → ¬ latched ∧ kg % 16 = 0) → 0 < mg → mg ≤ 32 → 0 < ng → ng ≤ 16 → 0 < kg →
      (latched → ∀ m, m < mg → good (r.latchTags.extractLsb' (6 * m) 6)) →
      (¬ latched → ∀ m, m < mg → s.plainAccess (c.view a) (e.opnd + BitVec.ofNat 64 m * pitched e.mapitch rowA) { size := rowA, align := elements } = .ok (acc m) ∧
        ∀ t ∈ s.tagsAt (acc m) rowA, good t) →
      (fmtShared f = true → ∀ m q, m < mg → q < kg / 16 → s.plainAccess (c.view a) (headersAt e.mapitch + BitVec.ofNat 64 (32 * m + 4 * q)) { size := 4, align := 4 } = .ok (hdr m q)) →
      (i.op = .mmacz → ∀ m, m < mg → s.plainAccess (c.view a) (e.mzmap + BitVec.ofNat 64 (16 * m)) { size := 16, align := 16 } = .ok (zmap m)) →
      (cx → ∀ y ∈ tiles, (c.getZ y).mode = 2#2 → (c.getZ y).tag = tag) →
      leaves (fun d => (∀ m n, m < mg → n < ng → ((d.getZ (home m)).data.extractLsb' (pos m n) w).toNat = kStep (matClass f) pairs (old m n) (present m n) % 2 ^ w) ∧
        (∀ y ∈ tiles, (d.getZ y).full = true ∧ (d.getZ y).mode = (if f = 7 then 1#2 else if cx then 2#2 else 0#2) ∧ (d.getZ y).tag = (if cx then tag else 0#6)) ∧
        (∀ y, y ∉ tiles → d.getZ y = c.getZ y) ∧ d.arr = { r with used := true })) ∧
    (runs .mmac ∨ runs .mmacz → matClass f ≠ matClass r.wfmt.toNat → leaves (fun d => d.arr.fault.map (·.status) = some (copyStatus e.ipc 0 0x02#8) ∧
      ∀ y, (d.getZ y).data = (c.getZ y).data)) ∧
    (runs .mst → (∀ j, j < 32 → s.plainAccess (c.view a) (e.opnd + BitVec.ofNat 64 (64 * j)) { size := 64, align := 64, write := true } = .ok (acc j)) →
      exec (.matrixQueueEntry a) s = .next (done (((List.range 32).foldl put base).charge a ((List.range 32).map (fun j => (byteEntry (c.view a) (acc j), 64)))))) ∧
    (runs .mrd → exec (.matrixQueueEntry a) s = .next (done (((base.putGroup a (lanesOf (s.lanemap a)) ⟨i.v.toNat, n, sw, false⟩
        ((List.range (16384 / sw)).map (fun k => (k, (src.data.extractLsb' (sw * k) sw).toNat)))).onRegs a (fun c => (List.range n).foldl (fun c j =>
          c.setV (BitVec.ofNat 6 (i.v.toNat + j)) { c.getV (BitVec.ofNat 6 (i.v.toNat + j)) with tag := if src.mode = 2#2 then src.tag else 0#6, dirty := true, full := true, vlb := 128#8 }) c)).charge a [])))

/-- R15, R16, R28, R226: S places a vector arithmetic instruction, with what it captured, at the end of the vector queue and retires; the vector engine performs the head entry under what
it captured, the register tags among it (an addition here), and the copy engine takes the head of its queue: a copy joins those under way, a `ystr` opens its stream. (That the `ystr` takes
its slots and its knowledge only then: log entry 58, the model's choice.) -/
def Obligations.InlineQueues : Prop :=
  ∀ (s : State) (a : Agent) (e : QEntry) (es : List QEntry) (vd vs2 vs1 : VReg) (rs1 : XReg) (w m : Bool),
    let c := s.my
    let g := s.grp
    let entry (x : Word) : QEntry := { word := s.ir, opnd := x, vl := BitVec.ofNat 32 c.strip.vl.toNat, vbeg := c.vbeg, vtype := c.strip.vtype, frm := c.frm
                                       vqcfg := c.vqcfg.setWidth 6, lanes := BitVec.ofNat 5 s.myLanes.length, pblk := c.pblk, ipc := s.pc, seq := c.nextSeq, tags := some c.tagString }
    let grpOf (r : VReg) (n : Nat) : Group := ⟨r.toNat, n, s.eb, false⟩
    let unwritten (gs : List (VReg × Nat)) : Prop := ∀ q ∈ c.vecQ, ∀ h ∈ q.writes, ∀ x ∈ (vd, g) :: gs, h.disjoint (grpOf x.1 x.2) = true
    let issues (xs : List Src) (gs : List (VReg × Nat)) : Prop := s.Issues .vector (xs ++ gs.map (fun g => .v g.1 g.2 w) ++ if m then [.v 0#6 1 w] else []) ∧ s.ndl = .S ∧
      c.vecQ.length < 32 ∧ c.copyQ.any (fun e => isYarnWord e.word) = false ∧ c.stepping = false ∧ (∀ r, (c.getV r).stream = none) ∧ s.fmt ≤ 3 ∧ (m = true → vd ≠ 0#6) ∧
      (vd.toNat % g = 0 ∧ vd.toNat + g ≤ 64) ∧ (∀ h ∈ gs, h.1.toNat % h.2 = 0 ∧ h.1.toNat + h.2 ≤ 64) ∧ unwritten gs
    let queued (x : Word) : Exec := .next (s.retired [] (s.onMy (fun c => { c with vecQ := c.vecQ ++ [entry x], nextSeq := c.nextSeq + 1 })))
    let d := s.regs a
    let f := vtypeFmt e.vtype
    let n := vtypeGroup e.vtype
    let eb := formatBits f
    let ls := lanesOf (s.lanemap a)
    let lo := e.vbeg.toNat
    let hi := e.vl.toNat
    let acts := ((List.range (hi - lo)).map (lo + ·)).filter (fun j => !m || d.maskBit ls 0 j)
    let grp (r : VReg) (eb : Nat) : Group := ⟨r.toNat, n, eb, false⟩
    let tagAt (r : Nat) : BitVec 6 := match e.tags with
      | none => (d.getV (BitVec.ofNat 6 r)).tag
      | some t => t.extractLsb' (6 * (r % 64)) 6
    let spatial (r : VReg) : Prop := ∀ k, k < n → (tagAt (r.toNat + k)).extractLsb' 4 2 = 0#2
    let sum (j : Nat) : Nat := (d.elt ls vs2.toNat eb j + d.elt ls vs1.toNat eb j) % 2 ^ eb
    (issues [] [(vs2, g), (vs1, g)] → exec (.vaddVv vd vs2 vs1 w m) s = queued 0#64) ∧
    (issues [.x rs1 w] [(vs2, g)] → exec (.vaddVx vd vs2 rs1 w m) s = queued (c.getX rs1)) ∧
    (s.runs a = true → d.vecQ = e :: es → vecOfWord e.word = some ⟨.int .add, vd, vs2, .v vs1, w, m⟩ → d.stepping = false → (∀ r, (d.getV r).stream = none) → s.badRegs a = [] → f ≤ 3 →
      lo < hi → spatial vs2 → spatial vs1 → exec (.engineQueueEntry a .vector) s = .next (((((s.putGroup a ls (grp vd eb) (acts.map (fun j => (j, sum j)))).onRegs a
        (fun c => c.markV (grp vd eb) ls.length hi (tagAt vs2.toNat) true)).charge a [(3, (hi - lo + ls.length - 1) / ls.length)]).onRegs a (fun c => { c with vbeg := 0#64, vecQ := es })))) ∧
    (∀ o, s.runs a = true → d.copyQ = e :: es → e.copy = some o → d.copies.length < 16 →
      exec (.engineQueueEntry a .copy) s = .next (s.onRegs a (fun c => { c with copyQ := es, copies := c.copies ++ [o] }))) ∧
    (∀ acc : Access, s.runs a = true → d.copyQ = e :: es → e.copy = none → e.word.extractLsb' 27 5 = 9#5 →
      let v : VReg := e.word.extractLsb' 20 6
      let p := Pattern.ofRecord (BitVec.ofNat 384 (s.read acc.key acc.phys 48))
      s.plainAccess (d.view a) e.opnd { size := 48, align := 16 } = .ok acc → p.invalid = false → (d.getV v).stream = none →
      exec (.engineQueueEntry a .copy) s = .next (s.onRegs a (fun c => { c.setV v { c.getV v with full := true, stream := some { pat := p, ipc := e.ipc, seats := c.b.toList.filterMap id, know := if p.acq then s.knowledge (c.coreNo a) else {} } } with copyQ := es })))

/-- R284 to R289: on C, `ystr` opens a stream on a valid record, `yend` on a register with none open does nothing, and on a read stream, or a write stream that has written everything and releases nothing, leaves the register zero with tag 0 and its check bits good; on S both join the copy queue.
Reading ahead (at most 65,535 elements: the model's bound, log entry 31) appends the next element to a read stream, writing out writes the next element of a write stream. (That a
granule which an element covers only in part turns full: log entry 48, the model's choice.) -/
def Obligations.Yarn : Prop :=
  ∀ (s : State) (a : Agent) (vd : VReg) (rs1 : XReg) (w : Bool) (acc : Access) (t : Stream),
    let c := s.my
    let p := Pattern.ofRecord (BitVec.ofNat 384 (s.read acc.key acc.phys 48))
    let one : Charge := [(14, 1)]
    let d := s.regs a
    let view : View := ⟨isManager a, d.core, d.slot0, t.seats, d.fixed, d.requester a⟩
    let n := t.pos + t.buf.length
    let esz := 2 ^ t.pat.esz.toNat
    let entry (x : Word) : QEntry := { word := s.ir, opnd := x, ipc := s.pc, seq := c.nextSeq }
    let queued (x : Word) : Exec := .next (s.retired one (s.onMy (fun c => { c with copyQ := c.copyQ ++ [entry x], nextSeq := c.nextSeq + 1 })))
    let room := s.ndl = .S ∧ c.vecQ = [] ∧ c.copyQ.length < 32
    (s.Issues .copy [.x rs1 w] → s.ndl = .C → s.plainAccess (c.view s.who) (c.getX rs1) { size := 48, align := 16 } = .ok acc → p.invalid = false → (c.getV vd).stream = none →
      exec (.ystr vd rs1 w) s = .next (s.retired one (s.onMy (fun c => c.setV vd { c.getV vd with full := true, stream := some { pat := p, ipc := s.pc, seats := c.b.toList.filterMap id, know := if p.acq then s.knowledge (c.coreNo s.who) else {} } })))) ∧
    (s.Issues .copy [.x rs1 w] → room → exec (.ystr vd rs1 w) s = queued (c.getX rs1)) ∧
    (s.Issues .copy [] → s.ndl = .C → (c.getV vd).stream = none → exec (.yend vd) s = .next (s.retired one s)) ∧
    (s.Issues .copy [] → s.ndl = .C → (c.getV vd).stream = some t → (t.pat.dir = false ∨ (t.fault = none ∧ t.buf = [] ∧ t.pat.rel = false)) → exec (.yend vd) s =
      .next (s.retired one ((s.onMy (fun c => c.setV vd { data := 0#16384, tag := 0#6, full := true, dirty := true, vlb := 128#8, stream := none })).healRegs s.who true ((List.range 512).map (vd.toNat * 512 + ·))))) ∧
    (s.Issues .copy [] → room → exec (.yend vd) s = queued 0#64) ∧
    (s.onCore a = true → (d.getV vd).stream = some t → t.pat.dir = false → t.fault = none → n < t.pat.total → t.buf.length < 65535 →
      s.plainAccess view (t.pat.pointer n) { size := esz, align := esz } = .ok acc → exec (.streamReadAhead a vd) s =
        .next ((s.onRegs a (fun c => c.setV vd { c.getV vd with stream := some { t with buf := t.buf ++ [BitVec.ofNat 64 (s.read acc.key acc.phys esz)] } })).charge a [(byteEntry view acc, esz)])) ∧
    (∀ x xs, s.onCore a = true → (d.getV vd).stream = some t → t.pat.dir = true → t.fault = none → t.buf = x :: xs →
      s.plainAccess view (t.pat.pointer t.pos) { size := esz, align := esz, write := true } = .ok acc →
      let u := s.putPlain d.core acc esz x.toNat
      let u := if acc.region = .spad then (u.fillGranules acc.phys esz).tagTiles t.pat.tag acc.phys esz else u
      exec (.streamWriteOut a vd) s = .next ((u.onRegs a (fun c => c.setV vd { c.getV vd with stream := some { t with pos := t.pos + 1, buf := xs } })).charge a [(byteEntry view acc, esz)]))

/-- R290 to R297 and R361: a copy whose record passes the checks joins those under way, its destinations turning empty; one that fails them completes at once with its code, which a later read of its
status register delivers. A chunk moves up to 64 bytes from memory to the register group (`yld`) or to memory (`ytile`); completion writes the status word and fills the destinations. (That a granule which a chunk covers only in
part turns full: log entry 48, the model's choice.) -/
def Obligations.Copies : Prop :=
  ∀ (s : State) (a : Agent) (rd rs1 : XReg) (vd : VReg) (w : Bool) (acc targ : Access) (o : CopyOp),
    let c := s.my
    let one : Charge := [(14, 1)]
    let op (k : CopyKind) (v : VReg) (n : Nat) : CopyOp :=
      { kind := k, seq := c.nextSeq, word := s.ir, ipc := s.pc, xd := rd, vreg := v, record := BitVec.ofNat 512 (s.read acc.key acc.phys n), lanes := BitVec.ofNat 5 s.myLanes.length
        pblk := c.pblk, mapitch := c.mapitch, mwpitch := c.mwpitch, mzmap := c.mzmap, seats := c.copySeats }
    let issues (n : Nat) : Prop := s.Issues .copy [.x rs1 w] ∧ s.ndl = .C ∧ c.copies.length < 16 ∧ s.plainAccess (c.view s.who) (c.getX rs1) { size := n, align := n } = .ok acc
    let group (b : Bool) (o : CopyOp) (c : Ctx) : Ctx :=
      (List.range o.plan.grp).foldl (fun c j => c.setV (BitVec.ofNat 6 (o.vreg.toNat + j)) { c.getV (BitVec.ofNat 6 (o.vreg.toNat + j)) with full := b }) c
    let know (o : CopyOp) : Knowledge := if o.plan.acq then s.knowledge (c.coreNo s.who) else {}
    let starts (o : CopyOp) (fill : Bool) : Exec := .next (s.retired one (s.onMy (fun c =>
      let c := if fill then group false o (c.emptyX rd) else c.emptyX rd
      let c := match o.plan.fow with
        | some x => c.tilesFull false (((matOfWord x).map MInstr.tiles).getD [])
        | none => c
      { c with copies := c.copies ++ [{ o with follow := if o.plan.fow.isSome then .waiting else .none, know := know o }], nextSeq := c.nextSeq + 1 })))
    let fails (i : Instr) (o : CopyOp) : Prop := ∀ e, c.life ≠ .ending → s.copyFault s.who o = some e → ∃ t, exec i s = .next t ∧ (rd ≠ 0#5 → t.my.getX rd = copyStatus s.pc 0 e.cause) ∧
      t.my.copies = c.copies.filter (·.seq != c.nextSeq) ∧ ∃ p, t.my.pend = c.pend ++ [p] ∧ p.xd = (if rd = 0#5 then none else some rd) ∧ p.cause = e.cause ∧ p.ipc = s.pc
    let d := s.regs a
    let p := o.plan
    let v := d.viewAt a o.seats
    let lo := 64 * o.nextChunk
    let hi := min (lo + 64) p.total
    let n := hi - lo
    let es := 2 ^ p.esz
    let g : Group := ⟨o.vreg.toNat, p.grp, 8 * es, false⟩
    let ls := lanesOf (s.lanemap a)
    let moves := s.onCore a = true ∧ d.copies.find? (·.seq == o.seq) = some o ∧ o.fail = none ∧ o.parked = false ∧ lo < p.total ∧ p.bar = 0#64 ∧ (hi < p.total ∨ (p.rel = false ∧ p.fow = none))
    let moved (u : State) (q : Charge) : Exec := .next ((u.charge a q).onRegs a (fun c =>
      { c with copies := c.copies.map (fun x => if x.seq == o.seq then { o with nextChunk := o.nextChunk + 1, bytes := hi } else x) }))
    let data := s.read acc.key acc.phys n
    (issues 32 → s.copyFault s.who (op .yld vd 32) = none → exec (.yld rd vd rs1 w) s = starts (op .yld vd 32) true) ∧
    (issues 32 → s.copyFault s.who (op .yxfer vd 32) = none → exec (.yxfer rd vd rs1 w) s = starts (op .yxfer vd 32) true) ∧
    (issues 32 → s.copyFault s.who (op .yst vd 32) = none → Src.ready c (.v vd (op .yst vd 32).plan.grp w) → exec (.yst rd vd rs1 w) s = starts (op .yst vd 32) false) ∧
    (issues 64 → s.copyFault s.who (op .ytile 0#6 64) = none → exec (.ytile rd rs1 w) s = starts (op .ytile 0#6 64) false) ∧
    (issues 32 → fails (.yld rd vd rs1 w) (op .yld vd 32)) ∧
    (issues 64 → fails (.ytile rd rs1 w) (op .ytile 0#6 64)) ∧
    (∀ base, moves → o.kind = .yld → p.src = some (base, 0#64) → o.packedAt base = none → s.badRegs a = [] →
      s.plainAccess v (base + BitVec.ofNat 64 lo) { size := n, align := 1, copy := true } = .ok acc → exec (.copyChunk a o.seq) s =
        moved ((s.putGroup a ls g ((List.range (hi / es - lo / es)).map (fun k => (lo / es + k, data / 2 ^ (8 * es * k) % 2 ^ (8 * es))))).onRegs a (fun c => c.markV g ls.length (1024 * ls.length * p.grp) p.tag false))
          [(byteEntry v acc, n)]) ∧
    (∀ from_ dst pf pd, moves → o.kind = .ytile → p.src = some (from_, pf) → p.dst = some (dst, pd) → o.packedRow p p.src lo = none → o.packedRow p p.dst lo = none → lo % p.rowb + n ≤ p.rowb →
      s.plainAccess v (from_ + BitVec.ofNat 64 (lo / p.rowb) * pf + BitVec.ofNat 64 (lo % p.rowb)) { size := n, align := 1, copy := true } = .ok acc →
      s.plainAccess v (dst + BitVec.ofNat 64 (lo / p.rowb) * pd + BitVec.ofNat 64 (lo % p.rowb)) { size := n, align := 1, write := true, copy := true } = .ok targ →
      let u := s.putPlain d.core targ n data
      let u := if targ.region = .spad then (u.fillGranules targ.phys n).tagTiles p.tag targ.phys n else u
      exec (.copyChunk a o.seq) s = moved (u.charge a [(byteEntry v targ, n)]) [(byteEntry v acc, n)]) ∧
    (s.onCore a = true → d.copies.find? (·.seq == o.seq) = some o → o.fail = none → o.parked = false → o.code = 0#8 → p.total ≤ 64 * o.nextChunk → o.follow = .none → o.kind = .yld →
      (o.vreg.toNat % p.grp = 0 ∧ o.vreg.toNat + p.grp ≤ 64) → ∃ t, exec (.copyCompletion a o.seq) s = .next t ∧ (t.regs a).copies = d.copies.filter (·.seq != o.seq) ∧
        (o.xd ≠ 0#5 → (t.regs a).getX o.xd = copyStatus o.ipc o.bytes 0#8) ∧ (∀ k, k < p.grp → ((t.regs a).getV (BitVec.ofNat 6 (o.vreg.toNat + k))).full = true) ∧ SameMemory s t)

/-! ## The fabric -/

/-- R171, R390, R391, R394 to R397, R407 to R411, R413, R415: a scalar remote operation on a good far pointer joins the sequence of its stream and owner with what it captured, and its destination turns empty; a load that unacknowledged stores cover takes their bytes at
once; a store that touches the open packet of its line joins it; a bad pointer traps. `fabfl` goes on when no store of the stream is left; `fabred` records its reduction and contributes; `fabrw` takes a reply, or reports code 5 where nothing is pending under
that name. The indexed forms make a packet for each run of elements, sent or waiting for room in its sequence, and when every outcome is in the values and `vbeg` := 0 are written, and the bytes that went to the fabric are charged; a put that sent elements has used the release half that waits. A forwarded load and `fabfl` send the packets that
were open. What a fabric read returned counts as a load of S once S reads the register (an `addi` here); that the elements of a
`vfabget` count as loads at its completion is log entry 53's choice. -/
def Obligations.FabricIssue : Prop :=
  ∀ (s : State) (rd rs1 rs2 : XReg) (vd vs2 : VReg) (w w2 m : Bool) (far : Far),
    let c := s.my
    let a := s.who
    let ptr := c.getX rs1
    let one : Charge := [(15, 1)]
    let stream := c.fsel.extractLsb' 0 3
    let scope := (c.fsel.extractLsb' 6 3).toNat
    let p := s.part c.part
    let issued (t : State) (f : FabOp → Prop) : Prop := ∃ q ∈ (t.part c.part).seqs, q.isFor (.agent a) stream far.ep = true ∧ ∃ o ∈ q.ops, f o
    let op (o : FabOp) (code : BitVec 8) (v cmp : Word) (d : FabDest) : Prop := o.pk.op = code ∧ o.pk.key = far.key ∧ o.pk.offset = far.off ∧ o.pk.n = 8#16 ∧ o.pk.opd0 = v ∧ o.pk.opd1 = cmp ∧
      o.dest = d ∧ o.issuers = [⟨c.nextSeq, s.ir, s.pc, ptr⟩]
    let good (srcs : List Src) : Prop := s.Issues .sOnly srcs ∧ s.far c.image ptr 8 = .ok far ∧ scope ≤ 4 ∧ (p.roomFor (.agent a) stream far.ep 1).isSome = true
    let takes (i : Instr) (code : BitVec 8) (v cmp : Word) : Prop := ∃ t, exec i s = .next t ∧ issued t (fun o => op o code v cmp (.xreg rd)) ∧ (rd ≠ 0#5 → t.my.isFullX rd = false) ∧ SameMemory s t
    let loads := good [.x rs1 w]
    let both := good [.x rs1 w, .x rs2 w2]
    let closed := ∀ q ∈ p.seqs, ∀ o ∈ q.ops, o.open_ = false
    let packets (t : State) (f : VFab) (gs : List (List FarElt)) (code : BitVec 8) : Prop := ∀ g ∈ gs,
      let is (o : FabOp) : Prop := o.pk.op = code ∧ o.dest = .elements (g.map (fun e => (e.i, e.ptr))) ∧ o.pk.n = BitVec.ofNat 16 g.length
      (∃ q ∈ (t.part c.part).seqs, q.who = .agent a ∧ q.stream = stream ∧ (∃ e ∈ g, q.ep = e.far.ep) ∧ ∃ o ∈ q.ops, is o) ∨ ∃ x ∈ f.todo, (∃ e ∈ g, x.1 = e.far.ep) ∧ is x.2
    let n2 := max 1 (s.grp * 32 / s.eb)
    let span := s.acts m
    let elts := s.farElts c.image (s.eb / 8) (fun i => ptr + BitVec.ofNat 64 (s.elem vs2 32 i)) span
    let gs := chunk64 elts.1.length elts.1
    let starts (gp : List (VReg × Nat)) : Prop := (s.fmt ≤ 9 ∨ 14 ≤ s.fmt) ∧ n2 ≤ 8 ∧ c.vfab = none ∧ c.vbeg.toNat < c.strip.vl.toNat ∧ scope ≤ 4 ∧ s.RunsMem w m [.x rs1 w] (gp ++ [(vs2, n2)]) ∧ elts.2 = none
    (loads → p.cover (.agent a) far.ep far.key far.off 8 = .none → takes (.fabld rd rs1 w) 0x01#8 0#64 0#64) ∧
    (∀ x, loads → p.cover (.agent a) far.ep far.key far.off 8 = .all x → exec (.fabld rd rs1 w) s = .next (s.retired one ((s.flushFabric a).onMy (·.setX rd (BitVec.ofNat 64 x))))) ∧
    (both → takes (.fabadd rd rs1 rs2 w w2) 0x03#8 (c.getX rs2) 0#64) ∧
    (good [.x rs1 w, .x rs2 w2, .x rd w2] → takes (.fabcas rd rs1 rs2 w w2) 0x04#8 (c.getX rs2) (c.getX rd)) ∧
    (both → takes (.fabswp rd rs1 rs2 w w2) 0x05#8 (c.getX rs2) 0#64) ∧
    (both → closed → ∃ t, exec (.fabst rs1 rs2 w w2) s = .next t ∧ issued t (fun o => op o 0x02#8 (c.getX rs2) 0#64 .nothing) ∧ SameMemory s t) ∧
    (∀ q o, both → p.seqs.find? (·.isFor (.agent a) stream far.ep) = some q → q.ops.getLast? = some o → o.open_ = true → o.pk.op = 0x02#8 → o.pk.key = far.key → o.pk.n.toNat ≤ 56 → o.pk.n.toNat % 8 = 0 →
      far.off.toNat = o.pk.offset.toNat + o.pk.n.toNat → far.off.toNat / 64 = o.pk.offset.toNat / 64 → c.fsel.extractLsb' 3 2 = 0#2 → c.relHalf = none → c.openHalf = none →
      ∃ t, exec (.fabst rs1 rs2 w w2) s = .next t ∧ issued t (fun r => r.pk.offset = o.pk.offset ∧ r.pk.n.toNat = o.pk.n.toNat + 8 ∧
        packetData r.pk = packetData o.pk + 2 ^ (8 * o.pk.n.toNat) * (c.getX rs2).toNat ∧ r.issuers = o.issuers ++ [⟨c.nextSeq, s.ir, s.pc, ptr⟩])) ∧
    (∀ e v0 v1, s.Allowed .sOnly [.x rs1 w] → s.far c.image ptr 8 = .error (e, v0, v1) → exec (.fabld rd rs1 w) s = .next (s.trapped e v0 v1)) ∧
    (s.Issues .sOnly [] → s.storesLeft a stream = false → c.pend.any (·.stream == some stream) = false → exec .fabfl s = .next (s.retired one (s.flushFabric a))) ∧
    (s.Issues .sOnly [] → s.storesLeft a stream = true → ∃ t, exec .fabfl s = .next t ∧ (t.my.needle s.ndl).run = .blocked .full) ∧
    (∀ acc : Access, let d := RedDesc.ofRecord (BitVec.ofNat 256 (s.read acc.key acc.phys 32))
      s.Issues .sOnly [.x rs1 w, .x rs2 w2] → s.plainAccess (c.view a) ptr { size := 32, align := 32 } = .ok acc → s.far c.image d.node 8 = .ok far → d.invalid = false → c.reds.any (·.name == d.name) = false →
      c.reds.length < 16 → scope ≤ 4 → (p.roomFor (.agent a) stream far.ep 1).isSome = true → ∃ t, exec (.fabred rs1 rs2 w w2) s = .next t ∧ t.my.reds = c.reds ++ [{ name := d.name, seq := c.nextSeq, op := d.op }] ∧
        issued t (fun o => o.pk.op = 0x06#8 ∧ o.pk.key = far.key ∧ o.pk.name = d.name ∧ o.dest = .reduction d.name ∧
          o.pk.opd0 = (if d.op.toNat ≤ 2 then ((c.getX rs2).extractLsb' 0 32).setWidth 64 else c.getX rs2))) ∧
    (∀ acc : Access, let name : Word := BitVec.ofNat 64 (s.read acc.key acc.phys 8)
      s.Issues .sOnly [.x rs1 w] → s.plainAccess (c.view a) ptr { size := 8, align := 8 } = .ok acc → c.reds.find? (·.name == name) = none →
      exec (.fabrw rd rs1 w) s = .next (s.retired one (s.onMy (fun c => { c with fstat := c.fstat &&& ~~~0xFF#64 ||| 5#64 }.setX rd 0#64)))) ∧
    (∀ (acc : Access) d v st, let name : Word := BitVec.ofNat 64 (s.read acc.key acc.phys 8)
      s.Issues .sOnly [.x rs1 w] → s.plainAccess (c.view a) ptr { size := 8, align := 8 } = .ok acc → c.reds.find? (·.name == name) = some d → d.failed = none → d.reply = some (v, st) →
      ∃ t, exec (.fabrw rd rs1 w) s = .next t ∧ (rd ≠ 0#5 → t.my.getX rd = v ∧ t.my.isFullX rd = true) ∧ t.my.fstat = st ∧ t.my.reds = c.reds.filter (·.name != name)) ∧
    (starts [] → (vd.toNat % s.grp = 0 ∧ vd.toNat + s.grp ≤ 64) → Apart (vd, s.grp) (vs2, n2) → (m = true → vd ≠ 0#6) → (∀ e ∈ elts.1, p.cover (.agent a) e.far.ep e.far.key e.far.off (s.eb / 8) = .none) →
      ∃ t f, exec (.vfabget vd vs2 rs1 w m) s = .next t ∧ t.my.vfab = some f ∧ f.hi = c.strip.vl.toNat ∧ f.stop = none ∧ f.vals = [] ∧ packets t f gs 0x07#8) ∧
    (starts [(vd, s.grp)] → ∃ t f, exec (.vfabput vd vs2 rs1 w m) s = .next t ∧ t.my.vfab = some f ∧ f.hi = c.strip.vl.toNat ∧ f.stop = none ∧ packets t f gs 0x08#8) ∧
    (∀ f, s.Issues .sOnly [] → c.vfab = some f → f.begun = true → f.todo = [] → s.vfabWaits a = false → f.bad = none → f.stop = none → f.hi = f.cap.vl → f.cap.vbeg < f.hi → (∀ r, (c.getV r).stream = none) →
      let eb := formatBits (vtypeFmt f.cap.vtype)
      let g : Group := ⟨vd.toNat, vtypeGroup f.cap.vtype, eb, false⟩
      let L := s.myLanes.length
      let vals := (f.vals.filter (fun x => x.1 < f.hi)).mergeSort (fun x y => x.1 ≤ y.1)
      let seen := (f.seen.filter (fun e => e.1 < f.hi)).flatMap (·.2)
      let moved := (f.far.filter (· < f.hi)).length
      let end_ (u : State) (used : Bool) : Exec := .next (s.retired [] (((u.onMy (fun c => { c with vfab := none, reads := seen ++ c.reads })).charge a
        [(7, (f.hi - f.cap.vbeg + L - 1) / L), (20, moved * (eb / 8))]).onMy (fun c =>
          { c with vbeg := 0#64, relHalf := if used then none else c.relHalf, openHalf := if used then none else c.openHalf })))
      exec (.vfabget vd vs2 rs1 w m) s = end_ ((s.putGroup a s.myLanes g vals).onMy (fun c => c.markV g L f.cap.vl 0#6 true)) false ∧
      exec (.vfabput vd vs2 rs1 w m) s = end_ s (f.cap.barrier || f.far != [])) ∧
    (∀ (imm : BitVec 12) value rels, s.ndl = .S → c.returnFault .S = none → c.isFullX rs1 = true → c.undelivered [.x rs1 false] → c.fabReads = [(rs1, value, rels)] → c.getX rs1 = value →
      exec (.addi rd rs1 imm) s = .next (s.retired [(0, 1)] ((s.onMy (fun c => { c with reads := rels ++ c.reads, fabReads := [] })).onMy (·.setX rd (value + imm.signExtend 64)))))

/-! ## The manager, events of a context, asynchronous faults -/

/-- R220 to R224, R366 to R371, R376 to R384 (on a hub core): `tret` returns to the instruction that the event interrupted; `halt` stops the core until an event; `chold` asks for a hold; `cres` lets a held context go on, behind the ECALL or EBREAK that held it;
`scrub` counts and clears a lane's errors; `ctxsave` begins a save and `ctxload` loads, each with its status codes, and `SKEIN_WRITE` performs the save: the skein of the drained context stands from its address on, a 64-byte header and then its
sections (in the clear where the context is not protected), every other byte as the drain left it; where an access for it fails, the save is refused and nothing of it is done; an operand with a bit above 31 set
names no context. (The record and code 4 of a refused save: log entry 37; that other bytes of a line of HBM stand, the line being 64 bytes: log entry 7; both the model's choice.) -/
def Obligations.ManagerInstructions : Prop :=
  ∀ (s : State) (h i : Nat) (rd rs1 rs2 : XReg) (w w2 : Bool), s.who = .hub h → i < 2 ^ 32 →
    let u := s.hub h
    let one : Charge := [(15, 1)]
    let names := s.Issues .manager [.x rs1 w] ∧ s.my.getX rs1 = BitVec.ofNat 64 i
    let both := s.Issues .manager [.x rs1 w, .x rs2 w2] ∧ s.my.getX rs1 = BitVec.ofNat 64 i
    let addr := s.my.getX rs2
    let c := s.regs (.ctx i)
    let place := addr.toNat % 256 = 0 ∧ (addr.toNat < hbmEnd ∨ (hostStart ≤ addr.toNat ∧ addr.toNat < hostEnd))
    let k := ((s.my.getX rs1).extractLsb' 0 12).toNat
    let lane := ((s.my.getX rs1).extractLsb' 12 4).toNat
    let core := s.core k
    let inside (e : Nat × Unit) : Bool := e.1 < 32768 && e.1 % 512 / 32 == lane
    let refused (e : Instr) (cause : BitVec 8) : Prop := ∃ t v, exec e s = .next t ∧ (t.regs (.ctx i)).trap = some ⟨cause, 0#2, 0#64, 0#64, addr, v⟩ ∧ (t.hub h).ctxid = BitVec.ofNat 32 i ∧
      (rd ≠ 0#5 → t.my.getX rd = 4#64)
    (∀ pc idle, s.Allowed .manager [] → u.ev = true → u.ret = some (pc, idle) → exec .tret s = .next (s.placed one (s.setHub h
      { u with ev := false, ret := none, regs := { u.regs with nS := { u.regs.nS with pc := pc, run := if idle then .idle else .running, fresh := false } } }))) ∧
    (s.Allowed .manager [] → u.ev = false → exec .tret s = .next (s.trapped 0x01#8 (s.ir.setWidth 64) 0#64)) ∧
    (s.Issues .manager [] → exec .halt s = .next (s.retired one (s.setHub h { u with halted := true }))) ∧
    (names → s.live i = true → c.life = .running → c.request = none → exec (.chold rs1 w) s = .next (s.retired one (s.setRegs (.ctx i) { c with request := some .hold }))) ∧
    (names → (s.live i = false ∨ c.life ≠ .running ∨ c.request ≠ none) → exec (.chold rs1 w) s = .next (s.retired one s)) ∧
    (names → s.live i = true → c.life = .held → ∃ t, exec (.cres rs1 w) s = .next t ∧ (t.regs (.ctx i)).life = .running ∧ (t.regs (.ctx i)).trap = none ∧ (t.regs (.ctx i)).request = none ∧
      (t.regs (.ctx i)).resv = none ∧ (∀ n, ((t.regs (.ctx i)).needle n).blocked = false ∧ ((t.regs (.ctx i)).needle n).atYield = false) ∧
      (c.skip = true → c.nS.loops = [] → (t.regs (.ctx i)).nS.pc = c.nS.pc + 4#64) ∧ (c.skip = false → (t.regs (.ctx i)).nS.pc = c.nS.pc)) ∧
    (names → ¬(s.live i = true ∧ c.life = .held) → exec (.cres rs1 w) s = .next (s.retired one s)) ∧
    (s.Issues .manager [.x rs1 w] → ((s.my.getX rs1).extractLsb' 16 48 ≠ 0#48 ∨ core.disabled = true) → exec (.scrub rd rs1 w) s = .next (s.givesX one rd (1#64 <<< 61))) ∧
    (s.Issues .manager [.x rs1 w] → (s.my.getX rs1).extractLsb' 16 48 = 0#48 → core.disabled = false → core.resident.isSome = true → exec (.scrub rd rs1 w) s = .next (s.givesX one rd (1#64 <<< 62))) ∧
    (s.Issues .manager [.x rs1 w] → (s.my.getX rs1).extractLsb' 16 48 = 0#48 → core.disabled = false → core.resident = none → exec (.scrub rd rs1 w) s = .next (s.retired one
      ((s.setCore k { core with badReg := core.badReg.filter (fun e => !inside e), corrReg := core.corrReg.filter (fun e => !inside e) }).onMy (·.setX rd
        (BitVec.ofNat 64 (min (core.badReg.filter inside).length 0xFFFF * 2 ^ 32 + (core.corrReg.filter inside).length)))))) ∧
    (s.Issues .manager [.x rs1 w, .x rs2 w2] → (s.my.getX rs1).extractLsb' 32 32 ≠ 0#32 →
      exec (.ctxsave rd rs1 rs2 w w2) s = .next (s.givesX one rd 1#64) ∧ exec (.ctxload rd rs1 rs2 w w2) s = .next (s.givesX one rd 1#64)) ∧
    (s.Issues .manager [.x rs1 w] → (s.my.getX rs1).extractLsb' 32 32 ≠ 0#32 →
      exec (.chold rs1 w) s = .next (s.retired one s) ∧ exec (.cres rs1 w) s = .next (s.retired one s)) ∧
    (both → s.live i = false → exec (.ctxsave rd rs1 rs2 w w2) s = .next (s.givesX one rd 1#64) ∧ exec (.ctxload rd rs1 rs2 w w2) s = .next (s.givesX one rd 1#64)) ∧
    (both → s.live i = true → (c.life ≠ .held ∨ c.core = none) → exec (.ctxsave rd rs1 rs2 w w2) s = .next (s.givesX one rd 2#64)) ∧
    (both → s.live i = true → c.core.isSome = true → exec (.ctxload rd rs1 rs2 w w2) s = .next (s.givesX one rd 2#64)) ∧
    (both → s.live i = true → c.life = .held → c.core.isSome = true → place → exec (.ctxsave rd rs1 rs2 w w2) s = .next (s.setHub h { u with save := some ⟨i, addr.toNat, rd⟩ })) ∧
    (both → s.live i = true → c.life = .held → c.core.isSome = true → ¬place → refused (.ctxsave rd rs1 rs2 w w2) 0x03#8) ∧
    (both → s.live i = true → c.core = none → ¬place → refused (.ctxload rd rs1 rs2 w w2) 0x03#8) ∧
    (∀ k e v, both → s.live i = true → c.core = none → place → s.loadCore c = some k → s.checkSkein i addr.toNat k = .error (e, v) → refused (.ctxload rd rs1 rs2 w w2) e) ∧
    (∀ k x n, both → s.live i = true → c.core = none → place → s.loadCore c = some k → s.checkSkein i addr.toNat k = .ok (x, n) → ∃ t, exec (.ctxload rd rs1 rs2 w w2) s = .next t ∧
      (t.regs (.ctx i)).life = .held ∧ (t.regs (.ctx i)).core = some k ∧ (rd ≠ 0#5 → t.my.getX rd = BitVec.ofNat 56 n ++ 0#8)) ∧
    (∀ v, u.save = some v → s.live v.ctx = true → (s.regs (.ctx v.ctx)).life = .held → (s.regs (.ctx v.ctx)).core.isSome = true → s.ndl = .S → u.regs.returnFault .S = none →
      let x : Agent := .ctx v.ctx
      let b := s.setHub h { u with save := none }
      let strip := b.stripPoint x
      let e := (((b.onRegs x Ctx.stopWaits).drain x).chargeStatic v.ctx).onRegs x (fun c => { c with saveCount := c.saveCount + 1#64 })
      let lossy := e.lossy x strip
      let bytes := (e.skein v.ctx strip).bytes v.ctx (e.regs x) (e.lanes x) strip lossy
      let field (at_ n : Nat) : Nat := bytesNat ((bytes.drop at_).take n)
      (e.skeinFault true v.addr bytes.length = none → e.keyValid 0 v.addr → ∃ t, exec (.skeinWrite h) s = .next t ∧ (t.hub h).save = none ∧ (t.regs x).life = .switchedOut ∧ (t.regs x).core = none ∧
        (v.xd ≠ 0#5 → t.my.getX v.xd = BitVec.ofNat 56 bytes.length ++ (if lossy then 3#8 else 0#8)) ∧
        (∀ n, n < bytes.length → t.byteAt 0 (v.addr + n) = bytes.getD n 0#8) ∧ (∀ key y, Untouched 0 v.addr bytes.length key y → t.byteAt key y = e.byteAt key y) ∧
        field 0 4 = 0x4E49454B ∧ field 4 2 = 1 ∧ field 6 1 = (if strip then 4 else 0) + (if lossy then 2 else 0) + (if (e.regs x).prot then 1 else 0) ∧ field 7 1 = e.lanes x % 2 ^ 8 ∧
        field 8 4 = v.ctx % 2 ^ 32 ∧ field 12 4 = (e.regs x).image % 2 ^ 32 ∧ field 16 8 = (e.regs x).saveCount.toNat ∧
        ((e.regs x).prot = false → bytes.drop 64 = (e.skein v.ctx strip).body)) ∧
      (∀ f, e.skeinFault true v.addr bytes.length = some f → ∃ t, exec (.skeinWrite h) s = .next t ∧ (t.hub h).save = none ∧ (t.hub h).ctxid = BitVec.ofNat 32 v.ctx ∧ SameMemory s t ∧
        (t.regs x).life = .held ∧ (t.regs x).core = (s.regs x).core ∧ (t.regs x).trap = some ⟨f.cause, 0#2, 0#64, 0#64, BitVec.ofNat 64 v.addr, 0#64⟩ ∧ (v.xd ≠ 0#5 → t.my.getX v.xd = 4#64)))

/-- R13, R21, R41, R42, R221, R222, R366, R383: an event enters its hub core at `tvec`, the return point kept; a request is honoured once every active needle stands at a yield point or is blocked; the yield window's end withdraws it; a needle leaves a wait
whose condition holds. -/
def Obligations.ContextEvents : Prop :=
  ∀ (s : State) (h i : Nat) (a : Agent) (n : Needle) (e : Event) (before after : List Event),
    let u := s.hub h
    let c := s.regs (.ctx i)
    let posted (code : BitVec 8) : List Event := s.events ++ [⟨(s.part c.part).evhub, code, i⟩]
    let wake : Exec := .next (s.onRegs a (fun c => c.setNeedle n { c.needle n with run := .running }))
    let run := ((s.regs a).needle n).run
    let quiet := s.moduleOn = true ∧ u.stopped = false ∧ u.save = none ∧ u.regs.vfab = none
    (quiet → u.ev = false → s.events = before ++ e :: after → (∀ x ∈ before, x.hub.toNat ≠ h) → e.hub.toNat = h →
      exec (.managerEventEntry h) s = .next ({ s with events := before ++ after }.setHub h { u with
        event := e.code, ev := true, halted := false, ret := some (u.regs.nS.pc, u.regs.nS.run == Run.idle)
        ctxid := if 1 ≤ e.code.toNat ∧ e.code.toNat ≤ 3 then BitVec.ofNat 32 e.ctx else u.ctxid
        regs := { u.regs.stopWaits with nS := { u.regs.nS with pc := u.tvec ++ 0#2, run := .running, part := none, fresh := false, drain := 0 } } })) ∧
    (u.ev = true → exec (.managerEventEntry h) s = .next s) ∧
    (s.live i = true → c.life = .running → c.request.isSome = true → (∀ n, (c.needle n).active = false ∨ (c.needle n).atYield = true ∨ (c.needle n).blocked = true ∨ ((c.needle n).forkWait ≠ 0 ∧ c.forkHeld (c.needle n) = true)) →
      exec (.preemptionHonoured i) s = .next { s.setRegs (.ctx i) { c with life := .held, request := none, trap := some ⟨0#8, 0#2, c.nS.pc, c.nS.pc, 0#64, 0#64⟩ } with events := posted 2#8 }) ∧
    (s.live i = true → c.life = .running → c.request.isSome = true → ∃ t, exec (.yieldWindowExpiry i) s = .next t ∧ t.events = posted 3#8 ∧ (t.regs (.ctx i)).request = none ∧
      (t.regs (.ctx i)).life = .running ∧ ∀ n, ((t.regs (.ctx i)).needle n).atYield = false ∧ ((t.regs (.ctx i)).needle n).pc = (c.needle n).pc) ∧
    (c.request = none → exec (.preemptionHonoured i) s = .next s ∧ exec (.yieldWindowExpiry i) s = .next s) ∧
    (s.runs a = true → run = .blocked .full → exec (.waitSatisfied a n) s = wake) ∧
    (s.runs a = true → run = .blocked .join → (s.regs a).drained = true → exec (.waitSatisfied a n) s = wake) ∧
    (s.runs a = true → run = .blocked .join → (s.regs a).drained = false → exec (.waitSatisfied a n) s = .next s) ∧
    ((s.runs a = false ∨ run = .running ∨ run = .idle) → exec (.waitSatisfied a n) s = .next s)

/-- R361, R362, R305: an instruction that reads the status register of an operation whose fault is pending raises 0x12 in its place, with the issuing instruction's pointer in `tipc`, and the operation's record stands at its context's slot under OPBASE: every scalar
instruction that has that register as its source, every vector arithmetic one on V, matrix, copy and vector memory instructions, `vlset`, `loop` and the barriers. `join`, `vdrain` and the context's end, once what they wait for is done, deliver a recorded fault whatever
register it has, and the array's record, which then is clear; `fabfl` one of a store of its stream. (Other bytes stand, a line of HBM being 64 bytes: log entry 7, the model's.) -/
def Obligations.AsynchronousFault : Prop :=
  ∀ (s : State) (id : Nat) (p : PendingFault) (r rd : XReg) (fd : FReg) (vd : VReg) (zd : ZReg) (bd : BReg) (csr imm off12 : BitVec 12) (sh6 : BitVec 6) (sh5 scope fmt5 : BitVec 5) (off11 : BitVec 11) (rm : BitVec 3) (fmt4 : BitVec 4) (grp : BitVec 2)
    (aq rl w w2 : Bool), s.who = .ctx id →
    let c := s.my
    let addr := (s.part c.part).opbase.toNat * 64 + 64 * (id % 2 ^ 16)
    let delivers (e : Exec) : Prop := ∃ t, e = .next t ∧ t.my.pend = [] ∧ t.my.arr.fault = none ∧ t.my.life = .held ∧ t.my.x = c.x ∧
      t.my.trap = some ⟨0x12#8, needleId s.ndl, s.pc, p.ipc, p.status, BitVec.ofNat 64 addr⟩ ∧
      (∀ k, k < 64 → s.keyValid 0 (addr + k) → t.byteAt 0 (addr + k) = BitVec.ofNat 8 (p.record / 2 ^ (8 * k))) ∧
      ∀ key x, (x < addr ∨ addr + 64 ≤ x) → t.byteAt key x = s.byteAt key x
    let all (is : List Instr) : Prop := ∀ i ∈ is, delivers (exec i s)
    let may (k : Machine.Class) : Prop := c.interlocked s.ndl k = false ∧ k.allows s.ndl = true ∧ (s.ndl = .S → k.inlineAllowed c = true)
    let only := c.pend = [p] ∧ c.arr.fault = none
    let named := only ∧ p.xd = some r ∧ r ≠ 0#5 ∧ c.isFullX r = true
    let recorded := only ∨ (c.pend = [] ∧ ∃ f, c.arr.fault = some f ∧ p = f.pending)
    (named → may .base → all [.add rd r r, .sub rd r r, .slt rd r r, .sltu rd r r, .xor rd r r, .or rd r r, .and rd r r, .sll rd r r, .srl rd r r, .sra rd r r, .addw rd r r, .subw rd r r,
        .sllw rd r r, .srlw rd r r, .sraw rd r r, .beq r r off12, .bne r r off12, .blt r r off12, .bge r r off12, .bltu r r off12, .bgeu r r off12, .addi rd r imm, .slti rd r imm, .sltiu rd r imm,
        .xori rd r imm, .ori rd r imm, .andi rd r imm, .slli rd r sh6, .srli rd r sh6, .srai rd r sh6, .addiw rd r imm, .slliw rd r sh5, .srliw rd r sh5, .sraiw rd r sh5, .jalr rd r imm,
        .loop r off11 w, .vlset rd r fmt4 grp false w]) ∧
    (named → may .sOnly →
      all [.mul rd r r, .mulh rd r r, .mulhsu rd r r, .mulhu rd r r, .div rd r r, .divu rd r r, .rem rd r r, .remu rd r r, .mulw rd r r, .divw rd r r, .divuw rd r r, .remw rd r r, .remuw rd r r,
        .sb r r imm, .sh r r imm, .sw r r imm, .sd r r imm, .scW aq rl rd r r, .amoswapW aq rl rd r r, .amoaddW aq rl rd r r, .amoxorW aq rl rd r r, .amoandW aq rl rd r r, .amoorW aq rl rd r r,
        .amominW aq rl rd r r, .amomaxW aq rl rd r r, .amominuW aq rl rd r r, .amomaxuW aq rl rd r r, .scD aq rl rd r r, .amoswapD aq rl rd r r, .amoaddD aq rl rd r r, .amoxorD aq rl rd r r,
        .amoandD aq rl rd r r, .amoorD aq rl rd r r, .amominD aq rl rd r r, .amomaxD aq rl rd r r, .amominuD aq rl rd r r, .amomaxuD aq rl rd r r, .lrW aq rl rd r, .lrD aq rl rd r,
        .lb rd r imm, .lh rd r imm, .lw rd r imm, .ld rd r imm, .lbu rd r imm, .lhu rd r imm, .lwu rd r imm, .fld fd r imm, .fmvDX fd r, .bslot bd imm r, .lpost rd r w, .fabld rd r w,
        .fabst r r w w2, .fabadd rd r r w w2, .fabswp rd r r w w2, .fabred r r w w2, .fabrw rd r w, .barInit r w, .barExp r r w w2] ∧
      (c.isFullX rd = true → delivers (exec (.fabcas rd r r w w2) s)) ∧
      (scope.toNat ≤ 4 → all [.barArr r r scope w w2, .barWait r r scope w w2]) ∧
      ((if rm = 7#3 then rmOf c.frm else rmOf rm) ≠ none → all [.fcvtDW fd r rm, .fcvtDWu fd r rm, .fcvtDL fd r rm, .fcvtDLu fd r rm]) ∧
      (s.readCsr csr.toNat ≠ none → csrManager csr.toNat = false → csrReadOnly csr.toNat = false → all [.csrrw rd r csr, .csrrs rd r csr, .csrrc rd r csr])) ∧
    (named → may .sOnly → (c.needle s.ndl).part = none → c.memHeld = false → s.fmt ≤ 9 → vd.toNat % s.grp = 0 → vd.toNat + s.grp ≤ 64 → (∀ q, (c.getV q).stream = none) →
      all [.vld vd r w false, .vldFe vd r w false, .vldFec vd r w false, .vldSc vd r w false, .vlds vd r r w false, .vldsFe vd r r w false]) ∧
    (named → may .matrix → c.matQ = [] → c.memHeld = false → fmt5 = 0#5 → all [.mwld r fmt5 w, .mmac zd r fmt5 w, .mmacz zd r fmt5 w, .mst zd r w, .mcode r w]) ∧
    (named → may .copy → c.vecQ = [] → c.copyQ = [] → c.copies = [] → all [.ystr vd r w, .yld rd vd r w, .yst rd vd r w, .yxfer rd vd r w, .ytile rd r w]) ∧
    (∀ (i : Instr) (v : VInstr), (∀ t, exec i t = vecArith v t) → named → may .vector → s.ndl = .V → c.nV.part = none → c.barred = false → v.checkIssue (v.capture c) s.myLanes.length s = none →
      (∀ q ∈ v.sources (v.shape (v.capture c) s.myLanes.length) c, q.ready c) → v.src = .x r → delivers (exec i s)) ∧
    (recorded → may .sOnly → c.drained = true → delivers (exec .join s)) ∧
    (recorded → may .sOnly → s.vdrained s.who = true → delivers (exec .vdrain s)) ∧
    (recorded → may .base → s.ndl = .S → c.drained = true → delivers (exec .nend s)) ∧
    (only → may .sOnly → p.stream = some (c.fsel.extractLsb' 0 3) → s.storesLeft s.who (c.fsel.extractLsb' 0 3) = false → delivers (exec .fabfl s))

/-! ## The Loom, tenants and the platform -/

/-- R219, R334 to R342: `lpost` turns a good record into a node under the lowest free handle and gives handle and generation; a full Loom and a bad record give their error words and no node. A tail in range is taken, one out of range is an error of
the queue; a record at head becomes a node, or is refused, and head advances. -/
def Obligations.LoomSubmission : Prop :=
  ∀ (s : State) (rd rs1 : XReg) (w : Bool) (acc : Access) (vf : Nat) (v : BitVec 32),
    let c := s.my
    let p := s.part c.part
    let r : NodeRecord := BitVec.ofNat 1024 (s.read acc.key acc.phys 128)
    let image := if (r.extractLsb' 32 32).toNat = 0 then c.image else (r.extractLsb' 32 32).toNat
    let posts := s.Issues .sOnly [.x rs1 w] ∧ s.plainAccess (c.view s.who) (c.getX rs1) { size := 128, align := 128 } = .ok acc
    let full (p : Part) : Prop := min p.quota 32767 ≤ p.nodes.length
    let f := s.func vf
    let q := s.part f.part
    let rec_ : NodeRecord := BitVec.ofNat 1024 (s.read f.queueKey (f.qbase + 128 * (f.head.toNat % 2 ^ f.qn)) 128)
    let stop := (f.adv.find? (fun t => (t - f.head).toNat > 0)).getD f.tail
    let why := s.refusal f.part vf (recImage rec_) rec_ none (some (f.head, stop))
    let on := s.enabled vf = true
    let takes := on ∧ q.func = some vf ∧ f.head ≠ f.tail ∧ ¬full q
    let node (t : State) (pi : Nat) (old : List Node) (rec_ : NodeRecord) (image : Nat) (idx : Option (BitVec 32)) : Prop := ∃ d ∈ (t.part pi).nodes, (∀ e ∈ old, e.handle ≠ d.handle) ∧ d.record = rec_ ∧ d.image = image ∧
      d.qidx = idx ∧ 1 ≤ d.handle ∧ (∀ h, 1 ≤ h → h < d.handle → ∃ e ∈ old, e.handle = h) ∧ (t.part pi).nodes.length = old.length + 1
    (posts → ¬full p → s.refusal c.part c.vf image r (some c.image) none = none → ∃ t, exec (.lpost rd rs1 w) s = .next t ∧ node t c.part p.nodes r image none ∧ SameMemory s t ∧
      (rd ≠ 0#5 → ∃ d ∈ (t.part c.part).nodes, (∀ e ∈ p.nodes, e.handle ≠ d.handle) ∧ t.my.getX rd = BitVec.ofNat 64 (d.handle % 2 ^ 16 + 2 ^ 16 * (p.gen d.handle).toNat))) ∧
    (posts → full p → exec (.lpost rd rs1 w) s = .next (s.givesX [(15, 1)] rd (1#64 <<< 56))) ∧
    (∀ e, posts → ¬full p → s.refusal c.part c.vf image r (some c.image) none = some e → exec (.lpost rd rs1 w) s = .next (s.givesX [(15, 1)] rd (2#64 <<< 56))) ∧
    (¬ on → exec (.qtailWrite vf v) s = .next { s with outputs := s.outputs ++ [.cxlUnsupported vf] }) ∧
    (on → (v - f.head).toNat ≤ 2 ^ f.qn → ∃ t, exec (.qtailWrite vf v) s = .next t ∧ (t.func vf).tail = v ∧ (t.func vf).head = f.head) ∧
    (on → 2 ^ f.qn < (v - f.head).toNat → ∃ t, exec (.qtailWrite vf v) s = .next t ∧ (t.func vf).tail = f.tail ∧ (t.func vf).errIdx = v ∧ (t.func vf).errReason = 1#8) ∧
    (takes → why = none → ∃ t, exec (.recordTake vf) s = .next t ∧ node t f.part q.nodes rec_ (recImage rec_) (some f.head) ∧ (t.func vf).head = f.head + 1#32) ∧
    (∀ e, takes → why = some e → ∃ t, exec (.recordTake vf) s = .next t ∧ (t.part f.part).nodes = q.nodes ∧ (t.func vf).head = f.head + 1#32 ∧ (t.func vf).errIdx = f.head ∧ (t.func vf).errReason = e) ∧
    (¬takes → exec (.recordTake vf) s = .next s)

/-- R11, R20, R39, R343 to R349, R352, R360: the dispatcher starts the first node of its scan that can be placed, a program's context on a core with its entry and arguments; a node whose contexts are gone completes; a ready node rises a level, a gang of the highest
level that holds no reservation reserves a unit beside those that other gangs hold; a slice's end switches the next function in and tells the manager; a hold gate takes its setting and tells the manager once when it is drained; the coalescing timer sends what is held. -/
def Obligations.LoomEvents : Prop :=
  ∀ (s : State) (pi vf k handle base limit : Nat) (d : Node) (gate : BitVec 3) (on : Bool) (ids hint : List Nat),
    let p := s.part pi
    let plain := p.scan.all (fun d => !s.swatchAbsent d || d.swatchPosted) = true
    let unordered (e : Node) : Node := { e with past := [] }
    let gang := recKind d.record = 0 ∧ recWidth d.record ≠ 0 ∧ d.level = 7#3
    let holds := p.gangs.any (·.1 == d.handle) = true
    let f := s.func vf
    let g := p.gates.get gate.toFin
    let gated (g : Gate) : Part := { p with gates := p.gates.set gate.toNat g gate.isLt }
    (plain → p.scan.find? (s.dispatchable pi hint) = some d → recKind d.record = 0 → s.placement pi d hint = some [k] → k < 4096 → ∃ t id, exec (.nodeDispatch pi ids hint) s = .next t ∧
      (t.core k).resident = some id ∧ (t.regs (.ctx id)).life = .running ∧ (t.regs (.ctx id)).core = some k ∧ (t.regs (.ctx id)).image = d.image ∧ (t.regs (.ctx id)).vf = d.vf ∧
      (t.regs (.ctx id)).nS.pc = BitVec.ofNat 64 (recEntry d.record) ∧ (t.regs (.ctx id)).nS.run = .running ∧ ∀ j, j < 8 → (t.regs (.ctx id)).getX (BitVec.ofNat 5 (10 + j)) = recArg d.record j) ∧
    (plain → p.scan.find? (s.dispatchable pi hint) = none → exec (.nodeDispatch pi ids hint) s = .next s) ∧
    (p.nodes.find? (·.handle == handle) = some d → d.state = .running → recKind d.record = 0 → d.ctxs = [] → d.failed = false → recIrq d.record = false → d.succs = [] → d.fwd = [] →
      ∃ t, exec (.nodeCompletion pi handle) s = .next t ∧ (t.part pi).nodes.map unordered = (p.nodes.filter (·.handle != handle)).map unordered ∧ (t.part pi).gen handle = (if d.gen + 1#16 = 0#16 then 1#16 else d.gen + 1#16) ∧
        (d.qidx.isSome = true → (t.func d.vf).done = (s.func d.vf).done + 1#31) ∧ SameMemory s t) ∧
    (p.nodes.find? (·.handle == handle) = some d → d.state = .running → recKind d.record = 0 → d.ctxs ≠ [] → exec (.nodeCompletion pi handle) s = .next s) ∧
    (∃ t, exec (.agingIntervalExpiry pi handle) s = .next t ∧ (t.part pi).nodes = p.nodes.map (fun e =>
      if e.handle = handle ∧ e.state = .ready ∧ p.func = some e.vf ∧ e.level.toNat < 7 then { e with level := e.level + 1#3 } else e)) ∧
    (∀ u, p.scan.head? = some d → gang → ¬ holds → (if recPin d.record = true ∨ (recValid d.record = true ∧ s.unitIn pi (recWidth d.record) (recUnit d.record) = true) then u = recUnit d.record
      else s.reserveUnit pi d = some u) → exec (.gangReservation pi) s = .next (s.setPart pi { p with gangs := p.gangs ++ [(d.handle, u)] })) ∧
    (p.scan.head? = some d → (¬ gang ∨ holds) → exec (.gangReservation pi) s = .next s) ∧
    (p.scan = [] → exec (.gangReservation pi) s = .next s) ∧
    (∃ t, exec (.qosExpiry pi) s = .next t ∧ t.events = s.events ++ [⟨p.evhub, 6#8, 0⟩] ∧ (t.part pi).func = s.nextFunc pi p.func ∧
      ∀ i v c, p.func = some v → s.nextFunc pi p.func ≠ p.func → Sparse.find s.ctxs i = some c → c.vf = v → c.part = pi → c.life = .running → ((t.regs (.ctx i)).request).isSome = true) ∧
    (exec (.holdGateWrite pi gate on base limit) s = .next (s.setPart pi (gated { on := on, base := base, limit := limit }))) ∧
    (g.on = true → g.drained = false → p.nodes.any (fun d => d.state == .running && d.gated g) = false →
      exec (.gateDrained pi gate) s = .next { s.setPart pi (gated { g with drained := true }) with events := s.events ++ [⟨p.evhub, 5#8, 0⟩] }) ∧
    ((g.on = false ∨ g.drained = true ∨ p.nodes.any (fun d => d.state == .running && d.gated g) = true) → exec (.gateDrained pi gate) s = .next s) ∧
    (f.timer = true → ∃ t, exec (.coalescingTimerExpiry vf) s = .next t ∧ (t.func vf).timer = false ∧ (t.func vf).counts.any (·.2 != 0) = false ∧
      ∀ n x, (n, x) ∈ f.counts → x ≠ 0 → n < 64 → (if f.masked n then (t.func vf).pba.getLsbD n = true else .msix vf (BitVec.ofNat 6 n) ∈ t.outputs)) ∧
    (f.timer = false → exec (.coalescingTimerExpiry vf) s = .next s)

/-! ## The owner's side and the requester's side of the fabric -/

/-- R392, R393, R397, R399 to R402, R407, R410: a request of a source whose incarnation is known is answered, or applied exactly once in serial order: loads and gets return data, a store or a put in turn writes and is remembered by its serial, an atomic in turn answers the old value and
is held, and the same packet again changes nothing; a contribution is refused; an acknowledgement retires what it covers; a close forgets the sequence; a request of an unknown sequence is told so; REVOKE clears V of the key's entry. (That a REVOKE
of another generation changes nothing: log entry 34; that the other bytes of a line of HBM stand, the line being 64 bytes: log entry 7; both the model's choice.) -/
def Obligations.FabricOwner : Prop :=
  ∀ (s : State) (pi : Nat) (pk : Packet) (q : OwnerSeq) (e : CacheEntry) (key : BitVec 32),
    let p := s.part pi
    let mine (op : BitVec 8) : Prop := pk.op = op ∧ pk.rsp = false ∧ pk.dst = p.epid ∧ Sparse.find p.sources pk.src.toNat = some pk.inc
    let answered (i : Instr) (st : BitVec 8) (f : Packet → Prop) : Prop := ∃ t r, exec i s = .next t ∧ t.outputs = s.outputs ++ [.packet pi r] ∧ r.rsp = true ∧ r.op = pk.op ∧ r.dst = pk.src ∧ r.src = pk.dst ∧
      r.sid = pk.sid ∧ r.serial = pk.serial ∧ r.status = st ∧ f r ∧ SameMemory s t
    let n := pk.n.toNat
    let off := pk.offset.toNat
    let acc (o : Nat) : Access := s.farAccess p pk.key o
    let judged (read write : Bool) (offs : List Nat) (n : Nat) : BitVec 8 := s.farJudge p pk.key read write offs n
    let inTurn := p.ownerSeqs.find? (·.isOf pk) = some q ∧ pk.serial = q.applied + 1#32 ∧ (pk.ch = false ∨ q.lastOk = true)
    let room := p.cache.length < 65536
    let applied (t : State) : Prop := ∃ u, (t.part pi).ownerSeqs.find? (·.isOf pk) = some u ∧ u.applied = pk.serial ∧ u.lastOk = true
    let offs := indexOffsets pk
    let sz := indexSize pk
    let atomic (i : Instr) (op : BitVec 8) (f : Word → Option Word) : Prop := mine op → inTurn → room → judged true true [off] 8 = 0#8 →
      let m : Word := BitVec.ofNat 64 (s.read (acc off).key (acc off).phys 8)
      ∃ t r, exec i s = .next t ∧ applied t ∧ t.outputs = s.outputs ++ [.packet pi r] ∧ r.status = 0#8 ∧ r.opd0 = m ∧ SameMemory (match f m with | none => s | some x => s.putAtomic none (acc off) 8 x.toNat) t ∧
        ⟨pk.src, pk.sid, pk.serial, 0#8, m⟩ ∈ (t.part pi).cache
    let serialled : List (Instr × BitVec 8) := [(.fabricStore pi pk, 0x02#8), (.fabricFetchAdd pi pk, 0x03#8), (.fabricCompareAndSwap pi pk, 0x04#8), (.fabricSwap pi pk, 0x05#8), (.fabricContribution pi pk, 0x06#8), (.fabricIndexedPut pi pk, 0x08#8)]
    (mine 0x01#8 → judged true false [off] n = 0#8 → n ≤ 8 → answered (.fabricLoad pi pk) 0#8 (fun r => r.opd0 = BitVec.ofNat 64 (s.read (acc off).key (acc off).phys n))) ∧
    (mine 0x01#8 → judged true false [off] n = 0#8 → 8 < n → answered (.fabricLoad pi pk) 0#8 (fun r => r.payload = natFlits n (s.read (acc off).key (acc off).phys n))) ∧
    (mine 0x01#8 → judged true false [off] n ≠ 0#8 → answered (.fabricLoad pi pk) (judged true false [off] n) (fun r => r.opd0 = 0#64)) ∧
    (mine 0x07#8 → judged true false offs sz = 0#8 → answered (.fabricIndexedGet pi pk) 0#8 (fun r => r.payload = indexFlits (packetOffsets pk) sz (offs.map (fun o => s.read (acc o).key (acc o).phys sz)))) ∧
    (mine 0x07#8 → judged true false offs sz ≠ 0#8 → answered (.fabricIndexedGet pi pk) (judged true false offs sz) (fun r => r.payload = indexFlits (packetOffsets pk) sz [])) ∧
    (mine 0x02#8 → inTurn → judged false true [off] n = 0#8 → ∃ t, exec (.fabricStore pi pk) s = .next t ∧ applied t ∧ SameMemory (s.putPlain none (acc off) n (packetData pk)) t) ∧
    (mine 0x02#8 → inTurn → room → judged false true [off] n ≠ 0#8 → answered (.fabricStore pi pk) (judged false true [off] n) (fun _ => True)) ∧
    (mine 0x08#8 → inTurn → judged false true offs sz = 0#8 → ∃ t, exec (.fabricIndexedPut pi pk) s = .next t ∧ applied t ∧
      SameMemory (offs.zipIdx.foldl (fun s e => s.farPut pi pk.key e.1 sz (elementOf (packetBody pk) offs.length sz e.2) none) s) t) ∧
    atomic (.fabricFetchAdd pi pk) 0x03#8 (fun m => some (m + pk.opd0)) ∧
    atomic (.fabricCompareAndSwap pi pk) 0x04#8 (fun m => if m = pk.opd1 then some pk.opd0 else none) ∧
    atomic (.fabricSwap pi pk) 0x05#8 (fun _ => some pk.opd0) ∧
    (mine 0x06#8 → inTurn → room → answered (.fabricContribution pi pk) 0x0E#8 (fun _ => True)) ∧
    (∀ i ∈ serialled, mine i.2 → p.ownerSeqs.find? (·.isOf pk) = some q → ((pk.serial - q.applied).toNat = 0 ∨ 2 ^ 31 ≤ (pk.serial - q.applied).toNat) →
      (p.cache.filter (fun x => !(x.isOf pk && !serialLater x.serial pk.ack))).find? (fun x => x.isOf pk && x.serial == pk.serial) = some e → answered i.1 e.status (fun r => r.opd0 = e.result)) ∧
    (∀ i ∈ serialled, mine i.2 → p.ownerSeqs.any (·.isOf pk) = false → pk.new = false → answered i.1 3#8 (fun _ => True)) ∧
    (mine 0x0E#8 → p.ownerSeqs.find? (·.isOf pk) = some q → answered (.fabricAcknowledgementOnly pi pk) 0#8 (fun r => r.ack = q.applied)) ∧
    (mine 0x0F#8 → p.ownerSeqs.find? (·.isOf pk) = some q → answered (.fabricClose pi pk) 0#8 (fun r => r.ack = q.applied)) ∧
    (mine 0x0F#8 → p.ownerSeqs.find? (·.isOf pk) = some q → ∃ t, exec (.fabricClose pi pk) s = .next t ∧ (t.part pi).ownerSeqs = p.ownerSeqs.filter (fun x => !x.isOf pk) ∧ (t.part pi).cache = p.cache.filter (fun x => !x.isOf pk)) ∧
    (let a := p.regionAddr key;
      ((s.region p key).gen ≠ key.extractLsb' 16 16 → exec (.revoke pi key) s = .next s) ∧
      ((s.region p key).gen = key.extractLsb' 16 16 → (∀ k, k < 8 → s.keyValid 0 (a + k)) → ∃ t, exec (.revoke pi key) s = .next t ∧ (t.region p key).valid = false ∧
        ∀ kid x, Untouched 0 a 8 kid x → t.byteAt kid x = s.byteAt kid x))

/-- R395, R397, R399, R404, R407, R409: the reply to an atomic writes its result to the register and fills it, a refusal writes 0 and records a fault; the retransmission timer sends every packet without an outcome again with rt = 1 and changes no operation. -/
def Obligations.FabricRequester : Prop :=
  ∀ (s : State) (pi i : Nat) (pk : Packet) (q : Seq) (o : FabOp) (x : XReg),
    let p := s.part pi
    let c := s.regs (.ctx i)
    let waits := p.seqs = [q] ∧ q.ops = [o] ∧ q.who = .agent (.ctx i) ∧ c.life = .running ∧ q.sid = pk.sid ∧ q.ep = pk.src ∧ (q.inc = none ∨ q.inc = some pk.inc) ∧ o.sent = true ∧ o.dest = .xreg x ∧ x ≠ 0#5 ∧
      o.pk.op = pk.op ∧ (pk.op = 0x03#8 ∨ pk.op = 0x04#8 ∨ pk.op = 0x05#8) ∧ o.pk.serial = pk.serial ∧ pk.rsp = true ∧ pk.dst = p.epid
    (waits → pk.status = 0#8 → ∃ t, exec (.fabricReply pi pk) s = .next t ∧ (t.regs (.ctx i)).getX x = pk.opd0 ∧ (t.regs (.ctx i)).isFullX x = true ∧ (t.regs (.ctx i)).pend = c.pend ∧
      ∀ u ∈ (t.part pi).seqs, u.ops = []) ∧
    (waits → (pk.status = 0x0D#8 ∨ pk.status = 0x0E#8) → ∃ t, exec (.fabricReply pi pk) s = .next t ∧ (t.regs (.ctx i)).getX x = 0#64 ∧ (t.regs (.ctx i)).isFullX x = true ∧
      (t.regs (.ctx i)).pend.map (·.cause) = c.pend.map (·.cause) ++ o.issuers.map (fun _ => pk.status) ∧ ∀ u ∈ (t.part pi).seqs, u.ops = []) ∧
    ((pk.rsp = false ∨ pk.dst ≠ p.epid ∨ p.seqs.find? (fun q => q.sid == pk.sid && q.ep == pk.src) = none) → ∃ t, exec (.fabricReply pi pk) s = .next t ∧ (∀ a, t.regs a = s.regs a) ∧ SameMemory s t) ∧
    (∃ t, exec (.retransmissionTimer pi) s = .next t ∧ (t.part pi).seqs.map (fun q => q.ops.map (·.pk)) = p.seqs.map (fun q => q.ops.map (·.pk)) ∧ (∀ a, t.regs a = s.regs a) ∧ SameMemory s t ∧
      ∀ u ∈ p.seqs, ∀ r ∈ u.ops, r.sent = true → ∃ k, .packet pi k ∈ t.outputs ∧ k.rt = true ∧ k.op = r.pk.op ∧ k.serial = r.pk.serial ∧ k.sid = u.sid ∧ k.dst = u.ep)

/-! ## Tenants, the manager's settings, power and the platform -/

/-- R353, R363, R364, R365: CKILL ends a context of its partition without saving it, and quiesces its core; the function-level reset kills every context of its function, ends its nodes, zeroes its queue and interrupt state, and starts a scrub of its
ranges, whose bytes read as zero at once; a scrub step changes no byte that a load sees, and moves the watermark of the first unfinished range. -/
def Obligations.TenantReset : Prop :=
  ∀ (s : State) (p vf i : Nat) (r : Range) (w : Nat),
    let c := s.regs (.ctx i)
    let f := s.func vf
    (s.live i = true → c.part = p → ∃ t, exec (.ckill p i) s = .next t ∧ SameMemory s t ∧
      (let d := t.regs (.ctx i);
        d.life = .killed ∧ d.core = none ∧ d.trap = none ∧ d.pend = [] ∧ d.copies = [] ∧ d.vecQ = [] ∧ d.matQ = [] ∧ d.copyQ = []) ∧
      (∀ k, c.core = some k → (t.core k).resident = none ∧ (t.core k).quiesced = true) ∧ ∀ a, a ≠ .ctx i → t.regs a = s.regs a) ∧
    ((c.part ≠ p ∨ s.live i = false) → exec (.ckill p i) s = .next s) ∧
    (∃ t, exec (.functionLevelReset vf) s = .next t ∧
      (let g := t.func vf;
        g.enabled = false ∧ g.head = 0#32 ∧ g.tail = 0#32 ∧ g.done = 0#31 ∧ g.counts = [] ∧ g.pba = 0#64 ∧ g.timer = false) ∧
      (∀ j d, Sparse.find s.ctxs j = some d → d.vf = vf → (t.regs (.ctx j)).life = .ended ∨ (t.regs (.ctx j)).life = .killed) ∧
      (∀ d ∈ (t.part f.part).nodes, d.vf ≠ vf) ∧
      ∀ g ∈ f.ranges, ∀ key a, g.base ≤ a → a < g.base + g.len → t.byteAt key a = 0#8) ∧
    (f.ranges.find? (·.mark.isSome) = some r → r.mark = some w → ∃ t q, exec (.scrubBlock vf) s = .next t ∧ SameMemory s t ∧
      (t.func vf).ranges = updateFirst (·.mark.isSome) (fun _ => q) f.ranges ∧ q.base = r.base ∧ q.len = r.len ∧
      q.mark = (if r.len ≤ w + 256 then none else some (w + 256))) ∧
    (f.ranges.find? (·.mark.isSome) = none → exec (.scrubBlock vf) s = .next s)

/-- R341, R350, R352, R356, R419, R420, R422, R428, R136: a host access through a device-memory window of an enabled function reads or writes HBM under the window's key, and one outside it is an Unsupported Request; a write to the event hub, to the
half-row of a cable mask (whose diagonal stays set), to a charge weight or to `vprog` takes effect; a generated key is a new one, and bytes read under a destroyed key are 0; unmasking a vector sends the message that was held; a host read of the register page of an enabled function answers QTAIL, QPROG (with sw = 1 and the committed value while the queue is switched out),
QERR, QCOAL and the pending bits. -/
def Obligations.TenantSettings : Prop :=
  ∀ (s : State) (a : Agent) (p vf h n off : Nat) (win : BitVec 3) (bs : List Byte) (v : Word) (key : BitVec 7) (vec : BitVec 6),
    let f := s.func vf
    let x := f.wins.get win.toFin
    let lo := x.base + off
    let fits (n : Nat) : Prop := s.enabled vf = true ∧ off + n ≤ x.len ∧ lo + n ≤ hbmEnd
    let unsupported : State := { s with outputs := s.outputs ++ [.cxlUnsupported vf] }
    let (cl, row, half) := cableSel (s.hub h).cablesel
    let i := (v.extractLsb' 48 5).toNat
    (fits n → s.badFor true lo n = none → exec (.cxlMemAccess vf win off (.read n)) s = .next { s with outputs := s.outputs ++ [.cxlData vf (natBytes n (s.read x.key.toNat lo n))] }) ∧
    (fits bs.length → s.badFor false lo bs.length = none → (Sparse.find s.keys x.key.toNat).isSome = true → ∃ t, exec (.cxlMemAccess vf win off (.write bs)) s = .next t ∧
      (∀ k, k < bs.length → t.byteAt x.key.toNat (lo + k) = bs.getD k 0#8) ∧ (∀ kid y, Untouched x.key.toNat lo bs.length kid y → t.byteAt kid y = s.byteAt kid y) ∧
      t.outputs = s.outputs ∧ ∀ b, (t.regs b).x = (s.regs b).x) ∧
    (¬ fits n ∨ (s.badFor true lo n).isSome = true → exec (.cxlMemAccess vf win off (.read n)) s = .next unsupported) ∧
    (¬ fits bs.length ∨ (s.badFor false lo bs.length).isSome = true → exec (.cxlMemAccess vf win off (.write bs)) s = .next unsupported) ∧
    (∃ t, exec (.evhubWrite p v) s = .next t ∧ (t.part p).evhub = v.extractLsb' 0 3 ∧ ∀ q, q ≠ p → t.part q = s.part q) ∧
    (∃ t, exec (.cablemaskWrite h v) s = .next t ∧
      (∀ j, j < 128 → (t.cableRow cl row).getLsbD j = (j == row || if decide (64 ≤ j) == half then v.getLsbD (j % 64) else (s.cableRow cl row).getLsbD j)) ∧
      ∀ k q, q < 128 → (k ≠ cl ∨ q ≠ row) → t.cableRow k q = s.cableRow k q) ∧
    (∃ t, exec (.gaugetabWrite h v) s = .next t ∧ (t.hub h).gaugeIndex = v.extractLsb' 48 5 ∧
      (v.getLsbD 63 = true → i ≤ 21 → (t.part (s.partid h)).weight i = (v.extractLsb' 0 24).toNat) ∧
      ((v.getLsbD 63 = false ∨ 21 < i) → t.parts = s.parts)) ∧
    (key ≠ 0#7 → ∃ t, exec (.keyGenerate key) s = .next t ∧ Sparse.find t.keys key.toNat = some s.nextKey ∧ t.nextKey = s.nextKey + 1 ∧
      ∀ k, k ≠ key.toNat → Sparse.find t.keys k = Sparse.find s.keys k) ∧
    (key ≠ 0#7 → ∃ t, exec (.keyDestroy key) s = .next t ∧ (∀ y, y < hbmEnd → t.byteAt key.toNat y = 0#8) ∧
      ∀ k, k ≠ key.toNat → ∀ y, t.byteAt k y = s.byteAt k y) ∧
    exec (.keyGenerate 0#7) s = .next s ∧ exec (.keyDestroy 0#7) s = .next s ∧
    (∃ t, exec (.vprogWrite a v) s = .next t ∧ (t.regs a).vprog = v ∧ (t.regs a).vprogCount = 0#64 ∧ SameMemory s t ∧ ∀ b, b ≠ a → t.regs b = s.regs b) ∧
    (s.enabled vf = true → ∃ t, exec (.msiXVectorUnmask vf vec) s = .next t ∧ (t.func vf).masked vec.toNat = false ∧ (t.func vf).pba.getLsbD vec.toNat = false ∧
      t.outputs = s.outputs ++ (if f.pba.getLsbD vec.toNat then [.msix vf vec] else []) ∧ SameMemory s t) ∧
    (s.enabled vf = false → exec (.msiXVectorUnmask vf vec) s = .next unsupported) ∧
    (s.enabled vf = true → off + n ≤ 0x10000 → exec (.cxlMemAccess vf win off (.page n)) s = .next { s with outputs := s.outputs ++ [.cxlData vf (pageBytes f.pageWord off n)] }) ∧
    (vf ≠ 0 → (s.enabled vf = false ∨ 0x10000 < off + n) → exec (.cxlMemAccess vf win off (.page n)) s = .next unsupported) ∧
    (f.pageWord 0 = f.tail.setWidth 64 ∧ (f.committed = none → f.pageWord 8 = 0#1 ++ f.done ++ f.head) ∧ (∀ y, f.committed = some y → f.pageWord 8 = 1#1 ++ y) ∧
      f.pageWord 0x10 = f.errIdx ++ f.errReason ++ 0#8 ++ f.errCount ∧ f.pageWord 0x18 = 0#38 ++ f.coalCnt ++ 0#6 ++ f.coalTmr ∧ f.pageWord 0x2000 = f.pba)

/-- R112, R141, R333, R340, R345, R349, R352, R363, R392, R418, R419: writes to the registers of a function (1 to 1,024), a partition and a core take the fields that the rules give; a host write to a function that is not enabled is an Unsupported Request. That a queue size
outside 4 to 16, a weight outside 1 to 255, an aging interval outside 10 to 65,535 and a setting of a function that there is not change nothing is the model's choice (log entry 63): the rules give the ranges and no fate;
that a function cannot be enabled after any failed boot step is log entry 20's (R423 says it of failed firmware). -/
def Obligations.RegisterWrites : Prop :=
  ∀ (s : State) (p vf k : Nat) (j : BitVec 2) (g : BitVec 3) (v : Word),
    let f := s.func vf
    let c := s.core k
    let there := 1 ≤ vf ∧ vf ≤ 1024
    let wrote (r : HwReg) (q : State → Prop) : Prop := ∃ t, exec (.registerWrite r v) s = .next t ∧ q t ∧ SameMemory s t
    let ignored (r : HwReg) : Prop := exec (.registerWrite r v) s = .next s
    let unsupported (r : HwReg) : Prop := exec (.registerWrite r v) s = .next { s with outputs := s.outputs ++ [.cxlUnsupported vf] }
    (s.enabled vf = true ↔ there ∧ f.enabled = true) ∧
    (s.enabled vf = true → wrote (.qcoal vf) (fun t => (t.func vf).coalCnt = v.extractLsb' 16 10 ∧ (t.func vf).coalTmr = v.extractLsb' 0 10)) ∧
    (s.enabled vf = true → v.extractLsb' 0 16 = 0#16 → wrote (.qerr vf) (fun t => (t.func vf).errCount = 0#16)) ∧
    (there → f.enabled = false → unsupported (.qcoal vf) ∧ unsupported (.qerr vf) ∧ ∀ off, unsupported (.bar0 vf off)) ∧
    wrote (.opbase p) (fun t => (t.part p).opbase = v.extractLsb' 6 42) ∧
    wrote (.rtbase p) (fun t => (t.part p).rtbase = v.extractLsb' 4 44) ∧
    wrote (.fabrt p) (fun t => (t.part p).fabrt = v.setWidth 16) ∧
    wrote (.epid p) (fun t => (t.part p).epid = v.setWidth 16) ∧
    wrote (.baseSlice p) (fun t => (t.part p).baseSlice = v.toNat) ∧
    wrote (.quota p) (fun t => (t.part p).quota = min v.toNat 32767) ∧
    (there → wrote (.queueBase vf) (fun t => (t.func vf).qbase = v.toNat % 2 ^ 48 / 128 * 128)) ∧
    (there → 4 ≤ v.toNat → v.toNat ≤ 16 → wrote (.queueSize vf) (fun t => (t.func vf).ringSize = 2 ^ v.toNat)) ∧
    ((v.toNat < 4 ∨ 16 < v.toNat) → ignored (.queueSize vf)) ∧
    (there → (s.bootFailed = false ∨ v.getLsbD 0 = false) → wrote (.funcEnable vf) (fun t => (t.func vf).enabled = v.getLsbD 0)) ∧
    (s.bootFailed = true → v.getLsbD 0 = true → ignored (.funcEnable vf)) ∧
    (there → 1 ≤ v.toNat → v.toNat ≤ 255 → wrote (.funcWeight vf) (fun t => (t.func vf).weight = v.toNat)) ∧
    ((v.toNat < 1 ∨ 255 < v.toNat) → ignored (.funcWeight vf)) ∧
    (there → wrote (.winKey vf g) (fun t => ((t.func vf).wins.get g.toFin).key = v.setWidth 7)) ∧
    (¬ there → ∀ r ∈ [HwReg.qcoal vf, .qerr vf, .queueBase vf, .queueSize vf, .funcEnable vf, .funcWeight vf, .funcPart vf, .winBase vf g, .winLen vf g, .winKey vf g], ignored r) ∧
    (10 ≤ v.toNat → v.toNat ≤ 65535 → wrote (.aging p) (fun t => (t.part p).aging = v.toNat)) ∧
    ((v.toNat < 10 ∨ 65535 < v.toNat) → ignored (.aging p)) ∧
    wrote (.fixedBase k j) (fun t => ((t.core k).fixed.get j.toFin).base = v.setWidth 48 ∧ ∀ i, c.resident = some i → ((t.regs (.ctx i)).fixed.get j.toFin).base = v.setWidth 48) ∧
    wrote (.fixedLimit k j) (fun t => ((t.core k).fixed.get j.toFin).limit = v.setWidth 48 ∧ ∀ i, c.resident = some i → ((t.regs (.ctx i)).fixed.get j.toFin).limit = v.setWidth 48) ∧
    (c.resident = none → wrote (.lanemap k) (fun t => (t.core k).lanemap = v.setWidth 16)) ∧
    (c.resident ≠ none → ignored (.lanemap k))

/-- R354, R355, R427: a grant makes the hub and memory shares and, over 100 °C, a tenth less power; panels without residents are granted nothing; after a thermal shutdown nothing but a device reset has an effect; the limit takes 1,200 W to 3,000 W (that one outside
changes nothing is the model's choice, log entry 63).
R423, R424, R425: a device reset with firmware that the fuses accept leaves every context, partition and function at its reset value, HBM reading as zero under a new key 0 (bank memory and scratchpad, which the rules do not name, too: log entry 3), the hub cores at the
manager's start and the next incarnation; lanes that failed the test leave the lane map, and a core with fewer than eight is disabled; firmware that fails its check, and a later step that fails, show in the boot status, and no hub core starts before step 6; every SPDM
request is answered with what the rules give (how the bytes are laid out is log entry 20's). -/
def Obligations.PowerAndPlatform : Prop :=
  (∀ (s : State) (phub phbm watts : Nat) (hot : Bool),
    (∃ t, exec (.gaugeGrant phub phbm hot) s = .next t ∧ t.phub = phub ∧ t.phbm = phbm ∧ t.plimit = (if hot then s.plimit * 9 / 10 else s.plimit) ∧ SameMemory s t ∧
      (∀ a, (t.regs a).x = (s.regs a).x) ∧ (s.residents = [] → t.grants = Vector.replicate 4 0)) ∧
    (∃ t, exec .thermalShutdown s = .next t ∧ SameMemory s t ∧ (∀ a, t.regs a = s.regs a) ∧ (∀ a n, t.mayRun a n = false) ∧ ∀ i, (∀ w b, i ≠ .deviceReset w b) → t.heeds i = false) ∧
    (1200 ≤ watts → watts ≤ 3000 → ∃ t, exec (.plimitSet watts) s = .next t ∧ t.plimit = watts ∧ SameDevice { s with plimit := watts } t ∧ SameMemory s t ∧ ∀ a, t.regs a = s.regs a) ∧
    ((watts < 1200 ∨ 3000 < watts) → exec (.plimitSet watts) s = .next s)) ∧
  (∀ (s : State) (k step : Nat) (m : BitVec 16) (failed : List (Nat × BitVec 16)) (fw : Firmware) (req : List (BitVec 8)),
    let good := fw.keyHash = s.fuses.keyHash ∧ fw.signed = fw.digest ∧ s.fuses.minVersion ≤ fw.version
    let answered (i : Instr) (a : SpdmAnswer) : Prop := exec i s = .next { s with outputs := s.outputs ++ [.spdm a] }
    let sign (content : List (BitVec 512)) : BitVec 4096 := Config.identitySign s.fuses.secret req content s.tick
    (good → ∃ t, exec (.deviceReset fw {}) s = .next t ∧ t.incarnation = s.incarnation + 1#16 ∧ t.bootFailed = false ∧ t.bootStep = 7#4 ∧ (∀ a, a < hostStart → t.byteAt 0 a = 0#8) ∧
      (∀ a, t.regs a = State.reset.regs a) ∧ (∀ p, t.part p = State.reset.part p) ∧ (∀ vf, t.func vf = State.reset.func vf) ∧ (∀ c, t.core c = State.reset.core c) ∧
      (∀ h, t.hub h = Hub.started) ∧ t.keys = [(0, s.nextKey)] ∧ t.nextKey = s.nextKey + 1 ∧ t.moduleOn = true) ∧
    (good → ∃ t, exec (.deviceReset fw { lanes := [(k, m)] }) s = .next t ∧ (t.core k).lanemap = ~~~m ∧ (t.core k).disabled = decide ((lanesOf (~~~m)).length < 8) ∧ ∀ c, c ≠ k → t.core c = State.reset.core c) ∧
    (¬ good → step ≠ 1 → ∃ t, exec (.deviceReset fw ⟨failed, step⟩) s = .next t ∧ t.bootFailed = true ∧ t.bootStep = 2#4 ∧ ∀ h n, h < 8 → t.mayRun (.hub h) n = false) ∧
    (good → 3 ≤ step → step ≤ 7 → ∃ t, exec (.deviceReset fw ⟨failed, step⟩) s = .next t ∧ t.bootFailed = true ∧ t.bootStep = BitVec.ofNat 4 step ∧
      (step ≤ 6 → t.incarnation = s.incarnation ∧ ∀ h n, h < 8 → t.mayRun (.hub h) n = false) ∧ (4 ≤ step → ∀ a, a < hbmEnd → t.byteAt 0 a = 0#8)) ∧
    answered (.getVersion req) (.version 0x13#8) ∧ answered (.getCapabilities req) (.capabilities false) ∧ answered (.negotiateAlgorithms req) (.algorithms 4096 512) ∧
    answered (.getDigests req) (.digests (sha512 s.fuses.chain)) ∧ answered (.getCertificate req) (.certificate s.fuses.chain) ∧
    answered (.challenge req) (.challengeAuth (sha512 s.fuses.chain) (sign [sha512 s.fuses.chain])) ∧
    answered (.getMeasurements req) (.measurements s.measured (sign s.measured)))

/-! ## Reset, the step, decoding -/

/-- R425, R360, R392 and R422: after reset S of every hub core runs from pc 0 and its other needles do not, no context, function or partition setting is there, memory reads as zero, only key 0 is valid, `yieldwin` is 200, `fabrt` 30, no core reaches another
one's scratchpad, and the memory is in its canonical form (registers without a reset value of the spec: log entries 2 and 3). -/
def Obligations.ResetState : Prop :=
  State.reset.memOk ∧ (∀ a, (State.reset.regs a).Bounded) ∧ (∀ p, (State.reset.part p).Sound) ∧ (∀ a, State.reset.byteAt 0 a = 0#8) ∧
  (∀ h, (State.reset.regs (.hub h)).nS.run = .running ∧ (State.reset.regs (.hub h)).nS.pc = 0#64 ∧ State.reset.mayRun (.hub h) .S = true ∧
    ∀ n, n ≠ .S → State.reset.mayRun (.hub h) n = false) ∧
  (∀ h x, (State.reset.regs (.hub h)).getX x = 0#64) ∧ (∀ i, State.reset.live i = false) ∧ (∀ vf, (State.reset.func vf).enabled = false ∧ (State.reset.func vf).coalCnt = 1#10) ∧
  (∀ p, (State.reset.part p).nodes = [] ∧ (State.reset.part p).fabrt = 30#16 ∧ (State.reset.part p).evhub = 0#3) ∧
  (∀ k, Sparse.find State.reset.keys k = if k = 0 then some 0 else none) ∧ State.reset.yieldwin = 200#16 ∧ State.reset.ticket = 0#64 ∧
  (∀ c r j, r < 128 → j < 128 → (State.reset.cableRow c r).getLsbD j = (j == r))

/-- The memory stays in its canonical form: addresses strictly rising, no byte listed that reads as an unlisted one. -/
def Obligations.StepKeepsMemoryForm : Prop := ∀ (s t : State), s.memOk → step s = .next t → t.memOk

/-- R24, R355, R413: from every state in which no needle has more than six loop levels open, no gauge has passed its 48 bits and no agent has more than 16 reductions under way, every step leads to one.
R115, R123, R222, R371 and R425: an agent's base registers, and its copy of slot 0, stand as they are under every instruction and event but `bslot` and `bfree` of its own, `ctxload`, `cres`, the dispatch of a
node that starts a context, and a device reset. (A tile node's copy runs under a context of the model's own with an id from 2^32 on: log entry 35.) -/
def Obligations.StepKeepsRegisters : Prop :=
  (∀ (s t : State), (∀ a, (s.regs a).Bounded) → step s = .next t → ∀ a, (t.regs a).Bounded) ∧
  (∀ (s t : State) (i : Instr) (a : Agent), exec i s = .next t → (∀ c, a = .ctx c → c < 2 ^ 32) →
    (∀ rd rs1 rs2 w1 w2, i ≠ .ctxload rd rs1 rs2 w1 w2) → (∀ rs1 w1, i ≠ .cres rs1 w1) → (∀ p us ids, i ≠ .nodeDispatch p us ids) → (∀ w b, i ≠ .deviceReset w b) →
    (a = s.who → (∀ bd imm rs1, i ≠ .bslot bd imm rs1) ∧ ∀ bd, i ≠ .bfree bd) →
    (t.regs a).b = (s.regs a).b ∧ (t.regs a).slot0 = (s.regs a).slot0)

/-- R337, R399 and R400: from every state in which the nodes of each partition's Loom have handles of their own, from 1 to 32,767, and no more than that many stand, in which a source has one sequence
under an id, and the reply cache has no more than 65,536 entries, every step leads to one. -/
def Obligations.StepKeepsTables : Prop := ∀ (s t : State), (∀ p, (s.part p).Sound) → step s = .next t → ∀ p, (t.part p).Sound

/-- R41, R120, R177, R198: a needle's turn executes the instruction that the word at its pc decodes to; it stops at a yield point where a request waits; a word that no instruction has is illegal; a needle that may not run lets the
turn pass; and a step without a word takes place when its turn comes, unless the module is off; two turns whose register writes race with no late unit are one after the other (R32);
a turn that names an instruction with a word as an event is a fault of the model's own. (The list of turns: log entry 1; that fault: log entry 16; the module that is off: log entry 45; the model's choices.) -/
def Obligations.StepRunsDecoded : Prop :=
  ∀ (s : State) (a : Agent) (n : Needle) (ts : List Turn) (i : Instr),
    let u := { s with turns := ts }.beginTurn a n
    let v := { u with ir := u.fetchWord u.my u.pc }
    let runs := s.turns = .needle a n :: ts ∧ u.mayRun a n = true
    let free := runs ∧ (u.my.request = none ∨ u.my.atYieldPoint n = false)
    (free → u.fetchFault u.my u.pc = none → decode v.ir = .ok i → step s = exec i v) ∧
    (free → u.fetchFault u.my u.pc = none → (∀ k, decode v.ir ≠ .ok k) → step s = finish v [] (illegal v)) ∧
    (∀ code v0 v1, free → u.fetchFault u.my u.pc = some (code, v0, v1) → step s = finish u [] (u, .trap code v0 v1)) ∧
    (runs → u.my.request ≠ none → u.my.atYieldPoint n = true → step s = finish u [] (u, .yieldStop)) ∧
    (s.turns = .needle a n :: ts → u.mayRun a n = false → step s = .next u) ∧
    (s.turns = .event i :: ts → i.hasWord = false → s.heeds i = true → step s = exec i { s with turns := ts, tick := s.tick + 1 }) ∧
    (s.moduleOn = true → s.heeds i = true) ∧
    (s.turns = .event i :: ts → i.hasWord = false → s.heeds i = false → step s = .next { s with turns := ts, tick := s.tick + 1 }) ∧
    (∀ b t l r, s.turns = .race t b l r :: ts → (l = [] ∨ t.racesWith b r = false) → step s = match stepTurn t { s with turns := ts } with
      | .next x => stepTurn r x
      | x => x) ∧
    (s.turns = .event i :: ts → i.hasWord = true → step s = .fault .turnIsNoEvent)

/-- R177 to R190: the word of every well-formed instruction decodes to that instruction with every operand. -/
def Obligations.DecodeEncode : Prop := ∀ i : Instr, i.hasWord = true → i.wellFormed = true → decode (encode i) = .ok i

/-- R177 to R190: words written out field by field from the tables of the encoding chapter, one or more for each family, decode to the instructions that they stand for; a word of an unlisted opcode, one whose low bits are not 0b11 and one whose
sub-field is not defined decode to none. -/
def Obligations.DecodedWords : Prop :=
  (∀ p ∈ ([
    (0b00000000101001010011_00101_0110111#32, .lui 5 2643),
    (0b01001010011000000001_00101_1101111#32, .jal 5 2643),
    (0b1100101_10010_01001_001_00110_1100011#32, .bne 9 18 2643),
    (0b101001010011_01001_011_00101_0000011#32, .ld 5 9 2643),
    (0b1010010_10010_01001_011_10011_0100011#32, .sd 9 18 2643),
    (0b101001010011_01001_000_00101_0010011#32, .addi 5 9 2643),
    (0b010000_000011_01001_101_00101_0010011#32, .srai 5 9 3),
    (0b0100000_10010_01001_000_00101_0110011#32, .sub 5 9 18),
    (0b0000001_10010_01001_101_00101_0111011#32, .divuw 5 9 18),
    (0b0011_0011_0011_01001_000_00101_0001111#32, .fence 3 3 3 9 5),
    (0b101001010011_01001_001_00101_1110011#32, .csrrw 5 9 2643),
    (0b00000_0_1_10010_01001_011_00101_0101111#32, .amoaddD false true 5 9 18),
    (0b00011_0_1_10010_01001_010_00101_0101111#32, .scW false true 5 9 18),
    (0b101001010011_01001_011_00101_0000111#32, .fld 5 9 2643),
    (0b11011_01_10010_01001_011_00101_1000011#32, .fmaddD 5 9 18 27 3),
    (0b110000100010_01001_011_00101_1010011#32, .fcvtLD 5 9 3),
    (0b0010001_10010_01001_010_00101_1010011#32, .fsgnjxD 5 9 18),
    (0b101001010011_01001_0010_0011_0001011#32, .bslot 3 2643 9),
    (0b01001010011_0_01001_010000000001011#32, .loop 9 595 false),
    (0b000100000000_00011_000000000001011#32, .meet 3),
    (0b01011_0_1_10010_01001_000_00011_0001011#32, .barArr 9 18 3 true false),
    (0b10001_0_1_10010_01001_000_00101_0001011#32, .ctxsave 5 9 18 true false),
    (0b0000_0_11_0011_1_01001_011_00101_0001011#32, .vlset 5 9 3 3 false true),
    (0b000000000_0_1_1_01001_100_00101_0001011#32, .vld 37 9 false true),
    (0b001_1_0_1_0_10010_01001_101_00101_0001011#32, .vsts 37 9 18 true false),
    (0b000_1_0_1_101100_01001_111_00101_0001011#32, .vbadd 37 44 9 true false),
    (0b00000_1_0_101100_010110_100101_1011011#32, .vaddVv 37 44 22 true false),
    (0b011001_1_0_101100_01001_100101_0101011#32, .vsltVx 37 44 9 true false),
    (0b11110_1_0_101100_010110_100101_1011011#32, .vperm 37 44 22 true false),
    (0b101001_1_0_101100_01001_100101_0101011#32, .vfmaccVf 37 44 9 true false),
    (0b10110_1_0_101100_00_0011_100101_1111011#32, .vcvtup 37 44 3 true false),
    (0b11111_0_0_101100_010010_100101_1111011#32, .pfwd 37 44 false),
    (0b000110_1_00011_01001_11000_010_0001011#32, .mmac 2 9 3 true),
    (0b000000_0_00000_01001_110_00101_0001011#32, .mtset 5 9 false),
    (0b011100_0_00000_01001_110_00101_0001011#32, .ytile 5 9 false),
    (0b10111_0_1_10010_01001_000_00101_0001011#32, .fabcas 5 9 18 true false)] : List (BitVec 32 × Instr)), decode p.1 = .ok p.2) ∧
  decode 0x00000000#32 = .error .compressedSpace ∧ decode 0xFFFFFFFF#32 = .error .longSpace ∧ decode 0x0000006B#32 = .error .unlistedMajor ∧
  decode 0b0000010_00011_00010_000_00001_0110011#32 = .error .undefinedFunct ∧ decode 0b000010_0_10001_01001_110000000001011#32 = .error .operandRange
end

