-- ==== Sys2Proof/Laws/Arith.lean ====
section
/-! SUPPORT. The integer operations of RV64I and RV64M as integer arithmetic reduced to the width of the result. -/

namespace Sys2Proof.Machine
open Sys2Proof

theorem ofInt_shl {w : Nat} (a : BitVec w) (n : Nat) : a <<< n = BitVec.ofNat w (a.toNat * 2 ^ n) := by
  apply BitVec.eq_of_toNat_eq; simp [Nat.shiftLeft_eq]

theorem ofInt_shl' {w : Nat} (a : BitVec w) (n : Nat) : a <<< n = BitVec.ofInt w ((a.toNat : Int) * 2 ^ n) := by
  rw [ofInt_shl, ← BitVec.ofInt_natCast, Int.natCast_mul, Int.natCast_pow]; rfl

theorem ofInt_shr' {w : Nat} (a : BitVec w) (n : Nat) : a >>> n = BitVec.ofInt w ((a.toNat / 2 ^ n : Nat) : Int) := by
  rw [BitVec.ofInt_natCast]
  apply BitVec.eq_of_toNat_eq
  simp only [BitVec.toNat_ushiftRight, Nat.shiftRight_eq_div_pow, BitVec.toNat_ofNat]
  exact (Nat.mod_eq_of_lt (Nat.lt_of_le_of_lt (Nat.div_le_self _ _) a.isLt)).symm

theorem ofNat_shr {w : Nat} (a : BitVec w) (n : Nat) : a >>> n = BitVec.ofNat w (a.toNat / 2 ^ n) := by
  apply BitVec.eq_of_toNat_eq
  simp only [BitVec.toNat_ushiftRight, Nat.shiftRight_eq_div_pow, BitVec.toNat_ofNat]
  exact (Nat.mod_eq_of_lt (Nat.lt_of_le_of_lt (Nat.div_le_self _ _) a.isLt)).symm

theorem ofInt_sar {w : Nat} (a : BitVec w) (n : Nat) : a.sshiftRight n = BitVec.ofInt w (a.toInt / 2 ^ n) := by
  rw [BitVec.sshiftRight, Int.shiftRight_eq_div_pow]; congr 2

theorem slt_ite (a b : Word) : boolWord (a.slt b) = if a.toInt < b.toInt then 1#64 else 0#64 := by
  simp [boolWord, BitVec.slt]

theorem ult_ite (a b : Word) : boolWord (a.ult b) = if a.toNat < b.toNat then 1#64 else 0#64 := by
  simp [boolWord, BitVec.ult]

theorem ofInt_add' {w : Nat} (a b : BitVec w) : a + b = BitVec.ofInt w (a.toInt + b.toInt) := by
  rw [BitVec.ofInt_add, BitVec.ofInt_toInt, BitVec.ofInt_toInt]

theorem ofInt_sub' {w : Nat} (a b : BitVec w) : a - b = BitVec.ofInt w (a.toInt - b.toInt) := by
  apply BitVec.eq_of_toInt_eq; rw [BitVec.toInt_sub, BitVec.toInt_ofInt]

theorem ofInt_mul' {w : Nat} (a b : BitVec w) : a * b = BitVec.ofInt w (a.toInt * b.toInt) := by
  rw [BitVec.ofInt_mul, BitVec.ofInt_toInt, BitVec.ofInt_toInt]

theorem low32 (a : Word) : a.setWidth 32 = a.extractLsb' 0 32 := by
  apply BitVec.eq_of_getLsbD_eq; intro i hi; simp

theorem toInt_sext12 (i : BitVec 12) : (i.signExtend 64).toInt = i.toInt := BitVec.toInt_signExtend_of_le (by decide)

theorem sext_shift (u : BitVec 20) : (u ++ 0#12).signExtend 64 = BitVec.ofInt 64 (u.toInt * 4096) := by
  apply BitVec.eq_of_toInt_eq
  rw [BitVec.toInt_signExtend_of_le (by decide), BitVec.toInt_ofInt]
  have h1 : (u ++ 0#12 : BitVec 32).toInt = u.toInt * 4096 := by
    rw [BitVec.toInt_eq_toNat_cond, BitVec.toInt_eq_toNat_cond, BitVec.toNat_append]
    have := u.isLt
    simp [Nat.shiftLeft_eq]
    split <;> split <;> omega
  rw [h1]
  have := u.toInt_lt; have := u.le_toInt
  rw [Int.bmod_eq_of_le] <;> omega

theorem allOnes_ofInt (w : Nat) : BitVec.allOnes w = BitVec.ofInt w (-1) := by
  rw [← BitVec.neg_one_eq_allOnes, BitVec.ofInt_neg]; rfl

theorem divS_eq {w : Nat} (a b : BitVec w) : divS a b = BitVec.ofInt w (if b.toInt = 0 then -1 else a.toInt.tdiv b.toInt) := by
  unfold divS
  by_cases h : b = 0#w
  · subst h; simp only [if_true, BitVec.toInt_zero]; exact allOnes_ofInt w
  · have : ¬ b.toInt = 0 := fun e => h (BitVec.eq_of_toInt_eq (by simpa using e))
    simp only [h, this, if_false]
    apply BitVec.eq_of_toInt_eq
    rw [BitVec.toInt_sdiv, BitVec.toInt_ofInt]

theorem divU_eq {w : Nat} (a b : BitVec w) : divU a b = BitVec.ofInt w (if b.toNat = 0 then -1 else a.toNat / b.toNat) := by
  unfold divU
  by_cases h : b = 0#w
  · subst h; simp only [if_true, BitVec.toNat_ofNat, Nat.zero_mod]; exact allOnes_ofInt w
  · have : ¬ b.toNat = 0 := fun e => h (BitVec.eq_of_toNat_eq (by simpa using e))
    simp only [h, this, if_false]
    rw [show ((a.toNat : Int) / (b.toNat : Int)) = ((a.toNat / b.toNat : Nat) : Int) from rfl, BitVec.ofInt_natCast]
    apply BitVec.eq_of_toNat_eq
    simp only [BitVec.toNat_udiv, BitVec.toNat_ofNat]
    exact (Nat.mod_eq_of_lt (Nat.lt_of_le_of_lt (Nat.div_le_self _ _) a.isLt)).symm

theorem remS_eq {w : Nat} (a b : BitVec w) : remS a b = BitVec.ofInt w (a.toInt.tmod b.toInt) := by
  unfold remS
  by_cases h : b = 0#w
  · simp [h]
  · simp only [h, if_false]
    apply BitVec.eq_of_toInt_eq
    rw [BitVec.toInt_ofInt, BitVec.toInt_srem]
    have := a.toInt_lt; have := a.le_toInt
    rw [← BitVec.toInt_srem, ← BitVec.toInt_ofInt, BitVec.ofInt_toInt]

theorem remU_eq {w : Nat} (a b : BitVec w) : remU a b = BitVec.ofInt w (a.toNat % b.toNat) := by
  unfold remU
  rw [show ((a.toNat : Int) % (b.toNat : Int)) = ((a.toNat % b.toNat : Nat) : Int) from rfl, BitVec.ofInt_natCast]
  apply BitVec.eq_of_toNat_eq
  by_cases h : b = 0#w
  · simp [h]
  · simp only [h, if_false, BitVec.toNat_umod, BitVec.toNat_ofNat]
    exact (Nat.mod_eq_of_lt (Nat.lt_of_le_of_lt (Nat.mod_le _ _) a.isLt)).symm


theorem trunc_add (a : Word) (imm : BitVec 12) : (a + imm.signExtend 64).setWidth 32 = BitVec.ofInt 32 ((a.extractLsb' 0 32).toInt + imm.toInt) := by
  rw [BitVec.ofInt_add, BitVec.ofInt_toInt, BitVec.setWidth_add _ _ (by decide), low32]
  congr 1
  have h : (imm.signExtend 64).setWidth 32 = imm.signExtend 32 := by
    apply BitVec.eq_of_getLsbD_eq; intro i hi
    rw [BitVec.getLsbD_setWidth, BitVec.getLsbD_signExtend, BitVec.getLsbD_signExtend]; simp [hi, show i < 64 by omega]
  rw [h]
  apply BitVec.eq_of_toInt_eq
  rw [BitVec.toInt_signExtend_of_le (by decide), BitVec.toInt_ofInt]
  have := imm.toInt_lt; have := imm.le_toInt
  rw [Int.bmod_eq_of_le] <;> omega

theorem shl_sar (k w : Nat) (hk : 0 < k) (hk2 : k ≤ 64) : ((BitVec.ofNat 64 w) <<< (64 - k)).sshiftRight (64 - k) = (BitVec.ofNat k w).signExtend 64 := by
  apply BitVec.eq_of_getLsbD_eq; intro i hi
  rw [BitVec.getLsbD_sshiftRight, BitVec.getLsbD_signExtend]
  by_cases h : i < k
  · have h1 : 64 - k + i < 64 := by omega
    have h2 : ¬ 64 - k + i < 64 - k := by omega
    have h3 : 64 - k + i - (64 - k) = i := by omega
    simp only [h, hi, h1, h2, h3, show ¬ 64 ≤ i by omega, BitVec.getLsbD_shiftLeft, BitVec.getLsbD_ofNat, if_true, decide_true, decide_false, Bool.not_false, Bool.true_and]
  · have h1 : ¬ 64 - k + i < 64 := by omega
    have h2 : 63 - (64 - k) = k - 1 := by omega
    simp only [h, h1, if_false, BitVec.msb_eq_getLsbD_last, BitVec.getLsbD_shiftLeft, BitVec.getLsbD_ofNat, h2]
    simp [hi, show k - 1 < k by omega, show ¬ 63 < 64 - k by omega, show k - 1 < 64 by omega, show ¬ 64 ≤ i by omega]

theorem ofNat_zext (k w : Nat) (hk : k ≤ 64) (h : w < 2 ^ k) : BitVec.ofNat 64 w = (BitVec.ofNat k w).setWidth 64 := by
  apply BitVec.eq_of_toNat_eq
  have : w < 2 ^ 64 := Nat.lt_of_lt_of_le h (Nat.pow_le_pow_right (by decide) hk)
  simp [Nat.mod_eq_of_lt h, Nat.mod_eq_of_lt this]

end Sys2Proof.Machine
end

