-- ==== Sys2Proof/Laws/State.lean ====
section
/-! SUPPORT. What each named update of the state leaves in each field: one lemma per field per update. -/

namespace Sys2Proof.Machine
open Sys2Proof

/-! ## Sparse maps -/

@[simp] theorem Sparse.find_insert {α : Type} (m : Sparse α) (k : Nat) (a : α) : Sparse.find (Sparse.insert m k a) k = some a := by
  induction m with
  | nil => simp [Sparse.insert, Sparse.find]
  | cons e m ih =>
    obtain ⟨j, b⟩ := e
    simp only [Sparse.insert]
    split
    · simp [Sparse.find]
    · split
      · simp [Sparse.find]
      · next h => simp [Sparse.find, Ne.symm h, ih]

theorem Sparse.find_insert_ne {α : Type} (m : Sparse α) (k l : Nat) (a : α) (h : l ≠ k) :
    Sparse.find (Sparse.insert m k a) l = Sparse.find m l := by
  induction m with
  | nil => simp [Sparse.insert, Sparse.find, Ne.symm h]
  | cons e m ih =>
    obtain ⟨j, b⟩ := e
    simp only [Sparse.insert]
    split
    · simp [Sparse.find, Ne.symm h]
    · split
      · next e => subst e; simp [Sparse.find, Ne.symm h]
      · simp only [Sparse.find, ih]

@[simp] theorem Sparse.at_insert {α : Type} (m : Sparse α) (d : α) (k : Nat) (a : α) : Sparse.at (Sparse.insert m k a) d k = a := by
  simp [Sparse.at]

theorem Sparse.at_insert_ne {α : Type} (m : Sparse α) (d : α) (k l : Nat) (a : α) (h : l ≠ k) :
    Sparse.at (Sparse.insert m k a) d l = Sparse.at m d l := by
  simp [Sparse.at, Sparse.find_insert_ne m k l a h]

/-! ## Updates of the machine's state -/

@[simp] theorem State.setHub_turns (s : State) (h : Nat) (u : Hub) : (s.setHub h u).turns = s.turns := rfl
@[simp] theorem State.setHub_cur (s : State) (h : Nat) (u : Hub) : (s.setHub h u).cur = s.cur := rfl
@[simp] theorem State.setHub_ir (s : State) (h : Nat) (u : Hub) : (s.setHub h u).ir = s.ir := rfl
@[simp] theorem State.setHub_tick (s : State) (h : Nat) (u : Hub) : (s.setHub h u).tick = s.tick := rfl
@[simp] theorem State.setHub_ctxs (s : State) (h : Nat) (u : Hub) : (s.setHub h u).ctxs = s.ctxs := rfl
@[simp] theorem State.setHub_cores (s : State) (h : Nat) (u : Hub) : (s.setHub h u).cores = s.cores := rfl
@[simp] theorem State.setHub_parts (s : State) (h : Nat) (u : Hub) : (s.setHub h u).parts = s.parts := rfl
@[simp] theorem State.setHub_funcs (s : State) (h : Nat) (u : Hub) : (s.setHub h u).funcs = s.funcs := rfl
@[simp] theorem State.setHub_images (s : State) (h : Nat) (u : Hub) : (s.setHub h u).images = s.images := rfl
@[simp] theorem State.setHub_events (s : State) (h : Nat) (u : Hub) : (s.setHub h u).events = s.events := rfl
@[simp] theorem State.setHub_mem (s : State) (h : Nat) (u : Hub) : (s.setHub h u).mem = s.mem := rfl
@[simp] theorem State.setHub_keyOf (s : State) (h : Nat) (u : Hub) : (s.setHub h u).keyOf = s.keyOf := rfl
@[simp] theorem State.setHub_clearKey (s : State) (h : Nat) (u : Hub) : (s.setHub h u).clearKey = s.clearKey := rfl
@[simp] theorem State.setHub_granules (s : State) (h : Nat) (u : Hub) : (s.setHub h u).granules = s.granules := rfl
@[simp] theorem State.setHub_tileTags (s : State) (h : Nat) (u : Hub) : (s.setHub h u).tileTags = s.tileTags := rfl
@[simp] theorem State.setHub_badMem (s : State) (h : Nat) (u : Hub) : (s.setHub h u).badMem = s.badMem := rfl
@[simp] theorem State.setHub_hostBars (s : State) (h : Nat) (u : Hub) : (s.setHub h u).hostBars = s.hostBars := rfl
@[simp] theorem State.setHub_releases (s : State) (h : Nat) (u : Hub) : (s.setHub h u).releases = s.releases := rfl
@[simp] theorem State.setHub_barriers (s : State) (h : Nat) (u : Hub) : (s.setHub h u).barriers = s.barriers := rfl
@[simp] theorem State.setHub_ticket (s : State) (h : Nat) (u : Hub) : (s.setHub h u).ticket = s.ticket := rfl
@[simp] theorem State.setHub_timer (s : State) (h : Nat) (u : Hub) : (s.setHub h u).timer = s.timer := rfl
@[simp] theorem State.setHub_yieldwin (s : State) (h : Nat) (u : Hub) : (s.setHub h u).yieldwin = s.yieldwin := rfl
@[simp] theorem State.setHub_dbgCtx (s : State) (h : Nat) (u : Hub) : (s.setHub h u).dbgCtx = s.dbgCtx := rfl
@[simp] theorem State.setHub_dbgNeedle (s : State) (h : Nat) (u : Hub) : (s.setHub h u).dbgNeedle = s.dbgNeedle := rfl
@[simp] theorem State.setHub_dbgStep (s : State) (h : Nat) (u : Hub) : (s.setHub h u).dbgStep = s.dbgStep := rfl
@[simp] theorem State.setHub_cable (s : State) (h : Nat) (u : Hub) : (s.setHub h u).cable = s.cable := rfl
@[simp] theorem State.setHub_keys (s : State) (h : Nat) (u : Hub) : (s.setHub h u).keys = s.keys := rfl
@[simp] theorem State.setHub_nextKey (s : State) (h : Nat) (u : Hub) : (s.setHub h u).nextKey = s.nextKey := rfl
@[simp] theorem State.setHub_incarnation (s : State) (h : Nat) (u : Hub) : (s.setHub h u).incarnation = s.incarnation := rfl
@[simp] theorem State.setHub_plimit (s : State) (h : Nat) (u : Hub) : (s.setHub h u).plimit = s.plimit := rfl
@[simp] theorem State.setHub_grants (s : State) (h : Nat) (u : Hub) : (s.setHub h u).grants = s.grants := rfl
@[simp] theorem State.setHub_phub (s : State) (h : Nat) (u : Hub) : (s.setHub h u).phub = s.phub := rfl
@[simp] theorem State.setHub_phbm (s : State) (h : Nat) (u : Hub) : (s.setHub h u).phbm = s.phbm := rfl
@[simp] theorem State.setHub_moduleOn (s : State) (h : Nat) (u : Hub) : (s.setHub h u).moduleOn = s.moduleOn := rfl
@[simp] theorem State.setHub_bootStep (s : State) (h : Nat) (u : Hub) : (s.setHub h u).bootStep = s.bootStep := rfl
@[simp] theorem State.setHub_bootFailed (s : State) (h : Nat) (u : Hub) : (s.setHub h u).bootFailed = s.bootFailed := rfl
@[simp] theorem State.setHub_fuses (s : State) (h : Nat) (u : Hub) : (s.setHub h u).fuses = s.fuses := rfl
@[simp] theorem State.setHub_firmware (s : State) (h : Nat) (u : Hub) : (s.setHub h u).firmware = s.firmware := rfl
@[simp] theorem State.setHub_bootLanes (s : State) (h : Nat) (u : Hub) : (s.setHub h u).bootLanes = s.bootLanes := rfl
@[simp] theorem State.setHub_aer (s : State) (h : Nat) (u : Hub) : (s.setHub h u).aer = s.aer := rfl
@[simp] theorem State.setHub_outputs (s : State) (h : Nat) (u : Hub) : (s.setHub h u).outputs = s.outputs := rfl

@[simp] theorem State.setRegs_turns (s : State) (a : Agent) (c : Ctx) : (s.setRegs a c).turns = s.turns := by cases a <;> rfl
@[simp] theorem State.setRegs_cur (s : State) (a : Agent) (c : Ctx) : (s.setRegs a c).cur = s.cur := by cases a <;> rfl
@[simp] theorem State.setRegs_ir (s : State) (a : Agent) (c : Ctx) : (s.setRegs a c).ir = s.ir := by cases a <;> rfl
@[simp] theorem State.setRegs_tick (s : State) (a : Agent) (c : Ctx) : (s.setRegs a c).tick = s.tick := by cases a <;> rfl
@[simp] theorem State.setRegs_cores (s : State) (a : Agent) (c : Ctx) : (s.setRegs a c).cores = s.cores := by cases a <;> rfl
@[simp] theorem State.setRegs_parts (s : State) (a : Agent) (c : Ctx) : (s.setRegs a c).parts = s.parts := by cases a <;> rfl
@[simp] theorem State.setRegs_funcs (s : State) (a : Agent) (c : Ctx) : (s.setRegs a c).funcs = s.funcs := by cases a <;> rfl
@[simp] theorem State.setRegs_images (s : State) (a : Agent) (c : Ctx) : (s.setRegs a c).images = s.images := by cases a <;> rfl
@[simp] theorem State.setRegs_events (s : State) (a : Agent) (c : Ctx) : (s.setRegs a c).events = s.events := by cases a <;> rfl
@[simp] theorem State.setRegs_mem (s : State) (a : Agent) (c : Ctx) : (s.setRegs a c).mem = s.mem := by cases a <;> rfl
@[simp] theorem State.setRegs_keyOf (s : State) (a : Agent) (c : Ctx) : (s.setRegs a c).keyOf = s.keyOf := by cases a <;> rfl
@[simp] theorem State.setRegs_clearKey (s : State) (a : Agent) (c : Ctx) : (s.setRegs a c).clearKey = s.clearKey := by cases a <;> rfl
@[simp] theorem State.setRegs_granules (s : State) (a : Agent) (c : Ctx) : (s.setRegs a c).granules = s.granules := by cases a <;> rfl
@[simp] theorem State.setRegs_tileTags (s : State) (a : Agent) (c : Ctx) : (s.setRegs a c).tileTags = s.tileTags := by cases a <;> rfl
@[simp] theorem State.setRegs_badMem (s : State) (a : Agent) (c : Ctx) : (s.setRegs a c).badMem = s.badMem := by cases a <;> rfl
@[simp] theorem State.setRegs_hostBars (s : State) (a : Agent) (c : Ctx) : (s.setRegs a c).hostBars = s.hostBars := by cases a <;> rfl
@[simp] theorem State.setRegs_releases (s : State) (a : Agent) (c : Ctx) : (s.setRegs a c).releases = s.releases := by cases a <;> rfl
@[simp] theorem State.setRegs_barriers (s : State) (a : Agent) (c : Ctx) : (s.setRegs a c).barriers = s.barriers := by cases a <;> rfl
@[simp] theorem State.setRegs_ticket (s : State) (a : Agent) (c : Ctx) : (s.setRegs a c).ticket = s.ticket := by cases a <;> rfl
@[simp] theorem State.setRegs_timer (s : State) (a : Agent) (c : Ctx) : (s.setRegs a c).timer = s.timer := by cases a <;> rfl
@[simp] theorem State.setRegs_yieldwin (s : State) (a : Agent) (c : Ctx) : (s.setRegs a c).yieldwin = s.yieldwin := by cases a <;> rfl
@[simp] theorem State.setRegs_dbgCtx (s : State) (a : Agent) (c : Ctx) : (s.setRegs a c).dbgCtx = s.dbgCtx := by cases a <;> rfl
@[simp] theorem State.setRegs_dbgNeedle (s : State) (a : Agent) (c : Ctx) : (s.setRegs a c).dbgNeedle = s.dbgNeedle := by cases a <;> rfl
@[simp] theorem State.setRegs_dbgStep (s : State) (a : Agent) (c : Ctx) : (s.setRegs a c).dbgStep = s.dbgStep := by cases a <;> rfl
@[simp] theorem State.setRegs_cable (s : State) (a : Agent) (c : Ctx) : (s.setRegs a c).cable = s.cable := by cases a <;> rfl
@[simp] theorem State.setRegs_keys (s : State) (a : Agent) (c : Ctx) : (s.setRegs a c).keys = s.keys := by cases a <;> rfl
@[simp] theorem State.setRegs_nextKey (s : State) (a : Agent) (c : Ctx) : (s.setRegs a c).nextKey = s.nextKey := by cases a <;> rfl
@[simp] theorem State.setRegs_incarnation (s : State) (a : Agent) (c : Ctx) : (s.setRegs a c).incarnation = s.incarnation := by cases a <;> rfl
@[simp] theorem State.setRegs_plimit (s : State) (a : Agent) (c : Ctx) : (s.setRegs a c).plimit = s.plimit := by cases a <;> rfl
@[simp] theorem State.setRegs_grants (s : State) (a : Agent) (c : Ctx) : (s.setRegs a c).grants = s.grants := by cases a <;> rfl
@[simp] theorem State.setRegs_phub (s : State) (a : Agent) (c : Ctx) : (s.setRegs a c).phub = s.phub := by cases a <;> rfl
@[simp] theorem State.setRegs_phbm (s : State) (a : Agent) (c : Ctx) : (s.setRegs a c).phbm = s.phbm := by cases a <;> rfl
@[simp] theorem State.setRegs_moduleOn (s : State) (a : Agent) (c : Ctx) : (s.setRegs a c).moduleOn = s.moduleOn := by cases a <;> rfl
@[simp] theorem State.setRegs_bootStep (s : State) (a : Agent) (c : Ctx) : (s.setRegs a c).bootStep = s.bootStep := by cases a <;> rfl
@[simp] theorem State.setRegs_bootFailed (s : State) (a : Agent) (c : Ctx) : (s.setRegs a c).bootFailed = s.bootFailed := by cases a <;> rfl
@[simp] theorem State.setRegs_fuses (s : State) (a : Agent) (c : Ctx) : (s.setRegs a c).fuses = s.fuses := by cases a <;> rfl
@[simp] theorem State.setRegs_firmware (s : State) (a : Agent) (c : Ctx) : (s.setRegs a c).firmware = s.firmware := by cases a <;> rfl
@[simp] theorem State.setRegs_bootLanes (s : State) (a : Agent) (c : Ctx) : (s.setRegs a c).bootLanes = s.bootLanes := by cases a <;> rfl
@[simp] theorem State.setRegs_aer (s : State) (a : Agent) (c : Ctx) : (s.setRegs a c).aer = s.aer := by cases a <;> rfl
@[simp] theorem State.setRegs_outputs (s : State) (a : Agent) (c : Ctx) : (s.setRegs a c).outputs = s.outputs := by cases a <;> rfl

@[simp] theorem State.onRegs_turns (s : State) (a : Agent) (f : Ctx → Ctx) : (s.onRegs a f).turns = s.turns := by cases a <;> rfl
@[simp] theorem State.onRegs_cur (s : State) (a : Agent) (f : Ctx → Ctx) : (s.onRegs a f).cur = s.cur := by cases a <;> rfl
@[simp] theorem State.onRegs_ir (s : State) (a : Agent) (f : Ctx → Ctx) : (s.onRegs a f).ir = s.ir := by cases a <;> rfl
@[simp] theorem State.onRegs_tick (s : State) (a : Agent) (f : Ctx → Ctx) : (s.onRegs a f).tick = s.tick := by cases a <;> rfl
@[simp] theorem State.onRegs_cores (s : State) (a : Agent) (f : Ctx → Ctx) : (s.onRegs a f).cores = s.cores := by cases a <;> rfl
@[simp] theorem State.onRegs_parts (s : State) (a : Agent) (f : Ctx → Ctx) : (s.onRegs a f).parts = s.parts := by cases a <;> rfl
@[simp] theorem State.onRegs_funcs (s : State) (a : Agent) (f : Ctx → Ctx) : (s.onRegs a f).funcs = s.funcs := by cases a <;> rfl
@[simp] theorem State.onRegs_images (s : State) (a : Agent) (f : Ctx → Ctx) : (s.onRegs a f).images = s.images := by cases a <;> rfl
@[simp] theorem State.onRegs_events (s : State) (a : Agent) (f : Ctx → Ctx) : (s.onRegs a f).events = s.events := by cases a <;> rfl
@[simp] theorem State.onRegs_mem (s : State) (a : Agent) (f : Ctx → Ctx) : (s.onRegs a f).mem = s.mem := by cases a <;> rfl
@[simp] theorem State.onRegs_keyOf (s : State) (a : Agent) (f : Ctx → Ctx) : (s.onRegs a f).keyOf = s.keyOf := by cases a <;> rfl
@[simp] theorem State.onRegs_clearKey (s : State) (a : Agent) (f : Ctx → Ctx) : (s.onRegs a f).clearKey = s.clearKey := by cases a <;> rfl
@[simp] theorem State.onRegs_granules (s : State) (a : Agent) (f : Ctx → Ctx) : (s.onRegs a f).granules = s.granules := by cases a <;> rfl
@[simp] theorem State.onRegs_tileTags (s : State) (a : Agent) (f : Ctx → Ctx) : (s.onRegs a f).tileTags = s.tileTags := by cases a <;> rfl
@[simp] theorem State.onRegs_badMem (s : State) (a : Agent) (f : Ctx → Ctx) : (s.onRegs a f).badMem = s.badMem := by cases a <;> rfl
@[simp] theorem State.onRegs_hostBars (s : State) (a : Agent) (f : Ctx → Ctx) : (s.onRegs a f).hostBars = s.hostBars := by cases a <;> rfl
@[simp] theorem State.onRegs_releases (s : State) (a : Agent) (f : Ctx → Ctx) : (s.onRegs a f).releases = s.releases := by cases a <;> rfl
@[simp] theorem State.onRegs_barriers (s : State) (a : Agent) (f : Ctx → Ctx) : (s.onRegs a f).barriers = s.barriers := by cases a <;> rfl
@[simp] theorem State.onRegs_ticket (s : State) (a : Agent) (f : Ctx → Ctx) : (s.onRegs a f).ticket = s.ticket := by cases a <;> rfl
@[simp] theorem State.onRegs_timer (s : State) (a : Agent) (f : Ctx → Ctx) : (s.onRegs a f).timer = s.timer := by cases a <;> rfl
@[simp] theorem State.onRegs_yieldwin (s : State) (a : Agent) (f : Ctx → Ctx) : (s.onRegs a f).yieldwin = s.yieldwin := by cases a <;> rfl
@[simp] theorem State.onRegs_dbgCtx (s : State) (a : Agent) (f : Ctx → Ctx) : (s.onRegs a f).dbgCtx = s.dbgCtx := by cases a <;> rfl
@[simp] theorem State.onRegs_dbgNeedle (s : State) (a : Agent) (f : Ctx → Ctx) : (s.onRegs a f).dbgNeedle = s.dbgNeedle := by cases a <;> rfl
@[simp] theorem State.onRegs_dbgStep (s : State) (a : Agent) (f : Ctx → Ctx) : (s.onRegs a f).dbgStep = s.dbgStep := by cases a <;> rfl
@[simp] theorem State.onRegs_cable (s : State) (a : Agent) (f : Ctx → Ctx) : (s.onRegs a f).cable = s.cable := by cases a <;> rfl
@[simp] theorem State.onRegs_keys (s : State) (a : Agent) (f : Ctx → Ctx) : (s.onRegs a f).keys = s.keys := by cases a <;> rfl
@[simp] theorem State.onRegs_nextKey (s : State) (a : Agent) (f : Ctx → Ctx) : (s.onRegs a f).nextKey = s.nextKey := by cases a <;> rfl
@[simp] theorem State.onRegs_incarnation (s : State) (a : Agent) (f : Ctx → Ctx) : (s.onRegs a f).incarnation = s.incarnation := by cases a <;> rfl
@[simp] theorem State.onRegs_plimit (s : State) (a : Agent) (f : Ctx → Ctx) : (s.onRegs a f).plimit = s.plimit := by cases a <;> rfl
@[simp] theorem State.onRegs_grants (s : State) (a : Agent) (f : Ctx → Ctx) : (s.onRegs a f).grants = s.grants := by cases a <;> rfl
@[simp] theorem State.onRegs_phub (s : State) (a : Agent) (f : Ctx → Ctx) : (s.onRegs a f).phub = s.phub := by cases a <;> rfl
@[simp] theorem State.onRegs_phbm (s : State) (a : Agent) (f : Ctx → Ctx) : (s.onRegs a f).phbm = s.phbm := by cases a <;> rfl
@[simp] theorem State.onRegs_moduleOn (s : State) (a : Agent) (f : Ctx → Ctx) : (s.onRegs a f).moduleOn = s.moduleOn := by cases a <;> rfl
@[simp] theorem State.onRegs_bootStep (s : State) (a : Agent) (f : Ctx → Ctx) : (s.onRegs a f).bootStep = s.bootStep := by cases a <;> rfl
@[simp] theorem State.onRegs_bootFailed (s : State) (a : Agent) (f : Ctx → Ctx) : (s.onRegs a f).bootFailed = s.bootFailed := by cases a <;> rfl
@[simp] theorem State.onRegs_fuses (s : State) (a : Agent) (f : Ctx → Ctx) : (s.onRegs a f).fuses = s.fuses := by cases a <;> rfl
@[simp] theorem State.onRegs_firmware (s : State) (a : Agent) (f : Ctx → Ctx) : (s.onRegs a f).firmware = s.firmware := by cases a <;> rfl
@[simp] theorem State.onRegs_bootLanes (s : State) (a : Agent) (f : Ctx → Ctx) : (s.onRegs a f).bootLanes = s.bootLanes := by cases a <;> rfl
@[simp] theorem State.onRegs_aer (s : State) (a : Agent) (f : Ctx → Ctx) : (s.onRegs a f).aer = s.aer := by cases a <;> rfl
@[simp] theorem State.onRegs_outputs (s : State) (a : Agent) (f : Ctx → Ctx) : (s.onRegs a f).outputs = s.outputs := by cases a <;> rfl

@[simp] theorem State.setMy_turns (s : State) (c : Ctx) : (s.setMy c).turns = s.turns := State.setRegs_turns s s.cur.1 c
@[simp] theorem State.setMy_cur (s : State) (c : Ctx) : (s.setMy c).cur = s.cur := State.setRegs_cur s s.cur.1 c
@[simp] theorem State.setMy_ir (s : State) (c : Ctx) : (s.setMy c).ir = s.ir := State.setRegs_ir s s.cur.1 c
@[simp] theorem State.setMy_tick (s : State) (c : Ctx) : (s.setMy c).tick = s.tick := State.setRegs_tick s s.cur.1 c
@[simp] theorem State.setMy_cores (s : State) (c : Ctx) : (s.setMy c).cores = s.cores := State.setRegs_cores s s.cur.1 c
@[simp] theorem State.setMy_parts (s : State) (c : Ctx) : (s.setMy c).parts = s.parts := State.setRegs_parts s s.cur.1 c
@[simp] theorem State.setMy_funcs (s : State) (c : Ctx) : (s.setMy c).funcs = s.funcs := State.setRegs_funcs s s.cur.1 c
@[simp] theorem State.setMy_images (s : State) (c : Ctx) : (s.setMy c).images = s.images := State.setRegs_images s s.cur.1 c
@[simp] theorem State.setMy_events (s : State) (c : Ctx) : (s.setMy c).events = s.events := State.setRegs_events s s.cur.1 c
@[simp] theorem State.setMy_mem (s : State) (c : Ctx) : (s.setMy c).mem = s.mem := State.setRegs_mem s s.cur.1 c
@[simp] theorem State.setMy_keyOf (s : State) (c : Ctx) : (s.setMy c).keyOf = s.keyOf := State.setRegs_keyOf s s.cur.1 c
@[simp] theorem State.setMy_clearKey (s : State) (c : Ctx) : (s.setMy c).clearKey = s.clearKey := State.setRegs_clearKey s s.cur.1 c
@[simp] theorem State.setMy_granules (s : State) (c : Ctx) : (s.setMy c).granules = s.granules := State.setRegs_granules s s.cur.1 c
@[simp] theorem State.setMy_tileTags (s : State) (c : Ctx) : (s.setMy c).tileTags = s.tileTags := State.setRegs_tileTags s s.cur.1 c
@[simp] theorem State.setMy_badMem (s : State) (c : Ctx) : (s.setMy c).badMem = s.badMem := State.setRegs_badMem s s.cur.1 c
@[simp] theorem State.setMy_hostBars (s : State) (c : Ctx) : (s.setMy c).hostBars = s.hostBars := State.setRegs_hostBars s s.cur.1 c
@[simp] theorem State.setMy_releases (s : State) (c : Ctx) : (s.setMy c).releases = s.releases := State.setRegs_releases s s.cur.1 c
@[simp] theorem State.setMy_barriers (s : State) (c : Ctx) : (s.setMy c).barriers = s.barriers := State.setRegs_barriers s s.cur.1 c
@[simp] theorem State.setMy_ticket (s : State) (c : Ctx) : (s.setMy c).ticket = s.ticket := State.setRegs_ticket s s.cur.1 c
@[simp] theorem State.setMy_timer (s : State) (c : Ctx) : (s.setMy c).timer = s.timer := State.setRegs_timer s s.cur.1 c
@[simp] theorem State.setMy_yieldwin (s : State) (c : Ctx) : (s.setMy c).yieldwin = s.yieldwin := State.setRegs_yieldwin s s.cur.1 c
@[simp] theorem State.setMy_dbgCtx (s : State) (c : Ctx) : (s.setMy c).dbgCtx = s.dbgCtx := State.setRegs_dbgCtx s s.cur.1 c
@[simp] theorem State.setMy_dbgNeedle (s : State) (c : Ctx) : (s.setMy c).dbgNeedle = s.dbgNeedle := State.setRegs_dbgNeedle s s.cur.1 c
@[simp] theorem State.setMy_dbgStep (s : State) (c : Ctx) : (s.setMy c).dbgStep = s.dbgStep := State.setRegs_dbgStep s s.cur.1 c
@[simp] theorem State.setMy_cable (s : State) (c : Ctx) : (s.setMy c).cable = s.cable := State.setRegs_cable s s.cur.1 c
@[simp] theorem State.setMy_keys (s : State) (c : Ctx) : (s.setMy c).keys = s.keys := State.setRegs_keys s s.cur.1 c
@[simp] theorem State.setMy_nextKey (s : State) (c : Ctx) : (s.setMy c).nextKey = s.nextKey := State.setRegs_nextKey s s.cur.1 c
@[simp] theorem State.setMy_incarnation (s : State) (c : Ctx) : (s.setMy c).incarnation = s.incarnation := State.setRegs_incarnation s s.cur.1 c
@[simp] theorem State.setMy_plimit (s : State) (c : Ctx) : (s.setMy c).plimit = s.plimit := State.setRegs_plimit s s.cur.1 c
@[simp] theorem State.setMy_grants (s : State) (c : Ctx) : (s.setMy c).grants = s.grants := State.setRegs_grants s s.cur.1 c
@[simp] theorem State.setMy_phub (s : State) (c : Ctx) : (s.setMy c).phub = s.phub := State.setRegs_phub s s.cur.1 c
@[simp] theorem State.setMy_phbm (s : State) (c : Ctx) : (s.setMy c).phbm = s.phbm := State.setRegs_phbm s s.cur.1 c
@[simp] theorem State.setMy_moduleOn (s : State) (c : Ctx) : (s.setMy c).moduleOn = s.moduleOn := State.setRegs_moduleOn s s.cur.1 c
@[simp] theorem State.setMy_bootStep (s : State) (c : Ctx) : (s.setMy c).bootStep = s.bootStep := State.setRegs_bootStep s s.cur.1 c
@[simp] theorem State.setMy_bootFailed (s : State) (c : Ctx) : (s.setMy c).bootFailed = s.bootFailed := State.setRegs_bootFailed s s.cur.1 c
@[simp] theorem State.setMy_fuses (s : State) (c : Ctx) : (s.setMy c).fuses = s.fuses := State.setRegs_fuses s s.cur.1 c
@[simp] theorem State.setMy_firmware (s : State) (c : Ctx) : (s.setMy c).firmware = s.firmware := State.setRegs_firmware s s.cur.1 c
@[simp] theorem State.setMy_bootLanes (s : State) (c : Ctx) : (s.setMy c).bootLanes = s.bootLanes := State.setRegs_bootLanes s s.cur.1 c
@[simp] theorem State.setMy_aer (s : State) (c : Ctx) : (s.setMy c).aer = s.aer := State.setRegs_aer s s.cur.1 c
@[simp] theorem State.setMy_outputs (s : State) (c : Ctx) : (s.setMy c).outputs = s.outputs := State.setRegs_outputs s s.cur.1 c

@[simp] theorem State.onMy_turns (s : State) (f : Ctx → Ctx) : (s.onMy f).turns = s.turns := State.setRegs_turns s s.cur.1 _
@[simp] theorem State.onMy_cur (s : State) (f : Ctx → Ctx) : (s.onMy f).cur = s.cur := State.setRegs_cur s s.cur.1 _
@[simp] theorem State.onMy_ir (s : State) (f : Ctx → Ctx) : (s.onMy f).ir = s.ir := State.setRegs_ir s s.cur.1 _
@[simp] theorem State.onMy_tick (s : State) (f : Ctx → Ctx) : (s.onMy f).tick = s.tick := State.setRegs_tick s s.cur.1 _
@[simp] theorem State.onMy_cores (s : State) (f : Ctx → Ctx) : (s.onMy f).cores = s.cores := State.setRegs_cores s s.cur.1 _
@[simp] theorem State.onMy_parts (s : State) (f : Ctx → Ctx) : (s.onMy f).parts = s.parts := State.setRegs_parts s s.cur.1 _
@[simp] theorem State.onMy_funcs (s : State) (f : Ctx → Ctx) : (s.onMy f).funcs = s.funcs := State.setRegs_funcs s s.cur.1 _
@[simp] theorem State.onMy_images (s : State) (f : Ctx → Ctx) : (s.onMy f).images = s.images := State.setRegs_images s s.cur.1 _
@[simp] theorem State.onMy_events (s : State) (f : Ctx → Ctx) : (s.onMy f).events = s.events := State.setRegs_events s s.cur.1 _
@[simp] theorem State.onMy_mem (s : State) (f : Ctx → Ctx) : (s.onMy f).mem = s.mem := State.setRegs_mem s s.cur.1 _
@[simp] theorem State.onMy_keyOf (s : State) (f : Ctx → Ctx) : (s.onMy f).keyOf = s.keyOf := State.setRegs_keyOf s s.cur.1 _
@[simp] theorem State.onMy_clearKey (s : State) (f : Ctx → Ctx) : (s.onMy f).clearKey = s.clearKey := State.setRegs_clearKey s s.cur.1 _
@[simp] theorem State.onMy_granules (s : State) (f : Ctx → Ctx) : (s.onMy f).granules = s.granules := State.setRegs_granules s s.cur.1 _
@[simp] theorem State.onMy_tileTags (s : State) (f : Ctx → Ctx) : (s.onMy f).tileTags = s.tileTags := State.setRegs_tileTags s s.cur.1 _
@[simp] theorem State.onMy_badMem (s : State) (f : Ctx → Ctx) : (s.onMy f).badMem = s.badMem := State.setRegs_badMem s s.cur.1 _
@[simp] theorem State.onMy_hostBars (s : State) (f : Ctx → Ctx) : (s.onMy f).hostBars = s.hostBars := State.setRegs_hostBars s s.cur.1 _
@[simp] theorem State.onMy_releases (s : State) (f : Ctx → Ctx) : (s.onMy f).releases = s.releases := State.setRegs_releases s s.cur.1 _
@[simp] theorem State.onMy_barriers (s : State) (f : Ctx → Ctx) : (s.onMy f).barriers = s.barriers := State.setRegs_barriers s s.cur.1 _
@[simp] theorem State.onMy_ticket (s : State) (f : Ctx → Ctx) : (s.onMy f).ticket = s.ticket := State.setRegs_ticket s s.cur.1 _
@[simp] theorem State.onMy_timer (s : State) (f : Ctx → Ctx) : (s.onMy f).timer = s.timer := State.setRegs_timer s s.cur.1 _
@[simp] theorem State.onMy_yieldwin (s : State) (f : Ctx → Ctx) : (s.onMy f).yieldwin = s.yieldwin := State.setRegs_yieldwin s s.cur.1 _
@[simp] theorem State.onMy_dbgCtx (s : State) (f : Ctx → Ctx) : (s.onMy f).dbgCtx = s.dbgCtx := State.setRegs_dbgCtx s s.cur.1 _
@[simp] theorem State.onMy_dbgNeedle (s : State) (f : Ctx → Ctx) : (s.onMy f).dbgNeedle = s.dbgNeedle := State.setRegs_dbgNeedle s s.cur.1 _
@[simp] theorem State.onMy_dbgStep (s : State) (f : Ctx → Ctx) : (s.onMy f).dbgStep = s.dbgStep := State.setRegs_dbgStep s s.cur.1 _
@[simp] theorem State.onMy_cable (s : State) (f : Ctx → Ctx) : (s.onMy f).cable = s.cable := State.setRegs_cable s s.cur.1 _
@[simp] theorem State.onMy_keys (s : State) (f : Ctx → Ctx) : (s.onMy f).keys = s.keys := State.setRegs_keys s s.cur.1 _
@[simp] theorem State.onMy_nextKey (s : State) (f : Ctx → Ctx) : (s.onMy f).nextKey = s.nextKey := State.setRegs_nextKey s s.cur.1 _
@[simp] theorem State.onMy_incarnation (s : State) (f : Ctx → Ctx) : (s.onMy f).incarnation = s.incarnation := State.setRegs_incarnation s s.cur.1 _
@[simp] theorem State.onMy_plimit (s : State) (f : Ctx → Ctx) : (s.onMy f).plimit = s.plimit := State.setRegs_plimit s s.cur.1 _
@[simp] theorem State.onMy_grants (s : State) (f : Ctx → Ctx) : (s.onMy f).grants = s.grants := State.setRegs_grants s s.cur.1 _
@[simp] theorem State.onMy_phub (s : State) (f : Ctx → Ctx) : (s.onMy f).phub = s.phub := State.setRegs_phub s s.cur.1 _
@[simp] theorem State.onMy_phbm (s : State) (f : Ctx → Ctx) : (s.onMy f).phbm = s.phbm := State.setRegs_phbm s s.cur.1 _
@[simp] theorem State.onMy_moduleOn (s : State) (f : Ctx → Ctx) : (s.onMy f).moduleOn = s.moduleOn := State.setRegs_moduleOn s s.cur.1 _
@[simp] theorem State.onMy_bootStep (s : State) (f : Ctx → Ctx) : (s.onMy f).bootStep = s.bootStep := State.setRegs_bootStep s s.cur.1 _
@[simp] theorem State.onMy_bootFailed (s : State) (f : Ctx → Ctx) : (s.onMy f).bootFailed = s.bootFailed := State.setRegs_bootFailed s s.cur.1 _
@[simp] theorem State.onMy_fuses (s : State) (f : Ctx → Ctx) : (s.onMy f).fuses = s.fuses := State.setRegs_fuses s s.cur.1 _
@[simp] theorem State.onMy_firmware (s : State) (f : Ctx → Ctx) : (s.onMy f).firmware = s.firmware := State.setRegs_firmware s s.cur.1 _
@[simp] theorem State.onMy_bootLanes (s : State) (f : Ctx → Ctx) : (s.onMy f).bootLanes = s.bootLanes := State.setRegs_bootLanes s s.cur.1 _
@[simp] theorem State.onMy_aer (s : State) (f : Ctx → Ctx) : (s.onMy f).aer = s.aer := State.setRegs_aer s s.cur.1 _
@[simp] theorem State.onMy_outputs (s : State) (f : Ctx → Ctx) : (s.onMy f).outputs = s.outputs := State.setRegs_outputs s s.cur.1 _

@[simp] theorem State.setCore_turns (s : State) (k : Nat) (u : Core) : (s.setCore k u).turns = s.turns := rfl
@[simp] theorem State.setCore_cur (s : State) (k : Nat) (u : Core) : (s.setCore k u).cur = s.cur := rfl
@[simp] theorem State.setCore_ir (s : State) (k : Nat) (u : Core) : (s.setCore k u).ir = s.ir := rfl
@[simp] theorem State.setCore_tick (s : State) (k : Nat) (u : Core) : (s.setCore k u).tick = s.tick := rfl
@[simp] theorem State.setCore_ctxs (s : State) (k : Nat) (u : Core) : (s.setCore k u).ctxs = s.ctxs := rfl
@[simp] theorem State.setCore_hubs (s : State) (k : Nat) (u : Core) : (s.setCore k u).hubs = s.hubs := rfl
@[simp] theorem State.setCore_parts (s : State) (k : Nat) (u : Core) : (s.setCore k u).parts = s.parts := rfl
@[simp] theorem State.setCore_funcs (s : State) (k : Nat) (u : Core) : (s.setCore k u).funcs = s.funcs := rfl
@[simp] theorem State.setCore_images (s : State) (k : Nat) (u : Core) : (s.setCore k u).images = s.images := rfl
@[simp] theorem State.setCore_events (s : State) (k : Nat) (u : Core) : (s.setCore k u).events = s.events := rfl
@[simp] theorem State.setCore_mem (s : State) (k : Nat) (u : Core) : (s.setCore k u).mem = s.mem := rfl
@[simp] theorem State.setCore_keyOf (s : State) (k : Nat) (u : Core) : (s.setCore k u).keyOf = s.keyOf := rfl
@[simp] theorem State.setCore_clearKey (s : State) (k : Nat) (u : Core) : (s.setCore k u).clearKey = s.clearKey := rfl
@[simp] theorem State.setCore_granules (s : State) (k : Nat) (u : Core) : (s.setCore k u).granules = s.granules := rfl
@[simp] theorem State.setCore_tileTags (s : State) (k : Nat) (u : Core) : (s.setCore k u).tileTags = s.tileTags := rfl
@[simp] theorem State.setCore_badMem (s : State) (k : Nat) (u : Core) : (s.setCore k u).badMem = s.badMem := rfl
@[simp] theorem State.setCore_hostBars (s : State) (k : Nat) (u : Core) : (s.setCore k u).hostBars = s.hostBars := rfl
@[simp] theorem State.setCore_releases (s : State) (k : Nat) (u : Core) : (s.setCore k u).releases = s.releases := rfl
@[simp] theorem State.setCore_barriers (s : State) (k : Nat) (u : Core) : (s.setCore k u).barriers = s.barriers := rfl
@[simp] theorem State.setCore_ticket (s : State) (k : Nat) (u : Core) : (s.setCore k u).ticket = s.ticket := rfl
@[simp] theorem State.setCore_timer (s : State) (k : Nat) (u : Core) : (s.setCore k u).timer = s.timer := rfl
@[simp] theorem State.setCore_yieldwin (s : State) (k : Nat) (u : Core) : (s.setCore k u).yieldwin = s.yieldwin := rfl
@[simp] theorem State.setCore_dbgCtx (s : State) (k : Nat) (u : Core) : (s.setCore k u).dbgCtx = s.dbgCtx := rfl
@[simp] theorem State.setCore_dbgNeedle (s : State) (k : Nat) (u : Core) : (s.setCore k u).dbgNeedle = s.dbgNeedle := rfl
@[simp] theorem State.setCore_dbgStep (s : State) (k : Nat) (u : Core) : (s.setCore k u).dbgStep = s.dbgStep := rfl
@[simp] theorem State.setCore_cable (s : State) (k : Nat) (u : Core) : (s.setCore k u).cable = s.cable := rfl
@[simp] theorem State.setCore_keys (s : State) (k : Nat) (u : Core) : (s.setCore k u).keys = s.keys := rfl
@[simp] theorem State.setCore_nextKey (s : State) (k : Nat) (u : Core) : (s.setCore k u).nextKey = s.nextKey := rfl
@[simp] theorem State.setCore_incarnation (s : State) (k : Nat) (u : Core) : (s.setCore k u).incarnation = s.incarnation := rfl
@[simp] theorem State.setCore_plimit (s : State) (k : Nat) (u : Core) : (s.setCore k u).plimit = s.plimit := rfl
@[simp] theorem State.setCore_grants (s : State) (k : Nat) (u : Core) : (s.setCore k u).grants = s.grants := rfl
@[simp] theorem State.setCore_phub (s : State) (k : Nat) (u : Core) : (s.setCore k u).phub = s.phub := rfl
@[simp] theorem State.setCore_phbm (s : State) (k : Nat) (u : Core) : (s.setCore k u).phbm = s.phbm := rfl
@[simp] theorem State.setCore_moduleOn (s : State) (k : Nat) (u : Core) : (s.setCore k u).moduleOn = s.moduleOn := rfl
@[simp] theorem State.setCore_bootStep (s : State) (k : Nat) (u : Core) : (s.setCore k u).bootStep = s.bootStep := rfl
@[simp] theorem State.setCore_bootFailed (s : State) (k : Nat) (u : Core) : (s.setCore k u).bootFailed = s.bootFailed := rfl
@[simp] theorem State.setCore_fuses (s : State) (k : Nat) (u : Core) : (s.setCore k u).fuses = s.fuses := rfl
@[simp] theorem State.setCore_firmware (s : State) (k : Nat) (u : Core) : (s.setCore k u).firmware = s.firmware := rfl
@[simp] theorem State.setCore_bootLanes (s : State) (k : Nat) (u : Core) : (s.setCore k u).bootLanes = s.bootLanes := rfl
@[simp] theorem State.setCore_aer (s : State) (k : Nat) (u : Core) : (s.setCore k u).aer = s.aer := rfl
@[simp] theorem State.setCore_outputs (s : State) (k : Nat) (u : Core) : (s.setCore k u).outputs = s.outputs := rfl

@[simp] theorem State.setPart_turns (s : State) (p : Nat) (q : Part) : (s.setPart p q).turns = s.turns := rfl
@[simp] theorem State.setPart_cur (s : State) (p : Nat) (q : Part) : (s.setPart p q).cur = s.cur := rfl
@[simp] theorem State.setPart_ir (s : State) (p : Nat) (q : Part) : (s.setPart p q).ir = s.ir := rfl
@[simp] theorem State.setPart_tick (s : State) (p : Nat) (q : Part) : (s.setPart p q).tick = s.tick := rfl
@[simp] theorem State.setPart_ctxs (s : State) (p : Nat) (q : Part) : (s.setPart p q).ctxs = s.ctxs := rfl
@[simp] theorem State.setPart_cores (s : State) (p : Nat) (q : Part) : (s.setPart p q).cores = s.cores := rfl
@[simp] theorem State.setPart_hubs (s : State) (p : Nat) (q : Part) : (s.setPart p q).hubs = s.hubs := rfl
@[simp] theorem State.setPart_funcs (s : State) (p : Nat) (q : Part) : (s.setPart p q).funcs = s.funcs := rfl
@[simp] theorem State.setPart_images (s : State) (p : Nat) (q : Part) : (s.setPart p q).images = s.images := rfl
@[simp] theorem State.setPart_events (s : State) (p : Nat) (q : Part) : (s.setPart p q).events = s.events := rfl
@[simp] theorem State.setPart_mem (s : State) (p : Nat) (q : Part) : (s.setPart p q).mem = s.mem := rfl
@[simp] theorem State.setPart_keyOf (s : State) (p : Nat) (q : Part) : (s.setPart p q).keyOf = s.keyOf := rfl
@[simp] theorem State.setPart_clearKey (s : State) (p : Nat) (q : Part) : (s.setPart p q).clearKey = s.clearKey := rfl
@[simp] theorem State.setPart_granules (s : State) (p : Nat) (q : Part) : (s.setPart p q).granules = s.granules := rfl
@[simp] theorem State.setPart_tileTags (s : State) (p : Nat) (q : Part) : (s.setPart p q).tileTags = s.tileTags := rfl
@[simp] theorem State.setPart_badMem (s : State) (p : Nat) (q : Part) : (s.setPart p q).badMem = s.badMem := rfl
@[simp] theorem State.setPart_hostBars (s : State) (p : Nat) (q : Part) : (s.setPart p q).hostBars = s.hostBars := rfl
@[simp] theorem State.setPart_releases (s : State) (p : Nat) (q : Part) : (s.setPart p q).releases = s.releases := rfl
@[simp] theorem State.setPart_barriers (s : State) (p : Nat) (q : Part) : (s.setPart p q).barriers = s.barriers := rfl
@[simp] theorem State.setPart_ticket (s : State) (p : Nat) (q : Part) : (s.setPart p q).ticket = s.ticket := rfl
@[simp] theorem State.setPart_timer (s : State) (p : Nat) (q : Part) : (s.setPart p q).timer = s.timer := rfl
@[simp] theorem State.setPart_yieldwin (s : State) (p : Nat) (q : Part) : (s.setPart p q).yieldwin = s.yieldwin := rfl
@[simp] theorem State.setPart_dbgCtx (s : State) (p : Nat) (q : Part) : (s.setPart p q).dbgCtx = s.dbgCtx := rfl
@[simp] theorem State.setPart_dbgNeedle (s : State) (p : Nat) (q : Part) : (s.setPart p q).dbgNeedle = s.dbgNeedle := rfl
@[simp] theorem State.setPart_dbgStep (s : State) (p : Nat) (q : Part) : (s.setPart p q).dbgStep = s.dbgStep := rfl
@[simp] theorem State.setPart_cable (s : State) (p : Nat) (q : Part) : (s.setPart p q).cable = s.cable := rfl
@[simp] theorem State.setPart_keys (s : State) (p : Nat) (q : Part) : (s.setPart p q).keys = s.keys := rfl
@[simp] theorem State.setPart_nextKey (s : State) (p : Nat) (q : Part) : (s.setPart p q).nextKey = s.nextKey := rfl
@[simp] theorem State.setPart_incarnation (s : State) (p : Nat) (q : Part) : (s.setPart p q).incarnation = s.incarnation := rfl
@[simp] theorem State.setPart_plimit (s : State) (p : Nat) (q : Part) : (s.setPart p q).plimit = s.plimit := rfl
@[simp] theorem State.setPart_grants (s : State) (p : Nat) (q : Part) : (s.setPart p q).grants = s.grants := rfl
@[simp] theorem State.setPart_phub (s : State) (p : Nat) (q : Part) : (s.setPart p q).phub = s.phub := rfl
@[simp] theorem State.setPart_phbm (s : State) (p : Nat) (q : Part) : (s.setPart p q).phbm = s.phbm := rfl
@[simp] theorem State.setPart_moduleOn (s : State) (p : Nat) (q : Part) : (s.setPart p q).moduleOn = s.moduleOn := rfl
@[simp] theorem State.setPart_bootStep (s : State) (p : Nat) (q : Part) : (s.setPart p q).bootStep = s.bootStep := rfl
@[simp] theorem State.setPart_bootFailed (s : State) (p : Nat) (q : Part) : (s.setPart p q).bootFailed = s.bootFailed := rfl
@[simp] theorem State.setPart_fuses (s : State) (p : Nat) (q : Part) : (s.setPart p q).fuses = s.fuses := rfl
@[simp] theorem State.setPart_firmware (s : State) (p : Nat) (q : Part) : (s.setPart p q).firmware = s.firmware := rfl
@[simp] theorem State.setPart_bootLanes (s : State) (p : Nat) (q : Part) : (s.setPart p q).bootLanes = s.bootLanes := rfl
@[simp] theorem State.setPart_aer (s : State) (p : Nat) (q : Part) : (s.setPart p q).aer = s.aer := rfl
@[simp] theorem State.setPart_outputs (s : State) (p : Nat) (q : Part) : (s.setPart p q).outputs = s.outputs := rfl

@[simp] theorem State.setFunc_turns (s : State) (vf : Nat) (f : Func) : (s.setFunc vf f).turns = s.turns := rfl
@[simp] theorem State.setFunc_cur (s : State) (vf : Nat) (f : Func) : (s.setFunc vf f).cur = s.cur := rfl
@[simp] theorem State.setFunc_ir (s : State) (vf : Nat) (f : Func) : (s.setFunc vf f).ir = s.ir := rfl
@[simp] theorem State.setFunc_tick (s : State) (vf : Nat) (f : Func) : (s.setFunc vf f).tick = s.tick := rfl
@[simp] theorem State.setFunc_ctxs (s : State) (vf : Nat) (f : Func) : (s.setFunc vf f).ctxs = s.ctxs := rfl
@[simp] theorem State.setFunc_cores (s : State) (vf : Nat) (f : Func) : (s.setFunc vf f).cores = s.cores := rfl
@[simp] theorem State.setFunc_hubs (s : State) (vf : Nat) (f : Func) : (s.setFunc vf f).hubs = s.hubs := rfl
@[simp] theorem State.setFunc_parts (s : State) (vf : Nat) (f : Func) : (s.setFunc vf f).parts = s.parts := rfl
@[simp] theorem State.setFunc_images (s : State) (vf : Nat) (f : Func) : (s.setFunc vf f).images = s.images := rfl
@[simp] theorem State.setFunc_events (s : State) (vf : Nat) (f : Func) : (s.setFunc vf f).events = s.events := rfl
@[simp] theorem State.setFunc_mem (s : State) (vf : Nat) (f : Func) : (s.setFunc vf f).mem = s.mem := rfl
@[simp] theorem State.setFunc_keyOf (s : State) (vf : Nat) (f : Func) : (s.setFunc vf f).keyOf = s.keyOf := rfl
@[simp] theorem State.setFunc_clearKey (s : State) (vf : Nat) (f : Func) : (s.setFunc vf f).clearKey = s.clearKey := rfl
@[simp] theorem State.setFunc_granules (s : State) (vf : Nat) (f : Func) : (s.setFunc vf f).granules = s.granules := rfl
@[simp] theorem State.setFunc_tileTags (s : State) (vf : Nat) (f : Func) : (s.setFunc vf f).tileTags = s.tileTags := rfl
@[simp] theorem State.setFunc_badMem (s : State) (vf : Nat) (f : Func) : (s.setFunc vf f).badMem = s.badMem := rfl
@[simp] theorem State.setFunc_hostBars (s : State) (vf : Nat) (f : Func) : (s.setFunc vf f).hostBars = s.hostBars := rfl
@[simp] theorem State.setFunc_releases (s : State) (vf : Nat) (f : Func) : (s.setFunc vf f).releases = s.releases := rfl
@[simp] theorem State.setFunc_barriers (s : State) (vf : Nat) (f : Func) : (s.setFunc vf f).barriers = s.barriers := rfl
@[simp] theorem State.setFunc_ticket (s : State) (vf : Nat) (f : Func) : (s.setFunc vf f).ticket = s.ticket := rfl
@[simp] theorem State.setFunc_timer (s : State) (vf : Nat) (f : Func) : (s.setFunc vf f).timer = s.timer := rfl
@[simp] theorem State.setFunc_yieldwin (s : State) (vf : Nat) (f : Func) : (s.setFunc vf f).yieldwin = s.yieldwin := rfl
@[simp] theorem State.setFunc_dbgCtx (s : State) (vf : Nat) (f : Func) : (s.setFunc vf f).dbgCtx = s.dbgCtx := rfl
@[simp] theorem State.setFunc_dbgNeedle (s : State) (vf : Nat) (f : Func) : (s.setFunc vf f).dbgNeedle = s.dbgNeedle := rfl
@[simp] theorem State.setFunc_dbgStep (s : State) (vf : Nat) (f : Func) : (s.setFunc vf f).dbgStep = s.dbgStep := rfl
@[simp] theorem State.setFunc_cable (s : State) (vf : Nat) (f : Func) : (s.setFunc vf f).cable = s.cable := rfl
@[simp] theorem State.setFunc_keys (s : State) (vf : Nat) (f : Func) : (s.setFunc vf f).keys = s.keys := rfl
@[simp] theorem State.setFunc_nextKey (s : State) (vf : Nat) (f : Func) : (s.setFunc vf f).nextKey = s.nextKey := rfl
@[simp] theorem State.setFunc_incarnation (s : State) (vf : Nat) (f : Func) : (s.setFunc vf f).incarnation = s.incarnation := rfl
@[simp] theorem State.setFunc_plimit (s : State) (vf : Nat) (f : Func) : (s.setFunc vf f).plimit = s.plimit := rfl
@[simp] theorem State.setFunc_grants (s : State) (vf : Nat) (f : Func) : (s.setFunc vf f).grants = s.grants := rfl
@[simp] theorem State.setFunc_phub (s : State) (vf : Nat) (f : Func) : (s.setFunc vf f).phub = s.phub := rfl
@[simp] theorem State.setFunc_phbm (s : State) (vf : Nat) (f : Func) : (s.setFunc vf f).phbm = s.phbm := rfl
@[simp] theorem State.setFunc_moduleOn (s : State) (vf : Nat) (f : Func) : (s.setFunc vf f).moduleOn = s.moduleOn := rfl
@[simp] theorem State.setFunc_bootStep (s : State) (vf : Nat) (f : Func) : (s.setFunc vf f).bootStep = s.bootStep := rfl
@[simp] theorem State.setFunc_bootFailed (s : State) (vf : Nat) (f : Func) : (s.setFunc vf f).bootFailed = s.bootFailed := rfl
@[simp] theorem State.setFunc_fuses (s : State) (vf : Nat) (f : Func) : (s.setFunc vf f).fuses = s.fuses := rfl
@[simp] theorem State.setFunc_firmware (s : State) (vf : Nat) (f : Func) : (s.setFunc vf f).firmware = s.firmware := rfl
@[simp] theorem State.setFunc_bootLanes (s : State) (vf : Nat) (f : Func) : (s.setFunc vf f).bootLanes = s.bootLanes := rfl
@[simp] theorem State.setFunc_aer (s : State) (vf : Nat) (f : Func) : (s.setFunc vf f).aer = s.aer := rfl
@[simp] theorem State.setFunc_outputs (s : State) (vf : Nat) (f : Func) : (s.setFunc vf f).outputs = s.outputs := rfl

@[simp] theorem State.charge_turns (s : State) (a : Agent) (q : Charge) : (s.charge a q).turns = s.turns := State.onRegs_turns s a _
@[simp] theorem State.charge_cur (s : State) (a : Agent) (q : Charge) : (s.charge a q).cur = s.cur := State.onRegs_cur s a _
@[simp] theorem State.charge_ir (s : State) (a : Agent) (q : Charge) : (s.charge a q).ir = s.ir := State.onRegs_ir s a _
@[simp] theorem State.charge_tick (s : State) (a : Agent) (q : Charge) : (s.charge a q).tick = s.tick := State.onRegs_tick s a _
@[simp] theorem State.charge_cores (s : State) (a : Agent) (q : Charge) : (s.charge a q).cores = s.cores := State.onRegs_cores s a _
@[simp] theorem State.charge_parts (s : State) (a : Agent) (q : Charge) : (s.charge a q).parts = s.parts := State.onRegs_parts s a _
@[simp] theorem State.charge_funcs (s : State) (a : Agent) (q : Charge) : (s.charge a q).funcs = s.funcs := State.onRegs_funcs s a _
@[simp] theorem State.charge_images (s : State) (a : Agent) (q : Charge) : (s.charge a q).images = s.images := State.onRegs_images s a _
@[simp] theorem State.charge_events (s : State) (a : Agent) (q : Charge) : (s.charge a q).events = s.events := State.onRegs_events s a _
@[simp] theorem State.charge_mem (s : State) (a : Agent) (q : Charge) : (s.charge a q).mem = s.mem := State.onRegs_mem s a _
@[simp] theorem State.charge_keyOf (s : State) (a : Agent) (q : Charge) : (s.charge a q).keyOf = s.keyOf := State.onRegs_keyOf s a _
@[simp] theorem State.charge_clearKey (s : State) (a : Agent) (q : Charge) : (s.charge a q).clearKey = s.clearKey := State.onRegs_clearKey s a _
@[simp] theorem State.charge_granules (s : State) (a : Agent) (q : Charge) : (s.charge a q).granules = s.granules := State.onRegs_granules s a _
@[simp] theorem State.charge_tileTags (s : State) (a : Agent) (q : Charge) : (s.charge a q).tileTags = s.tileTags := State.onRegs_tileTags s a _
@[simp] theorem State.charge_badMem (s : State) (a : Agent) (q : Charge) : (s.charge a q).badMem = s.badMem := State.onRegs_badMem s a _
@[simp] theorem State.charge_hostBars (s : State) (a : Agent) (q : Charge) : (s.charge a q).hostBars = s.hostBars := State.onRegs_hostBars s a _
@[simp] theorem State.charge_releases (s : State) (a : Agent) (q : Charge) : (s.charge a q).releases = s.releases := State.onRegs_releases s a _
@[simp] theorem State.charge_barriers (s : State) (a : Agent) (q : Charge) : (s.charge a q).barriers = s.barriers := State.onRegs_barriers s a _
@[simp] theorem State.charge_ticket (s : State) (a : Agent) (q : Charge) : (s.charge a q).ticket = s.ticket := State.onRegs_ticket s a _
@[simp] theorem State.charge_timer (s : State) (a : Agent) (q : Charge) : (s.charge a q).timer = s.timer := State.onRegs_timer s a _
@[simp] theorem State.charge_yieldwin (s : State) (a : Agent) (q : Charge) : (s.charge a q).yieldwin = s.yieldwin := State.onRegs_yieldwin s a _
@[simp] theorem State.charge_dbgCtx (s : State) (a : Agent) (q : Charge) : (s.charge a q).dbgCtx = s.dbgCtx := State.onRegs_dbgCtx s a _
@[simp] theorem State.charge_dbgNeedle (s : State) (a : Agent) (q : Charge) : (s.charge a q).dbgNeedle = s.dbgNeedle := State.onRegs_dbgNeedle s a _
@[simp] theorem State.charge_dbgStep (s : State) (a : Agent) (q : Charge) : (s.charge a q).dbgStep = s.dbgStep := State.onRegs_dbgStep s a _
@[simp] theorem State.charge_cable (s : State) (a : Agent) (q : Charge) : (s.charge a q).cable = s.cable := State.onRegs_cable s a _
@[simp] theorem State.charge_keys (s : State) (a : Agent) (q : Charge) : (s.charge a q).keys = s.keys := State.onRegs_keys s a _
@[simp] theorem State.charge_nextKey (s : State) (a : Agent) (q : Charge) : (s.charge a q).nextKey = s.nextKey := State.onRegs_nextKey s a _
@[simp] theorem State.charge_incarnation (s : State) (a : Agent) (q : Charge) : (s.charge a q).incarnation = s.incarnation := State.onRegs_incarnation s a _
@[simp] theorem State.charge_plimit (s : State) (a : Agent) (q : Charge) : (s.charge a q).plimit = s.plimit := State.onRegs_plimit s a _
@[simp] theorem State.charge_grants (s : State) (a : Agent) (q : Charge) : (s.charge a q).grants = s.grants := State.onRegs_grants s a _
@[simp] theorem State.charge_phub (s : State) (a : Agent) (q : Charge) : (s.charge a q).phub = s.phub := State.onRegs_phub s a _
@[simp] theorem State.charge_phbm (s : State) (a : Agent) (q : Charge) : (s.charge a q).phbm = s.phbm := State.onRegs_phbm s a _
@[simp] theorem State.charge_moduleOn (s : State) (a : Agent) (q : Charge) : (s.charge a q).moduleOn = s.moduleOn := State.onRegs_moduleOn s a _
@[simp] theorem State.charge_bootStep (s : State) (a : Agent) (q : Charge) : (s.charge a q).bootStep = s.bootStep := State.onRegs_bootStep s a _
@[simp] theorem State.charge_bootFailed (s : State) (a : Agent) (q : Charge) : (s.charge a q).bootFailed = s.bootFailed := State.onRegs_bootFailed s a _
@[simp] theorem State.charge_fuses (s : State) (a : Agent) (q : Charge) : (s.charge a q).fuses = s.fuses := State.onRegs_fuses s a _
@[simp] theorem State.charge_firmware (s : State) (a : Agent) (q : Charge) : (s.charge a q).firmware = s.firmware := State.onRegs_firmware s a _
@[simp] theorem State.charge_bootLanes (s : State) (a : Agent) (q : Charge) : (s.charge a q).bootLanes = s.bootLanes := State.onRegs_bootLanes s a _
@[simp] theorem State.charge_aer (s : State) (a : Agent) (q : Charge) : (s.charge a q).aer = s.aer := State.onRegs_aer s a _
@[simp] theorem State.charge_outputs (s : State) (a : Agent) (q : Charge) : (s.charge a q).outputs = s.outputs := State.onRegs_outputs s a _

@[simp] theorem State.retireCount_turns (s : State) (q : Charge) : (s.retireCount q).turns = s.turns := State.onMy_turns s _
@[simp] theorem State.retireCount_cur (s : State) (q : Charge) : (s.retireCount q).cur = s.cur := State.onMy_cur s _
@[simp] theorem State.retireCount_ir (s : State) (q : Charge) : (s.retireCount q).ir = s.ir := State.onMy_ir s _
@[simp] theorem State.retireCount_tick (s : State) (q : Charge) : (s.retireCount q).tick = s.tick := State.onMy_tick s _
@[simp] theorem State.retireCount_cores (s : State) (q : Charge) : (s.retireCount q).cores = s.cores := State.onMy_cores s _
@[simp] theorem State.retireCount_parts (s : State) (q : Charge) : (s.retireCount q).parts = s.parts := State.onMy_parts s _
@[simp] theorem State.retireCount_funcs (s : State) (q : Charge) : (s.retireCount q).funcs = s.funcs := State.onMy_funcs s _
@[simp] theorem State.retireCount_images (s : State) (q : Charge) : (s.retireCount q).images = s.images := State.onMy_images s _
@[simp] theorem State.retireCount_events (s : State) (q : Charge) : (s.retireCount q).events = s.events := State.onMy_events s _
@[simp] theorem State.retireCount_mem (s : State) (q : Charge) : (s.retireCount q).mem = s.mem := State.onMy_mem s _
@[simp] theorem State.retireCount_keyOf (s : State) (q : Charge) : (s.retireCount q).keyOf = s.keyOf := State.onMy_keyOf s _
@[simp] theorem State.retireCount_clearKey (s : State) (q : Charge) : (s.retireCount q).clearKey = s.clearKey := State.onMy_clearKey s _
@[simp] theorem State.retireCount_granules (s : State) (q : Charge) : (s.retireCount q).granules = s.granules := State.onMy_granules s _
@[simp] theorem State.retireCount_tileTags (s : State) (q : Charge) : (s.retireCount q).tileTags = s.tileTags := State.onMy_tileTags s _
@[simp] theorem State.retireCount_badMem (s : State) (q : Charge) : (s.retireCount q).badMem = s.badMem := State.onMy_badMem s _
@[simp] theorem State.retireCount_hostBars (s : State) (q : Charge) : (s.retireCount q).hostBars = s.hostBars := State.onMy_hostBars s _
@[simp] theorem State.retireCount_releases (s : State) (q : Charge) : (s.retireCount q).releases = s.releases := State.onMy_releases s _
@[simp] theorem State.retireCount_barriers (s : State) (q : Charge) : (s.retireCount q).barriers = s.barriers := State.onMy_barriers s _
@[simp] theorem State.retireCount_ticket (s : State) (q : Charge) : (s.retireCount q).ticket = s.ticket := State.onMy_ticket s _
@[simp] theorem State.retireCount_timer (s : State) (q : Charge) : (s.retireCount q).timer = s.timer := State.onMy_timer s _
@[simp] theorem State.retireCount_yieldwin (s : State) (q : Charge) : (s.retireCount q).yieldwin = s.yieldwin := State.onMy_yieldwin s _
@[simp] theorem State.retireCount_dbgCtx (s : State) (q : Charge) : (s.retireCount q).dbgCtx = s.dbgCtx := State.onMy_dbgCtx s _
@[simp] theorem State.retireCount_dbgNeedle (s : State) (q : Charge) : (s.retireCount q).dbgNeedle = s.dbgNeedle := State.onMy_dbgNeedle s _
@[simp] theorem State.retireCount_dbgStep (s : State) (q : Charge) : (s.retireCount q).dbgStep = s.dbgStep := State.onMy_dbgStep s _
@[simp] theorem State.retireCount_cable (s : State) (q : Charge) : (s.retireCount q).cable = s.cable := State.onMy_cable s _
@[simp] theorem State.retireCount_keys (s : State) (q : Charge) : (s.retireCount q).keys = s.keys := State.onMy_keys s _
@[simp] theorem State.retireCount_nextKey (s : State) (q : Charge) : (s.retireCount q).nextKey = s.nextKey := State.onMy_nextKey s _
@[simp] theorem State.retireCount_incarnation (s : State) (q : Charge) : (s.retireCount q).incarnation = s.incarnation := State.onMy_incarnation s _
@[simp] theorem State.retireCount_plimit (s : State) (q : Charge) : (s.retireCount q).plimit = s.plimit := State.onMy_plimit s _
@[simp] theorem State.retireCount_grants (s : State) (q : Charge) : (s.retireCount q).grants = s.grants := State.onMy_grants s _
@[simp] theorem State.retireCount_phub (s : State) (q : Charge) : (s.retireCount q).phub = s.phub := State.onMy_phub s _
@[simp] theorem State.retireCount_phbm (s : State) (q : Charge) : (s.retireCount q).phbm = s.phbm := State.onMy_phbm s _
@[simp] theorem State.retireCount_moduleOn (s : State) (q : Charge) : (s.retireCount q).moduleOn = s.moduleOn := State.onMy_moduleOn s _
@[simp] theorem State.retireCount_bootStep (s : State) (q : Charge) : (s.retireCount q).bootStep = s.bootStep := State.onMy_bootStep s _
@[simp] theorem State.retireCount_bootFailed (s : State) (q : Charge) : (s.retireCount q).bootFailed = s.bootFailed := State.onMy_bootFailed s _
@[simp] theorem State.retireCount_fuses (s : State) (q : Charge) : (s.retireCount q).fuses = s.fuses := State.onMy_fuses s _
@[simp] theorem State.retireCount_firmware (s : State) (q : Charge) : (s.retireCount q).firmware = s.firmware := State.onMy_firmware s _
@[simp] theorem State.retireCount_bootLanes (s : State) (q : Charge) : (s.retireCount q).bootLanes = s.bootLanes := State.onMy_bootLanes s _
@[simp] theorem State.retireCount_aer (s : State) (q : Charge) : (s.retireCount q).aer = s.aer := State.onMy_aer s _
@[simp] theorem State.retireCount_outputs (s : State) (q : Charge) : (s.retireCount q).outputs = s.outputs := State.onMy_outputs s _

@[simp] theorem State.post_turns (s : State) (p : Nat) (code : BitVec 8) (k : Nat) : (s.post p code k).turns = s.turns := rfl
@[simp] theorem State.post_cur (s : State) (p : Nat) (code : BitVec 8) (k : Nat) : (s.post p code k).cur = s.cur := rfl
@[simp] theorem State.post_ir (s : State) (p : Nat) (code : BitVec 8) (k : Nat) : (s.post p code k).ir = s.ir := rfl
@[simp] theorem State.post_tick (s : State) (p : Nat) (code : BitVec 8) (k : Nat) : (s.post p code k).tick = s.tick := rfl
@[simp] theorem State.post_ctxs (s : State) (p : Nat) (code : BitVec 8) (k : Nat) : (s.post p code k).ctxs = s.ctxs := rfl
@[simp] theorem State.post_cores (s : State) (p : Nat) (code : BitVec 8) (k : Nat) : (s.post p code k).cores = s.cores := rfl
@[simp] theorem State.post_hubs (s : State) (p : Nat) (code : BitVec 8) (k : Nat) : (s.post p code k).hubs = s.hubs := rfl
@[simp] theorem State.post_parts (s : State) (p : Nat) (code : BitVec 8) (k : Nat) : (s.post p code k).parts = s.parts := rfl
@[simp] theorem State.post_funcs (s : State) (p : Nat) (code : BitVec 8) (k : Nat) : (s.post p code k).funcs = s.funcs := rfl
@[simp] theorem State.post_images (s : State) (p : Nat) (code : BitVec 8) (k : Nat) : (s.post p code k).images = s.images := rfl
@[simp] theorem State.post_mem (s : State) (p : Nat) (code : BitVec 8) (k : Nat) : (s.post p code k).mem = s.mem := rfl
@[simp] theorem State.post_keyOf (s : State) (p : Nat) (code : BitVec 8) (k : Nat) : (s.post p code k).keyOf = s.keyOf := rfl
@[simp] theorem State.post_clearKey (s : State) (p : Nat) (code : BitVec 8) (k : Nat) : (s.post p code k).clearKey = s.clearKey := rfl
@[simp] theorem State.post_granules (s : State) (p : Nat) (code : BitVec 8) (k : Nat) : (s.post p code k).granules = s.granules := rfl
@[simp] theorem State.post_tileTags (s : State) (p : Nat) (code : BitVec 8) (k : Nat) : (s.post p code k).tileTags = s.tileTags := rfl
@[simp] theorem State.post_badMem (s : State) (p : Nat) (code : BitVec 8) (k : Nat) : (s.post p code k).badMem = s.badMem := rfl
@[simp] theorem State.post_hostBars (s : State) (p : Nat) (code : BitVec 8) (k : Nat) : (s.post p code k).hostBars = s.hostBars := rfl
@[simp] theorem State.post_releases (s : State) (p : Nat) (code : BitVec 8) (k : Nat) : (s.post p code k).releases = s.releases := rfl
@[simp] theorem State.post_barriers (s : State) (p : Nat) (code : BitVec 8) (k : Nat) : (s.post p code k).barriers = s.barriers := rfl
@[simp] theorem State.post_ticket (s : State) (p : Nat) (code : BitVec 8) (k : Nat) : (s.post p code k).ticket = s.ticket := rfl
@[simp] theorem State.post_timer (s : State) (p : Nat) (code : BitVec 8) (k : Nat) : (s.post p code k).timer = s.timer := rfl
@[simp] theorem State.post_yieldwin (s : State) (p : Nat) (code : BitVec 8) (k : Nat) : (s.post p code k).yieldwin = s.yieldwin := rfl
@[simp] theorem State.post_dbgCtx (s : State) (p : Nat) (code : BitVec 8) (k : Nat) : (s.post p code k).dbgCtx = s.dbgCtx := rfl
@[simp] theorem State.post_dbgNeedle (s : State) (p : Nat) (code : BitVec 8) (k : Nat) : (s.post p code k).dbgNeedle = s.dbgNeedle := rfl
@[simp] theorem State.post_dbgStep (s : State) (p : Nat) (code : BitVec 8) (k : Nat) : (s.post p code k).dbgStep = s.dbgStep := rfl
@[simp] theorem State.post_cable (s : State) (p : Nat) (code : BitVec 8) (k : Nat) : (s.post p code k).cable = s.cable := rfl
@[simp] theorem State.post_keys (s : State) (p : Nat) (code : BitVec 8) (k : Nat) : (s.post p code k).keys = s.keys := rfl
@[simp] theorem State.post_nextKey (s : State) (p : Nat) (code : BitVec 8) (k : Nat) : (s.post p code k).nextKey = s.nextKey := rfl
@[simp] theorem State.post_incarnation (s : State) (p : Nat) (code : BitVec 8) (k : Nat) : (s.post p code k).incarnation = s.incarnation := rfl
@[simp] theorem State.post_plimit (s : State) (p : Nat) (code : BitVec 8) (k : Nat) : (s.post p code k).plimit = s.plimit := rfl
@[simp] theorem State.post_grants (s : State) (p : Nat) (code : BitVec 8) (k : Nat) : (s.post p code k).grants = s.grants := rfl
@[simp] theorem State.post_phub (s : State) (p : Nat) (code : BitVec 8) (k : Nat) : (s.post p code k).phub = s.phub := rfl
@[simp] theorem State.post_phbm (s : State) (p : Nat) (code : BitVec 8) (k : Nat) : (s.post p code k).phbm = s.phbm := rfl
@[simp] theorem State.post_moduleOn (s : State) (p : Nat) (code : BitVec 8) (k : Nat) : (s.post p code k).moduleOn = s.moduleOn := rfl
@[simp] theorem State.post_bootStep (s : State) (p : Nat) (code : BitVec 8) (k : Nat) : (s.post p code k).bootStep = s.bootStep := rfl
@[simp] theorem State.post_bootFailed (s : State) (p : Nat) (code : BitVec 8) (k : Nat) : (s.post p code k).bootFailed = s.bootFailed := rfl
@[simp] theorem State.post_fuses (s : State) (p : Nat) (code : BitVec 8) (k : Nat) : (s.post p code k).fuses = s.fuses := rfl
@[simp] theorem State.post_firmware (s : State) (p : Nat) (code : BitVec 8) (k : Nat) : (s.post p code k).firmware = s.firmware := rfl
@[simp] theorem State.post_bootLanes (s : State) (p : Nat) (code : BitVec 8) (k : Nat) : (s.post p code k).bootLanes = s.bootLanes := rfl
@[simp] theorem State.post_aer (s : State) (p : Nat) (code : BitVec 8) (k : Nat) : (s.post p code k).aer = s.aer := rfl
@[simp] theorem State.post_outputs (s : State) (p : Nat) (code : BitVec 8) (k : Nat) : (s.post p code k).outputs = s.outputs := rfl

@[simp] theorem State.takeTrap_turns (s : State) (a : Agent) (n : Needle) (e : BitVec 8) (v0 v1 pc ipc : Word) : (s.takeTrap a n e v0 v1 pc ipc).turns = s.turns := by cases a <;> rfl
@[simp] theorem State.takeTrap_cur (s : State) (a : Agent) (n : Needle) (e : BitVec 8) (v0 v1 pc ipc : Word) : (s.takeTrap a n e v0 v1 pc ipc).cur = s.cur := by cases a <;> rfl
@[simp] theorem State.takeTrap_ir (s : State) (a : Agent) (n : Needle) (e : BitVec 8) (v0 v1 pc ipc : Word) : (s.takeTrap a n e v0 v1 pc ipc).ir = s.ir := by cases a <;> rfl
@[simp] theorem State.takeTrap_tick (s : State) (a : Agent) (n : Needle) (e : BitVec 8) (v0 v1 pc ipc : Word) : (s.takeTrap a n e v0 v1 pc ipc).tick = s.tick := by cases a <;> rfl
@[simp] theorem State.takeTrap_cores (s : State) (a : Agent) (n : Needle) (e : BitVec 8) (v0 v1 pc ipc : Word) : (s.takeTrap a n e v0 v1 pc ipc).cores = s.cores := by cases a <;> rfl
@[simp] theorem State.takeTrap_parts (s : State) (a : Agent) (n : Needle) (e : BitVec 8) (v0 v1 pc ipc : Word) : (s.takeTrap a n e v0 v1 pc ipc).parts = s.parts := by cases a <;> rfl
@[simp] theorem State.takeTrap_funcs (s : State) (a : Agent) (n : Needle) (e : BitVec 8) (v0 v1 pc ipc : Word) : (s.takeTrap a n e v0 v1 pc ipc).funcs = s.funcs := by cases a <;> rfl
@[simp] theorem State.takeTrap_images (s : State) (a : Agent) (n : Needle) (e : BitVec 8) (v0 v1 pc ipc : Word) : (s.takeTrap a n e v0 v1 pc ipc).images = s.images := by cases a <;> rfl
@[simp] theorem State.takeTrap_mem (s : State) (a : Agent) (n : Needle) (e : BitVec 8) (v0 v1 pc ipc : Word) : (s.takeTrap a n e v0 v1 pc ipc).mem = s.mem := by cases a <;> rfl
@[simp] theorem State.takeTrap_keyOf (s : State) (a : Agent) (n : Needle) (e : BitVec 8) (v0 v1 pc ipc : Word) : (s.takeTrap a n e v0 v1 pc ipc).keyOf = s.keyOf := by cases a <;> rfl
@[simp] theorem State.takeTrap_clearKey (s : State) (a : Agent) (n : Needle) (e : BitVec 8) (v0 v1 pc ipc : Word) : (s.takeTrap a n e v0 v1 pc ipc).clearKey = s.clearKey := by cases a <;> rfl
@[simp] theorem State.takeTrap_granules (s : State) (a : Agent) (n : Needle) (e : BitVec 8) (v0 v1 pc ipc : Word) : (s.takeTrap a n e v0 v1 pc ipc).granules = s.granules := by cases a <;> rfl
@[simp] theorem State.takeTrap_tileTags (s : State) (a : Agent) (n : Needle) (e : BitVec 8) (v0 v1 pc ipc : Word) : (s.takeTrap a n e v0 v1 pc ipc).tileTags = s.tileTags := by cases a <;> rfl
@[simp] theorem State.takeTrap_badMem (s : State) (a : Agent) (n : Needle) (e : BitVec 8) (v0 v1 pc ipc : Word) : (s.takeTrap a n e v0 v1 pc ipc).badMem = s.badMem := by cases a <;> rfl
@[simp] theorem State.takeTrap_hostBars (s : State) (a : Agent) (n : Needle) (e : BitVec 8) (v0 v1 pc ipc : Word) : (s.takeTrap a n e v0 v1 pc ipc).hostBars = s.hostBars := by cases a <;> rfl
@[simp] theorem State.takeTrap_releases (s : State) (a : Agent) (n : Needle) (e : BitVec 8) (v0 v1 pc ipc : Word) : (s.takeTrap a n e v0 v1 pc ipc).releases = s.releases := by cases a <;> rfl
@[simp] theorem State.takeTrap_barriers (s : State) (a : Agent) (n : Needle) (e : BitVec 8) (v0 v1 pc ipc : Word) : (s.takeTrap a n e v0 v1 pc ipc).barriers = s.barriers := by cases a <;> rfl
@[simp] theorem State.takeTrap_ticket (s : State) (a : Agent) (n : Needle) (e : BitVec 8) (v0 v1 pc ipc : Word) : (s.takeTrap a n e v0 v1 pc ipc).ticket = s.ticket := by cases a <;> rfl
@[simp] theorem State.takeTrap_timer (s : State) (a : Agent) (n : Needle) (e : BitVec 8) (v0 v1 pc ipc : Word) : (s.takeTrap a n e v0 v1 pc ipc).timer = s.timer := by cases a <;> rfl
@[simp] theorem State.takeTrap_yieldwin (s : State) (a : Agent) (n : Needle) (e : BitVec 8) (v0 v1 pc ipc : Word) : (s.takeTrap a n e v0 v1 pc ipc).yieldwin = s.yieldwin := by cases a <;> rfl
@[simp] theorem State.takeTrap_dbgCtx (s : State) (a : Agent) (n : Needle) (e : BitVec 8) (v0 v1 pc ipc : Word) : (s.takeTrap a n e v0 v1 pc ipc).dbgCtx = s.dbgCtx := by cases a <;> rfl
@[simp] theorem State.takeTrap_dbgNeedle (s : State) (a : Agent) (n : Needle) (e : BitVec 8) (v0 v1 pc ipc : Word) : (s.takeTrap a n e v0 v1 pc ipc).dbgNeedle = s.dbgNeedle := by cases a <;> rfl
@[simp] theorem State.takeTrap_dbgStep (s : State) (a : Agent) (n : Needle) (e : BitVec 8) (v0 v1 pc ipc : Word) : (s.takeTrap a n e v0 v1 pc ipc).dbgStep = s.dbgStep := by cases a <;> rfl
@[simp] theorem State.takeTrap_cable (s : State) (a : Agent) (n : Needle) (e : BitVec 8) (v0 v1 pc ipc : Word) : (s.takeTrap a n e v0 v1 pc ipc).cable = s.cable := by cases a <;> rfl
@[simp] theorem State.takeTrap_keys (s : State) (a : Agent) (n : Needle) (e : BitVec 8) (v0 v1 pc ipc : Word) : (s.takeTrap a n e v0 v1 pc ipc).keys = s.keys := by cases a <;> rfl
@[simp] theorem State.takeTrap_nextKey (s : State) (a : Agent) (n : Needle) (e : BitVec 8) (v0 v1 pc ipc : Word) : (s.takeTrap a n e v0 v1 pc ipc).nextKey = s.nextKey := by cases a <;> rfl
@[simp] theorem State.takeTrap_incarnation (s : State) (a : Agent) (n : Needle) (e : BitVec 8) (v0 v1 pc ipc : Word) : (s.takeTrap a n e v0 v1 pc ipc).incarnation = s.incarnation := by cases a <;> rfl
@[simp] theorem State.takeTrap_plimit (s : State) (a : Agent) (n : Needle) (e : BitVec 8) (v0 v1 pc ipc : Word) : (s.takeTrap a n e v0 v1 pc ipc).plimit = s.plimit := by cases a <;> rfl
@[simp] theorem State.takeTrap_grants (s : State) (a : Agent) (n : Needle) (e : BitVec 8) (v0 v1 pc ipc : Word) : (s.takeTrap a n e v0 v1 pc ipc).grants = s.grants := by cases a <;> rfl
@[simp] theorem State.takeTrap_phub (s : State) (a : Agent) (n : Needle) (e : BitVec 8) (v0 v1 pc ipc : Word) : (s.takeTrap a n e v0 v1 pc ipc).phub = s.phub := by cases a <;> rfl
@[simp] theorem State.takeTrap_phbm (s : State) (a : Agent) (n : Needle) (e : BitVec 8) (v0 v1 pc ipc : Word) : (s.takeTrap a n e v0 v1 pc ipc).phbm = s.phbm := by cases a <;> rfl
@[simp] theorem State.takeTrap_moduleOn (s : State) (a : Agent) (n : Needle) (e : BitVec 8) (v0 v1 pc ipc : Word) : (s.takeTrap a n e v0 v1 pc ipc).moduleOn = s.moduleOn := by cases a <;> rfl
@[simp] theorem State.takeTrap_bootStep (s : State) (a : Agent) (n : Needle) (e : BitVec 8) (v0 v1 pc ipc : Word) : (s.takeTrap a n e v0 v1 pc ipc).bootStep = s.bootStep := by cases a <;> rfl
@[simp] theorem State.takeTrap_bootFailed (s : State) (a : Agent) (n : Needle) (e : BitVec 8) (v0 v1 pc ipc : Word) : (s.takeTrap a n e v0 v1 pc ipc).bootFailed = s.bootFailed := by cases a <;> rfl
@[simp] theorem State.takeTrap_fuses (s : State) (a : Agent) (n : Needle) (e : BitVec 8) (v0 v1 pc ipc : Word) : (s.takeTrap a n e v0 v1 pc ipc).fuses = s.fuses := by cases a <;> rfl
@[simp] theorem State.takeTrap_firmware (s : State) (a : Agent) (n : Needle) (e : BitVec 8) (v0 v1 pc ipc : Word) : (s.takeTrap a n e v0 v1 pc ipc).firmware = s.firmware := by cases a <;> rfl
@[simp] theorem State.takeTrap_bootLanes (s : State) (a : Agent) (n : Needle) (e : BitVec 8) (v0 v1 pc ipc : Word) : (s.takeTrap a n e v0 v1 pc ipc).bootLanes = s.bootLanes := by cases a <;> rfl

@[simp] theorem State.endStep_turns (s : State) (n : Needle) (pc : Word) : (s.endStep n pc).turns = s.turns := by
  unfold State.endStep; dsimp only; split <;> simp
@[simp] theorem State.endStep_cur (s : State) (n : Needle) (pc : Word) : (s.endStep n pc).cur = s.cur := by
  unfold State.endStep; dsimp only; split <;> simp
@[simp] theorem State.endStep_ir (s : State) (n : Needle) (pc : Word) : (s.endStep n pc).ir = s.ir := by
  unfold State.endStep; dsimp only; split <;> simp
@[simp] theorem State.endStep_tick (s : State) (n : Needle) (pc : Word) : (s.endStep n pc).tick = s.tick := by
  unfold State.endStep; dsimp only; split <;> simp
@[simp] theorem State.endStep_cores (s : State) (n : Needle) (pc : Word) : (s.endStep n pc).cores = s.cores := by
  unfold State.endStep; dsimp only; split <;> simp
@[simp] theorem State.endStep_parts (s : State) (n : Needle) (pc : Word) : (s.endStep n pc).parts = s.parts := by
  unfold State.endStep; dsimp only; split <;> simp
@[simp] theorem State.endStep_funcs (s : State) (n : Needle) (pc : Word) : (s.endStep n pc).funcs = s.funcs := by
  unfold State.endStep; dsimp only; split <;> simp
@[simp] theorem State.endStep_images (s : State) (n : Needle) (pc : Word) : (s.endStep n pc).images = s.images := by
  unfold State.endStep; dsimp only; split <;> simp
@[simp] theorem State.endStep_mem (s : State) (n : Needle) (pc : Word) : (s.endStep n pc).mem = s.mem := by
  unfold State.endStep; dsimp only; split <;> simp
@[simp] theorem State.endStep_keyOf (s : State) (n : Needle) (pc : Word) : (s.endStep n pc).keyOf = s.keyOf := by
  unfold State.endStep; dsimp only; split <;> simp
@[simp] theorem State.endStep_clearKey (s : State) (n : Needle) (pc : Word) : (s.endStep n pc).clearKey = s.clearKey := by
  unfold State.endStep; dsimp only; split <;> simp
@[simp] theorem State.endStep_granules (s : State) (n : Needle) (pc : Word) : (s.endStep n pc).granules = s.granules := by
  unfold State.endStep; dsimp only; split <;> simp
@[simp] theorem State.endStep_tileTags (s : State) (n : Needle) (pc : Word) : (s.endStep n pc).tileTags = s.tileTags := by
  unfold State.endStep; dsimp only; split <;> simp
@[simp] theorem State.endStep_badMem (s : State) (n : Needle) (pc : Word) : (s.endStep n pc).badMem = s.badMem := by
  unfold State.endStep; dsimp only; split <;> simp
@[simp] theorem State.endStep_hostBars (s : State) (n : Needle) (pc : Word) : (s.endStep n pc).hostBars = s.hostBars := by
  unfold State.endStep; dsimp only; split <;> simp
@[simp] theorem State.endStep_releases (s : State) (n : Needle) (pc : Word) : (s.endStep n pc).releases = s.releases := by
  unfold State.endStep; dsimp only; split <;> simp
@[simp] theorem State.endStep_barriers (s : State) (n : Needle) (pc : Word) : (s.endStep n pc).barriers = s.barriers := by
  unfold State.endStep; dsimp only; split <;> simp
@[simp] theorem State.endStep_ticket (s : State) (n : Needle) (pc : Word) : (s.endStep n pc).ticket = s.ticket := by
  unfold State.endStep; dsimp only; split <;> simp
@[simp] theorem State.endStep_timer (s : State) (n : Needle) (pc : Word) : (s.endStep n pc).timer = s.timer := by
  unfold State.endStep; dsimp only; split <;> simp
@[simp] theorem State.endStep_yieldwin (s : State) (n : Needle) (pc : Word) : (s.endStep n pc).yieldwin = s.yieldwin := by
  unfold State.endStep; dsimp only; split <;> simp
@[simp] theorem State.endStep_dbgCtx (s : State) (n : Needle) (pc : Word) : (s.endStep n pc).dbgCtx = s.dbgCtx := by
  unfold State.endStep; dsimp only; split <;> simp
@[simp] theorem State.endStep_dbgNeedle (s : State) (n : Needle) (pc : Word) : (s.endStep n pc).dbgNeedle = s.dbgNeedle := by
  unfold State.endStep; dsimp only; split <;> simp
@[simp] theorem State.endStep_dbgStep (s : State) (n : Needle) (pc : Word) : (s.endStep n pc).dbgStep = s.dbgStep := by
  unfold State.endStep; dsimp only; split <;> simp
@[simp] theorem State.endStep_cable (s : State) (n : Needle) (pc : Word) : (s.endStep n pc).cable = s.cable := by
  unfold State.endStep; dsimp only; split <;> simp
@[simp] theorem State.endStep_keys (s : State) (n : Needle) (pc : Word) : (s.endStep n pc).keys = s.keys := by
  unfold State.endStep; dsimp only; split <;> simp
@[simp] theorem State.endStep_nextKey (s : State) (n : Needle) (pc : Word) : (s.endStep n pc).nextKey = s.nextKey := by
  unfold State.endStep; dsimp only; split <;> simp
@[simp] theorem State.endStep_incarnation (s : State) (n : Needle) (pc : Word) : (s.endStep n pc).incarnation = s.incarnation := by
  unfold State.endStep; dsimp only; split <;> simp
@[simp] theorem State.endStep_plimit (s : State) (n : Needle) (pc : Word) : (s.endStep n pc).plimit = s.plimit := by
  unfold State.endStep; dsimp only; split <;> simp
@[simp] theorem State.endStep_grants (s : State) (n : Needle) (pc : Word) : (s.endStep n pc).grants = s.grants := by
  unfold State.endStep; dsimp only; split <;> simp
@[simp] theorem State.endStep_phub (s : State) (n : Needle) (pc : Word) : (s.endStep n pc).phub = s.phub := by
  unfold State.endStep; dsimp only; split <;> simp
@[simp] theorem State.endStep_phbm (s : State) (n : Needle) (pc : Word) : (s.endStep n pc).phbm = s.phbm := by
  unfold State.endStep; dsimp only; split <;> simp
@[simp] theorem State.endStep_moduleOn (s : State) (n : Needle) (pc : Word) : (s.endStep n pc).moduleOn = s.moduleOn := by
  unfold State.endStep; dsimp only; split <;> simp
@[simp] theorem State.endStep_bootStep (s : State) (n : Needle) (pc : Word) : (s.endStep n pc).bootStep = s.bootStep := by
  unfold State.endStep; dsimp only; split <;> simp
@[simp] theorem State.endStep_bootFailed (s : State) (n : Needle) (pc : Word) : (s.endStep n pc).bootFailed = s.bootFailed := by
  unfold State.endStep; dsimp only; split <;> simp
@[simp] theorem State.endStep_fuses (s : State) (n : Needle) (pc : Word) : (s.endStep n pc).fuses = s.fuses := by
  unfold State.endStep; dsimp only; split <;> simp
@[simp] theorem State.endStep_firmware (s : State) (n : Needle) (pc : Word) : (s.endStep n pc).firmware = s.firmware := by
  unfold State.endStep; dsimp only; split <;> simp
@[simp] theorem State.endStep_bootLanes (s : State) (n : Needle) (pc : Word) : (s.endStep n pc).bootLanes = s.bootLanes := by
  unfold State.endStep; dsimp only; split <;> simp

@[simp] theorem State.regs_setRegs (s : State) (a : Agent) (c : Ctx) : (s.setRegs a c).regs a = c := by
  cases a <;> simp [State.setRegs, State.regs, State.setHub, State.hub]

theorem State.regs_setRegs_ne (s : State) (a b : Agent) (c : Ctx) (h : b ≠ a) : (s.setRegs a c).regs b = s.regs b := by
  cases a <;> cases b <;> simp only [State.setRegs, State.regs, State.setHub, State.hub]
  · exact Sparse.at_insert_ne _ _ _ _ _ (fun e => h (by rw [e]))
  · rw [Sparse.at_insert_ne _ _ _ _ _ (fun e => h (by rw [e]))]

@[simp] theorem State.regs_onRegs (s : State) (a : Agent) (f : Ctx → Ctx) : (s.onRegs a f).regs a = f (s.regs a) := State.regs_setRegs s a _
@[simp] theorem State.my_setMy (s : State) (c : Ctx) : (s.setMy c).my = c := by
  show (s.setRegs s.cur.1 c).regs (s.setRegs s.cur.1 c).cur.1 = c
  rw [State.setRegs_cur, State.regs_setRegs]
@[simp] theorem State.my_onMy (s : State) (f : Ctx → Ctx) : (s.onMy f).my = f s.my := State.my_setMy s _
@[simp] theorem State.ndl_onMy (s : State) (f : Ctx → Ctx) : (s.onMy f).ndl = s.ndl := by simp [State.ndl]
@[simp] theorem State.who_onMy (s : State) (f : Ctx → Ctx) : (s.onMy f).who = s.who := by simp [State.who]
@[simp] theorem State.part_setPart (s : State) (p : Nat) (q : Part) : (s.setPart p q).part p = q := by simp [State.part, State.setPart]
@[simp] theorem State.core_setCore (s : State) (k : Nat) (u : Core) : (s.setCore k u).core k = u := by simp [State.core, State.setCore]
@[simp] theorem State.func_setFunc (s : State) (v : Nat) (f : Func) : (s.setFunc v f).func v = f := by simp [State.func, State.setFunc]
@[simp] theorem State.hub_setHub (s : State) (h : Nat) (u : Hub) : (s.setHub h u).hub h = u := by simp [State.hub, State.setHub]

/-! ## Updates of an agent's registers -/

@[simp] theorem Ctx.setX_image (c : Ctx) (r : XReg) (w : Word) : (c.setX r w).image = c.image := by
  unfold Ctx.setX; split <;> rfl
@[simp] theorem Ctx.setX_vf (c : Ctx) (r : XReg) (w : Word) : (c.setX r w).vf = c.vf := by
  unfold Ctx.setX; split <;> rfl
@[simp] theorem Ctx.setX_part (c : Ctx) (r : XReg) (w : Word) : (c.setX r w).part = c.part := by
  unfold Ctx.setX; split <;> rfl
@[simp] theorem Ctx.setX_prot (c : Ctx) (r : XReg) (w : Word) : (c.setX r w).prot = c.prot := by
  unfold Ctx.setX; split <;> rfl
@[simp] theorem Ctx.setX_node (c : Ctx) (r : XReg) (w : Word) : (c.setX r w).node = c.node := by
  unfold Ctx.setX; split <;> rfl
@[simp] theorem Ctx.setX_life (c : Ctx) (r : XReg) (w : Word) : (c.setX r w).life = c.life := by
  unfold Ctx.setX; split <;> rfl
@[simp] theorem Ctx.setX_core (c : Ctx) (r : XReg) (w : Word) : (c.setX r w).core = c.core := by
  unfold Ctx.setX; split <;> rfl
@[simp] theorem Ctx.setX_lastCore (c : Ctx) (r : XReg) (w : Word) : (c.setX r w).lastCore = c.lastCore := by
  unfold Ctx.setX; split <;> rfl
@[simp] theorem Ctx.setX_f (c : Ctx) (r : XReg) (w : Word) : (c.setX r w).f = c.f := by
  unfold Ctx.setX; split <;> rfl
@[simp] theorem Ctx.setX_fFull (c : Ctx) (r : XReg) (w : Word) : (c.setX r w).fFull = c.fFull := by
  unfold Ctx.setX; split <;> rfl
@[simp] theorem Ctx.setX_v (c : Ctx) (r : XReg) (w : Word) : (c.setX r w).v = c.v := by
  unfold Ctx.setX; split <;> rfl
@[simp] theorem Ctx.setX_z (c : Ctx) (r : XReg) (w : Word) : (c.setX r w).z = c.z := by
  unfold Ctx.setX; split <;> rfl
@[simp] theorem Ctx.setX_arr (c : Ctx) (r : XReg) (w : Word) : (c.setX r w).arr = c.arr := by
  unfold Ctx.setX; split <;> rfl
@[simp] theorem Ctx.setX_b (c : Ctx) (r : XReg) (w : Word) : (c.setX r w).b = c.b := by
  unfold Ctx.setX; split <;> rfl
@[simp] theorem Ctx.setX_slot0 (c : Ctx) (r : XReg) (w : Word) : (c.setX r w).slot0 = c.slot0 := by
  unfold Ctx.setX; split <;> rfl
@[simp] theorem Ctx.setX_fixed (c : Ctx) (r : XReg) (w : Word) : (c.setX r w).fixed = c.fixed := by
  unfold Ctx.setX; split <;> rfl
@[simp] theorem Ctx.setX_nS (c : Ctx) (r : XReg) (w : Word) : (c.setX r w).nS = c.nS := by
  unfold Ctx.setX; split <;> rfl
@[simp] theorem Ctx.setX_nV (c : Ctx) (r : XReg) (w : Word) : (c.setX r w).nV = c.nV := by
  unfold Ctx.setX; split <;> rfl
@[simp] theorem Ctx.setX_nM (c : Ctx) (r : XReg) (w : Word) : (c.setX r w).nM = c.nM := by
  unfold Ctx.setX; split <;> rfl
@[simp] theorem Ctx.setX_nC (c : Ctx) (r : XReg) (w : Word) : (c.setX r w).nC = c.nC := by
  unfold Ctx.setX; split <;> rfl
@[simp] theorem Ctx.setX_strip (c : Ctx) (r : XReg) (w : Word) : (c.setX r w).strip = c.strip := by
  unfold Ctx.setX; split <;> rfl
@[simp] theorem Ctx.setX_fflags (c : Ctx) (r : XReg) (w : Word) : (c.setX r w).fflags = c.fflags := by
  unfold Ctx.setX; split <;> rfl
@[simp] theorem Ctx.setX_frm (c : Ctx) (r : XReg) (w : Word) : (c.setX r w).frm = c.frm := by
  unfold Ctx.setX; split <;> rfl
@[simp] theorem Ctx.setX_vdead (c : Ctx) (r : XReg) (w : Word) : (c.setX r w).vdead = c.vdead := by
  unfold Ctx.setX; split <;> rfl
@[simp] theorem Ctx.setX_vbeg (c : Ctx) (r : XReg) (w : Word) : (c.setX r w).vbeg = c.vbeg := by
  unfold Ctx.setX; split <;> rfl
@[simp] theorem Ctx.setX_vprog (c : Ctx) (r : XReg) (w : Word) : (c.setX r w).vprog = c.vprog := by
  unfold Ctx.setX; split <;> rfl
@[simp] theorem Ctx.setX_vprogCount (c : Ctx) (r : XReg) (w : Word) : (c.setX r w).vprogCount = c.vprogCount := by
  unfold Ctx.setX; split <;> rfl
@[simp] theorem Ctx.setX_vqcfg (c : Ctx) (r : XReg) (w : Word) : (c.setX r w).vqcfg = c.vqcfg := by
  unfold Ctx.setX; split <;> rfl
@[simp] theorem Ctx.setX_pblk (c : Ctx) (r : XReg) (w : Word) : (c.setX r w).pblk = c.pblk := by
  unfold Ctx.setX; split <;> rfl
@[simp] theorem Ctx.setX_mapitch (c : Ctx) (r : XReg) (w : Word) : (c.setX r w).mapitch = c.mapitch := by
  unfold Ctx.setX; split <;> rfl
@[simp] theorem Ctx.setX_mwpitch (c : Ctx) (r : XReg) (w : Word) : (c.setX r w).mwpitch = c.mwpitch := by
  unfold Ctx.setX; split <;> rfl
@[simp] theorem Ctx.setX_mzmap (c : Ctx) (r : XReg) (w : Word) : (c.setX r w).mzmap = c.mzmap := by
  unfold Ctx.setX; split <;> rfl
@[simp] theorem Ctx.setX_slip (c : Ctx) (r : XReg) (w : Word) : (c.setX r w).slip = c.slip := by
  unfold Ctx.setX; split <;> rfl
@[simp] theorem Ctx.setX_spused (c : Ctx) (r : XReg) (w : Word) : (c.setX r w).spused = c.spused := by
  unfold Ctx.setX; split <;> rfl
@[simp] theorem Ctx.setX_fsel (c : Ctx) (r : XReg) (w : Word) : (c.setX r w).fsel = c.fsel := by
  unfold Ctx.setX; split <;> rfl
@[simp] theorem Ctx.setX_fstat (c : Ctx) (r : XReg) (w : Word) : (c.setX r w).fstat = c.fstat := by
  unfold Ctx.setX; split <;> rfl
@[simp] theorem Ctx.setX_cycle (c : Ctx) (r : XReg) (w : Word) : (c.setX r w).cycle = c.cycle := by
  unfold Ctx.setX; split <;> rfl
@[simp] theorem Ctx.setX_instret (c : Ctx) (r : XReg) (w : Word) : (c.setX r w).instret = c.instret := by
  unfold Ctx.setX; split <;> rfl
@[simp] theorem Ctx.setX_gauge (c : Ctx) (r : XReg) (w : Word) : (c.setX r w).gauge = c.gauge := by
  unfold Ctx.setX; split <;> rfl
@[simp] theorem Ctx.setX_gaugest (c : Ctx) (r : XReg) (w : Word) : (c.setX r w).gaugest = c.gaugest := by
  unfold Ctx.setX; split <;> rfl
@[simp] theorem Ctx.setX_vecQ (c : Ctx) (r : XReg) (w : Word) : (c.setX r w).vecQ = c.vecQ := by
  unfold Ctx.setX; split <;> rfl
@[simp] theorem Ctx.setX_matQ (c : Ctx) (r : XReg) (w : Word) : (c.setX r w).matQ = c.matQ := by
  unfold Ctx.setX; split <;> rfl
@[simp] theorem Ctx.setX_copyQ (c : Ctx) (r : XReg) (w : Word) : (c.setX r w).copyQ = c.copyQ := by
  unfold Ctx.setX; split <;> rfl
@[simp] theorem Ctx.setX_copies (c : Ctx) (r : XReg) (w : Word) : (c.setX r w).copies = c.copies := by
  unfold Ctx.setX; split <;> rfl
@[simp] theorem Ctx.setX_pend (c : Ctx) (r : XReg) (w : Word) : (c.setX r w).pend = c.pend := by
  unfold Ctx.setX; split <;> rfl
@[simp] theorem Ctx.setX_trap (c : Ctx) (r : XReg) (w : Word) : (c.setX r w).trap = c.trap := by
  unfold Ctx.setX; split <;> rfl
@[simp] theorem Ctx.setX_skip (c : Ctx) (r : XReg) (w : Word) : (c.setX r w).skip = c.skip := by
  unfold Ctx.setX; split <;> rfl
@[simp] theorem Ctx.setX_resv (c : Ctx) (r : XReg) (w : Word) : (c.setX r w).resv = c.resv := by
  unfold Ctx.setX; split <;> rfl
@[simp] theorem Ctx.setX_relHalf (c : Ctx) (r : XReg) (w : Word) : (c.setX r w).relHalf = c.relHalf := by
  unfold Ctx.setX; split <;> rfl
@[simp] theorem Ctx.setX_relKnow (c : Ctx) (r : XReg) (w : Word) : (c.setX r w).relKnow = c.relKnow := by
  unfold Ctx.setX; split <;> rfl
@[simp] theorem Ctx.setX_openHalf (c : Ctx) (r : XReg) (w : Word) : (c.setX r w).openHalf = c.openHalf := by
  unfold Ctx.setX; split <;> rfl
@[simp] theorem Ctx.setX_reads (c : Ctx) (r : XReg) (w : Word) : (c.setX r w).reads = c.reads := by
  unfold Ctx.setX; split <;> rfl
@[simp] theorem Ctx.setX_fabReads (c : Ctx) (r : XReg) (w : Word) : (c.setX r w).fabReads = c.fabReads := by
  unfold Ctx.setX; split <;> rfl
@[simp] theorem Ctx.setX_request (c : Ctx) (r : XReg) (w : Word) : (c.setX r w).request = c.request := by
  unfold Ctx.setX; split <;> rfl
@[simp] theorem Ctx.setX_stepping (c : Ctx) (r : XReg) (w : Word) : (c.setX r w).stepping = c.stepping := by
  unfold Ctx.setX; split <;> rfl
@[simp] theorem Ctx.setX_saveCount (c : Ctx) (r : XReg) (w : Word) : (c.setX r w).saveCount = c.saveCount := by
  unfold Ctx.setX; split <;> rfl
@[simp] theorem Ctx.setX_keyInst (c : Ctx) (r : XReg) (w : Word) : (c.setX r w).keyInst = c.keyInst := by
  unfold Ctx.setX; split <;> rfl
@[simp] theorem Ctx.setX_nextSeq (c : Ctx) (r : XReg) (w : Word) : (c.setX r w).nextSeq = c.nextSeq := by
  unfold Ctx.setX; split <;> rfl
@[simp] theorem Ctx.setX_chargedAt (c : Ctx) (r : XReg) (w : Word) : (c.setX r w).chargedAt = c.chargedAt := by
  unfold Ctx.setX; split <;> rfl
@[simp] theorem Ctx.setX_reds (c : Ctx) (r : XReg) (w : Word) : (c.setX r w).reds = c.reds := by
  unfold Ctx.setX; split <;> rfl
@[simp] theorem Ctx.setX_vfab (c : Ctx) (r : XReg) (w : Word) : (c.setX r w).vfab = c.vfab := by
  unfold Ctx.setX; split <;> rfl
@[simp] theorem Ctx.setX_past (c : Ctx) (r : XReg) (w : Word) : (c.setX r w).past = c.past := by
  unfold Ctx.setX; split <;> rfl
@[simp] theorem Ctx.setX_loaded (c : Ctx) (r : XReg) (w : Word) : (c.setX r w).loaded = c.loaded := by
  unfold Ctx.setX; split <;> rfl
@[simp] theorem Ctx.setX_fabSaved (c : Ctx) (r : XReg) (w : Word) : (c.setX r w).fabSaved = c.fabSaved := by
  unfold Ctx.setX; split <;> rfl

@[simp] theorem Ctx.setF_image (c : Ctx) (r : FReg) (w : Word) : (c.setF r w).image = c.image := rfl
@[simp] theorem Ctx.setF_vf (c : Ctx) (r : FReg) (w : Word) : (c.setF r w).vf = c.vf := rfl
@[simp] theorem Ctx.setF_part (c : Ctx) (r : FReg) (w : Word) : (c.setF r w).part = c.part := rfl
@[simp] theorem Ctx.setF_prot (c : Ctx) (r : FReg) (w : Word) : (c.setF r w).prot = c.prot := rfl
@[simp] theorem Ctx.setF_node (c : Ctx) (r : FReg) (w : Word) : (c.setF r w).node = c.node := rfl
@[simp] theorem Ctx.setF_life (c : Ctx) (r : FReg) (w : Word) : (c.setF r w).life = c.life := rfl
@[simp] theorem Ctx.setF_core (c : Ctx) (r : FReg) (w : Word) : (c.setF r w).core = c.core := rfl
@[simp] theorem Ctx.setF_lastCore (c : Ctx) (r : FReg) (w : Word) : (c.setF r w).lastCore = c.lastCore := rfl
@[simp] theorem Ctx.setF_x (c : Ctx) (r : FReg) (w : Word) : (c.setF r w).x = c.x := rfl
@[simp] theorem Ctx.setF_xFull (c : Ctx) (r : FReg) (w : Word) : (c.setF r w).xFull = c.xFull := rfl
@[simp] theorem Ctx.setF_v (c : Ctx) (r : FReg) (w : Word) : (c.setF r w).v = c.v := rfl
@[simp] theorem Ctx.setF_z (c : Ctx) (r : FReg) (w : Word) : (c.setF r w).z = c.z := rfl
@[simp] theorem Ctx.setF_arr (c : Ctx) (r : FReg) (w : Word) : (c.setF r w).arr = c.arr := rfl
@[simp] theorem Ctx.setF_b (c : Ctx) (r : FReg) (w : Word) : (c.setF r w).b = c.b := rfl
@[simp] theorem Ctx.setF_slot0 (c : Ctx) (r : FReg) (w : Word) : (c.setF r w).slot0 = c.slot0 := rfl
@[simp] theorem Ctx.setF_fixed (c : Ctx) (r : FReg) (w : Word) : (c.setF r w).fixed = c.fixed := rfl
@[simp] theorem Ctx.setF_nS (c : Ctx) (r : FReg) (w : Word) : (c.setF r w).nS = c.nS := rfl
@[simp] theorem Ctx.setF_nV (c : Ctx) (r : FReg) (w : Word) : (c.setF r w).nV = c.nV := rfl
@[simp] theorem Ctx.setF_nM (c : Ctx) (r : FReg) (w : Word) : (c.setF r w).nM = c.nM := rfl
@[simp] theorem Ctx.setF_nC (c : Ctx) (r : FReg) (w : Word) : (c.setF r w).nC = c.nC := rfl
@[simp] theorem Ctx.setF_strip (c : Ctx) (r : FReg) (w : Word) : (c.setF r w).strip = c.strip := rfl
@[simp] theorem Ctx.setF_fflags (c : Ctx) (r : FReg) (w : Word) : (c.setF r w).fflags = c.fflags := rfl
@[simp] theorem Ctx.setF_frm (c : Ctx) (r : FReg) (w : Word) : (c.setF r w).frm = c.frm := rfl
@[simp] theorem Ctx.setF_vdead (c : Ctx) (r : FReg) (w : Word) : (c.setF r w).vdead = c.vdead := rfl
@[simp] theorem Ctx.setF_vbeg (c : Ctx) (r : FReg) (w : Word) : (c.setF r w).vbeg = c.vbeg := rfl
@[simp] theorem Ctx.setF_vprog (c : Ctx) (r : FReg) (w : Word) : (c.setF r w).vprog = c.vprog := rfl
@[simp] theorem Ctx.setF_vprogCount (c : Ctx) (r : FReg) (w : Word) : (c.setF r w).vprogCount = c.vprogCount := rfl
@[simp] theorem Ctx.setF_vqcfg (c : Ctx) (r : FReg) (w : Word) : (c.setF r w).vqcfg = c.vqcfg := rfl
@[simp] theorem Ctx.setF_pblk (c : Ctx) (r : FReg) (w : Word) : (c.setF r w).pblk = c.pblk := rfl
@[simp] theorem Ctx.setF_mapitch (c : Ctx) (r : FReg) (w : Word) : (c.setF r w).mapitch = c.mapitch := rfl
@[simp] theorem Ctx.setF_mwpitch (c : Ctx) (r : FReg) (w : Word) : (c.setF r w).mwpitch = c.mwpitch := rfl
@[simp] theorem Ctx.setF_mzmap (c : Ctx) (r : FReg) (w : Word) : (c.setF r w).mzmap = c.mzmap := rfl
@[simp] theorem Ctx.setF_slip (c : Ctx) (r : FReg) (w : Word) : (c.setF r w).slip = c.slip := rfl
@[simp] theorem Ctx.setF_spused (c : Ctx) (r : FReg) (w : Word) : (c.setF r w).spused = c.spused := rfl
@[simp] theorem Ctx.setF_fsel (c : Ctx) (r : FReg) (w : Word) : (c.setF r w).fsel = c.fsel := rfl
@[simp] theorem Ctx.setF_fstat (c : Ctx) (r : FReg) (w : Word) : (c.setF r w).fstat = c.fstat := rfl
@[simp] theorem Ctx.setF_cycle (c : Ctx) (r : FReg) (w : Word) : (c.setF r w).cycle = c.cycle := rfl
@[simp] theorem Ctx.setF_instret (c : Ctx) (r : FReg) (w : Word) : (c.setF r w).instret = c.instret := rfl
@[simp] theorem Ctx.setF_gauge (c : Ctx) (r : FReg) (w : Word) : (c.setF r w).gauge = c.gauge := rfl
@[simp] theorem Ctx.setF_gaugest (c : Ctx) (r : FReg) (w : Word) : (c.setF r w).gaugest = c.gaugest := rfl
@[simp] theorem Ctx.setF_vecQ (c : Ctx) (r : FReg) (w : Word) : (c.setF r w).vecQ = c.vecQ := rfl
@[simp] theorem Ctx.setF_matQ (c : Ctx) (r : FReg) (w : Word) : (c.setF r w).matQ = c.matQ := rfl
@[simp] theorem Ctx.setF_copyQ (c : Ctx) (r : FReg) (w : Word) : (c.setF r w).copyQ = c.copyQ := rfl
@[simp] theorem Ctx.setF_copies (c : Ctx) (r : FReg) (w : Word) : (c.setF r w).copies = c.copies := rfl
@[simp] theorem Ctx.setF_pend (c : Ctx) (r : FReg) (w : Word) : (c.setF r w).pend = c.pend := rfl
@[simp] theorem Ctx.setF_trap (c : Ctx) (r : FReg) (w : Word) : (c.setF r w).trap = c.trap := rfl
@[simp] theorem Ctx.setF_skip (c : Ctx) (r : FReg) (w : Word) : (c.setF r w).skip = c.skip := rfl
@[simp] theorem Ctx.setF_resv (c : Ctx) (r : FReg) (w : Word) : (c.setF r w).resv = c.resv := rfl
@[simp] theorem Ctx.setF_relHalf (c : Ctx) (r : FReg) (w : Word) : (c.setF r w).relHalf = c.relHalf := rfl
@[simp] theorem Ctx.setF_relKnow (c : Ctx) (r : FReg) (w : Word) : (c.setF r w).relKnow = c.relKnow := rfl
@[simp] theorem Ctx.setF_openHalf (c : Ctx) (r : FReg) (w : Word) : (c.setF r w).openHalf = c.openHalf := rfl
@[simp] theorem Ctx.setF_reads (c : Ctx) (r : FReg) (w : Word) : (c.setF r w).reads = c.reads := rfl
@[simp] theorem Ctx.setF_fabReads (c : Ctx) (r : FReg) (w : Word) : (c.setF r w).fabReads = c.fabReads := rfl
@[simp] theorem Ctx.setF_request (c : Ctx) (r : FReg) (w : Word) : (c.setF r w).request = c.request := rfl
@[simp] theorem Ctx.setF_stepping (c : Ctx) (r : FReg) (w : Word) : (c.setF r w).stepping = c.stepping := rfl
@[simp] theorem Ctx.setF_saveCount (c : Ctx) (r : FReg) (w : Word) : (c.setF r w).saveCount = c.saveCount := rfl
@[simp] theorem Ctx.setF_keyInst (c : Ctx) (r : FReg) (w : Word) : (c.setF r w).keyInst = c.keyInst := rfl
@[simp] theorem Ctx.setF_nextSeq (c : Ctx) (r : FReg) (w : Word) : (c.setF r w).nextSeq = c.nextSeq := rfl
@[simp] theorem Ctx.setF_chargedAt (c : Ctx) (r : FReg) (w : Word) : (c.setF r w).chargedAt = c.chargedAt := rfl
@[simp] theorem Ctx.setF_reds (c : Ctx) (r : FReg) (w : Word) : (c.setF r w).reds = c.reds := rfl
@[simp] theorem Ctx.setF_vfab (c : Ctx) (r : FReg) (w : Word) : (c.setF r w).vfab = c.vfab := rfl
@[simp] theorem Ctx.setF_past (c : Ctx) (r : FReg) (w : Word) : (c.setF r w).past = c.past := rfl
@[simp] theorem Ctx.setF_loaded (c : Ctx) (r : FReg) (w : Word) : (c.setF r w).loaded = c.loaded := rfl
@[simp] theorem Ctx.setF_fabSaved (c : Ctx) (r : FReg) (w : Word) : (c.setF r w).fabSaved = c.fabSaved := rfl

@[simp] theorem Ctx.emptyX_image (c : Ctx) (r : XReg) : (c.emptyX r).image = c.image := by
  unfold Ctx.emptyX; split <;> rfl
@[simp] theorem Ctx.emptyX_vf (c : Ctx) (r : XReg) : (c.emptyX r).vf = c.vf := by
  unfold Ctx.emptyX; split <;> rfl
@[simp] theorem Ctx.emptyX_part (c : Ctx) (r : XReg) : (c.emptyX r).part = c.part := by
  unfold Ctx.emptyX; split <;> rfl
@[simp] theorem Ctx.emptyX_prot (c : Ctx) (r : XReg) : (c.emptyX r).prot = c.prot := by
  unfold Ctx.emptyX; split <;> rfl
@[simp] theorem Ctx.emptyX_node (c : Ctx) (r : XReg) : (c.emptyX r).node = c.node := by
  unfold Ctx.emptyX; split <;> rfl
@[simp] theorem Ctx.emptyX_life (c : Ctx) (r : XReg) : (c.emptyX r).life = c.life := by
  unfold Ctx.emptyX; split <;> rfl
@[simp] theorem Ctx.emptyX_core (c : Ctx) (r : XReg) : (c.emptyX r).core = c.core := by
  unfold Ctx.emptyX; split <;> rfl
@[simp] theorem Ctx.emptyX_lastCore (c : Ctx) (r : XReg) : (c.emptyX r).lastCore = c.lastCore := by
  unfold Ctx.emptyX; split <;> rfl
@[simp] theorem Ctx.emptyX_x (c : Ctx) (r : XReg) : (c.emptyX r).x = c.x := by
  unfold Ctx.emptyX; split <;> rfl
@[simp] theorem Ctx.emptyX_f (c : Ctx) (r : XReg) : (c.emptyX r).f = c.f := by
  unfold Ctx.emptyX; split <;> rfl
@[simp] theorem Ctx.emptyX_fFull (c : Ctx) (r : XReg) : (c.emptyX r).fFull = c.fFull := by
  unfold Ctx.emptyX; split <;> rfl
@[simp] theorem Ctx.emptyX_v (c : Ctx) (r : XReg) : (c.emptyX r).v = c.v := by
  unfold Ctx.emptyX; split <;> rfl
@[simp] theorem Ctx.emptyX_z (c : Ctx) (r : XReg) : (c.emptyX r).z = c.z := by
  unfold Ctx.emptyX; split <;> rfl
@[simp] theorem Ctx.emptyX_arr (c : Ctx) (r : XReg) : (c.emptyX r).arr = c.arr := by
  unfold Ctx.emptyX; split <;> rfl
@[simp] theorem Ctx.emptyX_b (c : Ctx) (r : XReg) : (c.emptyX r).b = c.b := by
  unfold Ctx.emptyX; split <;> rfl
@[simp] theorem Ctx.emptyX_slot0 (c : Ctx) (r : XReg) : (c.emptyX r).slot0 = c.slot0 := by
  unfold Ctx.emptyX; split <;> rfl
@[simp] theorem Ctx.emptyX_fixed (c : Ctx) (r : XReg) : (c.emptyX r).fixed = c.fixed := by
  unfold Ctx.emptyX; split <;> rfl
@[simp] theorem Ctx.emptyX_nS (c : Ctx) (r : XReg) : (c.emptyX r).nS = c.nS := by
  unfold Ctx.emptyX; split <;> rfl
@[simp] theorem Ctx.emptyX_nV (c : Ctx) (r : XReg) : (c.emptyX r).nV = c.nV := by
  unfold Ctx.emptyX; split <;> rfl
@[simp] theorem Ctx.emptyX_nM (c : Ctx) (r : XReg) : (c.emptyX r).nM = c.nM := by
  unfold Ctx.emptyX; split <;> rfl
@[simp] theorem Ctx.emptyX_nC (c : Ctx) (r : XReg) : (c.emptyX r).nC = c.nC := by
  unfold Ctx.emptyX; split <;> rfl
@[simp] theorem Ctx.emptyX_strip (c : Ctx) (r : XReg) : (c.emptyX r).strip = c.strip := by
  unfold Ctx.emptyX; split <;> rfl
@[simp] theorem Ctx.emptyX_fflags (c : Ctx) (r : XReg) : (c.emptyX r).fflags = c.fflags := by
  unfold Ctx.emptyX; split <;> rfl
@[simp] theorem Ctx.emptyX_frm (c : Ctx) (r : XReg) : (c.emptyX r).frm = c.frm := by
  unfold Ctx.emptyX; split <;> rfl
@[simp] theorem Ctx.emptyX_vdead (c : Ctx) (r : XReg) : (c.emptyX r).vdead = c.vdead := by
  unfold Ctx.emptyX; split <;> rfl
@[simp] theorem Ctx.emptyX_vbeg (c : Ctx) (r : XReg) : (c.emptyX r).vbeg = c.vbeg := by
  unfold Ctx.emptyX; split <;> rfl
@[simp] theorem Ctx.emptyX_vprog (c : Ctx) (r : XReg) : (c.emptyX r).vprog = c.vprog := by
  unfold Ctx.emptyX; split <;> rfl
@[simp] theorem Ctx.emptyX_vprogCount (c : Ctx) (r : XReg) : (c.emptyX r).vprogCount = c.vprogCount := by
  unfold Ctx.emptyX; split <;> rfl
@[simp] theorem Ctx.emptyX_vqcfg (c : Ctx) (r : XReg) : (c.emptyX r).vqcfg = c.vqcfg := by
  unfold Ctx.emptyX; split <;> rfl
@[simp] theorem Ctx.emptyX_pblk (c : Ctx) (r : XReg) : (c.emptyX r).pblk = c.pblk := by
  unfold Ctx.emptyX; split <;> rfl
@[simp] theorem Ctx.emptyX_mapitch (c : Ctx) (r : XReg) : (c.emptyX r).mapitch = c.mapitch := by
  unfold Ctx.emptyX; split <;> rfl
@[simp] theorem Ctx.emptyX_mwpitch (c : Ctx) (r : XReg) : (c.emptyX r).mwpitch = c.mwpitch := by
  unfold Ctx.emptyX; split <;> rfl
@[simp] theorem Ctx.emptyX_mzmap (c : Ctx) (r : XReg) : (c.emptyX r).mzmap = c.mzmap := by
  unfold Ctx.emptyX; split <;> rfl
@[simp] theorem Ctx.emptyX_slip (c : Ctx) (r : XReg) : (c.emptyX r).slip = c.slip := by
  unfold Ctx.emptyX; split <;> rfl
@[simp] theorem Ctx.emptyX_spused (c : Ctx) (r : XReg) : (c.emptyX r).spused = c.spused := by
  unfold Ctx.emptyX; split <;> rfl
@[simp] theorem Ctx.emptyX_fsel (c : Ctx) (r : XReg) : (c.emptyX r).fsel = c.fsel := by
  unfold Ctx.emptyX; split <;> rfl
@[simp] theorem Ctx.emptyX_fstat (c : Ctx) (r : XReg) : (c.emptyX r).fstat = c.fstat := by
  unfold Ctx.emptyX; split <;> rfl
@[simp] theorem Ctx.emptyX_cycle (c : Ctx) (r : XReg) : (c.emptyX r).cycle = c.cycle := by
  unfold Ctx.emptyX; split <;> rfl
@[simp] theorem Ctx.emptyX_instret (c : Ctx) (r : XReg) : (c.emptyX r).instret = c.instret := by
  unfold Ctx.emptyX; split <;> rfl
@[simp] theorem Ctx.emptyX_gauge (c : Ctx) (r : XReg) : (c.emptyX r).gauge = c.gauge := by
  unfold Ctx.emptyX; split <;> rfl
@[simp] theorem Ctx.emptyX_gaugest (c : Ctx) (r : XReg) : (c.emptyX r).gaugest = c.gaugest := by
  unfold Ctx.emptyX; split <;> rfl
@[simp] theorem Ctx.emptyX_vecQ (c : Ctx) (r : XReg) : (c.emptyX r).vecQ = c.vecQ := by
  unfold Ctx.emptyX; split <;> rfl
@[simp] theorem Ctx.emptyX_matQ (c : Ctx) (r : XReg) : (c.emptyX r).matQ = c.matQ := by
  unfold Ctx.emptyX; split <;> rfl
@[simp] theorem Ctx.emptyX_copyQ (c : Ctx) (r : XReg) : (c.emptyX r).copyQ = c.copyQ := by
  unfold Ctx.emptyX; split <;> rfl
@[simp] theorem Ctx.emptyX_copies (c : Ctx) (r : XReg) : (c.emptyX r).copies = c.copies := by
  unfold Ctx.emptyX; split <;> rfl
@[simp] theorem Ctx.emptyX_pend (c : Ctx) (r : XReg) : (c.emptyX r).pend = c.pend := by
  unfold Ctx.emptyX; split <;> rfl
@[simp] theorem Ctx.emptyX_trap (c : Ctx) (r : XReg) : (c.emptyX r).trap = c.trap := by
  unfold Ctx.emptyX; split <;> rfl
@[simp] theorem Ctx.emptyX_skip (c : Ctx) (r : XReg) : (c.emptyX r).skip = c.skip := by
  unfold Ctx.emptyX; split <;> rfl
@[simp] theorem Ctx.emptyX_resv (c : Ctx) (r : XReg) : (c.emptyX r).resv = c.resv := by
  unfold Ctx.emptyX; split <;> rfl
@[simp] theorem Ctx.emptyX_relHalf (c : Ctx) (r : XReg) : (c.emptyX r).relHalf = c.relHalf := by
  unfold Ctx.emptyX; split <;> rfl
@[simp] theorem Ctx.emptyX_relKnow (c : Ctx) (r : XReg) : (c.emptyX r).relKnow = c.relKnow := by
  unfold Ctx.emptyX; split <;> rfl
@[simp] theorem Ctx.emptyX_openHalf (c : Ctx) (r : XReg) : (c.emptyX r).openHalf = c.openHalf := by
  unfold Ctx.emptyX; split <;> rfl
@[simp] theorem Ctx.emptyX_reads (c : Ctx) (r : XReg) : (c.emptyX r).reads = c.reads := by
  unfold Ctx.emptyX; split <;> rfl
@[simp] theorem Ctx.emptyX_fabReads (c : Ctx) (r : XReg) : (c.emptyX r).fabReads = c.fabReads := by
  unfold Ctx.emptyX; split <;> rfl
@[simp] theorem Ctx.emptyX_request (c : Ctx) (r : XReg) : (c.emptyX r).request = c.request := by
  unfold Ctx.emptyX; split <;> rfl
@[simp] theorem Ctx.emptyX_stepping (c : Ctx) (r : XReg) : (c.emptyX r).stepping = c.stepping := by
  unfold Ctx.emptyX; split <;> rfl
@[simp] theorem Ctx.emptyX_saveCount (c : Ctx) (r : XReg) : (c.emptyX r).saveCount = c.saveCount := by
  unfold Ctx.emptyX; split <;> rfl
@[simp] theorem Ctx.emptyX_keyInst (c : Ctx) (r : XReg) : (c.emptyX r).keyInst = c.keyInst := by
  unfold Ctx.emptyX; split <;> rfl
@[simp] theorem Ctx.emptyX_nextSeq (c : Ctx) (r : XReg) : (c.emptyX r).nextSeq = c.nextSeq := by
  unfold Ctx.emptyX; split <;> rfl
@[simp] theorem Ctx.emptyX_chargedAt (c : Ctx) (r : XReg) : (c.emptyX r).chargedAt = c.chargedAt := by
  unfold Ctx.emptyX; split <;> rfl
@[simp] theorem Ctx.emptyX_reds (c : Ctx) (r : XReg) : (c.emptyX r).reds = c.reds := by
  unfold Ctx.emptyX; split <;> rfl
@[simp] theorem Ctx.emptyX_vfab (c : Ctx) (r : XReg) : (c.emptyX r).vfab = c.vfab := by
  unfold Ctx.emptyX; split <;> rfl
@[simp] theorem Ctx.emptyX_past (c : Ctx) (r : XReg) : (c.emptyX r).past = c.past := by
  unfold Ctx.emptyX; split <;> rfl
@[simp] theorem Ctx.emptyX_loaded (c : Ctx) (r : XReg) : (c.emptyX r).loaded = c.loaded := by
  unfold Ctx.emptyX; split <;> rfl
@[simp] theorem Ctx.emptyX_fabSaved (c : Ctx) (r : XReg) : (c.emptyX r).fabSaved = c.fabSaved := by
  unfold Ctx.emptyX; split <;> rfl

@[simp] theorem Ctx.emptyF_image (c : Ctx) (r : FReg) : (c.emptyF r).image = c.image := rfl
@[simp] theorem Ctx.emptyF_vf (c : Ctx) (r : FReg) : (c.emptyF r).vf = c.vf := rfl
@[simp] theorem Ctx.emptyF_part (c : Ctx) (r : FReg) : (c.emptyF r).part = c.part := rfl
@[simp] theorem Ctx.emptyF_prot (c : Ctx) (r : FReg) : (c.emptyF r).prot = c.prot := rfl
@[simp] theorem Ctx.emptyF_node (c : Ctx) (r : FReg) : (c.emptyF r).node = c.node := rfl
@[simp] theorem Ctx.emptyF_life (c : Ctx) (r : FReg) : (c.emptyF r).life = c.life := rfl
@[simp] theorem Ctx.emptyF_core (c : Ctx) (r : FReg) : (c.emptyF r).core = c.core := rfl
@[simp] theorem Ctx.emptyF_lastCore (c : Ctx) (r : FReg) : (c.emptyF r).lastCore = c.lastCore := rfl
@[simp] theorem Ctx.emptyF_x (c : Ctx) (r : FReg) : (c.emptyF r).x = c.x := rfl
@[simp] theorem Ctx.emptyF_f (c : Ctx) (r : FReg) : (c.emptyF r).f = c.f := rfl
@[simp] theorem Ctx.emptyF_xFull (c : Ctx) (r : FReg) : (c.emptyF r).xFull = c.xFull := rfl
@[simp] theorem Ctx.emptyF_v (c : Ctx) (r : FReg) : (c.emptyF r).v = c.v := rfl
@[simp] theorem Ctx.emptyF_z (c : Ctx) (r : FReg) : (c.emptyF r).z = c.z := rfl
@[simp] theorem Ctx.emptyF_arr (c : Ctx) (r : FReg) : (c.emptyF r).arr = c.arr := rfl
@[simp] theorem Ctx.emptyF_b (c : Ctx) (r : FReg) : (c.emptyF r).b = c.b := rfl
@[simp] theorem Ctx.emptyF_slot0 (c : Ctx) (r : FReg) : (c.emptyF r).slot0 = c.slot0 := rfl
@[simp] theorem Ctx.emptyF_fixed (c : Ctx) (r : FReg) : (c.emptyF r).fixed = c.fixed := rfl
@[simp] theorem Ctx.emptyF_nS (c : Ctx) (r : FReg) : (c.emptyF r).nS = c.nS := rfl
@[simp] theorem Ctx.emptyF_nV (c : Ctx) (r : FReg) : (c.emptyF r).nV = c.nV := rfl
@[simp] theorem Ctx.emptyF_nM (c : Ctx) (r : FReg) : (c.emptyF r).nM = c.nM := rfl
@[simp] theorem Ctx.emptyF_nC (c : Ctx) (r : FReg) : (c.emptyF r).nC = c.nC := rfl
@[simp] theorem Ctx.emptyF_strip (c : Ctx) (r : FReg) : (c.emptyF r).strip = c.strip := rfl
@[simp] theorem Ctx.emptyF_fflags (c : Ctx) (r : FReg) : (c.emptyF r).fflags = c.fflags := rfl
@[simp] theorem Ctx.emptyF_frm (c : Ctx) (r : FReg) : (c.emptyF r).frm = c.frm := rfl
@[simp] theorem Ctx.emptyF_vdead (c : Ctx) (r : FReg) : (c.emptyF r).vdead = c.vdead := rfl
@[simp] theorem Ctx.emptyF_vbeg (c : Ctx) (r : FReg) : (c.emptyF r).vbeg = c.vbeg := rfl
@[simp] theorem Ctx.emptyF_vprog (c : Ctx) (r : FReg) : (c.emptyF r).vprog = c.vprog := rfl
@[simp] theorem Ctx.emptyF_vprogCount (c : Ctx) (r : FReg) : (c.emptyF r).vprogCount = c.vprogCount := rfl
@[simp] theorem Ctx.emptyF_vqcfg (c : Ctx) (r : FReg) : (c.emptyF r).vqcfg = c.vqcfg := rfl
@[simp] theorem Ctx.emptyF_pblk (c : Ctx) (r : FReg) : (c.emptyF r).pblk = c.pblk := rfl
@[simp] theorem Ctx.emptyF_mapitch (c : Ctx) (r : FReg) : (c.emptyF r).mapitch = c.mapitch := rfl
@[simp] theorem Ctx.emptyF_mwpitch (c : Ctx) (r : FReg) : (c.emptyF r).mwpitch = c.mwpitch := rfl
@[simp] theorem Ctx.emptyF_mzmap (c : Ctx) (r : FReg) : (c.emptyF r).mzmap = c.mzmap := rfl
@[simp] theorem Ctx.emptyF_slip (c : Ctx) (r : FReg) : (c.emptyF r).slip = c.slip := rfl
@[simp] theorem Ctx.emptyF_spused (c : Ctx) (r : FReg) : (c.emptyF r).spused = c.spused := rfl
@[simp] theorem Ctx.emptyF_fsel (c : Ctx) (r : FReg) : (c.emptyF r).fsel = c.fsel := rfl
@[simp] theorem Ctx.emptyF_fstat (c : Ctx) (r : FReg) : (c.emptyF r).fstat = c.fstat := rfl
@[simp] theorem Ctx.emptyF_cycle (c : Ctx) (r : FReg) : (c.emptyF r).cycle = c.cycle := rfl
@[simp] theorem Ctx.emptyF_instret (c : Ctx) (r : FReg) : (c.emptyF r).instret = c.instret := rfl
@[simp] theorem Ctx.emptyF_gauge (c : Ctx) (r : FReg) : (c.emptyF r).gauge = c.gauge := rfl
@[simp] theorem Ctx.emptyF_gaugest (c : Ctx) (r : FReg) : (c.emptyF r).gaugest = c.gaugest := rfl
@[simp] theorem Ctx.emptyF_vecQ (c : Ctx) (r : FReg) : (c.emptyF r).vecQ = c.vecQ := rfl
@[simp] theorem Ctx.emptyF_matQ (c : Ctx) (r : FReg) : (c.emptyF r).matQ = c.matQ := rfl
@[simp] theorem Ctx.emptyF_copyQ (c : Ctx) (r : FReg) : (c.emptyF r).copyQ = c.copyQ := rfl
@[simp] theorem Ctx.emptyF_copies (c : Ctx) (r : FReg) : (c.emptyF r).copies = c.copies := rfl
@[simp] theorem Ctx.emptyF_pend (c : Ctx) (r : FReg) : (c.emptyF r).pend = c.pend := rfl
@[simp] theorem Ctx.emptyF_trap (c : Ctx) (r : FReg) : (c.emptyF r).trap = c.trap := rfl
@[simp] theorem Ctx.emptyF_skip (c : Ctx) (r : FReg) : (c.emptyF r).skip = c.skip := rfl
@[simp] theorem Ctx.emptyF_resv (c : Ctx) (r : FReg) : (c.emptyF r).resv = c.resv := rfl
@[simp] theorem Ctx.emptyF_relHalf (c : Ctx) (r : FReg) : (c.emptyF r).relHalf = c.relHalf := rfl
@[simp] theorem Ctx.emptyF_relKnow (c : Ctx) (r : FReg) : (c.emptyF r).relKnow = c.relKnow := rfl
@[simp] theorem Ctx.emptyF_openHalf (c : Ctx) (r : FReg) : (c.emptyF r).openHalf = c.openHalf := rfl
@[simp] theorem Ctx.emptyF_reads (c : Ctx) (r : FReg) : (c.emptyF r).reads = c.reads := rfl
@[simp] theorem Ctx.emptyF_fabReads (c : Ctx) (r : FReg) : (c.emptyF r).fabReads = c.fabReads := rfl
@[simp] theorem Ctx.emptyF_request (c : Ctx) (r : FReg) : (c.emptyF r).request = c.request := rfl
@[simp] theorem Ctx.emptyF_stepping (c : Ctx) (r : FReg) : (c.emptyF r).stepping = c.stepping := rfl
@[simp] theorem Ctx.emptyF_saveCount (c : Ctx) (r : FReg) : (c.emptyF r).saveCount = c.saveCount := rfl
@[simp] theorem Ctx.emptyF_keyInst (c : Ctx) (r : FReg) : (c.emptyF r).keyInst = c.keyInst := rfl
@[simp] theorem Ctx.emptyF_nextSeq (c : Ctx) (r : FReg) : (c.emptyF r).nextSeq = c.nextSeq := rfl
@[simp] theorem Ctx.emptyF_chargedAt (c : Ctx) (r : FReg) : (c.emptyF r).chargedAt = c.chargedAt := rfl
@[simp] theorem Ctx.emptyF_reds (c : Ctx) (r : FReg) : (c.emptyF r).reds = c.reds := rfl
@[simp] theorem Ctx.emptyF_vfab (c : Ctx) (r : FReg) : (c.emptyF r).vfab = c.vfab := rfl
@[simp] theorem Ctx.emptyF_past (c : Ctx) (r : FReg) : (c.emptyF r).past = c.past := rfl
@[simp] theorem Ctx.emptyF_loaded (c : Ctx) (r : FReg) : (c.emptyF r).loaded = c.loaded := rfl
@[simp] theorem Ctx.emptyF_fabSaved (c : Ctx) (r : FReg) : (c.emptyF r).fabSaved = c.fabSaved := rfl

@[simp] theorem Ctx.setV_image (c : Ctx) (r : VReg) (a : VecReg) : (c.setV r a).image = c.image := rfl
@[simp] theorem Ctx.setV_vf (c : Ctx) (r : VReg) (a : VecReg) : (c.setV r a).vf = c.vf := rfl
@[simp] theorem Ctx.setV_part (c : Ctx) (r : VReg) (a : VecReg) : (c.setV r a).part = c.part := rfl
@[simp] theorem Ctx.setV_prot (c : Ctx) (r : VReg) (a : VecReg) : (c.setV r a).prot = c.prot := rfl
@[simp] theorem Ctx.setV_node (c : Ctx) (r : VReg) (a : VecReg) : (c.setV r a).node = c.node := rfl
@[simp] theorem Ctx.setV_life (c : Ctx) (r : VReg) (a : VecReg) : (c.setV r a).life = c.life := rfl
@[simp] theorem Ctx.setV_core (c : Ctx) (r : VReg) (a : VecReg) : (c.setV r a).core = c.core := rfl
@[simp] theorem Ctx.setV_lastCore (c : Ctx) (r : VReg) (a : VecReg) : (c.setV r a).lastCore = c.lastCore := rfl
@[simp] theorem Ctx.setV_x (c : Ctx) (r : VReg) (a : VecReg) : (c.setV r a).x = c.x := rfl
@[simp] theorem Ctx.setV_f (c : Ctx) (r : VReg) (a : VecReg) : (c.setV r a).f = c.f := rfl
@[simp] theorem Ctx.setV_xFull (c : Ctx) (r : VReg) (a : VecReg) : (c.setV r a).xFull = c.xFull := rfl
@[simp] theorem Ctx.setV_fFull (c : Ctx) (r : VReg) (a : VecReg) : (c.setV r a).fFull = c.fFull := rfl
@[simp] theorem Ctx.setV_z (c : Ctx) (r : VReg) (a : VecReg) : (c.setV r a).z = c.z := rfl
@[simp] theorem Ctx.setV_arr (c : Ctx) (r : VReg) (a : VecReg) : (c.setV r a).arr = c.arr := rfl
@[simp] theorem Ctx.setV_b (c : Ctx) (r : VReg) (a : VecReg) : (c.setV r a).b = c.b := rfl
@[simp] theorem Ctx.setV_slot0 (c : Ctx) (r : VReg) (a : VecReg) : (c.setV r a).slot0 = c.slot0 := rfl
@[simp] theorem Ctx.setV_fixed (c : Ctx) (r : VReg) (a : VecReg) : (c.setV r a).fixed = c.fixed := rfl
@[simp] theorem Ctx.setV_nS (c : Ctx) (r : VReg) (a : VecReg) : (c.setV r a).nS = c.nS := rfl
@[simp] theorem Ctx.setV_nV (c : Ctx) (r : VReg) (a : VecReg) : (c.setV r a).nV = c.nV := rfl
@[simp] theorem Ctx.setV_nM (c : Ctx) (r : VReg) (a : VecReg) : (c.setV r a).nM = c.nM := rfl
@[simp] theorem Ctx.setV_nC (c : Ctx) (r : VReg) (a : VecReg) : (c.setV r a).nC = c.nC := rfl
@[simp] theorem Ctx.setV_strip (c : Ctx) (r : VReg) (a : VecReg) : (c.setV r a).strip = c.strip := rfl
@[simp] theorem Ctx.setV_fflags (c : Ctx) (r : VReg) (a : VecReg) : (c.setV r a).fflags = c.fflags := rfl
@[simp] theorem Ctx.setV_frm (c : Ctx) (r : VReg) (a : VecReg) : (c.setV r a).frm = c.frm := rfl
@[simp] theorem Ctx.setV_vdead (c : Ctx) (r : VReg) (a : VecReg) : (c.setV r a).vdead = c.vdead := rfl
@[simp] theorem Ctx.setV_vbeg (c : Ctx) (r : VReg) (a : VecReg) : (c.setV r a).vbeg = c.vbeg := rfl
@[simp] theorem Ctx.setV_vprog (c : Ctx) (r : VReg) (a : VecReg) : (c.setV r a).vprog = c.vprog := rfl
@[simp] theorem Ctx.setV_vprogCount (c : Ctx) (r : VReg) (a : VecReg) : (c.setV r a).vprogCount = c.vprogCount := rfl
@[simp] theorem Ctx.setV_vqcfg (c : Ctx) (r : VReg) (a : VecReg) : (c.setV r a).vqcfg = c.vqcfg := rfl
@[simp] theorem Ctx.setV_pblk (c : Ctx) (r : VReg) (a : VecReg) : (c.setV r a).pblk = c.pblk := rfl
@[simp] theorem Ctx.setV_mapitch (c : Ctx) (r : VReg) (a : VecReg) : (c.setV r a).mapitch = c.mapitch := rfl
@[simp] theorem Ctx.setV_mwpitch (c : Ctx) (r : VReg) (a : VecReg) : (c.setV r a).mwpitch = c.mwpitch := rfl
@[simp] theorem Ctx.setV_mzmap (c : Ctx) (r : VReg) (a : VecReg) : (c.setV r a).mzmap = c.mzmap := rfl
@[simp] theorem Ctx.setV_slip (c : Ctx) (r : VReg) (a : VecReg) : (c.setV r a).slip = c.slip := rfl
@[simp] theorem Ctx.setV_spused (c : Ctx) (r : VReg) (a : VecReg) : (c.setV r a).spused = c.spused := rfl
@[simp] theorem Ctx.setV_fsel (c : Ctx) (r : VReg) (a : VecReg) : (c.setV r a).fsel = c.fsel := rfl
@[simp] theorem Ctx.setV_fstat (c : Ctx) (r : VReg) (a : VecReg) : (c.setV r a).fstat = c.fstat := rfl
@[simp] theorem Ctx.setV_cycle (c : Ctx) (r : VReg) (a : VecReg) : (c.setV r a).cycle = c.cycle := rfl
@[simp] theorem Ctx.setV_instret (c : Ctx) (r : VReg) (a : VecReg) : (c.setV r a).instret = c.instret := rfl
@[simp] theorem Ctx.setV_gauge (c : Ctx) (r : VReg) (a : VecReg) : (c.setV r a).gauge = c.gauge := rfl
@[simp] theorem Ctx.setV_gaugest (c : Ctx) (r : VReg) (a : VecReg) : (c.setV r a).gaugest = c.gaugest := rfl
@[simp] theorem Ctx.setV_vecQ (c : Ctx) (r : VReg) (a : VecReg) : (c.setV r a).vecQ = c.vecQ := rfl
@[simp] theorem Ctx.setV_matQ (c : Ctx) (r : VReg) (a : VecReg) : (c.setV r a).matQ = c.matQ := rfl
@[simp] theorem Ctx.setV_copyQ (c : Ctx) (r : VReg) (a : VecReg) : (c.setV r a).copyQ = c.copyQ := rfl
@[simp] theorem Ctx.setV_copies (c : Ctx) (r : VReg) (a : VecReg) : (c.setV r a).copies = c.copies := rfl
@[simp] theorem Ctx.setV_pend (c : Ctx) (r : VReg) (a : VecReg) : (c.setV r a).pend = c.pend := rfl
@[simp] theorem Ctx.setV_trap (c : Ctx) (r : VReg) (a : VecReg) : (c.setV r a).trap = c.trap := rfl
@[simp] theorem Ctx.setV_skip (c : Ctx) (r : VReg) (a : VecReg) : (c.setV r a).skip = c.skip := rfl
@[simp] theorem Ctx.setV_resv (c : Ctx) (r : VReg) (a : VecReg) : (c.setV r a).resv = c.resv := rfl
@[simp] theorem Ctx.setV_relHalf (c : Ctx) (r : VReg) (a : VecReg) : (c.setV r a).relHalf = c.relHalf := rfl
@[simp] theorem Ctx.setV_relKnow (c : Ctx) (r : VReg) (a : VecReg) : (c.setV r a).relKnow = c.relKnow := rfl
@[simp] theorem Ctx.setV_openHalf (c : Ctx) (r : VReg) (a : VecReg) : (c.setV r a).openHalf = c.openHalf := rfl
@[simp] theorem Ctx.setV_reads (c : Ctx) (r : VReg) (a : VecReg) : (c.setV r a).reads = c.reads := rfl
@[simp] theorem Ctx.setV_fabReads (c : Ctx) (r : VReg) (a : VecReg) : (c.setV r a).fabReads = c.fabReads := rfl
@[simp] theorem Ctx.setV_request (c : Ctx) (r : VReg) (a : VecReg) : (c.setV r a).request = c.request := rfl
@[simp] theorem Ctx.setV_stepping (c : Ctx) (r : VReg) (a : VecReg) : (c.setV r a).stepping = c.stepping := rfl
@[simp] theorem Ctx.setV_saveCount (c : Ctx) (r : VReg) (a : VecReg) : (c.setV r a).saveCount = c.saveCount := rfl
@[simp] theorem Ctx.setV_keyInst (c : Ctx) (r : VReg) (a : VecReg) : (c.setV r a).keyInst = c.keyInst := rfl
@[simp] theorem Ctx.setV_nextSeq (c : Ctx) (r : VReg) (a : VecReg) : (c.setV r a).nextSeq = c.nextSeq := rfl
@[simp] theorem Ctx.setV_chargedAt (c : Ctx) (r : VReg) (a : VecReg) : (c.setV r a).chargedAt = c.chargedAt := rfl
@[simp] theorem Ctx.setV_reds (c : Ctx) (r : VReg) (a : VecReg) : (c.setV r a).reds = c.reds := rfl
@[simp] theorem Ctx.setV_vfab (c : Ctx) (r : VReg) (a : VecReg) : (c.setV r a).vfab = c.vfab := rfl
@[simp] theorem Ctx.setV_past (c : Ctx) (r : VReg) (a : VecReg) : (c.setV r a).past = c.past := rfl
@[simp] theorem Ctx.setV_loaded (c : Ctx) (r : VReg) (a : VecReg) : (c.setV r a).loaded = c.loaded := rfl
@[simp] theorem Ctx.setV_fabSaved (c : Ctx) (r : VReg) (a : VecReg) : (c.setV r a).fabSaved = c.fabSaved := rfl

@[simp] theorem Ctx.setZ_image (c : Ctx) (r : ZReg) (a : Tile) : (c.setZ r a).image = c.image := rfl
@[simp] theorem Ctx.setZ_vf (c : Ctx) (r : ZReg) (a : Tile) : (c.setZ r a).vf = c.vf := rfl
@[simp] theorem Ctx.setZ_part (c : Ctx) (r : ZReg) (a : Tile) : (c.setZ r a).part = c.part := rfl
@[simp] theorem Ctx.setZ_prot (c : Ctx) (r : ZReg) (a : Tile) : (c.setZ r a).prot = c.prot := rfl
@[simp] theorem Ctx.setZ_node (c : Ctx) (r : ZReg) (a : Tile) : (c.setZ r a).node = c.node := rfl
@[simp] theorem Ctx.setZ_life (c : Ctx) (r : ZReg) (a : Tile) : (c.setZ r a).life = c.life := rfl
@[simp] theorem Ctx.setZ_core (c : Ctx) (r : ZReg) (a : Tile) : (c.setZ r a).core = c.core := rfl
@[simp] theorem Ctx.setZ_lastCore (c : Ctx) (r : ZReg) (a : Tile) : (c.setZ r a).lastCore = c.lastCore := rfl
@[simp] theorem Ctx.setZ_x (c : Ctx) (r : ZReg) (a : Tile) : (c.setZ r a).x = c.x := rfl
@[simp] theorem Ctx.setZ_f (c : Ctx) (r : ZReg) (a : Tile) : (c.setZ r a).f = c.f := rfl
@[simp] theorem Ctx.setZ_xFull (c : Ctx) (r : ZReg) (a : Tile) : (c.setZ r a).xFull = c.xFull := rfl
@[simp] theorem Ctx.setZ_fFull (c : Ctx) (r : ZReg) (a : Tile) : (c.setZ r a).fFull = c.fFull := rfl
@[simp] theorem Ctx.setZ_v (c : Ctx) (r : ZReg) (a : Tile) : (c.setZ r a).v = c.v := rfl
@[simp] theorem Ctx.setZ_arr (c : Ctx) (r : ZReg) (a : Tile) : (c.setZ r a).arr = c.arr := rfl
@[simp] theorem Ctx.setZ_b (c : Ctx) (r : ZReg) (a : Tile) : (c.setZ r a).b = c.b := rfl
@[simp] theorem Ctx.setZ_slot0 (c : Ctx) (r : ZReg) (a : Tile) : (c.setZ r a).slot0 = c.slot0 := rfl
@[simp] theorem Ctx.setZ_fixed (c : Ctx) (r : ZReg) (a : Tile) : (c.setZ r a).fixed = c.fixed := rfl
@[simp] theorem Ctx.setZ_nS (c : Ctx) (r : ZReg) (a : Tile) : (c.setZ r a).nS = c.nS := rfl
@[simp] theorem Ctx.setZ_nV (c : Ctx) (r : ZReg) (a : Tile) : (c.setZ r a).nV = c.nV := rfl
@[simp] theorem Ctx.setZ_nM (c : Ctx) (r : ZReg) (a : Tile) : (c.setZ r a).nM = c.nM := rfl
@[simp] theorem Ctx.setZ_nC (c : Ctx) (r : ZReg) (a : Tile) : (c.setZ r a).nC = c.nC := rfl
@[simp] theorem Ctx.setZ_strip (c : Ctx) (r : ZReg) (a : Tile) : (c.setZ r a).strip = c.strip := rfl
@[simp] theorem Ctx.setZ_fflags (c : Ctx) (r : ZReg) (a : Tile) : (c.setZ r a).fflags = c.fflags := rfl
@[simp] theorem Ctx.setZ_frm (c : Ctx) (r : ZReg) (a : Tile) : (c.setZ r a).frm = c.frm := rfl
@[simp] theorem Ctx.setZ_vdead (c : Ctx) (r : ZReg) (a : Tile) : (c.setZ r a).vdead = c.vdead := rfl
@[simp] theorem Ctx.setZ_vbeg (c : Ctx) (r : ZReg) (a : Tile) : (c.setZ r a).vbeg = c.vbeg := rfl
@[simp] theorem Ctx.setZ_vprog (c : Ctx) (r : ZReg) (a : Tile) : (c.setZ r a).vprog = c.vprog := rfl
@[simp] theorem Ctx.setZ_vprogCount (c : Ctx) (r : ZReg) (a : Tile) : (c.setZ r a).vprogCount = c.vprogCount := rfl
@[simp] theorem Ctx.setZ_vqcfg (c : Ctx) (r : ZReg) (a : Tile) : (c.setZ r a).vqcfg = c.vqcfg := rfl
@[simp] theorem Ctx.setZ_pblk (c : Ctx) (r : ZReg) (a : Tile) : (c.setZ r a).pblk = c.pblk := rfl
@[simp] theorem Ctx.setZ_mapitch (c : Ctx) (r : ZReg) (a : Tile) : (c.setZ r a).mapitch = c.mapitch := rfl
@[simp] theorem Ctx.setZ_mwpitch (c : Ctx) (r : ZReg) (a : Tile) : (c.setZ r a).mwpitch = c.mwpitch := rfl
@[simp] theorem Ctx.setZ_mzmap (c : Ctx) (r : ZReg) (a : Tile) : (c.setZ r a).mzmap = c.mzmap := rfl
@[simp] theorem Ctx.setZ_slip (c : Ctx) (r : ZReg) (a : Tile) : (c.setZ r a).slip = c.slip := rfl
@[simp] theorem Ctx.setZ_spused (c : Ctx) (r : ZReg) (a : Tile) : (c.setZ r a).spused = c.spused := rfl
@[simp] theorem Ctx.setZ_fsel (c : Ctx) (r : ZReg) (a : Tile) : (c.setZ r a).fsel = c.fsel := rfl
@[simp] theorem Ctx.setZ_fstat (c : Ctx) (r : ZReg) (a : Tile) : (c.setZ r a).fstat = c.fstat := rfl
@[simp] theorem Ctx.setZ_cycle (c : Ctx) (r : ZReg) (a : Tile) : (c.setZ r a).cycle = c.cycle := rfl
@[simp] theorem Ctx.setZ_instret (c : Ctx) (r : ZReg) (a : Tile) : (c.setZ r a).instret = c.instret := rfl
@[simp] theorem Ctx.setZ_gauge (c : Ctx) (r : ZReg) (a : Tile) : (c.setZ r a).gauge = c.gauge := rfl
@[simp] theorem Ctx.setZ_gaugest (c : Ctx) (r : ZReg) (a : Tile) : (c.setZ r a).gaugest = c.gaugest := rfl
@[simp] theorem Ctx.setZ_vecQ (c : Ctx) (r : ZReg) (a : Tile) : (c.setZ r a).vecQ = c.vecQ := rfl
@[simp] theorem Ctx.setZ_matQ (c : Ctx) (r : ZReg) (a : Tile) : (c.setZ r a).matQ = c.matQ := rfl
@[simp] theorem Ctx.setZ_copyQ (c : Ctx) (r : ZReg) (a : Tile) : (c.setZ r a).copyQ = c.copyQ := rfl
@[simp] theorem Ctx.setZ_copies (c : Ctx) (r : ZReg) (a : Tile) : (c.setZ r a).copies = c.copies := rfl
@[simp] theorem Ctx.setZ_pend (c : Ctx) (r : ZReg) (a : Tile) : (c.setZ r a).pend = c.pend := rfl
@[simp] theorem Ctx.setZ_trap (c : Ctx) (r : ZReg) (a : Tile) : (c.setZ r a).trap = c.trap := rfl
@[simp] theorem Ctx.setZ_skip (c : Ctx) (r : ZReg) (a : Tile) : (c.setZ r a).skip = c.skip := rfl
@[simp] theorem Ctx.setZ_resv (c : Ctx) (r : ZReg) (a : Tile) : (c.setZ r a).resv = c.resv := rfl
@[simp] theorem Ctx.setZ_relHalf (c : Ctx) (r : ZReg) (a : Tile) : (c.setZ r a).relHalf = c.relHalf := rfl
@[simp] theorem Ctx.setZ_relKnow (c : Ctx) (r : ZReg) (a : Tile) : (c.setZ r a).relKnow = c.relKnow := rfl
@[simp] theorem Ctx.setZ_openHalf (c : Ctx) (r : ZReg) (a : Tile) : (c.setZ r a).openHalf = c.openHalf := rfl
@[simp] theorem Ctx.setZ_reads (c : Ctx) (r : ZReg) (a : Tile) : (c.setZ r a).reads = c.reads := rfl
@[simp] theorem Ctx.setZ_fabReads (c : Ctx) (r : ZReg) (a : Tile) : (c.setZ r a).fabReads = c.fabReads := rfl
@[simp] theorem Ctx.setZ_request (c : Ctx) (r : ZReg) (a : Tile) : (c.setZ r a).request = c.request := rfl
@[simp] theorem Ctx.setZ_stepping (c : Ctx) (r : ZReg) (a : Tile) : (c.setZ r a).stepping = c.stepping := rfl
@[simp] theorem Ctx.setZ_saveCount (c : Ctx) (r : ZReg) (a : Tile) : (c.setZ r a).saveCount = c.saveCount := rfl
@[simp] theorem Ctx.setZ_keyInst (c : Ctx) (r : ZReg) (a : Tile) : (c.setZ r a).keyInst = c.keyInst := rfl
@[simp] theorem Ctx.setZ_nextSeq (c : Ctx) (r : ZReg) (a : Tile) : (c.setZ r a).nextSeq = c.nextSeq := rfl
@[simp] theorem Ctx.setZ_chargedAt (c : Ctx) (r : ZReg) (a : Tile) : (c.setZ r a).chargedAt = c.chargedAt := rfl
@[simp] theorem Ctx.setZ_reds (c : Ctx) (r : ZReg) (a : Tile) : (c.setZ r a).reds = c.reds := rfl
@[simp] theorem Ctx.setZ_vfab (c : Ctx) (r : ZReg) (a : Tile) : (c.setZ r a).vfab = c.vfab := rfl
@[simp] theorem Ctx.setZ_past (c : Ctx) (r : ZReg) (a : Tile) : (c.setZ r a).past = c.past := rfl
@[simp] theorem Ctx.setZ_loaded (c : Ctx) (r : ZReg) (a : Tile) : (c.setZ r a).loaded = c.loaded := rfl
@[simp] theorem Ctx.setZ_fabSaved (c : Ctx) (r : ZReg) (a : Tile) : (c.setZ r a).fabSaved = c.fabSaved := rfl

@[simp] theorem Ctx.setB_image (c : Ctx) (r : BReg) (a : Option Seat) : (c.setB r a).image = c.image := rfl
@[simp] theorem Ctx.setB_vf (c : Ctx) (r : BReg) (a : Option Seat) : (c.setB r a).vf = c.vf := rfl
@[simp] theorem Ctx.setB_part (c : Ctx) (r : BReg) (a : Option Seat) : (c.setB r a).part = c.part := rfl
@[simp] theorem Ctx.setB_prot (c : Ctx) (r : BReg) (a : Option Seat) : (c.setB r a).prot = c.prot := rfl
@[simp] theorem Ctx.setB_node (c : Ctx) (r : BReg) (a : Option Seat) : (c.setB r a).node = c.node := rfl
@[simp] theorem Ctx.setB_life (c : Ctx) (r : BReg) (a : Option Seat) : (c.setB r a).life = c.life := rfl
@[simp] theorem Ctx.setB_core (c : Ctx) (r : BReg) (a : Option Seat) : (c.setB r a).core = c.core := rfl
@[simp] theorem Ctx.setB_lastCore (c : Ctx) (r : BReg) (a : Option Seat) : (c.setB r a).lastCore = c.lastCore := rfl
@[simp] theorem Ctx.setB_x (c : Ctx) (r : BReg) (a : Option Seat) : (c.setB r a).x = c.x := rfl
@[simp] theorem Ctx.setB_f (c : Ctx) (r : BReg) (a : Option Seat) : (c.setB r a).f = c.f := rfl
@[simp] theorem Ctx.setB_xFull (c : Ctx) (r : BReg) (a : Option Seat) : (c.setB r a).xFull = c.xFull := rfl
@[simp] theorem Ctx.setB_fFull (c : Ctx) (r : BReg) (a : Option Seat) : (c.setB r a).fFull = c.fFull := rfl
@[simp] theorem Ctx.setB_v (c : Ctx) (r : BReg) (a : Option Seat) : (c.setB r a).v = c.v := rfl
@[simp] theorem Ctx.setB_z (c : Ctx) (r : BReg) (a : Option Seat) : (c.setB r a).z = c.z := rfl
@[simp] theorem Ctx.setB_arr (c : Ctx) (r : BReg) (a : Option Seat) : (c.setB r a).arr = c.arr := rfl
@[simp] theorem Ctx.setB_slot0 (c : Ctx) (r : BReg) (a : Option Seat) : (c.setB r a).slot0 = c.slot0 := rfl
@[simp] theorem Ctx.setB_fixed (c : Ctx) (r : BReg) (a : Option Seat) : (c.setB r a).fixed = c.fixed := rfl
@[simp] theorem Ctx.setB_nS (c : Ctx) (r : BReg) (a : Option Seat) : (c.setB r a).nS = c.nS := rfl
@[simp] theorem Ctx.setB_nV (c : Ctx) (r : BReg) (a : Option Seat) : (c.setB r a).nV = c.nV := rfl
@[simp] theorem Ctx.setB_nM (c : Ctx) (r : BReg) (a : Option Seat) : (c.setB r a).nM = c.nM := rfl
@[simp] theorem Ctx.setB_nC (c : Ctx) (r : BReg) (a : Option Seat) : (c.setB r a).nC = c.nC := rfl
@[simp] theorem Ctx.setB_strip (c : Ctx) (r : BReg) (a : Option Seat) : (c.setB r a).strip = c.strip := rfl
@[simp] theorem Ctx.setB_fflags (c : Ctx) (r : BReg) (a : Option Seat) : (c.setB r a).fflags = c.fflags := rfl
@[simp] theorem Ctx.setB_frm (c : Ctx) (r : BReg) (a : Option Seat) : (c.setB r a).frm = c.frm := rfl
@[simp] theorem Ctx.setB_vdead (c : Ctx) (r : BReg) (a : Option Seat) : (c.setB r a).vdead = c.vdead := rfl
@[simp] theorem Ctx.setB_vbeg (c : Ctx) (r : BReg) (a : Option Seat) : (c.setB r a).vbeg = c.vbeg := rfl
@[simp] theorem Ctx.setB_vprog (c : Ctx) (r : BReg) (a : Option Seat) : (c.setB r a).vprog = c.vprog := rfl
@[simp] theorem Ctx.setB_vprogCount (c : Ctx) (r : BReg) (a : Option Seat) : (c.setB r a).vprogCount = c.vprogCount := rfl
@[simp] theorem Ctx.setB_vqcfg (c : Ctx) (r : BReg) (a : Option Seat) : (c.setB r a).vqcfg = c.vqcfg := rfl
@[simp] theorem Ctx.setB_pblk (c : Ctx) (r : BReg) (a : Option Seat) : (c.setB r a).pblk = c.pblk := rfl
@[simp] theorem Ctx.setB_mapitch (c : Ctx) (r : BReg) (a : Option Seat) : (c.setB r a).mapitch = c.mapitch := rfl
@[simp] theorem Ctx.setB_mwpitch (c : Ctx) (r : BReg) (a : Option Seat) : (c.setB r a).mwpitch = c.mwpitch := rfl
@[simp] theorem Ctx.setB_mzmap (c : Ctx) (r : BReg) (a : Option Seat) : (c.setB r a).mzmap = c.mzmap := rfl
@[simp] theorem Ctx.setB_slip (c : Ctx) (r : BReg) (a : Option Seat) : (c.setB r a).slip = c.slip := rfl
@[simp] theorem Ctx.setB_spused (c : Ctx) (r : BReg) (a : Option Seat) : (c.setB r a).spused = c.spused := rfl
@[simp] theorem Ctx.setB_fsel (c : Ctx) (r : BReg) (a : Option Seat) : (c.setB r a).fsel = c.fsel := rfl
@[simp] theorem Ctx.setB_fstat (c : Ctx) (r : BReg) (a : Option Seat) : (c.setB r a).fstat = c.fstat := rfl
@[simp] theorem Ctx.setB_cycle (c : Ctx) (r : BReg) (a : Option Seat) : (c.setB r a).cycle = c.cycle := rfl
@[simp] theorem Ctx.setB_instret (c : Ctx) (r : BReg) (a : Option Seat) : (c.setB r a).instret = c.instret := rfl
@[simp] theorem Ctx.setB_gauge (c : Ctx) (r : BReg) (a : Option Seat) : (c.setB r a).gauge = c.gauge := rfl
@[simp] theorem Ctx.setB_gaugest (c : Ctx) (r : BReg) (a : Option Seat) : (c.setB r a).gaugest = c.gaugest := rfl
@[simp] theorem Ctx.setB_vecQ (c : Ctx) (r : BReg) (a : Option Seat) : (c.setB r a).vecQ = c.vecQ := rfl
@[simp] theorem Ctx.setB_matQ (c : Ctx) (r : BReg) (a : Option Seat) : (c.setB r a).matQ = c.matQ := rfl
@[simp] theorem Ctx.setB_copyQ (c : Ctx) (r : BReg) (a : Option Seat) : (c.setB r a).copyQ = c.copyQ := rfl
@[simp] theorem Ctx.setB_copies (c : Ctx) (r : BReg) (a : Option Seat) : (c.setB r a).copies = c.copies := rfl
@[simp] theorem Ctx.setB_pend (c : Ctx) (r : BReg) (a : Option Seat) : (c.setB r a).pend = c.pend := rfl
@[simp] theorem Ctx.setB_trap (c : Ctx) (r : BReg) (a : Option Seat) : (c.setB r a).trap = c.trap := rfl
@[simp] theorem Ctx.setB_skip (c : Ctx) (r : BReg) (a : Option Seat) : (c.setB r a).skip = c.skip := rfl
@[simp] theorem Ctx.setB_resv (c : Ctx) (r : BReg) (a : Option Seat) : (c.setB r a).resv = c.resv := rfl
@[simp] theorem Ctx.setB_relHalf (c : Ctx) (r : BReg) (a : Option Seat) : (c.setB r a).relHalf = c.relHalf := rfl
@[simp] theorem Ctx.setB_relKnow (c : Ctx) (r : BReg) (a : Option Seat) : (c.setB r a).relKnow = c.relKnow := rfl
@[simp] theorem Ctx.setB_openHalf (c : Ctx) (r : BReg) (a : Option Seat) : (c.setB r a).openHalf = c.openHalf := rfl
@[simp] theorem Ctx.setB_reads (c : Ctx) (r : BReg) (a : Option Seat) : (c.setB r a).reads = c.reads := rfl
@[simp] theorem Ctx.setB_fabReads (c : Ctx) (r : BReg) (a : Option Seat) : (c.setB r a).fabReads = c.fabReads := rfl
@[simp] theorem Ctx.setB_request (c : Ctx) (r : BReg) (a : Option Seat) : (c.setB r a).request = c.request := rfl
@[simp] theorem Ctx.setB_stepping (c : Ctx) (r : BReg) (a : Option Seat) : (c.setB r a).stepping = c.stepping := rfl
@[simp] theorem Ctx.setB_saveCount (c : Ctx) (r : BReg) (a : Option Seat) : (c.setB r a).saveCount = c.saveCount := rfl
@[simp] theorem Ctx.setB_keyInst (c : Ctx) (r : BReg) (a : Option Seat) : (c.setB r a).keyInst = c.keyInst := rfl
@[simp] theorem Ctx.setB_nextSeq (c : Ctx) (r : BReg) (a : Option Seat) : (c.setB r a).nextSeq = c.nextSeq := rfl
@[simp] theorem Ctx.setB_chargedAt (c : Ctx) (r : BReg) (a : Option Seat) : (c.setB r a).chargedAt = c.chargedAt := rfl
@[simp] theorem Ctx.setB_reds (c : Ctx) (r : BReg) (a : Option Seat) : (c.setB r a).reds = c.reds := rfl
@[simp] theorem Ctx.setB_vfab (c : Ctx) (r : BReg) (a : Option Seat) : (c.setB r a).vfab = c.vfab := rfl
@[simp] theorem Ctx.setB_past (c : Ctx) (r : BReg) (a : Option Seat) : (c.setB r a).past = c.past := rfl
@[simp] theorem Ctx.setB_loaded (c : Ctx) (r : BReg) (a : Option Seat) : (c.setB r a).loaded = c.loaded := rfl
@[simp] theorem Ctx.setB_fabSaved (c : Ctx) (r : BReg) (a : Option Seat) : (c.setB r a).fabSaved = c.fabSaved := rfl

@[simp] theorem Ctx.setNeedle_image (c : Ctx) (n : Needle) (d : NeedleState) : (c.setNeedle n d).image = c.image := by cases n <;> rfl
@[simp] theorem Ctx.setNeedle_vf (c : Ctx) (n : Needle) (d : NeedleState) : (c.setNeedle n d).vf = c.vf := by cases n <;> rfl
@[simp] theorem Ctx.setNeedle_part (c : Ctx) (n : Needle) (d : NeedleState) : (c.setNeedle n d).part = c.part := by cases n <;> rfl
@[simp] theorem Ctx.setNeedle_prot (c : Ctx) (n : Needle) (d : NeedleState) : (c.setNeedle n d).prot = c.prot := by cases n <;> rfl
@[simp] theorem Ctx.setNeedle_node (c : Ctx) (n : Needle) (d : NeedleState) : (c.setNeedle n d).node = c.node := by cases n <;> rfl
@[simp] theorem Ctx.setNeedle_life (c : Ctx) (n : Needle) (d : NeedleState) : (c.setNeedle n d).life = c.life := by cases n <;> rfl
@[simp] theorem Ctx.setNeedle_core (c : Ctx) (n : Needle) (d : NeedleState) : (c.setNeedle n d).core = c.core := by cases n <;> rfl
@[simp] theorem Ctx.setNeedle_lastCore (c : Ctx) (n : Needle) (d : NeedleState) : (c.setNeedle n d).lastCore = c.lastCore := by cases n <;> rfl
@[simp] theorem Ctx.setNeedle_x (c : Ctx) (n : Needle) (d : NeedleState) : (c.setNeedle n d).x = c.x := by cases n <;> rfl
@[simp] theorem Ctx.setNeedle_f (c : Ctx) (n : Needle) (d : NeedleState) : (c.setNeedle n d).f = c.f := by cases n <;> rfl
@[simp] theorem Ctx.setNeedle_xFull (c : Ctx) (n : Needle) (d : NeedleState) : (c.setNeedle n d).xFull = c.xFull := by cases n <;> rfl
@[simp] theorem Ctx.setNeedle_fFull (c : Ctx) (n : Needle) (d : NeedleState) : (c.setNeedle n d).fFull = c.fFull := by cases n <;> rfl
@[simp] theorem Ctx.setNeedle_v (c : Ctx) (n : Needle) (d : NeedleState) : (c.setNeedle n d).v = c.v := by cases n <;> rfl
@[simp] theorem Ctx.setNeedle_z (c : Ctx) (n : Needle) (d : NeedleState) : (c.setNeedle n d).z = c.z := by cases n <;> rfl
@[simp] theorem Ctx.setNeedle_arr (c : Ctx) (n : Needle) (d : NeedleState) : (c.setNeedle n d).arr = c.arr := by cases n <;> rfl
@[simp] theorem Ctx.setNeedle_b (c : Ctx) (n : Needle) (d : NeedleState) : (c.setNeedle n d).b = c.b := by cases n <;> rfl
@[simp] theorem Ctx.setNeedle_slot0 (c : Ctx) (n : Needle) (d : NeedleState) : (c.setNeedle n d).slot0 = c.slot0 := by cases n <;> rfl
@[simp] theorem Ctx.setNeedle_fixed (c : Ctx) (n : Needle) (d : NeedleState) : (c.setNeedle n d).fixed = c.fixed := by cases n <;> rfl
@[simp] theorem Ctx.setNeedle_strip (c : Ctx) (n : Needle) (d : NeedleState) : (c.setNeedle n d).strip = c.strip := by cases n <;> rfl
@[simp] theorem Ctx.setNeedle_fflags (c : Ctx) (n : Needle) (d : NeedleState) : (c.setNeedle n d).fflags = c.fflags := by cases n <;> rfl
@[simp] theorem Ctx.setNeedle_frm (c : Ctx) (n : Needle) (d : NeedleState) : (c.setNeedle n d).frm = c.frm := by cases n <;> rfl
@[simp] theorem Ctx.setNeedle_vdead (c : Ctx) (n : Needle) (d : NeedleState) : (c.setNeedle n d).vdead = c.vdead := by cases n <;> rfl
@[simp] theorem Ctx.setNeedle_vbeg (c : Ctx) (n : Needle) (d : NeedleState) : (c.setNeedle n d).vbeg = c.vbeg := by cases n <;> rfl
@[simp] theorem Ctx.setNeedle_vprog (c : Ctx) (n : Needle) (d : NeedleState) : (c.setNeedle n d).vprog = c.vprog := by cases n <;> rfl
@[simp] theorem Ctx.setNeedle_vprogCount (c : Ctx) (n : Needle) (d : NeedleState) : (c.setNeedle n d).vprogCount = c.vprogCount := by cases n <;> rfl
@[simp] theorem Ctx.setNeedle_vqcfg (c : Ctx) (n : Needle) (d : NeedleState) : (c.setNeedle n d).vqcfg = c.vqcfg := by cases n <;> rfl
@[simp] theorem Ctx.setNeedle_pblk (c : Ctx) (n : Needle) (d : NeedleState) : (c.setNeedle n d).pblk = c.pblk := by cases n <;> rfl
@[simp] theorem Ctx.setNeedle_mapitch (c : Ctx) (n : Needle) (d : NeedleState) : (c.setNeedle n d).mapitch = c.mapitch := by cases n <;> rfl
@[simp] theorem Ctx.setNeedle_mwpitch (c : Ctx) (n : Needle) (d : NeedleState) : (c.setNeedle n d).mwpitch = c.mwpitch := by cases n <;> rfl
@[simp] theorem Ctx.setNeedle_mzmap (c : Ctx) (n : Needle) (d : NeedleState) : (c.setNeedle n d).mzmap = c.mzmap := by cases n <;> rfl
@[simp] theorem Ctx.setNeedle_slip (c : Ctx) (n : Needle) (d : NeedleState) : (c.setNeedle n d).slip = c.slip := by cases n <;> rfl
@[simp] theorem Ctx.setNeedle_spused (c : Ctx) (n : Needle) (d : NeedleState) : (c.setNeedle n d).spused = c.spused := by cases n <;> rfl
@[simp] theorem Ctx.setNeedle_fsel (c : Ctx) (n : Needle) (d : NeedleState) : (c.setNeedle n d).fsel = c.fsel := by cases n <;> rfl
@[simp] theorem Ctx.setNeedle_fstat (c : Ctx) (n : Needle) (d : NeedleState) : (c.setNeedle n d).fstat = c.fstat := by cases n <;> rfl
@[simp] theorem Ctx.setNeedle_cycle (c : Ctx) (n : Needle) (d : NeedleState) : (c.setNeedle n d).cycle = c.cycle := by cases n <;> rfl
@[simp] theorem Ctx.setNeedle_instret (c : Ctx) (n : Needle) (d : NeedleState) : (c.setNeedle n d).instret = c.instret := by cases n <;> rfl
@[simp] theorem Ctx.setNeedle_gauge (c : Ctx) (n : Needle) (d : NeedleState) : (c.setNeedle n d).gauge = c.gauge := by cases n <;> rfl
@[simp] theorem Ctx.setNeedle_gaugest (c : Ctx) (n : Needle) (d : NeedleState) : (c.setNeedle n d).gaugest = c.gaugest := by cases n <;> rfl
@[simp] theorem Ctx.setNeedle_vecQ (c : Ctx) (n : Needle) (d : NeedleState) : (c.setNeedle n d).vecQ = c.vecQ := by cases n <;> rfl
@[simp] theorem Ctx.setNeedle_matQ (c : Ctx) (n : Needle) (d : NeedleState) : (c.setNeedle n d).matQ = c.matQ := by cases n <;> rfl
@[simp] theorem Ctx.setNeedle_copyQ (c : Ctx) (n : Needle) (d : NeedleState) : (c.setNeedle n d).copyQ = c.copyQ := by cases n <;> rfl
@[simp] theorem Ctx.setNeedle_copies (c : Ctx) (n : Needle) (d : NeedleState) : (c.setNeedle n d).copies = c.copies := by cases n <;> rfl
@[simp] theorem Ctx.setNeedle_pend (c : Ctx) (n : Needle) (d : NeedleState) : (c.setNeedle n d).pend = c.pend := by cases n <;> rfl
@[simp] theorem Ctx.setNeedle_trap (c : Ctx) (n : Needle) (d : NeedleState) : (c.setNeedle n d).trap = c.trap := by cases n <;> rfl
@[simp] theorem Ctx.setNeedle_skip (c : Ctx) (n : Needle) (d : NeedleState) : (c.setNeedle n d).skip = c.skip := by cases n <;> rfl
@[simp] theorem Ctx.setNeedle_resv (c : Ctx) (n : Needle) (d : NeedleState) : (c.setNeedle n d).resv = c.resv := by cases n <;> rfl
@[simp] theorem Ctx.setNeedle_relHalf (c : Ctx) (n : Needle) (d : NeedleState) : (c.setNeedle n d).relHalf = c.relHalf := by cases n <;> rfl
@[simp] theorem Ctx.setNeedle_relKnow (c : Ctx) (n : Needle) (d : NeedleState) : (c.setNeedle n d).relKnow = c.relKnow := by cases n <;> rfl
@[simp] theorem Ctx.setNeedle_openHalf (c : Ctx) (n : Needle) (d : NeedleState) : (c.setNeedle n d).openHalf = c.openHalf := by cases n <;> rfl
@[simp] theorem Ctx.setNeedle_reads (c : Ctx) (n : Needle) (d : NeedleState) : (c.setNeedle n d).reads = c.reads := by cases n <;> rfl
@[simp] theorem Ctx.setNeedle_fabReads (c : Ctx) (n : Needle) (d : NeedleState) : (c.setNeedle n d).fabReads = c.fabReads := by cases n <;> rfl
@[simp] theorem Ctx.setNeedle_request (c : Ctx) (n : Needle) (d : NeedleState) : (c.setNeedle n d).request = c.request := by cases n <;> rfl
@[simp] theorem Ctx.setNeedle_stepping (c : Ctx) (n : Needle) (d : NeedleState) : (c.setNeedle n d).stepping = c.stepping := by cases n <;> rfl
@[simp] theorem Ctx.setNeedle_saveCount (c : Ctx) (n : Needle) (d : NeedleState) : (c.setNeedle n d).saveCount = c.saveCount := by cases n <;> rfl
@[simp] theorem Ctx.setNeedle_keyInst (c : Ctx) (n : Needle) (d : NeedleState) : (c.setNeedle n d).keyInst = c.keyInst := by cases n <;> rfl
@[simp] theorem Ctx.setNeedle_nextSeq (c : Ctx) (n : Needle) (d : NeedleState) : (c.setNeedle n d).nextSeq = c.nextSeq := by cases n <;> rfl
@[simp] theorem Ctx.setNeedle_chargedAt (c : Ctx) (n : Needle) (d : NeedleState) : (c.setNeedle n d).chargedAt = c.chargedAt := by cases n <;> rfl
@[simp] theorem Ctx.setNeedle_reds (c : Ctx) (n : Needle) (d : NeedleState) : (c.setNeedle n d).reds = c.reds := by cases n <;> rfl
@[simp] theorem Ctx.setNeedle_vfab (c : Ctx) (n : Needle) (d : NeedleState) : (c.setNeedle n d).vfab = c.vfab := by cases n <;> rfl
@[simp] theorem Ctx.setNeedle_past (c : Ctx) (n : Needle) (d : NeedleState) : (c.setNeedle n d).past = c.past := by cases n <;> rfl
@[simp] theorem Ctx.setNeedle_loaded (c : Ctx) (n : Needle) (d : NeedleState) : (c.setNeedle n d).loaded = c.loaded := by cases n <;> rfl
@[simp] theorem Ctx.setNeedle_fabSaved (c : Ctx) (n : Needle) (d : NeedleState) : (c.setNeedle n d).fabSaved = c.fabSaved := by cases n <;> rfl

@[simp] theorem Ctx.addEnergy_image (c : Ctx) (k : Nat) : (c.addEnergy k).image = c.image := by
  unfold Ctx.addEnergy; dsimp only; split <;> rfl
@[simp] theorem Ctx.addEnergy_vf (c : Ctx) (k : Nat) : (c.addEnergy k).vf = c.vf := by
  unfold Ctx.addEnergy; dsimp only; split <;> rfl
@[simp] theorem Ctx.addEnergy_part (c : Ctx) (k : Nat) : (c.addEnergy k).part = c.part := by
  unfold Ctx.addEnergy; dsimp only; split <;> rfl
@[simp] theorem Ctx.addEnergy_prot (c : Ctx) (k : Nat) : (c.addEnergy k).prot = c.prot := by
  unfold Ctx.addEnergy; dsimp only; split <;> rfl
@[simp] theorem Ctx.addEnergy_node (c : Ctx) (k : Nat) : (c.addEnergy k).node = c.node := by
  unfold Ctx.addEnergy; dsimp only; split <;> rfl
@[simp] theorem Ctx.addEnergy_life (c : Ctx) (k : Nat) : (c.addEnergy k).life = c.life := by
  unfold Ctx.addEnergy; dsimp only; split <;> rfl
@[simp] theorem Ctx.addEnergy_core (c : Ctx) (k : Nat) : (c.addEnergy k).core = c.core := by
  unfold Ctx.addEnergy; dsimp only; split <;> rfl
@[simp] theorem Ctx.addEnergy_lastCore (c : Ctx) (k : Nat) : (c.addEnergy k).lastCore = c.lastCore := by
  unfold Ctx.addEnergy; dsimp only; split <;> rfl
@[simp] theorem Ctx.addEnergy_x (c : Ctx) (k : Nat) : (c.addEnergy k).x = c.x := by
  unfold Ctx.addEnergy; dsimp only; split <;> rfl
@[simp] theorem Ctx.addEnergy_f (c : Ctx) (k : Nat) : (c.addEnergy k).f = c.f := by
  unfold Ctx.addEnergy; dsimp only; split <;> rfl
@[simp] theorem Ctx.addEnergy_xFull (c : Ctx) (k : Nat) : (c.addEnergy k).xFull = c.xFull := by
  unfold Ctx.addEnergy; dsimp only; split <;> rfl
@[simp] theorem Ctx.addEnergy_fFull (c : Ctx) (k : Nat) : (c.addEnergy k).fFull = c.fFull := by
  unfold Ctx.addEnergy; dsimp only; split <;> rfl
@[simp] theorem Ctx.addEnergy_v (c : Ctx) (k : Nat) : (c.addEnergy k).v = c.v := by
  unfold Ctx.addEnergy; dsimp only; split <;> rfl
@[simp] theorem Ctx.addEnergy_z (c : Ctx) (k : Nat) : (c.addEnergy k).z = c.z := by
  unfold Ctx.addEnergy; dsimp only; split <;> rfl
@[simp] theorem Ctx.addEnergy_arr (c : Ctx) (k : Nat) : (c.addEnergy k).arr = c.arr := by
  unfold Ctx.addEnergy; dsimp only; split <;> rfl
@[simp] theorem Ctx.addEnergy_b (c : Ctx) (k : Nat) : (c.addEnergy k).b = c.b := by
  unfold Ctx.addEnergy; dsimp only; split <;> rfl
@[simp] theorem Ctx.addEnergy_slot0 (c : Ctx) (k : Nat) : (c.addEnergy k).slot0 = c.slot0 := by
  unfold Ctx.addEnergy; dsimp only; split <;> rfl
@[simp] theorem Ctx.addEnergy_fixed (c : Ctx) (k : Nat) : (c.addEnergy k).fixed = c.fixed := by
  unfold Ctx.addEnergy; dsimp only; split <;> rfl
@[simp] theorem Ctx.addEnergy_nS (c : Ctx) (k : Nat) : (c.addEnergy k).nS = c.nS := by
  unfold Ctx.addEnergy; dsimp only; split <;> rfl
@[simp] theorem Ctx.addEnergy_nV (c : Ctx) (k : Nat) : (c.addEnergy k).nV = c.nV := by
  unfold Ctx.addEnergy; dsimp only; split <;> rfl
@[simp] theorem Ctx.addEnergy_nM (c : Ctx) (k : Nat) : (c.addEnergy k).nM = c.nM := by
  unfold Ctx.addEnergy; dsimp only; split <;> rfl
@[simp] theorem Ctx.addEnergy_nC (c : Ctx) (k : Nat) : (c.addEnergy k).nC = c.nC := by
  unfold Ctx.addEnergy; dsimp only; split <;> rfl
@[simp] theorem Ctx.addEnergy_strip (c : Ctx) (k : Nat) : (c.addEnergy k).strip = c.strip := by
  unfold Ctx.addEnergy; dsimp only; split <;> rfl
@[simp] theorem Ctx.addEnergy_fflags (c : Ctx) (k : Nat) : (c.addEnergy k).fflags = c.fflags := by
  unfold Ctx.addEnergy; dsimp only; split <;> rfl
@[simp] theorem Ctx.addEnergy_frm (c : Ctx) (k : Nat) : (c.addEnergy k).frm = c.frm := by
  unfold Ctx.addEnergy; dsimp only; split <;> rfl
@[simp] theorem Ctx.addEnergy_vdead (c : Ctx) (k : Nat) : (c.addEnergy k).vdead = c.vdead := by
  unfold Ctx.addEnergy; dsimp only; split <;> rfl
@[simp] theorem Ctx.addEnergy_vbeg (c : Ctx) (k : Nat) : (c.addEnergy k).vbeg = c.vbeg := by
  unfold Ctx.addEnergy; dsimp only; split <;> rfl
@[simp] theorem Ctx.addEnergy_vprog (c : Ctx) (k : Nat) : (c.addEnergy k).vprog = c.vprog := by
  unfold Ctx.addEnergy; dsimp only; split <;> rfl
@[simp] theorem Ctx.addEnergy_vprogCount (c : Ctx) (k : Nat) : (c.addEnergy k).vprogCount = c.vprogCount := by
  unfold Ctx.addEnergy; dsimp only; split <;> rfl
@[simp] theorem Ctx.addEnergy_vqcfg (c : Ctx) (k : Nat) : (c.addEnergy k).vqcfg = c.vqcfg := by
  unfold Ctx.addEnergy; dsimp only; split <;> rfl
@[simp] theorem Ctx.addEnergy_pblk (c : Ctx) (k : Nat) : (c.addEnergy k).pblk = c.pblk := by
  unfold Ctx.addEnergy; dsimp only; split <;> rfl
@[simp] theorem Ctx.addEnergy_mapitch (c : Ctx) (k : Nat) : (c.addEnergy k).mapitch = c.mapitch := by
  unfold Ctx.addEnergy; dsimp only; split <;> rfl
@[simp] theorem Ctx.addEnergy_mwpitch (c : Ctx) (k : Nat) : (c.addEnergy k).mwpitch = c.mwpitch := by
  unfold Ctx.addEnergy; dsimp only; split <;> rfl
@[simp] theorem Ctx.addEnergy_mzmap (c : Ctx) (k : Nat) : (c.addEnergy k).mzmap = c.mzmap := by
  unfold Ctx.addEnergy; dsimp only; split <;> rfl
@[simp] theorem Ctx.addEnergy_slip (c : Ctx) (k : Nat) : (c.addEnergy k).slip = c.slip := by
  unfold Ctx.addEnergy; dsimp only; split <;> rfl
@[simp] theorem Ctx.addEnergy_spused (c : Ctx) (k : Nat) : (c.addEnergy k).spused = c.spused := by
  unfold Ctx.addEnergy; dsimp only; split <;> rfl
@[simp] theorem Ctx.addEnergy_fsel (c : Ctx) (k : Nat) : (c.addEnergy k).fsel = c.fsel := by
  unfold Ctx.addEnergy; dsimp only; split <;> rfl
@[simp] theorem Ctx.addEnergy_fstat (c : Ctx) (k : Nat) : (c.addEnergy k).fstat = c.fstat := by
  unfold Ctx.addEnergy; dsimp only; split <;> rfl
@[simp] theorem Ctx.addEnergy_cycle (c : Ctx) (k : Nat) : (c.addEnergy k).cycle = c.cycle := by
  unfold Ctx.addEnergy; dsimp only; split <;> rfl
@[simp] theorem Ctx.addEnergy_instret (c : Ctx) (k : Nat) : (c.addEnergy k).instret = c.instret := by
  unfold Ctx.addEnergy; dsimp only; split <;> rfl
@[simp] theorem Ctx.addEnergy_vecQ (c : Ctx) (k : Nat) : (c.addEnergy k).vecQ = c.vecQ := by
  unfold Ctx.addEnergy; dsimp only; split <;> rfl
@[simp] theorem Ctx.addEnergy_matQ (c : Ctx) (k : Nat) : (c.addEnergy k).matQ = c.matQ := by
  unfold Ctx.addEnergy; dsimp only; split <;> rfl
@[simp] theorem Ctx.addEnergy_copyQ (c : Ctx) (k : Nat) : (c.addEnergy k).copyQ = c.copyQ := by
  unfold Ctx.addEnergy; dsimp only; split <;> rfl
@[simp] theorem Ctx.addEnergy_copies (c : Ctx) (k : Nat) : (c.addEnergy k).copies = c.copies := by
  unfold Ctx.addEnergy; dsimp only; split <;> rfl
@[simp] theorem Ctx.addEnergy_pend (c : Ctx) (k : Nat) : (c.addEnergy k).pend = c.pend := by
  unfold Ctx.addEnergy; dsimp only; split <;> rfl
@[simp] theorem Ctx.addEnergy_trap (c : Ctx) (k : Nat) : (c.addEnergy k).trap = c.trap := by
  unfold Ctx.addEnergy; dsimp only; split <;> rfl
@[simp] theorem Ctx.addEnergy_skip (c : Ctx) (k : Nat) : (c.addEnergy k).skip = c.skip := by
  unfold Ctx.addEnergy; dsimp only; split <;> rfl
@[simp] theorem Ctx.addEnergy_resv (c : Ctx) (k : Nat) : (c.addEnergy k).resv = c.resv := by
  unfold Ctx.addEnergy; dsimp only; split <;> rfl
@[simp] theorem Ctx.addEnergy_relHalf (c : Ctx) (k : Nat) : (c.addEnergy k).relHalf = c.relHalf := by
  unfold Ctx.addEnergy; dsimp only; split <;> rfl
@[simp] theorem Ctx.addEnergy_relKnow (c : Ctx) (k : Nat) : (c.addEnergy k).relKnow = c.relKnow := by
  unfold Ctx.addEnergy; dsimp only; split <;> rfl
@[simp] theorem Ctx.addEnergy_openHalf (c : Ctx) (k : Nat) : (c.addEnergy k).openHalf = c.openHalf := by
  unfold Ctx.addEnergy; dsimp only; split <;> rfl
@[simp] theorem Ctx.addEnergy_reads (c : Ctx) (k : Nat) : (c.addEnergy k).reads = c.reads := by
  unfold Ctx.addEnergy; dsimp only; split <;> rfl
@[simp] theorem Ctx.addEnergy_fabReads (c : Ctx) (k : Nat) : (c.addEnergy k).fabReads = c.fabReads := by
  unfold Ctx.addEnergy; dsimp only; split <;> rfl
@[simp] theorem Ctx.addEnergy_request (c : Ctx) (k : Nat) : (c.addEnergy k).request = c.request := by
  unfold Ctx.addEnergy; dsimp only; split <;> rfl
@[simp] theorem Ctx.addEnergy_stepping (c : Ctx) (k : Nat) : (c.addEnergy k).stepping = c.stepping := by
  unfold Ctx.addEnergy; dsimp only; split <;> rfl
@[simp] theorem Ctx.addEnergy_saveCount (c : Ctx) (k : Nat) : (c.addEnergy k).saveCount = c.saveCount := by
  unfold Ctx.addEnergy; dsimp only; split <;> rfl
@[simp] theorem Ctx.addEnergy_keyInst (c : Ctx) (k : Nat) : (c.addEnergy k).keyInst = c.keyInst := by
  unfold Ctx.addEnergy; dsimp only; split <;> rfl
@[simp] theorem Ctx.addEnergy_nextSeq (c : Ctx) (k : Nat) : (c.addEnergy k).nextSeq = c.nextSeq := by
  unfold Ctx.addEnergy; dsimp only; split <;> rfl
@[simp] theorem Ctx.addEnergy_chargedAt (c : Ctx) (k : Nat) : (c.addEnergy k).chargedAt = c.chargedAt := by
  unfold Ctx.addEnergy; dsimp only; split <;> rfl
@[simp] theorem Ctx.addEnergy_reds (c : Ctx) (k : Nat) : (c.addEnergy k).reds = c.reds := by
  unfold Ctx.addEnergy; dsimp only; split <;> rfl
@[simp] theorem Ctx.addEnergy_vfab (c : Ctx) (k : Nat) : (c.addEnergy k).vfab = c.vfab := by
  unfold Ctx.addEnergy; dsimp only; split <;> rfl
@[simp] theorem Ctx.addEnergy_past (c : Ctx) (k : Nat) : (c.addEnergy k).past = c.past := by
  unfold Ctx.addEnergy; dsimp only; split <;> rfl
@[simp] theorem Ctx.addEnergy_loaded (c : Ctx) (k : Nat) : (c.addEnergy k).loaded = c.loaded := by
  unfold Ctx.addEnergy; dsimp only; split <;> rfl
@[simp] theorem Ctx.addEnergy_fabSaved (c : Ctx) (k : Nat) : (c.addEnergy k).fabSaved = c.fabSaved := by
  unfold Ctx.addEnergy; dsimp only; split <;> rfl

@[simp] theorem Ctx.advance_image (c : Ctx) (n : Needle) : (c.advance n).image = c.image := by cases n <;> rfl
@[simp] theorem Ctx.advance_vf (c : Ctx) (n : Needle) : (c.advance n).vf = c.vf := by cases n <;> rfl
@[simp] theorem Ctx.advance_part (c : Ctx) (n : Needle) : (c.advance n).part = c.part := by cases n <;> rfl
@[simp] theorem Ctx.advance_prot (c : Ctx) (n : Needle) : (c.advance n).prot = c.prot := by cases n <;> rfl
@[simp] theorem Ctx.advance_node (c : Ctx) (n : Needle) : (c.advance n).node = c.node := by cases n <;> rfl
@[simp] theorem Ctx.advance_life (c : Ctx) (n : Needle) : (c.advance n).life = c.life := by cases n <;> rfl
@[simp] theorem Ctx.advance_core (c : Ctx) (n : Needle) : (c.advance n).core = c.core := by cases n <;> rfl
@[simp] theorem Ctx.advance_lastCore (c : Ctx) (n : Needle) : (c.advance n).lastCore = c.lastCore := by cases n <;> rfl
@[simp] theorem Ctx.advance_x (c : Ctx) (n : Needle) : (c.advance n).x = c.x := by cases n <;> rfl
@[simp] theorem Ctx.advance_f (c : Ctx) (n : Needle) : (c.advance n).f = c.f := by cases n <;> rfl
@[simp] theorem Ctx.advance_xFull (c : Ctx) (n : Needle) : (c.advance n).xFull = c.xFull := by cases n <;> rfl
@[simp] theorem Ctx.advance_fFull (c : Ctx) (n : Needle) : (c.advance n).fFull = c.fFull := by cases n <;> rfl
@[simp] theorem Ctx.advance_v (c : Ctx) (n : Needle) : (c.advance n).v = c.v := by cases n <;> rfl
@[simp] theorem Ctx.advance_z (c : Ctx) (n : Needle) : (c.advance n).z = c.z := by cases n <;> rfl
@[simp] theorem Ctx.advance_arr (c : Ctx) (n : Needle) : (c.advance n).arr = c.arr := by cases n <;> rfl
@[simp] theorem Ctx.advance_b (c : Ctx) (n : Needle) : (c.advance n).b = c.b := by cases n <;> rfl
@[simp] theorem Ctx.advance_slot0 (c : Ctx) (n : Needle) : (c.advance n).slot0 = c.slot0 := by cases n <;> rfl
@[simp] theorem Ctx.advance_fixed (c : Ctx) (n : Needle) : (c.advance n).fixed = c.fixed := by cases n <;> rfl
@[simp] theorem Ctx.advance_strip (c : Ctx) (n : Needle) : (c.advance n).strip = c.strip := by cases n <;> rfl
@[simp] theorem Ctx.advance_fflags (c : Ctx) (n : Needle) : (c.advance n).fflags = c.fflags := by cases n <;> rfl
@[simp] theorem Ctx.advance_frm (c : Ctx) (n : Needle) : (c.advance n).frm = c.frm := by cases n <;> rfl
@[simp] theorem Ctx.advance_vdead (c : Ctx) (n : Needle) : (c.advance n).vdead = c.vdead := by cases n <;> rfl
@[simp] theorem Ctx.advance_vbeg (c : Ctx) (n : Needle) : (c.advance n).vbeg = c.vbeg := by cases n <;> rfl
@[simp] theorem Ctx.advance_vprog (c : Ctx) (n : Needle) : (c.advance n).vprog = c.vprog := by cases n <;> rfl
@[simp] theorem Ctx.advance_vprogCount (c : Ctx) (n : Needle) : (c.advance n).vprogCount = c.vprogCount := by cases n <;> rfl
@[simp] theorem Ctx.advance_vqcfg (c : Ctx) (n : Needle) : (c.advance n).vqcfg = c.vqcfg := by cases n <;> rfl
@[simp] theorem Ctx.advance_pblk (c : Ctx) (n : Needle) : (c.advance n).pblk = c.pblk := by cases n <;> rfl
@[simp] theorem Ctx.advance_mapitch (c : Ctx) (n : Needle) : (c.advance n).mapitch = c.mapitch := by cases n <;> rfl
@[simp] theorem Ctx.advance_mwpitch (c : Ctx) (n : Needle) : (c.advance n).mwpitch = c.mwpitch := by cases n <;> rfl
@[simp] theorem Ctx.advance_mzmap (c : Ctx) (n : Needle) : (c.advance n).mzmap = c.mzmap := by cases n <;> rfl
@[simp] theorem Ctx.advance_slip (c : Ctx) (n : Needle) : (c.advance n).slip = c.slip := by cases n <;> rfl
@[simp] theorem Ctx.advance_spused (c : Ctx) (n : Needle) : (c.advance n).spused = c.spused := by cases n <;> rfl
@[simp] theorem Ctx.advance_fsel (c : Ctx) (n : Needle) : (c.advance n).fsel = c.fsel := by cases n <;> rfl
@[simp] theorem Ctx.advance_fstat (c : Ctx) (n : Needle) : (c.advance n).fstat = c.fstat := by cases n <;> rfl
@[simp] theorem Ctx.advance_cycle (c : Ctx) (n : Needle) : (c.advance n).cycle = c.cycle := by cases n <;> rfl
@[simp] theorem Ctx.advance_instret (c : Ctx) (n : Needle) : (c.advance n).instret = c.instret := by cases n <;> rfl
@[simp] theorem Ctx.advance_gauge (c : Ctx) (n : Needle) : (c.advance n).gauge = c.gauge := by cases n <;> rfl
@[simp] theorem Ctx.advance_gaugest (c : Ctx) (n : Needle) : (c.advance n).gaugest = c.gaugest := by cases n <;> rfl
@[simp] theorem Ctx.advance_vecQ (c : Ctx) (n : Needle) : (c.advance n).vecQ = c.vecQ := by cases n <;> rfl
@[simp] theorem Ctx.advance_matQ (c : Ctx) (n : Needle) : (c.advance n).matQ = c.matQ := by cases n <;> rfl
@[simp] theorem Ctx.advance_copyQ (c : Ctx) (n : Needle) : (c.advance n).copyQ = c.copyQ := by cases n <;> rfl
@[simp] theorem Ctx.advance_copies (c : Ctx) (n : Needle) : (c.advance n).copies = c.copies := by cases n <;> rfl
@[simp] theorem Ctx.advance_pend (c : Ctx) (n : Needle) : (c.advance n).pend = c.pend := by cases n <;> rfl
@[simp] theorem Ctx.advance_trap (c : Ctx) (n : Needle) : (c.advance n).trap = c.trap := by cases n <;> rfl
@[simp] theorem Ctx.advance_skip (c : Ctx) (n : Needle) : (c.advance n).skip = c.skip := by cases n <;> rfl
@[simp] theorem Ctx.advance_resv (c : Ctx) (n : Needle) : (c.advance n).resv = c.resv := by cases n <;> rfl
@[simp] theorem Ctx.advance_relHalf (c : Ctx) (n : Needle) : (c.advance n).relHalf = c.relHalf := by cases n <;> rfl
@[simp] theorem Ctx.advance_relKnow (c : Ctx) (n : Needle) : (c.advance n).relKnow = c.relKnow := by cases n <;> rfl
@[simp] theorem Ctx.advance_openHalf (c : Ctx) (n : Needle) : (c.advance n).openHalf = c.openHalf := by cases n <;> rfl
@[simp] theorem Ctx.advance_reads (c : Ctx) (n : Needle) : (c.advance n).reads = c.reads := by cases n <;> rfl
@[simp] theorem Ctx.advance_fabReads (c : Ctx) (n : Needle) : (c.advance n).fabReads = c.fabReads := by cases n <;> rfl
@[simp] theorem Ctx.advance_request (c : Ctx) (n : Needle) : (c.advance n).request = c.request := by cases n <;> rfl
@[simp] theorem Ctx.advance_stepping (c : Ctx) (n : Needle) : (c.advance n).stepping = c.stepping := by cases n <;> rfl
@[simp] theorem Ctx.advance_saveCount (c : Ctx) (n : Needle) : (c.advance n).saveCount = c.saveCount := by cases n <;> rfl
@[simp] theorem Ctx.advance_keyInst (c : Ctx) (n : Needle) : (c.advance n).keyInst = c.keyInst := by cases n <;> rfl
@[simp] theorem Ctx.advance_nextSeq (c : Ctx) (n : Needle) : (c.advance n).nextSeq = c.nextSeq := by cases n <;> rfl
@[simp] theorem Ctx.advance_chargedAt (c : Ctx) (n : Needle) : (c.advance n).chargedAt = c.chargedAt := by cases n <;> rfl
@[simp] theorem Ctx.advance_reds (c : Ctx) (n : Needle) : (c.advance n).reds = c.reds := by cases n <;> rfl
@[simp] theorem Ctx.advance_vfab (c : Ctx) (n : Needle) : (c.advance n).vfab = c.vfab := by cases n <;> rfl
@[simp] theorem Ctx.advance_past (c : Ctx) (n : Needle) : (c.advance n).past = c.past := by cases n <;> rfl
@[simp] theorem Ctx.advance_loaded (c : Ctx) (n : Needle) : (c.advance n).loaded = c.loaded := by cases n <;> rfl
@[simp] theorem Ctx.advance_fabSaved (c : Ctx) (n : Needle) : (c.advance n).fabSaved = c.fabSaved := by cases n <;> rfl

@[simp] theorem Ctx.goTo_image (c : Ctx) (n : Needle) (t : Word) : (c.goTo n t).image = c.image := by cases n <;> rfl
@[simp] theorem Ctx.goTo_vf (c : Ctx) (n : Needle) (t : Word) : (c.goTo n t).vf = c.vf := by cases n <;> rfl
@[simp] theorem Ctx.goTo_part (c : Ctx) (n : Needle) (t : Word) : (c.goTo n t).part = c.part := by cases n <;> rfl
@[simp] theorem Ctx.goTo_prot (c : Ctx) (n : Needle) (t : Word) : (c.goTo n t).prot = c.prot := by cases n <;> rfl
@[simp] theorem Ctx.goTo_node (c : Ctx) (n : Needle) (t : Word) : (c.goTo n t).node = c.node := by cases n <;> rfl
@[simp] theorem Ctx.goTo_life (c : Ctx) (n : Needle) (t : Word) : (c.goTo n t).life = c.life := by cases n <;> rfl
@[simp] theorem Ctx.goTo_core (c : Ctx) (n : Needle) (t : Word) : (c.goTo n t).core = c.core := by cases n <;> rfl
@[simp] theorem Ctx.goTo_lastCore (c : Ctx) (n : Needle) (t : Word) : (c.goTo n t).lastCore = c.lastCore := by cases n <;> rfl
@[simp] theorem Ctx.goTo_x (c : Ctx) (n : Needle) (t : Word) : (c.goTo n t).x = c.x := by cases n <;> rfl
@[simp] theorem Ctx.goTo_f (c : Ctx) (n : Needle) (t : Word) : (c.goTo n t).f = c.f := by cases n <;> rfl
@[simp] theorem Ctx.goTo_xFull (c : Ctx) (n : Needle) (t : Word) : (c.goTo n t).xFull = c.xFull := by cases n <;> rfl
@[simp] theorem Ctx.goTo_fFull (c : Ctx) (n : Needle) (t : Word) : (c.goTo n t).fFull = c.fFull := by cases n <;> rfl
@[simp] theorem Ctx.goTo_v (c : Ctx) (n : Needle) (t : Word) : (c.goTo n t).v = c.v := by cases n <;> rfl
@[simp] theorem Ctx.goTo_z (c : Ctx) (n : Needle) (t : Word) : (c.goTo n t).z = c.z := by cases n <;> rfl
@[simp] theorem Ctx.goTo_arr (c : Ctx) (n : Needle) (t : Word) : (c.goTo n t).arr = c.arr := by cases n <;> rfl
@[simp] theorem Ctx.goTo_b (c : Ctx) (n : Needle) (t : Word) : (c.goTo n t).b = c.b := by cases n <;> rfl
@[simp] theorem Ctx.goTo_slot0 (c : Ctx) (n : Needle) (t : Word) : (c.goTo n t).slot0 = c.slot0 := by cases n <;> rfl
@[simp] theorem Ctx.goTo_fixed (c : Ctx) (n : Needle) (t : Word) : (c.goTo n t).fixed = c.fixed := by cases n <;> rfl
@[simp] theorem Ctx.goTo_strip (c : Ctx) (n : Needle) (t : Word) : (c.goTo n t).strip = c.strip := by cases n <;> rfl
@[simp] theorem Ctx.goTo_fflags (c : Ctx) (n : Needle) (t : Word) : (c.goTo n t).fflags = c.fflags := by cases n <;> rfl
@[simp] theorem Ctx.goTo_frm (c : Ctx) (n : Needle) (t : Word) : (c.goTo n t).frm = c.frm := by cases n <;> rfl
@[simp] theorem Ctx.goTo_vdead (c : Ctx) (n : Needle) (t : Word) : (c.goTo n t).vdead = c.vdead := by cases n <;> rfl
@[simp] theorem Ctx.goTo_vbeg (c : Ctx) (n : Needle) (t : Word) : (c.goTo n t).vbeg = c.vbeg := by cases n <;> rfl
@[simp] theorem Ctx.goTo_vprog (c : Ctx) (n : Needle) (t : Word) : (c.goTo n t).vprog = c.vprog := by cases n <;> rfl
@[simp] theorem Ctx.goTo_vprogCount (c : Ctx) (n : Needle) (t : Word) : (c.goTo n t).vprogCount = c.vprogCount := by cases n <;> rfl
@[simp] theorem Ctx.goTo_vqcfg (c : Ctx) (n : Needle) (t : Word) : (c.goTo n t).vqcfg = c.vqcfg := by cases n <;> rfl
@[simp] theorem Ctx.goTo_pblk (c : Ctx) (n : Needle) (t : Word) : (c.goTo n t).pblk = c.pblk := by cases n <;> rfl
@[simp] theorem Ctx.goTo_mapitch (c : Ctx) (n : Needle) (t : Word) : (c.goTo n t).mapitch = c.mapitch := by cases n <;> rfl
@[simp] theorem Ctx.goTo_mwpitch (c : Ctx) (n : Needle) (t : Word) : (c.goTo n t).mwpitch = c.mwpitch := by cases n <;> rfl
@[simp] theorem Ctx.goTo_mzmap (c : Ctx) (n : Needle) (t : Word) : (c.goTo n t).mzmap = c.mzmap := by cases n <;> rfl
@[simp] theorem Ctx.goTo_slip (c : Ctx) (n : Needle) (t : Word) : (c.goTo n t).slip = c.slip := by cases n <;> rfl
@[simp] theorem Ctx.goTo_spused (c : Ctx) (n : Needle) (t : Word) : (c.goTo n t).spused = c.spused := by cases n <;> rfl
@[simp] theorem Ctx.goTo_fsel (c : Ctx) (n : Needle) (t : Word) : (c.goTo n t).fsel = c.fsel := by cases n <;> rfl
@[simp] theorem Ctx.goTo_fstat (c : Ctx) (n : Needle) (t : Word) : (c.goTo n t).fstat = c.fstat := by cases n <;> rfl
@[simp] theorem Ctx.goTo_cycle (c : Ctx) (n : Needle) (t : Word) : (c.goTo n t).cycle = c.cycle := by cases n <;> rfl
@[simp] theorem Ctx.goTo_instret (c : Ctx) (n : Needle) (t : Word) : (c.goTo n t).instret = c.instret := by cases n <;> rfl
@[simp] theorem Ctx.goTo_gauge (c : Ctx) (n : Needle) (t : Word) : (c.goTo n t).gauge = c.gauge := by cases n <;> rfl
@[simp] theorem Ctx.goTo_gaugest (c : Ctx) (n : Needle) (t : Word) : (c.goTo n t).gaugest = c.gaugest := by cases n <;> rfl
@[simp] theorem Ctx.goTo_vecQ (c : Ctx) (n : Needle) (t : Word) : (c.goTo n t).vecQ = c.vecQ := by cases n <;> rfl
@[simp] theorem Ctx.goTo_matQ (c : Ctx) (n : Needle) (t : Word) : (c.goTo n t).matQ = c.matQ := by cases n <;> rfl
@[simp] theorem Ctx.goTo_copyQ (c : Ctx) (n : Needle) (t : Word) : (c.goTo n t).copyQ = c.copyQ := by cases n <;> rfl
@[simp] theorem Ctx.goTo_copies (c : Ctx) (n : Needle) (t : Word) : (c.goTo n t).copies = c.copies := by cases n <;> rfl
@[simp] theorem Ctx.goTo_pend (c : Ctx) (n : Needle) (t : Word) : (c.goTo n t).pend = c.pend := by cases n <;> rfl
@[simp] theorem Ctx.goTo_trap (c : Ctx) (n : Needle) (t : Word) : (c.goTo n t).trap = c.trap := by cases n <;> rfl
@[simp] theorem Ctx.goTo_skip (c : Ctx) (n : Needle) (t : Word) : (c.goTo n t).skip = c.skip := by cases n <;> rfl
@[simp] theorem Ctx.goTo_resv (c : Ctx) (n : Needle) (t : Word) : (c.goTo n t).resv = c.resv := by cases n <;> rfl
@[simp] theorem Ctx.goTo_relHalf (c : Ctx) (n : Needle) (t : Word) : (c.goTo n t).relHalf = c.relHalf := by cases n <;> rfl
@[simp] theorem Ctx.goTo_relKnow (c : Ctx) (n : Needle) (t : Word) : (c.goTo n t).relKnow = c.relKnow := by cases n <;> rfl
@[simp] theorem Ctx.goTo_openHalf (c : Ctx) (n : Needle) (t : Word) : (c.goTo n t).openHalf = c.openHalf := by cases n <;> rfl
@[simp] theorem Ctx.goTo_reads (c : Ctx) (n : Needle) (t : Word) : (c.goTo n t).reads = c.reads := by cases n <;> rfl
@[simp] theorem Ctx.goTo_fabReads (c : Ctx) (n : Needle) (t : Word) : (c.goTo n t).fabReads = c.fabReads := by cases n <;> rfl
@[simp] theorem Ctx.goTo_request (c : Ctx) (n : Needle) (t : Word) : (c.goTo n t).request = c.request := by cases n <;> rfl
@[simp] theorem Ctx.goTo_stepping (c : Ctx) (n : Needle) (t : Word) : (c.goTo n t).stepping = c.stepping := by cases n <;> rfl
@[simp] theorem Ctx.goTo_saveCount (c : Ctx) (n : Needle) (t : Word) : (c.goTo n t).saveCount = c.saveCount := by cases n <;> rfl
@[simp] theorem Ctx.goTo_keyInst (c : Ctx) (n : Needle) (t : Word) : (c.goTo n t).keyInst = c.keyInst := by cases n <;> rfl
@[simp] theorem Ctx.goTo_nextSeq (c : Ctx) (n : Needle) (t : Word) : (c.goTo n t).nextSeq = c.nextSeq := by cases n <;> rfl
@[simp] theorem Ctx.goTo_chargedAt (c : Ctx) (n : Needle) (t : Word) : (c.goTo n t).chargedAt = c.chargedAt := by cases n <;> rfl
@[simp] theorem Ctx.goTo_reds (c : Ctx) (n : Needle) (t : Word) : (c.goTo n t).reds = c.reds := by cases n <;> rfl
@[simp] theorem Ctx.goTo_vfab (c : Ctx) (n : Needle) (t : Word) : (c.goTo n t).vfab = c.vfab := by cases n <;> rfl
@[simp] theorem Ctx.goTo_past (c : Ctx) (n : Needle) (t : Word) : (c.goTo n t).past = c.past := by cases n <;> rfl
@[simp] theorem Ctx.goTo_loaded (c : Ctx) (n : Needle) (t : Word) : (c.goTo n t).loaded = c.loaded := by cases n <;> rfl
@[simp] theorem Ctx.goTo_fabSaved (c : Ctx) (n : Needle) (t : Word) : (c.goTo n t).fabSaved = c.fabSaved := by cases n <;> rfl

@[simp] theorem Ctx.needle_setNeedle (c : Ctx) (n : Needle) (d : NeedleState) : (c.setNeedle n d).needle n = d := by cases n <;> rfl
theorem Ctx.needle_setNeedle_ne (c : Ctx) (n m : Needle) (d : NeedleState) (h : m ≠ n) : (c.setNeedle n d).needle m = c.needle m := by
  cases n <;> cases m <;> first | rfl | exact absurd rfl h
@[simp] theorem Ctx.needle_setX (c : Ctx) (r : XReg) (w : Word) (n : Needle) : (c.setX r w).needle n = c.needle n := by cases n <;> simp [Ctx.needle]
@[simp] theorem Ctx.needle_setF (c : Ctx) (r : FReg) (w : Word) (n : Needle) : (c.setF r w).needle n = c.needle n := by cases n <;> rfl
@[simp] theorem Ctx.needle_setB (c : Ctx) (r : BReg) (a : Option Seat) (n : Needle) : (c.setB r a).needle n = c.needle n := by cases n <;> rfl
@[simp] theorem Ctx.needle_addEnergy (c : Ctx) (k : Nat) (n : Needle) : (c.addEnergy k).needle n = c.needle n := by cases n <;> simp [Ctx.needle]

/-- x0 reads 0 and discards a write (R29). -/
@[simp] theorem Ctx.getX_zero (c : Ctx) : c.getX 0#5 = 0#64 := rfl
@[simp] theorem Ctx.setX_zero (c : Ctx) (w : Word) : c.setX 0#5 w = c := rfl

theorem vec_get_set {α : Type} {n : Nat} (v : Vector α n) (i j : Nat) (a : α) (hi : i < n) (hj : j < n) :
    (v.set i a hi).get ⟨j, hj⟩ = if i = j then a else v.get ⟨j, hj⟩ := by
  show (v.set i a hi)[j] = _
  rw [Vector.getElem_set]; rfl

theorem Ctx.getX_setX (c : Ctx) (r : XReg) (w : Word) (h : r ≠ 0#5) : (c.setX r w).getX r = w := by
  simp only [Ctx.getX, Ctx.setX, h, if_false]
  exact (vec_get_set _ _ _ _ r.isLt r.isLt).trans (if_pos rfl)

theorem Ctx.getX_setX_ne (c : Ctx) (r q : XReg) (w : Word) (h : q ≠ r) : (c.setX r w).getX q = c.getX q := by
  unfold Ctx.getX Ctx.setX
  by_cases hr : r = 0#5
  · simp only [hr, if_true]
  · have : ¬ r.toNat = q.toNat := fun e => h (BitVec.eq_of_toNat_eq e.symm)
    simp only [hr, if_false]
    by_cases hq : q = 0#5
    · simp only [hq, if_true]
    · simp only [hq, if_false]
      exact (vec_get_set _ _ _ _ r.isLt q.isLt).trans (if_neg this)

@[simp] theorem Ctx.getF_setF (c : Ctx) (r : FReg) (w : Word) : (c.setF r w).getF r = w :=
  (vec_get_set _ _ _ _ r.isLt r.isLt).trans (if_pos rfl)

theorem Ctx.getF_setF_ne (c : Ctx) (r q : FReg) (w : Word) (h : q ≠ r) : (c.setF r w).getF q = c.getF q := by
  have : ¬ r.toNat = q.toNat := fun e => h (BitVec.eq_of_toNat_eq e.symm)
  exact (vec_get_set _ _ _ _ r.isLt q.isLt).trans (if_neg this)

@[simp] theorem Ctx.getV_setV (c : Ctx) (r : VReg) (a : VecReg) : (c.setV r a).getV r = a :=
  (vec_get_set _ _ _ _ r.isLt r.isLt).trans (if_pos rfl)

theorem Ctx.getV_setV_ne (c : Ctx) (r q : VReg) (a : VecReg) (h : q ≠ r) : (c.setV r a).getV q = c.getV q := by
  have : ¬ r.toNat = q.toNat := fun e => h (BitVec.eq_of_toNat_eq e.symm)
  exact (vec_get_set _ _ _ _ r.isLt q.isLt).trans (if_neg this)

@[simp] theorem Ctx.getZ_setZ (c : Ctx) (r : ZReg) (a : Tile) : (c.setZ r a).getZ r = a :=
  (vec_get_set _ _ _ _ r.isLt r.isLt).trans (if_pos rfl)

theorem Ctx.getZ_setZ_ne (c : Ctx) (r q : ZReg) (a : Tile) (h : q ≠ r) : (c.setZ r a).getZ q = c.getZ q := by
  have : ¬ r.toNat = q.toNat := fun e => h (BitVec.eq_of_toNat_eq e.symm)
  exact (vec_get_set _ _ _ _ r.isLt q.isLt).trans (if_neg this)

@[simp] theorem Ctx.getB_setB (c : Ctx) (r : BReg) (a : Option Seat) : (c.setB r a).getB r = a :=
  (vec_get_set _ _ _ _ r.isLt r.isLt).trans (if_pos rfl)

theorem Ctx.getB_setB_ne (c : Ctx) (r q : BReg) (a : Option Seat) (h : q ≠ r) : (c.setB r a).getB q = c.getB q := by
  have : ¬ r.toNat = q.toNat := fun e => h (BitVec.eq_of_toNat_eq e.symm)
  exact (vec_get_set _ _ _ _ r.isLt q.isLt).trans (if_neg this)

@[simp] theorem Ctx.getF_setX (c : Ctx) (q : XReg) (w : Word) (r : FReg) : (c.setX q w).getF r = c.getF r := by simp [Ctx.getF]
@[simp] theorem Ctx.getV_setX (c : Ctx) (q : XReg) (w : Word) (r : VReg) : (c.setX q w).getV r = c.getV r := by simp [Ctx.getV]
@[simp] theorem Ctx.getZ_setX (c : Ctx) (q : XReg) (w : Word) (r : ZReg) : (c.setX q w).getZ r = c.getZ r := by simp [Ctx.getZ]
@[simp] theorem Ctx.getB_setX (c : Ctx) (q : XReg) (w : Word) (r : BReg) : (c.setX q w).getB r = c.getB r := by simp [Ctx.getB]
@[simp] theorem Ctx.getX_setF (c : Ctx) (q : FReg) (w : Word) (r : XReg) : (c.setF q w).getX r = c.getX r := by simp [Ctx.getX]
@[simp] theorem Ctx.getV_setF (c : Ctx) (q : FReg) (w : Word) (r : VReg) : (c.setF q w).getV r = c.getV r := by simp [Ctx.getV]
@[simp] theorem Ctx.getZ_setF (c : Ctx) (q : FReg) (w : Word) (r : ZReg) : (c.setF q w).getZ r = c.getZ r := by simp [Ctx.getZ]
@[simp] theorem Ctx.getB_setF (c : Ctx) (q : FReg) (w : Word) (r : BReg) : (c.setF q w).getB r = c.getB r := by simp [Ctx.getB]
@[simp] theorem Ctx.getX_setNeedle (c : Ctx) (n : Needle) (d : NeedleState) (r : XReg) : (c.setNeedle n d).getX r = c.getX r := by simp [Ctx.getX]
@[simp] theorem Ctx.getF_setNeedle (c : Ctx) (n : Needle) (d : NeedleState) (r : FReg) : (c.setNeedle n d).getF r = c.getF r := by simp [Ctx.getF]
@[simp] theorem Ctx.getV_setNeedle (c : Ctx) (n : Needle) (d : NeedleState) (r : VReg) : (c.setNeedle n d).getV r = c.getV r := by simp [Ctx.getV]
@[simp] theorem Ctx.getZ_setNeedle (c : Ctx) (n : Needle) (d : NeedleState) (r : ZReg) : (c.setNeedle n d).getZ r = c.getZ r := by simp [Ctx.getZ]
@[simp] theorem Ctx.getB_setNeedle (c : Ctx) (n : Needle) (d : NeedleState) (r : BReg) : (c.setNeedle n d).getB r = c.getB r := by simp [Ctx.getB]
@[simp] theorem Ctx.getX_addEnergy (c : Ctx) (k : Nat) (r : XReg) : (c.addEnergy k).getX r = c.getX r := by simp [Ctx.getX]
@[simp] theorem Ctx.getF_addEnergy (c : Ctx) (k : Nat) (r : FReg) : (c.addEnergy k).getF r = c.getF r := by simp [Ctx.getF]
@[simp] theorem Ctx.getV_addEnergy (c : Ctx) (k : Nat) (r : VReg) : (c.addEnergy k).getV r = c.getV r := by simp [Ctx.getV]
@[simp] theorem Ctx.getZ_addEnergy (c : Ctx) (k : Nat) (r : ZReg) : (c.addEnergy k).getZ r = c.getZ r := by simp [Ctx.getZ]
@[simp] theorem Ctx.getB_addEnergy (c : Ctx) (k : Nat) (r : BReg) : (c.addEnergy k).getB r = c.getB r := by simp [Ctx.getB]
@[simp] theorem Ctx.getX_advance (c : Ctx) (n : Needle) (r : XReg) : (c.advance n).getX r = c.getX r := by simp [Ctx.getX]
@[simp] theorem Ctx.getF_advance (c : Ctx) (n : Needle) (r : FReg) : (c.advance n).getF r = c.getF r := by simp [Ctx.getF]
@[simp] theorem Ctx.getV_advance (c : Ctx) (n : Needle) (r : VReg) : (c.advance n).getV r = c.getV r := by simp [Ctx.getV]
@[simp] theorem Ctx.getZ_advance (c : Ctx) (n : Needle) (r : ZReg) : (c.advance n).getZ r = c.getZ r := by simp [Ctx.getZ]
@[simp] theorem Ctx.getB_advance (c : Ctx) (n : Needle) (r : BReg) : (c.advance n).getB r = c.getB r := by simp [Ctx.getB]
@[simp] theorem Ctx.getX_goTo (c : Ctx) (n : Needle) (t : Word) (r : XReg) : (c.goTo n t).getX r = c.getX r := by simp [Ctx.getX]
@[simp] theorem Ctx.getF_goTo (c : Ctx) (n : Needle) (t : Word) (r : FReg) : (c.goTo n t).getF r = c.getF r := by simp [Ctx.getF]
@[simp] theorem Ctx.getV_goTo (c : Ctx) (n : Needle) (t : Word) (r : VReg) : (c.goTo n t).getV r = c.getV r := by simp [Ctx.getV]
@[simp] theorem Ctx.getZ_goTo (c : Ctx) (n : Needle) (t : Word) (r : ZReg) : (c.goTo n t).getZ r = c.getZ r := by simp [Ctx.getZ]
@[simp] theorem Ctx.getB_goTo (c : Ctx) (n : Needle) (t : Word) (r : BReg) : (c.goTo n t).getB r = c.getB r := by simp [Ctx.getB]

end Sys2Proof.Machine
end

