-- ==== Sys2Proof/Laws/Mem.lean ====
section
/-! SUPPORT. Memory: the canonical form is kept, a read after a write, and what leaves every byte as it was. -/

namespace Sys2Proof.Machine
open Sys2Proof

/-! ## Sparse maps: reading after a write -/

@[simp] theorem Sparse.find_drop {α : Type} (m : Sparse α) (k : Nat) : Sparse.find (Sparse.drop m k) k = none := by
  induction m with
  | nil => rfl
  | cons e m ih =>
    obtain ⟨j, b⟩ := e
    by_cases h : j = k
    · simp [Sparse.drop, h, ih]
    · simp [Sparse.drop, h, Sparse.find, ih]

theorem Sparse.find_drop_ne {α : Type} (m : Sparse α) (k l : Nat) (h : l ≠ k) : Sparse.find (Sparse.drop m k) l = Sparse.find m l := by
  induction m with
  | nil => rfl
  | cons e m ih =>
    obtain ⟨j, b⟩ := e
    by_cases hj : j = k
    · subst hj; simp [Sparse.drop, Sparse.find, ih, Ne.symm h]
    · simp [Sparse.drop, hj, Sparse.find, ih]

theorem Sparse.at_write {α : Type} [DecidableEq α] (m : Sparse α) (d : α) (k l : Nat) (a : α) :
    Sparse.at (Sparse.write m d k a) d l = if l = k then a else Sparse.at m d l := by
  unfold Sparse.write
  by_cases hl : l = k
  · subst hl
    by_cases ha : a = d
    · simp [Sparse.at, ha]
    · simp [ha]
  · by_cases ha : a = d
    · simp [Sparse.at, ha, hl, Sparse.find_drop_ne m k l hl]
    · simp [ha, hl, Sparse.at_insert_ne m d k l a hl]

/-! ## Sparse maps: the canonical form -/

/-- Every key is above a bound. -/
def Sparse.above {α : Type} (b : Nat) (m : Sparse α) : Prop := ∀ e ∈ m, b < e.1

theorem Sparse.rising_cons {α : Type} (j : Nat) (a : α) (m : Sparse α) :
    Sparse.rising ((j, a) :: m) = true ↔ Sparse.above j m ∧ Sparse.rising m = true := by
  induction m generalizing j a with
  | nil => simp [Sparse.rising, Sparse.above]
  | cons e m ih =>
    obtain ⟨k, b⟩ := e
    rw [Sparse.rising, Bool.and_eq_true, decide_eq_true_eq, ih k b]
    constructor
    · rintro ⟨h1, h2, h3⟩
      refine ⟨?_, h2, h3⟩
      intro e he
      rcases List.mem_cons.mp he with rfl | he
      · exact h1
      · exact Nat.lt_trans h1 (h2 e he)
    · rintro ⟨h1, h2, h3⟩
      exact ⟨h1 (k, b) (List.mem_cons_self ..), h2, h3⟩

theorem Sparse.above_drop {α : Type} (b k : Nat) (m : Sparse α) (h : Sparse.above b m) : Sparse.above b (Sparse.drop m k) := by
  induction m with
  | nil => exact h
  | cons e m ih =>
    obtain ⟨j, a⟩ := e
    have h2 : Sparse.above b m := fun e he => h e (List.mem_cons_of_mem _ he)
    simp only [Sparse.drop]
    split
    · exact ih h2
    · intro e he
      rcases List.mem_cons.mp he with rfl | he
      · exact h (j, a) (List.mem_cons_self ..)
      · exact ih h2 e he

theorem Sparse.above_insert {α : Type} (b k : Nat) (v : α) (m : Sparse α) (hk : b < k) (h : Sparse.above b m) :
    Sparse.above b (Sparse.insert m k v) := by
  induction m with
  | nil => intro e he; simp [Sparse.insert] at he; subst he; exact hk
  | cons e m ih =>
    obtain ⟨j, a⟩ := e
    have h2 : Sparse.above b m := fun e he => h e (List.mem_cons_of_mem _ he)
    have hj : b < j := h (j, a) (List.mem_cons_self ..)
    simp only [Sparse.insert]
    split
    · intro e he
      rcases List.mem_cons.mp he with rfl | he
      · exact hk
      · exact h e he
    · split
      · intro e he
        rcases List.mem_cons.mp he with rfl | he
        · exact hk
        · exact h2 e he
      · intro e he
        rcases List.mem_cons.mp he with rfl | he
        · exact hj
        · exact ih h2 e he

theorem Sparse.rising_drop {α : Type} (k : Nat) (m : Sparse α) (h : Sparse.rising m = true) : Sparse.rising (Sparse.drop m k) = true := by
  induction m with
  | nil => rfl
  | cons e m ih =>
    obtain ⟨j, a⟩ := e
    have ⟨h1, h2⟩ := (Sparse.rising_cons j a m).mp h
    simp only [Sparse.drop]
    split
    · exact ih h2
    · exact (Sparse.rising_cons j a _).mpr ⟨Sparse.above_drop j k m h1, ih h2⟩

theorem Sparse.rising_insert {α : Type} (k : Nat) (v : α) (m : Sparse α) (h : Sparse.rising m = true) :
    Sparse.rising (Sparse.insert m k v) = true := by
  induction m with
  | nil => rfl
  | cons e m ih =>
    obtain ⟨j, a⟩ := e
    have ⟨h1, h2⟩ := (Sparse.rising_cons j a m).mp h
    simp only [Sparse.insert]
    split
    · next hk =>
      refine (Sparse.rising_cons k v _).mpr ⟨?_, h⟩
      intro e he
      rcases List.mem_cons.mp he with rfl | he
      · exact hk
      · exact Nat.lt_trans hk (h1 e he)
    · split
      · next hk hj => subst hj; exact (Sparse.rising_cons _ v m).mpr ⟨h1, h2⟩
      · next hk hj => exact (Sparse.rising_cons j a _).mpr ⟨Sparse.above_insert j k v m (by omega) h1, ih h2⟩

theorem Sparse.noDefault_drop {α : Type} [DecidableEq α] (d : α) (k : Nat) (m : Sparse α) (h : Sparse.noDefault d m = true) :
    Sparse.noDefault d (Sparse.drop m k) = true := by
  induction m with
  | nil => rfl
  | cons e m ih =>
    obtain ⟨j, a⟩ := e
    simp only [Sparse.noDefault, Bool.and_eq_true] at h
    simp only [Sparse.drop]
    split
    · exact ih h.2
    · simp only [Sparse.noDefault, Bool.and_eq_true]; exact ⟨h.1, ih h.2⟩

theorem Sparse.noDefault_insert {α : Type} [DecidableEq α] (d : α) (k : Nat) (v : α) (m : Sparse α) (hv : v ≠ d) (h : Sparse.noDefault d m = true) :
    Sparse.noDefault d (Sparse.insert m k v) = true := by
  induction m with
  | nil => simp [Sparse.insert, Sparse.noDefault, hv]
  | cons e m ih =>
    obtain ⟨j, a⟩ := e
    have h' := h
    simp only [Sparse.noDefault, Bool.and_eq_true] at h
    simp only [Sparse.insert]
    split
    · simp [Sparse.noDefault, hv, h.2] at *; exact h'
    · split
      · simp [Sparse.noDefault, hv, h.2]
      · simp only [Sparse.noDefault, Bool.and_eq_true]; exact ⟨h.1, ih h.2⟩

/-- Writing keeps the canonical form. -/
theorem Sparse.canonical_write {α : Type} [DecidableEq α] (m : Sparse α) (d : α) (k : Nat) (a : α) (h : Sparse.canonical d m = true) :
    Sparse.canonical d (Sparse.write m d k a) = true := by
  simp only [Sparse.canonical, Bool.and_eq_true] at h ⊢
  unfold Sparse.write
  split
  · exact ⟨Sparse.rising_drop k m h.1, Sparse.noDefault_drop d k m h.2⟩
  · next ha => exact ⟨Sparse.rising_insert k a m h.1, Sparse.noDefault_insert d k a m ha h.2⟩

theorem Sparse.above_filter {α : Type} (b : Nat) (t : Nat × α → Bool) (m : Sparse α) (h : Sparse.above b m) : Sparse.above b (m.filter t) :=
  fun e he => h e (List.mem_filter.mp he).1

/-- Leaving out entries keeps the canonical form. -/
theorem Sparse.canonical_filter {α : Type} [DecidableEq α] (d : α) (t : Nat × α → Bool) (m : Sparse α) (h : Sparse.canonical d m = true) :
    Sparse.canonical d (m.filter t) = true := by
  induction m with
  | nil => rfl
  | cons e m ih =>
    obtain ⟨j, a⟩ := e
    simp only [Sparse.canonical, Bool.and_eq_true, Sparse.rising_cons, Sparse.noDefault] at h ih
    have ih := ih ⟨h.1.2, h.2.2⟩
    simp only [Sparse.canonical, Bool.and_eq_true]
    by_cases ht : t (j, a) = true
    · rw [List.filter_cons_of_pos ht]
      exact ⟨(Sparse.rising_cons j a _).mpr ⟨Sparse.above_filter j t m h.1.1, ih.1⟩, by simp only [Sparse.noDefault, Bool.and_eq_true]; exact ⟨h.2.1, ih.2⟩⟩
    · rw [List.filter_cons_of_neg ht]; exact ih

/-! ## Bytes -/

theorem rekeyBytes_wf (inst : Nat) (n : Nat) : ∀ (s : State) (a : Nat), s.memOk → (s.rekeyBytes inst a n).memOk := by
  induction n with
  | zero => intro s a h; exact h
  | succ n ih => intro s a h; exact ih _ _ (Sparse.canonical_write _ _ _ _ h : (s.rekeyByte inst a).memOk)

theorem rekeyLine_wf (s : State) (inst a : Nat) (h : s.memOk) : (s.rekeyLine inst a).memOk := by
  unfold State.rekeyLine; dsimp only; split
  · exact h
  · exact rekeyBytes_wf _ _ _ _ h

theorem putByte_wf (s : State) (key a : Nat) (b : Byte) (h : s.memOk) : (s.putByte key a b).memOk := by
  unfold State.putByte
  split
  · split
    · exact h
    · exact Sparse.canonical_write _ _ _ _ (rekeyLine_wf s _ a h)
  · exact Sparse.canonical_write _ _ _ _ h

theorem write_wf (key : Nat) (n : Nat) : ∀ (s : State) (a w : Nat), s.memOk → (s.write key a n w).memOk := by
  induction n with
  | zero => intro s a w h; exact h
  | succ n ih => intro s a w h; exact ih _ _ _ (putByte_wf s key a _ h)

theorem zeroBytes_wf (n : Nat) : ∀ (s : State) (a : Nat), s.memOk → (s.zeroBytes a n).memOk := by
  induction n with
  | zero => intro s a h; exact h
  | succ n ih => intro s a h; exact ih _ _ (Sparse.canonical_write s.mem Memory.blank a 0#8 h : Memory.wf (Sparse.write s.mem Memory.blank a 0#8) = true)

/-- What `byteAt` reads depends on five fields alone. -/
theorem byteAt_congr (s t : State) (key a : Nat) (hm : t.mem = s.mem) (hk : t.keyOf = s.keyOf) (hc : t.clearKey = s.clearKey) (hy : t.keys = s.keys)
    (hf : t.funcs = s.funcs) : t.byteAt key a = s.byteAt key a := by
  unfold State.byteAt State.unscrubbed State.allRanges State.seen State.writer
  rw [hm, hk, hc, hy, hf]

/-! ## The lines of HBM (R422) -/

/-- What an instance deciphers of a byte depends on how memory holds it and who wrote it. -/
theorem seen_congr (s t : State) (inst x : Nat) (hm : Sparse.at t.mem Memory.blank x = Sparse.at s.mem Memory.blank x) (hw : t.writer x = s.writer x) :
    t.seen inst x = s.seen inst x := by unfold State.seen; rw [hm, hw]

theorem rekeyByte_writer (s : State) (inst a x : Nat) : (s.rekeyByte inst a).writer x = if x = a then inst else s.writer x := by
  unfold State.rekeyByte State.writer; exact Sparse.at_write _ _ _ _ _
theorem rekeyByte_mem (s : State) (inst a x : Nat) :
    Sparse.at (s.rekeyByte inst a).mem Memory.blank x = if x = a then s.seen inst a else Sparse.at s.mem Memory.blank x := by
  unfold State.rekeyByte; exact Sparse.at_write _ _ _ _ _

/-- The instance a byte is rekeyed to still deciphers every byte as before; every instance does so of the other bytes. -/
theorem rekeyByte_seen (s : State) (inst a x : Nat) : (s.rekeyByte inst a).seen inst x = s.seen inst x := by
  by_cases h : x = a
  · subst h
    conv => lhs; unfold State.seen
    simp [rekeyByte_writer, rekeyByte_mem]
  · exact seen_congr _ _ _ _ (by rw [rekeyByte_mem, if_neg h]) (by rw [rekeyByte_writer, if_neg h])

/-- What rekeying a run of bytes does: fields beside memory stand, bytes outside it are as they were, the instance deciphers every byte
as before and has written those inside. -/
theorem rekeyBytes_spec (inst n : Nat) : ∀ (s : State) (a : Nat),
    (s.rekeyBytes inst a n).funcs = s.funcs ∧ (s.rekeyBytes inst a n).keys = s.keys ∧ (s.rekeyBytes inst a n).clearKey = s.clearKey ∧
    (∀ x, (s.rekeyBytes inst a n).seen inst x = s.seen inst x) ∧
    (∀ x, a ≤ x → x < a + n → (s.rekeyBytes inst a n).writer x = inst) ∧
    (∀ x, (x < a ∨ a + n ≤ x) → (s.rekeyBytes inst a n).writer x = s.writer x ∧
      Sparse.at (s.rekeyBytes inst a n).mem Memory.blank x = Sparse.at s.mem Memory.blank x) := by
  induction n with
  | zero => intro s a; exact ⟨rfl, rfl, rfl, fun _ => rfl, fun x h1 h2 => by omega, fun _ _ => ⟨rfl, rfl⟩⟩
  | succ n ih =>
    intro s a
    obtain ⟨h1, h2, h3, h4, h5, h6⟩ := ih (s.rekeyByte inst a) (a + 1)
    refine ⟨h1, h2, h3, fun x => (h4 x).trans (rekeyByte_seen s inst a x), fun x hx hx' => ?_, fun x hx => ?_⟩
    · by_cases e : x = a
      · rw [State.rekeyBytes, (h6 x (by omega)).1, rekeyByte_writer, if_pos e]
      · exact h5 x (by omega) (by omega)
    · have := h6 x (by omega)
      rw [rekeyByte_writer, rekeyByte_mem, if_neg (by omega), if_neg (by omega)] at this
      exact this

/-- What rekeying the line of a byte does. -/
theorem rekeyLine_spec (s : State) (inst a : Nat) :
    (s.rekeyLine inst a).funcs = s.funcs ∧ (s.rekeyLine inst a).keys = s.keys ∧ (s.rekeyLine inst a).clearKey = s.clearKey ∧
    (∀ x, (s.rekeyLine inst a).seen inst x = s.seen inst x) ∧ (s.rekeyLine inst a).writer a = inst ∧
    (∀ x, x / lineSize ≠ a / lineSize → (s.rekeyLine inst a).writer x = s.writer x ∧
      Sparse.at (s.rekeyLine inst a).mem Memory.blank x = Sparse.at s.mem Memory.blank x) := by
  have line : a / lineSize * lineSize ≤ a ∧ a < a / lineSize * lineSize + lineSize := by unfold lineSize; omega
  unfold State.rekeyLine
  dsimp only
  split
  · next h =>
    refine ⟨rfl, rfl, rfl, fun _ => rfl, ?_, fun _ _ => ⟨rfl, rfl⟩⟩
    simp only [Bool.or_eq_true, Bool.and_eq_true, beq_iff_eq, List.all_eq_true, List.mem_range] at h
    rcases h with ⟨h1, h2⟩ | h
    · unfold State.writer; rw [h1, h2]; rfl
    · have := h (a - a / lineSize * lineSize) (by omega)
      rwa [Nat.add_sub_cancel' line.1] at this
  · obtain ⟨h1, h2, h3, h4, h5, h6⟩ := rekeyBytes_spec inst lineSize s (a / lineSize * lineSize)
    refine ⟨h1, h2, h3, h4, h5 a line.1 line.2, fun x hx => h6 x ?_⟩
    unfold lineSize at *; omega

@[simp] theorem putByte_funcs (s : State) (key a : Nat) (b : Byte) : (s.putByte key a b).funcs = s.funcs := by
  unfold State.putByte
  split
  · split
    · rfl
    · exact (rekeyLine_spec s _ a).1
  · rfl
@[simp] theorem putByte_keys (s : State) (key a : Nat) (b : Byte) : (s.putByte key a b).keys = s.keys := by
  unfold State.putByte
  split
  · split
    · rfl
    · exact (rekeyLine_spec s _ a).2.1
  · rfl

/-- A byte written reads back under the key it was written with, where no scrub hides it. -/
theorem byteAt_putByte (s : State) (key a : Nat) (b : Byte) (hk : s.keyValid key a) (hs : s.unscrubbed a = false) :
    (s.putByte key a b).byteAt key a = b := by
  have hu : (s.putByte key a b).unscrubbed a = false := by unfold State.unscrubbed State.allRanges at *; rw [putByte_funcs]; exact hs
  unfold State.byteAt
  rw [hu, putByte_keys]
  by_cases h : a < hbmEnd
  · obtain ⟨inst, hi⟩ := Option.isSome_iff_exists.mp (hk h)
    have hw : State.writer { s.rekeyLine inst a with mem := Sparse.write (s.rekeyLine inst a).mem Memory.blank a b } a = inst := (rekeyLine_spec s inst a).2.2.2.2.1
    simp only [h, hi, State.putByte, if_true, State.seen, hw, Sparse.at_write, decide_true, Bool.true_or]
    rfl
  · simp [h, State.putByte, Sparse.at_write]

/-- Other bytes are as they were, but for those of the same line read under another key. -/
theorem byteAt_putByte_ne (s : State) (key a : Nat) (b : Byte) (key' a' : Nat) (h : a' ≠ a)
    (hk : key' = key ∨ hbmEnd ≤ a' ∨ a' / lineSize ≠ a / lineSize) : (s.putByte key a b).byteAt key' a' = s.byteAt key' a' := by
  unfold State.byteAt State.unscrubbed State.allRanges
  rw [putByte_funcs, putByte_keys]
  congr 1
  unfold State.putByte
  by_cases ha : a < hbmEnd
  · rw [if_pos ha]
    cases hi : Sparse.find s.keys key with
    | none => rfl
    | some inst =>
      dsimp only
      obtain ⟨-, -, -, h4, -, h6⟩ := rekeyLine_spec s inst a
      have hb : hbmEnd = hbmEnd / lineSize * lineSize := by decide
      by_cases hb' : a' < hbmEnd
      · rw [if_pos hb', if_pos hb']
        cases hj : Sparse.find s.keys key' with
        | none => rfl
        | some inst' =>
          dsimp only
          have e : State.seen { s.rekeyLine inst a with mem := Sparse.write (s.rekeyLine inst a).mem Memory.blank a b } inst' a' = (s.rekeyLine inst a).seen inst' a' :=
            seen_congr _ _ _ _ (by simp only [Sparse.at_write, h, if_false]) rfl
          rw [e]
          rcases hk with hk | hk | hk
          · have : inst' = inst := by rw [hk, hi] at hj; exact (Option.some.inj hj).symm
            rw [this]; exact h4 a'
          · omega
          · exact seen_congr _ _ _ _ (h6 a' hk).2 (h6 a' hk).1
      · rw [if_neg hb', if_neg hb']
        rw [Sparse.at_write, if_neg h]
        refine (h6 a' ?_).2
        unfold lineSize at *; omega
  · rw [if_neg ha]
    split
    · split
      · rfl
      · exact seen_congr _ _ _ _ (by simp only [Sparse.at_write, h, if_false]) rfl
    · rw [Sparse.at_write, if_neg h]

theorem write_funcs (key : Nat) (n : Nat) : ∀ (s : State) (a w : Nat), (s.write key a n w).funcs = s.funcs := by
  induction n with
  | zero => intro s a w; rfl
  | succ n ih => intro s a w; exact (ih _ _ _).trans (putByte_funcs ..)

theorem write_keys (key : Nat) (n : Nat) : ∀ (s : State) (a w : Nat), (s.write key a n w).keys = s.keys := by
  induction n with
  | zero => intro s a w; rfl
  | succ n ih => intro s a w; exact (ih _ _ _).trans (putByte_keys ..)

/-- A write of `n` bytes leaves every other byte, but for those of its lines read under another key. -/
theorem byteAt_write_ne (key : Nat) (n : Nat) : ∀ (s : State) (a w : Nat) (key' a' : Nat), Untouched key a n key' a' →
    (s.write key a n w).byteAt key' a' = s.byteAt key' a' := by
  induction n with
  | zero => intro s a w key' a' _; rfl
  | succ n ih =>
    intro s a w key' a' ⟨h, hl⟩
    refine (ih _ _ _ _ _ ⟨by omega, ?_⟩).trans (byteAt_putByte_ne s key a _ key' a' (by omega) ?_) <;> unfold lineSize at * <;> omega

/-- Byte `i` of a value written little-endian reads back (R4). -/
theorem byteAt_write (key : Nat) (n : Nat) : ∀ (s : State) (a w i : Nat), i < n → s.keyValid key (a + i) →
    s.unscrubbed (a + i) = false → (s.write key a n w).byteAt key (a + i) = BitVec.ofNat 8 (w / 256 ^ i) := by
  induction n with
  | zero => intro s a w i h; exact absurd h (Nat.not_lt_zero i)
  | succ n ih =>
    intro s a w i hi hk hu
    cases i with
    | zero =>
      refine (byteAt_write_ne key n _ (a + 1) _ key (a + 0) ⟨by omega, .inl rfl⟩).trans ?_
      simpa using byteAt_putByte s key a (BitVec.ofNat 8 w) hk hu
    | succ i =>
      have e : a + (i + 1) = a + 1 + i := by omega
      rw [e] at hk hu ⊢
      rw [Nat.pow_succ, Nat.mul_comm, ← Nat.div_div_eq_div_mul]
      refine ih (s.putByte key a (BitVec.ofNat 8 w)) (a + 1) (w / 256) i (by omega) ?_ ?_
      · unfold State.keyValid at *; rwa [putByte_keys]
      · unfold State.unscrubbed State.allRanges at *; rwa [putByte_funcs]

/-! ## Scrubs (R353) -/

@[simp] theorem zeroBytes_funcs (n : Nat) : ∀ (s : State) (a : Nat), (s.zeroBytes a n).funcs = s.funcs := by
  induction n with
  | zero => intro s a; rfl
  | succ n ih => intro s a; exact ih _ _
@[simp] theorem zeroBytes_keys (n : Nat) : ∀ (s : State) (a : Nat), (s.zeroBytes a n).keys = s.keys := by
  induction n with
  | zero => intro s a; rfl
  | succ n ih => intro s a; exact ih _ _

@[simp] theorem zeroBytes_clearKey (n : Nat) : ∀ (s : State) (a : Nat), (s.zeroBytes a n).clearKey = s.clearKey := by
  induction n with
  | zero => intro s a; rfl
  | succ n ih => intro s a; exact ih _ _

/-- A byte as memory holds it, and the instance that wrote it. -/
theorem zeroBytes_at (n : Nat) : ∀ (s : State) (a x : Nat),
    Sparse.at (s.zeroBytes a n).mem Memory.blank x = (if a ≤ x ∧ x < a + n then 0#8 else Sparse.at s.mem Memory.blank x) ∧
    (s.zeroBytes a n).writer x = (if a ≤ x ∧ x < a + n ∧ x < hbmEnd then clearedInst else s.writer x) := by
  induction n with
  | zero => intro s a x; simp only [State.zeroBytes]; constructor <;> rw [if_neg (by omega)]
  | succ n ih =>
    intro s a x
    have h := ih { s with mem := Sparse.write s.mem Memory.blank a 0#8, keyOf := if a < hbmEnd then Sparse.write s.keyOf s.clearKey a clearedInst else s.keyOf } (a + 1) x
    simp only [State.zeroBytes]
    constructor
    · rw [h.1]
      simp only [Sparse.at_write]
      by_cases h1 : a + 1 ≤ x ∧ x < a + 1 + n
      · rw [if_pos h1, if_pos (by omega)]
      · rw [if_neg h1]
        by_cases h2 : x = a
        · rw [if_pos h2, if_pos (by omega)]
        · rw [if_neg h2, if_neg (by omega)]
    · rw [h.2]
      unfold State.writer
      by_cases h1 : a + 1 ≤ x ∧ x < a + 1 + n ∧ x < hbmEnd
      · rw [if_pos h1, if_pos (by omega)]
      · rw [if_neg h1]
        by_cases h2 : x = a
        · subst h2
          by_cases h3 : x < hbmEnd
          · rw [if_pos h3, if_pos (by omega), Sparse.at_write, if_pos rfl]
          · rw [if_neg h3, if_neg (by omega)]
        · rw [if_neg (show ¬ (a ≤ x ∧ x < a + (n + 1) ∧ x < hbmEnd) by omega)]
          split
          · rw [Sparse.at_write, if_neg h2]
          · rfl

/-- A byte of a block that the scrub of a range has still to clear. -/
theorem blockOf_some (r : Range) (a k : Nat) (h : r.blockOf a = some k) :
    ∃ w, r.mark = some w ∧ r.base + w ≤ a ∧ a < r.base + r.len ∧ k = w + (a - r.base - w) / 256 * 256 ∧ r.touched.contains k = false := by
  unfold Range.blockOf at h
  split at h
  · exact absurd h (by simp)
  · next w hw =>
    dsimp only at h
    split at h
    · next hc =>
      simp only [Bool.and_eq_true, decide_eq_true_eq, Bool.not_eq_true'] at hc
      exact ⟨w, hw, hc.1.1, hc.1.2, by simpa using h.symm, by rw [← Option.some.inj h]; exact hc.2⟩
    · exact absurd h (by simp)

/-- Every byte of such a block belongs to it. -/
theorem blockOf_block (r : Range) (a k x : Nat) (h : r.blockOf a = some k) (h1 : r.base + k ≤ x) (h2 : x < r.base + k + min 256 (r.len - k)) :
    r.blockOf x = some k := by
  obtain ⟨w, hw, h3, h4, hk, ht⟩ := blockOf_some r a k h
  have hx : w + (x - r.base - w) / 256 * 256 = k := by omega
  unfold Range.blockOf
  simp only [hw, hx, ht]
  rw [if_pos (by simp; omega)]

@[simp] theorem healWords_mem (s : State) (a n : Nat) : (s.healWords a n).mem = s.mem := rfl

/-- What a scrub of bytes leaves: beside bytes, the fields that readings depend on. -/
theorem scrubBytes_eq (s : State) (a n : Nat) : (s.scrubBytes a n).mem = (s.zeroBytes a n).mem ∧ (s.scrubBytes a n).keyOf = (s.zeroBytes a n).keyOf ∧
    (s.scrubBytes a n).clearKey = s.clearKey ∧ (s.scrubBytes a n).funcs = s.funcs ∧ (s.scrubBytes a n).keys = s.keys := by
  have h : ∀ t : State, (t.dropReservations a n).mem = t.mem ∧ (t.dropReservations a n).keyOf = t.keyOf ∧ (t.dropReservations a n).clearKey = t.clearKey ∧
      (t.dropReservations a n).funcs = t.funcs ∧ (t.dropReservations a n).keys = t.keys := by
    intro t; unfold State.dropReservations; dsimp only; split <;> exact ⟨rfl, rfl, rfl, rfl, rfl⟩
  obtain ⟨h1, h2, h3, h4, h5⟩ := h ((s.zeroBytes a n).healWords a n)
  exact ⟨h1, h2, h3.trans (zeroBytes_clearKey ..), h4.trans (zeroBytes_funcs ..), h5.trans (zeroBytes_keys ..)⟩

theorem scrubBytes_at (s : State) (a n x : Nat) :
    Sparse.at (s.scrubBytes a n).mem Memory.blank x = (if a ≤ x ∧ x < a + n then 0#8 else Sparse.at s.mem Memory.blank x) ∧
    (s.scrubBytes a n).writer x = (if a ≤ x ∧ x < a + n ∧ x < hbmEnd then clearedInst else s.writer x) := by
  obtain ⟨h1, h2, h3, -⟩ := scrubBytes_eq s a n
  obtain ⟨z1, z2⟩ := zeroBytes_at n s a x
  refine ⟨h1 ▸ z1, Eq.trans ?_ z2⟩
  unfold State.writer; rw [h2, h3, zeroBytes_clearKey]

/-- Zeroing blocks that read as zero changes no reading. -/
theorem zeroBlocks_at (rs : List Range) (a : Nat) : ∀ (s : State) (x : Nat),
    let t := rs.foldl (fun t r => State.zeroBlock t r a) s
    t.funcs = s.funcs ∧ t.keys = s.keys ∧
    ((∃ r ∈ rs, ∃ k, r.blockOf a = some k ∧ r.blockOf x = some k) →
      Sparse.at t.mem Memory.blank x = 0#8 ∧ (x < hbmEnd → t.writer x = clearedInst)) ∧
    ((¬ ∃ r ∈ rs, ∃ k, r.blockOf a = some k ∧ r.blockOf x = some k) →
      Sparse.at t.mem Memory.blank x = Sparse.at s.mem Memory.blank x ∧ t.writer x = s.writer x) := by
  induction rs with
  | nil => intro s x; simp
  | cons r rs ih =>
    intro s x
    simp only [List.foldl_cons]
    have ih := ih (s.zeroBlock r a) x
    have hf : (s.zeroBlock r a).funcs = s.funcs := by unfold State.zeroBlock; split <;> first | exact (scrubBytes_eq ..).2.2.2.1 | rfl
    have hk : (s.zeroBlock r a).keys = s.keys := by unfold State.zeroBlock; split <;> first | exact (scrubBytes_eq ..).2.2.2.2 | rfl
    refine ⟨ih.1.trans hf, ih.2.1.trans hk, ?_, ?_⟩
    · intro ⟨r', hr', k, ha, hx⟩
      by_cases hrest : ∃ r ∈ rs, ∃ k, r.blockOf a = some k ∧ r.blockOf x = some k
      · exact ih.2.2.1 hrest
      · have hrr : r' = r := by
          rcases List.mem_cons.mp hr' with e | e
          · exact e
          · exact absurd ⟨r', e, k, ha, hx⟩ hrest
        subst hrr
        have e := ih.2.2.2 hrest
        obtain ⟨w, hw, h3, h4, hkx, ht⟩ := blockOf_some r' x k hx
        have hin : r'.base + k ≤ x ∧ x < r'.base + k + min 256 (r'.len - k) := by omega
        have z := scrubBytes_at s (r'.base + k) (min 256 (r'.len - k)) x
        have hz : s.zeroBlock r' a = s.scrubBytes (r'.base + k) (min 256 (r'.len - k)) := by unfold State.zeroBlock; rw [ha]
        rw [hz] at e ⊢
        refine ⟨e.1.trans (z.1.trans (if_pos hin)), fun hb => e.2.trans (z.2.trans (if_pos ⟨hin.1, hin.2, hb⟩))⟩
    · intro hno
      have hrest : ¬ ∃ r ∈ rs, ∃ k, r.blockOf a = some k ∧ r.blockOf x = some k :=
        fun ⟨r', hr', h⟩ => hno ⟨r', List.mem_cons_of_mem _ hr', h⟩
      have e := ih.2.2.2 hrest
      cases hb : r.blockOf a with
      | none =>
        have hz : s.zeroBlock r a = s := by unfold State.zeroBlock; rw [hb]
        rw [hz] at e ⊢; exact e
      | some k =>
        have hz : s.zeroBlock r a = s.scrubBytes (r.base + k) (min 256 (r.len - k)) := by unfold State.zeroBlock; rw [hb]
        rw [hz] at e ⊢
        have hout : ¬ (r.base + k ≤ x ∧ x < r.base + k + min 256 (r.len - k)) :=
          fun ⟨h1, h2⟩ => hno ⟨r, List.mem_cons_self .., k, hb, blockOf_block r a k x hb h1 h2⟩
        have z := scrubBytes_at s (r.base + k) (min 256 (r.len - k)) x
        refine ⟨e.1.trans (z.1.trans (if_neg hout)), e.2.trans (z.2.trans (if_neg (fun h => hout ⟨h.1, h.2.1⟩)))⟩

/-- A range once the block of a byte counts as scrubbed. -/
theorem touch_unscrubbed (r : Range) (a x : Nat) :
    (r.touch a).unscrubbed x = (r.unscrubbed x && !decide (∃ k, r.blockOf a = some k ∧ r.blockOf x = some k)) := by
  unfold Range.touch Range.unscrubbed
  cases ha : r.blockOf a with
  | none => simp
  | some k =>
    simp only [Option.some.injEq, exists_eq_left']
    cases hx : r.blockOf x with
    | none =>
      have : ({ r with touched := k :: r.touched } : Range).blockOf x = none := by
        unfold Range.blockOf at hx ⊢
        cases hw : r.mark with
        | none => rfl
        | some w =>
          rw [hw] at hx
          dsimp only at hx ⊢
          split at hx
          · exact absurd hx (by simp)
          · next hc =>
            rw [if_neg]
            intro h2
            apply hc
            simp only [Bool.and_eq_true, List.contains_cons, Bool.not_or] at h2 ⊢
            exact ⟨h2.1, h2.2.2⟩
      simp [this]
    | some j =>
      obtain ⟨w, hw, h1, h2, hj, ht⟩ := blockOf_some r x j hx
      unfold Range.blockOf
      simp only [hw, ← hj]
      by_cases hkj : j = k
      · subst hkj; simp
      · simp [hkj, h1, h2]
        simpa using ht

theorem touch_any (rs : List Range) (a x : Nat) :
    (rs.map (·.touch a)).any (·.unscrubbed x) = true ↔ ∃ r ∈ rs, r.unscrubbed x = true ∧ ¬ ∃ k, r.blockOf a = some k ∧ r.blockOf x = some k := by
  rw [List.any_map, List.any_eq_true]
  constructor
  · rintro ⟨r, hr, h⟩
    rw [Function.comp, touch_unscrubbed] at h
    simp only [Bool.and_eq_true, Bool.not_eq_true', decide_eq_false_iff_not] at h
    exact ⟨r, hr, h⟩
  · rintro ⟨r, hr, h⟩
    refine ⟨r, hr, ?_⟩
    rw [Function.comp, touch_unscrubbed]
    simp only [Bool.and_eq_true, Bool.not_eq_true', decide_eq_false_iff_not]
    exact h

theorem allRanges_touch (s : State) (a : Nat) (fs : Sparse Func) (h : fs = s.funcs.map (fun f => (f.1, { f.2 with ranges := f.2.ranges.map (·.touch a) }))) :
    fs.flatMap (fun f => f.2.ranges) = s.allRanges.map (·.touch a) := by
  subst h
  unfold State.allRanges
  induction s.funcs with
  | nil => rfl
  | cons f fs ih => simp only [List.map_cons, List.flatMap_cons, List.map_append, ih]

/-- Preparing a block for a store changes no reading (R353). -/
theorem byteAt_touchBlock (s : State) (a key x : Nat) : (s.touchBlock a).byteAt key x = s.byteAt key x := by
  unfold State.touchBlock
  split
  · next hu =>
    have z := zeroBlocks_at s.allRanges a s x
    dsimp only at z
    generalize hT : s.allRanges.foldl (fun t r => State.zeroBlock t r a) s = T at z
    obtain ⟨hf, hk, h1, h2⟩ := z
    have hunscr : (State.unscrubbed { T with funcs := s.funcs.map (fun f => (f.1, { f.2 with ranges := f.2.ranges.map (·.touch a) })) } x = true) ↔
        ∃ r ∈ s.allRanges, r.unscrubbed x = true ∧ ¬ ∃ k, r.blockOf a = some k ∧ r.blockOf x = some k := by
      rw [← touch_any]
      unfold State.unscrubbed
      rw [show State.allRanges { T with funcs := s.funcs.map (fun f => (f.1, { f.2 with ranges := f.2.ranges.map (·.touch a) })) } = s.allRanges.map (·.touch a) from
        allRanges_touch s a _ rfl]
    unfold State.byteAt
    by_cases hx : ∃ r ∈ s.allRanges, ∃ k, r.blockOf a = some k ∧ r.blockOf x = some k
    · have hsx : s.unscrubbed x = true := by
        obtain ⟨r, hr, k, _, hk⟩ := hx
        exact List.any_eq_true.mpr ⟨r, hr, by unfold Range.unscrubbed; rw [hk]; rfl⟩
      rw [if_pos hsx]
      obtain ⟨m0, k0⟩ := h1 hx
      dsimp only
      split
      · rfl
      · by_cases hb : x < hbmEnd
        · rw [if_pos hb]
          split
          · rfl
          · have hw : State.writer { T with funcs := s.funcs.map (fun f => (f.1, { f.2 with ranges := f.2.ranges.map (·.touch a) })) } x = clearedInst := k0 hb
            simp only [State.seen, hw, m0, if_true, decide_true, Bool.or_true]
        · rw [if_neg hb]; exact m0
    · obtain ⟨m0, k0⟩ := h2 hx
      have hsame : State.unscrubbed { T with funcs := s.funcs.map (fun f => (f.1, { f.2 with ranges := f.2.ranges.map (·.touch a) })) } x = s.unscrubbed x := by
        rw [Bool.eq_iff_iff, hunscr]
        unfold State.unscrubbed
        rw [List.any_eq_true]
        constructor
        · rintro ⟨r, hr, h, _⟩; exact ⟨r, hr, h⟩
        · rintro ⟨r, hr, h⟩; exact ⟨r, hr, h, fun ⟨k, hk⟩ => hx ⟨r, hr, k, hk⟩⟩
      rw [hsame]
      dsimp only
      have hs : ∀ inst, State.seen { T with funcs := s.funcs.map (fun f => (f.1, { f.2 with ranges := f.2.ranges.map (·.touch a) })) } inst x = s.seen inst x :=
        fun inst => seen_congr _ _ _ _ m0 k0
      rw [m0, hk]
      split
      · rfl
      · split
        · split
          · rfl
          · exact hs _
        · rfl
  · rfl

theorem byteAt_touchBlocks (n : Nat) : ∀ (s : State) (a key x : Nat), (s.touchBlocks a n).byteAt key x = s.byteAt key x := by
  induction n with
  | zero => intro s a key x; rfl
  | succ n ih =>
    intro s a key x
    unfold State.touchBlocks
    split
    · exact (ih _ _ _ _).trans (byteAt_touchBlock s a key x)
    · rfl

theorem touchBlock_keys (s : State) (a : Nat) : (s.touchBlock a).keys = s.keys := by
  unfold State.touchBlock
  split
  · exact (zeroBlocks_at s.allRanges a s 0).2.1
  · rfl

theorem touchBlock_unscrubbed (s : State) (a x : Nat) (h : (s.touchBlock a).unscrubbed x = true) : s.unscrubbed x = true ∧ x ≠ a := by
  unfold State.touchBlock at h
  split at h
  · next hu =>
    unfold State.unscrubbed at h
    rw [show State.allRanges { (s.allRanges.foldl (fun t r => State.zeroBlock t r a) s) with funcs := s.funcs.map (fun f => (f.1, { f.2 with ranges := f.2.ranges.map (·.touch a) })) }
      = s.allRanges.map (·.touch a) from allRanges_touch s a _ rfl] at h
    obtain ⟨r, hr, h1, h2⟩ := (touch_any s.allRanges a x).mp h
    refine ⟨List.any_eq_true.mpr ⟨r, hr, h1⟩, ?_⟩
    rintro rfl
    unfold Range.unscrubbed at h1
    obtain ⟨k, hk⟩ := Option.isSome_iff_exists.mp h1
    exact h2 ⟨k, hk, hk⟩
  · next hu => exact ⟨h, fun e => hu (e ▸ h)⟩

theorem touchBlocks_keys (n : Nat) : ∀ (s : State) (a : Nat), (s.touchBlocks a n).keys = s.keys := by
  induction n with
  | zero => intro s a; rfl
  | succ n ih =>
    intro s a
    unfold State.touchBlocks
    split
    · exact (ih _ _).trans (touchBlock_keys s a)
    · rfl

theorem touchBlocks_unscrubbed (n : Nat) : ∀ (s : State) (a x : Nat), (s.touchBlocks a n).unscrubbed x = true →
    s.unscrubbed x = true ∧ ¬ (a ≤ x ∧ x < a + n) := by
  induction n with
  | zero => intro s a x h; exact ⟨h, by omega⟩
  | succ n ih =>
    intro s a x h
    unfold State.touchBlocks at h
    split at h
    · have h1 := ih _ _ _ h
      have h2 := touchBlock_unscrubbed s a x h1.1
      exact ⟨h2.1, fun hx => h1.2 (by omega)⟩
    · next hn =>
      refine absurd ?_ hn
      obtain ⟨r, hr, hu⟩ := List.any_eq_true.mp h
      refine List.any_eq_true.mpr ⟨r, hr, ?_⟩
      unfold Range.unscrubbed at hu
      obtain ⟨k, hk⟩ := Option.isSome_iff_exists.mp hu
      obtain ⟨w, hw, _⟩ := blockOf_some r x k hk
      rw [hw]; rfl

/-- What a write does beside its bytes changes no reading. -/
structure SameBytes (s t : State) : Prop where
  mem : t.mem = s.mem
  keyOf : t.keyOf = s.keyOf
  clearKey : t.clearKey = s.clearKey
  keys : t.keys = s.keys
  funcs : t.funcs = s.funcs

theorem SameBytes.byteAt {s t : State} (h : SameBytes s t) (key a : Nat) : t.byteAt key a = s.byteAt key a :=
  byteAt_congr s t key a h.mem h.keyOf h.clearKey h.keys h.funcs

theorem SameBytes.trans {s t u : State} (h : SameBytes s t) (g : SameBytes t u) : SameBytes s u :=
  ⟨g.mem.trans h.mem, g.keyOf.trans h.keyOf, g.clearKey.trans h.clearKey, g.keys.trans h.keys, g.funcs.trans h.funcs⟩

theorem SameBytes.refl (s : State) : SameBytes s s := ⟨rfl, rfl, rfl, rfl, rfl⟩

theorem SameBytes.unscrubbed {s t : State} (h : SameBytes s t) (a : Nat) : t.unscrubbed a = s.unscrubbed a := by
  unfold State.unscrubbed State.allRanges; rw [h.funcs]

theorem sameBytes_fold {α : Type} (l : List α) (f : State → α → State) (h : ∀ t x, SameBytes t (f t x)) : ∀ s, SameBytes s (l.foldl f s) := by
  induction l with
  | nil => intro s; exact SameBytes.refl s
  | cons x l ih => intro s; exact (h s x).trans (ih (f s x))

theorem dropReservations_bytes (s : State) (a n : Nat) : SameBytes s (s.dropReservations a n) := by
  unfold State.dropReservations; dsimp only; split <;> exact ⟨rfl, rfl, rfl, rfl, rfl⟩

theorem tagGranules_bytes (s : State) (tag : BitVec 28) (a n : Nat) : SameBytes s (s.tagGranules tag a n) :=
  sameBytes_fold (spanOf granuleOf a n) (fun t g => t.setGranule g { t.granule g with tag := tag, wrote := s.tick, rel := (s.core (tag.extractLsb' 16 12).toNat).rel }) (fun _ _ => ⟨rfl, rfl, rfl, rfl, rfl⟩) s

theorem touch_eq (s : State) (core : Option Nat) (r : Region) (a n : Nat) : SameBytes (s.touchBlocks a n) (s.touch core r a n) := by
  unfold State.touch
  have h : SameBytes (s.touchBlocks a n) (((s.touchBlocks a n).healWords a n).dropReservations a n) :=
    SameBytes.trans (t := (s.touchBlocks a n).healWords a n) ⟨rfl, rfl, rfl, rfl, rfl⟩ (dropReservations_bytes _ a n)
  dsimp only
  split
  · exact h.trans (tagGranules_bytes _ _ _ _)
  · exact h

/-- Bytes after an atomic write through an access (R4, R353, R422). -/
theorem putAtomic_bytes (s : State) (core : Option Nat) (a : Access) (n w : Nat) :
    (∀ key x, Untouched a.key a.phys n key x → (s.putAtomic core a n w).byteAt key x = s.byteAt key x) ∧
    (∀ k, k < n → s.keyValid a.key (a.phys + k) → (s.putAtomic core a n w).byteAt a.key (a.phys + k) = BitVec.ofNat 8 (w / 256 ^ k)) := by
  unfold State.putAtomic
  split
  · next hg =>
    refine ⟨fun _ _ _ => rfl, fun k hk hv => ?_⟩
    simp only [State.keyGone, Bool.and_eq_true, decide_eq_true_eq, Option.isNone_iff_eq_none] at hg
    have h := hv (by omega)
    rw [hg.2] at h
    exact absurd h (by decide)
  · have e := touch_eq s core a.region a.phys n
    constructor
    · intro key x hx
      exact (byteAt_write_ne a.key n _ a.phys w key x hx).trans ((e.byteAt key x).trans (byteAt_touchBlocks n s a.phys key x))
    · intro k hk hv
      refine byteAt_write a.key n _ a.phys w k hk ?_ ?_
      · unfold State.keyValid; rw [e.keys, touchBlocks_keys]; exact hv
      · rw [e.unscrubbed]
        cases hu : (s.touchBlocks a.phys n).unscrubbed (a.phys + k) with
        | false => rfl
        | true => exact absurd ⟨by omega, by omega⟩ (touchBlocks_unscrubbed n s a.phys _ hu).2

end Sys2Proof.Machine
end

