-- ==== Sys2Proof/Laws/Dispatch.lean ====
section
/-! SUPPORT. The meaning that `exec` calls for each constructor. -/

namespace Sys2Proof.Machine
open Sys2Proof

@[simp] theorem exec_lui rd imm (s : State) : exec (.lui rd imm) s = execLui rd imm s := rfl
@[simp] theorem exec_auipc rd imm (s : State) : exec (.auipc rd imm) s = execAuipc rd imm s := rfl
@[simp] theorem exec_jal rd off (s : State) : exec (.jal rd off) s = execJal rd off s := rfl
@[simp] theorem exec_jalr rd rs1 imm (s : State) : exec (.jalr rd rs1 imm) s = execJalr rd rs1 imm s := rfl
@[simp] theorem exec_beq rs1 rs2 off (s : State) : exec (.beq rs1 rs2 off) s = execBeq rs1 rs2 off s := rfl
@[simp] theorem exec_bne rs1 rs2 off (s : State) : exec (.bne rs1 rs2 off) s = execBne rs1 rs2 off s := rfl
@[simp] theorem exec_blt rs1 rs2 off (s : State) : exec (.blt rs1 rs2 off) s = execBlt rs1 rs2 off s := rfl
@[simp] theorem exec_bge rs1 rs2 off (s : State) : exec (.bge rs1 rs2 off) s = execBge rs1 rs2 off s := rfl
@[simp] theorem exec_bltu rs1 rs2 off (s : State) : exec (.bltu rs1 rs2 off) s = execBltu rs1 rs2 off s := rfl
@[simp] theorem exec_bgeu rs1 rs2 off (s : State) : exec (.bgeu rs1 rs2 off) s = execBgeu rs1 rs2 off s := rfl
@[simp] theorem exec_lb rd rs1 imm (s : State) : exec (.lb rd rs1 imm) s = execLb rd rs1 imm s := rfl
@[simp] theorem exec_lh rd rs1 imm (s : State) : exec (.lh rd rs1 imm) s = execLh rd rs1 imm s := rfl
@[simp] theorem exec_lw rd rs1 imm (s : State) : exec (.lw rd rs1 imm) s = execLw rd rs1 imm s := rfl
@[simp] theorem exec_ld rd rs1 imm (s : State) : exec (.ld rd rs1 imm) s = execLd rd rs1 imm s := rfl
@[simp] theorem exec_lbu rd rs1 imm (s : State) : exec (.lbu rd rs1 imm) s = execLbu rd rs1 imm s := rfl
@[simp] theorem exec_lhu rd rs1 imm (s : State) : exec (.lhu rd rs1 imm) s = execLhu rd rs1 imm s := rfl
@[simp] theorem exec_lwu rd rs1 imm (s : State) : exec (.lwu rd rs1 imm) s = execLwu rd rs1 imm s := rfl
@[simp] theorem exec_sb rs1 rs2 imm (s : State) : exec (.sb rs1 rs2 imm) s = execSb rs1 rs2 imm s := rfl
@[simp] theorem exec_sh rs1 rs2 imm (s : State) : exec (.sh rs1 rs2 imm) s = execSh rs1 rs2 imm s := rfl
@[simp] theorem exec_sw rs1 rs2 imm (s : State) : exec (.sw rs1 rs2 imm) s = execSw rs1 rs2 imm s := rfl
@[simp] theorem exec_sd rs1 rs2 imm (s : State) : exec (.sd rs1 rs2 imm) s = execSd rs1 rs2 imm s := rfl
@[simp] theorem exec_addi rd rs1 imm (s : State) : exec (.addi rd rs1 imm) s = execAddi rd rs1 imm s := rfl
@[simp] theorem exec_slti rd rs1 imm (s : State) : exec (.slti rd rs1 imm) s = execSlti rd rs1 imm s := rfl
@[simp] theorem exec_sltiu rd rs1 imm (s : State) : exec (.sltiu rd rs1 imm) s = execSltiu rd rs1 imm s := rfl
@[simp] theorem exec_xori rd rs1 imm (s : State) : exec (.xori rd rs1 imm) s = execXori rd rs1 imm s := rfl
@[simp] theorem exec_ori rd rs1 imm (s : State) : exec (.ori rd rs1 imm) s = execOri rd rs1 imm s := rfl
@[simp] theorem exec_andi rd rs1 imm (s : State) : exec (.andi rd rs1 imm) s = execAndi rd rs1 imm s := rfl
@[simp] theorem exec_slli rd rs1 sh (s : State) : exec (.slli rd rs1 sh) s = execSlli rd rs1 sh s := rfl
@[simp] theorem exec_srli rd rs1 sh (s : State) : exec (.srli rd rs1 sh) s = execSrli rd rs1 sh s := rfl
@[simp] theorem exec_srai rd rs1 sh (s : State) : exec (.srai rd rs1 sh) s = execSrai rd rs1 sh s := rfl
@[simp] theorem exec_addiw rd rs1 imm (s : State) : exec (.addiw rd rs1 imm) s = execAddiw rd rs1 imm s := rfl
@[simp] theorem exec_slliw rd rs1 sh (s : State) : exec (.slliw rd rs1 sh) s = execSlliw rd rs1 sh s := rfl
@[simp] theorem exec_srliw rd rs1 sh (s : State) : exec (.srliw rd rs1 sh) s = execSrliw rd rs1 sh s := rfl
@[simp] theorem exec_sraiw rd rs1 sh (s : State) : exec (.sraiw rd rs1 sh) s = execSraiw rd rs1 sh s := rfl
@[simp] theorem exec_add rd rs1 rs2 (s : State) : exec (.add rd rs1 rs2) s = execAdd rd rs1 rs2 s := rfl
@[simp] theorem exec_sll rd rs1 rs2 (s : State) : exec (.sll rd rs1 rs2) s = execSll rd rs1 rs2 s := rfl
@[simp] theorem exec_slt rd rs1 rs2 (s : State) : exec (.slt rd rs1 rs2) s = execSlt rd rs1 rs2 s := rfl
@[simp] theorem exec_sltu rd rs1 rs2 (s : State) : exec (.sltu rd rs1 rs2) s = execSltu rd rs1 rs2 s := rfl
@[simp] theorem exec_xor rd rs1 rs2 (s : State) : exec (.xor rd rs1 rs2) s = execXor rd rs1 rs2 s := rfl
@[simp] theorem exec_srl rd rs1 rs2 (s : State) : exec (.srl rd rs1 rs2) s = execSrl rd rs1 rs2 s := rfl
@[simp] theorem exec_or rd rs1 rs2 (s : State) : exec (.or rd rs1 rs2) s = execOr rd rs1 rs2 s := rfl
@[simp] theorem exec_and rd rs1 rs2 (s : State) : exec (.and rd rs1 rs2) s = execAnd rd rs1 rs2 s := rfl
@[simp] theorem exec_sub rd rs1 rs2 (s : State) : exec (.sub rd rs1 rs2) s = execSub rd rs1 rs2 s := rfl
@[simp] theorem exec_sra rd rs1 rs2 (s : State) : exec (.sra rd rs1 rs2) s = execSra rd rs1 rs2 s := rfl
@[simp] theorem exec_mul rd rs1 rs2 (s : State) : exec (.mul rd rs1 rs2) s = execMul rd rs1 rs2 s := rfl
@[simp] theorem exec_mulh rd rs1 rs2 (s : State) : exec (.mulh rd rs1 rs2) s = execMulh rd rs1 rs2 s := rfl
@[simp] theorem exec_mulhsu rd rs1 rs2 (s : State) : exec (.mulhsu rd rs1 rs2) s = execMulhsu rd rs1 rs2 s := rfl
@[simp] theorem exec_mulhu rd rs1 rs2 (s : State) : exec (.mulhu rd rs1 rs2) s = execMulhu rd rs1 rs2 s := rfl
@[simp] theorem exec_div rd rs1 rs2 (s : State) : exec (.div rd rs1 rs2) s = execDiv rd rs1 rs2 s := rfl
@[simp] theorem exec_divu rd rs1 rs2 (s : State) : exec (.divu rd rs1 rs2) s = execDivu rd rs1 rs2 s := rfl
@[simp] theorem exec_rem rd rs1 rs2 (s : State) : exec (.rem rd rs1 rs2) s = execRem rd rs1 rs2 s := rfl
@[simp] theorem exec_remu rd rs1 rs2 (s : State) : exec (.remu rd rs1 rs2) s = execRemu rd rs1 rs2 s := rfl
@[simp] theorem exec_addw rd rs1 rs2 (s : State) : exec (.addw rd rs1 rs2) s = execAddw rd rs1 rs2 s := rfl
@[simp] theorem exec_sllw rd rs1 rs2 (s : State) : exec (.sllw rd rs1 rs2) s = execSllw rd rs1 rs2 s := rfl
@[simp] theorem exec_srlw rd rs1 rs2 (s : State) : exec (.srlw rd rs1 rs2) s = execSrlw rd rs1 rs2 s := rfl
@[simp] theorem exec_subw rd rs1 rs2 (s : State) : exec (.subw rd rs1 rs2) s = execSubw rd rs1 rs2 s := rfl
@[simp] theorem exec_sraw rd rs1 rs2 (s : State) : exec (.sraw rd rs1 rs2) s = execSraw rd rs1 rs2 s := rfl
@[simp] theorem exec_mulw rd rs1 rs2 (s : State) : exec (.mulw rd rs1 rs2) s = execMulw rd rs1 rs2 s := rfl
@[simp] theorem exec_divw rd rs1 rs2 (s : State) : exec (.divw rd rs1 rs2) s = execDivw rd rs1 rs2 s := rfl
@[simp] theorem exec_divuw rd rs1 rs2 (s : State) : exec (.divuw rd rs1 rs2) s = execDivuw rd rs1 rs2 s := rfl
@[simp] theorem exec_remw rd rs1 rs2 (s : State) : exec (.remw rd rs1 rs2) s = execRemw rd rs1 rs2 s := rfl
@[simp] theorem exec_remuw rd rs1 rs2 (s : State) : exec (.remuw rd rs1 rs2) s = execRemuw rd rs1 rs2 s := rfl
@[simp] theorem exec_fence fm pred succ rs1 rd (s : State) : exec (.fence fm pred succ rs1 rd) s = execFence fm pred succ rs1 rd s := rfl
@[simp] theorem exec_ecall (s : State) : exec (.ecall) s = execEcall s := rfl
@[simp] theorem exec_ebreak (s : State) : exec (.ebreak) s = execEbreak s := rfl
@[simp] theorem exec_csrrw rd rs1 csr (s : State) : exec (.csrrw rd rs1 csr) s = execCsrrw rd rs1 csr s := rfl
@[simp] theorem exec_csrrs rd rs1 csr (s : State) : exec (.csrrs rd rs1 csr) s = execCsrrs rd rs1 csr s := rfl
@[simp] theorem exec_csrrc rd rs1 csr (s : State) : exec (.csrrc rd rs1 csr) s = execCsrrc rd rs1 csr s := rfl
@[simp] theorem exec_csrrwi rd uimm csr (s : State) : exec (.csrrwi rd uimm csr) s = execCsrrwi rd uimm csr s := rfl
@[simp] theorem exec_csrrsi rd uimm csr (s : State) : exec (.csrrsi rd uimm csr) s = execCsrrsi rd uimm csr s := rfl
@[simp] theorem exec_csrrci rd uimm csr (s : State) : exec (.csrrci rd uimm csr) s = execCsrrci rd uimm csr s := rfl
@[simp] theorem exec_lrW aq rl rd rs1 (s : State) : exec (.lrW aq rl rd rs1) s = execLrW aq rl rd rs1 s := rfl
@[simp] theorem exec_scW aq rl rd rs1 rs2 (s : State) : exec (.scW aq rl rd rs1 rs2) s = execScW aq rl rd rs1 rs2 s := rfl
@[simp] theorem exec_amoswapW aq rl rd rs1 rs2 (s : State) : exec (.amoswapW aq rl rd rs1 rs2) s = execAmoswapW aq rl rd rs1 rs2 s := rfl
@[simp] theorem exec_amoaddW aq rl rd rs1 rs2 (s : State) : exec (.amoaddW aq rl rd rs1 rs2) s = execAmoaddW aq rl rd rs1 rs2 s := rfl
@[simp] theorem exec_amoxorW aq rl rd rs1 rs2 (s : State) : exec (.amoxorW aq rl rd rs1 rs2) s = execAmoxorW aq rl rd rs1 rs2 s := rfl
@[simp] theorem exec_amoandW aq rl rd rs1 rs2 (s : State) : exec (.amoandW aq rl rd rs1 rs2) s = execAmoandW aq rl rd rs1 rs2 s := rfl
@[simp] theorem exec_amoorW aq rl rd rs1 rs2 (s : State) : exec (.amoorW aq rl rd rs1 rs2) s = execAmoorW aq rl rd rs1 rs2 s := rfl
@[simp] theorem exec_amominW aq rl rd rs1 rs2 (s : State) : exec (.amominW aq rl rd rs1 rs2) s = execAmominW aq rl rd rs1 rs2 s := rfl
@[simp] theorem exec_amomaxW aq rl rd rs1 rs2 (s : State) : exec (.amomaxW aq rl rd rs1 rs2) s = execAmomaxW aq rl rd rs1 rs2 s := rfl
@[simp] theorem exec_amominuW aq rl rd rs1 rs2 (s : State) : exec (.amominuW aq rl rd rs1 rs2) s = execAmominuW aq rl rd rs1 rs2 s := rfl
@[simp] theorem exec_amomaxuW aq rl rd rs1 rs2 (s : State) : exec (.amomaxuW aq rl rd rs1 rs2) s = execAmomaxuW aq rl rd rs1 rs2 s := rfl
@[simp] theorem exec_lrD aq rl rd rs1 (s : State) : exec (.lrD aq rl rd rs1) s = execLrD aq rl rd rs1 s := rfl
@[simp] theorem exec_scD aq rl rd rs1 rs2 (s : State) : exec (.scD aq rl rd rs1 rs2) s = execScD aq rl rd rs1 rs2 s := rfl
@[simp] theorem exec_amoswapD aq rl rd rs1 rs2 (s : State) : exec (.amoswapD aq rl rd rs1 rs2) s = execAmoswapD aq rl rd rs1 rs2 s := rfl
@[simp] theorem exec_amoaddD aq rl rd rs1 rs2 (s : State) : exec (.amoaddD aq rl rd rs1 rs2) s = execAmoaddD aq rl rd rs1 rs2 s := rfl
@[simp] theorem exec_amoxorD aq rl rd rs1 rs2 (s : State) : exec (.amoxorD aq rl rd rs1 rs2) s = execAmoxorD aq rl rd rs1 rs2 s := rfl
@[simp] theorem exec_amoandD aq rl rd rs1 rs2 (s : State) : exec (.amoandD aq rl rd rs1 rs2) s = execAmoandD aq rl rd rs1 rs2 s := rfl
@[simp] theorem exec_amoorD aq rl rd rs1 rs2 (s : State) : exec (.amoorD aq rl rd rs1 rs2) s = execAmoorD aq rl rd rs1 rs2 s := rfl
@[simp] theorem exec_amominD aq rl rd rs1 rs2 (s : State) : exec (.amominD aq rl rd rs1 rs2) s = execAmominD aq rl rd rs1 rs2 s := rfl
@[simp] theorem exec_amomaxD aq rl rd rs1 rs2 (s : State) : exec (.amomaxD aq rl rd rs1 rs2) s = execAmomaxD aq rl rd rs1 rs2 s := rfl
@[simp] theorem exec_amominuD aq rl rd rs1 rs2 (s : State) : exec (.amominuD aq rl rd rs1 rs2) s = execAmominuD aq rl rd rs1 rs2 s := rfl
@[simp] theorem exec_amomaxuD aq rl rd rs1 rs2 (s : State) : exec (.amomaxuD aq rl rd rs1 rs2) s = execAmomaxuD aq rl rd rs1 rs2 s := rfl
@[simp] theorem exec_fld fd rs1 imm (s : State) : exec (.fld fd rs1 imm) s = execFld fd rs1 imm s := rfl
@[simp] theorem exec_fsd rs1 fs2 imm (s : State) : exec (.fsd rs1 fs2 imm) s = execFsd rs1 fs2 imm s := rfl
@[simp] theorem exec_fmaddD fd fs1 fs2 fs3 rm (s : State) : exec (.fmaddD fd fs1 fs2 fs3 rm) s = execFmaddD fd fs1 fs2 fs3 rm s := rfl
@[simp] theorem exec_fmsubD fd fs1 fs2 fs3 rm (s : State) : exec (.fmsubD fd fs1 fs2 fs3 rm) s = execFmsubD fd fs1 fs2 fs3 rm s := rfl
@[simp] theorem exec_fnmsubD fd fs1 fs2 fs3 rm (s : State) : exec (.fnmsubD fd fs1 fs2 fs3 rm) s = execFnmsubD fd fs1 fs2 fs3 rm s := rfl
@[simp] theorem exec_fnmaddD fd fs1 fs2 fs3 rm (s : State) : exec (.fnmaddD fd fs1 fs2 fs3 rm) s = execFnmaddD fd fs1 fs2 fs3 rm s := rfl
@[simp] theorem exec_faddD fd fs1 fs2 rm (s : State) : exec (.faddD fd fs1 fs2 rm) s = execFaddD fd fs1 fs2 rm s := rfl
@[simp] theorem exec_fsubD fd fs1 fs2 rm (s : State) : exec (.fsubD fd fs1 fs2 rm) s = execFsubD fd fs1 fs2 rm s := rfl
@[simp] theorem exec_fmulD fd fs1 fs2 rm (s : State) : exec (.fmulD fd fs1 fs2 rm) s = execFmulD fd fs1 fs2 rm s := rfl
@[simp] theorem exec_fdivD fd fs1 fs2 rm (s : State) : exec (.fdivD fd fs1 fs2 rm) s = execFdivD fd fs1 fs2 rm s := rfl
@[simp] theorem exec_fsqrtD fd fs1 rm (s : State) : exec (.fsqrtD fd fs1 rm) s = execFsqrtD fd fs1 rm s := rfl
@[simp] theorem exec_fsgnjD fd fs1 fs2 (s : State) : exec (.fsgnjD fd fs1 fs2) s = execFsgnjD fd fs1 fs2 s := rfl
@[simp] theorem exec_fsgnjnD fd fs1 fs2 (s : State) : exec (.fsgnjnD fd fs1 fs2) s = execFsgnjnD fd fs1 fs2 s := rfl
@[simp] theorem exec_fsgnjxD fd fs1 fs2 (s : State) : exec (.fsgnjxD fd fs1 fs2) s = execFsgnjxD fd fs1 fs2 s := rfl
@[simp] theorem exec_fminD fd fs1 fs2 (s : State) : exec (.fminD fd fs1 fs2) s = execFminD fd fs1 fs2 s := rfl
@[simp] theorem exec_fmaxD fd fs1 fs2 (s : State) : exec (.fmaxD fd fs1 fs2) s = execFmaxD fd fs1 fs2 s := rfl
@[simp] theorem exec_fleD rd fs1 fs2 (s : State) : exec (.fleD rd fs1 fs2) s = execFleD rd fs1 fs2 s := rfl
@[simp] theorem exec_fltD rd fs1 fs2 (s : State) : exec (.fltD rd fs1 fs2) s = execFltD rd fs1 fs2 s := rfl
@[simp] theorem exec_feqD rd fs1 fs2 (s : State) : exec (.feqD rd fs1 fs2) s = execFeqD rd fs1 fs2 s := rfl
@[simp] theorem exec_fclassD rd fs1 (s : State) : exec (.fclassD rd fs1) s = execFclassD rd fs1 s := rfl
@[simp] theorem exec_fmvXD rd fs1 (s : State) : exec (.fmvXD rd fs1) s = execFmvXD rd fs1 s := rfl
@[simp] theorem exec_fmvDX fd rs1 (s : State) : exec (.fmvDX fd rs1) s = execFmvDX fd rs1 s := rfl
@[simp] theorem exec_fcvtWD rd fs1 rm (s : State) : exec (.fcvtWD rd fs1 rm) s = execFcvtWD rd fs1 rm s := rfl
@[simp] theorem exec_fcvtWuD rd fs1 rm (s : State) : exec (.fcvtWuD rd fs1 rm) s = execFcvtWuD rd fs1 rm s := rfl
@[simp] theorem exec_fcvtLD rd fs1 rm (s : State) : exec (.fcvtLD rd fs1 rm) s = execFcvtLD rd fs1 rm s := rfl
@[simp] theorem exec_fcvtLuD rd fs1 rm (s : State) : exec (.fcvtLuD rd fs1 rm) s = execFcvtLuD rd fs1 rm s := rfl
@[simp] theorem exec_fcvtDW fd rs1 rm (s : State) : exec (.fcvtDW fd rs1 rm) s = execFcvtDW fd rs1 rm s := rfl
@[simp] theorem exec_fcvtDWu fd rs1 rm (s : State) : exec (.fcvtDWu fd rs1 rm) s = execFcvtDWu fd rs1 rm s := rfl
@[simp] theorem exec_fcvtDL fd rs1 rm (s : State) : exec (.fcvtDL fd rs1 rm) s = execFcvtDL fd rs1 rm s := rfl
@[simp] theorem exec_fcvtDLu fd rs1 rm (s : State) : exec (.fcvtDLu fd rs1 rm) s = execFcvtDLu fd rs1 rm s := rfl
@[simp] theorem exec_vaddVv vd vs2 vs1 w m (s : State) : exec (.vaddVv vd vs2 vs1 w m) s = execVaddVv vd vs2 vs1 w m s := rfl
@[simp] theorem exec_vsubVv vd vs2 vs1 w m (s : State) : exec (.vsubVv vd vs2 vs1 w m) s = execVsubVv vd vs2 vs1 w m s := rfl
@[simp] theorem exec_vmulVv vd vs2 vs1 w m (s : State) : exec (.vmulVv vd vs2 vs1 w m) s = execVmulVv vd vs2 vs1 w m s := rfl
@[simp] theorem exec_vmulhVv vd vs2 vs1 w m (s : State) : exec (.vmulhVv vd vs2 vs1 w m) s = execVmulhVv vd vs2 vs1 w m s := rfl
@[simp] theorem exec_vmulhuVv vd vs2 vs1 w m (s : State) : exec (.vmulhuVv vd vs2 vs1 w m) s = execVmulhuVv vd vs2 vs1 w m s := rfl
@[simp] theorem exec_vdivVv vd vs2 vs1 w m (s : State) : exec (.vdivVv vd vs2 vs1 w m) s = execVdivVv vd vs2 vs1 w m s := rfl
@[simp] theorem exec_vdivuVv vd vs2 vs1 w m (s : State) : exec (.vdivuVv vd vs2 vs1 w m) s = execVdivuVv vd vs2 vs1 w m s := rfl
@[simp] theorem exec_vremVv vd vs2 vs1 w m (s : State) : exec (.vremVv vd vs2 vs1 w m) s = execVremVv vd vs2 vs1 w m s := rfl
@[simp] theorem exec_vremuVv vd vs2 vs1 w m (s : State) : exec (.vremuVv vd vs2 vs1 w m) s = execVremuVv vd vs2 vs1 w m s := rfl
@[simp] theorem exec_vminVv vd vs2 vs1 w m (s : State) : exec (.vminVv vd vs2 vs1 w m) s = execVminVv vd vs2 vs1 w m s := rfl
@[simp] theorem exec_vminuVv vd vs2 vs1 w m (s : State) : exec (.vminuVv vd vs2 vs1 w m) s = execVminuVv vd vs2 vs1 w m s := rfl
@[simp] theorem exec_vmaxVv vd vs2 vs1 w m (s : State) : exec (.vmaxVv vd vs2 vs1 w m) s = execVmaxVv vd vs2 vs1 w m s := rfl
@[simp] theorem exec_vmaxuVv vd vs2 vs1 w m (s : State) : exec (.vmaxuVv vd vs2 vs1 w m) s = execVmaxuVv vd vs2 vs1 w m s := rfl
@[simp] theorem exec_vandVv vd vs2 vs1 w m (s : State) : exec (.vandVv vd vs2 vs1 w m) s = execVandVv vd vs2 vs1 w m s := rfl
@[simp] theorem exec_vorVv vd vs2 vs1 w m (s : State) : exec (.vorVv vd vs2 vs1 w m) s = execVorVv vd vs2 vs1 w m s := rfl
@[simp] theorem exec_vxorVv vd vs2 vs1 w m (s : State) : exec (.vxorVv vd vs2 vs1 w m) s = execVxorVv vd vs2 vs1 w m s := rfl
@[simp] theorem exec_vsllVv vd vs2 vs1 w m (s : State) : exec (.vsllVv vd vs2 vs1 w m) s = execVsllVv vd vs2 vs1 w m s := rfl
@[simp] theorem exec_vsrlVv vd vs2 vs1 w m (s : State) : exec (.vsrlVv vd vs2 vs1 w m) s = execVsrlVv vd vs2 vs1 w m s := rfl
@[simp] theorem exec_vsraVv vd vs2 vs1 w m (s : State) : exec (.vsraVv vd vs2 vs1 w m) s = execVsraVv vd vs2 vs1 w m s := rfl
@[simp] theorem exec_vsaddVv vd vs2 vs1 w m (s : State) : exec (.vsaddVv vd vs2 vs1 w m) s = execVsaddVv vd vs2 vs1 w m s := rfl
@[simp] theorem exec_vsadduVv vd vs2 vs1 w m (s : State) : exec (.vsadduVv vd vs2 vs1 w m) s = execVsadduVv vd vs2 vs1 w m s := rfl
@[simp] theorem exec_vssubVv vd vs2 vs1 w m (s : State) : exec (.vssubVv vd vs2 vs1 w m) s = execVssubVv vd vs2 vs1 w m s := rfl
@[simp] theorem exec_vssubuVv vd vs2 vs1 w m (s : State) : exec (.vssubuVv vd vs2 vs1 w m) s = execVssubuVv vd vs2 vs1 w m s := rfl
@[simp] theorem exec_vseqVv vd vs2 vs1 w m (s : State) : exec (.vseqVv vd vs2 vs1 w m) s = execVseqVv vd vs2 vs1 w m s := rfl
@[simp] theorem exec_vsneVv vd vs2 vs1 w m (s : State) : exec (.vsneVv vd vs2 vs1 w m) s = execVsneVv vd vs2 vs1 w m s := rfl
@[simp] theorem exec_vsltVv vd vs2 vs1 w m (s : State) : exec (.vsltVv vd vs2 vs1 w m) s = execVsltVv vd vs2 vs1 w m s := rfl
@[simp] theorem exec_vsltuVv vd vs2 vs1 w m (s : State) : exec (.vsltuVv vd vs2 vs1 w m) s = execVsltuVv vd vs2 vs1 w m s := rfl
@[simp] theorem exec_vsleVv vd vs2 vs1 w m (s : State) : exec (.vsleVv vd vs2 vs1 w m) s = execVsleVv vd vs2 vs1 w m s := rfl
@[simp] theorem exec_vsleuVv vd vs2 vs1 w m (s : State) : exec (.vsleuVv vd vs2 vs1 w m) s = execVsleuVv vd vs2 vs1 w m s := rfl
@[simp] theorem exec_vmergeVv vd vs2 vs1 w (s : State) : exec (.vmergeVv vd vs2 vs1 w) s = execVmergeVv vd vs2 vs1 w s := rfl
@[simp] theorem exec_vperm vd vs2 vs1 w m (s : State) : exec (.vperm vd vs2 vs1 w m) s = execVperm vd vs2 vs1 w m s := rfl
@[simp] theorem exec_vmv vd vs2 w m (s : State) : exec (.vmv vd vs2 w m) s = execVmv vd vs2 w m s := rfl
@[simp] theorem exec_vid vd w m (s : State) : exec (.vid vd w m) s = execVid vd w m s := rfl
@[simp] theorem exec_viota vd vs2 w m (s : State) : exec (.viota vd vs2 w m) s = execViota vd vs2 w m s := rfl
@[simp] theorem exec_vcompress vd vs2 w (s : State) : exec (.vcompress vd vs2 w) s = execVcompress vd vs2 w s := rfl
@[simp] theorem exec_vredsum vd vs2 w m (s : State) : exec (.vredsum vd vs2 w m) s = execVredsum vd vs2 w m s := rfl
@[simp] theorem exec_vredmin vd vs2 w m (s : State) : exec (.vredmin vd vs2 w m) s = execVredmin vd vs2 w m s := rfl
@[simp] theorem exec_vredminu vd vs2 w m (s : State) : exec (.vredminu vd vs2 w m) s = execVredminu vd vs2 w m s := rfl
@[simp] theorem exec_vredmax vd vs2 w m (s : State) : exec (.vredmax vd vs2 w m) s = execVredmax vd vs2 w m s := rfl
@[simp] theorem exec_vredmaxu vd vs2 w m (s : State) : exec (.vredmaxu vd vs2 w m) s = execVredmaxu vd vs2 w m s := rfl
@[simp] theorem exec_vredand vd vs2 w m (s : State) : exec (.vredand vd vs2 w m) s = execVredand vd vs2 w m s := rfl
@[simp] theorem exec_vredor vd vs2 w m (s : State) : exec (.vredor vd vs2 w m) s = execVredor vd vs2 w m s := rfl
@[simp] theorem exec_vredxor vd vs2 w m (s : State) : exec (.vredxor vd vs2 w m) s = execVredxor vd vs2 w m s := rfl
@[simp] theorem exec_vmpopc vd vs2 w m (s : State) : exec (.vmpopc vd vs2 w m) s = execVmpopc vd vs2 w m s := rfl
@[simp] theorem exec_vmfirst vd vs2 w m (s : State) : exec (.vmfirst vd vs2 w m) s = execVmfirst vd vs2 w m s := rfl
@[simp] theorem exec_vabs vd vs2 w m (s : State) : exec (.vabs vd vs2 w m) s = execVabs vd vs2 w m s := rfl
@[simp] theorem exec_vneg vd vs2 w m (s : State) : exec (.vneg vd vs2 w m) s = execVneg vd vs2 w m s := rfl
@[simp] theorem exec_vnot vd vs2 w m (s : State) : exec (.vnot vd vs2 w m) s = execVnot vd vs2 w m s := rfl
@[simp] theorem exec_vclz vd vs2 w m (s : State) : exec (.vclz vd vs2 w m) s = execVclz vd vs2 w m s := rfl
@[simp] theorem exec_vpopcnt vd vs2 w m (s : State) : exec (.vpopcnt vd vs2 w m) s = execVpopcnt vd vs2 w m s := rfl
@[simp] theorem exec_vsext vd vs2 w m (s : State) : exec (.vsext vd vs2 w m) s = execVsext vd vs2 w m s := rfl
@[simp] theorem exec_vzext vd vs2 w m (s : State) : exec (.vzext vd vs2 w m) s = execVzext vd vs2 w m s := rfl
@[simp] theorem exec_vnclip vd vs2 w m (s : State) : exec (.vnclip vd vs2 w m) s = execVnclip vd vs2 w m s := rfl
@[simp] theorem exec_vnclipu vd vs2 w m (s : State) : exec (.vnclipu vd vs2 w m) s = execVnclipu vd vs2 w m s := rfl
@[simp] theorem exec_vaddVx vd vs2 rs1 w m (s : State) : exec (.vaddVx vd vs2 rs1 w m) s = execVaddVx vd vs2 rs1 w m s := rfl
@[simp] theorem exec_vsubVx vd vs2 rs1 w m (s : State) : exec (.vsubVx vd vs2 rs1 w m) s = execVsubVx vd vs2 rs1 w m s := rfl
@[simp] theorem exec_vmulVx vd vs2 rs1 w m (s : State) : exec (.vmulVx vd vs2 rs1 w m) s = execVmulVx vd vs2 rs1 w m s := rfl
@[simp] theorem exec_vmulhVx vd vs2 rs1 w m (s : State) : exec (.vmulhVx vd vs2 rs1 w m) s = execVmulhVx vd vs2 rs1 w m s := rfl
@[simp] theorem exec_vmulhuVx vd vs2 rs1 w m (s : State) : exec (.vmulhuVx vd vs2 rs1 w m) s = execVmulhuVx vd vs2 rs1 w m s := rfl
@[simp] theorem exec_vdivVx vd vs2 rs1 w m (s : State) : exec (.vdivVx vd vs2 rs1 w m) s = execVdivVx vd vs2 rs1 w m s := rfl
@[simp] theorem exec_vdivuVx vd vs2 rs1 w m (s : State) : exec (.vdivuVx vd vs2 rs1 w m) s = execVdivuVx vd vs2 rs1 w m s := rfl
@[simp] theorem exec_vremVx vd vs2 rs1 w m (s : State) : exec (.vremVx vd vs2 rs1 w m) s = execVremVx vd vs2 rs1 w m s := rfl
@[simp] theorem exec_vremuVx vd vs2 rs1 w m (s : State) : exec (.vremuVx vd vs2 rs1 w m) s = execVremuVx vd vs2 rs1 w m s := rfl
@[simp] theorem exec_vminVx vd vs2 rs1 w m (s : State) : exec (.vminVx vd vs2 rs1 w m) s = execVminVx vd vs2 rs1 w m s := rfl
@[simp] theorem exec_vminuVx vd vs2 rs1 w m (s : State) : exec (.vminuVx vd vs2 rs1 w m) s = execVminuVx vd vs2 rs1 w m s := rfl
@[simp] theorem exec_vmaxVx vd vs2 rs1 w m (s : State) : exec (.vmaxVx vd vs2 rs1 w m) s = execVmaxVx vd vs2 rs1 w m s := rfl
@[simp] theorem exec_vmaxuVx vd vs2 rs1 w m (s : State) : exec (.vmaxuVx vd vs2 rs1 w m) s = execVmaxuVx vd vs2 rs1 w m s := rfl
@[simp] theorem exec_vandVx vd vs2 rs1 w m (s : State) : exec (.vandVx vd vs2 rs1 w m) s = execVandVx vd vs2 rs1 w m s := rfl
@[simp] theorem exec_vorVx vd vs2 rs1 w m (s : State) : exec (.vorVx vd vs2 rs1 w m) s = execVorVx vd vs2 rs1 w m s := rfl
@[simp] theorem exec_vxorVx vd vs2 rs1 w m (s : State) : exec (.vxorVx vd vs2 rs1 w m) s = execVxorVx vd vs2 rs1 w m s := rfl
@[simp] theorem exec_vsllVx vd vs2 rs1 w m (s : State) : exec (.vsllVx vd vs2 rs1 w m) s = execVsllVx vd vs2 rs1 w m s := rfl
@[simp] theorem exec_vsrlVx vd vs2 rs1 w m (s : State) : exec (.vsrlVx vd vs2 rs1 w m) s = execVsrlVx vd vs2 rs1 w m s := rfl
@[simp] theorem exec_vsraVx vd vs2 rs1 w m (s : State) : exec (.vsraVx vd vs2 rs1 w m) s = execVsraVx vd vs2 rs1 w m s := rfl
@[simp] theorem exec_vsaddVx vd vs2 rs1 w m (s : State) : exec (.vsaddVx vd vs2 rs1 w m) s = execVsaddVx vd vs2 rs1 w m s := rfl
@[simp] theorem exec_vsadduVx vd vs2 rs1 w m (s : State) : exec (.vsadduVx vd vs2 rs1 w m) s = execVsadduVx vd vs2 rs1 w m s := rfl
@[simp] theorem exec_vssubVx vd vs2 rs1 w m (s : State) : exec (.vssubVx vd vs2 rs1 w m) s = execVssubVx vd vs2 rs1 w m s := rfl
@[simp] theorem exec_vssubuVx vd vs2 rs1 w m (s : State) : exec (.vssubuVx vd vs2 rs1 w m) s = execVssubuVx vd vs2 rs1 w m s := rfl
@[simp] theorem exec_vseqVx vd vs2 rs1 w m (s : State) : exec (.vseqVx vd vs2 rs1 w m) s = execVseqVx vd vs2 rs1 w m s := rfl
@[simp] theorem exec_vsneVx vd vs2 rs1 w m (s : State) : exec (.vsneVx vd vs2 rs1 w m) s = execVsneVx vd vs2 rs1 w m s := rfl
@[simp] theorem exec_vsltVx vd vs2 rs1 w m (s : State) : exec (.vsltVx vd vs2 rs1 w m) s = execVsltVx vd vs2 rs1 w m s := rfl
@[simp] theorem exec_vsltuVx vd vs2 rs1 w m (s : State) : exec (.vsltuVx vd vs2 rs1 w m) s = execVsltuVx vd vs2 rs1 w m s := rfl
@[simp] theorem exec_vsleVx vd vs2 rs1 w m (s : State) : exec (.vsleVx vd vs2 rs1 w m) s = execVsleVx vd vs2 rs1 w m s := rfl
@[simp] theorem exec_vsleuVx vd vs2 rs1 w m (s : State) : exec (.vsleuVx vd vs2 rs1 w m) s = execVsleuVx vd vs2 rs1 w m s := rfl
@[simp] theorem exec_vmergeVx vd vs2 rs1 w (s : State) : exec (.vmergeVx vd vs2 rs1 w) s = execVmergeVx vd vs2 rs1 w s := rfl
@[simp] theorem exec_vslideup vd vs2 rs1 w m (s : State) : exec (.vslideup vd vs2 rs1 w m) s = execVslideup vd vs2 rs1 w m s := rfl
@[simp] theorem exec_vslidedn vd vs2 rs1 w m (s : State) : exec (.vslidedn vd vs2 rs1 w m) s = execVslidedn vd vs2 rs1 w m s := rfl
@[simp] theorem exec_vfaddVv vd vs2 vs1 w m (s : State) : exec (.vfaddVv vd vs2 vs1 w m) s = execVfaddVv vd vs2 vs1 w m s := rfl
@[simp] theorem exec_vfsubVv vd vs2 vs1 w m (s : State) : exec (.vfsubVv vd vs2 vs1 w m) s = execVfsubVv vd vs2 vs1 w m s := rfl
@[simp] theorem exec_vfmulVv vd vs2 vs1 w m (s : State) : exec (.vfmulVv vd vs2 vs1 w m) s = execVfmulVv vd vs2 vs1 w m s := rfl
@[simp] theorem exec_vfdivVv vd vs2 vs1 w m (s : State) : exec (.vfdivVv vd vs2 vs1 w m) s = execVfdivVv vd vs2 vs1 w m s := rfl
@[simp] theorem exec_vfminVv vd vs2 vs1 w m (s : State) : exec (.vfminVv vd vs2 vs1 w m) s = execVfminVv vd vs2 vs1 w m s := rfl
@[simp] theorem exec_vfmaxVv vd vs2 vs1 w m (s : State) : exec (.vfmaxVv vd vs2 vs1 w m) s = execVfmaxVv vd vs2 vs1 w m s := rfl
@[simp] theorem exec_vfsgnjVv vd vs2 vs1 w m (s : State) : exec (.vfsgnjVv vd vs2 vs1 w m) s = execVfsgnjVv vd vs2 vs1 w m s := rfl
@[simp] theorem exec_vfsgnjnVv vd vs2 vs1 w m (s : State) : exec (.vfsgnjnVv vd vs2 vs1 w m) s = execVfsgnjnVv vd vs2 vs1 w m s := rfl
@[simp] theorem exec_vfsgnjxVv vd vs2 vs1 w m (s : State) : exec (.vfsgnjxVv vd vs2 vs1 w m) s = execVfsgnjxVv vd vs2 vs1 w m s := rfl
@[simp] theorem exec_vfmaccVv vd vs2 vs1 w m (s : State) : exec (.vfmaccVv vd vs2 vs1 w m) s = execVfmaccVv vd vs2 vs1 w m s := rfl
@[simp] theorem exec_vfnmaccVv vd vs2 vs1 w m (s : State) : exec (.vfnmaccVv vd vs2 vs1 w m) s = execVfnmaccVv vd vs2 vs1 w m s := rfl
@[simp] theorem exec_vfmsacVv vd vs2 vs1 w m (s : State) : exec (.vfmsacVv vd vs2 vs1 w m) s = execVfmsacVv vd vs2 vs1 w m s := rfl
@[simp] theorem exec_vfnmsacVv vd vs2 vs1 w m (s : State) : exec (.vfnmsacVv vd vs2 vs1 w m) s = execVfnmsacVv vd vs2 vs1 w m s := rfl
@[simp] theorem exec_vfeqVv vd vs2 vs1 w m (s : State) : exec (.vfeqVv vd vs2 vs1 w m) s = execVfeqVv vd vs2 vs1 w m s := rfl
@[simp] theorem exec_vfneVv vd vs2 vs1 w m (s : State) : exec (.vfneVv vd vs2 vs1 w m) s = execVfneVv vd vs2 vs1 w m s := rfl
@[simp] theorem exec_vfltVv vd vs2 vs1 w m (s : State) : exec (.vfltVv vd vs2 vs1 w m) s = execVfltVv vd vs2 vs1 w m s := rfl
@[simp] theorem exec_vfleVv vd vs2 vs1 w m (s : State) : exec (.vfleVv vd vs2 vs1 w m) s = execVfleVv vd vs2 vs1 w m s := rfl
@[simp] theorem exec_vfunVv vd vs2 vs1 w m (s : State) : exec (.vfunVv vd vs2 vs1 w m) s = execVfunVv vd vs2 vs1 w m s := rfl
@[simp] theorem exec_vfmergeVv vd vs2 vs1 w (s : State) : exec (.vfmergeVv vd vs2 vs1 w) s = execVfmergeVv vd vs2 vs1 w s := rfl
@[simp] theorem exec_vcmul vd vs2 vs1 w m (s : State) : exec (.vcmul vd vs2 vs1 w m) s = execVcmul vd vs2 vs1 w m s := rfl
@[simp] theorem exec_vcmac vd vs2 vs1 w m (s : State) : exec (.vcmac vd vs2 vs1 w m) s = execVcmac vd vs2 vs1 w m s := rfl
@[simp] theorem exec_vfwmaccVv vd vs2 vs1 w m (s : State) : exec (.vfwmaccVv vd vs2 vs1 w m) s = execVfwmaccVv vd vs2 vs1 w m s := rfl
@[simp] theorem exec_vcvtup vd vs2 fmt w m (s : State) : exec (.vcvtup vd vs2 fmt w m) s = execVcvtup vd vs2 fmt w m s := rfl
@[simp] theorem exec_vcvtdn vd vs2 fmt w m (s : State) : exec (.vcvtdn vd vs2 fmt w m) s = execVcvtdn vd vs2 fmt w m s := rfl
@[simp] theorem exec_vcvtfi vd vs2 fmt w m (s : State) : exec (.vcvtfi vd vs2 fmt w m) s = execVcvtfi vd vs2 fmt w m s := rfl
@[simp] theorem exec_vcvtif vd vs2 fmt w m (s : State) : exec (.vcvtif vd vs2 fmt w m) s = execVcvtif vd vs2 fmt w m s := rfl
@[simp] theorem exec_vquant vd vs2 vs1 w m (s : State) : exec (.vquant vd vs2 vs1 w m) s = execVquant vd vs2 vs1 w m s := rfl
@[simp] theorem exec_vdequant vd vs2 vs1 w m (s : State) : exec (.vdequant vd vs2 vs1 w m) s = execVdequant vd vs2 vs1 w m s := rfl
@[simp] theorem exec_vbscaleVv vd vs2 fmt w m (s : State) : exec (.vbscaleVv vd vs2 fmt w m) s = execVbscaleVv vd vs2 fmt w m s := rfl
@[simp] theorem exec_vbamax vd vs2 w m (s : State) : exec (.vbamax vd vs2 w m) s = execVbamax vd vs2 w m s := rfl
@[simp] theorem exec_vfsqrt vd vs2 w m (s : State) : exec (.vfsqrt vd vs2 w m) s = execVfsqrt vd vs2 w m s := rfl
@[simp] theorem exec_vfrec vd vs2 w m (s : State) : exec (.vfrec vd vs2 w m) s = execVfrec vd vs2 w m s := rfl
@[simp] theorem exec_vfrsqrt vd vs2 w m (s : State) : exec (.vfrsqrt vd vs2 w m) s = execVfrsqrt vd vs2 w m s := rfl
@[simp] theorem exec_vfclass vd vs2 w m (s : State) : exec (.vfclass vd vs2 w m) s = execVfclass vd vs2 w m s := rfl
@[simp] theorem exec_vfexp2 vd vs2 w m (s : State) : exec (.vfexp2 vd vs2 w m) s = execVfexp2 vd vs2 w m s := rfl
@[simp] theorem exec_vflog2 vd vs2 w m (s : State) : exec (.vflog2 vd vs2 w m) s = execVflog2 vd vs2 w m s := rfl
@[simp] theorem exec_vftanh vd vs2 w m (s : State) : exec (.vftanh vd vs2 w m) s = execVftanh vd vs2 w m s := rfl
@[simp] theorem exec_vfsilu vd vs2 w m (s : State) : exec (.vfsilu vd vs2 w m) s = execVfsilu vd vs2 w m s := rfl
@[simp] theorem exec_vfgelu vd vs2 w m (s : State) : exec (.vfgelu vd vs2 w m) s = execVfgelu vd vs2 w m s := rfl
@[simp] theorem exec_vfsin vd vs2 w m (s : State) : exec (.vfsin vd vs2 w m) s = execVfsin vd vs2 w m s := rfl
@[simp] theorem exec_vfcos vd vs2 w m (s : State) : exec (.vfcos vd vs2 w m) s = execVfcos vd vs2 w m s := rfl
@[simp] theorem exec_vfabs vd vs2 w m (s : State) : exec (.vfabs vd vs2 w m) s = execVfabs vd vs2 w m s := rfl
@[simp] theorem exec_vfneg vd vs2 w m (s : State) : exec (.vfneg vd vs2 w m) s = execVfneg vd vs2 w m s := rfl
@[simp] theorem exec_vconj vd vs2 w m (s : State) : exec (.vconj vd vs2 w m) s = execVconj vd vs2 w m s := rfl
@[simp] theorem exec_vfredsum vd vs2 w m (s : State) : exec (.vfredsum vd vs2 w m) s = execVfredsum vd vs2 w m s := rfl
@[simp] theorem exec_vfredmax vd vs2 w m (s : State) : exec (.vfredmax vd vs2 w m) s = execVfredmax vd vs2 w m s := rfl
@[simp] theorem exec_vfredmin vd vs2 w m (s : State) : exec (.vfredmin vd vs2 w m) s = execVfredmin vd vs2 w m s := rfl
@[simp] theorem exec_vfredamax vd vs2 w m (s : State) : exec (.vfredamax vd vs2 w m) s = execVfredamax vd vs2 w m s := rfl
@[simp] theorem exec_pfwd vd vs2 w (s : State) : exec (.pfwd vd vs2 w) s = execPfwd vd vs2 w s := rfl
@[simp] theorem exec_pinv vd vs2 w (s : State) : exec (.pinv vd vs2 w) s = execPinv vd vs2 w s := rfl
@[simp] theorem exec_pfwdc vd vs2 w (s : State) : exec (.pfwdc vd vs2 w) s = execPfwdc vd vs2 w s := rfl
@[simp] theorem exec_pinvc vd vs2 w (s : State) : exec (.pinvc vd vs2 w) s = execPinvc vd vs2 w s := rfl
@[simp] theorem exec_vretag vd vs2 w (s : State) : exec (.vretag vd vs2 w) s = execVretag vd vs2 w s := rfl
@[simp] theorem exec_vtagclr vd vs2 w (s : State) : exec (.vtagclr vd vs2 w) s = execVtagclr vd vs2 w s := rfl
@[simp] theorem exec_vfaddVf vd vs2 fs1 w m (s : State) : exec (.vfaddVf vd vs2 fs1 w m) s = execVfaddVf vd vs2 fs1 w m s := rfl
@[simp] theorem exec_vfsubVf vd vs2 fs1 w m (s : State) : exec (.vfsubVf vd vs2 fs1 w m) s = execVfsubVf vd vs2 fs1 w m s := rfl
@[simp] theorem exec_vfmulVf vd vs2 fs1 w m (s : State) : exec (.vfmulVf vd vs2 fs1 w m) s = execVfmulVf vd vs2 fs1 w m s := rfl
@[simp] theorem exec_vfdivVf vd vs2 fs1 w m (s : State) : exec (.vfdivVf vd vs2 fs1 w m) s = execVfdivVf vd vs2 fs1 w m s := rfl
@[simp] theorem exec_vfminVf vd vs2 fs1 w m (s : State) : exec (.vfminVf vd vs2 fs1 w m) s = execVfminVf vd vs2 fs1 w m s := rfl
@[simp] theorem exec_vfmaxVf vd vs2 fs1 w m (s : State) : exec (.vfmaxVf vd vs2 fs1 w m) s = execVfmaxVf vd vs2 fs1 w m s := rfl
@[simp] theorem exec_vfsgnjVf vd vs2 fs1 w m (s : State) : exec (.vfsgnjVf vd vs2 fs1 w m) s = execVfsgnjVf vd vs2 fs1 w m s := rfl
@[simp] theorem exec_vfsgnjnVf vd vs2 fs1 w m (s : State) : exec (.vfsgnjnVf vd vs2 fs1 w m) s = execVfsgnjnVf vd vs2 fs1 w m s := rfl
@[simp] theorem exec_vfsgnjxVf vd vs2 fs1 w m (s : State) : exec (.vfsgnjxVf vd vs2 fs1 w m) s = execVfsgnjxVf vd vs2 fs1 w m s := rfl
@[simp] theorem exec_vfmaccVf vd vs2 fs1 w m (s : State) : exec (.vfmaccVf vd vs2 fs1 w m) s = execVfmaccVf vd vs2 fs1 w m s := rfl
@[simp] theorem exec_vfnmaccVf vd vs2 fs1 w m (s : State) : exec (.vfnmaccVf vd vs2 fs1 w m) s = execVfnmaccVf vd vs2 fs1 w m s := rfl
@[simp] theorem exec_vfmsacVf vd vs2 fs1 w m (s : State) : exec (.vfmsacVf vd vs2 fs1 w m) s = execVfmsacVf vd vs2 fs1 w m s := rfl
@[simp] theorem exec_vfnmsacVf vd vs2 fs1 w m (s : State) : exec (.vfnmsacVf vd vs2 fs1 w m) s = execVfnmsacVf vd vs2 fs1 w m s := rfl
@[simp] theorem exec_vfeqVf vd vs2 fs1 w m (s : State) : exec (.vfeqVf vd vs2 fs1 w m) s = execVfeqVf vd vs2 fs1 w m s := rfl
@[simp] theorem exec_vfneVf vd vs2 fs1 w m (s : State) : exec (.vfneVf vd vs2 fs1 w m) s = execVfneVf vd vs2 fs1 w m s := rfl
@[simp] theorem exec_vfltVf vd vs2 fs1 w m (s : State) : exec (.vfltVf vd vs2 fs1 w m) s = execVfltVf vd vs2 fs1 w m s := rfl
@[simp] theorem exec_vfleVf vd vs2 fs1 w m (s : State) : exec (.vfleVf vd vs2 fs1 w m) s = execVfleVf vd vs2 fs1 w m s := rfl
@[simp] theorem exec_vfunVf vd vs2 fs1 w m (s : State) : exec (.vfunVf vd vs2 fs1 w m) s = execVfunVf vd vs2 fs1 w m s := rfl
@[simp] theorem exec_vfmergeVf vd vs2 fs1 w (s : State) : exec (.vfmergeVf vd vs2 fs1 w) s = execVfmergeVf vd vs2 fs1 w s := rfl
@[simp] theorem exec_vfwmaccVf vd vs2 fs1 w m (s : State) : exec (.vfwmaccVf vd vs2 fs1 w m) s = execVfwmaccVf vd vs2 fs1 w m s := rfl
@[simp] theorem exec_vbscaleVf vd tf fs1 w (s : State) : exec (.vbscaleVf vd tf fs1 w) s = execVbscaleVf vd tf fs1 w s := rfl
@[simp] theorem exec_vld vd rs1 w m (s : State) : exec (.vld vd rs1 w m) s = execVld vd rs1 w m s := rfl
@[simp] theorem exec_vldFe vd rs1 w m (s : State) : exec (.vldFe vd rs1 w m) s = execVldFe vd rs1 w m s := rfl
@[simp] theorem exec_vldFec vd rs1 w m (s : State) : exec (.vldFec vd rs1 w m) s = execVldFec vd rs1 w m s := rfl
@[simp] theorem exec_vldSc vd rs1 w m (s : State) : exec (.vldSc vd rs1 w m) s = execVldSc vd rs1 w m s := rfl
@[simp] theorem exec_vst vd rs1 w m (s : State) : exec (.vst vd rs1 w m) s = execVst vd rs1 w m s := rfl
@[simp] theorem exec_vstFe vd rs1 w m (s : State) : exec (.vstFe vd rs1 w m) s = execVstFe vd rs1 w m s := rfl
@[simp] theorem exec_vstNt vd rs1 w m (s : State) : exec (.vstNt vd rs1 w m) s = execVstNt vd rs1 w m s := rfl
@[simp] theorem exec_vstSc vd rs1 w m (s : State) : exec (.vstSc vd rs1 w m) s = execVstSc vd rs1 w m s := rfl
@[simp] theorem exec_vlds vd rs1 rs2 w m (s : State) : exec (.vlds vd rs1 rs2 w m) s = execVlds vd rs1 rs2 w m s := rfl
@[simp] theorem exec_vldsFe vd rs1 rs2 w m (s : State) : exec (.vldsFe vd rs1 rs2 w m) s = execVldsFe vd rs1 rs2 w m s := rfl
@[simp] theorem exec_vsts vd rs1 rs2 w m (s : State) : exec (.vsts vd rs1 rs2 w m) s = execVsts vd rs1 rs2 w m s := rfl
@[simp] theorem exec_vstsFe vd rs1 rs2 w m (s : State) : exec (.vstsFe vd rs1 rs2 w m) s = execVstsFe vd rs1 rs2 w m s := rfl
@[simp] theorem exec_vldx vd rs1 vs2 w m (s : State) : exec (.vldx vd rs1 vs2 w m) s = execVldx vd rs1 vs2 w m s := rfl
@[simp] theorem exec_vldxFe vd rs1 vs2 w m (s : State) : exec (.vldxFe vd rs1 vs2 w m) s = execVldxFe vd rs1 vs2 w m s := rfl
@[simp] theorem exec_vstx vd rs1 vs2 w m (s : State) : exec (.vstx vd rs1 vs2 w m) s = execVstx vd rs1 vs2 w m s := rfl
@[simp] theorem exec_vstxFe vd rs1 vs2 w m (s : State) : exec (.vstxFe vd rs1 vs2 w m) s = execVstxFe vd rs1 vs2 w m s := rfl
@[simp] theorem exec_vbadd vd vs2 rs1 w m (s : State) : exec (.vbadd vd vs2 rs1 w m) s = execVbadd vd vs2 rs1 w m s := rfl
@[simp] theorem exec_vbfadd vd vs2 rs1 w m (s : State) : exec (.vbfadd vd vs2 rs1 w m) s = execVbfadd vd vs2 rs1 w m s := rfl
@[simp] theorem exec_vbfmax vd vs2 rs1 w m (s : State) : exec (.vbfmax vd vs2 rs1 w m) s = execVbfmax vd vs2 rs1 w m s := rfl
@[simp] theorem exec_vbor vd vs2 rs1 w m (s : State) : exec (.vbor vd vs2 rs1 w m) s = execVbor vd vs2 rs1 w m s := rfl
@[simp] theorem exec_vlock vd vs2 rs1 w m (s : State) : exec (.vlock vd vs2 rs1 w m) s = execVlock vd vs2 rs1 w m s := rfl
@[simp] theorem exec_vunlock vd vs2 rs1 w m (s : State) : exec (.vunlock vd vs2 rs1 w m) s = execVunlock vd vs2 rs1 w m s := rfl
@[simp] theorem exec_vfabget vd vs2 rs1 w m (s : State) : exec (.vfabget vd vs2 rs1 w m) s = execVfabget vd vs2 rs1 w m s := rfl
@[simp] theorem exec_vfabput vd vs2 rs1 w m (s : State) : exec (.vfabput vd vs2 rs1 w m) s = execVfabput vd vs2 rs1 w m s := rfl
@[simp] theorem exec_join (s : State) : exec (.join) s = execJoin s := rfl
@[simp] theorem exec_nend (s : State) : exec (.nend) s = execNend s := rfl
@[simp] theorem exec_meet k (s : State) : exec (.meet k) s = execMeet k s := rfl
@[simp] theorem exec_yield (s : State) : exec (.yield) s = execYield s := rfl
@[simp] theorem exec_bfree bd (s : State) : exec (.bfree bd) s = execBfree bd s := rfl
@[simp] theorem exec_blim rd bs (s : State) : exec (.blim rd bs) s = execBlim rd bs s := rfl
@[simp] theorem exec_bptr rd bs (s : State) : exec (.bptr rd bs) s = execBptr rd bs s := rfl
@[simp] theorem exec_feclr cls num (s : State) : exec (.feclr cls num) s = execFeclr cls num s := rfl
@[simp] theorem exec_vfeclr vd (s : State) : exec (.vfeclr vd) s = execVfeclr vd s := rfl
@[simp] theorem exec_barInit rs1 w1 (s : State) : exec (.barInit rs1 w1) s = execBarInit rs1 w1 s := rfl
@[simp] theorem exec_barExp rs1 rs2 w1 w2 (s : State) : exec (.barExp rs1 rs2 w1 w2) s = execBarExp rs1 rs2 w1 w2 s := rfl
@[simp] theorem exec_barArr rs1 rs2 scope w1 w2 (s : State) : exec (.barArr rs1 rs2 scope w1 w2) s = execBarArr rs1 rs2 scope w1 w2 s := rfl
@[simp] theorem exec_barWait rs1 rs2 scope w1 w2 (s : State) : exec (.barWait rs1 rs2 scope w1 w2) s = execBarWait rs1 rs2 scope w1 w2 s := rfl
@[simp] theorem exec_vdrain (s : State) : exec (.vdrain) s = execVdrain s := rfl
@[simp] theorem exec_fenceS kind scope (s : State) : exec (.fenceS kind scope) s = execFenceS kind scope s := rfl
@[simp] theorem exec_lpost rd rs1 w1 (s : State) : exec (.lpost rd rs1 w1) s = execLpost rd rs1 w1 s := rfl
@[simp] theorem exec_tret (s : State) : exec (.tret) s = execTret s := rfl
@[simp] theorem exec_ctxsave rd rs1 rs2 w1 w2 (s : State) : exec (.ctxsave rd rs1 rs2 w1 w2) s = execCtxsave rd rs1 rs2 w1 w2 s := rfl
@[simp] theorem exec_ctxload rd rs1 rs2 w1 w2 (s : State) : exec (.ctxload rd rs1 rs2 w1 w2) s = execCtxload rd rs1 rs2 w1 w2 s := rfl
@[simp] theorem exec_chold rs1 w1 (s : State) : exec (.chold rs1 w1) s = execChold rs1 w1 s := rfl
@[simp] theorem exec_fabld rd rs1 w1 (s : State) : exec (.fabld rd rs1 w1) s = execFabld rd rs1 w1 s := rfl
@[simp] theorem exec_fabst rs1 rs2 w1 w2 (s : State) : exec (.fabst rs1 rs2 w1 w2) s = execFabst rs1 rs2 w1 w2 s := rfl
@[simp] theorem exec_fabadd rd rs1 rs2 w1 w2 (s : State) : exec (.fabadd rd rs1 rs2 w1 w2) s = execFabadd rd rs1 rs2 w1 w2 s := rfl
@[simp] theorem exec_fabcas rd rs1 rs2 w1 w2 (s : State) : exec (.fabcas rd rs1 rs2 w1 w2) s = execFabcas rd rs1 rs2 w1 w2 s := rfl
@[simp] theorem exec_fabswp rd rs1 rs2 w1 w2 (s : State) : exec (.fabswp rd rs1 rs2 w1 w2) s = execFabswp rd rs1 rs2 w1 w2 s := rfl
@[simp] theorem exec_fabfl (s : State) : exec (.fabfl) s = execFabfl s := rfl
@[simp] theorem exec_fabred rs1 rs2 w1 w2 (s : State) : exec (.fabred rs1 rs2 w1 w2) s = execFabred rs1 rs2 w1 w2 s := rfl
@[simp] theorem exec_fabrw rd rs1 w1 (s : State) : exec (.fabrw rd rs1 w1) s = execFabrw rd rs1 w1 s := rfl
@[simp] theorem exec_cres rs1 w1 (s : State) : exec (.cres rs1 w1) s = execCres rs1 w1 s := rfl
@[simp] theorem exec_halt (s : State) : exec (.halt) s = execHalt s := rfl
@[simp] theorem exec_scrub rd rs1 w1 (s : State) : exec (.scrub rd rs1 w1) s = execScrub rd rs1 w1 s := rfl
@[simp] theorem exec_bslot bd imm rs1 (s : State) : exec (.bslot bd imm rs1) s = execBslot bd imm rs1 s := rfl
@[simp] theorem exec_loop rs1 off w1 (s : State) : exec (.loop rs1 off w1) s = execLoop rs1 off w1 s := rfl
@[simp] theorem exec_lbrk (s : State) : exec (.lbrk) s = execLbrk s := rfl
@[simp] theorem exec_lnext (s : State) : exec (.lnext) s = execLnext s := rfl
@[simp] theorem exec_vstrip off (s : State) : exec (.vstrip off) s = execVstrip off s := rfl
@[simp] theorem exec_fork off (s : State) : exec (.fork off) s = execFork off s := rfl
@[simp] theorem exec_vlset rd rs1 fmt grp y w1 (s : State) : exec (.vlset rd rs1 fmt grp y w1) s = execVlset rd rs1 fmt grp y w1 s := rfl
@[simp] theorem exec_mtset rd rs1 w1 (s : State) : exec (.mtset rd rs1 w1) s = execMtset rd rs1 w1 s := rfl
@[simp] theorem exec_mwld rs1 fmt w1 (s : State) : exec (.mwld rs1 fmt w1) s = execMwld rs1 fmt w1 s := rfl
@[simp] theorem exec_mgath vs rs1 w (s : State) : exec (.mgath vs rs1 w) s = execMgath vs rs1 w s := rfl
@[simp] theorem exec_mmac zd rs1 fmt w1 (s : State) : exec (.mmac zd rs1 fmt w1) s = execMmac zd rs1 fmt w1 s := rfl
@[simp] theorem exec_mmacz zd rs1 fmt w1 (s : State) : exec (.mmacz zd rs1 fmt w1) s = execMmacz zd rs1 fmt w1 s := rfl
@[simp] theorem exec_mzero zd (s : State) : exec (.mzero zd) s = execMzero zd s := rfl
@[simp] theorem exec_mrd vd zs w (s : State) : exec (.mrd vd zs w) s = execMrd vd zs w s := rfl
@[simp] theorem exec_mst zs rs1 w1 (s : State) : exec (.mst zs rs1 w1) s = execMst zs rs1 w1 s := rfl
@[simp] theorem exec_mcode rs1 w1 (s : State) : exec (.mcode rs1 w1) s = execMcode rs1 w1 s := rfl
@[simp] theorem exec_ystr vd rs1 w (s : State) : exec (.ystr vd rs1 w) s = execYstr vd rs1 w s := rfl
@[simp] theorem exec_yend vd (s : State) : exec (.yend vd) s = execYend vd s := rfl
@[simp] theorem exec_yld rd vd rs1 w (s : State) : exec (.yld rd vd rs1 w) s = execYld rd vd rs1 w s := rfl
@[simp] theorem exec_yst rd vd rs1 w (s : State) : exec (.yst rd vd rs1 w) s = execYst rd vd rs1 w s := rfl
@[simp] theorem exec_yxfer rd vd rs1 w (s : State) : exec (.yxfer rd vd rs1 w) s = execYxfer rd vd rs1 w s := rfl
@[simp] theorem exec_ytile rd rs1 w1 (s : State) : exec (.ytile rd rs1 w1) s = execYtile rd rs1 w1 s := rfl
@[simp] theorem exec_engineQueueEntry a q (s : State) : exec (.engineQueueEntry a q) s = execEngineQueueEntry a q s := rfl
@[simp] theorem exec_matrixQueueEntry a (s : State) : exec (.matrixQueueEntry a) s = execMatrixQueueEntry a s := rfl
@[simp] theorem exec_waitSatisfied a n (s : State) : exec (.waitSatisfied a n) s = execWaitSatisfied a n s := rfl
@[simp] theorem exec_copyChunk a k (s : State) : exec (.copyChunk a k) s = execCopyChunk a k s := rfl
@[simp] theorem exec_copyCompletion a k (s : State) : exec (.copyCompletion a k) s = execCopyCompletion a k s := rfl
@[simp] theorem exec_streamReadAhead a v (s : State) : exec (.streamReadAhead a v) s = execStreamReadAhead a v s := rfl
@[simp] theorem exec_streamWriteOut a v (s : State) : exec (.streamWriteOut a v) s = execStreamWriteOut a v s := rfl
@[simp] theorem exec_preemptionHonoured c (s : State) : exec (.preemptionHonoured c) s = execPreemptionHonoured c s := rfl
@[simp] theorem exec_yieldWindowExpiry c (s : State) : exec (.yieldWindowExpiry c) s = execYieldWindowExpiry c s := rfl
@[simp] theorem exec_managerEventEntry h (s : State) : exec (.managerEventEntry h) s = execManagerEventEntry h s := rfl
@[simp] theorem exec_skeinWrite h (s : State) : exec (.skeinWrite h) s = execSkeinWrite h s := rfl
@[simp] theorem exec_qtailWrite vf v (s : State) : exec (.qtailWrite vf v) s = execQtailWrite vf v s := rfl
@[simp] theorem exec_recordTake vf (s : State) : exec (.recordTake vf) s = execRecordTake vf s := rfl
@[simp] theorem exec_nodeDispatch p ids units (s : State) : exec (.nodeDispatch p ids units) s = execNodeDispatch p ids units s := rfl
@[simp] theorem exec_nodeCompletion p handle (s : State) : exec (.nodeCompletion p handle) s = execNodeCompletion p handle s := rfl
@[simp] theorem exec_agingIntervalExpiry p handle (s : State) : exec (.agingIntervalExpiry p handle) s = execAgingIntervalExpiry p handle s := rfl
@[simp] theorem exec_gangReservation p (s : State) : exec (.gangReservation p) s = execGangReservation p s := rfl
@[simp] theorem exec_qosExpiry p (s : State) : exec (.qosExpiry p) s = execQosExpiry p s := rfl
@[simp] theorem exec_holdGateWrite p gate en base limit (s : State) : exec (.holdGateWrite p gate en base limit) s = execHoldGateWrite p gate en base limit s := rfl
@[simp] theorem exec_gateDrained p gate (s : State) : exec (.gateDrained p gate) s = execGateDrained p gate s := rfl
@[simp] theorem exec_coalescingTimerExpiry vf (s : State) : exec (.coalescingTimerExpiry vf) s = execCoalescingTimerExpiry vf s := rfl
@[simp] theorem exec_functionLevelReset vf (s : State) : exec (.functionLevelReset vf) s = execFunctionLevelReset vf s := rfl
@[simp] theorem exec_scrubBlock vf (s : State) : exec (.scrubBlock vf) s = execScrubBlock vf s := rfl
@[simp] theorem exec_cxlMemAccess vf win off acc (s : State) : exec (.cxlMemAccess vf win off acc) s = execCxlMemAccess vf win off acc s := rfl
@[simp] theorem exec_ckill p c (s : State) : exec (.ckill p c) s = execCkill p c s := rfl
@[simp] theorem exec_revoke p key (s : State) : exec (.revoke p key) s = execRevoke p key s := rfl
@[simp] theorem exec_evhubWrite p v (s : State) : exec (.evhubWrite p v) s = execEvhubWrite p v s := rfl
@[simp] theorem exec_cablemaskWrite h v (s : State) : exec (.cablemaskWrite h v) s = execCablemaskWrite h v s := rfl
@[simp] theorem exec_gaugetabWrite h v (s : State) : exec (.gaugetabWrite h v) s = execGaugetabWrite h v s := rfl
@[simp] theorem exec_keyGenerate id (s : State) : exec (.keyGenerate id) s = execKeyGenerate id s := rfl
@[simp] theorem exec_keyDestroy id (s : State) : exec (.keyDestroy id) s = execKeyDestroy id s := rfl
@[simp] theorem exec_vprogWrite a v (s : State) : exec (.vprogWrite a v) s = execVprogWrite a v s := rfl
@[simp] theorem exec_registerWrite r v (s : State) : exec (.registerWrite r v) s = execRegisterWrite r v s := rfl
@[simp] theorem exec_gaugeGrant phub phbm hot (s : State) : exec (.gaugeGrant phub phbm hot) s = execGaugeGrant phub phbm hot s := rfl
@[simp] theorem exec_thermalShutdown (s : State) : exec (.thermalShutdown) s = execThermalShutdown s := rfl
@[simp] theorem exec_plimitSet watts (s : State) : exec (.plimitSet watts) s = execPlimitSet watts s := rfl
@[simp] theorem exec_fabricLoad p pk (s : State) : exec (.fabricLoad p pk) s = execFabricLoad p pk s := rfl
@[simp] theorem exec_fabricStore p pk (s : State) : exec (.fabricStore p pk) s = execFabricStore p pk s := rfl
@[simp] theorem exec_fabricFetchAdd p pk (s : State) : exec (.fabricFetchAdd p pk) s = execFabricFetchAdd p pk s := rfl
@[simp] theorem exec_fabricCompareAndSwap p pk (s : State) : exec (.fabricCompareAndSwap p pk) s = execFabricCompareAndSwap p pk s := rfl
@[simp] theorem exec_fabricSwap p pk (s : State) : exec (.fabricSwap p pk) s = execFabricSwap p pk s := rfl
@[simp] theorem exec_fabricContribution p pk (s : State) : exec (.fabricContribution p pk) s = execFabricContribution p pk s := rfl
@[simp] theorem exec_fabricIndexedGet p pk (s : State) : exec (.fabricIndexedGet p pk) s = execFabricIndexedGet p pk s := rfl
@[simp] theorem exec_fabricIndexedPut p pk (s : State) : exec (.fabricIndexedPut p pk) s = execFabricIndexedPut p pk s := rfl
@[simp] theorem exec_fabricAcknowledgementOnly p pk (s : State) : exec (.fabricAcknowledgementOnly p pk) s = execFabricAcknowledgementOnly p pk s := rfl
@[simp] theorem exec_fabricClose p pk (s : State) : exec (.fabricClose p pk) s = execFabricClose p pk s := rfl
@[simp] theorem exec_fabricReply p pk (s : State) : exec (.fabricReply p pk) s = execFabricReply p pk s := rfl
@[simp] theorem exec_retransmissionTimer p (s : State) : exec (.retransmissionTimer p) s = execRetransmissionTimer p s := rfl
@[simp] theorem exec_deviceReset w found (s : State) : exec (.deviceReset w found) s = execDeviceReset w found s := rfl
@[simp] theorem exec_getVersion request (s : State) : exec (.getVersion request) s = execGetVersion request s := rfl
@[simp] theorem exec_getCapabilities request (s : State) : exec (.getCapabilities request) s = execGetCapabilities request s := rfl
@[simp] theorem exec_negotiateAlgorithms request (s : State) : exec (.negotiateAlgorithms request) s = execNegotiateAlgorithms request s := rfl
@[simp] theorem exec_getDigests request (s : State) : exec (.getDigests request) s = execGetDigests request s := rfl
@[simp] theorem exec_getCertificate request (s : State) : exec (.getCertificate request) s = execGetCertificate request s := rfl
@[simp] theorem exec_challenge request (s : State) : exec (.challenge request) s = execChallenge request s := rfl
@[simp] theorem exec_getMeasurements request (s : State) : exec (.getMeasurements request) s = execGetMeasurements request s := rfl
@[simp] theorem exec_msiXVectorUnmask vf vec (s : State) : exec (.msiXVectorUnmask vf vec) s = execMsiXVectorUnmask vf vec s := rfl

end Sys2Proof.Machine
end

