-- ==== Sys2Proof/Laws/Launch.lean ====
section
/-! SUPPORT. What the shared operations `launch`, `reading` and `finish` can do, said once. -/

namespace Sys2Proof.Machine
open Sys2Proof

theorem emptyV_none (c : Ctx) (n : Nat) : ∀ r : Nat, (∀ k, k < n → (c.getV (BitVec.ofNat 6 (r + k))).full = true) → c.emptyV r n = none := by
  induction n with
  | zero => intro r _; rfl
  | succ n ih =>
    intro r h
    have h0 : (c.getV (BitVec.ofNat 6 r)).full = true := h 0 (Nat.succ_pos n)
    simp only [Ctx.emptyV, h0, if_true]
    exact ih (r + 1) (fun k hk => by have := h (k + 1) (Nat.succ_lt_succ hk); rwa [Nat.add_assoc, Nat.add_comm 1 k])

/-- Sources that are full let the body run (R31). -/
theorem unready_none (c : Ctx) (srcs : List Src) (h : ∀ q ∈ srcs, q.ready c) : c.unready srcs = none := by
  induction srcs with
  | nil => rfl
  | cons q qs ih =>
    have hq := h q (List.mem_cons_self ..)
    have ih := ih (fun p hp => h p (List.mem_cons_of_mem _ hp))
    cases q with
    | x r w => simp only [Src.ready] at hq; simp only [Ctx.unready, hq, if_true]; exact ih
    | f r w => simp only [Src.ready] at hq; simp only [Ctx.unready, hq, if_true]; exact ih
    | z r w => simp only [Src.ready] at hq; simp only [Ctx.unready, hq, if_true]; exact ih
    | v r n w => simp only [Ctx.unready, emptyV_none c n r.toNat hq]; exact ih

/-- No pending fault satisfies a test that none of them meets. -/
theorem firstPending_none (t : PendingFault → Bool) (ps : List PendingFault) (h : ∀ p ∈ ps, t p = false) :
    firstPending t ps = none := by
  unfold firstPending
  suffices g : ∀ b, ps.foldl (fun best p => if t p then match best with
      | none => some p
      | some b => if p.seq < b.seq then some p else best
    else best) b = b from g none
  induction ps with
  | nil => intro b; rfl
  | cons p ps ih =>
    intro b
    have hp := h p (List.mem_cons_self ..)
    simp only [List.foldl_cons, hp]
    exact ih (fun q hq => h q (List.mem_cons_of_mem _ hq)) b

theorem undelivered_none (c : Ctx) (srcs : List Src) (h : c.undelivered srcs) :
    firstPending (fun p => match p.xd with
      | none => false
      | some r => r != 0#5 && srcs.any (·.isX r)) c.pend = none := by
  apply firstPending_none
  intro p hp
  cases e : p.xd with
  | none => rfl
  | some r =>
    by_cases h0 : r = 0#5
    · simp [h0]
    · have : srcs.any (·.isX r) = false := by
        rw [List.any_eq_false]
        intro q hq
        simp [h p hp r e h0 q hq]
      simp [this]

theorem observed_pend (s : State) (srcs : List Src) : (s.observed srcs).my.pend = s.my.pend := by
  unfold State.observed
  split
  · rw [State.my_onMy]; rfl
  · rfl

/-- Nothing changes where the sources are no fabric reads that S has not read yet. -/
theorem observed_known (s : State) (srcs : List Src) (h : s.ndl = .S → s.my.unseen srcs = false) : s.observed srcs = s := by
  unfold State.observed
  by_cases e : s.ndl = .S
  · simp [h e]
  · simp [e]

/-- What `reading` does with sources that are full and deliver nothing: S's first read of what a fabric read wrote is noted (R408). -/
theorem reading_observes (s : State) (srcs : List Src) (body : State → State × Act) (h : ∀ q ∈ srcs, q.ready s.my) (hq : s.my.undelivered srcs) :
    reading srcs body s = body (s.observed srcs) := by
  unfold reading
  rw [unready_none s.my srcs h]
  have key := undelivered_none s.my srcs hq
  dsimp only
  rw [observed_pend]
  split
  · next p hp => exact absurd (hp.symm.trans key) (by simp)
  · rfl

/-- What `reading` does with sources that are full, deliver nothing and are no fabric reads that S has not read yet. -/
theorem reading_ready (s : State) (srcs : List Src) (body : State → State × Act) (h : ∀ q ∈ srcs, q.ready s.my) (hq : s.my.undelivered srcs)
    (hk : s.ndl = .S → s.my.unseen srcs = false) : reading srcs body s = body s := by
  rw [reading_observes s srcs body h hq, observed_known s srcs hk]

/-- What `launch` does with an instruction that may be executed. -/
theorem launch_allowed (s : State) (k : Class) (q : Charge) (body : State → State × Act) (srcs : List Src) (h : s.Allowed k srcs) :
    launch k q body s = finish s q (body s) := by
  unfold launch
  have h1 := h.clear
  have h2 : (k == .manager && !isManager s.who) = false := by
    by_cases e : k = .manager
    · simp [h.mode e]
    · simp [e]
  have h3 : (!k.allows s.ndl || (s.ndl == .S && !k.inlineAllowed s.my)) = false := by
    by_cases e : s.ndl = .S
    · simp [h.needle, h.inline e]
    · simp [h.needle, e]
  simp [h1, h2, h3]

/-- An instruction that issues runs its body. -/
theorem launch_reading (s : State) (k : Class) (q : Charge) (srcs : List Src) (body : State → State × Act) (h : s.Allowed k srcs) :
    launch k q (reading srcs body) s = finish s q (body s) := by
  rw [launch_allowed s k q _ srcs h, reading_ready s srcs body h.full h.quiet h.known]

/-- How `finish` ends an instruction, one lemma per act. -/
theorem finish_done (s : State) (q : Charge) (t : State) (h : s.my.returnFault s.ndl = none) :
    finish s q (t, .done) = .next (s.retired q t) := by
  simp only [finish, h]; rfl
@[simp] theorem finish_jump (s : State) (q : Charge) (t : State) (targ : Word) : finish s q (t, .jump targ) = .next (s.jumped q t targ) := rfl
@[simp] theorem finish_placed (s : State) (q : Charge) (t : State) : finish s q (t, .placed) = .next (s.placed q t) := rfl
@[simp] theorem finish_trap (s : State) (q : Charge) (e : BitVec 8) (v0 v1 : Word) : finish s q (s, .trap e v0 v1) = .next (s.trapped e v0 v1) := rfl
@[simp] theorem finish_wait (s : State) (q : Charge) (w : Wait) : finish s q (s, .wait w) = .next (s.blockedIn w) := rfl
@[simp] theorem finish_stall (s t : State) (q : Charge) : finish s q (t, .stall) = .next s := rfl
@[simp] theorem finish_stay (s t : State) (q : Charge) : finish s q (t, .stay) = .next t := rfl

/-- An instruction that issues, reads its sources and is done. -/
theorem launch_done (s : State) (k : Class) (q : Charge) (srcs : List Src) (body : State → State × Act) (t : State)
    (h : s.Issues k srcs) (e : body s = (t, .done)) : launch k q (reading srcs body) s = .next (s.retired q t) := by
  rw [launch_reading s k q srcs body h.toAllowed, e, finish_done s q t h.back]

/-- The same for one that reads no register first. -/
theorem launch_done' (s : State) (k : Class) (q : Charge) (body : State → State × Act) (t : State)
    (h : s.Issues k []) (e : body s = (t, .done)) : launch k q body s = .next (s.retired q t) := by
  rw [launch_allowed s k q body [] h.toAllowed, e, finish_done s q t h.back]

/-- A good control target passes the check of R120. -/
theorem targetFault_none (c : Ctx) (t : Word) (h : c.goodTarget t) : c.targetFault t = none := by
  obtain ⟨h1, h2, h3⟩ := h
  have e1 : t.extractLsb' 48 4 = 0#4 := by
    apply BitVec.eq_of_toNat_eq
    simp only [BitVec.extractLsb'_toNat, BitVec.toNat_ofNat, Nat.shiftRight_eq_div_pow]
    rw [Nat.div_eq_of_lt h1]
  have e2 : t.extractLsb' 52 12 = 0#12 := by
    apply BitVec.eq_of_toNat_eq
    simp only [BitVec.extractLsb'_toNat, BitVec.toNat_ofNat, Nat.shiftRight_eq_div_pow]
    rw [Nat.div_eq_of_lt (Nat.lt_of_lt_of_le h1 (by decide))]
  have e3 : t.extractLsb' 0 2 = 0#2 := by
    apply BitVec.eq_of_toNat_eq
    simp only [BitVec.extractLsb'_toNat, BitVec.toNat_ofNat, Nat.shiftRight_eq_div_pow]
    simpa using h3
  have e4 : ¬ t.toNat ≥ c.slot0.limit.toNat := Nat.not_le.mpr h2
  simp [Ctx.targetFault, e1, e2, e3, e4]

end Sys2Proof.Machine
end

