-- ==== Sys2Proof/Laws/Scalar.lean ====
section
/-! SUPPORT. The shared operations of the scalar instructions, one lemma each for an instruction that issues. -/

namespace Sys2Proof.Machine
open Sys2Proof

/-- Fewer sources hold fewer fabric reads that S has not read yet. -/
theorem unseen_fewer (c : Ctx) {a b : List Src} (hs : ∀ q ∈ b, q ∈ a) (h : c.unseen a = false) : c.unseen b = false := by
  simp only [Ctx.unseen, List.any_eq_false, List.any_eq_true, not_exists, not_and] at h ⊢
  exact fun e he q hq => h e he q (hs q hq)

/-- Fewer sources are asked for. -/
theorem State.Issues.fewer {s : State} {k : Class} {a b : List Src} (h : s.Issues k a) (hs : ∀ q ∈ b, q ∈ a) : s.Issues k b :=
  ⟨⟨h.clear, h.mode, h.needle, h.inline, fun q hq => h.full q (hs q hq), fun p hp r e h0 q hq => h.quiet p hp r e h0 q (hs q hq),
    fun e => unseen_fewer s.my hs (h.known e)⟩, h.back⟩

theorem State.Allowed.fewer {s : State} {k : Class} {a b : List Src} (h : s.Allowed k a) (hs : ∀ q ∈ b, q ∈ a) : s.Allowed k b :=
  ⟨h.clear, h.mode, h.needle, h.inline, fun q hq => h.full q (hs q hq), fun p hp r e h0 q hq => h.quiet p hp r e h0 q (hs q hq),
    fun e => unseen_fewer s.my hs (h.known e)⟩

theorem put_next (s : State) (k : Class) (q : Charge) (rd : XReg) (v : State → Word) (h : s.Issues k []) :
    launch k q (fun s => s.put rd (v s)) s = .next (s.givesX q rd (v s)) := launch_done' s k q _ _ h rfl

theorem aluReg_next (s : State) (q : Charge) (k : Class) (rd rs1 rs2 : XReg) (op : Word → Word → Word)
    (h : s.Issues k [.x rs1 false, .x rs2 false]) :
    aluReg q k rd rs1 rs2 op s = .next (s.givesX q rd (op (s.my.getX rs1) (s.my.getX rs2))) :=
  launch_done s k q _ _ _ h rfl

theorem aluImm_next (s : State) (rd rs1 : XReg) (op : Word → Word) (h : s.Issues .base [.x rs1 false]) :
    aluImm rd rs1 op s = .next (s.givesX [(0, 1)] rd (op (s.my.getX rs1))) :=
  launch_done s .base [(0, 1)] _ _ _ h rfl

/-- A transfer to a good target (R120, R225). -/
theorem jumpTo_good (s : State) (rd : XReg) (t : Word) (h : s.my.goodTarget t) :
    s.jumpTo rd t = (s.onMy (·.setX rd (s.pc + 4#64)), .jump t) := by
  simp only [State.jumpTo, targetFault_none s.my t h]

/-- A transfer to a bad target traps with no effect (R120). -/
theorem jumpTo_bad (s : State) (rd : XReg) (t : Word) (e : BitVec 8) (v0 v1 : Word) (h : s.my.targetFault t = some (e, v0, v1)) :
    s.jumpTo rd t = (s, .trap e v0 v1) := by
  simp only [State.jumpTo, h]

theorem branch_taken (s : State) (rs1 rs2 : XReg) (off : BitVec 12) (cond : Word → Word → Bool) (h : s.Allowed .base [.x rs1 false, .x rs2 false])
    (hc : cond (s.my.getX rs1) (s.my.getX rs2) = true) (ht : s.my.goodTarget (s.pc + (off.signExtend 64 <<< 1))) :
    branch rs1 rs2 off cond s = .next (s.jumped [(0, 1)] s (s.pc + (off.signExtend 64 <<< 1))) := by
  unfold branch
  rw [launch_reading s .base _ _ _ h]
  simp only [hc, if_true, targetFault_none s.my _ ht, finish_jump]

theorem branch_not (s : State) (rs1 rs2 : XReg) (off : BitVec 12) (cond : Word → Word → Bool) (h : s.Issues .base [.x rs1 false, .x rs2 false])
    (hc : cond (s.my.getX rs1) (s.my.getX rs2) = false) : branch rs1 rs2 off cond s = .next (s.retired [(0, 1)] s) := by
  unfold branch
  rw [launch_reading s .base _ _ _ h.toAllowed]
  simp only [hc]
  exact finish_done s _ s h.back

theorem signLoad_eq (n w : Nat) (h : 0 < n) (h2 : n ≤ 8) : signLoad n w = (BitVec.ofNat (8 * n) w).signExtend 64 :=
  shl_sar (8 * n) w (by omega) (by omega)

/-- A value read is below 256 to the number of its bytes. -/
theorem read_lt (s : State) (key : Nat) (n : Nat) : ∀ a, s.read key a n < 256 ^ n := by
  induction n with
  | zero => intro a; simp [State.read]
  | succ n ih => intro a; have := ih (a + 1); have := (s.byteAt key a).isLt; simp only [State.read, Nat.pow_succ]; omega

end Sys2Proof.Machine
end

