-- ==== Sys2Proof/Laws/ScalarMem.lean ====
section
/-! SUPPORT. Scalar memory: what its accesses and stores do, and the checks of R117 on a seated slot. -/

namespace Sys2Proof.Machine
open Sys2Proof

theorem countRelease_bytes (s : State) (core : Nat) (sc : BitVec 3) : SameBytes s (s.countRelease core sc) := by
  unfold State.countRelease; split <;> exact ⟨rfl, rfl, rfl, rfl, rfl⟩

theorem setRegs_bytes (s : State) (a : Agent) (c : Ctx) : SameBytes s (s.setRegs a c) := by cases a <;> exact ⟨rfl, rfl, rfl, rfl, rfl⟩

theorem takeHalf_bytes (s : State) (a : Agent) : SameBytes s (s.takeHalf a).1 := by
  unfold State.takeHalf; dsimp only; split
  · exact (setRegs_bytes _ _ _).trans (countRelease_bytes _ _ _)
  · exact (setRegs_bytes _ _ _).trans (countRelease_bytes _ _ _)
  · exact SameBytes.refl s

theorem retired_bytes (s : State) (q : Charge) (t : State) : SameBytes t (s.retired q t) := by
  constructor <;> simp [State.retired]

theorem trapped_bytes (s : State) (e : BitVec 8) (v0 v1 : Word) : SameBytes s (s.trapped e v0 v1) := by
  constructor <;> simp [State.trapped]

theorem putPlain_eq (s : State) (core : Option Nat) (a : Access) (n w : Nat) : SameBytes (s.putAtomic core a n w) (s.putPlain core a n w) := by
  unfold State.putAtomic State.putPlain; split <;> exact ⟨rfl, rfl, rfl, rfl, rfl⟩

theorem storeS_bytes (s : State) (ag : Agent) (a : Access) (n w : Nat) :
    (∀ key x, Untouched a.key a.phys n key x → (s.storeS ag a n w).byteAt key x = s.byteAt key x) ∧
    (∀ k, k < n → s.keyValid a.key (a.phys + k) → (s.storeS ag a n w).byteAt a.key (a.phys + k) = BitVec.ofNat 8 (w / 256 ^ k)) := by
  have h1 := takeHalf_bytes s ag
  have h2 := putAtomic_bytes (s.takeHalf ag).1 ((s.takeHalf ag).1.regs ag).core a n w
  have h3 : SameBytes ((s.takeHalf ag).1.putAtomic ((s.takeHalf ag).1.regs ag).core a n w) (s.storeS ag a n w) := by
    unfold State.storeS
    dsimp only
    split
    · exact putPlain_eq _ _ _ _ _
    · exact (putPlain_eq _ _ _ _ _).trans ⟨rfl, rfl, rfl, rfl, rfl⟩
  refine ⟨fun key x hx => ?_, fun k hk hv => ?_⟩
  · rw [h3.byteAt, h2.1 key x hx, h1.byteAt]
  · rw [h3.byteAt]; exact h2.2 k hk (by unfold State.keyValid at *; rwa [h1.keys])

theorem storeOf_ok (s : State) (n : Nat) (srcs : List Src) (rs1 : XReg) (imm : BitVec 12) (val : Ctx → Word) (a : Access)
    (h : s.Issues .sOnly (.x rs1 false :: srcs))
    (ha : s.plainAccess (s.my.view s.who) (s.my.getX rs1 + imm.signExtend 64) { size := n, align := n, write := true, mmio := true } = .ok a)
    (hr : a.region ≠ .mmio) : storeOf n srcs rs1 imm val s = .next (s.retired [(2, 1)] (s.storeS s.who a n (val s.my).toNat)) := by
  refine launch_done s .sOnly _ _ _ _ h ?_
  have ha' : s.plainAccess (s.my.view s.who) (s.scalarAddr rs1 imm) { size := n, align := n, write := true, mmio := true } = .ok a := ha
  simp only [ha']
  rw [if_neg (by simpa using hr)]

theorem storeOf_error (s : State) (n : Nat) (srcs : List Src) (rs1 : XReg) (imm : BitVec 12) (val : Ctx → Word) (e : MemFault)
    (h : s.Allowed .sOnly (.x rs1 false :: srcs))
    (ha : s.plainAccess (s.my.view s.who) (s.my.getX rs1 + imm.signExtend 64) { size := n, align := n, write := true, mmio := true } = .error e) :
    storeOf n srcs rs1 imm val s = .next (s.trapped e.cause e.ptr e.val1) := by
  unfold storeOf
  rw [launch_reading s .sOnly _ _ _ h]
  have ha' : s.plainAccess (s.my.view s.who) (s.scalarAddr rs1 imm) { size := n, align := n, write := true, mmio := true } = .error e := ha
  simp only [ha']
  rfl

theorem loadS_error (s : State) (n : Nat) (rs1 : XReg) (imm : BitVec 12) (put : Ctx → Nat → Ctx) (e : MemFault)
    (h : s.Allowed .sOnly [.x rs1 false])
    (ha : s.plainAccess (s.my.view s.who) (s.my.getX rs1 + imm.signExtend 64) { size := n, align := n, mmio := true } = .error e) :
    loadS n rs1 imm put s = .next (s.trapped e.cause e.ptr e.val1) := by
  unfold loadS
  rw [launch_reading s .sOnly _ _ _ h]
  have ha' : s.plainAccess (s.my.view s.who) (s.scalarAddr rs1 imm) { size := n, align := n, mmio := true } = .error e := ha
  simp only [ha']
  rfl

theorem ptr_slot (p : Word) : (p.extractLsb' 52 12).toNat = p.toNat / 2 ^ 52 := by
  have := p.isLt
  rw [BitVec.extractLsb'_toNat, Nat.shiftRight_eq_div_pow]; omega

theorem ptr_off (p : Word) : (p.extractLsb' 0 48).toNat = p.toNat % 2 ^ 48 := by
  rw [BitVec.extractLsb'_toNat]; rfl

theorem ptr_reserved (p : Word) : (p.extractLsb' 48 4 != 0#4) = decide (p.toNat / 2 ^ 48 % 16 ≠ 0) := by
  simp [bne, BitVec.toNat_eq, Nat.shiftRight_eq_div_pow, Bool.beq_eq_decide_eq]

theorem region_hbm (a : Nat) (h : a < hbmEnd) : regionOf a = some .hbm := by
  unfold regionOf; rw [if_pos h]

theorem region_host (a : Nat) (h : 2 ^ 41 ≤ a) (h2 : a < 2 ^ 42) : regionOf a = some .host := by
  have e1 : hbmEnd ≤ 2 ^ 41 := by decide
  have e2 : bankStart + 4 * bankSize ≤ 2 ^ 41 := by decide
  have e3 : spadStart + 4096 * spadSize ≤ 2 ^ 41 := by decide
  have e4 : hostStart = 2 ^ 41 := by decide
  have e5 : hostEnd = 2 ^ 42 := by decide
  unfold regionOf
  rw [if_neg (by omega), if_neg (by simp; omega), if_neg (by simp; omega), if_neg (by simp; omega), if_pos (by simp; omega)]

theorem place_seated (s : State) (v : View) (slot off n : Nat) (t : Seat) (h1 : 1 ≤ slot) (h2 : slot ≤ 4031)
    (h : v.seats.find? (fun t => t.slot.toNat = slot) = some t) : s.place v slot off n = some (t.entry.place t.absent off n) := by
  unfold State.place
  rw [if_neg (by omega), if_pos h2]
  rw [h]; rfl

theorem place_unseated (s : State) (v : View) (slot off n : Nat) (h1 : 1 ≤ slot) (h2 : slot ≤ 4031)
    (h : v.seats.find? (fun t => t.slot.toNat = slot) = none) : s.place v slot off n = none := by
  unfold State.place
  rw [if_neg (by omega), if_pos h2]
  rw [h]; rfl

theorem hbm_39 : hbmEnd = 2 ^ 39 := by decide

/-- The first checks of R117 on an access through a seated slot. -/
theorem access_seated (s : State) (v : View) (p : Word) (q : Need) (t : Seat) (h0 : p.toNat / 2 ^ 48 % 16 = 0)
    (h1 : 1 ≤ p.toNat / 2 ^ 52) (h2 : p.toNat / 2 ^ 52 ≤ 4031) (hk : q.kind = .any) (hc : q.copy = false)
    (h : v.seats.find? (fun u => u.slot.toNat = p.toNat / 2 ^ 52) = some t) :
    (t.absent = true → s.access v p q = .error ⟨0x05#8, p, BitVec.ofNat 64 (p.toNat / 2 ^ 52)⟩) ∧
    (t.absent = false → t.entry.packed = true → s.access v p q = .error ⟨0x0C#8, p, 2#64⟩) ∧
    (t.absent = false → t.entry.packed = false → p.toNat % 2 ^ 48 % q.align ≠ 0 → s.access v p q = .error ⟨0x0C#8, p, 1#64⟩) ∧
    (t.absent = false → t.entry.packed = false → p.toNat % 2 ^ 48 % q.align = 0 → t.entry.limit.toNat < p.toNat % 2 ^ 48 + q.size →
      s.access v p q = .error ⟨0x03#8, p, BitVec.ofNat 64 (q.size % 256 * 2 ^ 48 + t.entry.limit.toNat)⟩) := by
  have hr : (p.extractLsb' 48 4 != 0#4) = false := by rw [ptr_reserved, h0]; rfl
  have hp := place_seated s v (p.toNat / 2 ^ 52) (p.toNat % 2 ^ 48) q.size t h1 h2 h
  have ha : (t.entry.place t.absent (p.toNat % 2 ^ 48) q.size).absent = t.absent := rfl
  have hpk : (t.entry.place t.absent (p.toNat % 2 ^ 48) q.size).packed = t.entry.packed := rfl
  have hs : Support.any.on v (t.entry.place t.absent (p.toNat % 2 ^ 48) q.size) = true := by simp [Support.on]
  have hil : (t.entry.place t.absent (p.toNat % 2 ^ 48) q.size).inLimit = decide (p.toNat % 2 ^ 48 + q.size ≤ t.entry.limit.toNat) := rfl
  have hlm : (t.entry.place t.absent (p.toNat % 2 ^ 48) q.size).limit = t.entry.limit.toNat := rfl
  have hab : (t.entry.place t.absent (p.toNat % 2 ^ 48) q.size).absent = t.absent := rfl
  generalize hT : t.entry.place t.absent (p.toNat % 2 ^ 48) q.size = T at *
  refine ⟨fun e => ?_, fun e1 e2 => ?_, fun e1 e2 e3 => ?_, fun e1 e2 e3 e4 => ?_⟩
  · rw [e] at ha
    simp only [State.access, hr, ptr_slot, ptr_off, hp, ha, if_true]; rfl
  · rw [e1] at ha; rw [e2] at hpk
    simp only [State.access, hr, ptr_slot, ptr_off, hp, ha, hpk, hc, Bool.not_false, Bool.and_self, if_true]; rfl
  · rw [e1] at ha; rw [e2] at hpk
    have : (p.toNat % 2 ^ 48 % q.align != 0) = true := by simpa using e3
    simp only [State.access, hr, ptr_slot, ptr_off, hp, ha, hpk, hk, hs, this, Bool.not_true, Bool.false_and, if_true]; rfl
  · rw [e1] at ha; rw [e2] at hpk
    have : (p.toNat % 2 ^ 48 % q.align != 0) = false := by simpa using e3
    have hl : T.inLimit = false := by rw [hil]; exact decide_eq_false (by omega)
    simp only [State.access, hr, ptr_slot, ptr_off, hp, ha, hpk, hk, hs, this, hl, hlm, Bool.not_true, Bool.false_and, Bool.not_false, Bool.or_true, Bool.true_or, if_true]
    simp only [Bool.false_eq_true, if_false]
    split <;> rfl

/-- An access to a tensor in HBM that passes them. -/
theorem access_hbm (s : State) (v : View) (p : Word) (q : Need) (t : Seat) (h0 : p.toNat / 2 ^ 48 % 16 = 0)
    (h1 : 1 ≤ p.toNat / 2 ^ 52) (h2 : p.toNat / 2 ^ 52 ≤ 4031) (hk : q.kind = .any)
    (h : v.seats.find? (fun u => u.slot.toNat = p.toNat / 2 ^ 52) = some t) (ha0 : t.absent = false) (hp0 : t.entry.packed = false)
    (hal : p.toNat % 2 ^ 48 % q.align = 0) (hn : 0 < q.size) (hlim : p.toNat % 2 ^ 48 + q.size ≤ t.entry.limit.toNat)
    (hb : t.entry.base.toNat / 256 * 256 + t.entry.limit.toNat ≤ 2 ^ 39) :
    (q.write = true → t.entry.writable = false ∨ t.entry.code = true →
      s.access v p q = .error ⟨0x03#8, p, BitVec.ofNat 64 (q.size % 256 * 2 ^ 48 + t.entry.limit.toNat) ||| (1#64 <<< 63)⟩) ∧
    ((q.write = true → t.entry.writable = true ∧ t.entry.code = false) → s.badMem = [] →
      s.access v p q = .ok ⟨t.entry.base.toNat / 256 * 256 + p.toNat % 2 ^ 48, t.entry.key.toNat, .hbm⟩) := by
  have hr : (p.extractLsb' 48 4 != 0#4) = false := by rw [ptr_reserved, h0]; rfl
  have hp := place_seated s v (p.toNat / 2 ^ 52) (p.toNat % 2 ^ 48) q.size t h1 h2 h
  have ha : (t.entry.place t.absent (p.toNat % 2 ^ 48) q.size).absent = false := ha0
  have hpk : (t.entry.place t.absent (p.toNat % 2 ^ 48) q.size).packed = false := hp0
  have hs : Support.any.on v (t.entry.place t.absent (p.toNat % 2 ^ 48) q.size) = true := by simp [Support.on]
  have hil : (t.entry.place t.absent (p.toNat % 2 ^ 48) q.size).inLimit = true := decide_eq_true hlim
  have hlm : (t.entry.place t.absent (p.toNat % 2 ^ 48) q.size).limit = t.entry.limit.toNat := rfl
  have hw : (t.entry.place t.absent (p.toNat % 2 ^ 48) q.size).writable = (t.entry.writable && !t.entry.code) := rfl
  have hph : (t.entry.place t.absent (p.toNat % 2 ^ 48) q.size).phys = t.entry.base.toNat / 256 * 256 + p.toNat % 2 ^ 48 := rfl
  have hky : (t.entry.place t.absent (p.toNat % 2 ^ 48) q.size).key = t.entry.key.toNat := rfl
  have hpe : (t.entry.place t.absent (p.toNat % 2 ^ 48) q.size).peer = none := rfl
  have al : (p.toNat % 2 ^ 48 % q.align != 0) = false := by simpa using hal
  rw [ha0] at hp ha hpk hs hil hlm hw hph hky hpe
  generalize hoff : p.toNat % 2 ^ 48 = off at *
  obtain ⟨base, hbase⟩ : ∃ b, t.entry.base.toNat / 256 * 256 = b := ⟨_, rfl⟩
  rw [hbase] at hb hph ⊢
  have rb : regionOf base = some .hbm := region_hbm _ (by rw [hbm_39]; omega)
  have r1 : regionOf (base + off) = some .hbm := region_hbm _ (by rw [hbm_39]; omega)
  have r2 : regionOf (base + off + q.size - 1) = some .hbm := region_hbm _ (by rw [hbm_39]; omega)
  have hreg : (t.entry.place false off q.size).region = some .hbm := by
    have : (t.entry.place false off q.size).region = regionOf (t.entry.base.toNat / 256 * 256) := rfl
    rw [this, hbase, rb]
  have htg : (t.entry.place false off q.size).target = true := by
    unfold SlotEntry.place; simp only [hbase, rb]
  constructor
  · intro hwr hor
    have hnw : (t.entry.place false off q.size).writable = false := by
      rw [hw]; rcases hor with e | e <;> simp [e]
    simp only [State.access, hr, ptr_slot, ptr_off, hoff, hp, ha, hpk, hk, hs, al, hreg, htg, hil, hlm, hph, r1, r2, hwr, hnw, Bool.not_true, Bool.not_false, Bool.false_and, Bool.and_self]
    simp
  · intro hwr hbad
    have hnw : (q.write && !(t.entry.place false off q.size).writable) = false := by
      rw [hw]
      cases hq : q.write with
      | false => rfl
      | true => have := hwr hq; simp [this.1, this.2]
    have hbw : s.badFor (q.rmw || !q.write) (base + off) q.size = none := by unfold State.badFor; rw [hbad]; rfl
    simp only [State.access, hr, ptr_slot, ptr_off, hoff, hp, ha, hpk, hk, hs, al, hreg, htg, hil, hlm, hph, hky, hpe, r1, r2, hnw, hbw, Bool.not_true, Bool.false_and]
    simp

/-- An access to a tensor in host memory that the host rejects (R421). -/
theorem access_host (s : State) (v : View) (p : Word) (q : Need) (t : Seat) (h0 : p.toNat / 2 ^ 48 % 16 = 0)
    (h1 : 1 ≤ p.toNat / 2 ^ 52) (h2 : p.toNat / 2 ^ 52 ≤ 4031) (hk : q.kind = .any)
    (h : v.seats.find? (fun u => u.slot.toNat = p.toNat / 2 ^ 52) = some t) (ha0 : t.absent = false) (hp0 : t.entry.packed = false)
    (hal : p.toNat % 2 ^ 48 % q.align = 0) (hn : 0 < q.size) (hlim : p.toNat % 2 ^ 48 + q.size ≤ t.entry.limit.toNat)
    (hb : 2 ^ 41 ≤ t.entry.base.toNat / 256 * 256) (hb2 : t.entry.base.toNat / 256 * 256 + t.entry.limit.toNat ≤ 2 ^ 42)
    (hwr : q.write = true → t.entry.writable = true ∧ t.entry.code = false)
    (hrej : s.hostRejects v.vf (t.entry.base.toNat / 256 * 256 + p.toNat % 2 ^ 48) q.size = true) :
    s.access v p q = .error ⟨0x17#8, p, BitVec.ofNat 64 (memCode .host * 2 ^ 62 + (t.entry.base.toNat / 256 * 256 + p.toNat % 2 ^ 48) / 8 * 8)⟩ := by
  have hr : (p.extractLsb' 48 4 != 0#4) = false := by rw [ptr_reserved, h0]; rfl
  have hp := place_seated s v (p.toNat / 2 ^ 52) (p.toNat % 2 ^ 48) q.size t h1 h2 h
  have hs : Support.any.on v (t.entry.place t.absent (p.toNat % 2 ^ 48) q.size) = true := by simp [Support.on]
  have hil : (t.entry.place t.absent (p.toNat % 2 ^ 48) q.size).inLimit = true := decide_eq_true hlim
  have hw : (t.entry.place t.absent (p.toNat % 2 ^ 48) q.size).writable = (t.entry.writable && !t.entry.code) := rfl
  have ha : (t.entry.place t.absent (p.toNat % 2 ^ 48) q.size).absent = false := ha0
  have hpk : (t.entry.place t.absent (p.toNat % 2 ^ 48) q.size).packed = false := hp0
  have hph : (t.entry.place t.absent (p.toNat % 2 ^ 48) q.size).phys = t.entry.base.toNat / 256 * 256 + p.toNat % 2 ^ 48 := rfl
  have hpe : (t.entry.place t.absent (p.toNat % 2 ^ 48) q.size).peer = none := rfl
  have al : (p.toNat % 2 ^ 48 % q.align != 0) = false := by simpa using hal
  rw [ha0] at hp ha hpk hs hil hw hph hpe
  generalize hoff : p.toNat % 2 ^ 48 = off at *
  obtain ⟨base, hbase⟩ : ∃ b, t.entry.base.toNat / 256 * 256 = b := ⟨_, rfl⟩
  rw [hbase] at hb hb2 hph hrej ⊢
  have rb : regionOf base = some .host := region_host _ hb (by omega)
  have r1 : regionOf (base + off) = some .host := region_host _ (by omega) (by omega)
  have r2 : regionOf (base + off + q.size - 1) = some .host := region_host _ (by omega) (by omega)
  have hreg : (t.entry.place false off q.size).region = some .host := by
    have : (t.entry.place false off q.size).region = regionOf (t.entry.base.toNat / 256 * 256) := rfl
    rw [this, hbase, rb]
  have htg : (t.entry.place false off q.size).target = true := by
    unfold SlotEntry.place; simp only [hbase, rb]
  have hnw : (q.write && !(t.entry.place false off q.size).writable) = false := by
    rw [hw]
    cases hq : q.write with
    | false => rfl
    | true => have := hwr hq; simp [this.1, this.2]
  simp only [State.access, hr, ptr_slot, ptr_off, hoff, hp, ha, hpk, hk, hs, al, hreg, htg, hil, hph, hpe, r1, r2, hnw, hrej, Bool.not_true, Bool.false_and]
  simp

theorem lor_top (x : Nat) (h : x < 2 ^ 63) : BitVec.ofNat 64 x ||| (1#64 <<< 63) = BitVec.ofNat 64 (2 ^ 63 + x) := by
  apply BitVec.eq_of_toNat_eq
  have e : (2 ^ 63 + x) % 2 ^ 64 = 2 ^ 63 + x := Nat.mod_eq_of_lt (by omega)
  have e2 : x % 2 ^ 64 = x := Nat.mod_eq_of_lt (by omega)
  rw [BitVec.toNat_or, BitVec.toNat_ofNat, BitVec.toNat_ofNat, e, e2]
  have : (1#64 <<< 63).toNat = 2 ^ 63 := by decide
  have k := Nat.two_pow_add_eq_or_of_lt h 1
  rw [Nat.mul_one] at k
  rw [this, Nat.or_comm, k]

theorem ordered_false (s : State) (q : Nat) (x : Granule) (ht : x.tag ≠ 0#28) (hwq : (x.tag.extractLsb' 16 12).toNat ≠ q)
    (hcl : (x.tag.extractLsb' 16 12).toNat / 128 = q / 128)
    (hrel : (s.core (x.tag.extractLsb' 16 12).toNat).rel < x.rel + 32768) (hs : (s.core q).since ≤ x.wrote)
    (hp : Sparse.at (s.core q).know.past 0 (x.tag.extractLsb' 16 12).toNat ≤ x.wrote)
    (hk : (s.known q (x.tag.extractLsb' 16 12).toNat - x.tag.extractLsb' 0 16).toNat = 0 ∨
      32768 < (s.known q (x.tag.extractLsb' 16 12).toNat - x.tag.extractLsb' 0 16).toNat) :
    s.ordered q x = false := by
  unfold State.ordered
  dsimp only
  generalize (s.known q (x.tag.extractLsb' 16 12).toNat - x.tag.extractLsb' 0 16).toNat = known at *
  generalize (x.tag.extractLsb' 16 12).toNat = w at *
  have e1 : (x.tag == 0#28) = false := beq_eq_false_iff_ne.mpr ht
  have e2 : decide (x.wrote < (s.core q).since) = false := decide_eq_false (Nat.not_lt.mpr hs)
  have e7 : decide (x.wrote < Sparse.at (s.core q).know.past 0 w) = false := decide_eq_false (Nat.not_lt.mpr hp)
  have e3 : (w == q) = false := beq_eq_false_iff_ne.mpr hwq
  have e4 : (w / 128 != q / 128) = false := by rw [hcl]; exact bne_self_eq_false _
  have e5 : decide (x.rel + 32768 ≤ (s.core w).rel) = false := decide_eq_false (Nat.not_le.mpr hrel)
  have e6 : (decide (1 ≤ known) && decide (known ≤ 32768)) = false := by
    rcases hk with hk | hk
    · rw [hk]; rfl
    · rw [decide_eq_false (Nat.not_le.mpr hk), Bool.and_false]
  rw [e1, e2, e3, e4, e5, e6, e7]; rfl

theorem span_one (g : Nat → Nat) (p n : Nat) (h0 : n ≠ 0) (hg : g (p + n - 1) = g p) : spanOf g p n = [g p] := by
  unfold spanOf
  rw [if_neg h0, hg, Nat.sub_self]
  rfl

theorem granule_8 (p : Nat) (hp : spadStart ≤ p) (hm : p % 16 = 0) : granuleOf (p + 8 - 1) = granuleOf p := by
  unfold granuleOf
  have : spadStart % 16 = 0 := by decide
  generalize spadStart = z at *
  omega

theorem raceA (s : State) (v : View) (p : Word) (a : Access) (q : Nat) (hr : a.region = .spad) (hv : v.core = some q) (hspan : spanOf granuleOf a.phys 8 = [granuleOf a.phys])
   (ho : s.ordered q (s.granule (granuleOf a.phys)) = false) : s.race v p a 8 = some ⟨0x0A#8, p, (s.granule (granuleOf a.phys)).tag.setWidth 64⟩ := by
  unfold State.race
  simp only [hr, hv, hspan, List.find?_cons, ho, Bool.not_false, Option.map_some]

end Sys2Proof.Machine
end

