-- ==== Sys2Proof/Laws/Retire.lean ====
section
/-! SUPPORT. What retiring, jumping, blocking and trapping leave as it was: registers, cores, the device, other agents. -/

namespace Sys2Proof.Machine
open Sys2Proof

/-- Everything but registers, hub cores' own registers, events and outputs is the same. -/
theorem SameDevice.refl (s : State) : SameDevice s s := by constructor <;> simp
theorem SameDevice.trans {s t u : State} (h : SameDevice s t) (k : SameDevice t u) : SameDevice s u := by
  obtain ⟨a1, a2, a3, a4, a5, a6, a7, a8, a9, a10, a11, a12, a13, a14, a15, a16⟩ := h
  obtain ⟨b1, b2, b3, b4, b5, b6, b7, b8, b9, b10, b11, b12, b13, b14, b15, b16⟩ := k
  constructor <;> simp [*]

theorem setRegs_device (s : State) (a : Agent) (c : Ctx) : SameDevice s (s.setRegs a c) := by cases a <;> (constructor <;> simp)
theorem onMy_device (s : State) (f : Ctx → Ctx) : SameDevice s (s.onMy f) := setRegs_device _ _ _
theorem retired_device (s : State) (q : Charge) (t : State) : SameDevice t (s.retired q t) := by constructor <;> simp [State.retired]
theorem jumped_device (s : State) (q : Charge) (t : State) (targ : Word) : SameDevice t (s.jumped q t targ) := by constructor <;> simp [State.jumped]
theorem placed_device (s : State) (q : Charge) (t : State) : SameDevice t (s.placed q t) := by constructor <;> simp [State.placed]
theorem takeTrap_device (s : State) (a : Agent) (n : Needle) (e : BitVec 8) (v0 v1 tpc tipc : Word) :
    SameDevice s (s.takeTrap a n e v0 v1 tpc tipc) := by constructor <;> simp

theorem SameBytes.same {s t : State} (h : SameBytes s t) : SameMemory s t := h.byteAt
theorem onMy_bytes (s : State) (f : Ctx → Ctx) : SameBytes s (s.onMy f) := setRegs_bytes _ _ _
theorem jumped_bytes (s : State) (q : Charge) (t : State) (targ : Word) : SameBytes t (s.jumped q t targ) := by constructor <;> simp [State.jumped]
theorem placed_bytes (s : State) (q : Charge) (t : State) : SameBytes t (s.placed q t) := by constructor <;> simp [State.placed]
theorem takeTrap_bytes (s : State) (a : Agent) (n : Needle) (e : BitVec 8) (v0 v1 tpc tipc : Word) :
    SameBytes s (s.takeTrap a n e v0 v1 tpc tipc) := by constructor <;> simp

/-- Other agents' registers. -/
theorem setRegs_others (s : State) (a b : Agent) (c : Ctx) (h : b ≠ a) : (s.setRegs a c).regs b = s.regs b := State.regs_setRegs_ne s a b c h
theorem onMy_others (s : State) (f : Ctx → Ctx) : SameOthers s (s.onMy f) := fun _ h => State.regs_setRegs_ne _ _ _ _ h
theorem SameOthers.trans' {s t u : State} (h : SameOthers s t) (k : SameOthers t u) (e : t.cur = s.cur) : SameOthers s u :=
  fun b hb => (k b (by simpa [State.who, e] using hb)).trans (h b hb)

theorem setHub_regs (s : State) (h : Nat) (u : Hub) (b : Agent) (hu : u.regs = (s.hub h).regs) : (s.setHub h u).regs b = s.regs b := by
  cases b with
  | ctx i => rfl
  | hub g =>
    by_cases e : g = h
    · subst e
      show (Sparse.at (Sparse.insert s.hubs g u) Hub.started g).regs = _
      rw [Sparse.at_insert]; exact hu
    · show (Sparse.at (Sparse.insert s.hubs h u) Hub.started g).regs = _
      rw [Sparse.at_insert_ne _ _ _ _ _ e]; rfl

theorem takeTrap_others (s : State) (n : Needle) (e : BitVec 8) (v0 v1 tpc tipc : Word) :
    SameOthers s (s.takeTrap s.who n e v0 v1 tpc tipc) := by
  intro b hb
  unfold State.takeTrap
  split
  · exact setHub_regs s _ _ b rfl
  · next i hi =>
    show (State.post _ _ _ _).regs b = _
    have : ∀ (t : State) p c i, (t.post p c i).regs b = t.regs b := by intro t p c i; cases b <;> rfl
    rw [this]
    exact State.regs_setRegs_ne _ _ _ _ hb

theorem post_my (t : State) (p : Nat) (c : BitVec 8) (i : Nat) : (t.post p c i).my = t.my := by
  simp only [State.my, State.post]; cases t.cur.1 <;> rfl

/-- Registers of a context after its trap: all as they were but its record, its life, its request, its debug step, and whether it stands
at a call. -/
theorem takeTrap_my (s : State) (i : Nat) (hw : s.who = .ctx i) (n : Needle) (e : BitVec 8) (v0 v1 tpc tipc : Word) :
    (s.takeTrap s.who n e v0 v1 tpc tipc).my =
      { s.my with trap := some ⟨e, needleId n, tpc, tipc, v0, v1⟩, skip := s.my.skip || e == 0x19#8 || e == 0x1A#8, life := .held
                  request := none, stepping := false } := by
  have hs : s.takeTrap s.who n e v0 v1 tpc tipc =
      (s.setMy { s.my with trap := some ⟨e, needleId n, tpc, tipc, v0, v1⟩, skip := s.my.skip || e == 0x19#8 || e == 0x1A#8, life := .held
                           request := none, stepping := false }).post s.my.part 1#8 i := by
    have hm : s.my = s.regs (.ctx i) := by rw [← hw]; rfl
    have hx : ∀ c, s.setMy c = s.setRegs (.ctx i) c := by intro c; rw [← hw]; rfl
    rw [hm, hx, hw]; rfl
  rw [hs, post_my, State.my_setMy]

/-- A hub core's registers are as they were after a trap. -/
theorem takeTrap_my_hub (s : State) (h : Nat) (hw : s.who = .hub h) (n : Needle) (e : BitVec 8) (v0 v1 tpc tipc : Word) :
    (s.takeTrap s.who n e v0 v1 tpc tipc).my = s.my := by
  rw [hw]; exact setHub_regs s h _ _ rfl

theorem endStep_my (t : State) (n : Needle) (pc : Word) (h : t.my.stepping = false) : t.endStep n pc = t := by
  unfold State.endStep; simp [h]

/-- Registers after a retirement outside a debug step. -/
theorem retired_my (s t : State) (q : Charge) (h : t.my.stepping = false) : (s.retired q t).my =
    { (t.my.advance s.ndl).addEnergy ((t.part t.my.part).energy q) with instret := t.my.instret + 1#64 } := by
  have hs : ((t.onMy (·.advance s.ndl)).retireCount q).my.stepping = false := by simp [State.retireCount, h]
  unfold State.retired
  rw [endStep_my _ _ _ hs]
  simp [State.retireCount, State.part]

theorem endStep_others (s : State) (n : Needle) (pc : Word) : SameOthers s (s.endStep n pc) := by
  unfold State.endStep; dsimp only; split
  · exact takeTrap_others _ _ _ _ _ _ _
  · exact fun _ _ => rfl

theorem retired_others (s t : State) (q : Charge) : SameOthers t (s.retired q t) := by
  refine SameOthers.trans' (SameOthers.trans' (onMy_others t _) (onMy_others _ _) (by simp)) (endStep_others _ _ _) (by simp)
theorem jumped_others (s t : State) (q : Charge) (targ : Word) : SameOthers t (s.jumped q t targ) := by
  refine SameOthers.trans' (SameOthers.trans' (onMy_others t _) (onMy_others _ _) (by simp)) (endStep_others _ _ _) (by simp)
theorem placed_others (s t : State) (q : Charge) : SameOthers t (s.placed q t) := by
  refine SameOthers.trans' (onMy_others t _) (endStep_others _ _ _) (by simp)

theorem advance_needle (c : Ctx) (n : Needle) : (c.advance n).needle n =
    { c.needle n with pc := (endOfBody (c.needle n).pc (c.needle n).loops).1, loops := (endOfBody (c.needle n).pc (c.needle n).loops).2.1
                      fresh := (endOfBody (c.needle n).pc (c.needle n).loops).2.2, run := .running, atYield := false, part := none, forkWait := 0, drain := 0 } := by
  cases n <;> rfl

theorem setNeedle_needle_ne (c : Ctx) (n m : Needle) (d : NeedleState) (h : m ≠ n) : (c.setNeedle n d).needle m = c.needle m := by
  cases n <;> cases m <;> first | exact absurd rfl h | rfl

theorem addEnergy_needle (c : Ctx) (k : Nat) (n : Needle) : (c.addEnergy k).needle n = c.needle n := by cases n <;> simp [Ctx.needle]

end Sys2Proof.Machine
end

