-- ==== Sys2Proof/Laws/Control.lean ====
section
/-! SUPPORT. Loops and needles: writing a needle twice, and the end-of-body step with a good target. -/

namespace Sys2Proof.Machine
open Sys2Proof

theorem off4 (pc : Word) (off : BitVec 11) : pc + (off.signExtend 64 <<< 2) = pc + BitVec.ofInt 64 (4 * off.toInt) := by
  congr 1
  apply BitVec.eq_of_toInt_eq
  have := off.toInt_lt; have := off.le_toInt
  have e : (off.signExtend 64 <<< 2 : Word) = off.signExtend 64 * 4#64 := by
    rw [BitVec.shiftLeft_eq_mul_twoPow]; rfl
  rw [e, BitVec.toInt_mul, BitVec.toInt_signExtend_of_le (by decide), BitVec.toInt_ofInt]
  congr 1
  show off.toInt * 4 = _
  omega

theorem endStepAt_good (s t : State) (last : Word) (hc : t.cur = s.cur) (h : (endOfBody last (t.my.needle t.ndl).loops).2.2 = true → t.my.goodTarget (endOfBody last (t.my.needle t.ndl).loops).1) :
   t.endStepAt last = (t.sentTo (endOfBody last (t.my.needle t.ndl).loops), .placed) := by
  unfold State.endStepAt
  dsimp only
  by_cases hf : (endOfBody last (t.my.needle t.ndl).loops).2.2 = true
  · simp only [hf, if_true]; rw [targetFault_none _ _ (h hf)]; simp only [State.sentTo, hf]; rfl
  · have hf' : (endOfBody last (t.my.needle t.ndl).loops).2.2 = false := by simpa using hf
    simp only [hf', Bool.false_eq_true, if_false, State.sentTo]; rfl

theorem insert_insert {α} (m : Sparse α) (k : Nat) (a b : α) : Sparse.insert (Sparse.insert m k a) k b = Sparse.insert m k b := by
  induction m with
  | nil => simp [Sparse.insert]
  | cons e m ih =>
    obtain ⟨j, x⟩ := e
    simp only [Sparse.insert]
    by_cases h1 : k < j
    · simp [h1, Sparse.insert]
    · by_cases h2 : k = j
      · simp [h2, Sparse.insert]
      · simp [h1, h2, Sparse.insert, ih]

theorem setRegs_setRegs (s : State) (a : Agent) (c d : Ctx) : (s.setRegs a c).setRegs a d = s.setRegs a d := by
  cases a with
  | ctx i => simp [State.setRegs, insert_insert]
  | hub h => simp [State.setRegs, State.setHub, insert_insert, State.hub]

theorem onMy_onMy (s : State) (f g : Ctx → Ctx) : (s.onMy f).onMy g = s.onMy (fun c => g (f c)) := by
  simp only [State.onMy, State.setMy]
  rw [show (s.setRegs s.cur.1 (f s.my)).cur = s.cur from State.setRegs_cur _ _ _, setRegs_setRegs]
  congr 2
  exact State.my_setMy s _

theorem onMy_setMy (s : State) (f : Ctx → Ctx) (c : Ctx) : (s.onMy f).setMy c = s.setMy c := by
  simp only [State.onMy, State.setMy]
  rw [show (s.setRegs s.cur.1 (f s.my)).cur = s.cur from State.setRegs_cur _ _ _, setRegs_setRegs]
theorem setNeedle_setNeedle (c : Ctx) (n : Needle) (d e : NeedleState) : (c.setNeedle n d).setNeedle n e = c.setNeedle n e := by cases n <;> rfl
theorem needle_setNeedle (c : Ctx) (n : Needle) (d : NeedleState) : (c.setNeedle n d).needle n = d := by cases n <;> rfl

end Sys2Proof.Machine
end

