-- ==== Sys2Proof/Laws/Encoding.lean ====
section
/-! SUPPORT. Reading a slice of bits out of fields laid one after another: the lemmas the round trip of R177 to R190 rests on. -/

namespace Sys2Proof.Laws

theorem slice_low {m n : Nat} (a : BitVec m) (b : BitVec n) (lo len : Nat) (h : lo + len ≤ n) :
    (a ++ b).extractLsb' lo len = b.extractLsb' lo len := by
  apply BitVec.eq_of_getLsbD_eq; intro i hi
  simp only [BitVec.getLsbD_extractLsb', BitVec.getLsbD_append]
  have : lo + i < n := by omega
  simp [hi, this]

theorem slice_high {m n : Nat} (a : BitVec m) (b : BitVec n) (lo len : Nat) (h : n ≤ lo) :
    (a ++ b).extractLsb' lo len = a.extractLsb' (lo - n) len := by
  apply BitVec.eq_of_getLsbD_eq; intro i hi
  simp only [BitVec.getLsbD_extractLsb', BitVec.getLsbD_append]
  have : ¬ lo + i < n := by omega
  have e : lo + i - n = lo - n + i := by omega
  simp [this, e]

theorem lo1 {m : Nat} (a : BitVec m) (b : BitVec 1) (lo len : Nat) (h : lo + len ≤ 1) :
    (a ++ b).extractLsb' lo len = b.extractLsb' lo len := slice_low a b lo len h
theorem hi1 {m : Nat} (a : BitVec m) (b : BitVec 1) (lo len : Nat) (h : 1 ≤ lo) :
    (a ++ b).extractLsb' lo len = a.extractLsb' (lo - 1) len := slice_high a b lo len h
theorem lo2 {m : Nat} (a : BitVec m) (b : BitVec 2) (lo len : Nat) (h : lo + len ≤ 2) :
    (a ++ b).extractLsb' lo len = b.extractLsb' lo len := slice_low a b lo len h
theorem hi2 {m : Nat} (a : BitVec m) (b : BitVec 2) (lo len : Nat) (h : 2 ≤ lo) :
    (a ++ b).extractLsb' lo len = a.extractLsb' (lo - 2) len := slice_high a b lo len h
theorem lo3 {m : Nat} (a : BitVec m) (b : BitVec 3) (lo len : Nat) (h : lo + len ≤ 3) :
    (a ++ b).extractLsb' lo len = b.extractLsb' lo len := slice_low a b lo len h
theorem hi3 {m : Nat} (a : BitVec m) (b : BitVec 3) (lo len : Nat) (h : 3 ≤ lo) :
    (a ++ b).extractLsb' lo len = a.extractLsb' (lo - 3) len := slice_high a b lo len h
theorem lo4 {m : Nat} (a : BitVec m) (b : BitVec 4) (lo len : Nat) (h : lo + len ≤ 4) :
    (a ++ b).extractLsb' lo len = b.extractLsb' lo len := slice_low a b lo len h
theorem hi4 {m : Nat} (a : BitVec m) (b : BitVec 4) (lo len : Nat) (h : 4 ≤ lo) :
    (a ++ b).extractLsb' lo len = a.extractLsb' (lo - 4) len := slice_high a b lo len h
theorem lo5 {m : Nat} (a : BitVec m) (b : BitVec 5) (lo len : Nat) (h : lo + len ≤ 5) :
    (a ++ b).extractLsb' lo len = b.extractLsb' lo len := slice_low a b lo len h
theorem hi5 {m : Nat} (a : BitVec m) (b : BitVec 5) (lo len : Nat) (h : 5 ≤ lo) :
    (a ++ b).extractLsb' lo len = a.extractLsb' (lo - 5) len := slice_high a b lo len h
theorem lo6 {m : Nat} (a : BitVec m) (b : BitVec 6) (lo len : Nat) (h : lo + len ≤ 6) :
    (a ++ b).extractLsb' lo len = b.extractLsb' lo len := slice_low a b lo len h
theorem hi6 {m : Nat} (a : BitVec m) (b : BitVec 6) (lo len : Nat) (h : 6 ≤ lo) :
    (a ++ b).extractLsb' lo len = a.extractLsb' (lo - 6) len := slice_high a b lo len h
theorem lo7 {m : Nat} (a : BitVec m) (b : BitVec 7) (lo len : Nat) (h : lo + len ≤ 7) :
    (a ++ b).extractLsb' lo len = b.extractLsb' lo len := slice_low a b lo len h
theorem hi7 {m : Nat} (a : BitVec m) (b : BitVec 7) (lo len : Nat) (h : 7 ≤ lo) :
    (a ++ b).extractLsb' lo len = a.extractLsb' (lo - 7) len := slice_high a b lo len h
theorem lo8 {m : Nat} (a : BitVec m) (b : BitVec 8) (lo len : Nat) (h : lo + len ≤ 8) :
    (a ++ b).extractLsb' lo len = b.extractLsb' lo len := slice_low a b lo len h
theorem hi8 {m : Nat} (a : BitVec m) (b : BitVec 8) (lo len : Nat) (h : 8 ≤ lo) :
    (a ++ b).extractLsb' lo len = a.extractLsb' (lo - 8) len := slice_high a b lo len h
theorem lo9 {m : Nat} (a : BitVec m) (b : BitVec 9) (lo len : Nat) (h : lo + len ≤ 9) :
    (a ++ b).extractLsb' lo len = b.extractLsb' lo len := slice_low a b lo len h
theorem hi9 {m : Nat} (a : BitVec m) (b : BitVec 9) (lo len : Nat) (h : 9 ≤ lo) :
    (a ++ b).extractLsb' lo len = a.extractLsb' (lo - 9) len := slice_high a b lo len h
theorem lo10 {m : Nat} (a : BitVec m) (b : BitVec 10) (lo len : Nat) (h : lo + len ≤ 10) :
    (a ++ b).extractLsb' lo len = b.extractLsb' lo len := slice_low a b lo len h
theorem hi10 {m : Nat} (a : BitVec m) (b : BitVec 10) (lo len : Nat) (h : 10 ≤ lo) :
    (a ++ b).extractLsb' lo len = a.extractLsb' (lo - 10) len := slice_high a b lo len h
theorem lo11 {m : Nat} (a : BitVec m) (b : BitVec 11) (lo len : Nat) (h : lo + len ≤ 11) :
    (a ++ b).extractLsb' lo len = b.extractLsb' lo len := slice_low a b lo len h
theorem hi11 {m : Nat} (a : BitVec m) (b : BitVec 11) (lo len : Nat) (h : 11 ≤ lo) :
    (a ++ b).extractLsb' lo len = a.extractLsb' (lo - 11) len := slice_high a b lo len h
theorem lo12 {m : Nat} (a : BitVec m) (b : BitVec 12) (lo len : Nat) (h : lo + len ≤ 12) :
    (a ++ b).extractLsb' lo len = b.extractLsb' lo len := slice_low a b lo len h
theorem hi12 {m : Nat} (a : BitVec m) (b : BitVec 12) (lo len : Nat) (h : 12 ≤ lo) :
    (a ++ b).extractLsb' lo len = a.extractLsb' (lo - 12) len := slice_high a b lo len h
theorem lo13 {m : Nat} (a : BitVec m) (b : BitVec 13) (lo len : Nat) (h : lo + len ≤ 13) :
    (a ++ b).extractLsb' lo len = b.extractLsb' lo len := slice_low a b lo len h
theorem hi13 {m : Nat} (a : BitVec m) (b : BitVec 13) (lo len : Nat) (h : 13 ≤ lo) :
    (a ++ b).extractLsb' lo len = a.extractLsb' (lo - 13) len := slice_high a b lo len h
theorem lo14 {m : Nat} (a : BitVec m) (b : BitVec 14) (lo len : Nat) (h : lo + len ≤ 14) :
    (a ++ b).extractLsb' lo len = b.extractLsb' lo len := slice_low a b lo len h
theorem hi14 {m : Nat} (a : BitVec m) (b : BitVec 14) (lo len : Nat) (h : 14 ≤ lo) :
    (a ++ b).extractLsb' lo len = a.extractLsb' (lo - 14) len := slice_high a b lo len h
theorem lo15 {m : Nat} (a : BitVec m) (b : BitVec 15) (lo len : Nat) (h : lo + len ≤ 15) :
    (a ++ b).extractLsb' lo len = b.extractLsb' lo len := slice_low a b lo len h
theorem hi15 {m : Nat} (a : BitVec m) (b : BitVec 15) (lo len : Nat) (h : 15 ≤ lo) :
    (a ++ b).extractLsb' lo len = a.extractLsb' (lo - 15) len := slice_high a b lo len h
theorem lo20 {m : Nat} (a : BitVec m) (b : BitVec 20) (lo len : Nat) (h : lo + len ≤ 20) :
    (a ++ b).extractLsb' lo len = b.extractLsb' lo len := slice_low a b lo len h
theorem hi20 {m : Nat} (a : BitVec m) (b : BitVec 20) (lo len : Nat) (h : 20 ≤ lo) :
    (a ++ b).extractLsb' lo len = a.extractLsb' (lo - 20) len := slice_high a b lo len h
theorem lo21 {m : Nat} (a : BitVec m) (b : BitVec 21) (lo len : Nat) (h : lo + len ≤ 21) :
    (a ++ b).extractLsb' lo len = b.extractLsb' lo len := slice_low a b lo len h
theorem hi21 {m : Nat} (a : BitVec m) (b : BitVec 21) (lo len : Nat) (h : 21 ≤ lo) :
    (a ++ b).extractLsb' lo len = a.extractLsb' (lo - 21) len := slice_high a b lo len h
theorem lo22 {m : Nat} (a : BitVec m) (b : BitVec 22) (lo len : Nat) (h : lo + len ≤ 22) :
    (a ++ b).extractLsb' lo len = b.extractLsb' lo len := slice_low a b lo len h
theorem hi22 {m : Nat} (a : BitVec m) (b : BitVec 22) (lo len : Nat) (h : 22 ≤ lo) :
    (a ++ b).extractLsb' lo len = a.extractLsb' (lo - 22) len := slice_high a b lo len h

theorem slice_all {n : Nat} (a : BitVec n) : a.extractLsb' 0 n = a := by
  apply BitVec.eq_of_getLsbD_eq; intro i hi
  simp [hi]

theorem bit1_one (b : Bool) : (bit1 b == 1#1) = b := by cases b <;> rfl

theorem slice_join (w lo k m : Nat) (a : BitVec w) :
    a.extractLsb' (lo + k) m ++ a.extractLsb' lo k = a.extractLsb' lo (m + k) := by
  apply BitVec.eq_of_getLsbD_eq; intro i hi
  simp only [BitVec.getLsbD_extractLsb', BitVec.getLsbD_append]
  by_cases h : i < k
  · simp [h, hi]
  · have e : lo + k + (i - k) = lo + i := by omega
    have f : i - k < m := by omega
    simp [h, e, f, hi]

/-- The two pieces of a six-bit register number (R180). -/
theorem join_reg (a : BitVec 6) : a.extractLsb' 5 1 ++ a.extractLsb' 0 5 = a :=
  (slice_join 6 0 5 1 a).trans (slice_all a)

/-- The pieces of a store's offset (R178). -/
theorem join_store (a : BitVec 12) : a.extractLsb' 5 7 ++ a.extractLsb' 0 5 = a :=
  (slice_join 12 0 5 7 a).trans (slice_all a)

/-- The pieces of a branch's offset (R178). -/
theorem join_branch (a : BitVec 12) :
    a.extractLsb' 11 1 ++ a.extractLsb' 10 1 ++ a.extractLsb' 4 6 ++ a.extractLsb' 0 4 = a := by
  apply BitVec.eq_of_getLsbD_eq; intro i hi
  simp only [BitVec.getLsbD_extractLsb', BitVec.getLsbD_append]
  by_cases h1 : i < 4
  · simp [h1]
  · by_cases h2 : i < 10
    · have e : 4 + (i - 4) = i := by omega
      have f : i - 4 < 6 := by omega
      simp [h1, e, f]
    · by_cases h3 : i = 10
      · subst h3; simp
      · have : i = 11 := by omega
        subst this; simp

/-- The pieces of a jump's offset (R178). -/
theorem join_jump (a : BitVec 20) :
    a.extractLsb' 19 1 ++ a.extractLsb' 11 8 ++ a.extractLsb' 10 1 ++ a.extractLsb' 0 10 = a := by
  apply BitVec.eq_of_getLsbD_eq; intro i hi
  simp only [BitVec.getLsbD_extractLsb', BitVec.getLsbD_append]
  by_cases h1 : i < 10
  · simp [h1]
  · by_cases h2 : i = 10
    · subst h2; simp
    · by_cases h3 : i < 19
      · have e : 11 + (i - 10 - 1) = i := by omega
        have f : i - 10 - 1 < 8 := by omega
        have g : ¬ i - 10 < 1 := by omega
        simp [h1, e, f, g]
      · have : i = 19 := by omega
        subst this; simp

end Sys2Proof.Laws
end

