-- ==== Sys2Proof/Laws/ScalarFp.lean ====
section
/-! SUPPORT. The shared operations of RV64D, one lemma each for an instruction that issues. -/

namespace Sys2Proof.Machine
open Sys2Proof

theorem mode_some (s : State) (rm : BitVec 3) (m : Rm) (h : (if rm = 7#3 then rmOf s.my.frm else rmOf rm) = some m) : s.my.modeOf rm = some m := by
  unfold Ctx.modeOf; rw [← h]; by_cases e : rm = 7#3 <;> simp [e]

theorem withMode_some (s : State) (rm : BitVec 3) (m : Rm) (body : Rm → State → State × Act) (h : s.my.modeOf rm = some m) : withMode rm body s = body m s := by
  unfold withMode; rw [h]

theorem fpTwo_next (s : State) (fd fs1 fs2 : FReg) (rm : BitVec 3) (m : Rm) (op : Rm → Nat → Nat → Rounded) (h : s.Issues .sOnly [.f fs1 false, .f fs2 false])
    (hm : s.my.modeOf rm = some m) : fpTwo fd fs1 fs2 rm op s = .next (s.givesF [(1, 1)] fd (op m (s.my.getF fs1).toNat (s.my.getF fs2).toNat)) :=
  launch_done s .sOnly _ _ _ _ h (withMode_some s rm m _ hm)

theorem fpOne_next (s : State) (fd fs1 : FReg) (rm : BitVec 3) (m : Rm) (op : Rm → Nat → Rounded) (h : s.Issues .sOnly [.f fs1 false])
    (hm : s.my.modeOf rm = some m) : fpOne fd fs1 rm op s = .next (s.givesF [(1, 1)] fd (op m (s.my.getF fs1).toNat)) :=
  launch_done s .sOnly _ _ _ _ h (withMode_some s rm m _ hm)

theorem fpFused_next (s : State) (fd fs1 fs2 fs3 : FReg) (rm : BitVec 3) (m : Rm) (p c : Bool) (h : s.Issues .sOnly [.f fs1 false, .f fs2 false, .f fs3 false])
    (hm : s.my.modeOf rm = some m) : fpFused fd fs1 fs2 fs3 rm p c s = .next (s.givesF [(1, 1)] fd (fp64.deliver m .ieee (fmaExact m
      (if p then (fp64.value (s.my.getF fs1).toNat).negate else fp64.value (s.my.getF fs1).toNat) (fp64.value (s.my.getF fs2).toNat)
      (if c then (fp64.value (s.my.getF fs3).toNat).negate else fp64.value (s.my.getF fs3).toNat)))) :=
  launch_done s .sOnly _ _ _ _ h (withMode_some s rm m _ hm)

theorem fpPick_next (s : State) (fd fs1 fs2 : FReg) (l : Bool) (h : s.Issues .sOnly [.f fs1 false, .f fs2 false]) :
    fpPick fd fs1 fs2 l s = .next (s.givesF [(1, 1)] fd (fp64.pick l (s.my.getF fs1).toNat (s.my.getF fs2).toNat)) :=
  launch_done s .sOnly _ _ _ _ h rfl

theorem fpSign_next (s : State) (fd fs1 fs2 : FReg) (g : Bool → Bool → Bool) (h : s.Issues .sOnly [.f fs1 false, .f fs2 false]) :
    fpSign fd fs1 fs2 g s = .next (s.retired [(1, 1)] (s.onMy (·.setF fd (BitVec.ofBool (g (s.my.getF fs1).msb (s.my.getF fs2).msb) ++ (s.my.getF fs1).extractLsb' 0 63)))) := by
  have e : ∀ b : Bool, (if b then 1#1 else 0#1) = BitVec.ofBool b := by intro b; cases b <;> rfl
  rw [← e]
  exact launch_done s .sOnly _ _ _ _ h rfl

theorem fpCompare_next (s : State) (rd : XReg) (fs1 fs2 : FReg) (sg : Bool) (cmp : Val → Val → Bool) (h : s.Issues .sOnly [.f fs1 false, .f fs2 false]) :
    fpCompare rd fs1 fs2 sg cmp s = .next (
    let a := fp64.value (s.my.getF fs1).toNat
    let b := fp64.value (s.my.getF fs2).toNat
    if (a.isNan || b.isNan) = true then s.givesXF [(1, 1)] rd 0#64 (if sg then nv else a.snan ||| b.snan)
    else s.givesXF [(1, 1)] rd (boolWord (cmp a b)) 0#5) := by
  dsimp only
  split
  · next e => refine launch_done s .sOnly _ _ _ _ h ?_; simp only [e, if_true]; rfl
  · next e => refine launch_done s .sOnly _ _ _ _ h ?_; simp only [e]; rfl

theorem fpToInt_next (s : State) (rd : XReg) (fs1 : FReg) (rm : BitVec 3) (m : Rm) (lo hi : Int) (w : Int → Word) (h : s.Issues .sOnly [.f fs1 false])
    (hm : s.my.modeOf rm = some m) : fpToInt rd fs1 rm lo hi w s = .next (s.givesXF [(1, 1)] rd (w (toIntSat m lo hi hi (fp64.value (s.my.getF fs1).toNat)).1)
      (toIntSat m lo hi hi (fp64.value (s.my.getF fs1).toNat)).2) :=
  launch_done s .sOnly _ _ _ _ h (withMode_some s rm m _ hm)

theorem fpOfInt_next (s : State) (fd : FReg) (rs1 : XReg) (rm : BitVec 3) (m : Rm) (rd : Word → Int) (h : s.Issues .sOnly [.x rs1 false])
    (hm : s.my.modeOf rm = some m) : fpOfInt fd rs1 rm rd s = .next (s.givesF [(1, 1)] fd (fp64.round m .ieee (Val.ofInt (rd (s.my.getX rs1))))) :=
  launch_done s .sOnly _ _ _ _ h (withMode_some s rm m _ hm)

end Sys2Proof.Machine
end

