-- ==== Sys2Proof/Laws/Frame.lean ====
section
/-! SUPPORT. What every way of ending an instruction leaves as its body left it. -/

namespace Sys2Proof.Machine
open Sys2Proof

/-- Registers but for the pc, counters and the trap record; memory; cores and device; other agents. -/
structure Kept (s t : State) : Prop where
  cur : t.cur = s.cur
  x : t.my.x = s.my.x
  xFull : t.my.xFull = s.my.xFull
  f : t.my.f = s.my.f
  fFull : t.my.fFull = s.my.fFull
  fflags : t.my.fflags = s.my.fflags
  special : SameSpecial s.my t.my
  memory : SameMemory s t
  device : SameDevice s t
  others : SameOthers s t

theorem SameSpecial.refl (c : Ctx) : SameSpecial c c := by constructor <;> simp
theorem Kept.refl (s : State) : Kept s s :=
  ⟨rfl, rfl, rfl, rfl, rfl, rfl, SameSpecial.refl _, fun _ _ => rfl, SameDevice.refl s, fun _ _ => rfl⟩

theorem SameSpecial.trans {a b c : Ctx} (h : SameSpecial a b) (k : SameSpecial b c) : SameSpecial a c := by
  obtain ⟨a1, a2, a3, a4, a5, a6, a7, a8, a9, a10, a11, a12, a13, a14, a15, a16, a17, a18⟩ := h
  obtain ⟨b1, b2, b3, b4, b5, b6, b7, b8, b9, b10, b11, b12, b13, b14, b15, b16, b17, b18⟩ := k
  constructor <;> simp [*]

theorem Kept.trans {s t u : State} (h : Kept s t) (k : Kept t u) : Kept s u :=
  ⟨k.cur.trans h.cur, k.x.trans h.x, k.xFull.trans h.xFull, k.f.trans h.f, k.fFull.trans h.fFull, k.fflags.trans h.fflags,
    h.special.trans k.special, fun key a => (k.memory key a).trans (h.memory key a), h.device.trans k.device, h.others.trans' k.others h.cur⟩

/-- A change of registers that keeps what `Kept` names. -/
theorem kept_onMy (s : State) (g : Ctx → Ctx) (h1 : (g s.my).x = s.my.x) (h2 : (g s.my).xFull = s.my.xFull) (h3 : (g s.my).f = s.my.f)
    (h4 : (g s.my).fFull = s.my.fFull) (h5 : (g s.my).fflags = s.my.fflags) (h6 : SameSpecial s.my (g s.my)) : Kept s (s.onMy g) := by
  refine ⟨by simp, ?_, ?_, ?_, ?_, ?_, ?_, (onMy_bytes s g).same, onMy_device s g, onMy_others s g⟩ <;> rw [State.my_onMy] <;> assumption

theorem kept_setNeedle (s : State) (g : Ctx → NeedleState) (n : Needle) : Kept s (s.onMy (fun c => c.setNeedle n (g c))) := by
  apply kept_onMy <;> cases n <;> first | rfl | exact SameSpecial.refl _ | (constructor <;> simp [Ctx.setNeedle])

theorem kept_takeTrap (s : State) (n : Needle) (e : BitVec 8) (v0 v1 tpc tipc : Word) : Kept s (s.takeTrap s.who n e v0 v1 tpc tipc) := by
  have hm : (s.takeTrap s.who n e v0 v1 tpc tipc).my = s.my ∨
      (s.takeTrap s.who n e v0 v1 tpc tipc).my =
        { s.my with trap := some ⟨e, needleId n, tpc, tipc, v0, v1⟩, skip := s.my.skip || e == 0x19#8 || e == 0x1A#8, life := .held
                    request := none, stepping := false } := by
    cases hw : s.who with
    | ctx i => right; have := takeTrap_my s i hw n e v0 v1 tpc tipc; rwa [hw] at this
    | hub h => left; have := takeTrap_my_hub s h hw n e v0 v1 tpc tipc; rwa [hw] at this
  refine ⟨by simp, ?_, ?_, ?_, ?_, ?_, ?_, (takeTrap_bytes ..).same, takeTrap_device .., takeTrap_others _ _ _ _ _ _ _⟩
  all_goals rcases hm with hm | hm <;> rw [hm]
  · exact SameSpecial.refl _
  · constructor <;> simp

theorem kept_endStep (s : State) (n : Needle) (pc : Word) : Kept s (s.endStep n pc) := by
  unfold State.endStep; dsimp only; split
  · exact kept_takeTrap ..
  · exact Kept.refl s

theorem kept_retireCount (s : State) (q : Charge) : Kept s (s.retireCount q) := by
  apply kept_onMy <;> first | (simp; done) | (constructor <;> simp)

theorem kept_retired (s t : State) (q : Charge) : Kept t (s.retired q t) :=
  ((kept_onMy t _ (by simp) (by simp) (by simp) (by simp) (by simp) (by constructor <;> simp)).trans (kept_retireCount ..)).trans (kept_endStep ..)
theorem kept_jumped (s t : State) (q : Charge) (targ : Word) : Kept t (s.jumped q t targ) :=
  ((kept_onMy t _ (by simp) (by simp) (by simp) (by simp) (by simp) (by constructor <;> simp)).trans (kept_retireCount ..)).trans (kept_endStep ..)
theorem kept_placed (s t : State) (q : Charge) : Kept t (s.placed q t) := (kept_retireCount ..).trans (kept_endStep ..)

/-- However an instruction ends, the state is what its body or its start left, but for what `Kept` leaves out. -/
theorem finish_kept (s t : State) (q : Charge) (r : State × Act) (hc : r.1.cur = s.cur) (h : finish s q r = .next t) : Kept s t ∨ Kept r.1 t := by
  have hw : s.who = r.1.who := by simp [State.who, hc]
  obtain ⟨u, a⟩ := r
  dsimp only at hc hw
  have trap : ∀ n e v0 v1 p1 p2, Kept u (u.takeTrap s.who n e v0 v1 p1 p2) := by intro n e v0 v1 p1 p2; rw [hw]; exact kept_takeTrap ..
  cases a <;> simp only [finish] at h
  · split at h <;> injection h with h <;> subst h
    · left; exact kept_takeTrap ..
    · right; exact kept_retired s u q
  · injection h with h; subst h; right; exact kept_jumped s u q _
  · injection h with h; subst h; right; exact trap ..
  · injection h with h; subst h; right; exact trap ..
  · injection h with h; subst h; right; exact kept_setNeedle ..
  · injection h with h; subst h; right; exact kept_setNeedle ..
  · injection h with h; subst h; left; exact Kept.refl _
  · injection h with h; subst h; right; exact kept_placed s u q
  · injection h with h; subst h; right; exact Kept.refl _
  · cases h

theorem launch_kept (s t : State) (k : Class) (q : Charge) (body : State → State × Act) (hc : (body s).1.cur = s.cur) (h : launch k q body s = .next t) :
    Kept s t ∨ Kept (body s).1 t := by
  unfold launch at h
  split at h
  · exact .inl ((finish_kept s t q _ rfl h).elim id id)
  · split at h
    · exact .inl ((finish_kept s t q _ rfl h).elim id id)
    · split at h
      · exact .inl ((finish_kept s t q _ rfl h).elim id id)
      · exact finish_kept s t q _ hc h

theorem kept_observed (s : State) (srcs : List Src) : Kept s (s.observed srcs) := by
  unfold State.observed
  split
  · apply kept_onMy <;> first | rfl | (constructor <;> simp [Ctx.observe])
  · exact Kept.refl s

theorem reading_kept (s : State) (srcs : List Src) (body : State → State × Act) (hq : s.my.undelivered srcs) :
    (reading srcs body s).1 = s ∨ reading srcs body s = body (s.observed srcs) := by
  unfold reading
  split
  · left; rfl
  · have key := undelivered_none s.my srcs hq
    dsimp only
    rw [observed_pend]
    split
    · next p hp => exact absurd (hp.symm.trans key) (by simp)
    · right; rfl

/-- An instruction that reads its sources, none of which delivers a fault. -/
theorem launch_reading_kept (s t : State) (k : Class) (q : Charge) (srcs : List Src) (body : State → State × Act) (hq : s.my.undelivered srcs)
    (hc : (body (s.observed srcs)).1.cur = (s.observed srcs).cur) (h : launch k q (reading srcs body) s = .next t) :
    Kept s t ∨ Kept (body (s.observed srcs)).1 t := by
  rcases reading_kept s srcs body hq with e | e
  · rcases launch_kept s t k q _ (by rw [e]) h with r | r
    · exact .inl r
    · rw [e] at r; exact .inl r
  · rcases launch_kept s t k q _ (by rw [e]; exact hc.trans (kept_observed s srcs).cur) h with r | r
    · exact .inl r
    · rw [e] at r; exact .inr r

end Sys2Proof.Machine
end

