-- ==== Sys2Proof/Laws/PerInstr.lean ====
section
/-! SUPPORT. The round trip of the encoder and the decoder, one lemma per constructor (R177 to R190). -/

namespace Sys2Proof.Laws.RoundTrip
set_option linter.unusedSimpArgs false

/-- The word of a well-formed instruction decodes to that instruction, with every operand. -/
def Statement (i : Instr) : Prop := i.hasWord = true → i.wellFormed = true → decode (encode i) = .ok i

theorem of_parse (i : Instr) (h : parseWord (encode i) = .ok i) : Statement i := by
  intro _ hf
  simp only [decode, h, hf, if_true]

theorem lui (rd : XReg) (imm : BitVec 20) : Statement (.lui rd imm) := of_parse _ (by
  rw [show encode (.lui rd imm) = imm ++ rd ++ 55#7 from rfl]
  generalize hw : (imm ++ rd ++ 55#7 : BitVec 32) = wd
  obtain ⟨h0, h1, h2⟩ : bits wd 6 0 = 55#7 ∧ bits wd 11 7 = rd ∧ bits wd 31 12 = imm := by
    subst hw
    simp (disch := decide) only [bits, lo5, hi5, lo7, hi7, lo20, hi20, slice_all, bit1_one, Nat.reduceSub, Nat.reduceAdd, BitVec.reduceExtractLsb', and_self]
  clear hw
  simp only [parseWord, decodeLui, h0, h1, h2, BitVec.reduceToNat, BitVec.toNat_ofNat, Nat.reducePow, Nat.reduceMod, BEq.rfl, show (0#1 == 1#1) = false from rfl, Bool.false_eq_true, if_false, Bool.and_self, if_true])

theorem auipc (rd : XReg) (imm : BitVec 20) : Statement (.auipc rd imm) := of_parse _ (by
  rw [show encode (.auipc rd imm) = imm ++ rd ++ 23#7 from rfl]
  generalize hw : (imm ++ rd ++ 23#7 : BitVec 32) = wd
  obtain ⟨h0, h1, h2⟩ : bits wd 6 0 = 23#7 ∧ bits wd 11 7 = rd ∧ bits wd 31 12 = imm := by
    subst hw
    simp (disch := decide) only [bits, lo5, hi5, lo7, hi7, lo20, hi20, slice_all, bit1_one, Nat.reduceSub, Nat.reduceAdd, BitVec.reduceExtractLsb', and_self]
  clear hw
  simp only [parseWord, decodeAuipc, h0, h1, h2, BitVec.reduceToNat, BitVec.toNat_ofNat, Nat.reducePow, Nat.reduceMod, BEq.rfl, show (0#1 == 1#1) = false from rfl, Bool.false_eq_true, if_false, Bool.and_self, if_true])

theorem jal (rd : XReg) (off : BitVec 20) : Statement (.jal rd off) := of_parse _ (by
  rw [show encode (.jal rd off) = (off.extractLsb' 19 1) ++ (off.extractLsb' 0 10) ++ (off.extractLsb' 10 1) ++ (off.extractLsb' 11 8) ++ rd ++ 111#7 from rfl]
  generalize hw : ((off.extractLsb' 19 1) ++ (off.extractLsb' 0 10) ++ (off.extractLsb' 10 1) ++ (off.extractLsb' 11 8) ++ rd ++ 111#7 : BitVec 32) = wd
  obtain ⟨h0, h1, h2, h3, h4, h5⟩ : bits wd 6 0 = 111#7 ∧ bits wd 11 7 = rd ∧ bits wd 31 31 = off.extractLsb' 19 1 ∧ bits wd 19 12 = off.extractLsb' 11 8 ∧ bits wd 20 20 = off.extractLsb' 10 1 ∧ bits wd 30 21 = off.extractLsb' 0 10 := by
    subst hw
    simp (disch := decide) only [bits, lo1, hi1, lo5, hi5, lo7, hi7, lo8, hi8, lo10, hi10, slice_all, bit1_one, Nat.reduceSub, Nat.reduceAdd, BitVec.reduceExtractLsb', and_self]
  have j0 : (bits wd 31 31 ++ bits wd 19 12 ++ bits wd 20 20 ++ bits wd 30 21 : BitVec 20) = off := by rw [h2, h3, h4, h5]; exact join_jump off
  clear hw
  simp only [parseWord, decodeJal, h0, h1, j0, BitVec.reduceToNat, BitVec.toNat_ofNat, Nat.reducePow, Nat.reduceMod, BEq.rfl, show (0#1 == 1#1) = false from rfl, Bool.false_eq_true, if_false, Bool.and_self, if_true])

theorem jalr (rd : XReg) (rs1 : XReg) (imm : BitVec 12) : Statement (.jalr rd rs1 imm) := of_parse _ (by
  rw [show encode (.jalr rd rs1 imm) = imm ++ rs1 ++ 0#3 ++ rd ++ 103#7 from rfl]
  generalize hw : (imm ++ rs1 ++ 0#3 ++ rd ++ 103#7 : BitVec 32) = wd
  obtain ⟨h0, h1, h2, h3, h4⟩ : bits wd 6 0 = 103#7 ∧ bits wd 14 12 = 0#3 ∧ bits wd 11 7 = rd ∧ bits wd 19 15 = rs1 ∧ bits wd 31 20 = imm := by
    subst hw
    simp (disch := decide) only [bits, lo3, hi3, lo5, hi5, lo7, hi7, lo12, hi12, slice_all, bit1_one, Nat.reduceSub, Nat.reduceAdd, BitVec.reduceExtractLsb', and_self]
  clear hw
  simp only [parseWord, decodeJalr, h0, h1, h2, h3, h4, BitVec.reduceToNat, BitVec.toNat_ofNat, Nat.reducePow, Nat.reduceMod, BEq.rfl, show (0#1 == 1#1) = false from rfl, Bool.false_eq_true, if_false, Bool.and_self, if_true])

theorem beq (rs1 : XReg) (rs2 : XReg) (off : BitVec 12) : Statement (.beq rs1 rs2 off) := of_parse _ (by
  rw [show encode (.beq rs1 rs2 off) = (off.extractLsb' 11 1) ++ (off.extractLsb' 4 6) ++ rs2 ++ rs1 ++ 0#3 ++ (off.extractLsb' 0 4) ++ (off.extractLsb' 10 1) ++ 99#7 from rfl]
  generalize hw : ((off.extractLsb' 11 1) ++ (off.extractLsb' 4 6) ++ rs2 ++ rs1 ++ 0#3 ++ (off.extractLsb' 0 4) ++ (off.extractLsb' 10 1) ++ 99#7 : BitVec 32) = wd
  obtain ⟨h0, h1, h2, h3, h4, h5, h6, h7⟩ : bits wd 6 0 = 99#7 ∧ bits wd 14 12 = 0#3 ∧ bits wd 19 15 = rs1 ∧ bits wd 24 20 = rs2 ∧ bits wd 31 31 = off.extractLsb' 11 1 ∧ bits wd 7 7 = off.extractLsb' 10 1 ∧ bits wd 30 25 = off.extractLsb' 4 6 ∧ bits wd 11 8 = off.extractLsb' 0 4 := by
    subst hw
    simp (disch := decide) only [bits, lo1, hi1, lo3, hi3, lo4, hi4, lo5, hi5, lo6, hi6, lo7, hi7, slice_all, bit1_one, Nat.reduceSub, Nat.reduceAdd, BitVec.reduceExtractLsb', and_self]
  have j0 : (bits wd 31 31 ++ bits wd 7 7 ++ bits wd 30 25 ++ bits wd 11 8 : BitVec 12) = off := by rw [h4, h5, h6, h7]; exact join_branch off
  clear hw
  simp only [parseWord, decodeBranch, h0, h1, h2, h3, j0, BitVec.reduceToNat, BitVec.toNat_ofNat, Nat.reducePow, Nat.reduceMod, BEq.rfl, show (0#1 == 1#1) = false from rfl, Bool.false_eq_true, if_false, Bool.and_self, if_true])

theorem bne (rs1 : XReg) (rs2 : XReg) (off : BitVec 12) : Statement (.bne rs1 rs2 off) := of_parse _ (by
  rw [show encode (.bne rs1 rs2 off) = (off.extractLsb' 11 1) ++ (off.extractLsb' 4 6) ++ rs2 ++ rs1 ++ 1#3 ++ (off.extractLsb' 0 4) ++ (off.extractLsb' 10 1) ++ 99#7 from rfl]
  generalize hw : ((off.extractLsb' 11 1) ++ (off.extractLsb' 4 6) ++ rs2 ++ rs1 ++ 1#3 ++ (off.extractLsb' 0 4) ++ (off.extractLsb' 10 1) ++ 99#7 : BitVec 32) = wd
  obtain ⟨h0, h1, h2, h3, h4, h5, h6, h7⟩ : bits wd 6 0 = 99#7 ∧ bits wd 14 12 = 1#3 ∧ bits wd 19 15 = rs1 ∧ bits wd 24 20 = rs2 ∧ bits wd 31 31 = off.extractLsb' 11 1 ∧ bits wd 7 7 = off.extractLsb' 10 1 ∧ bits wd 30 25 = off.extractLsb' 4 6 ∧ bits wd 11 8 = off.extractLsb' 0 4 := by
    subst hw
    simp (disch := decide) only [bits, lo1, hi1, lo3, hi3, lo4, hi4, lo5, hi5, lo6, hi6, lo7, hi7, slice_all, bit1_one, Nat.reduceSub, Nat.reduceAdd, BitVec.reduceExtractLsb', and_self]
  have j0 : (bits wd 31 31 ++ bits wd 7 7 ++ bits wd 30 25 ++ bits wd 11 8 : BitVec 12) = off := by rw [h4, h5, h6, h7]; exact join_branch off
  clear hw
  simp only [parseWord, decodeBranch, h0, h1, h2, h3, j0, BitVec.reduceToNat, BitVec.toNat_ofNat, Nat.reducePow, Nat.reduceMod, BEq.rfl, show (0#1 == 1#1) = false from rfl, Bool.false_eq_true, if_false, Bool.and_self, if_true])

theorem blt (rs1 : XReg) (rs2 : XReg) (off : BitVec 12) : Statement (.blt rs1 rs2 off) := of_parse _ (by
  rw [show encode (.blt rs1 rs2 off) = (off.extractLsb' 11 1) ++ (off.extractLsb' 4 6) ++ rs2 ++ rs1 ++ 4#3 ++ (off.extractLsb' 0 4) ++ (off.extractLsb' 10 1) ++ 99#7 from rfl]
  generalize hw : ((off.extractLsb' 11 1) ++ (off.extractLsb' 4 6) ++ rs2 ++ rs1 ++ 4#3 ++ (off.extractLsb' 0 4) ++ (off.extractLsb' 10 1) ++ 99#7 : BitVec 32) = wd
  obtain ⟨h0, h1, h2, h3, h4, h5, h6, h7⟩ : bits wd 6 0 = 99#7 ∧ bits wd 14 12 = 4#3 ∧ bits wd 19 15 = rs1 ∧ bits wd 24 20 = rs2 ∧ bits wd 31 31 = off.extractLsb' 11 1 ∧ bits wd 7 7 = off.extractLsb' 10 1 ∧ bits wd 30 25 = off.extractLsb' 4 6 ∧ bits wd 11 8 = off.extractLsb' 0 4 := by
    subst hw
    simp (disch := decide) only [bits, lo1, hi1, lo3, hi3, lo4, hi4, lo5, hi5, lo6, hi6, lo7, hi7, slice_all, bit1_one, Nat.reduceSub, Nat.reduceAdd, BitVec.reduceExtractLsb', and_self]
  have j0 : (bits wd 31 31 ++ bits wd 7 7 ++ bits wd 30 25 ++ bits wd 11 8 : BitVec 12) = off := by rw [h4, h5, h6, h7]; exact join_branch off
  clear hw
  simp only [parseWord, decodeBranch, h0, h1, h2, h3, j0, BitVec.reduceToNat, BitVec.toNat_ofNat, Nat.reducePow, Nat.reduceMod, BEq.rfl, show (0#1 == 1#1) = false from rfl, Bool.false_eq_true, if_false, Bool.and_self, if_true])

theorem bge (rs1 : XReg) (rs2 : XReg) (off : BitVec 12) : Statement (.bge rs1 rs2 off) := of_parse _ (by
  rw [show encode (.bge rs1 rs2 off) = (off.extractLsb' 11 1) ++ (off.extractLsb' 4 6) ++ rs2 ++ rs1 ++ 5#3 ++ (off.extractLsb' 0 4) ++ (off.extractLsb' 10 1) ++ 99#7 from rfl]
  generalize hw : ((off.extractLsb' 11 1) ++ (off.extractLsb' 4 6) ++ rs2 ++ rs1 ++ 5#3 ++ (off.extractLsb' 0 4) ++ (off.extractLsb' 10 1) ++ 99#7 : BitVec 32) = wd
  obtain ⟨h0, h1, h2, h3, h4, h5, h6, h7⟩ : bits wd 6 0 = 99#7 ∧ bits wd 14 12 = 5#3 ∧ bits wd 19 15 = rs1 ∧ bits wd 24 20 = rs2 ∧ bits wd 31 31 = off.extractLsb' 11 1 ∧ bits wd 7 7 = off.extractLsb' 10 1 ∧ bits wd 30 25 = off.extractLsb' 4 6 ∧ bits wd 11 8 = off.extractLsb' 0 4 := by
    subst hw
    simp (disch := decide) only [bits, lo1, hi1, lo3, hi3, lo4, hi4, lo5, hi5, lo6, hi6, lo7, hi7, slice_all, bit1_one, Nat.reduceSub, Nat.reduceAdd, BitVec.reduceExtractLsb', and_self]
  have j0 : (bits wd 31 31 ++ bits wd 7 7 ++ bits wd 30 25 ++ bits wd 11 8 : BitVec 12) = off := by rw [h4, h5, h6, h7]; exact join_branch off
  clear hw
  simp only [parseWord, decodeBranch, h0, h1, h2, h3, j0, BitVec.reduceToNat, BitVec.toNat_ofNat, Nat.reducePow, Nat.reduceMod, BEq.rfl, show (0#1 == 1#1) = false from rfl, Bool.false_eq_true, if_false, Bool.and_self, if_true])

theorem bltu (rs1 : XReg) (rs2 : XReg) (off : BitVec 12) : Statement (.bltu rs1 rs2 off) := of_parse _ (by
  rw [show encode (.bltu rs1 rs2 off) = (off.extractLsb' 11 1) ++ (off.extractLsb' 4 6) ++ rs2 ++ rs1 ++ 6#3 ++ (off.extractLsb' 0 4) ++ (off.extractLsb' 10 1) ++ 99#7 from rfl]
  generalize hw : ((off.extractLsb' 11 1) ++ (off.extractLsb' 4 6) ++ rs2 ++ rs1 ++ 6#3 ++ (off.extractLsb' 0 4) ++ (off.extractLsb' 10 1) ++ 99#7 : BitVec 32) = wd
  obtain ⟨h0, h1, h2, h3, h4, h5, h6, h7⟩ : bits wd 6 0 = 99#7 ∧ bits wd 14 12 = 6#3 ∧ bits wd 19 15 = rs1 ∧ bits wd 24 20 = rs2 ∧ bits wd 31 31 = off.extractLsb' 11 1 ∧ bits wd 7 7 = off.extractLsb' 10 1 ∧ bits wd 30 25 = off.extractLsb' 4 6 ∧ bits wd 11 8 = off.extractLsb' 0 4 := by
    subst hw
    simp (disch := decide) only [bits, lo1, hi1, lo3, hi3, lo4, hi4, lo5, hi5, lo6, hi6, lo7, hi7, slice_all, bit1_one, Nat.reduceSub, Nat.reduceAdd, BitVec.reduceExtractLsb', and_self]
  have j0 : (bits wd 31 31 ++ bits wd 7 7 ++ bits wd 30 25 ++ bits wd 11 8 : BitVec 12) = off := by rw [h4, h5, h6, h7]; exact join_branch off
  clear hw
  simp only [parseWord, decodeBranch, h0, h1, h2, h3, j0, BitVec.reduceToNat, BitVec.toNat_ofNat, Nat.reducePow, Nat.reduceMod, BEq.rfl, show (0#1 == 1#1) = false from rfl, Bool.false_eq_true, if_false, Bool.and_self, if_true])

theorem bgeu (rs1 : XReg) (rs2 : XReg) (off : BitVec 12) : Statement (.bgeu rs1 rs2 off) := of_parse _ (by
  rw [show encode (.bgeu rs1 rs2 off) = (off.extractLsb' 11 1) ++ (off.extractLsb' 4 6) ++ rs2 ++ rs1 ++ 7#3 ++ (off.extractLsb' 0 4) ++ (off.extractLsb' 10 1) ++ 99#7 from rfl]
  generalize hw : ((off.extractLsb' 11 1) ++ (off.extractLsb' 4 6) ++ rs2 ++ rs1 ++ 7#3 ++ (off.extractLsb' 0 4) ++ (off.extractLsb' 10 1) ++ 99#7 : BitVec 32) = wd
  obtain ⟨h0, h1, h2, h3, h4, h5, h6, h7⟩ : bits wd 6 0 = 99#7 ∧ bits wd 14 12 = 7#3 ∧ bits wd 19 15 = rs1 ∧ bits wd 24 20 = rs2 ∧ bits wd 31 31 = off.extractLsb' 11 1 ∧ bits wd 7 7 = off.extractLsb' 10 1 ∧ bits wd 30 25 = off.extractLsb' 4 6 ∧ bits wd 11 8 = off.extractLsb' 0 4 := by
    subst hw
    simp (disch := decide) only [bits, lo1, hi1, lo3, hi3, lo4, hi4, lo5, hi5, lo6, hi6, lo7, hi7, slice_all, bit1_one, Nat.reduceSub, Nat.reduceAdd, BitVec.reduceExtractLsb', and_self]
  have j0 : (bits wd 31 31 ++ bits wd 7 7 ++ bits wd 30 25 ++ bits wd 11 8 : BitVec 12) = off := by rw [h4, h5, h6, h7]; exact join_branch off
  clear hw
  simp only [parseWord, decodeBranch, h0, h1, h2, h3, j0, BitVec.reduceToNat, BitVec.toNat_ofNat, Nat.reducePow, Nat.reduceMod, BEq.rfl, show (0#1 == 1#1) = false from rfl, Bool.false_eq_true, if_false, Bool.and_self, if_true])

theorem lb (rd : XReg) (rs1 : XReg) (imm : BitVec 12) : Statement (.lb rd rs1 imm) := of_parse _ (by
  rw [show encode (.lb rd rs1 imm) = imm ++ rs1 ++ 0#3 ++ rd ++ 3#7 from rfl]
  generalize hw : (imm ++ rs1 ++ 0#3 ++ rd ++ 3#7 : BitVec 32) = wd
  obtain ⟨h0, h1, h2, h3, h4⟩ : bits wd 6 0 = 3#7 ∧ bits wd 14 12 = 0#3 ∧ bits wd 11 7 = rd ∧ bits wd 19 15 = rs1 ∧ bits wd 31 20 = imm := by
    subst hw
    simp (disch := decide) only [bits, lo3, hi3, lo5, hi5, lo7, hi7, lo12, hi12, slice_all, bit1_one, Nat.reduceSub, Nat.reduceAdd, BitVec.reduceExtractLsb', and_self]
  clear hw
  simp only [parseWord, decodeLoad, h0, h1, h2, h3, h4, BitVec.reduceToNat, BitVec.toNat_ofNat, Nat.reducePow, Nat.reduceMod, BEq.rfl, show (0#1 == 1#1) = false from rfl, Bool.false_eq_true, if_false, Bool.and_self, if_true])

theorem lh (rd : XReg) (rs1 : XReg) (imm : BitVec 12) : Statement (.lh rd rs1 imm) := of_parse _ (by
  rw [show encode (.lh rd rs1 imm) = imm ++ rs1 ++ 1#3 ++ rd ++ 3#7 from rfl]
  generalize hw : (imm ++ rs1 ++ 1#3 ++ rd ++ 3#7 : BitVec 32) = wd
  obtain ⟨h0, h1, h2, h3, h4⟩ : bits wd 6 0 = 3#7 ∧ bits wd 14 12 = 1#3 ∧ bits wd 11 7 = rd ∧ bits wd 19 15 = rs1 ∧ bits wd 31 20 = imm := by
    subst hw
    simp (disch := decide) only [bits, lo3, hi3, lo5, hi5, lo7, hi7, lo12, hi12, slice_all, bit1_one, Nat.reduceSub, Nat.reduceAdd, BitVec.reduceExtractLsb', and_self]
  clear hw
  simp only [parseWord, decodeLoad, h0, h1, h2, h3, h4, BitVec.reduceToNat, BitVec.toNat_ofNat, Nat.reducePow, Nat.reduceMod, BEq.rfl, show (0#1 == 1#1) = false from rfl, Bool.false_eq_true, if_false, Bool.and_self, if_true])

theorem lw (rd : XReg) (rs1 : XReg) (imm : BitVec 12) : Statement (.lw rd rs1 imm) := of_parse _ (by
  rw [show encode (.lw rd rs1 imm) = imm ++ rs1 ++ 2#3 ++ rd ++ 3#7 from rfl]
  generalize hw : (imm ++ rs1 ++ 2#3 ++ rd ++ 3#7 : BitVec 32) = wd
  obtain ⟨h0, h1, h2, h3, h4⟩ : bits wd 6 0 = 3#7 ∧ bits wd 14 12 = 2#3 ∧ bits wd 11 7 = rd ∧ bits wd 19 15 = rs1 ∧ bits wd 31 20 = imm := by
    subst hw
    simp (disch := decide) only [bits, lo3, hi3, lo5, hi5, lo7, hi7, lo12, hi12, slice_all, bit1_one, Nat.reduceSub, Nat.reduceAdd, BitVec.reduceExtractLsb', and_self]
  clear hw
  simp only [parseWord, decodeLoad, h0, h1, h2, h3, h4, BitVec.reduceToNat, BitVec.toNat_ofNat, Nat.reducePow, Nat.reduceMod, BEq.rfl, show (0#1 == 1#1) = false from rfl, Bool.false_eq_true, if_false, Bool.and_self, if_true])

theorem ld (rd : XReg) (rs1 : XReg) (imm : BitVec 12) : Statement (.ld rd rs1 imm) := of_parse _ (by
  rw [show encode (.ld rd rs1 imm) = imm ++ rs1 ++ 3#3 ++ rd ++ 3#7 from rfl]
  generalize hw : (imm ++ rs1 ++ 3#3 ++ rd ++ 3#7 : BitVec 32) = wd
  obtain ⟨h0, h1, h2, h3, h4⟩ : bits wd 6 0 = 3#7 ∧ bits wd 14 12 = 3#3 ∧ bits wd 11 7 = rd ∧ bits wd 19 15 = rs1 ∧ bits wd 31 20 = imm := by
    subst hw
    simp (disch := decide) only [bits, lo3, hi3, lo5, hi5, lo7, hi7, lo12, hi12, slice_all, bit1_one, Nat.reduceSub, Nat.reduceAdd, BitVec.reduceExtractLsb', and_self]
  clear hw
  simp only [parseWord, decodeLoad, h0, h1, h2, h3, h4, BitVec.reduceToNat, BitVec.toNat_ofNat, Nat.reducePow, Nat.reduceMod, BEq.rfl, show (0#1 == 1#1) = false from rfl, Bool.false_eq_true, if_false, Bool.and_self, if_true])

theorem lbu (rd : XReg) (rs1 : XReg) (imm : BitVec 12) : Statement (.lbu rd rs1 imm) := of_parse _ (by
  rw [show encode (.lbu rd rs1 imm) = imm ++ rs1 ++ 4#3 ++ rd ++ 3#7 from rfl]
  generalize hw : (imm ++ rs1 ++ 4#3 ++ rd ++ 3#7 : BitVec 32) = wd
  obtain ⟨h0, h1, h2, h3, h4⟩ : bits wd 6 0 = 3#7 ∧ bits wd 14 12 = 4#3 ∧ bits wd 11 7 = rd ∧ bits wd 19 15 = rs1 ∧ bits wd 31 20 = imm := by
    subst hw
    simp (disch := decide) only [bits, lo3, hi3, lo5, hi5, lo7, hi7, lo12, hi12, slice_all, bit1_one, Nat.reduceSub, Nat.reduceAdd, BitVec.reduceExtractLsb', and_self]
  clear hw
  simp only [parseWord, decodeLoad, h0, h1, h2, h3, h4, BitVec.reduceToNat, BitVec.toNat_ofNat, Nat.reducePow, Nat.reduceMod, BEq.rfl, show (0#1 == 1#1) = false from rfl, Bool.false_eq_true, if_false, Bool.and_self, if_true])

theorem lhu (rd : XReg) (rs1 : XReg) (imm : BitVec 12) : Statement (.lhu rd rs1 imm) := of_parse _ (by
  rw [show encode (.lhu rd rs1 imm) = imm ++ rs1 ++ 5#3 ++ rd ++ 3#7 from rfl]
  generalize hw : (imm ++ rs1 ++ 5#3 ++ rd ++ 3#7 : BitVec 32) = wd
  obtain ⟨h0, h1, h2, h3, h4⟩ : bits wd 6 0 = 3#7 ∧ bits wd 14 12 = 5#3 ∧ bits wd 11 7 = rd ∧ bits wd 19 15 = rs1 ∧ bits wd 31 20 = imm := by
    subst hw
    simp (disch := decide) only [bits, lo3, hi3, lo5, hi5, lo7, hi7, lo12, hi12, slice_all, bit1_one, Nat.reduceSub, Nat.reduceAdd, BitVec.reduceExtractLsb', and_self]
  clear hw
  simp only [parseWord, decodeLoad, h0, h1, h2, h3, h4, BitVec.reduceToNat, BitVec.toNat_ofNat, Nat.reducePow, Nat.reduceMod, BEq.rfl, show (0#1 == 1#1) = false from rfl, Bool.false_eq_true, if_false, Bool.and_self, if_true])

theorem lwu (rd : XReg) (rs1 : XReg) (imm : BitVec 12) : Statement (.lwu rd rs1 imm) := of_parse _ (by
  rw [show encode (.lwu rd rs1 imm) = imm ++ rs1 ++ 6#3 ++ rd ++ 3#7 from rfl]
  generalize hw : (imm ++ rs1 ++ 6#3 ++ rd ++ 3#7 : BitVec 32) = wd
  obtain ⟨h0, h1, h2, h3, h4⟩ : bits wd 6 0 = 3#7 ∧ bits wd 14 12 = 6#3 ∧ bits wd 11 7 = rd ∧ bits wd 19 15 = rs1 ∧ bits wd 31 20 = imm := by
    subst hw
    simp (disch := decide) only [bits, lo3, hi3, lo5, hi5, lo7, hi7, lo12, hi12, slice_all, bit1_one, Nat.reduceSub, Nat.reduceAdd, BitVec.reduceExtractLsb', and_self]
  clear hw
  simp only [parseWord, decodeLoad, h0, h1, h2, h3, h4, BitVec.reduceToNat, BitVec.toNat_ofNat, Nat.reducePow, Nat.reduceMod, BEq.rfl, show (0#1 == 1#1) = false from rfl, Bool.false_eq_true, if_false, Bool.and_self, if_true])

theorem sb (rs1 : XReg) (rs2 : XReg) (imm : BitVec 12) : Statement (.sb rs1 rs2 imm) := of_parse _ (by
  rw [show encode (.sb rs1 rs2 imm) = (imm.extractLsb' 5 7) ++ rs2 ++ rs1 ++ 0#3 ++ (imm.extractLsb' 0 5) ++ 35#7 from rfl]
  generalize hw : ((imm.extractLsb' 5 7) ++ rs2 ++ rs1 ++ 0#3 ++ (imm.extractLsb' 0 5) ++ 35#7 : BitVec 32) = wd
  obtain ⟨h0, h1, h2, h3, h4, h5⟩ : bits wd 6 0 = 35#7 ∧ bits wd 14 12 = 0#3 ∧ bits wd 19 15 = rs1 ∧ bits wd 24 20 = rs2 ∧ bits wd 31 25 = imm.extractLsb' 5 7 ∧ bits wd 11 7 = imm.extractLsb' 0 5 := by
    subst hw
    simp (disch := decide) only [bits, lo3, hi3, lo5, hi5, lo7, hi7, slice_all, bit1_one, Nat.reduceSub, Nat.reduceAdd, BitVec.reduceExtractLsb', and_self]
  have j0 : (bits wd 31 25 ++ bits wd 11 7 : BitVec 12) = imm := by rw [h4, h5]; exact join_store imm
  clear hw
  simp only [parseWord, decodeStore, h0, h1, h2, h3, j0, BitVec.reduceToNat, BitVec.toNat_ofNat, Nat.reducePow, Nat.reduceMod, BEq.rfl, show (0#1 == 1#1) = false from rfl, Bool.false_eq_true, if_false, Bool.and_self, if_true])

theorem sh (rs1 : XReg) (rs2 : XReg) (imm : BitVec 12) : Statement (.sh rs1 rs2 imm) := of_parse _ (by
  rw [show encode (.sh rs1 rs2 imm) = (imm.extractLsb' 5 7) ++ rs2 ++ rs1 ++ 1#3 ++ (imm.extractLsb' 0 5) ++ 35#7 from rfl]
  generalize hw : ((imm.extractLsb' 5 7) ++ rs2 ++ rs1 ++ 1#3 ++ (imm.extractLsb' 0 5) ++ 35#7 : BitVec 32) = wd
  obtain ⟨h0, h1, h2, h3, h4, h5⟩ : bits wd 6 0 = 35#7 ∧ bits wd 14 12 = 1#3 ∧ bits wd 19 15 = rs1 ∧ bits wd 24 20 = rs2 ∧ bits wd 31 25 = imm.extractLsb' 5 7 ∧ bits wd 11 7 = imm.extractLsb' 0 5 := by
    subst hw
    simp (disch := decide) only [bits, lo3, hi3, lo5, hi5, lo7, hi7, slice_all, bit1_one, Nat.reduceSub, Nat.reduceAdd, BitVec.reduceExtractLsb', and_self]
  have j0 : (bits wd 31 25 ++ bits wd 11 7 : BitVec 12) = imm := by rw [h4, h5]; exact join_store imm
  clear hw
  simp only [parseWord, decodeStore, h0, h1, h2, h3, j0, BitVec.reduceToNat, BitVec.toNat_ofNat, Nat.reducePow, Nat.reduceMod, BEq.rfl, show (0#1 == 1#1) = false from rfl, Bool.false_eq_true, if_false, Bool.and_self, if_true])

theorem sw (rs1 : XReg) (rs2 : XReg) (imm : BitVec 12) : Statement (.sw rs1 rs2 imm) := of_parse _ (by
  rw [show encode (.sw rs1 rs2 imm) = (imm.extractLsb' 5 7) ++ rs2 ++ rs1 ++ 2#3 ++ (imm.extractLsb' 0 5) ++ 35#7 from rfl]
  generalize hw : ((imm.extractLsb' 5 7) ++ rs2 ++ rs1 ++ 2#3 ++ (imm.extractLsb' 0 5) ++ 35#7 : BitVec 32) = wd
  obtain ⟨h0, h1, h2, h3, h4, h5⟩ : bits wd 6 0 = 35#7 ∧ bits wd 14 12 = 2#3 ∧ bits wd 19 15 = rs1 ∧ bits wd 24 20 = rs2 ∧ bits wd 31 25 = imm.extractLsb' 5 7 ∧ bits wd 11 7 = imm.extractLsb' 0 5 := by
    subst hw
    simp (disch := decide) only [bits, lo3, hi3, lo5, hi5, lo7, hi7, slice_all, bit1_one, Nat.reduceSub, Nat.reduceAdd, BitVec.reduceExtractLsb', and_self]
  have j0 : (bits wd 31 25 ++ bits wd 11 7 : BitVec 12) = imm := by rw [h4, h5]; exact join_store imm
  clear hw
  simp only [parseWord, decodeStore, h0, h1, h2, h3, j0, BitVec.reduceToNat, BitVec.toNat_ofNat, Nat.reducePow, Nat.reduceMod, BEq.rfl, show (0#1 == 1#1) = false from rfl, Bool.false_eq_true, if_false, Bool.and_self, if_true])

theorem sd (rs1 : XReg) (rs2 : XReg) (imm : BitVec 12) : Statement (.sd rs1 rs2 imm) := of_parse _ (by
  rw [show encode (.sd rs1 rs2 imm) = (imm.extractLsb' 5 7) ++ rs2 ++ rs1 ++ 3#3 ++ (imm.extractLsb' 0 5) ++ 35#7 from rfl]
  generalize hw : ((imm.extractLsb' 5 7) ++ rs2 ++ rs1 ++ 3#3 ++ (imm.extractLsb' 0 5) ++ 35#7 : BitVec 32) = wd
  obtain ⟨h0, h1, h2, h3, h4, h5⟩ : bits wd 6 0 = 35#7 ∧ bits wd 14 12 = 3#3 ∧ bits wd 19 15 = rs1 ∧ bits wd 24 20 = rs2 ∧ bits wd 31 25 = imm.extractLsb' 5 7 ∧ bits wd 11 7 = imm.extractLsb' 0 5 := by
    subst hw
    simp (disch := decide) only [bits, lo3, hi3, lo5, hi5, lo7, hi7, slice_all, bit1_one, Nat.reduceSub, Nat.reduceAdd, BitVec.reduceExtractLsb', and_self]
  have j0 : (bits wd 31 25 ++ bits wd 11 7 : BitVec 12) = imm := by rw [h4, h5]; exact join_store imm
  clear hw
  simp only [parseWord, decodeStore, h0, h1, h2, h3, j0, BitVec.reduceToNat, BitVec.toNat_ofNat, Nat.reducePow, Nat.reduceMod, BEq.rfl, show (0#1 == 1#1) = false from rfl, Bool.false_eq_true, if_false, Bool.and_self, if_true])

theorem addi (rd : XReg) (rs1 : XReg) (imm : BitVec 12) : Statement (.addi rd rs1 imm) := of_parse _ (by
  rw [show encode (.addi rd rs1 imm) = imm ++ rs1 ++ 0#3 ++ rd ++ 19#7 from rfl]
  generalize hw : (imm ++ rs1 ++ 0#3 ++ rd ++ 19#7 : BitVec 32) = wd
  obtain ⟨h0, h1, h2, h3, h4⟩ : bits wd 6 0 = 19#7 ∧ bits wd 14 12 = 0#3 ∧ bits wd 11 7 = rd ∧ bits wd 19 15 = rs1 ∧ bits wd 31 20 = imm := by
    subst hw
    simp (disch := decide) only [bits, lo3, hi3, lo5, hi5, lo7, hi7, lo12, hi12, slice_all, bit1_one, Nat.reduceSub, Nat.reduceAdd, BitVec.reduceExtractLsb', and_self]
  clear hw
  simp only [parseWord, decodeOpImm, h0, h1, h2, h3, h4, BitVec.reduceToNat, BitVec.toNat_ofNat, Nat.reducePow, Nat.reduceMod, BEq.rfl, show (0#1 == 1#1) = false from rfl, Bool.false_eq_true, if_false, Bool.and_self, if_true])

theorem slti (rd : XReg) (rs1 : XReg) (imm : BitVec 12) : Statement (.slti rd rs1 imm) := of_parse _ (by
  rw [show encode (.slti rd rs1 imm) = imm ++ rs1 ++ 2#3 ++ rd ++ 19#7 from rfl]
  generalize hw : (imm ++ rs1 ++ 2#3 ++ rd ++ 19#7 : BitVec 32) = wd
  obtain ⟨h0, h1, h2, h3, h4⟩ : bits wd 6 0 = 19#7 ∧ bits wd 14 12 = 2#3 ∧ bits wd 11 7 = rd ∧ bits wd 19 15 = rs1 ∧ bits wd 31 20 = imm := by
    subst hw
    simp (disch := decide) only [bits, lo3, hi3, lo5, hi5, lo7, hi7, lo12, hi12, slice_all, bit1_one, Nat.reduceSub, Nat.reduceAdd, BitVec.reduceExtractLsb', and_self]
  clear hw
  simp only [parseWord, decodeOpImm, h0, h1, h2, h3, h4, BitVec.reduceToNat, BitVec.toNat_ofNat, Nat.reducePow, Nat.reduceMod, BEq.rfl, show (0#1 == 1#1) = false from rfl, Bool.false_eq_true, if_false, Bool.and_self, if_true])

theorem sltiu (rd : XReg) (rs1 : XReg) (imm : BitVec 12) : Statement (.sltiu rd rs1 imm) := of_parse _ (by
  rw [show encode (.sltiu rd rs1 imm) = imm ++ rs1 ++ 3#3 ++ rd ++ 19#7 from rfl]
  generalize hw : (imm ++ rs1 ++ 3#3 ++ rd ++ 19#7 : BitVec 32) = wd
  obtain ⟨h0, h1, h2, h3, h4⟩ : bits wd 6 0 = 19#7 ∧ bits wd 14 12 = 3#3 ∧ bits wd 11 7 = rd ∧ bits wd 19 15 = rs1 ∧ bits wd 31 20 = imm := by
    subst hw
    simp (disch := decide) only [bits, lo3, hi3, lo5, hi5, lo7, hi7, lo12, hi12, slice_all, bit1_one, Nat.reduceSub, Nat.reduceAdd, BitVec.reduceExtractLsb', and_self]
  clear hw
  simp only [parseWord, decodeOpImm, h0, h1, h2, h3, h4, BitVec.reduceToNat, BitVec.toNat_ofNat, Nat.reducePow, Nat.reduceMod, BEq.rfl, show (0#1 == 1#1) = false from rfl, Bool.false_eq_true, if_false, Bool.and_self, if_true])

theorem xori (rd : XReg) (rs1 : XReg) (imm : BitVec 12) : Statement (.xori rd rs1 imm) := of_parse _ (by
  rw [show encode (.xori rd rs1 imm) = imm ++ rs1 ++ 4#3 ++ rd ++ 19#7 from rfl]
  generalize hw : (imm ++ rs1 ++ 4#3 ++ rd ++ 19#7 : BitVec 32) = wd
  obtain ⟨h0, h1, h2, h3, h4⟩ : bits wd 6 0 = 19#7 ∧ bits wd 14 12 = 4#3 ∧ bits wd 11 7 = rd ∧ bits wd 19 15 = rs1 ∧ bits wd 31 20 = imm := by
    subst hw
    simp (disch := decide) only [bits, lo3, hi3, lo5, hi5, lo7, hi7, lo12, hi12, slice_all, bit1_one, Nat.reduceSub, Nat.reduceAdd, BitVec.reduceExtractLsb', and_self]
  clear hw
  simp only [parseWord, decodeOpImm, h0, h1, h2, h3, h4, BitVec.reduceToNat, BitVec.toNat_ofNat, Nat.reducePow, Nat.reduceMod, BEq.rfl, show (0#1 == 1#1) = false from rfl, Bool.false_eq_true, if_false, Bool.and_self, if_true])

theorem ori (rd : XReg) (rs1 : XReg) (imm : BitVec 12) : Statement (.ori rd rs1 imm) := of_parse _ (by
  rw [show encode (.ori rd rs1 imm) = imm ++ rs1 ++ 6#3 ++ rd ++ 19#7 from rfl]
  generalize hw : (imm ++ rs1 ++ 6#3 ++ rd ++ 19#7 : BitVec 32) = wd
  obtain ⟨h0, h1, h2, h3, h4⟩ : bits wd 6 0 = 19#7 ∧ bits wd 14 12 = 6#3 ∧ bits wd 11 7 = rd ∧ bits wd 19 15 = rs1 ∧ bits wd 31 20 = imm := by
    subst hw
    simp (disch := decide) only [bits, lo3, hi3, lo5, hi5, lo7, hi7, lo12, hi12, slice_all, bit1_one, Nat.reduceSub, Nat.reduceAdd, BitVec.reduceExtractLsb', and_self]
  clear hw
  simp only [parseWord, decodeOpImm, h0, h1, h2, h3, h4, BitVec.reduceToNat, BitVec.toNat_ofNat, Nat.reducePow, Nat.reduceMod, BEq.rfl, show (0#1 == 1#1) = false from rfl, Bool.false_eq_true, if_false, Bool.and_self, if_true])

theorem andi (rd : XReg) (rs1 : XReg) (imm : BitVec 12) : Statement (.andi rd rs1 imm) := of_parse _ (by
  rw [show encode (.andi rd rs1 imm) = imm ++ rs1 ++ 7#3 ++ rd ++ 19#7 from rfl]
  generalize hw : (imm ++ rs1 ++ 7#3 ++ rd ++ 19#7 : BitVec 32) = wd
  obtain ⟨h0, h1, h2, h3, h4⟩ : bits wd 6 0 = 19#7 ∧ bits wd 14 12 = 7#3 ∧ bits wd 11 7 = rd ∧ bits wd 19 15 = rs1 ∧ bits wd 31 20 = imm := by
    subst hw
    simp (disch := decide) only [bits, lo3, hi3, lo5, hi5, lo7, hi7, lo12, hi12, slice_all, bit1_one, Nat.reduceSub, Nat.reduceAdd, BitVec.reduceExtractLsb', and_self]
  clear hw
  simp only [parseWord, decodeOpImm, h0, h1, h2, h3, h4, BitVec.reduceToNat, BitVec.toNat_ofNat, Nat.reducePow, Nat.reduceMod, BEq.rfl, show (0#1 == 1#1) = false from rfl, Bool.false_eq_true, if_false, Bool.and_self, if_true])

theorem slli (rd : XReg) (rs1 : XReg) (sh : BitVec 6) : Statement (.slli rd rs1 sh) := of_parse _ (by
  rw [show encode (.slli rd rs1 sh) = 0#6 ++ sh ++ rs1 ++ 1#3 ++ rd ++ 19#7 from rfl]
  generalize hw : (0#6 ++ sh ++ rs1 ++ 1#3 ++ rd ++ 19#7 : BitVec 32) = wd
  obtain ⟨h0, h1, h2, h3, h4, h5, h6, h7⟩ : bits wd 6 0 = 19#7 ∧ bits wd 14 12 = 1#3 ∧ bits wd 31 26 = 0#6 ∧ bits wd 31 27 = 0#5 ∧ bits wd 26 26 = 0#1 ∧ bits wd 11 7 = rd ∧ bits wd 19 15 = rs1 ∧ bits wd 25 20 = sh := by
    subst hw
    simp (disch := decide) only [bits, lo3, hi3, lo5, hi5, lo6, hi6, lo7, hi7, slice_all, bit1_one, Nat.reduceSub, Nat.reduceAdd, BitVec.reduceExtractLsb', and_self]
  clear hw
  simp only [parseWord, decodeOpImm, h0, h1, h2, h3, h4, h5, h6, h7, BitVec.reduceToNat, BitVec.toNat_ofNat, Nat.reducePow, Nat.reduceMod, BEq.rfl, show (0#1 == 1#1) = false from rfl, Bool.false_eq_true, if_false, Bool.and_self, if_true])

theorem srli (rd : XReg) (rs1 : XReg) (sh : BitVec 6) : Statement (.srli rd rs1 sh) := of_parse _ (by
  rw [show encode (.srli rd rs1 sh) = 0#6 ++ sh ++ rs1 ++ 5#3 ++ rd ++ 19#7 from rfl]
  generalize hw : (0#6 ++ sh ++ rs1 ++ 5#3 ++ rd ++ 19#7 : BitVec 32) = wd
  obtain ⟨h0, h1, h2, h3, h4, h5, h6, h7⟩ : bits wd 6 0 = 19#7 ∧ bits wd 14 12 = 5#3 ∧ bits wd 31 26 = 0#6 ∧ bits wd 31 27 = 0#5 ∧ bits wd 26 26 = 0#1 ∧ bits wd 11 7 = rd ∧ bits wd 19 15 = rs1 ∧ bits wd 25 20 = sh := by
    subst hw
    simp (disch := decide) only [bits, lo3, hi3, lo5, hi5, lo6, hi6, lo7, hi7, slice_all, bit1_one, Nat.reduceSub, Nat.reduceAdd, BitVec.reduceExtractLsb', and_self]
  clear hw
  simp only [parseWord, decodeOpImm, h0, h1, h2, h3, h4, h5, h6, h7, BitVec.reduceToNat, BitVec.toNat_ofNat, Nat.reducePow, Nat.reduceMod, BEq.rfl, show (0#1 == 1#1) = false from rfl, Bool.false_eq_true, if_false, Bool.and_self, if_true])

theorem srai (rd : XReg) (rs1 : XReg) (sh : BitVec 6) : Statement (.srai rd rs1 sh) := of_parse _ (by
  rw [show encode (.srai rd rs1 sh) = 16#6 ++ sh ++ rs1 ++ 5#3 ++ rd ++ 19#7 from rfl]
  generalize hw : (16#6 ++ sh ++ rs1 ++ 5#3 ++ rd ++ 19#7 : BitVec 32) = wd
  obtain ⟨h0, h1, h2, h3, h4, h5, h6, h7⟩ : bits wd 6 0 = 19#7 ∧ bits wd 14 12 = 5#3 ∧ bits wd 31 26 = 16#6 ∧ bits wd 31 27 = 8#5 ∧ bits wd 26 26 = 0#1 ∧ bits wd 11 7 = rd ∧ bits wd 19 15 = rs1 ∧ bits wd 25 20 = sh := by
    subst hw
    simp (disch := decide) only [bits, lo3, hi3, lo5, hi5, lo6, hi6, lo7, hi7, slice_all, bit1_one, Nat.reduceSub, Nat.reduceAdd, BitVec.reduceExtractLsb', and_self]
  clear hw
  simp only [parseWord, decodeOpImm, h0, h1, h2, h3, h4, h5, h6, h7, BitVec.reduceToNat, BitVec.toNat_ofNat, Nat.reducePow, Nat.reduceMod, BEq.rfl, show (0#1 == 1#1) = false from rfl, Bool.false_eq_true, if_false, Bool.and_self, if_true])

theorem addiw (rd : XReg) (rs1 : XReg) (imm : BitVec 12) : Statement (.addiw rd rs1 imm) := of_parse _ (by
  rw [show encode (.addiw rd rs1 imm) = imm ++ rs1 ++ 0#3 ++ rd ++ 27#7 from rfl]
  generalize hw : (imm ++ rs1 ++ 0#3 ++ rd ++ 27#7 : BitVec 32) = wd
  obtain ⟨h0, h1, h2, h3, h4⟩ : bits wd 6 0 = 27#7 ∧ bits wd 14 12 = 0#3 ∧ bits wd 11 7 = rd ∧ bits wd 19 15 = rs1 ∧ bits wd 31 20 = imm := by
    subst hw
    simp (disch := decide) only [bits, lo3, hi3, lo5, hi5, lo7, hi7, lo12, hi12, slice_all, bit1_one, Nat.reduceSub, Nat.reduceAdd, BitVec.reduceExtractLsb', and_self]
  clear hw
  simp only [parseWord, decodeOpImm32, h0, h1, h2, h3, h4, BitVec.reduceToNat, BitVec.toNat_ofNat, Nat.reducePow, Nat.reduceMod, BEq.rfl, show (0#1 == 1#1) = false from rfl, Bool.false_eq_true, if_false, Bool.and_self, if_true])

theorem slliw (rd : XReg) (rs1 : XReg) (sh : BitVec 5) : Statement (.slliw rd rs1 sh) := of_parse _ (by
  rw [show encode (.slliw rd rs1 sh) = 0#7 ++ sh ++ rs1 ++ 1#3 ++ rd ++ 27#7 from rfl]
  generalize hw : (0#7 ++ sh ++ rs1 ++ 1#3 ++ rd ++ 27#7 : BitVec 32) = wd
  obtain ⟨h0, h1, h2, h3, h4, h5⟩ : bits wd 6 0 = 27#7 ∧ bits wd 14 12 = 1#3 ∧ bits wd 31 25 = 0#7 ∧ bits wd 11 7 = rd ∧ bits wd 19 15 = rs1 ∧ bits wd 24 20 = sh := by
    subst hw
    simp (disch := decide) only [bits, lo3, hi3, lo5, hi5, lo7, hi7, slice_all, bit1_one, Nat.reduceSub, Nat.reduceAdd, BitVec.reduceExtractLsb', and_self]
  clear hw
  simp only [parseWord, decodeOpImm32, h0, h1, h2, h3, h4, h5, BitVec.reduceToNat, BitVec.toNat_ofNat, Nat.reducePow, Nat.reduceMod, BEq.rfl, show (0#1 == 1#1) = false from rfl, Bool.false_eq_true, if_false, Bool.and_self, if_true])

theorem srliw (rd : XReg) (rs1 : XReg) (sh : BitVec 5) : Statement (.srliw rd rs1 sh) := of_parse _ (by
  rw [show encode (.srliw rd rs1 sh) = 0#7 ++ sh ++ rs1 ++ 5#3 ++ rd ++ 27#7 from rfl]
  generalize hw : (0#7 ++ sh ++ rs1 ++ 5#3 ++ rd ++ 27#7 : BitVec 32) = wd
  obtain ⟨h0, h1, h2, h3, h4, h5⟩ : bits wd 6 0 = 27#7 ∧ bits wd 14 12 = 5#3 ∧ bits wd 31 25 = 0#7 ∧ bits wd 11 7 = rd ∧ bits wd 19 15 = rs1 ∧ bits wd 24 20 = sh := by
    subst hw
    simp (disch := decide) only [bits, lo3, hi3, lo5, hi5, lo7, hi7, slice_all, bit1_one, Nat.reduceSub, Nat.reduceAdd, BitVec.reduceExtractLsb', and_self]
  clear hw
  simp only [parseWord, decodeOpImm32, h0, h1, h2, h3, h4, h5, BitVec.reduceToNat, BitVec.toNat_ofNat, Nat.reducePow, Nat.reduceMod, BEq.rfl, show (0#1 == 1#1) = false from rfl, Bool.false_eq_true, if_false, Bool.and_self, if_true])

theorem sraiw (rd : XReg) (rs1 : XReg) (sh : BitVec 5) : Statement (.sraiw rd rs1 sh) := of_parse _ (by
  rw [show encode (.sraiw rd rs1 sh) = 32#7 ++ sh ++ rs1 ++ 5#3 ++ rd ++ 27#7 from rfl]
  generalize hw : (32#7 ++ sh ++ rs1 ++ 5#3 ++ rd ++ 27#7 : BitVec 32) = wd
  obtain ⟨h0, h1, h2, h3, h4, h5⟩ : bits wd 6 0 = 27#7 ∧ bits wd 14 12 = 5#3 ∧ bits wd 31 25 = 32#7 ∧ bits wd 11 7 = rd ∧ bits wd 19 15 = rs1 ∧ bits wd 24 20 = sh := by
    subst hw
    simp (disch := decide) only [bits, lo3, hi3, lo5, hi5, lo7, hi7, slice_all, bit1_one, Nat.reduceSub, Nat.reduceAdd, BitVec.reduceExtractLsb', and_self]
  clear hw
  simp only [parseWord, decodeOpImm32, h0, h1, h2, h3, h4, h5, BitVec.reduceToNat, BitVec.toNat_ofNat, Nat.reducePow, Nat.reduceMod, BEq.rfl, show (0#1 == 1#1) = false from rfl, Bool.false_eq_true, if_false, Bool.and_self, if_true])

theorem add (rd : XReg) (rs1 : XReg) (rs2 : XReg) : Statement (.add rd rs1 rs2) := of_parse _ (by
  rw [show encode (.add rd rs1 rs2) = 0#7 ++ rs2 ++ rs1 ++ 0#3 ++ rd ++ 51#7 from rfl]
  generalize hw : (0#7 ++ rs2 ++ rs1 ++ 0#3 ++ rd ++ 51#7 : BitVec 32) = wd
  obtain ⟨h0, h1, h2, h3, h4, h5⟩ : bits wd 6 0 = 51#7 ∧ bits wd 14 12 = 0#3 ∧ bits wd 31 25 = 0#7 ∧ bits wd 11 7 = rd ∧ bits wd 19 15 = rs1 ∧ bits wd 24 20 = rs2 := by
    subst hw
    simp (disch := decide) only [bits, lo3, hi3, lo5, hi5, lo7, hi7, slice_all, bit1_one, Nat.reduceSub, Nat.reduceAdd, BitVec.reduceExtractLsb', and_self]
  clear hw
  simp only [parseWord, decodeOp, h0, h1, h2, h3, h4, h5, BitVec.reduceToNat, BitVec.toNat_ofNat, Nat.reducePow, Nat.reduceMod, BEq.rfl, show (0#1 == 1#1) = false from rfl, Bool.false_eq_true, if_false, Bool.and_self, if_true])

theorem sll (rd : XReg) (rs1 : XReg) (rs2 : XReg) : Statement (.sll rd rs1 rs2) := of_parse _ (by
  rw [show encode (.sll rd rs1 rs2) = 0#7 ++ rs2 ++ rs1 ++ 1#3 ++ rd ++ 51#7 from rfl]
  generalize hw : (0#7 ++ rs2 ++ rs1 ++ 1#3 ++ rd ++ 51#7 : BitVec 32) = wd
  obtain ⟨h0, h1, h2, h3, h4, h5⟩ : bits wd 6 0 = 51#7 ∧ bits wd 14 12 = 1#3 ∧ bits wd 31 25 = 0#7 ∧ bits wd 11 7 = rd ∧ bits wd 19 15 = rs1 ∧ bits wd 24 20 = rs2 := by
    subst hw
    simp (disch := decide) only [bits, lo3, hi3, lo5, hi5, lo7, hi7, slice_all, bit1_one, Nat.reduceSub, Nat.reduceAdd, BitVec.reduceExtractLsb', and_self]
  clear hw
  simp only [parseWord, decodeOp, h0, h1, h2, h3, h4, h5, BitVec.reduceToNat, BitVec.toNat_ofNat, Nat.reducePow, Nat.reduceMod, BEq.rfl, show (0#1 == 1#1) = false from rfl, Bool.false_eq_true, if_false, Bool.and_self, if_true])

theorem slt (rd : XReg) (rs1 : XReg) (rs2 : XReg) : Statement (.slt rd rs1 rs2) := of_parse _ (by
  rw [show encode (.slt rd rs1 rs2) = 0#7 ++ rs2 ++ rs1 ++ 2#3 ++ rd ++ 51#7 from rfl]
  generalize hw : (0#7 ++ rs2 ++ rs1 ++ 2#3 ++ rd ++ 51#7 : BitVec 32) = wd
  obtain ⟨h0, h1, h2, h3, h4, h5⟩ : bits wd 6 0 = 51#7 ∧ bits wd 14 12 = 2#3 ∧ bits wd 31 25 = 0#7 ∧ bits wd 11 7 = rd ∧ bits wd 19 15 = rs1 ∧ bits wd 24 20 = rs2 := by
    subst hw
    simp (disch := decide) only [bits, lo3, hi3, lo5, hi5, lo7, hi7, slice_all, bit1_one, Nat.reduceSub, Nat.reduceAdd, BitVec.reduceExtractLsb', and_self]
  clear hw
  simp only [parseWord, decodeOp, h0, h1, h2, h3, h4, h5, BitVec.reduceToNat, BitVec.toNat_ofNat, Nat.reducePow, Nat.reduceMod, BEq.rfl, show (0#1 == 1#1) = false from rfl, Bool.false_eq_true, if_false, Bool.and_self, if_true])

theorem sltu (rd : XReg) (rs1 : XReg) (rs2 : XReg) : Statement (.sltu rd rs1 rs2) := of_parse _ (by
  rw [show encode (.sltu rd rs1 rs2) = 0#7 ++ rs2 ++ rs1 ++ 3#3 ++ rd ++ 51#7 from rfl]
  generalize hw : (0#7 ++ rs2 ++ rs1 ++ 3#3 ++ rd ++ 51#7 : BitVec 32) = wd
  obtain ⟨h0, h1, h2, h3, h4, h5⟩ : bits wd 6 0 = 51#7 ∧ bits wd 14 12 = 3#3 ∧ bits wd 31 25 = 0#7 ∧ bits wd 11 7 = rd ∧ bits wd 19 15 = rs1 ∧ bits wd 24 20 = rs2 := by
    subst hw
    simp (disch := decide) only [bits, lo3, hi3, lo5, hi5, lo7, hi7, slice_all, bit1_one, Nat.reduceSub, Nat.reduceAdd, BitVec.reduceExtractLsb', and_self]
  clear hw
  simp only [parseWord, decodeOp, h0, h1, h2, h3, h4, h5, BitVec.reduceToNat, BitVec.toNat_ofNat, Nat.reducePow, Nat.reduceMod, BEq.rfl, show (0#1 == 1#1) = false from rfl, Bool.false_eq_true, if_false, Bool.and_self, if_true])

theorem xor (rd : XReg) (rs1 : XReg) (rs2 : XReg) : Statement (.xor rd rs1 rs2) := of_parse _ (by
  rw [show encode (.xor rd rs1 rs2) = 0#7 ++ rs2 ++ rs1 ++ 4#3 ++ rd ++ 51#7 from rfl]
  generalize hw : (0#7 ++ rs2 ++ rs1 ++ 4#3 ++ rd ++ 51#7 : BitVec 32) = wd
  obtain ⟨h0, h1, h2, h3, h4, h5⟩ : bits wd 6 0 = 51#7 ∧ bits wd 14 12 = 4#3 ∧ bits wd 31 25 = 0#7 ∧ bits wd 11 7 = rd ∧ bits wd 19 15 = rs1 ∧ bits wd 24 20 = rs2 := by
    subst hw
    simp (disch := decide) only [bits, lo3, hi3, lo5, hi5, lo7, hi7, slice_all, bit1_one, Nat.reduceSub, Nat.reduceAdd, BitVec.reduceExtractLsb', and_self]
  clear hw
  simp only [parseWord, decodeOp, h0, h1, h2, h3, h4, h5, BitVec.reduceToNat, BitVec.toNat_ofNat, Nat.reducePow, Nat.reduceMod, BEq.rfl, show (0#1 == 1#1) = false from rfl, Bool.false_eq_true, if_false, Bool.and_self, if_true])

theorem srl (rd : XReg) (rs1 : XReg) (rs2 : XReg) : Statement (.srl rd rs1 rs2) := of_parse _ (by
  rw [show encode (.srl rd rs1 rs2) = 0#7 ++ rs2 ++ rs1 ++ 5#3 ++ rd ++ 51#7 from rfl]
  generalize hw : (0#7 ++ rs2 ++ rs1 ++ 5#3 ++ rd ++ 51#7 : BitVec 32) = wd
  obtain ⟨h0, h1, h2, h3, h4, h5⟩ : bits wd 6 0 = 51#7 ∧ bits wd 14 12 = 5#3 ∧ bits wd 31 25 = 0#7 ∧ bits wd 11 7 = rd ∧ bits wd 19 15 = rs1 ∧ bits wd 24 20 = rs2 := by
    subst hw
    simp (disch := decide) only [bits, lo3, hi3, lo5, hi5, lo7, hi7, slice_all, bit1_one, Nat.reduceSub, Nat.reduceAdd, BitVec.reduceExtractLsb', and_self]
  clear hw
  simp only [parseWord, decodeOp, h0, h1, h2, h3, h4, h5, BitVec.reduceToNat, BitVec.toNat_ofNat, Nat.reducePow, Nat.reduceMod, BEq.rfl, show (0#1 == 1#1) = false from rfl, Bool.false_eq_true, if_false, Bool.and_self, if_true])

theorem or (rd : XReg) (rs1 : XReg) (rs2 : XReg) : Statement (.or rd rs1 rs2) := of_parse _ (by
  rw [show encode (.or rd rs1 rs2) = 0#7 ++ rs2 ++ rs1 ++ 6#3 ++ rd ++ 51#7 from rfl]
  generalize hw : (0#7 ++ rs2 ++ rs1 ++ 6#3 ++ rd ++ 51#7 : BitVec 32) = wd
  obtain ⟨h0, h1, h2, h3, h4, h5⟩ : bits wd 6 0 = 51#7 ∧ bits wd 14 12 = 6#3 ∧ bits wd 31 25 = 0#7 ∧ bits wd 11 7 = rd ∧ bits wd 19 15 = rs1 ∧ bits wd 24 20 = rs2 := by
    subst hw
    simp (disch := decide) only [bits, lo3, hi3, lo5, hi5, lo7, hi7, slice_all, bit1_one, Nat.reduceSub, Nat.reduceAdd, BitVec.reduceExtractLsb', and_self]
  clear hw
  simp only [parseWord, decodeOp, h0, h1, h2, h3, h4, h5, BitVec.reduceToNat, BitVec.toNat_ofNat, Nat.reducePow, Nat.reduceMod, BEq.rfl, show (0#1 == 1#1) = false from rfl, Bool.false_eq_true, if_false, Bool.and_self, if_true])

theorem and (rd : XReg) (rs1 : XReg) (rs2 : XReg) : Statement (.and rd rs1 rs2) := of_parse _ (by
  rw [show encode (.and rd rs1 rs2) = 0#7 ++ rs2 ++ rs1 ++ 7#3 ++ rd ++ 51#7 from rfl]
  generalize hw : (0#7 ++ rs2 ++ rs1 ++ 7#3 ++ rd ++ 51#7 : BitVec 32) = wd
  obtain ⟨h0, h1, h2, h3, h4, h5⟩ : bits wd 6 0 = 51#7 ∧ bits wd 14 12 = 7#3 ∧ bits wd 31 25 = 0#7 ∧ bits wd 11 7 = rd ∧ bits wd 19 15 = rs1 ∧ bits wd 24 20 = rs2 := by
    subst hw
    simp (disch := decide) only [bits, lo3, hi3, lo5, hi5, lo7, hi7, slice_all, bit1_one, Nat.reduceSub, Nat.reduceAdd, BitVec.reduceExtractLsb', and_self]
  clear hw
  simp only [parseWord, decodeOp, h0, h1, h2, h3, h4, h5, BitVec.reduceToNat, BitVec.toNat_ofNat, Nat.reducePow, Nat.reduceMod, BEq.rfl, show (0#1 == 1#1) = false from rfl, Bool.false_eq_true, if_false, Bool.and_self, if_true])

theorem sub (rd : XReg) (rs1 : XReg) (rs2 : XReg) : Statement (.sub rd rs1 rs2) := of_parse _ (by
  rw [show encode (.sub rd rs1 rs2) = 32#7 ++ rs2 ++ rs1 ++ 0#3 ++ rd ++ 51#7 from rfl]
  generalize hw : (32#7 ++ rs2 ++ rs1 ++ 0#3 ++ rd ++ 51#7 : BitVec 32) = wd
  obtain ⟨h0, h1, h2, h3, h4, h5⟩ : bits wd 6 0 = 51#7 ∧ bits wd 14 12 = 0#3 ∧ bits wd 31 25 = 32#7 ∧ bits wd 11 7 = rd ∧ bits wd 19 15 = rs1 ∧ bits wd 24 20 = rs2 := by
    subst hw
    simp (disch := decide) only [bits, lo3, hi3, lo5, hi5, lo7, hi7, slice_all, bit1_one, Nat.reduceSub, Nat.reduceAdd, BitVec.reduceExtractLsb', and_self]
  clear hw
  simp only [parseWord, decodeOp, h0, h1, h2, h3, h4, h5, BitVec.reduceToNat, BitVec.toNat_ofNat, Nat.reducePow, Nat.reduceMod, BEq.rfl, show (0#1 == 1#1) = false from rfl, Bool.false_eq_true, if_false, Bool.and_self, if_true])

theorem sra (rd : XReg) (rs1 : XReg) (rs2 : XReg) : Statement (.sra rd rs1 rs2) := of_parse _ (by
  rw [show encode (.sra rd rs1 rs2) = 32#7 ++ rs2 ++ rs1 ++ 5#3 ++ rd ++ 51#7 from rfl]
  generalize hw : (32#7 ++ rs2 ++ rs1 ++ 5#3 ++ rd ++ 51#7 : BitVec 32) = wd
  obtain ⟨h0, h1, h2, h3, h4, h5⟩ : bits wd 6 0 = 51#7 ∧ bits wd 14 12 = 5#3 ∧ bits wd 31 25 = 32#7 ∧ bits wd 11 7 = rd ∧ bits wd 19 15 = rs1 ∧ bits wd 24 20 = rs2 := by
    subst hw
    simp (disch := decide) only [bits, lo3, hi3, lo5, hi5, lo7, hi7, slice_all, bit1_one, Nat.reduceSub, Nat.reduceAdd, BitVec.reduceExtractLsb', and_self]
  clear hw
  simp only [parseWord, decodeOp, h0, h1, h2, h3, h4, h5, BitVec.reduceToNat, BitVec.toNat_ofNat, Nat.reducePow, Nat.reduceMod, BEq.rfl, show (0#1 == 1#1) = false from rfl, Bool.false_eq_true, if_false, Bool.and_self, if_true])

theorem mul (rd : XReg) (rs1 : XReg) (rs2 : XReg) : Statement (.mul rd rs1 rs2) := of_parse _ (by
  rw [show encode (.mul rd rs1 rs2) = 1#7 ++ rs2 ++ rs1 ++ 0#3 ++ rd ++ 51#7 from rfl]
  generalize hw : (1#7 ++ rs2 ++ rs1 ++ 0#3 ++ rd ++ 51#7 : BitVec 32) = wd
  obtain ⟨h0, h1, h2, h3, h4, h5⟩ : bits wd 6 0 = 51#7 ∧ bits wd 14 12 = 0#3 ∧ bits wd 31 25 = 1#7 ∧ bits wd 11 7 = rd ∧ bits wd 19 15 = rs1 ∧ bits wd 24 20 = rs2 := by
    subst hw
    simp (disch := decide) only [bits, lo3, hi3, lo5, hi5, lo7, hi7, slice_all, bit1_one, Nat.reduceSub, Nat.reduceAdd, BitVec.reduceExtractLsb', and_self]
  clear hw
  simp only [parseWord, decodeOp, h0, h1, h2, h3, h4, h5, BitVec.reduceToNat, BitVec.toNat_ofNat, Nat.reducePow, Nat.reduceMod, BEq.rfl, show (0#1 == 1#1) = false from rfl, Bool.false_eq_true, if_false, Bool.and_self, if_true])

theorem mulh (rd : XReg) (rs1 : XReg) (rs2 : XReg) : Statement (.mulh rd rs1 rs2) := of_parse _ (by
  rw [show encode (.mulh rd rs1 rs2) = 1#7 ++ rs2 ++ rs1 ++ 1#3 ++ rd ++ 51#7 from rfl]
  generalize hw : (1#7 ++ rs2 ++ rs1 ++ 1#3 ++ rd ++ 51#7 : BitVec 32) = wd
  obtain ⟨h0, h1, h2, h3, h4, h5⟩ : bits wd 6 0 = 51#7 ∧ bits wd 14 12 = 1#3 ∧ bits wd 31 25 = 1#7 ∧ bits wd 11 7 = rd ∧ bits wd 19 15 = rs1 ∧ bits wd 24 20 = rs2 := by
    subst hw
    simp (disch := decide) only [bits, lo3, hi3, lo5, hi5, lo7, hi7, slice_all, bit1_one, Nat.reduceSub, Nat.reduceAdd, BitVec.reduceExtractLsb', and_self]
  clear hw
  simp only [parseWord, decodeOp, h0, h1, h2, h3, h4, h5, BitVec.reduceToNat, BitVec.toNat_ofNat, Nat.reducePow, Nat.reduceMod, BEq.rfl, show (0#1 == 1#1) = false from rfl, Bool.false_eq_true, if_false, Bool.and_self, if_true])

theorem mulhsu (rd : XReg) (rs1 : XReg) (rs2 : XReg) : Statement (.mulhsu rd rs1 rs2) := of_parse _ (by
  rw [show encode (.mulhsu rd rs1 rs2) = 1#7 ++ rs2 ++ rs1 ++ 2#3 ++ rd ++ 51#7 from rfl]
  generalize hw : (1#7 ++ rs2 ++ rs1 ++ 2#3 ++ rd ++ 51#7 : BitVec 32) = wd
  obtain ⟨h0, h1, h2, h3, h4, h5⟩ : bits wd 6 0 = 51#7 ∧ bits wd 14 12 = 2#3 ∧ bits wd 31 25 = 1#7 ∧ bits wd 11 7 = rd ∧ bits wd 19 15 = rs1 ∧ bits wd 24 20 = rs2 := by
    subst hw
    simp (disch := decide) only [bits, lo3, hi3, lo5, hi5, lo7, hi7, slice_all, bit1_one, Nat.reduceSub, Nat.reduceAdd, BitVec.reduceExtractLsb', and_self]
  clear hw
  simp only [parseWord, decodeOp, h0, h1, h2, h3, h4, h5, BitVec.reduceToNat, BitVec.toNat_ofNat, Nat.reducePow, Nat.reduceMod, BEq.rfl, show (0#1 == 1#1) = false from rfl, Bool.false_eq_true, if_false, Bool.and_self, if_true])

theorem mulhu (rd : XReg) (rs1 : XReg) (rs2 : XReg) : Statement (.mulhu rd rs1 rs2) := of_parse _ (by
  rw [show encode (.mulhu rd rs1 rs2) = 1#7 ++ rs2 ++ rs1 ++ 3#3 ++ rd ++ 51#7 from rfl]
  generalize hw : (1#7 ++ rs2 ++ rs1 ++ 3#3 ++ rd ++ 51#7 : BitVec 32) = wd
  obtain ⟨h0, h1, h2, h3, h4, h5⟩ : bits wd 6 0 = 51#7 ∧ bits wd 14 12 = 3#3 ∧ bits wd 31 25 = 1#7 ∧ bits wd 11 7 = rd ∧ bits wd 19 15 = rs1 ∧ bits wd 24 20 = rs2 := by
    subst hw
    simp (disch := decide) only [bits, lo3, hi3, lo5, hi5, lo7, hi7, slice_all, bit1_one, Nat.reduceSub, Nat.reduceAdd, BitVec.reduceExtractLsb', and_self]
  clear hw
  simp only [parseWord, decodeOp, h0, h1, h2, h3, h4, h5, BitVec.reduceToNat, BitVec.toNat_ofNat, Nat.reducePow, Nat.reduceMod, BEq.rfl, show (0#1 == 1#1) = false from rfl, Bool.false_eq_true, if_false, Bool.and_self, if_true])

theorem div (rd : XReg) (rs1 : XReg) (rs2 : XReg) : Statement (.div rd rs1 rs2) := of_parse _ (by
  rw [show encode (.div rd rs1 rs2) = 1#7 ++ rs2 ++ rs1 ++ 4#3 ++ rd ++ 51#7 from rfl]
  generalize hw : (1#7 ++ rs2 ++ rs1 ++ 4#3 ++ rd ++ 51#7 : BitVec 32) = wd
  obtain ⟨h0, h1, h2, h3, h4, h5⟩ : bits wd 6 0 = 51#7 ∧ bits wd 14 12 = 4#3 ∧ bits wd 31 25 = 1#7 ∧ bits wd 11 7 = rd ∧ bits wd 19 15 = rs1 ∧ bits wd 24 20 = rs2 := by
    subst hw
    simp (disch := decide) only [bits, lo3, hi3, lo5, hi5, lo7, hi7, slice_all, bit1_one, Nat.reduceSub, Nat.reduceAdd, BitVec.reduceExtractLsb', and_self]
  clear hw
  simp only [parseWord, decodeOp, h0, h1, h2, h3, h4, h5, BitVec.reduceToNat, BitVec.toNat_ofNat, Nat.reducePow, Nat.reduceMod, BEq.rfl, show (0#1 == 1#1) = false from rfl, Bool.false_eq_true, if_false, Bool.and_self, if_true])

theorem divu (rd : XReg) (rs1 : XReg) (rs2 : XReg) : Statement (.divu rd rs1 rs2) := of_parse _ (by
  rw [show encode (.divu rd rs1 rs2) = 1#7 ++ rs2 ++ rs1 ++ 5#3 ++ rd ++ 51#7 from rfl]
  generalize hw : (1#7 ++ rs2 ++ rs1 ++ 5#3 ++ rd ++ 51#7 : BitVec 32) = wd
  obtain ⟨h0, h1, h2, h3, h4, h5⟩ : bits wd 6 0 = 51#7 ∧ bits wd 14 12 = 5#3 ∧ bits wd 31 25 = 1#7 ∧ bits wd 11 7 = rd ∧ bits wd 19 15 = rs1 ∧ bits wd 24 20 = rs2 := by
    subst hw
    simp (disch := decide) only [bits, lo3, hi3, lo5, hi5, lo7, hi7, slice_all, bit1_one, Nat.reduceSub, Nat.reduceAdd, BitVec.reduceExtractLsb', and_self]
  clear hw
  simp only [parseWord, decodeOp, h0, h1, h2, h3, h4, h5, BitVec.reduceToNat, BitVec.toNat_ofNat, Nat.reducePow, Nat.reduceMod, BEq.rfl, show (0#1 == 1#1) = false from rfl, Bool.false_eq_true, if_false, Bool.and_self, if_true])

theorem rem (rd : XReg) (rs1 : XReg) (rs2 : XReg) : Statement (.rem rd rs1 rs2) := of_parse _ (by
  rw [show encode (.rem rd rs1 rs2) = 1#7 ++ rs2 ++ rs1 ++ 6#3 ++ rd ++ 51#7 from rfl]
  generalize hw : (1#7 ++ rs2 ++ rs1 ++ 6#3 ++ rd ++ 51#7 : BitVec 32) = wd
  obtain ⟨h0, h1, h2, h3, h4, h5⟩ : bits wd 6 0 = 51#7 ∧ bits wd 14 12 = 6#3 ∧ bits wd 31 25 = 1#7 ∧ bits wd 11 7 = rd ∧ bits wd 19 15 = rs1 ∧ bits wd 24 20 = rs2 := by
    subst hw
    simp (disch := decide) only [bits, lo3, hi3, lo5, hi5, lo7, hi7, slice_all, bit1_one, Nat.reduceSub, Nat.reduceAdd, BitVec.reduceExtractLsb', and_self]
  clear hw
  simp only [parseWord, decodeOp, h0, h1, h2, h3, h4, h5, BitVec.reduceToNat, BitVec.toNat_ofNat, Nat.reducePow, Nat.reduceMod, BEq.rfl, show (0#1 == 1#1) = false from rfl, Bool.false_eq_true, if_false, Bool.and_self, if_true])

theorem remu (rd : XReg) (rs1 : XReg) (rs2 : XReg) : Statement (.remu rd rs1 rs2) := of_parse _ (by
  rw [show encode (.remu rd rs1 rs2) = 1#7 ++ rs2 ++ rs1 ++ 7#3 ++ rd ++ 51#7 from rfl]
  generalize hw : (1#7 ++ rs2 ++ rs1 ++ 7#3 ++ rd ++ 51#7 : BitVec 32) = wd
  obtain ⟨h0, h1, h2, h3, h4, h5⟩ : bits wd 6 0 = 51#7 ∧ bits wd 14 12 = 7#3 ∧ bits wd 31 25 = 1#7 ∧ bits wd 11 7 = rd ∧ bits wd 19 15 = rs1 ∧ bits wd 24 20 = rs2 := by
    subst hw
    simp (disch := decide) only [bits, lo3, hi3, lo5, hi5, lo7, hi7, slice_all, bit1_one, Nat.reduceSub, Nat.reduceAdd, BitVec.reduceExtractLsb', and_self]
  clear hw
  simp only [parseWord, decodeOp, h0, h1, h2, h3, h4, h5, BitVec.reduceToNat, BitVec.toNat_ofNat, Nat.reducePow, Nat.reduceMod, BEq.rfl, show (0#1 == 1#1) = false from rfl, Bool.false_eq_true, if_false, Bool.and_self, if_true])

theorem addw (rd : XReg) (rs1 : XReg) (rs2 : XReg) : Statement (.addw rd rs1 rs2) := of_parse _ (by
  rw [show encode (.addw rd rs1 rs2) = 0#7 ++ rs2 ++ rs1 ++ 0#3 ++ rd ++ 59#7 from rfl]
  generalize hw : (0#7 ++ rs2 ++ rs1 ++ 0#3 ++ rd ++ 59#7 : BitVec 32) = wd
  obtain ⟨h0, h1, h2, h3, h4, h5⟩ : bits wd 6 0 = 59#7 ∧ bits wd 14 12 = 0#3 ∧ bits wd 31 25 = 0#7 ∧ bits wd 11 7 = rd ∧ bits wd 19 15 = rs1 ∧ bits wd 24 20 = rs2 := by
    subst hw
    simp (disch := decide) only [bits, lo3, hi3, lo5, hi5, lo7, hi7, slice_all, bit1_one, Nat.reduceSub, Nat.reduceAdd, BitVec.reduceExtractLsb', and_self]
  clear hw
  simp only [parseWord, decodeOp32, h0, h1, h2, h3, h4, h5, BitVec.reduceToNat, BitVec.toNat_ofNat, Nat.reducePow, Nat.reduceMod, BEq.rfl, show (0#1 == 1#1) = false from rfl, Bool.false_eq_true, if_false, Bool.and_self, if_true])

theorem sllw (rd : XReg) (rs1 : XReg) (rs2 : XReg) : Statement (.sllw rd rs1 rs2) := of_parse _ (by
  rw [show encode (.sllw rd rs1 rs2) = 0#7 ++ rs2 ++ rs1 ++ 1#3 ++ rd ++ 59#7 from rfl]
  generalize hw : (0#7 ++ rs2 ++ rs1 ++ 1#3 ++ rd ++ 59#7 : BitVec 32) = wd
  obtain ⟨h0, h1, h2, h3, h4, h5⟩ : bits wd 6 0 = 59#7 ∧ bits wd 14 12 = 1#3 ∧ bits wd 31 25 = 0#7 ∧ bits wd 11 7 = rd ∧ bits wd 19 15 = rs1 ∧ bits wd 24 20 = rs2 := by
    subst hw
    simp (disch := decide) only [bits, lo3, hi3, lo5, hi5, lo7, hi7, slice_all, bit1_one, Nat.reduceSub, Nat.reduceAdd, BitVec.reduceExtractLsb', and_self]
  clear hw
  simp only [parseWord, decodeOp32, h0, h1, h2, h3, h4, h5, BitVec.reduceToNat, BitVec.toNat_ofNat, Nat.reducePow, Nat.reduceMod, BEq.rfl, show (0#1 == 1#1) = false from rfl, Bool.false_eq_true, if_false, Bool.and_self, if_true])

theorem srlw (rd : XReg) (rs1 : XReg) (rs2 : XReg) : Statement (.srlw rd rs1 rs2) := of_parse _ (by
  rw [show encode (.srlw rd rs1 rs2) = 0#7 ++ rs2 ++ rs1 ++ 5#3 ++ rd ++ 59#7 from rfl]
  generalize hw : (0#7 ++ rs2 ++ rs1 ++ 5#3 ++ rd ++ 59#7 : BitVec 32) = wd
  obtain ⟨h0, h1, h2, h3, h4, h5⟩ : bits wd 6 0 = 59#7 ∧ bits wd 14 12 = 5#3 ∧ bits wd 31 25 = 0#7 ∧ bits wd 11 7 = rd ∧ bits wd 19 15 = rs1 ∧ bits wd 24 20 = rs2 := by
    subst hw
    simp (disch := decide) only [bits, lo3, hi3, lo5, hi5, lo7, hi7, slice_all, bit1_one, Nat.reduceSub, Nat.reduceAdd, BitVec.reduceExtractLsb', and_self]
  clear hw
  simp only [parseWord, decodeOp32, h0, h1, h2, h3, h4, h5, BitVec.reduceToNat, BitVec.toNat_ofNat, Nat.reducePow, Nat.reduceMod, BEq.rfl, show (0#1 == 1#1) = false from rfl, Bool.false_eq_true, if_false, Bool.and_self, if_true])

theorem subw (rd : XReg) (rs1 : XReg) (rs2 : XReg) : Statement (.subw rd rs1 rs2) := of_parse _ (by
  rw [show encode (.subw rd rs1 rs2) = 32#7 ++ rs2 ++ rs1 ++ 0#3 ++ rd ++ 59#7 from rfl]
  generalize hw : (32#7 ++ rs2 ++ rs1 ++ 0#3 ++ rd ++ 59#7 : BitVec 32) = wd
  obtain ⟨h0, h1, h2, h3, h4, h5⟩ : bits wd 6 0 = 59#7 ∧ bits wd 14 12 = 0#3 ∧ bits wd 31 25 = 32#7 ∧ bits wd 11 7 = rd ∧ bits wd 19 15 = rs1 ∧ bits wd 24 20 = rs2 := by
    subst hw
    simp (disch := decide) only [bits, lo3, hi3, lo5, hi5, lo7, hi7, slice_all, bit1_one, Nat.reduceSub, Nat.reduceAdd, BitVec.reduceExtractLsb', and_self]
  clear hw
  simp only [parseWord, decodeOp32, h0, h1, h2, h3, h4, h5, BitVec.reduceToNat, BitVec.toNat_ofNat, Nat.reducePow, Nat.reduceMod, BEq.rfl, show (0#1 == 1#1) = false from rfl, Bool.false_eq_true, if_false, Bool.and_self, if_true])

theorem sraw (rd : XReg) (rs1 : XReg) (rs2 : XReg) : Statement (.sraw rd rs1 rs2) := of_parse _ (by
  rw [show encode (.sraw rd rs1 rs2) = 32#7 ++ rs2 ++ rs1 ++ 5#3 ++ rd ++ 59#7 from rfl]
  generalize hw : (32#7 ++ rs2 ++ rs1 ++ 5#3 ++ rd ++ 59#7 : BitVec 32) = wd
  obtain ⟨h0, h1, h2, h3, h4, h5⟩ : bits wd 6 0 = 59#7 ∧ bits wd 14 12 = 5#3 ∧ bits wd 31 25 = 32#7 ∧ bits wd 11 7 = rd ∧ bits wd 19 15 = rs1 ∧ bits wd 24 20 = rs2 := by
    subst hw
    simp (disch := decide) only [bits, lo3, hi3, lo5, hi5, lo7, hi7, slice_all, bit1_one, Nat.reduceSub, Nat.reduceAdd, BitVec.reduceExtractLsb', and_self]
  clear hw
  simp only [parseWord, decodeOp32, h0, h1, h2, h3, h4, h5, BitVec.reduceToNat, BitVec.toNat_ofNat, Nat.reducePow, Nat.reduceMod, BEq.rfl, show (0#1 == 1#1) = false from rfl, Bool.false_eq_true, if_false, Bool.and_self, if_true])

theorem mulw (rd : XReg) (rs1 : XReg) (rs2 : XReg) : Statement (.mulw rd rs1 rs2) := of_parse _ (by
  rw [show encode (.mulw rd rs1 rs2) = 1#7 ++ rs2 ++ rs1 ++ 0#3 ++ rd ++ 59#7 from rfl]
  generalize hw : (1#7 ++ rs2 ++ rs1 ++ 0#3 ++ rd ++ 59#7 : BitVec 32) = wd
  obtain ⟨h0, h1, h2, h3, h4, h5⟩ : bits wd 6 0 = 59#7 ∧ bits wd 14 12 = 0#3 ∧ bits wd 31 25 = 1#7 ∧ bits wd 11 7 = rd ∧ bits wd 19 15 = rs1 ∧ bits wd 24 20 = rs2 := by
    subst hw
    simp (disch := decide) only [bits, lo3, hi3, lo5, hi5, lo7, hi7, slice_all, bit1_one, Nat.reduceSub, Nat.reduceAdd, BitVec.reduceExtractLsb', and_self]
  clear hw
  simp only [parseWord, decodeOp32, h0, h1, h2, h3, h4, h5, BitVec.reduceToNat, BitVec.toNat_ofNat, Nat.reducePow, Nat.reduceMod, BEq.rfl, show (0#1 == 1#1) = false from rfl, Bool.false_eq_true, if_false, Bool.and_self, if_true])

theorem divw (rd : XReg) (rs1 : XReg) (rs2 : XReg) : Statement (.divw rd rs1 rs2) := of_parse _ (by
  rw [show encode (.divw rd rs1 rs2) = 1#7 ++ rs2 ++ rs1 ++ 4#3 ++ rd ++ 59#7 from rfl]
  generalize hw : (1#7 ++ rs2 ++ rs1 ++ 4#3 ++ rd ++ 59#7 : BitVec 32) = wd
  obtain ⟨h0, h1, h2, h3, h4, h5⟩ : bits wd 6 0 = 59#7 ∧ bits wd 14 12 = 4#3 ∧ bits wd 31 25 = 1#7 ∧ bits wd 11 7 = rd ∧ bits wd 19 15 = rs1 ∧ bits wd 24 20 = rs2 := by
    subst hw
    simp (disch := decide) only [bits, lo3, hi3, lo5, hi5, lo7, hi7, slice_all, bit1_one, Nat.reduceSub, Nat.reduceAdd, BitVec.reduceExtractLsb', and_self]
  clear hw
  simp only [parseWord, decodeOp32, h0, h1, h2, h3, h4, h5, BitVec.reduceToNat, BitVec.toNat_ofNat, Nat.reducePow, Nat.reduceMod, BEq.rfl, show (0#1 == 1#1) = false from rfl, Bool.false_eq_true, if_false, Bool.and_self, if_true])

theorem divuw (rd : XReg) (rs1 : XReg) (rs2 : XReg) : Statement (.divuw rd rs1 rs2) := of_parse _ (by
  rw [show encode (.divuw rd rs1 rs2) = 1#7 ++ rs2 ++ rs1 ++ 5#3 ++ rd ++ 59#7 from rfl]
  generalize hw : (1#7 ++ rs2 ++ rs1 ++ 5#3 ++ rd ++ 59#7 : BitVec 32) = wd
  obtain ⟨h0, h1, h2, h3, h4, h5⟩ : bits wd 6 0 = 59#7 ∧ bits wd 14 12 = 5#3 ∧ bits wd 31 25 = 1#7 ∧ bits wd 11 7 = rd ∧ bits wd 19 15 = rs1 ∧ bits wd 24 20 = rs2 := by
    subst hw
    simp (disch := decide) only [bits, lo3, hi3, lo5, hi5, lo7, hi7, slice_all, bit1_one, Nat.reduceSub, Nat.reduceAdd, BitVec.reduceExtractLsb', and_self]
  clear hw
  simp only [parseWord, decodeOp32, h0, h1, h2, h3, h4, h5, BitVec.reduceToNat, BitVec.toNat_ofNat, Nat.reducePow, Nat.reduceMod, BEq.rfl, show (0#1 == 1#1) = false from rfl, Bool.false_eq_true, if_false, Bool.and_self, if_true])

theorem remw (rd : XReg) (rs1 : XReg) (rs2 : XReg) : Statement (.remw rd rs1 rs2) := of_parse _ (by
  rw [show encode (.remw rd rs1 rs2) = 1#7 ++ rs2 ++ rs1 ++ 6#3 ++ rd ++ 59#7 from rfl]
  generalize hw : (1#7 ++ rs2 ++ rs1 ++ 6#3 ++ rd ++ 59#7 : BitVec 32) = wd
  obtain ⟨h0, h1, h2, h3, h4, h5⟩ : bits wd 6 0 = 59#7 ∧ bits wd 14 12 = 6#3 ∧ bits wd 31 25 = 1#7 ∧ bits wd 11 7 = rd ∧ bits wd 19 15 = rs1 ∧ bits wd 24 20 = rs2 := by
    subst hw
    simp (disch := decide) only [bits, lo3, hi3, lo5, hi5, lo7, hi7, slice_all, bit1_one, Nat.reduceSub, Nat.reduceAdd, BitVec.reduceExtractLsb', and_self]
  clear hw
  simp only [parseWord, decodeOp32, h0, h1, h2, h3, h4, h5, BitVec.reduceToNat, BitVec.toNat_ofNat, Nat.reducePow, Nat.reduceMod, BEq.rfl, show (0#1 == 1#1) = false from rfl, Bool.false_eq_true, if_false, Bool.and_self, if_true])

theorem remuw (rd : XReg) (rs1 : XReg) (rs2 : XReg) : Statement (.remuw rd rs1 rs2) := of_parse _ (by
  rw [show encode (.remuw rd rs1 rs2) = 1#7 ++ rs2 ++ rs1 ++ 7#3 ++ rd ++ 59#7 from rfl]
  generalize hw : (1#7 ++ rs2 ++ rs1 ++ 7#3 ++ rd ++ 59#7 : BitVec 32) = wd
  obtain ⟨h0, h1, h2, h3, h4, h5⟩ : bits wd 6 0 = 59#7 ∧ bits wd 14 12 = 7#3 ∧ bits wd 31 25 = 1#7 ∧ bits wd 11 7 = rd ∧ bits wd 19 15 = rs1 ∧ bits wd 24 20 = rs2 := by
    subst hw
    simp (disch := decide) only [bits, lo3, hi3, lo5, hi5, lo7, hi7, slice_all, bit1_one, Nat.reduceSub, Nat.reduceAdd, BitVec.reduceExtractLsb', and_self]
  clear hw
  simp only [parseWord, decodeOp32, h0, h1, h2, h3, h4, h5, BitVec.reduceToNat, BitVec.toNat_ofNat, Nat.reducePow, Nat.reduceMod, BEq.rfl, show (0#1 == 1#1) = false from rfl, Bool.false_eq_true, if_false, Bool.and_self, if_true])

theorem fence (fm : BitVec 4) (pred : BitVec 4) (succ : BitVec 4) (rs1 : XReg) (rd : XReg) : Statement (.fence fm pred succ rs1 rd) := of_parse _ (by
  rw [show encode (.fence fm pred succ rs1 rd) = fm ++ pred ++ succ ++ rs1 ++ 0#3 ++ rd ++ 15#7 from rfl]
  generalize hw : (fm ++ pred ++ succ ++ rs1 ++ 0#3 ++ rd ++ 15#7 : BitVec 32) = wd
  obtain ⟨h0, h1, h2, h3, h4, h5, h6⟩ : bits wd 6 0 = 15#7 ∧ bits wd 14 12 = 0#3 ∧ bits wd 31 28 = fm ∧ bits wd 27 24 = pred ∧ bits wd 23 20 = succ ∧ bits wd 19 15 = rs1 ∧ bits wd 11 7 = rd := by
    subst hw
    simp (disch := decide) only [bits, lo3, hi3, lo4, hi4, lo5, hi5, lo7, hi7, slice_all, bit1_one, Nat.reduceSub, Nat.reduceAdd, BitVec.reduceExtractLsb', and_self]
  clear hw
  simp only [parseWord, decodeMiscMem, h0, h1, h2, h3, h4, h5, h6, BitVec.reduceToNat, BitVec.toNat_ofNat, Nat.reducePow, Nat.reduceMod, BEq.rfl, show (0#1 == 1#1) = false from rfl, Bool.false_eq_true, if_false, Bool.and_self, if_true])

theorem ecall : Statement .ecall := of_parse _ rfl

theorem ebreak : Statement .ebreak := of_parse _ rfl

theorem csrrw (rd : XReg) (rs1 : XReg) (csr : BitVec 12) : Statement (.csrrw rd rs1 csr) := of_parse _ (by
  rw [show encode (.csrrw rd rs1 csr) = csr ++ rs1 ++ 1#3 ++ rd ++ 115#7 from rfl]
  generalize hw : (csr ++ rs1 ++ 1#3 ++ rd ++ 115#7 : BitVec 32) = wd
  obtain ⟨h0, h1, h2, h3, h4⟩ : bits wd 6 0 = 115#7 ∧ bits wd 14 12 = 1#3 ∧ bits wd 11 7 = rd ∧ bits wd 19 15 = rs1 ∧ bits wd 31 20 = csr := by
    subst hw
    simp (disch := decide) only [bits, lo3, hi3, lo5, hi5, lo7, hi7, lo12, hi12, slice_all, bit1_one, Nat.reduceSub, Nat.reduceAdd, BitVec.reduceExtractLsb', and_self]
  clear hw
  simp only [parseWord, decodeSystem, h0, h1, h2, h3, h4, BitVec.reduceToNat, BitVec.toNat_ofNat, Nat.reducePow, Nat.reduceMod, BEq.rfl, show (0#1 == 1#1) = false from rfl, Bool.false_eq_true, if_false, Bool.and_self, if_true])

theorem csrrs (rd : XReg) (rs1 : XReg) (csr : BitVec 12) : Statement (.csrrs rd rs1 csr) := of_parse _ (by
  rw [show encode (.csrrs rd rs1 csr) = csr ++ rs1 ++ 2#3 ++ rd ++ 115#7 from rfl]
  generalize hw : (csr ++ rs1 ++ 2#3 ++ rd ++ 115#7 : BitVec 32) = wd
  obtain ⟨h0, h1, h2, h3, h4⟩ : bits wd 6 0 = 115#7 ∧ bits wd 14 12 = 2#3 ∧ bits wd 11 7 = rd ∧ bits wd 19 15 = rs1 ∧ bits wd 31 20 = csr := by
    subst hw
    simp (disch := decide) only [bits, lo3, hi3, lo5, hi5, lo7, hi7, lo12, hi12, slice_all, bit1_one, Nat.reduceSub, Nat.reduceAdd, BitVec.reduceExtractLsb', and_self]
  clear hw
  simp only [parseWord, decodeSystem, h0, h1, h2, h3, h4, BitVec.reduceToNat, BitVec.toNat_ofNat, Nat.reducePow, Nat.reduceMod, BEq.rfl, show (0#1 == 1#1) = false from rfl, Bool.false_eq_true, if_false, Bool.and_self, if_true])

theorem csrrc (rd : XReg) (rs1 : XReg) (csr : BitVec 12) : Statement (.csrrc rd rs1 csr) := of_parse _ (by
  rw [show encode (.csrrc rd rs1 csr) = csr ++ rs1 ++ 3#3 ++ rd ++ 115#7 from rfl]
  generalize hw : (csr ++ rs1 ++ 3#3 ++ rd ++ 115#7 : BitVec 32) = wd
  obtain ⟨h0, h1, h2, h3, h4⟩ : bits wd 6 0 = 115#7 ∧ bits wd 14 12 = 3#3 ∧ bits wd 11 7 = rd ∧ bits wd 19 15 = rs1 ∧ bits wd 31 20 = csr := by
    subst hw
    simp (disch := decide) only [bits, lo3, hi3, lo5, hi5, lo7, hi7, lo12, hi12, slice_all, bit1_one, Nat.reduceSub, Nat.reduceAdd, BitVec.reduceExtractLsb', and_self]
  clear hw
  simp only [parseWord, decodeSystem, h0, h1, h2, h3, h4, BitVec.reduceToNat, BitVec.toNat_ofNat, Nat.reducePow, Nat.reduceMod, BEq.rfl, show (0#1 == 1#1) = false from rfl, Bool.false_eq_true, if_false, Bool.and_self, if_true])

theorem csrrwi (rd : XReg) (uimm : BitVec 5) (csr : BitVec 12) : Statement (.csrrwi rd uimm csr) := of_parse _ (by
  rw [show encode (.csrrwi rd uimm csr) = csr ++ uimm ++ 5#3 ++ rd ++ 115#7 from rfl]
  generalize hw : (csr ++ uimm ++ 5#3 ++ rd ++ 115#7 : BitVec 32) = wd
  obtain ⟨h0, h1, h2, h3, h4⟩ : bits wd 6 0 = 115#7 ∧ bits wd 14 12 = 5#3 ∧ bits wd 11 7 = rd ∧ bits wd 19 15 = uimm ∧ bits wd 31 20 = csr := by
    subst hw
    simp (disch := decide) only [bits, lo3, hi3, lo5, hi5, lo7, hi7, lo12, hi12, slice_all, bit1_one, Nat.reduceSub, Nat.reduceAdd, BitVec.reduceExtractLsb', and_self]
  clear hw
  simp only [parseWord, decodeSystem, h0, h1, h2, h3, h4, BitVec.reduceToNat, BitVec.toNat_ofNat, Nat.reducePow, Nat.reduceMod, BEq.rfl, show (0#1 == 1#1) = false from rfl, Bool.false_eq_true, if_false, Bool.and_self, if_true])

theorem csrrsi (rd : XReg) (uimm : BitVec 5) (csr : BitVec 12) : Statement (.csrrsi rd uimm csr) := of_parse _ (by
  rw [show encode (.csrrsi rd uimm csr) = csr ++ uimm ++ 6#3 ++ rd ++ 115#7 from rfl]
  generalize hw : (csr ++ uimm ++ 6#3 ++ rd ++ 115#7 : BitVec 32) = wd
  obtain ⟨h0, h1, h2, h3, h4⟩ : bits wd 6 0 = 115#7 ∧ bits wd 14 12 = 6#3 ∧ bits wd 11 7 = rd ∧ bits wd 19 15 = uimm ∧ bits wd 31 20 = csr := by
    subst hw
    simp (disch := decide) only [bits, lo3, hi3, lo5, hi5, lo7, hi7, lo12, hi12, slice_all, bit1_one, Nat.reduceSub, Nat.reduceAdd, BitVec.reduceExtractLsb', and_self]
  clear hw
  simp only [parseWord, decodeSystem, h0, h1, h2, h3, h4, BitVec.reduceToNat, BitVec.toNat_ofNat, Nat.reducePow, Nat.reduceMod, BEq.rfl, show (0#1 == 1#1) = false from rfl, Bool.false_eq_true, if_false, Bool.and_self, if_true])

theorem csrrci (rd : XReg) (uimm : BitVec 5) (csr : BitVec 12) : Statement (.csrrci rd uimm csr) := of_parse _ (by
  rw [show encode (.csrrci rd uimm csr) = csr ++ uimm ++ 7#3 ++ rd ++ 115#7 from rfl]
  generalize hw : (csr ++ uimm ++ 7#3 ++ rd ++ 115#7 : BitVec 32) = wd
  obtain ⟨h0, h1, h2, h3, h4⟩ : bits wd 6 0 = 115#7 ∧ bits wd 14 12 = 7#3 ∧ bits wd 11 7 = rd ∧ bits wd 19 15 = uimm ∧ bits wd 31 20 = csr := by
    subst hw
    simp (disch := decide) only [bits, lo3, hi3, lo5, hi5, lo7, hi7, lo12, hi12, slice_all, bit1_one, Nat.reduceSub, Nat.reduceAdd, BitVec.reduceExtractLsb', and_self]
  clear hw
  simp only [parseWord, decodeSystem, h0, h1, h2, h3, h4, BitVec.reduceToNat, BitVec.toNat_ofNat, Nat.reducePow, Nat.reduceMod, BEq.rfl, show (0#1 == 1#1) = false from rfl, Bool.false_eq_true, if_false, Bool.and_self, if_true])

theorem lrW (aq : Bool) (rl : Bool) (rd : XReg) (rs1 : XReg) : Statement (.lrW aq rl rd rs1) := of_parse _ (by
  rw [show encode (.lrW aq rl rd rs1) = 2#5 ++ (bit1 aq) ++ (bit1 rl) ++ 0#5 ++ rs1 ++ 2#3 ++ rd ++ 47#7 from rfl]
  generalize hw : (2#5 ++ (bit1 aq) ++ (bit1 rl) ++ 0#5 ++ rs1 ++ 2#3 ++ rd ++ 47#7 : BitVec 32) = wd
  obtain ⟨h0, h1, h2, h3, h4, h5, h6, h7⟩ : bits wd 6 0 = 47#7 ∧ bits wd 14 12 = 2#3 ∧ bits wd 31 27 = 2#5 ∧ bits wd 24 20 = 0#5 ∧ (bits wd 26 26 == 1#1) = aq ∧ (bits wd 25 25 == 1#1) = rl ∧ bits wd 11 7 = rd ∧ bits wd 19 15 = rs1 := by
    subst hw
    simp (disch := decide) only [bits, lo1, hi1, lo3, hi3, lo5, hi5, lo7, hi7, slice_all, bit1_one, Nat.reduceSub, Nat.reduceAdd, BitVec.reduceExtractLsb', and_self]
  clear hw
  simp only [parseWord, decodeAmo, h0, h1, h2, h3, h4, h5, h6, h7, BitVec.reduceToNat, BitVec.toNat_ofNat, Nat.reducePow, Nat.reduceMod, BEq.rfl, show (0#1 == 1#1) = false from rfl, Bool.false_eq_true, if_false, Bool.and_self, if_true])

theorem scW (aq : Bool) (rl : Bool) (rd : XReg) (rs1 : XReg) (rs2 : XReg) : Statement (.scW aq rl rd rs1 rs2) := of_parse _ (by
  rw [show encode (.scW aq rl rd rs1 rs2) = 3#5 ++ (bit1 aq) ++ (bit1 rl) ++ rs2 ++ rs1 ++ 2#3 ++ rd ++ 47#7 from rfl]
  generalize hw : (3#5 ++ (bit1 aq) ++ (bit1 rl) ++ rs2 ++ rs1 ++ 2#3 ++ rd ++ 47#7 : BitVec 32) = wd
  obtain ⟨h0, h1, h2, h3, h4, h5, h6, h7⟩ : bits wd 6 0 = 47#7 ∧ bits wd 14 12 = 2#3 ∧ bits wd 31 27 = 3#5 ∧ (bits wd 26 26 == 1#1) = aq ∧ (bits wd 25 25 == 1#1) = rl ∧ bits wd 11 7 = rd ∧ bits wd 19 15 = rs1 ∧ bits wd 24 20 = rs2 := by
    subst hw
    simp (disch := decide) only [bits, lo1, hi1, lo3, hi3, lo5, hi5, lo7, hi7, slice_all, bit1_one, Nat.reduceSub, Nat.reduceAdd, BitVec.reduceExtractLsb', and_self]
  clear hw
  simp only [parseWord, decodeAmo, h0, h1, h2, h3, h4, h5, h6, h7, BitVec.reduceToNat, BitVec.toNat_ofNat, Nat.reducePow, Nat.reduceMod, BEq.rfl, show (0#1 == 1#1) = false from rfl, Bool.false_eq_true, if_false, Bool.and_self, if_true])

theorem amoswapW (aq : Bool) (rl : Bool) (rd : XReg) (rs1 : XReg) (rs2 : XReg) : Statement (.amoswapW aq rl rd rs1 rs2) := of_parse _ (by
  rw [show encode (.amoswapW aq rl rd rs1 rs2) = 1#5 ++ (bit1 aq) ++ (bit1 rl) ++ rs2 ++ rs1 ++ 2#3 ++ rd ++ 47#7 from rfl]
  generalize hw : (1#5 ++ (bit1 aq) ++ (bit1 rl) ++ rs2 ++ rs1 ++ 2#3 ++ rd ++ 47#7 : BitVec 32) = wd
  obtain ⟨h0, h1, h2, h3, h4, h5, h6, h7⟩ : bits wd 6 0 = 47#7 ∧ bits wd 14 12 = 2#3 ∧ bits wd 31 27 = 1#5 ∧ (bits wd 26 26 == 1#1) = aq ∧ (bits wd 25 25 == 1#1) = rl ∧ bits wd 11 7 = rd ∧ bits wd 19 15 = rs1 ∧ bits wd 24 20 = rs2 := by
    subst hw
    simp (disch := decide) only [bits, lo1, hi1, lo3, hi3, lo5, hi5, lo7, hi7, slice_all, bit1_one, Nat.reduceSub, Nat.reduceAdd, BitVec.reduceExtractLsb', and_self]
  clear hw
  simp only [parseWord, decodeAmo, h0, h1, h2, h3, h4, h5, h6, h7, BitVec.reduceToNat, BitVec.toNat_ofNat, Nat.reducePow, Nat.reduceMod, BEq.rfl, show (0#1 == 1#1) = false from rfl, Bool.false_eq_true, if_false, Bool.and_self, if_true])

theorem amoaddW (aq : Bool) (rl : Bool) (rd : XReg) (rs1 : XReg) (rs2 : XReg) : Statement (.amoaddW aq rl rd rs1 rs2) := of_parse _ (by
  rw [show encode (.amoaddW aq rl rd rs1 rs2) = 0#5 ++ (bit1 aq) ++ (bit1 rl) ++ rs2 ++ rs1 ++ 2#3 ++ rd ++ 47#7 from rfl]
  generalize hw : (0#5 ++ (bit1 aq) ++ (bit1 rl) ++ rs2 ++ rs1 ++ 2#3 ++ rd ++ 47#7 : BitVec 32) = wd
  obtain ⟨h0, h1, h2, h3, h4, h5, h6, h7⟩ : bits wd 6 0 = 47#7 ∧ bits wd 14 12 = 2#3 ∧ bits wd 31 27 = 0#5 ∧ (bits wd 26 26 == 1#1) = aq ∧ (bits wd 25 25 == 1#1) = rl ∧ bits wd 11 7 = rd ∧ bits wd 19 15 = rs1 ∧ bits wd 24 20 = rs2 := by
    subst hw
    simp (disch := decide) only [bits, lo1, hi1, lo3, hi3, lo5, hi5, lo7, hi7, slice_all, bit1_one, Nat.reduceSub, Nat.reduceAdd, BitVec.reduceExtractLsb', and_self]
  clear hw
  simp only [parseWord, decodeAmo, h0, h1, h2, h3, h4, h5, h6, h7, BitVec.reduceToNat, BitVec.toNat_ofNat, Nat.reducePow, Nat.reduceMod, BEq.rfl, show (0#1 == 1#1) = false from rfl, Bool.false_eq_true, if_false, Bool.and_self, if_true])

theorem amoxorW (aq : Bool) (rl : Bool) (rd : XReg) (rs1 : XReg) (rs2 : XReg) : Statement (.amoxorW aq rl rd rs1 rs2) := of_parse _ (by
  rw [show encode (.amoxorW aq rl rd rs1 rs2) = 4#5 ++ (bit1 aq) ++ (bit1 rl) ++ rs2 ++ rs1 ++ 2#3 ++ rd ++ 47#7 from rfl]
  generalize hw : (4#5 ++ (bit1 aq) ++ (bit1 rl) ++ rs2 ++ rs1 ++ 2#3 ++ rd ++ 47#7 : BitVec 32) = wd
  obtain ⟨h0, h1, h2, h3, h4, h5, h6, h7⟩ : bits wd 6 0 = 47#7 ∧ bits wd 14 12 = 2#3 ∧ bits wd 31 27 = 4#5 ∧ (bits wd 26 26 == 1#1) = aq ∧ (bits wd 25 25 == 1#1) = rl ∧ bits wd 11 7 = rd ∧ bits wd 19 15 = rs1 ∧ bits wd 24 20 = rs2 := by
    subst hw
    simp (disch := decide) only [bits, lo1, hi1, lo3, hi3, lo5, hi5, lo7, hi7, slice_all, bit1_one, Nat.reduceSub, Nat.reduceAdd, BitVec.reduceExtractLsb', and_self]
  clear hw
  simp only [parseWord, decodeAmo, h0, h1, h2, h3, h4, h5, h6, h7, BitVec.reduceToNat, BitVec.toNat_ofNat, Nat.reducePow, Nat.reduceMod, BEq.rfl, show (0#1 == 1#1) = false from rfl, Bool.false_eq_true, if_false, Bool.and_self, if_true])

theorem amoandW (aq : Bool) (rl : Bool) (rd : XReg) (rs1 : XReg) (rs2 : XReg) : Statement (.amoandW aq rl rd rs1 rs2) := of_parse _ (by
  rw [show encode (.amoandW aq rl rd rs1 rs2) = 12#5 ++ (bit1 aq) ++ (bit1 rl) ++ rs2 ++ rs1 ++ 2#3 ++ rd ++ 47#7 from rfl]
  generalize hw : (12#5 ++ (bit1 aq) ++ (bit1 rl) ++ rs2 ++ rs1 ++ 2#3 ++ rd ++ 47#7 : BitVec 32) = wd
  obtain ⟨h0, h1, h2, h3, h4, h5, h6, h7⟩ : bits wd 6 0 = 47#7 ∧ bits wd 14 12 = 2#3 ∧ bits wd 31 27 = 12#5 ∧ (bits wd 26 26 == 1#1) = aq ∧ (bits wd 25 25 == 1#1) = rl ∧ bits wd 11 7 = rd ∧ bits wd 19 15 = rs1 ∧ bits wd 24 20 = rs2 := by
    subst hw
    simp (disch := decide) only [bits, lo1, hi1, lo3, hi3, lo5, hi5, lo7, hi7, slice_all, bit1_one, Nat.reduceSub, Nat.reduceAdd, BitVec.reduceExtractLsb', and_self]
  clear hw
  simp only [parseWord, decodeAmo, h0, h1, h2, h3, h4, h5, h6, h7, BitVec.reduceToNat, BitVec.toNat_ofNat, Nat.reducePow, Nat.reduceMod, BEq.rfl, show (0#1 == 1#1) = false from rfl, Bool.false_eq_true, if_false, Bool.and_self, if_true])

theorem amoorW (aq : Bool) (rl : Bool) (rd : XReg) (rs1 : XReg) (rs2 : XReg) : Statement (.amoorW aq rl rd rs1 rs2) := of_parse _ (by
  rw [show encode (.amoorW aq rl rd rs1 rs2) = 8#5 ++ (bit1 aq) ++ (bit1 rl) ++ rs2 ++ rs1 ++ 2#3 ++ rd ++ 47#7 from rfl]
  generalize hw : (8#5 ++ (bit1 aq) ++ (bit1 rl) ++ rs2 ++ rs1 ++ 2#3 ++ rd ++ 47#7 : BitVec 32) = wd
  obtain ⟨h0, h1, h2, h3, h4, h5, h6, h7⟩ : bits wd 6 0 = 47#7 ∧ bits wd 14 12 = 2#3 ∧ bits wd 31 27 = 8#5 ∧ (bits wd 26 26 == 1#1) = aq ∧ (bits wd 25 25 == 1#1) = rl ∧ bits wd 11 7 = rd ∧ bits wd 19 15 = rs1 ∧ bits wd 24 20 = rs2 := by
    subst hw
    simp (disch := decide) only [bits, lo1, hi1, lo3, hi3, lo5, hi5, lo7, hi7, slice_all, bit1_one, Nat.reduceSub, Nat.reduceAdd, BitVec.reduceExtractLsb', and_self]
  clear hw
  simp only [parseWord, decodeAmo, h0, h1, h2, h3, h4, h5, h6, h7, BitVec.reduceToNat, BitVec.toNat_ofNat, Nat.reducePow, Nat.reduceMod, BEq.rfl, show (0#1 == 1#1) = false from rfl, Bool.false_eq_true, if_false, Bool.and_self, if_true])

theorem amominW (aq : Bool) (rl : Bool) (rd : XReg) (rs1 : XReg) (rs2 : XReg) : Statement (.amominW aq rl rd rs1 rs2) := of_parse _ (by
  rw [show encode (.amominW aq rl rd rs1 rs2) = 16#5 ++ (bit1 aq) ++ (bit1 rl) ++ rs2 ++ rs1 ++ 2#3 ++ rd ++ 47#7 from rfl]
  generalize hw : (16#5 ++ (bit1 aq) ++ (bit1 rl) ++ rs2 ++ rs1 ++ 2#3 ++ rd ++ 47#7 : BitVec 32) = wd
  obtain ⟨h0, h1, h2, h3, h4, h5, h6, h7⟩ : bits wd 6 0 = 47#7 ∧ bits wd 14 12 = 2#3 ∧ bits wd 31 27 = 16#5 ∧ (bits wd 26 26 == 1#1) = aq ∧ (bits wd 25 25 == 1#1) = rl ∧ bits wd 11 7 = rd ∧ bits wd 19 15 = rs1 ∧ bits wd 24 20 = rs2 := by
    subst hw
    simp (disch := decide) only [bits, lo1, hi1, lo3, hi3, lo5, hi5, lo7, hi7, slice_all, bit1_one, Nat.reduceSub, Nat.reduceAdd, BitVec.reduceExtractLsb', and_self]
  clear hw
  simp only [parseWord, decodeAmo, h0, h1, h2, h3, h4, h5, h6, h7, BitVec.reduceToNat, BitVec.toNat_ofNat, Nat.reducePow, Nat.reduceMod, BEq.rfl, show (0#1 == 1#1) = false from rfl, Bool.false_eq_true, if_false, Bool.and_self, if_true])

theorem amomaxW (aq : Bool) (rl : Bool) (rd : XReg) (rs1 : XReg) (rs2 : XReg) : Statement (.amomaxW aq rl rd rs1 rs2) := of_parse _ (by
  rw [show encode (.amomaxW aq rl rd rs1 rs2) = 20#5 ++ (bit1 aq) ++ (bit1 rl) ++ rs2 ++ rs1 ++ 2#3 ++ rd ++ 47#7 from rfl]
  generalize hw : (20#5 ++ (bit1 aq) ++ (bit1 rl) ++ rs2 ++ rs1 ++ 2#3 ++ rd ++ 47#7 : BitVec 32) = wd
  obtain ⟨h0, h1, h2, h3, h4, h5, h6, h7⟩ : bits wd 6 0 = 47#7 ∧ bits wd 14 12 = 2#3 ∧ bits wd 31 27 = 20#5 ∧ (bits wd 26 26 == 1#1) = aq ∧ (bits wd 25 25 == 1#1) = rl ∧ bits wd 11 7 = rd ∧ bits wd 19 15 = rs1 ∧ bits wd 24 20 = rs2 := by
    subst hw
    simp (disch := decide) only [bits, lo1, hi1, lo3, hi3, lo5, hi5, lo7, hi7, slice_all, bit1_one, Nat.reduceSub, Nat.reduceAdd, BitVec.reduceExtractLsb', and_self]
  clear hw
  simp only [parseWord, decodeAmo, h0, h1, h2, h3, h4, h5, h6, h7, BitVec.reduceToNat, BitVec.toNat_ofNat, Nat.reducePow, Nat.reduceMod, BEq.rfl, show (0#1 == 1#1) = false from rfl, Bool.false_eq_true, if_false, Bool.and_self, if_true])

theorem amominuW (aq : Bool) (rl : Bool) (rd : XReg) (rs1 : XReg) (rs2 : XReg) : Statement (.amominuW aq rl rd rs1 rs2) := of_parse _ (by
  rw [show encode (.amominuW aq rl rd rs1 rs2) = 24#5 ++ (bit1 aq) ++ (bit1 rl) ++ rs2 ++ rs1 ++ 2#3 ++ rd ++ 47#7 from rfl]
  generalize hw : (24#5 ++ (bit1 aq) ++ (bit1 rl) ++ rs2 ++ rs1 ++ 2#3 ++ rd ++ 47#7 : BitVec 32) = wd
  obtain ⟨h0, h1, h2, h3, h4, h5, h6, h7⟩ : bits wd 6 0 = 47#7 ∧ bits wd 14 12 = 2#3 ∧ bits wd 31 27 = 24#5 ∧ (bits wd 26 26 == 1#1) = aq ∧ (bits wd 25 25 == 1#1) = rl ∧ bits wd 11 7 = rd ∧ bits wd 19 15 = rs1 ∧ bits wd 24 20 = rs2 := by
    subst hw
    simp (disch := decide) only [bits, lo1, hi1, lo3, hi3, lo5, hi5, lo7, hi7, slice_all, bit1_one, Nat.reduceSub, Nat.reduceAdd, BitVec.reduceExtractLsb', and_self]
  clear hw
  simp only [parseWord, decodeAmo, h0, h1, h2, h3, h4, h5, h6, h7, BitVec.reduceToNat, BitVec.toNat_ofNat, Nat.reducePow, Nat.reduceMod, BEq.rfl, show (0#1 == 1#1) = false from rfl, Bool.false_eq_true, if_false, Bool.and_self, if_true])

theorem amomaxuW (aq : Bool) (rl : Bool) (rd : XReg) (rs1 : XReg) (rs2 : XReg) : Statement (.amomaxuW aq rl rd rs1 rs2) := of_parse _ (by
  rw [show encode (.amomaxuW aq rl rd rs1 rs2) = 28#5 ++ (bit1 aq) ++ (bit1 rl) ++ rs2 ++ rs1 ++ 2#3 ++ rd ++ 47#7 from rfl]
  generalize hw : (28#5 ++ (bit1 aq) ++ (bit1 rl) ++ rs2 ++ rs1 ++ 2#3 ++ rd ++ 47#7 : BitVec 32) = wd
  obtain ⟨h0, h1, h2, h3, h4, h5, h6, h7⟩ : bits wd 6 0 = 47#7 ∧ bits wd 14 12 = 2#3 ∧ bits wd 31 27 = 28#5 ∧ (bits wd 26 26 == 1#1) = aq ∧ (bits wd 25 25 == 1#1) = rl ∧ bits wd 11 7 = rd ∧ bits wd 19 15 = rs1 ∧ bits wd 24 20 = rs2 := by
    subst hw
    simp (disch := decide) only [bits, lo1, hi1, lo3, hi3, lo5, hi5, lo7, hi7, slice_all, bit1_one, Nat.reduceSub, Nat.reduceAdd, BitVec.reduceExtractLsb', and_self]
  clear hw
  simp only [parseWord, decodeAmo, h0, h1, h2, h3, h4, h5, h6, h7, BitVec.reduceToNat, BitVec.toNat_ofNat, Nat.reducePow, Nat.reduceMod, BEq.rfl, show (0#1 == 1#1) = false from rfl, Bool.false_eq_true, if_false, Bool.and_self, if_true])

theorem lrD (aq : Bool) (rl : Bool) (rd : XReg) (rs1 : XReg) : Statement (.lrD aq rl rd rs1) := of_parse _ (by
  rw [show encode (.lrD aq rl rd rs1) = 2#5 ++ (bit1 aq) ++ (bit1 rl) ++ 0#5 ++ rs1 ++ 3#3 ++ rd ++ 47#7 from rfl]
  generalize hw : (2#5 ++ (bit1 aq) ++ (bit1 rl) ++ 0#5 ++ rs1 ++ 3#3 ++ rd ++ 47#7 : BitVec 32) = wd
  obtain ⟨h0, h1, h2, h3, h4, h5, h6, h7⟩ : bits wd 6 0 = 47#7 ∧ bits wd 14 12 = 3#3 ∧ bits wd 31 27 = 2#5 ∧ bits wd 24 20 = 0#5 ∧ (bits wd 26 26 == 1#1) = aq ∧ (bits wd 25 25 == 1#1) = rl ∧ bits wd 11 7 = rd ∧ bits wd 19 15 = rs1 := by
    subst hw
    simp (disch := decide) only [bits, lo1, hi1, lo3, hi3, lo5, hi5, lo7, hi7, slice_all, bit1_one, Nat.reduceSub, Nat.reduceAdd, BitVec.reduceExtractLsb', and_self]
  clear hw
  simp only [parseWord, decodeAmo, h0, h1, h2, h3, h4, h5, h6, h7, BitVec.reduceToNat, BitVec.toNat_ofNat, Nat.reducePow, Nat.reduceMod, BEq.rfl, show (0#1 == 1#1) = false from rfl, Bool.false_eq_true, if_false, Bool.and_self, if_true])

theorem scD (aq : Bool) (rl : Bool) (rd : XReg) (rs1 : XReg) (rs2 : XReg) : Statement (.scD aq rl rd rs1 rs2) := of_parse _ (by
  rw [show encode (.scD aq rl rd rs1 rs2) = 3#5 ++ (bit1 aq) ++ (bit1 rl) ++ rs2 ++ rs1 ++ 3#3 ++ rd ++ 47#7 from rfl]
  generalize hw : (3#5 ++ (bit1 aq) ++ (bit1 rl) ++ rs2 ++ rs1 ++ 3#3 ++ rd ++ 47#7 : BitVec 32) = wd
  obtain ⟨h0, h1, h2, h3, h4, h5, h6, h7⟩ : bits wd 6 0 = 47#7 ∧ bits wd 14 12 = 3#3 ∧ bits wd 31 27 = 3#5 ∧ (bits wd 26 26 == 1#1) = aq ∧ (bits wd 25 25 == 1#1) = rl ∧ bits wd 11 7 = rd ∧ bits wd 19 15 = rs1 ∧ bits wd 24 20 = rs2 := by
    subst hw
    simp (disch := decide) only [bits, lo1, hi1, lo3, hi3, lo5, hi5, lo7, hi7, slice_all, bit1_one, Nat.reduceSub, Nat.reduceAdd, BitVec.reduceExtractLsb', and_self]
  clear hw
  simp only [parseWord, decodeAmo, h0, h1, h2, h3, h4, h5, h6, h7, BitVec.reduceToNat, BitVec.toNat_ofNat, Nat.reducePow, Nat.reduceMod, BEq.rfl, show (0#1 == 1#1) = false from rfl, Bool.false_eq_true, if_false, Bool.and_self, if_true])

theorem amoswapD (aq : Bool) (rl : Bool) (rd : XReg) (rs1 : XReg) (rs2 : XReg) : Statement (.amoswapD aq rl rd rs1 rs2) := of_parse _ (by
  rw [show encode (.amoswapD aq rl rd rs1 rs2) = 1#5 ++ (bit1 aq) ++ (bit1 rl) ++ rs2 ++ rs1 ++ 3#3 ++ rd ++ 47#7 from rfl]
  generalize hw : (1#5 ++ (bit1 aq) ++ (bit1 rl) ++ rs2 ++ rs1 ++ 3#3 ++ rd ++ 47#7 : BitVec 32) = wd
  obtain ⟨h0, h1, h2, h3, h4, h5, h6, h7⟩ : bits wd 6 0 = 47#7 ∧ bits wd 14 12 = 3#3 ∧ bits wd 31 27 = 1#5 ∧ (bits wd 26 26 == 1#1) = aq ∧ (bits wd 25 25 == 1#1) = rl ∧ bits wd 11 7 = rd ∧ bits wd 19 15 = rs1 ∧ bits wd 24 20 = rs2 := by
    subst hw
    simp (disch := decide) only [bits, lo1, hi1, lo3, hi3, lo5, hi5, lo7, hi7, slice_all, bit1_one, Nat.reduceSub, Nat.reduceAdd, BitVec.reduceExtractLsb', and_self]
  clear hw
  simp only [parseWord, decodeAmo, h0, h1, h2, h3, h4, h5, h6, h7, BitVec.reduceToNat, BitVec.toNat_ofNat, Nat.reducePow, Nat.reduceMod, BEq.rfl, show (0#1 == 1#1) = false from rfl, Bool.false_eq_true, if_false, Bool.and_self, if_true])

theorem amoaddD (aq : Bool) (rl : Bool) (rd : XReg) (rs1 : XReg) (rs2 : XReg) : Statement (.amoaddD aq rl rd rs1 rs2) := of_parse _ (by
  rw [show encode (.amoaddD aq rl rd rs1 rs2) = 0#5 ++ (bit1 aq) ++ (bit1 rl) ++ rs2 ++ rs1 ++ 3#3 ++ rd ++ 47#7 from rfl]
  generalize hw : (0#5 ++ (bit1 aq) ++ (bit1 rl) ++ rs2 ++ rs1 ++ 3#3 ++ rd ++ 47#7 : BitVec 32) = wd
  obtain ⟨h0, h1, h2, h3, h4, h5, h6, h7⟩ : bits wd 6 0 = 47#7 ∧ bits wd 14 12 = 3#3 ∧ bits wd 31 27 = 0#5 ∧ (bits wd 26 26 == 1#1) = aq ∧ (bits wd 25 25 == 1#1) = rl ∧ bits wd 11 7 = rd ∧ bits wd 19 15 = rs1 ∧ bits wd 24 20 = rs2 := by
    subst hw
    simp (disch := decide) only [bits, lo1, hi1, lo3, hi3, lo5, hi5, lo7, hi7, slice_all, bit1_one, Nat.reduceSub, Nat.reduceAdd, BitVec.reduceExtractLsb', and_self]
  clear hw
  simp only [parseWord, decodeAmo, h0, h1, h2, h3, h4, h5, h6, h7, BitVec.reduceToNat, BitVec.toNat_ofNat, Nat.reducePow, Nat.reduceMod, BEq.rfl, show (0#1 == 1#1) = false from rfl, Bool.false_eq_true, if_false, Bool.and_self, if_true])

theorem amoxorD (aq : Bool) (rl : Bool) (rd : XReg) (rs1 : XReg) (rs2 : XReg) : Statement (.amoxorD aq rl rd rs1 rs2) := of_parse _ (by
  rw [show encode (.amoxorD aq rl rd rs1 rs2) = 4#5 ++ (bit1 aq) ++ (bit1 rl) ++ rs2 ++ rs1 ++ 3#3 ++ rd ++ 47#7 from rfl]
  generalize hw : (4#5 ++ (bit1 aq) ++ (bit1 rl) ++ rs2 ++ rs1 ++ 3#3 ++ rd ++ 47#7 : BitVec 32) = wd
  obtain ⟨h0, h1, h2, h3, h4, h5, h6, h7⟩ : bits wd 6 0 = 47#7 ∧ bits wd 14 12 = 3#3 ∧ bits wd 31 27 = 4#5 ∧ (bits wd 26 26 == 1#1) = aq ∧ (bits wd 25 25 == 1#1) = rl ∧ bits wd 11 7 = rd ∧ bits wd 19 15 = rs1 ∧ bits wd 24 20 = rs2 := by
    subst hw
    simp (disch := decide) only [bits, lo1, hi1, lo3, hi3, lo5, hi5, lo7, hi7, slice_all, bit1_one, Nat.reduceSub, Nat.reduceAdd, BitVec.reduceExtractLsb', and_self]
  clear hw
  simp only [parseWord, decodeAmo, h0, h1, h2, h3, h4, h5, h6, h7, BitVec.reduceToNat, BitVec.toNat_ofNat, Nat.reducePow, Nat.reduceMod, BEq.rfl, show (0#1 == 1#1) = false from rfl, Bool.false_eq_true, if_false, Bool.and_self, if_true])

theorem amoandD (aq : Bool) (rl : Bool) (rd : XReg) (rs1 : XReg) (rs2 : XReg) : Statement (.amoandD aq rl rd rs1 rs2) := of_parse _ (by
  rw [show encode (.amoandD aq rl rd rs1 rs2) = 12#5 ++ (bit1 aq) ++ (bit1 rl) ++ rs2 ++ rs1 ++ 3#3 ++ rd ++ 47#7 from rfl]
  generalize hw : (12#5 ++ (bit1 aq) ++ (bit1 rl) ++ rs2 ++ rs1 ++ 3#3 ++ rd ++ 47#7 : BitVec 32) = wd
  obtain ⟨h0, h1, h2, h3, h4, h5, h6, h7⟩ : bits wd 6 0 = 47#7 ∧ bits wd 14 12 = 3#3 ∧ bits wd 31 27 = 12#5 ∧ (bits wd 26 26 == 1#1) = aq ∧ (bits wd 25 25 == 1#1) = rl ∧ bits wd 11 7 = rd ∧ bits wd 19 15 = rs1 ∧ bits wd 24 20 = rs2 := by
    subst hw
    simp (disch := decide) only [bits, lo1, hi1, lo3, hi3, lo5, hi5, lo7, hi7, slice_all, bit1_one, Nat.reduceSub, Nat.reduceAdd, BitVec.reduceExtractLsb', and_self]
  clear hw
  simp only [parseWord, decodeAmo, h0, h1, h2, h3, h4, h5, h6, h7, BitVec.reduceToNat, BitVec.toNat_ofNat, Nat.reducePow, Nat.reduceMod, BEq.rfl, show (0#1 == 1#1) = false from rfl, Bool.false_eq_true, if_false, Bool.and_self, if_true])

theorem amoorD (aq : Bool) (rl : Bool) (rd : XReg) (rs1 : XReg) (rs2 : XReg) : Statement (.amoorD aq rl rd rs1 rs2) := of_parse _ (by
  rw [show encode (.amoorD aq rl rd rs1 rs2) = 8#5 ++ (bit1 aq) ++ (bit1 rl) ++ rs2 ++ rs1 ++ 3#3 ++ rd ++ 47#7 from rfl]
  generalize hw : (8#5 ++ (bit1 aq) ++ (bit1 rl) ++ rs2 ++ rs1 ++ 3#3 ++ rd ++ 47#7 : BitVec 32) = wd
  obtain ⟨h0, h1, h2, h3, h4, h5, h6, h7⟩ : bits wd 6 0 = 47#7 ∧ bits wd 14 12 = 3#3 ∧ bits wd 31 27 = 8#5 ∧ (bits wd 26 26 == 1#1) = aq ∧ (bits wd 25 25 == 1#1) = rl ∧ bits wd 11 7 = rd ∧ bits wd 19 15 = rs1 ∧ bits wd 24 20 = rs2 := by
    subst hw
    simp (disch := decide) only [bits, lo1, hi1, lo3, hi3, lo5, hi5, lo7, hi7, slice_all, bit1_one, Nat.reduceSub, Nat.reduceAdd, BitVec.reduceExtractLsb', and_self]
  clear hw
  simp only [parseWord, decodeAmo, h0, h1, h2, h3, h4, h5, h6, h7, BitVec.reduceToNat, BitVec.toNat_ofNat, Nat.reducePow, Nat.reduceMod, BEq.rfl, show (0#1 == 1#1) = false from rfl, Bool.false_eq_true, if_false, Bool.and_self, if_true])

theorem amominD (aq : Bool) (rl : Bool) (rd : XReg) (rs1 : XReg) (rs2 : XReg) : Statement (.amominD aq rl rd rs1 rs2) := of_parse _ (by
  rw [show encode (.amominD aq rl rd rs1 rs2) = 16#5 ++ (bit1 aq) ++ (bit1 rl) ++ rs2 ++ rs1 ++ 3#3 ++ rd ++ 47#7 from rfl]
  generalize hw : (16#5 ++ (bit1 aq) ++ (bit1 rl) ++ rs2 ++ rs1 ++ 3#3 ++ rd ++ 47#7 : BitVec 32) = wd
  obtain ⟨h0, h1, h2, h3, h4, h5, h6, h7⟩ : bits wd 6 0 = 47#7 ∧ bits wd 14 12 = 3#3 ∧ bits wd 31 27 = 16#5 ∧ (bits wd 26 26 == 1#1) = aq ∧ (bits wd 25 25 == 1#1) = rl ∧ bits wd 11 7 = rd ∧ bits wd 19 15 = rs1 ∧ bits wd 24 20 = rs2 := by
    subst hw
    simp (disch := decide) only [bits, lo1, hi1, lo3, hi3, lo5, hi5, lo7, hi7, slice_all, bit1_one, Nat.reduceSub, Nat.reduceAdd, BitVec.reduceExtractLsb', and_self]
  clear hw
  simp only [parseWord, decodeAmo, h0, h1, h2, h3, h4, h5, h6, h7, BitVec.reduceToNat, BitVec.toNat_ofNat, Nat.reducePow, Nat.reduceMod, BEq.rfl, show (0#1 == 1#1) = false from rfl, Bool.false_eq_true, if_false, Bool.and_self, if_true])

theorem amomaxD (aq : Bool) (rl : Bool) (rd : XReg) (rs1 : XReg) (rs2 : XReg) : Statement (.amomaxD aq rl rd rs1 rs2) := of_parse _ (by
  rw [show encode (.amomaxD aq rl rd rs1 rs2) = 20#5 ++ (bit1 aq) ++ (bit1 rl) ++ rs2 ++ rs1 ++ 3#3 ++ rd ++ 47#7 from rfl]
  generalize hw : (20#5 ++ (bit1 aq) ++ (bit1 rl) ++ rs2 ++ rs1 ++ 3#3 ++ rd ++ 47#7 : BitVec 32) = wd
  obtain ⟨h0, h1, h2, h3, h4, h5, h6, h7⟩ : bits wd 6 0 = 47#7 ∧ bits wd 14 12 = 3#3 ∧ bits wd 31 27 = 20#5 ∧ (bits wd 26 26 == 1#1) = aq ∧ (bits wd 25 25 == 1#1) = rl ∧ bits wd 11 7 = rd ∧ bits wd 19 15 = rs1 ∧ bits wd 24 20 = rs2 := by
    subst hw
    simp (disch := decide) only [bits, lo1, hi1, lo3, hi3, lo5, hi5, lo7, hi7, slice_all, bit1_one, Nat.reduceSub, Nat.reduceAdd, BitVec.reduceExtractLsb', and_self]
  clear hw
  simp only [parseWord, decodeAmo, h0, h1, h2, h3, h4, h5, h6, h7, BitVec.reduceToNat, BitVec.toNat_ofNat, Nat.reducePow, Nat.reduceMod, BEq.rfl, show (0#1 == 1#1) = false from rfl, Bool.false_eq_true, if_false, Bool.and_self, if_true])

theorem amominuD (aq : Bool) (rl : Bool) (rd : XReg) (rs1 : XReg) (rs2 : XReg) : Statement (.amominuD aq rl rd rs1 rs2) := of_parse _ (by
  rw [show encode (.amominuD aq rl rd rs1 rs2) = 24#5 ++ (bit1 aq) ++ (bit1 rl) ++ rs2 ++ rs1 ++ 3#3 ++ rd ++ 47#7 from rfl]
  generalize hw : (24#5 ++ (bit1 aq) ++ (bit1 rl) ++ rs2 ++ rs1 ++ 3#3 ++ rd ++ 47#7 : BitVec 32) = wd
  obtain ⟨h0, h1, h2, h3, h4, h5, h6, h7⟩ : bits wd 6 0 = 47#7 ∧ bits wd 14 12 = 3#3 ∧ bits wd 31 27 = 24#5 ∧ (bits wd 26 26 == 1#1) = aq ∧ (bits wd 25 25 == 1#1) = rl ∧ bits wd 11 7 = rd ∧ bits wd 19 15 = rs1 ∧ bits wd 24 20 = rs2 := by
    subst hw
    simp (disch := decide) only [bits, lo1, hi1, lo3, hi3, lo5, hi5, lo7, hi7, slice_all, bit1_one, Nat.reduceSub, Nat.reduceAdd, BitVec.reduceExtractLsb', and_self]
  clear hw
  simp only [parseWord, decodeAmo, h0, h1, h2, h3, h4, h5, h6, h7, BitVec.reduceToNat, BitVec.toNat_ofNat, Nat.reducePow, Nat.reduceMod, BEq.rfl, show (0#1 == 1#1) = false from rfl, Bool.false_eq_true, if_false, Bool.and_self, if_true])

theorem amomaxuD (aq : Bool) (rl : Bool) (rd : XReg) (rs1 : XReg) (rs2 : XReg) : Statement (.amomaxuD aq rl rd rs1 rs2) := of_parse _ (by
  rw [show encode (.amomaxuD aq rl rd rs1 rs2) = 28#5 ++ (bit1 aq) ++ (bit1 rl) ++ rs2 ++ rs1 ++ 3#3 ++ rd ++ 47#7 from rfl]
  generalize hw : (28#5 ++ (bit1 aq) ++ (bit1 rl) ++ rs2 ++ rs1 ++ 3#3 ++ rd ++ 47#7 : BitVec 32) = wd
  obtain ⟨h0, h1, h2, h3, h4, h5, h6, h7⟩ : bits wd 6 0 = 47#7 ∧ bits wd 14 12 = 3#3 ∧ bits wd 31 27 = 28#5 ∧ (bits wd 26 26 == 1#1) = aq ∧ (bits wd 25 25 == 1#1) = rl ∧ bits wd 11 7 = rd ∧ bits wd 19 15 = rs1 ∧ bits wd 24 20 = rs2 := by
    subst hw
    simp (disch := decide) only [bits, lo1, hi1, lo3, hi3, lo5, hi5, lo7, hi7, slice_all, bit1_one, Nat.reduceSub, Nat.reduceAdd, BitVec.reduceExtractLsb', and_self]
  clear hw
  simp only [parseWord, decodeAmo, h0, h1, h2, h3, h4, h5, h6, h7, BitVec.reduceToNat, BitVec.toNat_ofNat, Nat.reducePow, Nat.reduceMod, BEq.rfl, show (0#1 == 1#1) = false from rfl, Bool.false_eq_true, if_false, Bool.and_self, if_true])

theorem fld (fd : FReg) (rs1 : XReg) (imm : BitVec 12) : Statement (.fld fd rs1 imm) := of_parse _ (by
  rw [show encode (.fld fd rs1 imm) = imm ++ rs1 ++ 3#3 ++ fd ++ 7#7 from rfl]
  generalize hw : (imm ++ rs1 ++ 3#3 ++ fd ++ 7#7 : BitVec 32) = wd
  obtain ⟨h0, h1, h2, h3, h4⟩ : bits wd 6 0 = 7#7 ∧ bits wd 14 12 = 3#3 ∧ bits wd 11 7 = fd ∧ bits wd 19 15 = rs1 ∧ bits wd 31 20 = imm := by
    subst hw
    simp (disch := decide) only [bits, lo3, hi3, lo5, hi5, lo7, hi7, lo12, hi12, slice_all, bit1_one, Nat.reduceSub, Nat.reduceAdd, BitVec.reduceExtractLsb', and_self]
  clear hw
  simp only [parseWord, decodeLoadFp, h0, h1, h2, h3, h4, BitVec.reduceToNat, BitVec.toNat_ofNat, Nat.reducePow, Nat.reduceMod, BEq.rfl, show (0#1 == 1#1) = false from rfl, Bool.false_eq_true, if_false, Bool.and_self, if_true])

theorem fsd (rs1 : XReg) (fs2 : FReg) (imm : BitVec 12) : Statement (.fsd rs1 fs2 imm) := of_parse _ (by
  rw [show encode (.fsd rs1 fs2 imm) = (imm.extractLsb' 5 7) ++ fs2 ++ rs1 ++ 3#3 ++ (imm.extractLsb' 0 5) ++ 39#7 from rfl]
  generalize hw : ((imm.extractLsb' 5 7) ++ fs2 ++ rs1 ++ 3#3 ++ (imm.extractLsb' 0 5) ++ 39#7 : BitVec 32) = wd
  obtain ⟨h0, h1, h2, h3, h4, h5⟩ : bits wd 6 0 = 39#7 ∧ bits wd 14 12 = 3#3 ∧ bits wd 19 15 = rs1 ∧ bits wd 24 20 = fs2 ∧ bits wd 31 25 = imm.extractLsb' 5 7 ∧ bits wd 11 7 = imm.extractLsb' 0 5 := by
    subst hw
    simp (disch := decide) only [bits, lo3, hi3, lo5, hi5, lo7, hi7, slice_all, bit1_one, Nat.reduceSub, Nat.reduceAdd, BitVec.reduceExtractLsb', and_self]
  have j0 : (bits wd 31 25 ++ bits wd 11 7 : BitVec 12) = imm := by rw [h4, h5]; exact join_store imm
  clear hw
  simp only [parseWord, decodeStoreFp, h0, h1, h2, h3, j0, BitVec.reduceToNat, BitVec.toNat_ofNat, Nat.reducePow, Nat.reduceMod, BEq.rfl, show (0#1 == 1#1) = false from rfl, Bool.false_eq_true, if_false, Bool.and_self, if_true])

theorem fmaddD (fd : FReg) (fs1 : FReg) (fs2 : FReg) (fs3 : FReg) (rm : BitVec 3) : Statement (.fmaddD fd fs1 fs2 fs3 rm) := of_parse _ (by
  rw [show encode (.fmaddD fd fs1 fs2 fs3 rm) = fs3 ++ 1#2 ++ fs2 ++ fs1 ++ rm ++ fd ++ 67#7 from rfl]
  generalize hw : (fs3 ++ 1#2 ++ fs2 ++ fs1 ++ rm ++ fd ++ 67#7 : BitVec 32) = wd
  obtain ⟨h0, h1, h2, h3, h4, h5, h6⟩ : bits wd 6 0 = 67#7 ∧ bits wd 26 25 = 1#2 ∧ bits wd 11 7 = fd ∧ bits wd 19 15 = fs1 ∧ bits wd 24 20 = fs2 ∧ bits wd 31 27 = fs3 ∧ bits wd 14 12 = rm := by
    subst hw
    simp (disch := decide) only [bits, lo2, hi2, lo3, hi3, lo5, hi5, lo7, hi7, slice_all, bit1_one, Nat.reduceSub, Nat.reduceAdd, BitVec.reduceExtractLsb', and_self]
  clear hw
  simp only [parseWord, decodeMadd, h0, h1, h2, h3, h4, h5, h6, BitVec.reduceToNat, BitVec.toNat_ofNat, Nat.reducePow, Nat.reduceMod, BEq.rfl, show (0#1 == 1#1) = false from rfl, Bool.false_eq_true, if_false, Bool.and_self, if_true])

theorem fmsubD (fd : FReg) (fs1 : FReg) (fs2 : FReg) (fs3 : FReg) (rm : BitVec 3) : Statement (.fmsubD fd fs1 fs2 fs3 rm) := of_parse _ (by
  rw [show encode (.fmsubD fd fs1 fs2 fs3 rm) = fs3 ++ 1#2 ++ fs2 ++ fs1 ++ rm ++ fd ++ 71#7 from rfl]
  generalize hw : (fs3 ++ 1#2 ++ fs2 ++ fs1 ++ rm ++ fd ++ 71#7 : BitVec 32) = wd
  obtain ⟨h0, h1, h2, h3, h4, h5, h6⟩ : bits wd 6 0 = 71#7 ∧ bits wd 26 25 = 1#2 ∧ bits wd 11 7 = fd ∧ bits wd 19 15 = fs1 ∧ bits wd 24 20 = fs2 ∧ bits wd 31 27 = fs3 ∧ bits wd 14 12 = rm := by
    subst hw
    simp (disch := decide) only [bits, lo2, hi2, lo3, hi3, lo5, hi5, lo7, hi7, slice_all, bit1_one, Nat.reduceSub, Nat.reduceAdd, BitVec.reduceExtractLsb', and_self]
  clear hw
  simp only [parseWord, decodeMsub, h0, h1, h2, h3, h4, h5, h6, BitVec.reduceToNat, BitVec.toNat_ofNat, Nat.reducePow, Nat.reduceMod, BEq.rfl, show (0#1 == 1#1) = false from rfl, Bool.false_eq_true, if_false, Bool.and_self, if_true])

theorem fnmsubD (fd : FReg) (fs1 : FReg) (fs2 : FReg) (fs3 : FReg) (rm : BitVec 3) : Statement (.fnmsubD fd fs1 fs2 fs3 rm) := of_parse _ (by
  rw [show encode (.fnmsubD fd fs1 fs2 fs3 rm) = fs3 ++ 1#2 ++ fs2 ++ fs1 ++ rm ++ fd ++ 75#7 from rfl]
  generalize hw : (fs3 ++ 1#2 ++ fs2 ++ fs1 ++ rm ++ fd ++ 75#7 : BitVec 32) = wd
  obtain ⟨h0, h1, h2, h3, h4, h5, h6⟩ : bits wd 6 0 = 75#7 ∧ bits wd 26 25 = 1#2 ∧ bits wd 11 7 = fd ∧ bits wd 19 15 = fs1 ∧ bits wd 24 20 = fs2 ∧ bits wd 31 27 = fs3 ∧ bits wd 14 12 = rm := by
    subst hw
    simp (disch := decide) only [bits, lo2, hi2, lo3, hi3, lo5, hi5, lo7, hi7, slice_all, bit1_one, Nat.reduceSub, Nat.reduceAdd, BitVec.reduceExtractLsb', and_self]
  clear hw
  simp only [parseWord, decodeNmsub, h0, h1, h2, h3, h4, h5, h6, BitVec.reduceToNat, BitVec.toNat_ofNat, Nat.reducePow, Nat.reduceMod, BEq.rfl, show (0#1 == 1#1) = false from rfl, Bool.false_eq_true, if_false, Bool.and_self, if_true])

theorem fnmaddD (fd : FReg) (fs1 : FReg) (fs2 : FReg) (fs3 : FReg) (rm : BitVec 3) : Statement (.fnmaddD fd fs1 fs2 fs3 rm) := of_parse _ (by
  rw [show encode (.fnmaddD fd fs1 fs2 fs3 rm) = fs3 ++ 1#2 ++ fs2 ++ fs1 ++ rm ++ fd ++ 79#7 from rfl]
  generalize hw : (fs3 ++ 1#2 ++ fs2 ++ fs1 ++ rm ++ fd ++ 79#7 : BitVec 32) = wd
  obtain ⟨h0, h1, h2, h3, h4, h5, h6⟩ : bits wd 6 0 = 79#7 ∧ bits wd 26 25 = 1#2 ∧ bits wd 11 7 = fd ∧ bits wd 19 15 = fs1 ∧ bits wd 24 20 = fs2 ∧ bits wd 31 27 = fs3 ∧ bits wd 14 12 = rm := by
    subst hw
    simp (disch := decide) only [bits, lo2, hi2, lo3, hi3, lo5, hi5, lo7, hi7, slice_all, bit1_one, Nat.reduceSub, Nat.reduceAdd, BitVec.reduceExtractLsb', and_self]
  clear hw
  simp only [parseWord, decodeNmadd, h0, h1, h2, h3, h4, h5, h6, BitVec.reduceToNat, BitVec.toNat_ofNat, Nat.reducePow, Nat.reduceMod, BEq.rfl, show (0#1 == 1#1) = false from rfl, Bool.false_eq_true, if_false, Bool.and_self, if_true])

theorem faddD (fd : FReg) (fs1 : FReg) (fs2 : FReg) (rm : BitVec 3) : Statement (.faddD fd fs1 fs2 rm) := of_parse _ (by
  rw [show encode (.faddD fd fs1 fs2 rm) = 1#7 ++ fs2 ++ fs1 ++ rm ++ fd ++ 83#7 from rfl]
  generalize hw : (1#7 ++ fs2 ++ fs1 ++ rm ++ fd ++ 83#7 : BitVec 32) = wd
  obtain ⟨h0, h1, h2, h3, h4, h5⟩ : bits wd 6 0 = 83#7 ∧ bits wd 31 25 = 1#7 ∧ bits wd 11 7 = fd ∧ bits wd 19 15 = fs1 ∧ bits wd 24 20 = fs2 ∧ bits wd 14 12 = rm := by
    subst hw
    simp (disch := decide) only [bits, lo3, hi3, lo5, hi5, lo7, hi7, slice_all, bit1_one, Nat.reduceSub, Nat.reduceAdd, BitVec.reduceExtractLsb', and_self]
  clear hw
  simp only [parseWord, decodeOpFp, h0, h1, h2, h3, h4, h5, BitVec.reduceToNat, BitVec.toNat_ofNat, Nat.reducePow, Nat.reduceMod, BEq.rfl, show (0#1 == 1#1) = false from rfl, Bool.false_eq_true, if_false, Bool.and_self, if_true])

theorem fsubD (fd : FReg) (fs1 : FReg) (fs2 : FReg) (rm : BitVec 3) : Statement (.fsubD fd fs1 fs2 rm) := of_parse _ (by
  rw [show encode (.fsubD fd fs1 fs2 rm) = 5#7 ++ fs2 ++ fs1 ++ rm ++ fd ++ 83#7 from rfl]
  generalize hw : (5#7 ++ fs2 ++ fs1 ++ rm ++ fd ++ 83#7 : BitVec 32) = wd
  obtain ⟨h0, h1, h2, h3, h4, h5⟩ : bits wd 6 0 = 83#7 ∧ bits wd 31 25 = 5#7 ∧ bits wd 11 7 = fd ∧ bits wd 19 15 = fs1 ∧ bits wd 24 20 = fs2 ∧ bits wd 14 12 = rm := by
    subst hw
    simp (disch := decide) only [bits, lo3, hi3, lo5, hi5, lo7, hi7, slice_all, bit1_one, Nat.reduceSub, Nat.reduceAdd, BitVec.reduceExtractLsb', and_self]
  clear hw
  simp only [parseWord, decodeOpFp, h0, h1, h2, h3, h4, h5, BitVec.reduceToNat, BitVec.toNat_ofNat, Nat.reducePow, Nat.reduceMod, BEq.rfl, show (0#1 == 1#1) = false from rfl, Bool.false_eq_true, if_false, Bool.and_self, if_true])

theorem fmulD (fd : FReg) (fs1 : FReg) (fs2 : FReg) (rm : BitVec 3) : Statement (.fmulD fd fs1 fs2 rm) := of_parse _ (by
  rw [show encode (.fmulD fd fs1 fs2 rm) = 9#7 ++ fs2 ++ fs1 ++ rm ++ fd ++ 83#7 from rfl]
  generalize hw : (9#7 ++ fs2 ++ fs1 ++ rm ++ fd ++ 83#7 : BitVec 32) = wd
  obtain ⟨h0, h1, h2, h3, h4, h5⟩ : bits wd 6 0 = 83#7 ∧ bits wd 31 25 = 9#7 ∧ bits wd 11 7 = fd ∧ bits wd 19 15 = fs1 ∧ bits wd 24 20 = fs2 ∧ bits wd 14 12 = rm := by
    subst hw
    simp (disch := decide) only [bits, lo3, hi3, lo5, hi5, lo7, hi7, slice_all, bit1_one, Nat.reduceSub, Nat.reduceAdd, BitVec.reduceExtractLsb', and_self]
  clear hw
  simp only [parseWord, decodeOpFp, h0, h1, h2, h3, h4, h5, BitVec.reduceToNat, BitVec.toNat_ofNat, Nat.reducePow, Nat.reduceMod, BEq.rfl, show (0#1 == 1#1) = false from rfl, Bool.false_eq_true, if_false, Bool.and_self, if_true])

theorem fdivD (fd : FReg) (fs1 : FReg) (fs2 : FReg) (rm : BitVec 3) : Statement (.fdivD fd fs1 fs2 rm) := of_parse _ (by
  rw [show encode (.fdivD fd fs1 fs2 rm) = 13#7 ++ fs2 ++ fs1 ++ rm ++ fd ++ 83#7 from rfl]
  generalize hw : (13#7 ++ fs2 ++ fs1 ++ rm ++ fd ++ 83#7 : BitVec 32) = wd
  obtain ⟨h0, h1, h2, h3, h4, h5⟩ : bits wd 6 0 = 83#7 ∧ bits wd 31 25 = 13#7 ∧ bits wd 11 7 = fd ∧ bits wd 19 15 = fs1 ∧ bits wd 24 20 = fs2 ∧ bits wd 14 12 = rm := by
    subst hw
    simp (disch := decide) only [bits, lo3, hi3, lo5, hi5, lo7, hi7, slice_all, bit1_one, Nat.reduceSub, Nat.reduceAdd, BitVec.reduceExtractLsb', and_self]
  clear hw
  simp only [parseWord, decodeOpFp, h0, h1, h2, h3, h4, h5, BitVec.reduceToNat, BitVec.toNat_ofNat, Nat.reducePow, Nat.reduceMod, BEq.rfl, show (0#1 == 1#1) = false from rfl, Bool.false_eq_true, if_false, Bool.and_self, if_true])

theorem fsqrtD (fd : FReg) (fs1 : FReg) (rm : BitVec 3) : Statement (.fsqrtD fd fs1 rm) := of_parse _ (by
  rw [show encode (.fsqrtD fd fs1 rm) = 1440#12 ++ fs1 ++ rm ++ fd ++ 83#7 from rfl]
  generalize hw : (1440#12 ++ fs1 ++ rm ++ fd ++ 83#7 : BitVec 32) = wd
  obtain ⟨h0, h1, h2, h3, h4, h5⟩ : bits wd 6 0 = 83#7 ∧ bits wd 31 25 = 45#7 ∧ bits wd 24 20 = 0#5 ∧ bits wd 11 7 = fd ∧ bits wd 19 15 = fs1 ∧ bits wd 14 12 = rm := by
    subst hw
    simp (disch := decide) only [bits, lo3, hi3, lo5, hi5, lo7, hi7, lo12, hi12, slice_all, bit1_one, Nat.reduceSub, Nat.reduceAdd, BitVec.reduceExtractLsb', and_self]
  clear hw
  simp only [parseWord, decodeOpFp, h0, h1, h2, h3, h4, h5, BitVec.reduceToNat, BitVec.toNat_ofNat, Nat.reducePow, Nat.reduceMod, BEq.rfl, show (0#1 == 1#1) = false from rfl, Bool.false_eq_true, if_false, Bool.and_self, if_true])

theorem fsgnjD (fd : FReg) (fs1 : FReg) (fs2 : FReg) : Statement (.fsgnjD fd fs1 fs2) := of_parse _ (by
  rw [show encode (.fsgnjD fd fs1 fs2) = 17#7 ++ fs2 ++ fs1 ++ 0#3 ++ fd ++ 83#7 from rfl]
  generalize hw : (17#7 ++ fs2 ++ fs1 ++ 0#3 ++ fd ++ 83#7 : BitVec 32) = wd
  obtain ⟨h0, h1, h2, h3, h4, h5⟩ : bits wd 6 0 = 83#7 ∧ bits wd 31 25 = 17#7 ∧ bits wd 14 12 = 0#3 ∧ bits wd 11 7 = fd ∧ bits wd 19 15 = fs1 ∧ bits wd 24 20 = fs2 := by
    subst hw
    simp (disch := decide) only [bits, lo3, hi3, lo5, hi5, lo7, hi7, slice_all, bit1_one, Nat.reduceSub, Nat.reduceAdd, BitVec.reduceExtractLsb', and_self]
  clear hw
  simp only [parseWord, decodeOpFp, h0, h1, h2, h3, h4, h5, BitVec.reduceToNat, BitVec.toNat_ofNat, Nat.reducePow, Nat.reduceMod, BEq.rfl, show (0#1 == 1#1) = false from rfl, Bool.false_eq_true, if_false, Bool.and_self, if_true])

theorem fsgnjnD (fd : FReg) (fs1 : FReg) (fs2 : FReg) : Statement (.fsgnjnD fd fs1 fs2) := of_parse _ (by
  rw [show encode (.fsgnjnD fd fs1 fs2) = 17#7 ++ fs2 ++ fs1 ++ 1#3 ++ fd ++ 83#7 from rfl]
  generalize hw : (17#7 ++ fs2 ++ fs1 ++ 1#3 ++ fd ++ 83#7 : BitVec 32) = wd
  obtain ⟨h0, h1, h2, h3, h4, h5⟩ : bits wd 6 0 = 83#7 ∧ bits wd 31 25 = 17#7 ∧ bits wd 14 12 = 1#3 ∧ bits wd 11 7 = fd ∧ bits wd 19 15 = fs1 ∧ bits wd 24 20 = fs2 := by
    subst hw
    simp (disch := decide) only [bits, lo3, hi3, lo5, hi5, lo7, hi7, slice_all, bit1_one, Nat.reduceSub, Nat.reduceAdd, BitVec.reduceExtractLsb', and_self]
  clear hw
  simp only [parseWord, decodeOpFp, h0, h1, h2, h3, h4, h5, BitVec.reduceToNat, BitVec.toNat_ofNat, Nat.reducePow, Nat.reduceMod, BEq.rfl, show (0#1 == 1#1) = false from rfl, Bool.false_eq_true, if_false, Bool.and_self, if_true])

theorem fsgnjxD (fd : FReg) (fs1 : FReg) (fs2 : FReg) : Statement (.fsgnjxD fd fs1 fs2) := of_parse _ (by
  rw [show encode (.fsgnjxD fd fs1 fs2) = 17#7 ++ fs2 ++ fs1 ++ 2#3 ++ fd ++ 83#7 from rfl]
  generalize hw : (17#7 ++ fs2 ++ fs1 ++ 2#3 ++ fd ++ 83#7 : BitVec 32) = wd
  obtain ⟨h0, h1, h2, h3, h4, h5⟩ : bits wd 6 0 = 83#7 ∧ bits wd 31 25 = 17#7 ∧ bits wd 14 12 = 2#3 ∧ bits wd 11 7 = fd ∧ bits wd 19 15 = fs1 ∧ bits wd 24 20 = fs2 := by
    subst hw
    simp (disch := decide) only [bits, lo3, hi3, lo5, hi5, lo7, hi7, slice_all, bit1_one, Nat.reduceSub, Nat.reduceAdd, BitVec.reduceExtractLsb', and_self]
  clear hw
  simp only [parseWord, decodeOpFp, h0, h1, h2, h3, h4, h5, BitVec.reduceToNat, BitVec.toNat_ofNat, Nat.reducePow, Nat.reduceMod, BEq.rfl, show (0#1 == 1#1) = false from rfl, Bool.false_eq_true, if_false, Bool.and_self, if_true])

theorem fminD (fd : FReg) (fs1 : FReg) (fs2 : FReg) : Statement (.fminD fd fs1 fs2) := of_parse _ (by
  rw [show encode (.fminD fd fs1 fs2) = 21#7 ++ fs2 ++ fs1 ++ 0#3 ++ fd ++ 83#7 from rfl]
  generalize hw : (21#7 ++ fs2 ++ fs1 ++ 0#3 ++ fd ++ 83#7 : BitVec 32) = wd
  obtain ⟨h0, h1, h2, h3, h4, h5⟩ : bits wd 6 0 = 83#7 ∧ bits wd 31 25 = 21#7 ∧ bits wd 14 12 = 0#3 ∧ bits wd 11 7 = fd ∧ bits wd 19 15 = fs1 ∧ bits wd 24 20 = fs2 := by
    subst hw
    simp (disch := decide) only [bits, lo3, hi3, lo5, hi5, lo7, hi7, slice_all, bit1_one, Nat.reduceSub, Nat.reduceAdd, BitVec.reduceExtractLsb', and_self]
  clear hw
  simp only [parseWord, decodeOpFp, h0, h1, h2, h3, h4, h5, BitVec.reduceToNat, BitVec.toNat_ofNat, Nat.reducePow, Nat.reduceMod, BEq.rfl, show (0#1 == 1#1) = false from rfl, Bool.false_eq_true, if_false, Bool.and_self, if_true])

theorem fmaxD (fd : FReg) (fs1 : FReg) (fs2 : FReg) : Statement (.fmaxD fd fs1 fs2) := of_parse _ (by
  rw [show encode (.fmaxD fd fs1 fs2) = 21#7 ++ fs2 ++ fs1 ++ 1#3 ++ fd ++ 83#7 from rfl]
  generalize hw : (21#7 ++ fs2 ++ fs1 ++ 1#3 ++ fd ++ 83#7 : BitVec 32) = wd
  obtain ⟨h0, h1, h2, h3, h4, h5⟩ : bits wd 6 0 = 83#7 ∧ bits wd 31 25 = 21#7 ∧ bits wd 14 12 = 1#3 ∧ bits wd 11 7 = fd ∧ bits wd 19 15 = fs1 ∧ bits wd 24 20 = fs2 := by
    subst hw
    simp (disch := decide) only [bits, lo3, hi3, lo5, hi5, lo7, hi7, slice_all, bit1_one, Nat.reduceSub, Nat.reduceAdd, BitVec.reduceExtractLsb', and_self]
  clear hw
  simp only [parseWord, decodeOpFp, h0, h1, h2, h3, h4, h5, BitVec.reduceToNat, BitVec.toNat_ofNat, Nat.reducePow, Nat.reduceMod, BEq.rfl, show (0#1 == 1#1) = false from rfl, Bool.false_eq_true, if_false, Bool.and_self, if_true])

theorem fleD (rd : XReg) (fs1 : FReg) (fs2 : FReg) : Statement (.fleD rd fs1 fs2) := of_parse _ (by
  rw [show encode (.fleD rd fs1 fs2) = 81#7 ++ fs2 ++ fs1 ++ 0#3 ++ rd ++ 83#7 from rfl]
  generalize hw : (81#7 ++ fs2 ++ fs1 ++ 0#3 ++ rd ++ 83#7 : BitVec 32) = wd
  obtain ⟨h0, h1, h2, h3, h4, h5⟩ : bits wd 6 0 = 83#7 ∧ bits wd 31 25 = 81#7 ∧ bits wd 14 12 = 0#3 ∧ bits wd 11 7 = rd ∧ bits wd 19 15 = fs1 ∧ bits wd 24 20 = fs2 := by
    subst hw
    simp (disch := decide) only [bits, lo3, hi3, lo5, hi5, lo7, hi7, slice_all, bit1_one, Nat.reduceSub, Nat.reduceAdd, BitVec.reduceExtractLsb', and_self]
  clear hw
  simp only [parseWord, decodeOpFp, h0, h1, h2, h3, h4, h5, BitVec.reduceToNat, BitVec.toNat_ofNat, Nat.reducePow, Nat.reduceMod, BEq.rfl, show (0#1 == 1#1) = false from rfl, Bool.false_eq_true, if_false, Bool.and_self, if_true])

theorem fltD (rd : XReg) (fs1 : FReg) (fs2 : FReg) : Statement (.fltD rd fs1 fs2) := of_parse _ (by
  rw [show encode (.fltD rd fs1 fs2) = 81#7 ++ fs2 ++ fs1 ++ 1#3 ++ rd ++ 83#7 from rfl]
  generalize hw : (81#7 ++ fs2 ++ fs1 ++ 1#3 ++ rd ++ 83#7 : BitVec 32) = wd
  obtain ⟨h0, h1, h2, h3, h4, h5⟩ : bits wd 6 0 = 83#7 ∧ bits wd 31 25 = 81#7 ∧ bits wd 14 12 = 1#3 ∧ bits wd 11 7 = rd ∧ bits wd 19 15 = fs1 ∧ bits wd 24 20 = fs2 := by
    subst hw
    simp (disch := decide) only [bits, lo3, hi3, lo5, hi5, lo7, hi7, slice_all, bit1_one, Nat.reduceSub, Nat.reduceAdd, BitVec.reduceExtractLsb', and_self]
  clear hw
  simp only [parseWord, decodeOpFp, h0, h1, h2, h3, h4, h5, BitVec.reduceToNat, BitVec.toNat_ofNat, Nat.reducePow, Nat.reduceMod, BEq.rfl, show (0#1 == 1#1) = false from rfl, Bool.false_eq_true, if_false, Bool.and_self, if_true])

theorem feqD (rd : XReg) (fs1 : FReg) (fs2 : FReg) : Statement (.feqD rd fs1 fs2) := of_parse _ (by
  rw [show encode (.feqD rd fs1 fs2) = 81#7 ++ fs2 ++ fs1 ++ 2#3 ++ rd ++ 83#7 from rfl]
  generalize hw : (81#7 ++ fs2 ++ fs1 ++ 2#3 ++ rd ++ 83#7 : BitVec 32) = wd
  obtain ⟨h0, h1, h2, h3, h4, h5⟩ : bits wd 6 0 = 83#7 ∧ bits wd 31 25 = 81#7 ∧ bits wd 14 12 = 2#3 ∧ bits wd 11 7 = rd ∧ bits wd 19 15 = fs1 ∧ bits wd 24 20 = fs2 := by
    subst hw
    simp (disch := decide) only [bits, lo3, hi3, lo5, hi5, lo7, hi7, slice_all, bit1_one, Nat.reduceSub, Nat.reduceAdd, BitVec.reduceExtractLsb', and_self]
  clear hw
  simp only [parseWord, decodeOpFp, h0, h1, h2, h3, h4, h5, BitVec.reduceToNat, BitVec.toNat_ofNat, Nat.reducePow, Nat.reduceMod, BEq.rfl, show (0#1 == 1#1) = false from rfl, Bool.false_eq_true, if_false, Bool.and_self, if_true])

theorem fclassD (rd : XReg) (fs1 : FReg) : Statement (.fclassD rd fs1) := of_parse _ (by
  rw [show encode (.fclassD rd fs1) = 3616#12 ++ fs1 ++ 1#3 ++ rd ++ 83#7 from rfl]
  generalize hw : (3616#12 ++ fs1 ++ 1#3 ++ rd ++ 83#7 : BitVec 32) = wd
  obtain ⟨h0, h1, h2, h3, h4, h5⟩ : bits wd 6 0 = 83#7 ∧ bits wd 31 25 = 113#7 ∧ bits wd 24 20 = 0#5 ∧ bits wd 14 12 = 1#3 ∧ bits wd 11 7 = rd ∧ bits wd 19 15 = fs1 := by
    subst hw
    simp (disch := decide) only [bits, lo3, hi3, lo5, hi5, lo7, hi7, lo12, hi12, slice_all, bit1_one, Nat.reduceSub, Nat.reduceAdd, BitVec.reduceExtractLsb', and_self]
  clear hw
  simp only [parseWord, decodeOpFp, h0, h1, h2, h3, h4, h5, BitVec.reduceToNat, BitVec.toNat_ofNat, Nat.reducePow, Nat.reduceMod, BEq.rfl, show (0#1 == 1#1) = false from rfl, Bool.false_eq_true, if_false, Bool.and_self, if_true])

theorem fmvXD (rd : XReg) (fs1 : FReg) : Statement (.fmvXD rd fs1) := of_parse _ (by
  rw [show encode (.fmvXD rd fs1) = 3616#12 ++ fs1 ++ 0#3 ++ rd ++ 83#7 from rfl]
  generalize hw : (3616#12 ++ fs1 ++ 0#3 ++ rd ++ 83#7 : BitVec 32) = wd
  obtain ⟨h0, h1, h2, h3, h4, h5⟩ : bits wd 6 0 = 83#7 ∧ bits wd 31 25 = 113#7 ∧ bits wd 24 20 = 0#5 ∧ bits wd 14 12 = 0#3 ∧ bits wd 11 7 = rd ∧ bits wd 19 15 = fs1 := by
    subst hw
    simp (disch := decide) only [bits, lo3, hi3, lo5, hi5, lo7, hi7, lo12, hi12, slice_all, bit1_one, Nat.reduceSub, Nat.reduceAdd, BitVec.reduceExtractLsb', and_self]
  clear hw
  simp only [parseWord, decodeOpFp, h0, h1, h2, h3, h4, h5, BitVec.reduceToNat, BitVec.toNat_ofNat, Nat.reducePow, Nat.reduceMod, BEq.rfl, show (0#1 == 1#1) = false from rfl, Bool.false_eq_true, if_false, Bool.and_self, if_true])

theorem fmvDX (fd : FReg) (rs1 : XReg) : Statement (.fmvDX fd rs1) := of_parse _ (by
  rw [show encode (.fmvDX fd rs1) = 3872#12 ++ rs1 ++ 0#3 ++ fd ++ 83#7 from rfl]
  generalize hw : (3872#12 ++ rs1 ++ 0#3 ++ fd ++ 83#7 : BitVec 32) = wd
  obtain ⟨h0, h1, h2, h3, h4, h5⟩ : bits wd 6 0 = 83#7 ∧ bits wd 31 25 = 121#7 ∧ bits wd 24 20 = 0#5 ∧ bits wd 14 12 = 0#3 ∧ bits wd 11 7 = fd ∧ bits wd 19 15 = rs1 := by
    subst hw
    simp (disch := decide) only [bits, lo3, hi3, lo5, hi5, lo7, hi7, lo12, hi12, slice_all, bit1_one, Nat.reduceSub, Nat.reduceAdd, BitVec.reduceExtractLsb', and_self]
  clear hw
  simp only [parseWord, decodeOpFp, h0, h1, h2, h3, h4, h5, BitVec.reduceToNat, BitVec.toNat_ofNat, Nat.reducePow, Nat.reduceMod, BEq.rfl, show (0#1 == 1#1) = false from rfl, Bool.false_eq_true, if_false, Bool.and_self, if_true])

theorem fcvtWD (rd : XReg) (fs1 : FReg) (rm : BitVec 3) : Statement (.fcvtWD rd fs1 rm) := of_parse _ (by
  rw [show encode (.fcvtWD rd fs1 rm) = 3104#12 ++ fs1 ++ rm ++ rd ++ 83#7 from rfl]
  generalize hw : (3104#12 ++ fs1 ++ rm ++ rd ++ 83#7 : BitVec 32) = wd
  obtain ⟨h0, h1, h2, h3, h4, h5⟩ : bits wd 6 0 = 83#7 ∧ bits wd 31 25 = 97#7 ∧ bits wd 24 20 = 0#5 ∧ bits wd 11 7 = rd ∧ bits wd 19 15 = fs1 ∧ bits wd 14 12 = rm := by
    subst hw
    simp (disch := decide) only [bits, lo3, hi3, lo5, hi5, lo7, hi7, lo12, hi12, slice_all, bit1_one, Nat.reduceSub, Nat.reduceAdd, BitVec.reduceExtractLsb', and_self]
  clear hw
  simp only [parseWord, decodeOpFp, h0, h1, h2, h3, h4, h5, BitVec.reduceToNat, BitVec.toNat_ofNat, Nat.reducePow, Nat.reduceMod, BEq.rfl, show (0#1 == 1#1) = false from rfl, Bool.false_eq_true, if_false, Bool.and_self, if_true])

theorem fcvtWuD (rd : XReg) (fs1 : FReg) (rm : BitVec 3) : Statement (.fcvtWuD rd fs1 rm) := of_parse _ (by
  rw [show encode (.fcvtWuD rd fs1 rm) = 3105#12 ++ fs1 ++ rm ++ rd ++ 83#7 from rfl]
  generalize hw : (3105#12 ++ fs1 ++ rm ++ rd ++ 83#7 : BitVec 32) = wd
  obtain ⟨h0, h1, h2, h3, h4, h5⟩ : bits wd 6 0 = 83#7 ∧ bits wd 31 25 = 97#7 ∧ bits wd 24 20 = 1#5 ∧ bits wd 11 7 = rd ∧ bits wd 19 15 = fs1 ∧ bits wd 14 12 = rm := by
    subst hw
    simp (disch := decide) only [bits, lo3, hi3, lo5, hi5, lo7, hi7, lo12, hi12, slice_all, bit1_one, Nat.reduceSub, Nat.reduceAdd, BitVec.reduceExtractLsb', and_self]
  clear hw
  simp only [parseWord, decodeOpFp, h0, h1, h2, h3, h4, h5, BitVec.reduceToNat, BitVec.toNat_ofNat, Nat.reducePow, Nat.reduceMod, BEq.rfl, show (0#1 == 1#1) = false from rfl, Bool.false_eq_true, if_false, Bool.and_self, if_true])

theorem fcvtLD (rd : XReg) (fs1 : FReg) (rm : BitVec 3) : Statement (.fcvtLD rd fs1 rm) := of_parse _ (by
  rw [show encode (.fcvtLD rd fs1 rm) = 3106#12 ++ fs1 ++ rm ++ rd ++ 83#7 from rfl]
  generalize hw : (3106#12 ++ fs1 ++ rm ++ rd ++ 83#7 : BitVec 32) = wd
  obtain ⟨h0, h1, h2, h3, h4, h5⟩ : bits wd 6 0 = 83#7 ∧ bits wd 31 25 = 97#7 ∧ bits wd 24 20 = 2#5 ∧ bits wd 11 7 = rd ∧ bits wd 19 15 = fs1 ∧ bits wd 14 12 = rm := by
    subst hw
    simp (disch := decide) only [bits, lo3, hi3, lo5, hi5, lo7, hi7, lo12, hi12, slice_all, bit1_one, Nat.reduceSub, Nat.reduceAdd, BitVec.reduceExtractLsb', and_self]
  clear hw
  simp only [parseWord, decodeOpFp, h0, h1, h2, h3, h4, h5, BitVec.reduceToNat, BitVec.toNat_ofNat, Nat.reducePow, Nat.reduceMod, BEq.rfl, show (0#1 == 1#1) = false from rfl, Bool.false_eq_true, if_false, Bool.and_self, if_true])

theorem fcvtLuD (rd : XReg) (fs1 : FReg) (rm : BitVec 3) : Statement (.fcvtLuD rd fs1 rm) := of_parse _ (by
  rw [show encode (.fcvtLuD rd fs1 rm) = 3107#12 ++ fs1 ++ rm ++ rd ++ 83#7 from rfl]
  generalize hw : (3107#12 ++ fs1 ++ rm ++ rd ++ 83#7 : BitVec 32) = wd
  obtain ⟨h0, h1, h2, h3, h4, h5⟩ : bits wd 6 0 = 83#7 ∧ bits wd 31 25 = 97#7 ∧ bits wd 24 20 = 3#5 ∧ bits wd 11 7 = rd ∧ bits wd 19 15 = fs1 ∧ bits wd 14 12 = rm := by
    subst hw
    simp (disch := decide) only [bits, lo3, hi3, lo5, hi5, lo7, hi7, lo12, hi12, slice_all, bit1_one, Nat.reduceSub, Nat.reduceAdd, BitVec.reduceExtractLsb', and_self]
  clear hw
  simp only [parseWord, decodeOpFp, h0, h1, h2, h3, h4, h5, BitVec.reduceToNat, BitVec.toNat_ofNat, Nat.reducePow, Nat.reduceMod, BEq.rfl, show (0#1 == 1#1) = false from rfl, Bool.false_eq_true, if_false, Bool.and_self, if_true])

theorem fcvtDW (fd : FReg) (rs1 : XReg) (rm : BitVec 3) : Statement (.fcvtDW fd rs1 rm) := of_parse _ (by
  rw [show encode (.fcvtDW fd rs1 rm) = 3360#12 ++ rs1 ++ rm ++ fd ++ 83#7 from rfl]
  generalize hw : (3360#12 ++ rs1 ++ rm ++ fd ++ 83#7 : BitVec 32) = wd
  obtain ⟨h0, h1, h2, h3, h4, h5⟩ : bits wd 6 0 = 83#7 ∧ bits wd 31 25 = 105#7 ∧ bits wd 24 20 = 0#5 ∧ bits wd 11 7 = fd ∧ bits wd 19 15 = rs1 ∧ bits wd 14 12 = rm := by
    subst hw
    simp (disch := decide) only [bits, lo3, hi3, lo5, hi5, lo7, hi7, lo12, hi12, slice_all, bit1_one, Nat.reduceSub, Nat.reduceAdd, BitVec.reduceExtractLsb', and_self]
  clear hw
  simp only [parseWord, decodeOpFp, h0, h1, h2, h3, h4, h5, BitVec.reduceToNat, BitVec.toNat_ofNat, Nat.reducePow, Nat.reduceMod, BEq.rfl, show (0#1 == 1#1) = false from rfl, Bool.false_eq_true, if_false, Bool.and_self, if_true])

theorem fcvtDWu (fd : FReg) (rs1 : XReg) (rm : BitVec 3) : Statement (.fcvtDWu fd rs1 rm) := of_parse _ (by
  rw [show encode (.fcvtDWu fd rs1 rm) = 3361#12 ++ rs1 ++ rm ++ fd ++ 83#7 from rfl]
  generalize hw : (3361#12 ++ rs1 ++ rm ++ fd ++ 83#7 : BitVec 32) = wd
  obtain ⟨h0, h1, h2, h3, h4, h5⟩ : bits wd 6 0 = 83#7 ∧ bits wd 31 25 = 105#7 ∧ bits wd 24 20 = 1#5 ∧ bits wd 11 7 = fd ∧ bits wd 19 15 = rs1 ∧ bits wd 14 12 = rm := by
    subst hw
    simp (disch := decide) only [bits, lo3, hi3, lo5, hi5, lo7, hi7, lo12, hi12, slice_all, bit1_one, Nat.reduceSub, Nat.reduceAdd, BitVec.reduceExtractLsb', and_self]
  clear hw
  simp only [parseWord, decodeOpFp, h0, h1, h2, h3, h4, h5, BitVec.reduceToNat, BitVec.toNat_ofNat, Nat.reducePow, Nat.reduceMod, BEq.rfl, show (0#1 == 1#1) = false from rfl, Bool.false_eq_true, if_false, Bool.and_self, if_true])

theorem fcvtDL (fd : FReg) (rs1 : XReg) (rm : BitVec 3) : Statement (.fcvtDL fd rs1 rm) := of_parse _ (by
  rw [show encode (.fcvtDL fd rs1 rm) = 3362#12 ++ rs1 ++ rm ++ fd ++ 83#7 from rfl]
  generalize hw : (3362#12 ++ rs1 ++ rm ++ fd ++ 83#7 : BitVec 32) = wd
  obtain ⟨h0, h1, h2, h3, h4, h5⟩ : bits wd 6 0 = 83#7 ∧ bits wd 31 25 = 105#7 ∧ bits wd 24 20 = 2#5 ∧ bits wd 11 7 = fd ∧ bits wd 19 15 = rs1 ∧ bits wd 14 12 = rm := by
    subst hw
    simp (disch := decide) only [bits, lo3, hi3, lo5, hi5, lo7, hi7, lo12, hi12, slice_all, bit1_one, Nat.reduceSub, Nat.reduceAdd, BitVec.reduceExtractLsb', and_self]
  clear hw
  simp only [parseWord, decodeOpFp, h0, h1, h2, h3, h4, h5, BitVec.reduceToNat, BitVec.toNat_ofNat, Nat.reducePow, Nat.reduceMod, BEq.rfl, show (0#1 == 1#1) = false from rfl, Bool.false_eq_true, if_false, Bool.and_self, if_true])

theorem fcvtDLu (fd : FReg) (rs1 : XReg) (rm : BitVec 3) : Statement (.fcvtDLu fd rs1 rm) := of_parse _ (by
  rw [show encode (.fcvtDLu fd rs1 rm) = 3363#12 ++ rs1 ++ rm ++ fd ++ 83#7 from rfl]
  generalize hw : (3363#12 ++ rs1 ++ rm ++ fd ++ 83#7 : BitVec 32) = wd
  obtain ⟨h0, h1, h2, h3, h4, h5⟩ : bits wd 6 0 = 83#7 ∧ bits wd 31 25 = 105#7 ∧ bits wd 24 20 = 3#5 ∧ bits wd 11 7 = fd ∧ bits wd 19 15 = rs1 ∧ bits wd 14 12 = rm := by
    subst hw
    simp (disch := decide) only [bits, lo3, hi3, lo5, hi5, lo7, hi7, lo12, hi12, slice_all, bit1_one, Nat.reduceSub, Nat.reduceAdd, BitVec.reduceExtractLsb', and_self]
  clear hw
  simp only [parseWord, decodeOpFp, h0, h1, h2, h3, h4, h5, BitVec.reduceToNat, BitVec.toNat_ofNat, Nat.reducePow, Nat.reduceMod, BEq.rfl, show (0#1 == 1#1) = false from rfl, Bool.false_eq_true, if_false, Bool.and_self, if_true])

theorem vaddVv (vd : VReg) (vs2 : VReg) (vs1 : VReg) (w : Bool) (m : Bool) : Statement (.vaddVv vd vs2 vs1 w m) := of_parse _ (by
  rw [show encode (.vaddVv vd vs2 vs1 w m) = 0#5 ++ (bit1 w) ++ (bit1 m) ++ vs2 ++ vs1 ++ vd ++ 91#7 from rfl]
  generalize hw : (0#5 ++ (bit1 w) ++ (bit1 m) ++ vs2 ++ vs1 ++ vd ++ 91#7 : BitVec 32) = wd
  obtain ⟨h0, h1, h2, h3, h4, h5, h6⟩ : bits wd 6 0 = 91#7 ∧ bits wd 31 27 = 0#5 ∧ bits wd 12 7 = vd ∧ bits wd 24 19 = vs2 ∧ bits wd 18 13 = vs1 ∧ (bits wd 26 26 == 1#1) = w ∧ (bits wd 25 25 == 1#1) = m := by
    subst hw
    simp (disch := decide) only [bits, lo1, hi1, lo5, hi5, lo6, hi6, lo7, hi7, slice_all, bit1_one, Nat.reduceSub, Nat.reduceAdd, BitVec.reduceExtractLsb', and_self]
  clear hw
  simp only [parseWord, decodeCustom2, h0, h1, h2, h3, h4, h5, h6, BitVec.reduceToNat, BitVec.toNat_ofNat, Nat.reducePow, Nat.reduceMod, BEq.rfl, show (0#1 == 1#1) = false from rfl, Bool.false_eq_true, if_false, Bool.and_self, if_true])

theorem vsubVv (vd : VReg) (vs2 : VReg) (vs1 : VReg) (w : Bool) (m : Bool) : Statement (.vsubVv vd vs2 vs1 w m) := of_parse _ (by
  rw [show encode (.vsubVv vd vs2 vs1 w m) = 1#5 ++ (bit1 w) ++ (bit1 m) ++ vs2 ++ vs1 ++ vd ++ 91#7 from rfl]
  generalize hw : (1#5 ++ (bit1 w) ++ (bit1 m) ++ vs2 ++ vs1 ++ vd ++ 91#7 : BitVec 32) = wd
  obtain ⟨h0, h1, h2, h3, h4, h5, h6⟩ : bits wd 6 0 = 91#7 ∧ bits wd 31 27 = 1#5 ∧ bits wd 12 7 = vd ∧ bits wd 24 19 = vs2 ∧ bits wd 18 13 = vs1 ∧ (bits wd 26 26 == 1#1) = w ∧ (bits wd 25 25 == 1#1) = m := by
    subst hw
    simp (disch := decide) only [bits, lo1, hi1, lo5, hi5, lo6, hi6, lo7, hi7, slice_all, bit1_one, Nat.reduceSub, Nat.reduceAdd, BitVec.reduceExtractLsb', and_self]
  clear hw
  simp only [parseWord, decodeCustom2, h0, h1, h2, h3, h4, h5, h6, BitVec.reduceToNat, BitVec.toNat_ofNat, Nat.reducePow, Nat.reduceMod, BEq.rfl, show (0#1 == 1#1) = false from rfl, Bool.false_eq_true, if_false, Bool.and_self, if_true])

theorem vmulVv (vd : VReg) (vs2 : VReg) (vs1 : VReg) (w : Bool) (m : Bool) : Statement (.vmulVv vd vs2 vs1 w m) := of_parse _ (by
  rw [show encode (.vmulVv vd vs2 vs1 w m) = 2#5 ++ (bit1 w) ++ (bit1 m) ++ vs2 ++ vs1 ++ vd ++ 91#7 from rfl]
  generalize hw : (2#5 ++ (bit1 w) ++ (bit1 m) ++ vs2 ++ vs1 ++ vd ++ 91#7 : BitVec 32) = wd
  obtain ⟨h0, h1, h2, h3, h4, h5, h6⟩ : bits wd 6 0 = 91#7 ∧ bits wd 31 27 = 2#5 ∧ bits wd 12 7 = vd ∧ bits wd 24 19 = vs2 ∧ bits wd 18 13 = vs1 ∧ (bits wd 26 26 == 1#1) = w ∧ (bits wd 25 25 == 1#1) = m := by
    subst hw
    simp (disch := decide) only [bits, lo1, hi1, lo5, hi5, lo6, hi6, lo7, hi7, slice_all, bit1_one, Nat.reduceSub, Nat.reduceAdd, BitVec.reduceExtractLsb', and_self]
  clear hw
  simp only [parseWord, decodeCustom2, h0, h1, h2, h3, h4, h5, h6, BitVec.reduceToNat, BitVec.toNat_ofNat, Nat.reducePow, Nat.reduceMod, BEq.rfl, show (0#1 == 1#1) = false from rfl, Bool.false_eq_true, if_false, Bool.and_self, if_true])

theorem vmulhVv (vd : VReg) (vs2 : VReg) (vs1 : VReg) (w : Bool) (m : Bool) : Statement (.vmulhVv vd vs2 vs1 w m) := of_parse _ (by
  rw [show encode (.vmulhVv vd vs2 vs1 w m) = 3#5 ++ (bit1 w) ++ (bit1 m) ++ vs2 ++ vs1 ++ vd ++ 91#7 from rfl]
  generalize hw : (3#5 ++ (bit1 w) ++ (bit1 m) ++ vs2 ++ vs1 ++ vd ++ 91#7 : BitVec 32) = wd
  obtain ⟨h0, h1, h2, h3, h4, h5, h6⟩ : bits wd 6 0 = 91#7 ∧ bits wd 31 27 = 3#5 ∧ bits wd 12 7 = vd ∧ bits wd 24 19 = vs2 ∧ bits wd 18 13 = vs1 ∧ (bits wd 26 26 == 1#1) = w ∧ (bits wd 25 25 == 1#1) = m := by
    subst hw
    simp (disch := decide) only [bits, lo1, hi1, lo5, hi5, lo6, hi6, lo7, hi7, slice_all, bit1_one, Nat.reduceSub, Nat.reduceAdd, BitVec.reduceExtractLsb', and_self]
  clear hw
  simp only [parseWord, decodeCustom2, h0, h1, h2, h3, h4, h5, h6, BitVec.reduceToNat, BitVec.toNat_ofNat, Nat.reducePow, Nat.reduceMod, BEq.rfl, show (0#1 == 1#1) = false from rfl, Bool.false_eq_true, if_false, Bool.and_self, if_true])

theorem vmulhuVv (vd : VReg) (vs2 : VReg) (vs1 : VReg) (w : Bool) (m : Bool) : Statement (.vmulhuVv vd vs2 vs1 w m) := of_parse _ (by
  rw [show encode (.vmulhuVv vd vs2 vs1 w m) = 4#5 ++ (bit1 w) ++ (bit1 m) ++ vs2 ++ vs1 ++ vd ++ 91#7 from rfl]
  generalize hw : (4#5 ++ (bit1 w) ++ (bit1 m) ++ vs2 ++ vs1 ++ vd ++ 91#7 : BitVec 32) = wd
  obtain ⟨h0, h1, h2, h3, h4, h5, h6⟩ : bits wd 6 0 = 91#7 ∧ bits wd 31 27 = 4#5 ∧ bits wd 12 7 = vd ∧ bits wd 24 19 = vs2 ∧ bits wd 18 13 = vs1 ∧ (bits wd 26 26 == 1#1) = w ∧ (bits wd 25 25 == 1#1) = m := by
    subst hw
    simp (disch := decide) only [bits, lo1, hi1, lo5, hi5, lo6, hi6, lo7, hi7, slice_all, bit1_one, Nat.reduceSub, Nat.reduceAdd, BitVec.reduceExtractLsb', and_self]
  clear hw
  simp only [parseWord, decodeCustom2, h0, h1, h2, h3, h4, h5, h6, BitVec.reduceToNat, BitVec.toNat_ofNat, Nat.reducePow, Nat.reduceMod, BEq.rfl, show (0#1 == 1#1) = false from rfl, Bool.false_eq_true, if_false, Bool.and_self, if_true])

theorem vdivVv (vd : VReg) (vs2 : VReg) (vs1 : VReg) (w : Bool) (m : Bool) : Statement (.vdivVv vd vs2 vs1 w m) := of_parse _ (by
  rw [show encode (.vdivVv vd vs2 vs1 w m) = 5#5 ++ (bit1 w) ++ (bit1 m) ++ vs2 ++ vs1 ++ vd ++ 91#7 from rfl]
  generalize hw : (5#5 ++ (bit1 w) ++ (bit1 m) ++ vs2 ++ vs1 ++ vd ++ 91#7 : BitVec 32) = wd
  obtain ⟨h0, h1, h2, h3, h4, h5, h6⟩ : bits wd 6 0 = 91#7 ∧ bits wd 31 27 = 5#5 ∧ bits wd 12 7 = vd ∧ bits wd 24 19 = vs2 ∧ bits wd 18 13 = vs1 ∧ (bits wd 26 26 == 1#1) = w ∧ (bits wd 25 25 == 1#1) = m := by
    subst hw
    simp (disch := decide) only [bits, lo1, hi1, lo5, hi5, lo6, hi6, lo7, hi7, slice_all, bit1_one, Nat.reduceSub, Nat.reduceAdd, BitVec.reduceExtractLsb', and_self]
  clear hw
  simp only [parseWord, decodeCustom2, h0, h1, h2, h3, h4, h5, h6, BitVec.reduceToNat, BitVec.toNat_ofNat, Nat.reducePow, Nat.reduceMod, BEq.rfl, show (0#1 == 1#1) = false from rfl, Bool.false_eq_true, if_false, Bool.and_self, if_true])

theorem vdivuVv (vd : VReg) (vs2 : VReg) (vs1 : VReg) (w : Bool) (m : Bool) : Statement (.vdivuVv vd vs2 vs1 w m) := of_parse _ (by
  rw [show encode (.vdivuVv vd vs2 vs1 w m) = 6#5 ++ (bit1 w) ++ (bit1 m) ++ vs2 ++ vs1 ++ vd ++ 91#7 from rfl]
  generalize hw : (6#5 ++ (bit1 w) ++ (bit1 m) ++ vs2 ++ vs1 ++ vd ++ 91#7 : BitVec 32) = wd
  obtain ⟨h0, h1, h2, h3, h4, h5, h6⟩ : bits wd 6 0 = 91#7 ∧ bits wd 31 27 = 6#5 ∧ bits wd 12 7 = vd ∧ bits wd 24 19 = vs2 ∧ bits wd 18 13 = vs1 ∧ (bits wd 26 26 == 1#1) = w ∧ (bits wd 25 25 == 1#1) = m := by
    subst hw
    simp (disch := decide) only [bits, lo1, hi1, lo5, hi5, lo6, hi6, lo7, hi7, slice_all, bit1_one, Nat.reduceSub, Nat.reduceAdd, BitVec.reduceExtractLsb', and_self]
  clear hw
  simp only [parseWord, decodeCustom2, h0, h1, h2, h3, h4, h5, h6, BitVec.reduceToNat, BitVec.toNat_ofNat, Nat.reducePow, Nat.reduceMod, BEq.rfl, show (0#1 == 1#1) = false from rfl, Bool.false_eq_true, if_false, Bool.and_self, if_true])

theorem vremVv (vd : VReg) (vs2 : VReg) (vs1 : VReg) (w : Bool) (m : Bool) : Statement (.vremVv vd vs2 vs1 w m) := of_parse _ (by
  rw [show encode (.vremVv vd vs2 vs1 w m) = 7#5 ++ (bit1 w) ++ (bit1 m) ++ vs2 ++ vs1 ++ vd ++ 91#7 from rfl]
  generalize hw : (7#5 ++ (bit1 w) ++ (bit1 m) ++ vs2 ++ vs1 ++ vd ++ 91#7 : BitVec 32) = wd
  obtain ⟨h0, h1, h2, h3, h4, h5, h6⟩ : bits wd 6 0 = 91#7 ∧ bits wd 31 27 = 7#5 ∧ bits wd 12 7 = vd ∧ bits wd 24 19 = vs2 ∧ bits wd 18 13 = vs1 ∧ (bits wd 26 26 == 1#1) = w ∧ (bits wd 25 25 == 1#1) = m := by
    subst hw
    simp (disch := decide) only [bits, lo1, hi1, lo5, hi5, lo6, hi6, lo7, hi7, slice_all, bit1_one, Nat.reduceSub, Nat.reduceAdd, BitVec.reduceExtractLsb', and_self]
  clear hw
  simp only [parseWord, decodeCustom2, h0, h1, h2, h3, h4, h5, h6, BitVec.reduceToNat, BitVec.toNat_ofNat, Nat.reducePow, Nat.reduceMod, BEq.rfl, show (0#1 == 1#1) = false from rfl, Bool.false_eq_true, if_false, Bool.and_self, if_true])

theorem vremuVv (vd : VReg) (vs2 : VReg) (vs1 : VReg) (w : Bool) (m : Bool) : Statement (.vremuVv vd vs2 vs1 w m) := of_parse _ (by
  rw [show encode (.vremuVv vd vs2 vs1 w m) = 8#5 ++ (bit1 w) ++ (bit1 m) ++ vs2 ++ vs1 ++ vd ++ 91#7 from rfl]
  generalize hw : (8#5 ++ (bit1 w) ++ (bit1 m) ++ vs2 ++ vs1 ++ vd ++ 91#7 : BitVec 32) = wd
  obtain ⟨h0, h1, h2, h3, h4, h5, h6⟩ : bits wd 6 0 = 91#7 ∧ bits wd 31 27 = 8#5 ∧ bits wd 12 7 = vd ∧ bits wd 24 19 = vs2 ∧ bits wd 18 13 = vs1 ∧ (bits wd 26 26 == 1#1) = w ∧ (bits wd 25 25 == 1#1) = m := by
    subst hw
    simp (disch := decide) only [bits, lo1, hi1, lo5, hi5, lo6, hi6, lo7, hi7, slice_all, bit1_one, Nat.reduceSub, Nat.reduceAdd, BitVec.reduceExtractLsb', and_self]
  clear hw
  simp only [parseWord, decodeCustom2, h0, h1, h2, h3, h4, h5, h6, BitVec.reduceToNat, BitVec.toNat_ofNat, Nat.reducePow, Nat.reduceMod, BEq.rfl, show (0#1 == 1#1) = false from rfl, Bool.false_eq_true, if_false, Bool.and_self, if_true])

theorem vminVv (vd : VReg) (vs2 : VReg) (vs1 : VReg) (w : Bool) (m : Bool) : Statement (.vminVv vd vs2 vs1 w m) := of_parse _ (by
  rw [show encode (.vminVv vd vs2 vs1 w m) = 9#5 ++ (bit1 w) ++ (bit1 m) ++ vs2 ++ vs1 ++ vd ++ 91#7 from rfl]
  generalize hw : (9#5 ++ (bit1 w) ++ (bit1 m) ++ vs2 ++ vs1 ++ vd ++ 91#7 : BitVec 32) = wd
  obtain ⟨h0, h1, h2, h3, h4, h5, h6⟩ : bits wd 6 0 = 91#7 ∧ bits wd 31 27 = 9#5 ∧ bits wd 12 7 = vd ∧ bits wd 24 19 = vs2 ∧ bits wd 18 13 = vs1 ∧ (bits wd 26 26 == 1#1) = w ∧ (bits wd 25 25 == 1#1) = m := by
    subst hw
    simp (disch := decide) only [bits, lo1, hi1, lo5, hi5, lo6, hi6, lo7, hi7, slice_all, bit1_one, Nat.reduceSub, Nat.reduceAdd, BitVec.reduceExtractLsb', and_self]
  clear hw
  simp only [parseWord, decodeCustom2, h0, h1, h2, h3, h4, h5, h6, BitVec.reduceToNat, BitVec.toNat_ofNat, Nat.reducePow, Nat.reduceMod, BEq.rfl, show (0#1 == 1#1) = false from rfl, Bool.false_eq_true, if_false, Bool.and_self, if_true])

theorem vminuVv (vd : VReg) (vs2 : VReg) (vs1 : VReg) (w : Bool) (m : Bool) : Statement (.vminuVv vd vs2 vs1 w m) := of_parse _ (by
  rw [show encode (.vminuVv vd vs2 vs1 w m) = 10#5 ++ (bit1 w) ++ (bit1 m) ++ vs2 ++ vs1 ++ vd ++ 91#7 from rfl]
  generalize hw : (10#5 ++ (bit1 w) ++ (bit1 m) ++ vs2 ++ vs1 ++ vd ++ 91#7 : BitVec 32) = wd
  obtain ⟨h0, h1, h2, h3, h4, h5, h6⟩ : bits wd 6 0 = 91#7 ∧ bits wd 31 27 = 10#5 ∧ bits wd 12 7 = vd ∧ bits wd 24 19 = vs2 ∧ bits wd 18 13 = vs1 ∧ (bits wd 26 26 == 1#1) = w ∧ (bits wd 25 25 == 1#1) = m := by
    subst hw
    simp (disch := decide) only [bits, lo1, hi1, lo5, hi5, lo6, hi6, lo7, hi7, slice_all, bit1_one, Nat.reduceSub, Nat.reduceAdd, BitVec.reduceExtractLsb', and_self]
  clear hw
  simp only [parseWord, decodeCustom2, h0, h1, h2, h3, h4, h5, h6, BitVec.reduceToNat, BitVec.toNat_ofNat, Nat.reducePow, Nat.reduceMod, BEq.rfl, show (0#1 == 1#1) = false from rfl, Bool.false_eq_true, if_false, Bool.and_self, if_true])

theorem vmaxVv (vd : VReg) (vs2 : VReg) (vs1 : VReg) (w : Bool) (m : Bool) : Statement (.vmaxVv vd vs2 vs1 w m) := of_parse _ (by
  rw [show encode (.vmaxVv vd vs2 vs1 w m) = 11#5 ++ (bit1 w) ++ (bit1 m) ++ vs2 ++ vs1 ++ vd ++ 91#7 from rfl]
  generalize hw : (11#5 ++ (bit1 w) ++ (bit1 m) ++ vs2 ++ vs1 ++ vd ++ 91#7 : BitVec 32) = wd
  obtain ⟨h0, h1, h2, h3, h4, h5, h6⟩ : bits wd 6 0 = 91#7 ∧ bits wd 31 27 = 11#5 ∧ bits wd 12 7 = vd ∧ bits wd 24 19 = vs2 ∧ bits wd 18 13 = vs1 ∧ (bits wd 26 26 == 1#1) = w ∧ (bits wd 25 25 == 1#1) = m := by
    subst hw
    simp (disch := decide) only [bits, lo1, hi1, lo5, hi5, lo6, hi6, lo7, hi7, slice_all, bit1_one, Nat.reduceSub, Nat.reduceAdd, BitVec.reduceExtractLsb', and_self]
  clear hw
  simp only [parseWord, decodeCustom2, h0, h1, h2, h3, h4, h5, h6, BitVec.reduceToNat, BitVec.toNat_ofNat, Nat.reducePow, Nat.reduceMod, BEq.rfl, show (0#1 == 1#1) = false from rfl, Bool.false_eq_true, if_false, Bool.and_self, if_true])

theorem vmaxuVv (vd : VReg) (vs2 : VReg) (vs1 : VReg) (w : Bool) (m : Bool) : Statement (.vmaxuVv vd vs2 vs1 w m) := of_parse _ (by
  rw [show encode (.vmaxuVv vd vs2 vs1 w m) = 12#5 ++ (bit1 w) ++ (bit1 m) ++ vs2 ++ vs1 ++ vd ++ 91#7 from rfl]
  generalize hw : (12#5 ++ (bit1 w) ++ (bit1 m) ++ vs2 ++ vs1 ++ vd ++ 91#7 : BitVec 32) = wd
  obtain ⟨h0, h1, h2, h3, h4, h5, h6⟩ : bits wd 6 0 = 91#7 ∧ bits wd 31 27 = 12#5 ∧ bits wd 12 7 = vd ∧ bits wd 24 19 = vs2 ∧ bits wd 18 13 = vs1 ∧ (bits wd 26 26 == 1#1) = w ∧ (bits wd 25 25 == 1#1) = m := by
    subst hw
    simp (disch := decide) only [bits, lo1, hi1, lo5, hi5, lo6, hi6, lo7, hi7, slice_all, bit1_one, Nat.reduceSub, Nat.reduceAdd, BitVec.reduceExtractLsb', and_self]
  clear hw
  simp only [parseWord, decodeCustom2, h0, h1, h2, h3, h4, h5, h6, BitVec.reduceToNat, BitVec.toNat_ofNat, Nat.reducePow, Nat.reduceMod, BEq.rfl, show (0#1 == 1#1) = false from rfl, Bool.false_eq_true, if_false, Bool.and_self, if_true])

theorem vandVv (vd : VReg) (vs2 : VReg) (vs1 : VReg) (w : Bool) (m : Bool) : Statement (.vandVv vd vs2 vs1 w m) := of_parse _ (by
  rw [show encode (.vandVv vd vs2 vs1 w m) = 13#5 ++ (bit1 w) ++ (bit1 m) ++ vs2 ++ vs1 ++ vd ++ 91#7 from rfl]
  generalize hw : (13#5 ++ (bit1 w) ++ (bit1 m) ++ vs2 ++ vs1 ++ vd ++ 91#7 : BitVec 32) = wd
  obtain ⟨h0, h1, h2, h3, h4, h5, h6⟩ : bits wd 6 0 = 91#7 ∧ bits wd 31 27 = 13#5 ∧ bits wd 12 7 = vd ∧ bits wd 24 19 = vs2 ∧ bits wd 18 13 = vs1 ∧ (bits wd 26 26 == 1#1) = w ∧ (bits wd 25 25 == 1#1) = m := by
    subst hw
    simp (disch := decide) only [bits, lo1, hi1, lo5, hi5, lo6, hi6, lo7, hi7, slice_all, bit1_one, Nat.reduceSub, Nat.reduceAdd, BitVec.reduceExtractLsb', and_self]
  clear hw
  simp only [parseWord, decodeCustom2, h0, h1, h2, h3, h4, h5, h6, BitVec.reduceToNat, BitVec.toNat_ofNat, Nat.reducePow, Nat.reduceMod, BEq.rfl, show (0#1 == 1#1) = false from rfl, Bool.false_eq_true, if_false, Bool.and_self, if_true])

theorem vorVv (vd : VReg) (vs2 : VReg) (vs1 : VReg) (w : Bool) (m : Bool) : Statement (.vorVv vd vs2 vs1 w m) := of_parse _ (by
  rw [show encode (.vorVv vd vs2 vs1 w m) = 14#5 ++ (bit1 w) ++ (bit1 m) ++ vs2 ++ vs1 ++ vd ++ 91#7 from rfl]
  generalize hw : (14#5 ++ (bit1 w) ++ (bit1 m) ++ vs2 ++ vs1 ++ vd ++ 91#7 : BitVec 32) = wd
  obtain ⟨h0, h1, h2, h3, h4, h5, h6⟩ : bits wd 6 0 = 91#7 ∧ bits wd 31 27 = 14#5 ∧ bits wd 12 7 = vd ∧ bits wd 24 19 = vs2 ∧ bits wd 18 13 = vs1 ∧ (bits wd 26 26 == 1#1) = w ∧ (bits wd 25 25 == 1#1) = m := by
    subst hw
    simp (disch := decide) only [bits, lo1, hi1, lo5, hi5, lo6, hi6, lo7, hi7, slice_all, bit1_one, Nat.reduceSub, Nat.reduceAdd, BitVec.reduceExtractLsb', and_self]
  clear hw
  simp only [parseWord, decodeCustom2, h0, h1, h2, h3, h4, h5, h6, BitVec.reduceToNat, BitVec.toNat_ofNat, Nat.reducePow, Nat.reduceMod, BEq.rfl, show (0#1 == 1#1) = false from rfl, Bool.false_eq_true, if_false, Bool.and_self, if_true])

theorem vxorVv (vd : VReg) (vs2 : VReg) (vs1 : VReg) (w : Bool) (m : Bool) : Statement (.vxorVv vd vs2 vs1 w m) := of_parse _ (by
  rw [show encode (.vxorVv vd vs2 vs1 w m) = 15#5 ++ (bit1 w) ++ (bit1 m) ++ vs2 ++ vs1 ++ vd ++ 91#7 from rfl]
  generalize hw : (15#5 ++ (bit1 w) ++ (bit1 m) ++ vs2 ++ vs1 ++ vd ++ 91#7 : BitVec 32) = wd
  obtain ⟨h0, h1, h2, h3, h4, h5, h6⟩ : bits wd 6 0 = 91#7 ∧ bits wd 31 27 = 15#5 ∧ bits wd 12 7 = vd ∧ bits wd 24 19 = vs2 ∧ bits wd 18 13 = vs1 ∧ (bits wd 26 26 == 1#1) = w ∧ (bits wd 25 25 == 1#1) = m := by
    subst hw
    simp (disch := decide) only [bits, lo1, hi1, lo5, hi5, lo6, hi6, lo7, hi7, slice_all, bit1_one, Nat.reduceSub, Nat.reduceAdd, BitVec.reduceExtractLsb', and_self]
  clear hw
  simp only [parseWord, decodeCustom2, h0, h1, h2, h3, h4, h5, h6, BitVec.reduceToNat, BitVec.toNat_ofNat, Nat.reducePow, Nat.reduceMod, BEq.rfl, show (0#1 == 1#1) = false from rfl, Bool.false_eq_true, if_false, Bool.and_self, if_true])

theorem vsllVv (vd : VReg) (vs2 : VReg) (vs1 : VReg) (w : Bool) (m : Bool) : Statement (.vsllVv vd vs2 vs1 w m) := of_parse _ (by
  rw [show encode (.vsllVv vd vs2 vs1 w m) = 16#5 ++ (bit1 w) ++ (bit1 m) ++ vs2 ++ vs1 ++ vd ++ 91#7 from rfl]
  generalize hw : (16#5 ++ (bit1 w) ++ (bit1 m) ++ vs2 ++ vs1 ++ vd ++ 91#7 : BitVec 32) = wd
  obtain ⟨h0, h1, h2, h3, h4, h5, h6⟩ : bits wd 6 0 = 91#7 ∧ bits wd 31 27 = 16#5 ∧ bits wd 12 7 = vd ∧ bits wd 24 19 = vs2 ∧ bits wd 18 13 = vs1 ∧ (bits wd 26 26 == 1#1) = w ∧ (bits wd 25 25 == 1#1) = m := by
    subst hw
    simp (disch := decide) only [bits, lo1, hi1, lo5, hi5, lo6, hi6, lo7, hi7, slice_all, bit1_one, Nat.reduceSub, Nat.reduceAdd, BitVec.reduceExtractLsb', and_self]
  clear hw
  simp only [parseWord, decodeCustom2, h0, h1, h2, h3, h4, h5, h6, BitVec.reduceToNat, BitVec.toNat_ofNat, Nat.reducePow, Nat.reduceMod, BEq.rfl, show (0#1 == 1#1) = false from rfl, Bool.false_eq_true, if_false, Bool.and_self, if_true])

theorem vsrlVv (vd : VReg) (vs2 : VReg) (vs1 : VReg) (w : Bool) (m : Bool) : Statement (.vsrlVv vd vs2 vs1 w m) := of_parse _ (by
  rw [show encode (.vsrlVv vd vs2 vs1 w m) = 17#5 ++ (bit1 w) ++ (bit1 m) ++ vs2 ++ vs1 ++ vd ++ 91#7 from rfl]
  generalize hw : (17#5 ++ (bit1 w) ++ (bit1 m) ++ vs2 ++ vs1 ++ vd ++ 91#7 : BitVec 32) = wd
  obtain ⟨h0, h1, h2, h3, h4, h5, h6⟩ : bits wd 6 0 = 91#7 ∧ bits wd 31 27 = 17#5 ∧ bits wd 12 7 = vd ∧ bits wd 24 19 = vs2 ∧ bits wd 18 13 = vs1 ∧ (bits wd 26 26 == 1#1) = w ∧ (bits wd 25 25 == 1#1) = m := by
    subst hw
    simp (disch := decide) only [bits, lo1, hi1, lo5, hi5, lo6, hi6, lo7, hi7, slice_all, bit1_one, Nat.reduceSub, Nat.reduceAdd, BitVec.reduceExtractLsb', and_self]
  clear hw
  simp only [parseWord, decodeCustom2, h0, h1, h2, h3, h4, h5, h6, BitVec.reduceToNat, BitVec.toNat_ofNat, Nat.reducePow, Nat.reduceMod, BEq.rfl, show (0#1 == 1#1) = false from rfl, Bool.false_eq_true, if_false, Bool.and_self, if_true])

theorem vsraVv (vd : VReg) (vs2 : VReg) (vs1 : VReg) (w : Bool) (m : Bool) : Statement (.vsraVv vd vs2 vs1 w m) := of_parse _ (by
  rw [show encode (.vsraVv vd vs2 vs1 w m) = 18#5 ++ (bit1 w) ++ (bit1 m) ++ vs2 ++ vs1 ++ vd ++ 91#7 from rfl]
  generalize hw : (18#5 ++ (bit1 w) ++ (bit1 m) ++ vs2 ++ vs1 ++ vd ++ 91#7 : BitVec 32) = wd
  obtain ⟨h0, h1, h2, h3, h4, h5, h6⟩ : bits wd 6 0 = 91#7 ∧ bits wd 31 27 = 18#5 ∧ bits wd 12 7 = vd ∧ bits wd 24 19 = vs2 ∧ bits wd 18 13 = vs1 ∧ (bits wd 26 26 == 1#1) = w ∧ (bits wd 25 25 == 1#1) = m := by
    subst hw
    simp (disch := decide) only [bits, lo1, hi1, lo5, hi5, lo6, hi6, lo7, hi7, slice_all, bit1_one, Nat.reduceSub, Nat.reduceAdd, BitVec.reduceExtractLsb', and_self]
  clear hw
  simp only [parseWord, decodeCustom2, h0, h1, h2, h3, h4, h5, h6, BitVec.reduceToNat, BitVec.toNat_ofNat, Nat.reducePow, Nat.reduceMod, BEq.rfl, show (0#1 == 1#1) = false from rfl, Bool.false_eq_true, if_false, Bool.and_self, if_true])

theorem vsaddVv (vd : VReg) (vs2 : VReg) (vs1 : VReg) (w : Bool) (m : Bool) : Statement (.vsaddVv vd vs2 vs1 w m) := of_parse _ (by
  rw [show encode (.vsaddVv vd vs2 vs1 w m) = 19#5 ++ (bit1 w) ++ (bit1 m) ++ vs2 ++ vs1 ++ vd ++ 91#7 from rfl]
  generalize hw : (19#5 ++ (bit1 w) ++ (bit1 m) ++ vs2 ++ vs1 ++ vd ++ 91#7 : BitVec 32) = wd
  obtain ⟨h0, h1, h2, h3, h4, h5, h6⟩ : bits wd 6 0 = 91#7 ∧ bits wd 31 27 = 19#5 ∧ bits wd 12 7 = vd ∧ bits wd 24 19 = vs2 ∧ bits wd 18 13 = vs1 ∧ (bits wd 26 26 == 1#1) = w ∧ (bits wd 25 25 == 1#1) = m := by
    subst hw
    simp (disch := decide) only [bits, lo1, hi1, lo5, hi5, lo6, hi6, lo7, hi7, slice_all, bit1_one, Nat.reduceSub, Nat.reduceAdd, BitVec.reduceExtractLsb', and_self]
  clear hw
  simp only [parseWord, decodeCustom2, h0, h1, h2, h3, h4, h5, h6, BitVec.reduceToNat, BitVec.toNat_ofNat, Nat.reducePow, Nat.reduceMod, BEq.rfl, show (0#1 == 1#1) = false from rfl, Bool.false_eq_true, if_false, Bool.and_self, if_true])

theorem vsadduVv (vd : VReg) (vs2 : VReg) (vs1 : VReg) (w : Bool) (m : Bool) : Statement (.vsadduVv vd vs2 vs1 w m) := of_parse _ (by
  rw [show encode (.vsadduVv vd vs2 vs1 w m) = 20#5 ++ (bit1 w) ++ (bit1 m) ++ vs2 ++ vs1 ++ vd ++ 91#7 from rfl]
  generalize hw : (20#5 ++ (bit1 w) ++ (bit1 m) ++ vs2 ++ vs1 ++ vd ++ 91#7 : BitVec 32) = wd
  obtain ⟨h0, h1, h2, h3, h4, h5, h6⟩ : bits wd 6 0 = 91#7 ∧ bits wd 31 27 = 20#5 ∧ bits wd 12 7 = vd ∧ bits wd 24 19 = vs2 ∧ bits wd 18 13 = vs1 ∧ (bits wd 26 26 == 1#1) = w ∧ (bits wd 25 25 == 1#1) = m := by
    subst hw
    simp (disch := decide) only [bits, lo1, hi1, lo5, hi5, lo6, hi6, lo7, hi7, slice_all, bit1_one, Nat.reduceSub, Nat.reduceAdd, BitVec.reduceExtractLsb', and_self]
  clear hw
  simp only [parseWord, decodeCustom2, h0, h1, h2, h3, h4, h5, h6, BitVec.reduceToNat, BitVec.toNat_ofNat, Nat.reducePow, Nat.reduceMod, BEq.rfl, show (0#1 == 1#1) = false from rfl, Bool.false_eq_true, if_false, Bool.and_self, if_true])

theorem vssubVv (vd : VReg) (vs2 : VReg) (vs1 : VReg) (w : Bool) (m : Bool) : Statement (.vssubVv vd vs2 vs1 w m) := of_parse _ (by
  rw [show encode (.vssubVv vd vs2 vs1 w m) = 21#5 ++ (bit1 w) ++ (bit1 m) ++ vs2 ++ vs1 ++ vd ++ 91#7 from rfl]
  generalize hw : (21#5 ++ (bit1 w) ++ (bit1 m) ++ vs2 ++ vs1 ++ vd ++ 91#7 : BitVec 32) = wd
  obtain ⟨h0, h1, h2, h3, h4, h5, h6⟩ : bits wd 6 0 = 91#7 ∧ bits wd 31 27 = 21#5 ∧ bits wd 12 7 = vd ∧ bits wd 24 19 = vs2 ∧ bits wd 18 13 = vs1 ∧ (bits wd 26 26 == 1#1) = w ∧ (bits wd 25 25 == 1#1) = m := by
    subst hw
    simp (disch := decide) only [bits, lo1, hi1, lo5, hi5, lo6, hi6, lo7, hi7, slice_all, bit1_one, Nat.reduceSub, Nat.reduceAdd, BitVec.reduceExtractLsb', and_self]
  clear hw
  simp only [parseWord, decodeCustom2, h0, h1, h2, h3, h4, h5, h6, BitVec.reduceToNat, BitVec.toNat_ofNat, Nat.reducePow, Nat.reduceMod, BEq.rfl, show (0#1 == 1#1) = false from rfl, Bool.false_eq_true, if_false, Bool.and_self, if_true])

theorem vssubuVv (vd : VReg) (vs2 : VReg) (vs1 : VReg) (w : Bool) (m : Bool) : Statement (.vssubuVv vd vs2 vs1 w m) := of_parse _ (by
  rw [show encode (.vssubuVv vd vs2 vs1 w m) = 22#5 ++ (bit1 w) ++ (bit1 m) ++ vs2 ++ vs1 ++ vd ++ 91#7 from rfl]
  generalize hw : (22#5 ++ (bit1 w) ++ (bit1 m) ++ vs2 ++ vs1 ++ vd ++ 91#7 : BitVec 32) = wd
  obtain ⟨h0, h1, h2, h3, h4, h5, h6⟩ : bits wd 6 0 = 91#7 ∧ bits wd 31 27 = 22#5 ∧ bits wd 12 7 = vd ∧ bits wd 24 19 = vs2 ∧ bits wd 18 13 = vs1 ∧ (bits wd 26 26 == 1#1) = w ∧ (bits wd 25 25 == 1#1) = m := by
    subst hw
    simp (disch := decide) only [bits, lo1, hi1, lo5, hi5, lo6, hi6, lo7, hi7, slice_all, bit1_one, Nat.reduceSub, Nat.reduceAdd, BitVec.reduceExtractLsb', and_self]
  clear hw
  simp only [parseWord, decodeCustom2, h0, h1, h2, h3, h4, h5, h6, BitVec.reduceToNat, BitVec.toNat_ofNat, Nat.reducePow, Nat.reduceMod, BEq.rfl, show (0#1 == 1#1) = false from rfl, Bool.false_eq_true, if_false, Bool.and_self, if_true])

theorem vseqVv (vd : VReg) (vs2 : VReg) (vs1 : VReg) (w : Bool) (m : Bool) : Statement (.vseqVv vd vs2 vs1 w m) := of_parse _ (by
  rw [show encode (.vseqVv vd vs2 vs1 w m) = 23#5 ++ (bit1 w) ++ (bit1 m) ++ vs2 ++ vs1 ++ vd ++ 91#7 from rfl]
  generalize hw : (23#5 ++ (bit1 w) ++ (bit1 m) ++ vs2 ++ vs1 ++ vd ++ 91#7 : BitVec 32) = wd
  obtain ⟨h0, h1, h2, h3, h4, h5, h6⟩ : bits wd 6 0 = 91#7 ∧ bits wd 31 27 = 23#5 ∧ bits wd 12 7 = vd ∧ bits wd 24 19 = vs2 ∧ bits wd 18 13 = vs1 ∧ (bits wd 26 26 == 1#1) = w ∧ (bits wd 25 25 == 1#1) = m := by
    subst hw
    simp (disch := decide) only [bits, lo1, hi1, lo5, hi5, lo6, hi6, lo7, hi7, slice_all, bit1_one, Nat.reduceSub, Nat.reduceAdd, BitVec.reduceExtractLsb', and_self]
  clear hw
  simp only [parseWord, decodeCustom2, h0, h1, h2, h3, h4, h5, h6, BitVec.reduceToNat, BitVec.toNat_ofNat, Nat.reducePow, Nat.reduceMod, BEq.rfl, show (0#1 == 1#1) = false from rfl, Bool.false_eq_true, if_false, Bool.and_self, if_true])

theorem vsneVv (vd : VReg) (vs2 : VReg) (vs1 : VReg) (w : Bool) (m : Bool) : Statement (.vsneVv vd vs2 vs1 w m) := of_parse _ (by
  rw [show encode (.vsneVv vd vs2 vs1 w m) = 24#5 ++ (bit1 w) ++ (bit1 m) ++ vs2 ++ vs1 ++ vd ++ 91#7 from rfl]
  generalize hw : (24#5 ++ (bit1 w) ++ (bit1 m) ++ vs2 ++ vs1 ++ vd ++ 91#7 : BitVec 32) = wd
  obtain ⟨h0, h1, h2, h3, h4, h5, h6⟩ : bits wd 6 0 = 91#7 ∧ bits wd 31 27 = 24#5 ∧ bits wd 12 7 = vd ∧ bits wd 24 19 = vs2 ∧ bits wd 18 13 = vs1 ∧ (bits wd 26 26 == 1#1) = w ∧ (bits wd 25 25 == 1#1) = m := by
    subst hw
    simp (disch := decide) only [bits, lo1, hi1, lo5, hi5, lo6, hi6, lo7, hi7, slice_all, bit1_one, Nat.reduceSub, Nat.reduceAdd, BitVec.reduceExtractLsb', and_self]
  clear hw
  simp only [parseWord, decodeCustom2, h0, h1, h2, h3, h4, h5, h6, BitVec.reduceToNat, BitVec.toNat_ofNat, Nat.reducePow, Nat.reduceMod, BEq.rfl, show (0#1 == 1#1) = false from rfl, Bool.false_eq_true, if_false, Bool.and_self, if_true])

theorem vsltVv (vd : VReg) (vs2 : VReg) (vs1 : VReg) (w : Bool) (m : Bool) : Statement (.vsltVv vd vs2 vs1 w m) := of_parse _ (by
  rw [show encode (.vsltVv vd vs2 vs1 w m) = 25#5 ++ (bit1 w) ++ (bit1 m) ++ vs2 ++ vs1 ++ vd ++ 91#7 from rfl]
  generalize hw : (25#5 ++ (bit1 w) ++ (bit1 m) ++ vs2 ++ vs1 ++ vd ++ 91#7 : BitVec 32) = wd
  obtain ⟨h0, h1, h2, h3, h4, h5, h6⟩ : bits wd 6 0 = 91#7 ∧ bits wd 31 27 = 25#5 ∧ bits wd 12 7 = vd ∧ bits wd 24 19 = vs2 ∧ bits wd 18 13 = vs1 ∧ (bits wd 26 26 == 1#1) = w ∧ (bits wd 25 25 == 1#1) = m := by
    subst hw
    simp (disch := decide) only [bits, lo1, hi1, lo5, hi5, lo6, hi6, lo7, hi7, slice_all, bit1_one, Nat.reduceSub, Nat.reduceAdd, BitVec.reduceExtractLsb', and_self]
  clear hw
  simp only [parseWord, decodeCustom2, h0, h1, h2, h3, h4, h5, h6, BitVec.reduceToNat, BitVec.toNat_ofNat, Nat.reducePow, Nat.reduceMod, BEq.rfl, show (0#1 == 1#1) = false from rfl, Bool.false_eq_true, if_false, Bool.and_self, if_true])

theorem vsltuVv (vd : VReg) (vs2 : VReg) (vs1 : VReg) (w : Bool) (m : Bool) : Statement (.vsltuVv vd vs2 vs1 w m) := of_parse _ (by
  rw [show encode (.vsltuVv vd vs2 vs1 w m) = 26#5 ++ (bit1 w) ++ (bit1 m) ++ vs2 ++ vs1 ++ vd ++ 91#7 from rfl]
  generalize hw : (26#5 ++ (bit1 w) ++ (bit1 m) ++ vs2 ++ vs1 ++ vd ++ 91#7 : BitVec 32) = wd
  obtain ⟨h0, h1, h2, h3, h4, h5, h6⟩ : bits wd 6 0 = 91#7 ∧ bits wd 31 27 = 26#5 ∧ bits wd 12 7 = vd ∧ bits wd 24 19 = vs2 ∧ bits wd 18 13 = vs1 ∧ (bits wd 26 26 == 1#1) = w ∧ (bits wd 25 25 == 1#1) = m := by
    subst hw
    simp (disch := decide) only [bits, lo1, hi1, lo5, hi5, lo6, hi6, lo7, hi7, slice_all, bit1_one, Nat.reduceSub, Nat.reduceAdd, BitVec.reduceExtractLsb', and_self]
  clear hw
  simp only [parseWord, decodeCustom2, h0, h1, h2, h3, h4, h5, h6, BitVec.reduceToNat, BitVec.toNat_ofNat, Nat.reducePow, Nat.reduceMod, BEq.rfl, show (0#1 == 1#1) = false from rfl, Bool.false_eq_true, if_false, Bool.and_self, if_true])

theorem vsleVv (vd : VReg) (vs2 : VReg) (vs1 : VReg) (w : Bool) (m : Bool) : Statement (.vsleVv vd vs2 vs1 w m) := of_parse _ (by
  rw [show encode (.vsleVv vd vs2 vs1 w m) = 27#5 ++ (bit1 w) ++ (bit1 m) ++ vs2 ++ vs1 ++ vd ++ 91#7 from rfl]
  generalize hw : (27#5 ++ (bit1 w) ++ (bit1 m) ++ vs2 ++ vs1 ++ vd ++ 91#7 : BitVec 32) = wd
  obtain ⟨h0, h1, h2, h3, h4, h5, h6⟩ : bits wd 6 0 = 91#7 ∧ bits wd 31 27 = 27#5 ∧ bits wd 12 7 = vd ∧ bits wd 24 19 = vs2 ∧ bits wd 18 13 = vs1 ∧ (bits wd 26 26 == 1#1) = w ∧ (bits wd 25 25 == 1#1) = m := by
    subst hw
    simp (disch := decide) only [bits, lo1, hi1, lo5, hi5, lo6, hi6, lo7, hi7, slice_all, bit1_one, Nat.reduceSub, Nat.reduceAdd, BitVec.reduceExtractLsb', and_self]
  clear hw
  simp only [parseWord, decodeCustom2, h0, h1, h2, h3, h4, h5, h6, BitVec.reduceToNat, BitVec.toNat_ofNat, Nat.reducePow, Nat.reduceMod, BEq.rfl, show (0#1 == 1#1) = false from rfl, Bool.false_eq_true, if_false, Bool.and_self, if_true])

theorem vsleuVv (vd : VReg) (vs2 : VReg) (vs1 : VReg) (w : Bool) (m : Bool) : Statement (.vsleuVv vd vs2 vs1 w m) := of_parse _ (by
  rw [show encode (.vsleuVv vd vs2 vs1 w m) = 28#5 ++ (bit1 w) ++ (bit1 m) ++ vs2 ++ vs1 ++ vd ++ 91#7 from rfl]
  generalize hw : (28#5 ++ (bit1 w) ++ (bit1 m) ++ vs2 ++ vs1 ++ vd ++ 91#7 : BitVec 32) = wd
  obtain ⟨h0, h1, h2, h3, h4, h5, h6⟩ : bits wd 6 0 = 91#7 ∧ bits wd 31 27 = 28#5 ∧ bits wd 12 7 = vd ∧ bits wd 24 19 = vs2 ∧ bits wd 18 13 = vs1 ∧ (bits wd 26 26 == 1#1) = w ∧ (bits wd 25 25 == 1#1) = m := by
    subst hw
    simp (disch := decide) only [bits, lo1, hi1, lo5, hi5, lo6, hi6, lo7, hi7, slice_all, bit1_one, Nat.reduceSub, Nat.reduceAdd, BitVec.reduceExtractLsb', and_self]
  clear hw
  simp only [parseWord, decodeCustom2, h0, h1, h2, h3, h4, h5, h6, BitVec.reduceToNat, BitVec.toNat_ofNat, Nat.reducePow, Nat.reduceMod, BEq.rfl, show (0#1 == 1#1) = false from rfl, Bool.false_eq_true, if_false, Bool.and_self, if_true])

theorem vmergeVv (vd : VReg) (vs2 : VReg) (vs1 : VReg) (w : Bool) : Statement (.vmergeVv vd vs2 vs1 w) := of_parse _ (by
  rw [show encode (.vmergeVv vd vs2 vs1 w) = 29#5 ++ (bit1 w) ++ 1#1 ++ vs2 ++ vs1 ++ vd ++ 91#7 from rfl]
  generalize hw : (29#5 ++ (bit1 w) ++ 1#1 ++ vs2 ++ vs1 ++ vd ++ 91#7 : BitVec 32) = wd
  obtain ⟨h0, h1, h2, h3, h4, h5, h6⟩ : bits wd 6 0 = 91#7 ∧ bits wd 31 27 = 29#5 ∧ bits wd 25 25 = 1#1 ∧ bits wd 12 7 = vd ∧ bits wd 24 19 = vs2 ∧ bits wd 18 13 = vs1 ∧ (bits wd 26 26 == 1#1) = w := by
    subst hw
    simp (disch := decide) only [bits, lo1, hi1, lo5, hi5, lo6, hi6, lo7, hi7, slice_all, bit1_one, Nat.reduceSub, Nat.reduceAdd, BitVec.reduceExtractLsb', and_self]
  clear hw
  simp only [parseWord, decodeCustom2, h0, h1, h2, h3, h4, h5, h6, BitVec.reduceToNat, BitVec.toNat_ofNat, Nat.reducePow, Nat.reduceMod, BEq.rfl, show (0#1 == 1#1) = false from rfl, Bool.false_eq_true, if_false, Bool.and_self, if_true])

theorem vperm (vd : VReg) (vs2 : VReg) (vs1 : VReg) (w : Bool) (m : Bool) : Statement (.vperm vd vs2 vs1 w m) := of_parse _ (by
  rw [show encode (.vperm vd vs2 vs1 w m) = 30#5 ++ (bit1 w) ++ (bit1 m) ++ vs2 ++ vs1 ++ vd ++ 91#7 from rfl]
  generalize hw : (30#5 ++ (bit1 w) ++ (bit1 m) ++ vs2 ++ vs1 ++ vd ++ 91#7 : BitVec 32) = wd
  obtain ⟨h0, h1, h2, h3, h4, h5, h6⟩ : bits wd 6 0 = 91#7 ∧ bits wd 31 27 = 30#5 ∧ bits wd 12 7 = vd ∧ bits wd 24 19 = vs2 ∧ bits wd 18 13 = vs1 ∧ (bits wd 26 26 == 1#1) = w ∧ (bits wd 25 25 == 1#1) = m := by
    subst hw
    simp (disch := decide) only [bits, lo1, hi1, lo5, hi5, lo6, hi6, lo7, hi7, slice_all, bit1_one, Nat.reduceSub, Nat.reduceAdd, BitVec.reduceExtractLsb', and_self]
  clear hw
  simp only [parseWord, decodeCustom2, h0, h1, h2, h3, h4, h5, h6, BitVec.reduceToNat, BitVec.toNat_ofNat, Nat.reducePow, Nat.reduceMod, BEq.rfl, show (0#1 == 1#1) = false from rfl, Bool.false_eq_true, if_false, Bool.and_self, if_true])

theorem vmv (vd : VReg) (vs2 : VReg) (w : Bool) (m : Bool) : Statement (.vmv vd vs2 w m) := of_parse _ (by
  rw [show encode (.vmv vd vs2 w m) = 31#5 ++ (bit1 w) ++ (bit1 m) ++ vs2 ++ 0#6 ++ vd ++ 91#7 from rfl]
  generalize hw : (31#5 ++ (bit1 w) ++ (bit1 m) ++ vs2 ++ 0#6 ++ vd ++ 91#7 : BitVec 32) = wd
  obtain ⟨h0, h1, h2, h3, h4, h5, h6⟩ : bits wd 6 0 = 91#7 ∧ bits wd 31 27 = 31#5 ∧ bits wd 18 13 = 0#6 ∧ bits wd 12 7 = vd ∧ bits wd 24 19 = vs2 ∧ (bits wd 26 26 == 1#1) = w ∧ (bits wd 25 25 == 1#1) = m := by
    subst hw
    simp (disch := decide) only [bits, lo1, hi1, lo5, hi5, lo6, hi6, lo7, hi7, slice_all, bit1_one, Nat.reduceSub, Nat.reduceAdd, BitVec.reduceExtractLsb', and_self]
  clear hw
  simp only [parseWord, decodeCustom2, decodeCustom2Sub, h0, h1, h2, h3, h4, h5, h6, BitVec.reduceToNat, BitVec.toNat_ofNat, Nat.reducePow, Nat.reduceMod, BEq.rfl, show (0#1 == 1#1) = false from rfl, Bool.false_eq_true, if_false, Bool.and_self, if_true])

theorem vid (vd : VReg) (w : Bool) (m : Bool) : Statement (.vid vd w m) := of_parse _ (by
  rw [show encode (.vid vd w m) = 31#5 ++ (bit1 w) ++ (bit1 m) ++ 1#12 ++ vd ++ 91#7 from rfl]
  generalize hw : (31#5 ++ (bit1 w) ++ (bit1 m) ++ 1#12 ++ vd ++ 91#7 : BitVec 32) = wd
  obtain ⟨h0, h1, h2, h3, h4, h5, h6⟩ : bits wd 6 0 = 91#7 ∧ bits wd 31 27 = 31#5 ∧ bits wd 24 19 = 0#6 ∧ bits wd 18 13 = 1#6 ∧ bits wd 12 7 = vd ∧ (bits wd 26 26 == 1#1) = w ∧ (bits wd 25 25 == 1#1) = m := by
    subst hw
    simp (disch := decide) only [bits, lo1, hi1, lo5, hi5, lo6, hi6, lo7, hi7, lo12, hi12, slice_all, bit1_one, Nat.reduceSub, Nat.reduceAdd, BitVec.reduceExtractLsb', and_self]
  clear hw
  simp only [parseWord, decodeCustom2, decodeCustom2Sub, h0, h1, h2, h3, h4, h5, h6, BitVec.reduceToNat, BitVec.toNat_ofNat, Nat.reducePow, Nat.reduceMod, BEq.rfl, show (0#1 == 1#1) = false from rfl, Bool.false_eq_true, if_false, Bool.and_self, if_true])

theorem viota (vd : VReg) (vs2 : VReg) (w : Bool) (m : Bool) : Statement (.viota vd vs2 w m) := of_parse _ (by
  rw [show encode (.viota vd vs2 w m) = 31#5 ++ (bit1 w) ++ (bit1 m) ++ vs2 ++ 2#6 ++ vd ++ 91#7 from rfl]
  generalize hw : (31#5 ++ (bit1 w) ++ (bit1 m) ++ vs2 ++ 2#6 ++ vd ++ 91#7 : BitVec 32) = wd
  obtain ⟨h0, h1, h2, h3, h4, h5, h6⟩ : bits wd 6 0 = 91#7 ∧ bits wd 31 27 = 31#5 ∧ bits wd 18 13 = 2#6 ∧ bits wd 12 7 = vd ∧ bits wd 24 19 = vs2 ∧ (bits wd 26 26 == 1#1) = w ∧ (bits wd 25 25 == 1#1) = m := by
    subst hw
    simp (disch := decide) only [bits, lo1, hi1, lo5, hi5, lo6, hi6, lo7, hi7, slice_all, bit1_one, Nat.reduceSub, Nat.reduceAdd, BitVec.reduceExtractLsb', and_self]
  clear hw
  simp only [parseWord, decodeCustom2, decodeCustom2Sub, h0, h1, h2, h3, h4, h5, h6, BitVec.reduceToNat, BitVec.toNat_ofNat, Nat.reducePow, Nat.reduceMod, BEq.rfl, show (0#1 == 1#1) = false from rfl, Bool.false_eq_true, if_false, Bool.and_self, if_true])

theorem vcompress (vd : VReg) (vs2 : VReg) (w : Bool) : Statement (.vcompress vd vs2 w) := of_parse _ (by
  rw [show encode (.vcompress vd vs2 w) = 31#5 ++ (bit1 w) ++ 1#1 ++ vs2 ++ 3#6 ++ vd ++ 91#7 from rfl]
  generalize hw : (31#5 ++ (bit1 w) ++ 1#1 ++ vs2 ++ 3#6 ++ vd ++ 91#7 : BitVec 32) = wd
  obtain ⟨h0, h1, h2, h3, h4, h5, h6⟩ : bits wd 6 0 = 91#7 ∧ bits wd 31 27 = 31#5 ∧ bits wd 18 13 = 3#6 ∧ bits wd 25 25 = 1#1 ∧ bits wd 12 7 = vd ∧ bits wd 24 19 = vs2 ∧ (bits wd 26 26 == 1#1) = w := by
    subst hw
    simp (disch := decide) only [bits, lo1, hi1, lo5, hi5, lo6, hi6, lo7, hi7, slice_all, bit1_one, Nat.reduceSub, Nat.reduceAdd, BitVec.reduceExtractLsb', and_self]
  clear hw
  simp only [parseWord, decodeCustom2, decodeCustom2Sub, h0, h1, h2, h3, h4, h5, h6, BitVec.reduceToNat, BitVec.toNat_ofNat, Nat.reducePow, Nat.reduceMod, BEq.rfl, show (0#1 == 1#1) = false from rfl, Bool.false_eq_true, if_false, Bool.and_self, if_true])

theorem vredsum (vd : VReg) (vs2 : VReg) (w : Bool) (m : Bool) : Statement (.vredsum vd vs2 w m) := of_parse _ (by
  rw [show encode (.vredsum vd vs2 w m) = 31#5 ++ (bit1 w) ++ (bit1 m) ++ vs2 ++ 4#6 ++ vd ++ 91#7 from rfl]
  generalize hw : (31#5 ++ (bit1 w) ++ (bit1 m) ++ vs2 ++ 4#6 ++ vd ++ 91#7 : BitVec 32) = wd
  obtain ⟨h0, h1, h2, h3, h4, h5, h6⟩ : bits wd 6 0 = 91#7 ∧ bits wd 31 27 = 31#5 ∧ bits wd 18 13 = 4#6 ∧ bits wd 12 7 = vd ∧ bits wd 24 19 = vs2 ∧ (bits wd 26 26 == 1#1) = w ∧ (bits wd 25 25 == 1#1) = m := by
    subst hw
    simp (disch := decide) only [bits, lo1, hi1, lo5, hi5, lo6, hi6, lo7, hi7, slice_all, bit1_one, Nat.reduceSub, Nat.reduceAdd, BitVec.reduceExtractLsb', and_self]
  clear hw
  simp only [parseWord, decodeCustom2, decodeCustom2Sub, h0, h1, h2, h3, h4, h5, h6, BitVec.reduceToNat, BitVec.toNat_ofNat, Nat.reducePow, Nat.reduceMod, BEq.rfl, show (0#1 == 1#1) = false from rfl, Bool.false_eq_true, if_false, Bool.and_self, if_true])

theorem vredmin (vd : VReg) (vs2 : VReg) (w : Bool) (m : Bool) : Statement (.vredmin vd vs2 w m) := of_parse _ (by
  rw [show encode (.vredmin vd vs2 w m) = 31#5 ++ (bit1 w) ++ (bit1 m) ++ vs2 ++ 5#6 ++ vd ++ 91#7 from rfl]
  generalize hw : (31#5 ++ (bit1 w) ++ (bit1 m) ++ vs2 ++ 5#6 ++ vd ++ 91#7 : BitVec 32) = wd
  obtain ⟨h0, h1, h2, h3, h4, h5, h6⟩ : bits wd 6 0 = 91#7 ∧ bits wd 31 27 = 31#5 ∧ bits wd 18 13 = 5#6 ∧ bits wd 12 7 = vd ∧ bits wd 24 19 = vs2 ∧ (bits wd 26 26 == 1#1) = w ∧ (bits wd 25 25 == 1#1) = m := by
    subst hw
    simp (disch := decide) only [bits, lo1, hi1, lo5, hi5, lo6, hi6, lo7, hi7, slice_all, bit1_one, Nat.reduceSub, Nat.reduceAdd, BitVec.reduceExtractLsb', and_self]
  clear hw
  simp only [parseWord, decodeCustom2, decodeCustom2Sub, h0, h1, h2, h3, h4, h5, h6, BitVec.reduceToNat, BitVec.toNat_ofNat, Nat.reducePow, Nat.reduceMod, BEq.rfl, show (0#1 == 1#1) = false from rfl, Bool.false_eq_true, if_false, Bool.and_self, if_true])

theorem vredminu (vd : VReg) (vs2 : VReg) (w : Bool) (m : Bool) : Statement (.vredminu vd vs2 w m) := of_parse _ (by
  rw [show encode (.vredminu vd vs2 w m) = 31#5 ++ (bit1 w) ++ (bit1 m) ++ vs2 ++ 6#6 ++ vd ++ 91#7 from rfl]
  generalize hw : (31#5 ++ (bit1 w) ++ (bit1 m) ++ vs2 ++ 6#6 ++ vd ++ 91#7 : BitVec 32) = wd
  obtain ⟨h0, h1, h2, h3, h4, h5, h6⟩ : bits wd 6 0 = 91#7 ∧ bits wd 31 27 = 31#5 ∧ bits wd 18 13 = 6#6 ∧ bits wd 12 7 = vd ∧ bits wd 24 19 = vs2 ∧ (bits wd 26 26 == 1#1) = w ∧ (bits wd 25 25 == 1#1) = m := by
    subst hw
    simp (disch := decide) only [bits, lo1, hi1, lo5, hi5, lo6, hi6, lo7, hi7, slice_all, bit1_one, Nat.reduceSub, Nat.reduceAdd, BitVec.reduceExtractLsb', and_self]
  clear hw
  simp only [parseWord, decodeCustom2, decodeCustom2Sub, h0, h1, h2, h3, h4, h5, h6, BitVec.reduceToNat, BitVec.toNat_ofNat, Nat.reducePow, Nat.reduceMod, BEq.rfl, show (0#1 == 1#1) = false from rfl, Bool.false_eq_true, if_false, Bool.and_self, if_true])

theorem vredmax (vd : VReg) (vs2 : VReg) (w : Bool) (m : Bool) : Statement (.vredmax vd vs2 w m) := of_parse _ (by
  rw [show encode (.vredmax vd vs2 w m) = 31#5 ++ (bit1 w) ++ (bit1 m) ++ vs2 ++ 7#6 ++ vd ++ 91#7 from rfl]
  generalize hw : (31#5 ++ (bit1 w) ++ (bit1 m) ++ vs2 ++ 7#6 ++ vd ++ 91#7 : BitVec 32) = wd
  obtain ⟨h0, h1, h2, h3, h4, h5, h6⟩ : bits wd 6 0 = 91#7 ∧ bits wd 31 27 = 31#5 ∧ bits wd 18 13 = 7#6 ∧ bits wd 12 7 = vd ∧ bits wd 24 19 = vs2 ∧ (bits wd 26 26 == 1#1) = w ∧ (bits wd 25 25 == 1#1) = m := by
    subst hw
    simp (disch := decide) only [bits, lo1, hi1, lo5, hi5, lo6, hi6, lo7, hi7, slice_all, bit1_one, Nat.reduceSub, Nat.reduceAdd, BitVec.reduceExtractLsb', and_self]
  clear hw
  simp only [parseWord, decodeCustom2, decodeCustom2Sub, h0, h1, h2, h3, h4, h5, h6, BitVec.reduceToNat, BitVec.toNat_ofNat, Nat.reducePow, Nat.reduceMod, BEq.rfl, show (0#1 == 1#1) = false from rfl, Bool.false_eq_true, if_false, Bool.and_self, if_true])

theorem vredmaxu (vd : VReg) (vs2 : VReg) (w : Bool) (m : Bool) : Statement (.vredmaxu vd vs2 w m) := of_parse _ (by
  rw [show encode (.vredmaxu vd vs2 w m) = 31#5 ++ (bit1 w) ++ (bit1 m) ++ vs2 ++ 8#6 ++ vd ++ 91#7 from rfl]
  generalize hw : (31#5 ++ (bit1 w) ++ (bit1 m) ++ vs2 ++ 8#6 ++ vd ++ 91#7 : BitVec 32) = wd
  obtain ⟨h0, h1, h2, h3, h4, h5, h6⟩ : bits wd 6 0 = 91#7 ∧ bits wd 31 27 = 31#5 ∧ bits wd 18 13 = 8#6 ∧ bits wd 12 7 = vd ∧ bits wd 24 19 = vs2 ∧ (bits wd 26 26 == 1#1) = w ∧ (bits wd 25 25 == 1#1) = m := by
    subst hw
    simp (disch := decide) only [bits, lo1, hi1, lo5, hi5, lo6, hi6, lo7, hi7, slice_all, bit1_one, Nat.reduceSub, Nat.reduceAdd, BitVec.reduceExtractLsb', and_self]
  clear hw
  simp only [parseWord, decodeCustom2, decodeCustom2Sub, h0, h1, h2, h3, h4, h5, h6, BitVec.reduceToNat, BitVec.toNat_ofNat, Nat.reducePow, Nat.reduceMod, BEq.rfl, show (0#1 == 1#1) = false from rfl, Bool.false_eq_true, if_false, Bool.and_self, if_true])

theorem vredand (vd : VReg) (vs2 : VReg) (w : Bool) (m : Bool) : Statement (.vredand vd vs2 w m) := of_parse _ (by
  rw [show encode (.vredand vd vs2 w m) = 31#5 ++ (bit1 w) ++ (bit1 m) ++ vs2 ++ 9#6 ++ vd ++ 91#7 from rfl]
  generalize hw : (31#5 ++ (bit1 w) ++ (bit1 m) ++ vs2 ++ 9#6 ++ vd ++ 91#7 : BitVec 32) = wd
  obtain ⟨h0, h1, h2, h3, h4, h5, h6⟩ : bits wd 6 0 = 91#7 ∧ bits wd 31 27 = 31#5 ∧ bits wd 18 13 = 9#6 ∧ bits wd 12 7 = vd ∧ bits wd 24 19 = vs2 ∧ (bits wd 26 26 == 1#1) = w ∧ (bits wd 25 25 == 1#1) = m := by
    subst hw
    simp (disch := decide) only [bits, lo1, hi1, lo5, hi5, lo6, hi6, lo7, hi7, slice_all, bit1_one, Nat.reduceSub, Nat.reduceAdd, BitVec.reduceExtractLsb', and_self]
  clear hw
  simp only [parseWord, decodeCustom2, decodeCustom2Sub, h0, h1, h2, h3, h4, h5, h6, BitVec.reduceToNat, BitVec.toNat_ofNat, Nat.reducePow, Nat.reduceMod, BEq.rfl, show (0#1 == 1#1) = false from rfl, Bool.false_eq_true, if_false, Bool.and_self, if_true])

theorem vredor (vd : VReg) (vs2 : VReg) (w : Bool) (m : Bool) : Statement (.vredor vd vs2 w m) := of_parse _ (by
  rw [show encode (.vredor vd vs2 w m) = 31#5 ++ (bit1 w) ++ (bit1 m) ++ vs2 ++ 10#6 ++ vd ++ 91#7 from rfl]
  generalize hw : (31#5 ++ (bit1 w) ++ (bit1 m) ++ vs2 ++ 10#6 ++ vd ++ 91#7 : BitVec 32) = wd
  obtain ⟨h0, h1, h2, h3, h4, h5, h6⟩ : bits wd 6 0 = 91#7 ∧ bits wd 31 27 = 31#5 ∧ bits wd 18 13 = 10#6 ∧ bits wd 12 7 = vd ∧ bits wd 24 19 = vs2 ∧ (bits wd 26 26 == 1#1) = w ∧ (bits wd 25 25 == 1#1) = m := by
    subst hw
    simp (disch := decide) only [bits, lo1, hi1, lo5, hi5, lo6, hi6, lo7, hi7, slice_all, bit1_one, Nat.reduceSub, Nat.reduceAdd, BitVec.reduceExtractLsb', and_self]
  clear hw
  simp only [parseWord, decodeCustom2, decodeCustom2Sub, h0, h1, h2, h3, h4, h5, h6, BitVec.reduceToNat, BitVec.toNat_ofNat, Nat.reducePow, Nat.reduceMod, BEq.rfl, show (0#1 == 1#1) = false from rfl, Bool.false_eq_true, if_false, Bool.and_self, if_true])

theorem vredxor (vd : VReg) (vs2 : VReg) (w : Bool) (m : Bool) : Statement (.vredxor vd vs2 w m) := of_parse _ (by
  rw [show encode (.vredxor vd vs2 w m) = 31#5 ++ (bit1 w) ++ (bit1 m) ++ vs2 ++ 11#6 ++ vd ++ 91#7 from rfl]
  generalize hw : (31#5 ++ (bit1 w) ++ (bit1 m) ++ vs2 ++ 11#6 ++ vd ++ 91#7 : BitVec 32) = wd
  obtain ⟨h0, h1, h2, h3, h4, h5, h6⟩ : bits wd 6 0 = 91#7 ∧ bits wd 31 27 = 31#5 ∧ bits wd 18 13 = 11#6 ∧ bits wd 12 7 = vd ∧ bits wd 24 19 = vs2 ∧ (bits wd 26 26 == 1#1) = w ∧ (bits wd 25 25 == 1#1) = m := by
    subst hw
    simp (disch := decide) only [bits, lo1, hi1, lo5, hi5, lo6, hi6, lo7, hi7, slice_all, bit1_one, Nat.reduceSub, Nat.reduceAdd, BitVec.reduceExtractLsb', and_self]
  clear hw
  simp only [parseWord, decodeCustom2, decodeCustom2Sub, h0, h1, h2, h3, h4, h5, h6, BitVec.reduceToNat, BitVec.toNat_ofNat, Nat.reducePow, Nat.reduceMod, BEq.rfl, show (0#1 == 1#1) = false from rfl, Bool.false_eq_true, if_false, Bool.and_self, if_true])

theorem vmpopc (vd : VReg) (vs2 : VReg) (w : Bool) (m : Bool) : Statement (.vmpopc vd vs2 w m) := of_parse _ (by
  rw [show encode (.vmpopc vd vs2 w m) = 31#5 ++ (bit1 w) ++ (bit1 m) ++ vs2 ++ 12#6 ++ vd ++ 91#7 from rfl]
  generalize hw : (31#5 ++ (bit1 w) ++ (bit1 m) ++ vs2 ++ 12#6 ++ vd ++ 91#7 : BitVec 32) = wd
  obtain ⟨h0, h1, h2, h3, h4, h5, h6⟩ : bits wd 6 0 = 91#7 ∧ bits wd 31 27 = 31#5 ∧ bits wd 18 13 = 12#6 ∧ bits wd 12 7 = vd ∧ bits wd 24 19 = vs2 ∧ (bits wd 26 26 == 1#1) = w ∧ (bits wd 25 25 == 1#1) = m := by
    subst hw
    simp (disch := decide) only [bits, lo1, hi1, lo5, hi5, lo6, hi6, lo7, hi7, slice_all, bit1_one, Nat.reduceSub, Nat.reduceAdd, BitVec.reduceExtractLsb', and_self]
  clear hw
  simp only [parseWord, decodeCustom2, decodeCustom2Sub, h0, h1, h2, h3, h4, h5, h6, BitVec.reduceToNat, BitVec.toNat_ofNat, Nat.reducePow, Nat.reduceMod, BEq.rfl, show (0#1 == 1#1) = false from rfl, Bool.false_eq_true, if_false, Bool.and_self, if_true])

theorem vmfirst (vd : VReg) (vs2 : VReg) (w : Bool) (m : Bool) : Statement (.vmfirst vd vs2 w m) := of_parse _ (by
  rw [show encode (.vmfirst vd vs2 w m) = 31#5 ++ (bit1 w) ++ (bit1 m) ++ vs2 ++ 13#6 ++ vd ++ 91#7 from rfl]
  generalize hw : (31#5 ++ (bit1 w) ++ (bit1 m) ++ vs2 ++ 13#6 ++ vd ++ 91#7 : BitVec 32) = wd
  obtain ⟨h0, h1, h2, h3, h4, h5, h6⟩ : bits wd 6 0 = 91#7 ∧ bits wd 31 27 = 31#5 ∧ bits wd 18 13 = 13#6 ∧ bits wd 12 7 = vd ∧ bits wd 24 19 = vs2 ∧ (bits wd 26 26 == 1#1) = w ∧ (bits wd 25 25 == 1#1) = m := by
    subst hw
    simp (disch := decide) only [bits, lo1, hi1, lo5, hi5, lo6, hi6, lo7, hi7, slice_all, bit1_one, Nat.reduceSub, Nat.reduceAdd, BitVec.reduceExtractLsb', and_self]
  clear hw
  simp only [parseWord, decodeCustom2, decodeCustom2Sub, h0, h1, h2, h3, h4, h5, h6, BitVec.reduceToNat, BitVec.toNat_ofNat, Nat.reducePow, Nat.reduceMod, BEq.rfl, show (0#1 == 1#1) = false from rfl, Bool.false_eq_true, if_false, Bool.and_self, if_true])

theorem vabs (vd : VReg) (vs2 : VReg) (w : Bool) (m : Bool) : Statement (.vabs vd vs2 w m) := of_parse _ (by
  rw [show encode (.vabs vd vs2 w m) = 31#5 ++ (bit1 w) ++ (bit1 m) ++ vs2 ++ 14#6 ++ vd ++ 91#7 from rfl]
  generalize hw : (31#5 ++ (bit1 w) ++ (bit1 m) ++ vs2 ++ 14#6 ++ vd ++ 91#7 : BitVec 32) = wd
  obtain ⟨h0, h1, h2, h3, h4, h5, h6⟩ : bits wd 6 0 = 91#7 ∧ bits wd 31 27 = 31#5 ∧ bits wd 18 13 = 14#6 ∧ bits wd 12 7 = vd ∧ bits wd 24 19 = vs2 ∧ (bits wd 26 26 == 1#1) = w ∧ (bits wd 25 25 == 1#1) = m := by
    subst hw
    simp (disch := decide) only [bits, lo1, hi1, lo5, hi5, lo6, hi6, lo7, hi7, slice_all, bit1_one, Nat.reduceSub, Nat.reduceAdd, BitVec.reduceExtractLsb', and_self]
  clear hw
  simp only [parseWord, decodeCustom2, decodeCustom2Sub, h0, h1, h2, h3, h4, h5, h6, BitVec.reduceToNat, BitVec.toNat_ofNat, Nat.reducePow, Nat.reduceMod, BEq.rfl, show (0#1 == 1#1) = false from rfl, Bool.false_eq_true, if_false, Bool.and_self, if_true])

theorem vneg (vd : VReg) (vs2 : VReg) (w : Bool) (m : Bool) : Statement (.vneg vd vs2 w m) := of_parse _ (by
  rw [show encode (.vneg vd vs2 w m) = 31#5 ++ (bit1 w) ++ (bit1 m) ++ vs2 ++ 15#6 ++ vd ++ 91#7 from rfl]
  generalize hw : (31#5 ++ (bit1 w) ++ (bit1 m) ++ vs2 ++ 15#6 ++ vd ++ 91#7 : BitVec 32) = wd
  obtain ⟨h0, h1, h2, h3, h4, h5, h6⟩ : bits wd 6 0 = 91#7 ∧ bits wd 31 27 = 31#5 ∧ bits wd 18 13 = 15#6 ∧ bits wd 12 7 = vd ∧ bits wd 24 19 = vs2 ∧ (bits wd 26 26 == 1#1) = w ∧ (bits wd 25 25 == 1#1) = m := by
    subst hw
    simp (disch := decide) only [bits, lo1, hi1, lo5, hi5, lo6, hi6, lo7, hi7, slice_all, bit1_one, Nat.reduceSub, Nat.reduceAdd, BitVec.reduceExtractLsb', and_self]
  clear hw
  simp only [parseWord, decodeCustom2, decodeCustom2Sub, h0, h1, h2, h3, h4, h5, h6, BitVec.reduceToNat, BitVec.toNat_ofNat, Nat.reducePow, Nat.reduceMod, BEq.rfl, show (0#1 == 1#1) = false from rfl, Bool.false_eq_true, if_false, Bool.and_self, if_true])

theorem vnot (vd : VReg) (vs2 : VReg) (w : Bool) (m : Bool) : Statement (.vnot vd vs2 w m) := of_parse _ (by
  rw [show encode (.vnot vd vs2 w m) = 31#5 ++ (bit1 w) ++ (bit1 m) ++ vs2 ++ 16#6 ++ vd ++ 91#7 from rfl]
  generalize hw : (31#5 ++ (bit1 w) ++ (bit1 m) ++ vs2 ++ 16#6 ++ vd ++ 91#7 : BitVec 32) = wd
  obtain ⟨h0, h1, h2, h3, h4, h5, h6⟩ : bits wd 6 0 = 91#7 ∧ bits wd 31 27 = 31#5 ∧ bits wd 18 13 = 16#6 ∧ bits wd 12 7 = vd ∧ bits wd 24 19 = vs2 ∧ (bits wd 26 26 == 1#1) = w ∧ (bits wd 25 25 == 1#1) = m := by
    subst hw
    simp (disch := decide) only [bits, lo1, hi1, lo5, hi5, lo6, hi6, lo7, hi7, slice_all, bit1_one, Nat.reduceSub, Nat.reduceAdd, BitVec.reduceExtractLsb', and_self]
  clear hw
  simp only [parseWord, decodeCustom2, decodeCustom2Sub, h0, h1, h2, h3, h4, h5, h6, BitVec.reduceToNat, BitVec.toNat_ofNat, Nat.reducePow, Nat.reduceMod, BEq.rfl, show (0#1 == 1#1) = false from rfl, Bool.false_eq_true, if_false, Bool.and_self, if_true])

theorem vclz (vd : VReg) (vs2 : VReg) (w : Bool) (m : Bool) : Statement (.vclz vd vs2 w m) := of_parse _ (by
  rw [show encode (.vclz vd vs2 w m) = 31#5 ++ (bit1 w) ++ (bit1 m) ++ vs2 ++ 17#6 ++ vd ++ 91#7 from rfl]
  generalize hw : (31#5 ++ (bit1 w) ++ (bit1 m) ++ vs2 ++ 17#6 ++ vd ++ 91#7 : BitVec 32) = wd
  obtain ⟨h0, h1, h2, h3, h4, h5, h6⟩ : bits wd 6 0 = 91#7 ∧ bits wd 31 27 = 31#5 ∧ bits wd 18 13 = 17#6 ∧ bits wd 12 7 = vd ∧ bits wd 24 19 = vs2 ∧ (bits wd 26 26 == 1#1) = w ∧ (bits wd 25 25 == 1#1) = m := by
    subst hw
    simp (disch := decide) only [bits, lo1, hi1, lo5, hi5, lo6, hi6, lo7, hi7, slice_all, bit1_one, Nat.reduceSub, Nat.reduceAdd, BitVec.reduceExtractLsb', and_self]
  clear hw
  simp only [parseWord, decodeCustom2, decodeCustom2Sub, h0, h1, h2, h3, h4, h5, h6, BitVec.reduceToNat, BitVec.toNat_ofNat, Nat.reducePow, Nat.reduceMod, BEq.rfl, show (0#1 == 1#1) = false from rfl, Bool.false_eq_true, if_false, Bool.and_self, if_true])

theorem vpopcnt (vd : VReg) (vs2 : VReg) (w : Bool) (m : Bool) : Statement (.vpopcnt vd vs2 w m) := of_parse _ (by
  rw [show encode (.vpopcnt vd vs2 w m) = 31#5 ++ (bit1 w) ++ (bit1 m) ++ vs2 ++ 18#6 ++ vd ++ 91#7 from rfl]
  generalize hw : (31#5 ++ (bit1 w) ++ (bit1 m) ++ vs2 ++ 18#6 ++ vd ++ 91#7 : BitVec 32) = wd
  obtain ⟨h0, h1, h2, h3, h4, h5, h6⟩ : bits wd 6 0 = 91#7 ∧ bits wd 31 27 = 31#5 ∧ bits wd 18 13 = 18#6 ∧ bits wd 12 7 = vd ∧ bits wd 24 19 = vs2 ∧ (bits wd 26 26 == 1#1) = w ∧ (bits wd 25 25 == 1#1) = m := by
    subst hw
    simp (disch := decide) only [bits, lo1, hi1, lo5, hi5, lo6, hi6, lo7, hi7, slice_all, bit1_one, Nat.reduceSub, Nat.reduceAdd, BitVec.reduceExtractLsb', and_self]
  clear hw
  simp only [parseWord, decodeCustom2, decodeCustom2Sub, h0, h1, h2, h3, h4, h5, h6, BitVec.reduceToNat, BitVec.toNat_ofNat, Nat.reducePow, Nat.reduceMod, BEq.rfl, show (0#1 == 1#1) = false from rfl, Bool.false_eq_true, if_false, Bool.and_self, if_true])

theorem vsext (vd : VReg) (vs2 : VReg) (w : Bool) (m : Bool) : Statement (.vsext vd vs2 w m) := of_parse _ (by
  rw [show encode (.vsext vd vs2 w m) = 31#5 ++ (bit1 w) ++ (bit1 m) ++ vs2 ++ 19#6 ++ vd ++ 91#7 from rfl]
  generalize hw : (31#5 ++ (bit1 w) ++ (bit1 m) ++ vs2 ++ 19#6 ++ vd ++ 91#7 : BitVec 32) = wd
  obtain ⟨h0, h1, h2, h3, h4, h5, h6⟩ : bits wd 6 0 = 91#7 ∧ bits wd 31 27 = 31#5 ∧ bits wd 18 13 = 19#6 ∧ bits wd 12 7 = vd ∧ bits wd 24 19 = vs2 ∧ (bits wd 26 26 == 1#1) = w ∧ (bits wd 25 25 == 1#1) = m := by
    subst hw
    simp (disch := decide) only [bits, lo1, hi1, lo5, hi5, lo6, hi6, lo7, hi7, slice_all, bit1_one, Nat.reduceSub, Nat.reduceAdd, BitVec.reduceExtractLsb', and_self]
  clear hw
  simp only [parseWord, decodeCustom2, decodeCustom2Sub, h0, h1, h2, h3, h4, h5, h6, BitVec.reduceToNat, BitVec.toNat_ofNat, Nat.reducePow, Nat.reduceMod, BEq.rfl, show (0#1 == 1#1) = false from rfl, Bool.false_eq_true, if_false, Bool.and_self, if_true])

theorem vzext (vd : VReg) (vs2 : VReg) (w : Bool) (m : Bool) : Statement (.vzext vd vs2 w m) := of_parse _ (by
  rw [show encode (.vzext vd vs2 w m) = 31#5 ++ (bit1 w) ++ (bit1 m) ++ vs2 ++ 20#6 ++ vd ++ 91#7 from rfl]
  generalize hw : (31#5 ++ (bit1 w) ++ (bit1 m) ++ vs2 ++ 20#6 ++ vd ++ 91#7 : BitVec 32) = wd
  obtain ⟨h0, h1, h2, h3, h4, h5, h6⟩ : bits wd 6 0 = 91#7 ∧ bits wd 31 27 = 31#5 ∧ bits wd 18 13 = 20#6 ∧ bits wd 12 7 = vd ∧ bits wd 24 19 = vs2 ∧ (bits wd 26 26 == 1#1) = w ∧ (bits wd 25 25 == 1#1) = m := by
    subst hw
    simp (disch := decide) only [bits, lo1, hi1, lo5, hi5, lo6, hi6, lo7, hi7, slice_all, bit1_one, Nat.reduceSub, Nat.reduceAdd, BitVec.reduceExtractLsb', and_self]
  clear hw
  simp only [parseWord, decodeCustom2, decodeCustom2Sub, h0, h1, h2, h3, h4, h5, h6, BitVec.reduceToNat, BitVec.toNat_ofNat, Nat.reducePow, Nat.reduceMod, BEq.rfl, show (0#1 == 1#1) = false from rfl, Bool.false_eq_true, if_false, Bool.and_self, if_true])

theorem vnclip (vd : VReg) (vs2 : VReg) (w : Bool) (m : Bool) : Statement (.vnclip vd vs2 w m) := of_parse _ (by
  rw [show encode (.vnclip vd vs2 w m) = 31#5 ++ (bit1 w) ++ (bit1 m) ++ vs2 ++ 21#6 ++ vd ++ 91#7 from rfl]
  generalize hw : (31#5 ++ (bit1 w) ++ (bit1 m) ++ vs2 ++ 21#6 ++ vd ++ 91#7 : BitVec 32) = wd
  obtain ⟨h0, h1, h2, h3, h4, h5, h6⟩ : bits wd 6 0 = 91#7 ∧ bits wd 31 27 = 31#5 ∧ bits wd 18 13 = 21#6 ∧ bits wd 12 7 = vd ∧ bits wd 24 19 = vs2 ∧ (bits wd 26 26 == 1#1) = w ∧ (bits wd 25 25 == 1#1) = m := by
    subst hw
    simp (disch := decide) only [bits, lo1, hi1, lo5, hi5, lo6, hi6, lo7, hi7, slice_all, bit1_one, Nat.reduceSub, Nat.reduceAdd, BitVec.reduceExtractLsb', and_self]
  clear hw
  simp only [parseWord, decodeCustom2, decodeCustom2Sub, h0, h1, h2, h3, h4, h5, h6, BitVec.reduceToNat, BitVec.toNat_ofNat, Nat.reducePow, Nat.reduceMod, BEq.rfl, show (0#1 == 1#1) = false from rfl, Bool.false_eq_true, if_false, Bool.and_self, if_true])

theorem vnclipu (vd : VReg) (vs2 : VReg) (w : Bool) (m : Bool) : Statement (.vnclipu vd vs2 w m) := of_parse _ (by
  rw [show encode (.vnclipu vd vs2 w m) = 31#5 ++ (bit1 w) ++ (bit1 m) ++ vs2 ++ 22#6 ++ vd ++ 91#7 from rfl]
  generalize hw : (31#5 ++ (bit1 w) ++ (bit1 m) ++ vs2 ++ 22#6 ++ vd ++ 91#7 : BitVec 32) = wd
  obtain ⟨h0, h1, h2, h3, h4, h5, h6⟩ : bits wd 6 0 = 91#7 ∧ bits wd 31 27 = 31#5 ∧ bits wd 18 13 = 22#6 ∧ bits wd 12 7 = vd ∧ bits wd 24 19 = vs2 ∧ (bits wd 26 26 == 1#1) = w ∧ (bits wd 25 25 == 1#1) = m := by
    subst hw
    simp (disch := decide) only [bits, lo1, hi1, lo5, hi5, lo6, hi6, lo7, hi7, slice_all, bit1_one, Nat.reduceSub, Nat.reduceAdd, BitVec.reduceExtractLsb', and_self]
  clear hw
  simp only [parseWord, decodeCustom2, decodeCustom2Sub, h0, h1, h2, h3, h4, h5, h6, BitVec.reduceToNat, BitVec.toNat_ofNat, Nat.reducePow, Nat.reduceMod, BEq.rfl, show (0#1 == 1#1) = false from rfl, Bool.false_eq_true, if_false, Bool.and_self, if_true])

theorem vaddVx (vd : VReg) (vs2 : VReg) (rs1 : XReg) (w : Bool) (m : Bool) : Statement (.vaddVx vd vs2 rs1 w m) := of_parse _ (by
  rw [show encode (.vaddVx vd vs2 rs1 w m) = 0#6 ++ (bit1 w) ++ (bit1 m) ++ vs2 ++ rs1 ++ vd ++ 43#7 from rfl]
  generalize hw : (0#6 ++ (bit1 w) ++ (bit1 m) ++ vs2 ++ rs1 ++ vd ++ 43#7 : BitVec 32) = wd
  obtain ⟨h0, h1, h2, h3, h4, h5, h6, h7, h8⟩ : bits wd 6 0 = 43#7 ∧ bits wd 31 31 = 0#1 ∧ bits wd 31 27 = 0#5 ∧ bits wd 31 26 = 0#6 ∧ bits wd 12 7 = vd ∧ bits wd 23 18 = vs2 ∧ bits wd 17 13 = rs1 ∧ (bits wd 25 25 == 1#1) = w ∧ (bits wd 24 24 == 1#1) = m := by
    subst hw
    simp (disch := decide) only [bits, lo1, hi1, lo5, hi5, lo6, hi6, lo7, hi7, slice_all, bit1_one, Nat.reduceSub, Nat.reduceAdd, BitVec.reduceExtractLsb', and_self]
  clear hw
  simp only [parseWord, decodeCustom1, decodeCustom1C0, h0, h1, h2, h3, h4, h5, h6, h7, h8, BitVec.reduceToNat, BitVec.toNat_ofNat, Nat.reducePow, Nat.reduceMod, BEq.rfl, show (0#1 == 1#1) = false from rfl, Bool.false_eq_true, if_false, Bool.and_self, if_true])

theorem vsubVx (vd : VReg) (vs2 : VReg) (rs1 : XReg) (w : Bool) (m : Bool) : Statement (.vsubVx vd vs2 rs1 w m) := of_parse _ (by
  rw [show encode (.vsubVx vd vs2 rs1 w m) = 1#6 ++ (bit1 w) ++ (bit1 m) ++ vs2 ++ rs1 ++ vd ++ 43#7 from rfl]
  generalize hw : (1#6 ++ (bit1 w) ++ (bit1 m) ++ vs2 ++ rs1 ++ vd ++ 43#7 : BitVec 32) = wd
  obtain ⟨h0, h1, h2, h3, h4, h5, h6, h7, h8⟩ : bits wd 6 0 = 43#7 ∧ bits wd 31 31 = 0#1 ∧ bits wd 31 27 = 0#5 ∧ bits wd 31 26 = 1#6 ∧ bits wd 12 7 = vd ∧ bits wd 23 18 = vs2 ∧ bits wd 17 13 = rs1 ∧ (bits wd 25 25 == 1#1) = w ∧ (bits wd 24 24 == 1#1) = m := by
    subst hw
    simp (disch := decide) only [bits, lo1, hi1, lo5, hi5, lo6, hi6, lo7, hi7, slice_all, bit1_one, Nat.reduceSub, Nat.reduceAdd, BitVec.reduceExtractLsb', and_self]
  clear hw
  simp only [parseWord, decodeCustom1, decodeCustom1C0, h0, h1, h2, h3, h4, h5, h6, h7, h8, BitVec.reduceToNat, BitVec.toNat_ofNat, Nat.reducePow, Nat.reduceMod, BEq.rfl, show (0#1 == 1#1) = false from rfl, Bool.false_eq_true, if_false, Bool.and_self, if_true])

theorem vmulVx (vd : VReg) (vs2 : VReg) (rs1 : XReg) (w : Bool) (m : Bool) : Statement (.vmulVx vd vs2 rs1 w m) := of_parse _ (by
  rw [show encode (.vmulVx vd vs2 rs1 w m) = 2#6 ++ (bit1 w) ++ (bit1 m) ++ vs2 ++ rs1 ++ vd ++ 43#7 from rfl]
  generalize hw : (2#6 ++ (bit1 w) ++ (bit1 m) ++ vs2 ++ rs1 ++ vd ++ 43#7 : BitVec 32) = wd
  obtain ⟨h0, h1, h2, h3, h4, h5, h6, h7, h8⟩ : bits wd 6 0 = 43#7 ∧ bits wd 31 31 = 0#1 ∧ bits wd 31 27 = 1#5 ∧ bits wd 31 26 = 2#6 ∧ bits wd 12 7 = vd ∧ bits wd 23 18 = vs2 ∧ bits wd 17 13 = rs1 ∧ (bits wd 25 25 == 1#1) = w ∧ (bits wd 24 24 == 1#1) = m := by
    subst hw
    simp (disch := decide) only [bits, lo1, hi1, lo5, hi5, lo6, hi6, lo7, hi7, slice_all, bit1_one, Nat.reduceSub, Nat.reduceAdd, BitVec.reduceExtractLsb', and_self]
  clear hw
  simp only [parseWord, decodeCustom1, decodeCustom1C0, h0, h1, h2, h3, h4, h5, h6, h7, h8, BitVec.reduceToNat, BitVec.toNat_ofNat, Nat.reducePow, Nat.reduceMod, BEq.rfl, show (0#1 == 1#1) = false from rfl, Bool.false_eq_true, if_false, Bool.and_self, if_true])

theorem vmulhVx (vd : VReg) (vs2 : VReg) (rs1 : XReg) (w : Bool) (m : Bool) : Statement (.vmulhVx vd vs2 rs1 w m) := of_parse _ (by
  rw [show encode (.vmulhVx vd vs2 rs1 w m) = 3#6 ++ (bit1 w) ++ (bit1 m) ++ vs2 ++ rs1 ++ vd ++ 43#7 from rfl]
  generalize hw : (3#6 ++ (bit1 w) ++ (bit1 m) ++ vs2 ++ rs1 ++ vd ++ 43#7 : BitVec 32) = wd
  obtain ⟨h0, h1, h2, h3, h4, h5, h6, h7, h8⟩ : bits wd 6 0 = 43#7 ∧ bits wd 31 31 = 0#1 ∧ bits wd 31 27 = 1#5 ∧ bits wd 31 26 = 3#6 ∧ bits wd 12 7 = vd ∧ bits wd 23 18 = vs2 ∧ bits wd 17 13 = rs1 ∧ (bits wd 25 25 == 1#1) = w ∧ (bits wd 24 24 == 1#1) = m := by
    subst hw
    simp (disch := decide) only [bits, lo1, hi1, lo5, hi5, lo6, hi6, lo7, hi7, slice_all, bit1_one, Nat.reduceSub, Nat.reduceAdd, BitVec.reduceExtractLsb', and_self]
  clear hw
  simp only [parseWord, decodeCustom1, decodeCustom1C0, h0, h1, h2, h3, h4, h5, h6, h7, h8, BitVec.reduceToNat, BitVec.toNat_ofNat, Nat.reducePow, Nat.reduceMod, BEq.rfl, show (0#1 == 1#1) = false from rfl, Bool.false_eq_true, if_false, Bool.and_self, if_true])

theorem vmulhuVx (vd : VReg) (vs2 : VReg) (rs1 : XReg) (w : Bool) (m : Bool) : Statement (.vmulhuVx vd vs2 rs1 w m) := of_parse _ (by
  rw [show encode (.vmulhuVx vd vs2 rs1 w m) = 4#6 ++ (bit1 w) ++ (bit1 m) ++ vs2 ++ rs1 ++ vd ++ 43#7 from rfl]
  generalize hw : (4#6 ++ (bit1 w) ++ (bit1 m) ++ vs2 ++ rs1 ++ vd ++ 43#7 : BitVec 32) = wd
  obtain ⟨h0, h1, h2, h3, h4, h5, h6, h7, h8⟩ : bits wd 6 0 = 43#7 ∧ bits wd 31 31 = 0#1 ∧ bits wd 31 27 = 2#5 ∧ bits wd 31 26 = 4#6 ∧ bits wd 12 7 = vd ∧ bits wd 23 18 = vs2 ∧ bits wd 17 13 = rs1 ∧ (bits wd 25 25 == 1#1) = w ∧ (bits wd 24 24 == 1#1) = m := by
    subst hw
    simp (disch := decide) only [bits, lo1, hi1, lo5, hi5, lo6, hi6, lo7, hi7, slice_all, bit1_one, Nat.reduceSub, Nat.reduceAdd, BitVec.reduceExtractLsb', and_self]
  clear hw
  simp only [parseWord, decodeCustom1, decodeCustom1C0, h0, h1, h2, h3, h4, h5, h6, h7, h8, BitVec.reduceToNat, BitVec.toNat_ofNat, Nat.reducePow, Nat.reduceMod, BEq.rfl, show (0#1 == 1#1) = false from rfl, Bool.false_eq_true, if_false, Bool.and_self, if_true])

theorem vdivVx (vd : VReg) (vs2 : VReg) (rs1 : XReg) (w : Bool) (m : Bool) : Statement (.vdivVx vd vs2 rs1 w m) := of_parse _ (by
  rw [show encode (.vdivVx vd vs2 rs1 w m) = 5#6 ++ (bit1 w) ++ (bit1 m) ++ vs2 ++ rs1 ++ vd ++ 43#7 from rfl]
  generalize hw : (5#6 ++ (bit1 w) ++ (bit1 m) ++ vs2 ++ rs1 ++ vd ++ 43#7 : BitVec 32) = wd
  obtain ⟨h0, h1, h2, h3, h4, h5, h6, h7, h8⟩ : bits wd 6 0 = 43#7 ∧ bits wd 31 31 = 0#1 ∧ bits wd 31 27 = 2#5 ∧ bits wd 31 26 = 5#6 ∧ bits wd 12 7 = vd ∧ bits wd 23 18 = vs2 ∧ bits wd 17 13 = rs1 ∧ (bits wd 25 25 == 1#1) = w ∧ (bits wd 24 24 == 1#1) = m := by
    subst hw
    simp (disch := decide) only [bits, lo1, hi1, lo5, hi5, lo6, hi6, lo7, hi7, slice_all, bit1_one, Nat.reduceSub, Nat.reduceAdd, BitVec.reduceExtractLsb', and_self]
  clear hw
  simp only [parseWord, decodeCustom1, decodeCustom1C0, h0, h1, h2, h3, h4, h5, h6, h7, h8, BitVec.reduceToNat, BitVec.toNat_ofNat, Nat.reducePow, Nat.reduceMod, BEq.rfl, show (0#1 == 1#1) = false from rfl, Bool.false_eq_true, if_false, Bool.and_self, if_true])

theorem vdivuVx (vd : VReg) (vs2 : VReg) (rs1 : XReg) (w : Bool) (m : Bool) : Statement (.vdivuVx vd vs2 rs1 w m) := of_parse _ (by
  rw [show encode (.vdivuVx vd vs2 rs1 w m) = 6#6 ++ (bit1 w) ++ (bit1 m) ++ vs2 ++ rs1 ++ vd ++ 43#7 from rfl]
  generalize hw : (6#6 ++ (bit1 w) ++ (bit1 m) ++ vs2 ++ rs1 ++ vd ++ 43#7 : BitVec 32) = wd
  obtain ⟨h0, h1, h2, h3, h4, h5, h6, h7, h8⟩ : bits wd 6 0 = 43#7 ∧ bits wd 31 31 = 0#1 ∧ bits wd 31 27 = 3#5 ∧ bits wd 31 26 = 6#6 ∧ bits wd 12 7 = vd ∧ bits wd 23 18 = vs2 ∧ bits wd 17 13 = rs1 ∧ (bits wd 25 25 == 1#1) = w ∧ (bits wd 24 24 == 1#1) = m := by
    subst hw
    simp (disch := decide) only [bits, lo1, hi1, lo5, hi5, lo6, hi6, lo7, hi7, slice_all, bit1_one, Nat.reduceSub, Nat.reduceAdd, BitVec.reduceExtractLsb', and_self]
  clear hw
  simp only [parseWord, decodeCustom1, decodeCustom1C0, h0, h1, h2, h3, h4, h5, h6, h7, h8, BitVec.reduceToNat, BitVec.toNat_ofNat, Nat.reducePow, Nat.reduceMod, BEq.rfl, show (0#1 == 1#1) = false from rfl, Bool.false_eq_true, if_false, Bool.and_self, if_true])

theorem vremVx (vd : VReg) (vs2 : VReg) (rs1 : XReg) (w : Bool) (m : Bool) : Statement (.vremVx vd vs2 rs1 w m) := of_parse _ (by
  rw [show encode (.vremVx vd vs2 rs1 w m) = 7#6 ++ (bit1 w) ++ (bit1 m) ++ vs2 ++ rs1 ++ vd ++ 43#7 from rfl]
  generalize hw : (7#6 ++ (bit1 w) ++ (bit1 m) ++ vs2 ++ rs1 ++ vd ++ 43#7 : BitVec 32) = wd
  obtain ⟨h0, h1, h2, h3, h4, h5, h6, h7, h8⟩ : bits wd 6 0 = 43#7 ∧ bits wd 31 31 = 0#1 ∧ bits wd 31 27 = 3#5 ∧ bits wd 31 26 = 7#6 ∧ bits wd 12 7 = vd ∧ bits wd 23 18 = vs2 ∧ bits wd 17 13 = rs1 ∧ (bits wd 25 25 == 1#1) = w ∧ (bits wd 24 24 == 1#1) = m := by
    subst hw
    simp (disch := decide) only [bits, lo1, hi1, lo5, hi5, lo6, hi6, lo7, hi7, slice_all, bit1_one, Nat.reduceSub, Nat.reduceAdd, BitVec.reduceExtractLsb', and_self]
  clear hw
  simp only [parseWord, decodeCustom1, decodeCustom1C0, h0, h1, h2, h3, h4, h5, h6, h7, h8, BitVec.reduceToNat, BitVec.toNat_ofNat, Nat.reducePow, Nat.reduceMod, BEq.rfl, show (0#1 == 1#1) = false from rfl, Bool.false_eq_true, if_false, Bool.and_self, if_true])

theorem vremuVx (vd : VReg) (vs2 : VReg) (rs1 : XReg) (w : Bool) (m : Bool) : Statement (.vremuVx vd vs2 rs1 w m) := of_parse _ (by
  rw [show encode (.vremuVx vd vs2 rs1 w m) = 8#6 ++ (bit1 w) ++ (bit1 m) ++ vs2 ++ rs1 ++ vd ++ 43#7 from rfl]
  generalize hw : (8#6 ++ (bit1 w) ++ (bit1 m) ++ vs2 ++ rs1 ++ vd ++ 43#7 : BitVec 32) = wd
  obtain ⟨h0, h1, h2, h3, h4, h5, h6, h7, h8⟩ : bits wd 6 0 = 43#7 ∧ bits wd 31 31 = 0#1 ∧ bits wd 31 27 = 4#5 ∧ bits wd 31 26 = 8#6 ∧ bits wd 12 7 = vd ∧ bits wd 23 18 = vs2 ∧ bits wd 17 13 = rs1 ∧ (bits wd 25 25 == 1#1) = w ∧ (bits wd 24 24 == 1#1) = m := by
    subst hw
    simp (disch := decide) only [bits, lo1, hi1, lo5, hi5, lo6, hi6, lo7, hi7, slice_all, bit1_one, Nat.reduceSub, Nat.reduceAdd, BitVec.reduceExtractLsb', and_self]
  clear hw
  simp only [parseWord, decodeCustom1, decodeCustom1C0, h0, h1, h2, h3, h4, h5, h6, h7, h8, BitVec.reduceToNat, BitVec.toNat_ofNat, Nat.reducePow, Nat.reduceMod, BEq.rfl, show (0#1 == 1#1) = false from rfl, Bool.false_eq_true, if_false, Bool.and_self, if_true])

theorem vminVx (vd : VReg) (vs2 : VReg) (rs1 : XReg) (w : Bool) (m : Bool) : Statement (.vminVx vd vs2 rs1 w m) := of_parse _ (by
  rw [show encode (.vminVx vd vs2 rs1 w m) = 9#6 ++ (bit1 w) ++ (bit1 m) ++ vs2 ++ rs1 ++ vd ++ 43#7 from rfl]
  generalize hw : (9#6 ++ (bit1 w) ++ (bit1 m) ++ vs2 ++ rs1 ++ vd ++ 43#7 : BitVec 32) = wd
  obtain ⟨h0, h1, h2, h3, h4, h5, h6, h7, h8⟩ : bits wd 6 0 = 43#7 ∧ bits wd 31 31 = 0#1 ∧ bits wd 31 27 = 4#5 ∧ bits wd 31 26 = 9#6 ∧ bits wd 12 7 = vd ∧ bits wd 23 18 = vs2 ∧ bits wd 17 13 = rs1 ∧ (bits wd 25 25 == 1#1) = w ∧ (bits wd 24 24 == 1#1) = m := by
    subst hw
    simp (disch := decide) only [bits, lo1, hi1, lo5, hi5, lo6, hi6, lo7, hi7, slice_all, bit1_one, Nat.reduceSub, Nat.reduceAdd, BitVec.reduceExtractLsb', and_self]
  clear hw
  simp only [parseWord, decodeCustom1, decodeCustom1C0, h0, h1, h2, h3, h4, h5, h6, h7, h8, BitVec.reduceToNat, BitVec.toNat_ofNat, Nat.reducePow, Nat.reduceMod, BEq.rfl, show (0#1 == 1#1) = false from rfl, Bool.false_eq_true, if_false, Bool.and_self, if_true])

theorem vminuVx (vd : VReg) (vs2 : VReg) (rs1 : XReg) (w : Bool) (m : Bool) : Statement (.vminuVx vd vs2 rs1 w m) := of_parse _ (by
  rw [show encode (.vminuVx vd vs2 rs1 w m) = 10#6 ++ (bit1 w) ++ (bit1 m) ++ vs2 ++ rs1 ++ vd ++ 43#7 from rfl]
  generalize hw : (10#6 ++ (bit1 w) ++ (bit1 m) ++ vs2 ++ rs1 ++ vd ++ 43#7 : BitVec 32) = wd
  obtain ⟨h0, h1, h2, h3, h4, h5, h6, h7, h8⟩ : bits wd 6 0 = 43#7 ∧ bits wd 31 31 = 0#1 ∧ bits wd 31 27 = 5#5 ∧ bits wd 31 26 = 10#6 ∧ bits wd 12 7 = vd ∧ bits wd 23 18 = vs2 ∧ bits wd 17 13 = rs1 ∧ (bits wd 25 25 == 1#1) = w ∧ (bits wd 24 24 == 1#1) = m := by
    subst hw
    simp (disch := decide) only [bits, lo1, hi1, lo5, hi5, lo6, hi6, lo7, hi7, slice_all, bit1_one, Nat.reduceSub, Nat.reduceAdd, BitVec.reduceExtractLsb', and_self]
  clear hw
  simp only [parseWord, decodeCustom1, decodeCustom1C0, h0, h1, h2, h3, h4, h5, h6, h7, h8, BitVec.reduceToNat, BitVec.toNat_ofNat, Nat.reducePow, Nat.reduceMod, BEq.rfl, show (0#1 == 1#1) = false from rfl, Bool.false_eq_true, if_false, Bool.and_self, if_true])

theorem vmaxVx (vd : VReg) (vs2 : VReg) (rs1 : XReg) (w : Bool) (m : Bool) : Statement (.vmaxVx vd vs2 rs1 w m) := of_parse _ (by
  rw [show encode (.vmaxVx vd vs2 rs1 w m) = 11#6 ++ (bit1 w) ++ (bit1 m) ++ vs2 ++ rs1 ++ vd ++ 43#7 from rfl]
  generalize hw : (11#6 ++ (bit1 w) ++ (bit1 m) ++ vs2 ++ rs1 ++ vd ++ 43#7 : BitVec 32) = wd
  obtain ⟨h0, h1, h2, h3, h4, h5, h6, h7, h8⟩ : bits wd 6 0 = 43#7 ∧ bits wd 31 31 = 0#1 ∧ bits wd 31 27 = 5#5 ∧ bits wd 31 26 = 11#6 ∧ bits wd 12 7 = vd ∧ bits wd 23 18 = vs2 ∧ bits wd 17 13 = rs1 ∧ (bits wd 25 25 == 1#1) = w ∧ (bits wd 24 24 == 1#1) = m := by
    subst hw
    simp (disch := decide) only [bits, lo1, hi1, lo5, hi5, lo6, hi6, lo7, hi7, slice_all, bit1_one, Nat.reduceSub, Nat.reduceAdd, BitVec.reduceExtractLsb', and_self]
  clear hw
  simp only [parseWord, decodeCustom1, decodeCustom1C0, h0, h1, h2, h3, h4, h5, h6, h7, h8, BitVec.reduceToNat, BitVec.toNat_ofNat, Nat.reducePow, Nat.reduceMod, BEq.rfl, show (0#1 == 1#1) = false from rfl, Bool.false_eq_true, if_false, Bool.and_self, if_true])

theorem vmaxuVx (vd : VReg) (vs2 : VReg) (rs1 : XReg) (w : Bool) (m : Bool) : Statement (.vmaxuVx vd vs2 rs1 w m) := of_parse _ (by
  rw [show encode (.vmaxuVx vd vs2 rs1 w m) = 12#6 ++ (bit1 w) ++ (bit1 m) ++ vs2 ++ rs1 ++ vd ++ 43#7 from rfl]
  generalize hw : (12#6 ++ (bit1 w) ++ (bit1 m) ++ vs2 ++ rs1 ++ vd ++ 43#7 : BitVec 32) = wd
  obtain ⟨h0, h1, h2, h3, h4, h5, h6, h7, h8⟩ : bits wd 6 0 = 43#7 ∧ bits wd 31 31 = 0#1 ∧ bits wd 31 27 = 6#5 ∧ bits wd 31 26 = 12#6 ∧ bits wd 12 7 = vd ∧ bits wd 23 18 = vs2 ∧ bits wd 17 13 = rs1 ∧ (bits wd 25 25 == 1#1) = w ∧ (bits wd 24 24 == 1#1) = m := by
    subst hw
    simp (disch := decide) only [bits, lo1, hi1, lo5, hi5, lo6, hi6, lo7, hi7, slice_all, bit1_one, Nat.reduceSub, Nat.reduceAdd, BitVec.reduceExtractLsb', and_self]
  clear hw
  simp only [parseWord, decodeCustom1, decodeCustom1C0, h0, h1, h2, h3, h4, h5, h6, h7, h8, BitVec.reduceToNat, BitVec.toNat_ofNat, Nat.reducePow, Nat.reduceMod, BEq.rfl, show (0#1 == 1#1) = false from rfl, Bool.false_eq_true, if_false, Bool.and_self, if_true])

theorem vandVx (vd : VReg) (vs2 : VReg) (rs1 : XReg) (w : Bool) (m : Bool) : Statement (.vandVx vd vs2 rs1 w m) := of_parse _ (by
  rw [show encode (.vandVx vd vs2 rs1 w m) = 13#6 ++ (bit1 w) ++ (bit1 m) ++ vs2 ++ rs1 ++ vd ++ 43#7 from rfl]
  generalize hw : (13#6 ++ (bit1 w) ++ (bit1 m) ++ vs2 ++ rs1 ++ vd ++ 43#7 : BitVec 32) = wd
  obtain ⟨h0, h1, h2, h3, h4, h5, h6, h7, h8⟩ : bits wd 6 0 = 43#7 ∧ bits wd 31 31 = 0#1 ∧ bits wd 31 27 = 6#5 ∧ bits wd 31 26 = 13#6 ∧ bits wd 12 7 = vd ∧ bits wd 23 18 = vs2 ∧ bits wd 17 13 = rs1 ∧ (bits wd 25 25 == 1#1) = w ∧ (bits wd 24 24 == 1#1) = m := by
    subst hw
    simp (disch := decide) only [bits, lo1, hi1, lo5, hi5, lo6, hi6, lo7, hi7, slice_all, bit1_one, Nat.reduceSub, Nat.reduceAdd, BitVec.reduceExtractLsb', and_self]
  clear hw
  simp only [parseWord, decodeCustom1, decodeCustom1C0, h0, h1, h2, h3, h4, h5, h6, h7, h8, BitVec.reduceToNat, BitVec.toNat_ofNat, Nat.reducePow, Nat.reduceMod, BEq.rfl, show (0#1 == 1#1) = false from rfl, Bool.false_eq_true, if_false, Bool.and_self, if_true])

theorem vorVx (vd : VReg) (vs2 : VReg) (rs1 : XReg) (w : Bool) (m : Bool) : Statement (.vorVx vd vs2 rs1 w m) := of_parse _ (by
  rw [show encode (.vorVx vd vs2 rs1 w m) = 14#6 ++ (bit1 w) ++ (bit1 m) ++ vs2 ++ rs1 ++ vd ++ 43#7 from rfl]
  generalize hw : (14#6 ++ (bit1 w) ++ (bit1 m) ++ vs2 ++ rs1 ++ vd ++ 43#7 : BitVec 32) = wd
  obtain ⟨h0, h1, h2, h3, h4, h5, h6, h7, h8⟩ : bits wd 6 0 = 43#7 ∧ bits wd 31 31 = 0#1 ∧ bits wd 31 27 = 7#5 ∧ bits wd 31 26 = 14#6 ∧ bits wd 12 7 = vd ∧ bits wd 23 18 = vs2 ∧ bits wd 17 13 = rs1 ∧ (bits wd 25 25 == 1#1) = w ∧ (bits wd 24 24 == 1#1) = m := by
    subst hw
    simp (disch := decide) only [bits, lo1, hi1, lo5, hi5, lo6, hi6, lo7, hi7, slice_all, bit1_one, Nat.reduceSub, Nat.reduceAdd, BitVec.reduceExtractLsb', and_self]
  clear hw
  simp only [parseWord, decodeCustom1, decodeCustom1C0, h0, h1, h2, h3, h4, h5, h6, h7, h8, BitVec.reduceToNat, BitVec.toNat_ofNat, Nat.reducePow, Nat.reduceMod, BEq.rfl, show (0#1 == 1#1) = false from rfl, Bool.false_eq_true, if_false, Bool.and_self, if_true])

theorem vxorVx (vd : VReg) (vs2 : VReg) (rs1 : XReg) (w : Bool) (m : Bool) : Statement (.vxorVx vd vs2 rs1 w m) := of_parse _ (by
  rw [show encode (.vxorVx vd vs2 rs1 w m) = 15#6 ++ (bit1 w) ++ (bit1 m) ++ vs2 ++ rs1 ++ vd ++ 43#7 from rfl]
  generalize hw : (15#6 ++ (bit1 w) ++ (bit1 m) ++ vs2 ++ rs1 ++ vd ++ 43#7 : BitVec 32) = wd
  obtain ⟨h0, h1, h2, h3, h4, h5, h6, h7, h8⟩ : bits wd 6 0 = 43#7 ∧ bits wd 31 31 = 0#1 ∧ bits wd 31 27 = 7#5 ∧ bits wd 31 26 = 15#6 ∧ bits wd 12 7 = vd ∧ bits wd 23 18 = vs2 ∧ bits wd 17 13 = rs1 ∧ (bits wd 25 25 == 1#1) = w ∧ (bits wd 24 24 == 1#1) = m := by
    subst hw
    simp (disch := decide) only [bits, lo1, hi1, lo5, hi5, lo6, hi6, lo7, hi7, slice_all, bit1_one, Nat.reduceSub, Nat.reduceAdd, BitVec.reduceExtractLsb', and_self]
  clear hw
  simp only [parseWord, decodeCustom1, decodeCustom1C0, h0, h1, h2, h3, h4, h5, h6, h7, h8, BitVec.reduceToNat, BitVec.toNat_ofNat, Nat.reducePow, Nat.reduceMod, BEq.rfl, show (0#1 == 1#1) = false from rfl, Bool.false_eq_true, if_false, Bool.and_self, if_true])

theorem vsllVx (vd : VReg) (vs2 : VReg) (rs1 : XReg) (w : Bool) (m : Bool) : Statement (.vsllVx vd vs2 rs1 w m) := of_parse _ (by
  rw [show encode (.vsllVx vd vs2 rs1 w m) = 16#6 ++ (bit1 w) ++ (bit1 m) ++ vs2 ++ rs1 ++ vd ++ 43#7 from rfl]
  generalize hw : (16#6 ++ (bit1 w) ++ (bit1 m) ++ vs2 ++ rs1 ++ vd ++ 43#7 : BitVec 32) = wd
  obtain ⟨h0, h1, h2, h3, h4, h5, h6, h7, h8⟩ : bits wd 6 0 = 43#7 ∧ bits wd 31 31 = 0#1 ∧ bits wd 31 27 = 8#5 ∧ bits wd 31 26 = 16#6 ∧ bits wd 12 7 = vd ∧ bits wd 23 18 = vs2 ∧ bits wd 17 13 = rs1 ∧ (bits wd 25 25 == 1#1) = w ∧ (bits wd 24 24 == 1#1) = m := by
    subst hw
    simp (disch := decide) only [bits, lo1, hi1, lo5, hi5, lo6, hi6, lo7, hi7, slice_all, bit1_one, Nat.reduceSub, Nat.reduceAdd, BitVec.reduceExtractLsb', and_self]
  clear hw
  simp only [parseWord, decodeCustom1, decodeCustom1C0, h0, h1, h2, h3, h4, h5, h6, h7, h8, BitVec.reduceToNat, BitVec.toNat_ofNat, Nat.reducePow, Nat.reduceMod, BEq.rfl, show (0#1 == 1#1) = false from rfl, Bool.false_eq_true, if_false, Bool.and_self, if_true])

theorem vsrlVx (vd : VReg) (vs2 : VReg) (rs1 : XReg) (w : Bool) (m : Bool) : Statement (.vsrlVx vd vs2 rs1 w m) := of_parse _ (by
  rw [show encode (.vsrlVx vd vs2 rs1 w m) = 17#6 ++ (bit1 w) ++ (bit1 m) ++ vs2 ++ rs1 ++ vd ++ 43#7 from rfl]
  generalize hw : (17#6 ++ (bit1 w) ++ (bit1 m) ++ vs2 ++ rs1 ++ vd ++ 43#7 : BitVec 32) = wd
  obtain ⟨h0, h1, h2, h3, h4, h5, h6, h7, h8⟩ : bits wd 6 0 = 43#7 ∧ bits wd 31 31 = 0#1 ∧ bits wd 31 27 = 8#5 ∧ bits wd 31 26 = 17#6 ∧ bits wd 12 7 = vd ∧ bits wd 23 18 = vs2 ∧ bits wd 17 13 = rs1 ∧ (bits wd 25 25 == 1#1) = w ∧ (bits wd 24 24 == 1#1) = m := by
    subst hw
    simp (disch := decide) only [bits, lo1, hi1, lo5, hi5, lo6, hi6, lo7, hi7, slice_all, bit1_one, Nat.reduceSub, Nat.reduceAdd, BitVec.reduceExtractLsb', and_self]
  clear hw
  simp only [parseWord, decodeCustom1, decodeCustom1C0, h0, h1, h2, h3, h4, h5, h6, h7, h8, BitVec.reduceToNat, BitVec.toNat_ofNat, Nat.reducePow, Nat.reduceMod, BEq.rfl, show (0#1 == 1#1) = false from rfl, Bool.false_eq_true, if_false, Bool.and_self, if_true])

theorem vsraVx (vd : VReg) (vs2 : VReg) (rs1 : XReg) (w : Bool) (m : Bool) : Statement (.vsraVx vd vs2 rs1 w m) := of_parse _ (by
  rw [show encode (.vsraVx vd vs2 rs1 w m) = 18#6 ++ (bit1 w) ++ (bit1 m) ++ vs2 ++ rs1 ++ vd ++ 43#7 from rfl]
  generalize hw : (18#6 ++ (bit1 w) ++ (bit1 m) ++ vs2 ++ rs1 ++ vd ++ 43#7 : BitVec 32) = wd
  obtain ⟨h0, h1, h2, h3, h4, h5, h6, h7, h8⟩ : bits wd 6 0 = 43#7 ∧ bits wd 31 31 = 0#1 ∧ bits wd 31 27 = 9#5 ∧ bits wd 31 26 = 18#6 ∧ bits wd 12 7 = vd ∧ bits wd 23 18 = vs2 ∧ bits wd 17 13 = rs1 ∧ (bits wd 25 25 == 1#1) = w ∧ (bits wd 24 24 == 1#1) = m := by
    subst hw
    simp (disch := decide) only [bits, lo1, hi1, lo5, hi5, lo6, hi6, lo7, hi7, slice_all, bit1_one, Nat.reduceSub, Nat.reduceAdd, BitVec.reduceExtractLsb', and_self]
  clear hw
  simp only [parseWord, decodeCustom1, decodeCustom1C0, h0, h1, h2, h3, h4, h5, h6, h7, h8, BitVec.reduceToNat, BitVec.toNat_ofNat, Nat.reducePow, Nat.reduceMod, BEq.rfl, show (0#1 == 1#1) = false from rfl, Bool.false_eq_true, if_false, Bool.and_self, if_true])

theorem vsaddVx (vd : VReg) (vs2 : VReg) (rs1 : XReg) (w : Bool) (m : Bool) : Statement (.vsaddVx vd vs2 rs1 w m) := of_parse _ (by
  rw [show encode (.vsaddVx vd vs2 rs1 w m) = 19#6 ++ (bit1 w) ++ (bit1 m) ++ vs2 ++ rs1 ++ vd ++ 43#7 from rfl]
  generalize hw : (19#6 ++ (bit1 w) ++ (bit1 m) ++ vs2 ++ rs1 ++ vd ++ 43#7 : BitVec 32) = wd
  obtain ⟨h0, h1, h2, h3, h4, h5, h6, h7, h8⟩ : bits wd 6 0 = 43#7 ∧ bits wd 31 31 = 0#1 ∧ bits wd 31 27 = 9#5 ∧ bits wd 31 26 = 19#6 ∧ bits wd 12 7 = vd ∧ bits wd 23 18 = vs2 ∧ bits wd 17 13 = rs1 ∧ (bits wd 25 25 == 1#1) = w ∧ (bits wd 24 24 == 1#1) = m := by
    subst hw
    simp (disch := decide) only [bits, lo1, hi1, lo5, hi5, lo6, hi6, lo7, hi7, slice_all, bit1_one, Nat.reduceSub, Nat.reduceAdd, BitVec.reduceExtractLsb', and_self]
  clear hw
  simp only [parseWord, decodeCustom1, decodeCustom1C0, h0, h1, h2, h3, h4, h5, h6, h7, h8, BitVec.reduceToNat, BitVec.toNat_ofNat, Nat.reducePow, Nat.reduceMod, BEq.rfl, show (0#1 == 1#1) = false from rfl, Bool.false_eq_true, if_false, Bool.and_self, if_true])

theorem vsadduVx (vd : VReg) (vs2 : VReg) (rs1 : XReg) (w : Bool) (m : Bool) : Statement (.vsadduVx vd vs2 rs1 w m) := of_parse _ (by
  rw [show encode (.vsadduVx vd vs2 rs1 w m) = 20#6 ++ (bit1 w) ++ (bit1 m) ++ vs2 ++ rs1 ++ vd ++ 43#7 from rfl]
  generalize hw : (20#6 ++ (bit1 w) ++ (bit1 m) ++ vs2 ++ rs1 ++ vd ++ 43#7 : BitVec 32) = wd
  obtain ⟨h0, h1, h2, h3, h4, h5, h6, h7, h8⟩ : bits wd 6 0 = 43#7 ∧ bits wd 31 31 = 0#1 ∧ bits wd 31 27 = 10#5 ∧ bits wd 31 26 = 20#6 ∧ bits wd 12 7 = vd ∧ bits wd 23 18 = vs2 ∧ bits wd 17 13 = rs1 ∧ (bits wd 25 25 == 1#1) = w ∧ (bits wd 24 24 == 1#1) = m := by
    subst hw
    simp (disch := decide) only [bits, lo1, hi1, lo5, hi5, lo6, hi6, lo7, hi7, slice_all, bit1_one, Nat.reduceSub, Nat.reduceAdd, BitVec.reduceExtractLsb', and_self]
  clear hw
  simp only [parseWord, decodeCustom1, decodeCustom1C0, h0, h1, h2, h3, h4, h5, h6, h7, h8, BitVec.reduceToNat, BitVec.toNat_ofNat, Nat.reducePow, Nat.reduceMod, BEq.rfl, show (0#1 == 1#1) = false from rfl, Bool.false_eq_true, if_false, Bool.and_self, if_true])

theorem vssubVx (vd : VReg) (vs2 : VReg) (rs1 : XReg) (w : Bool) (m : Bool) : Statement (.vssubVx vd vs2 rs1 w m) := of_parse _ (by
  rw [show encode (.vssubVx vd vs2 rs1 w m) = 21#6 ++ (bit1 w) ++ (bit1 m) ++ vs2 ++ rs1 ++ vd ++ 43#7 from rfl]
  generalize hw : (21#6 ++ (bit1 w) ++ (bit1 m) ++ vs2 ++ rs1 ++ vd ++ 43#7 : BitVec 32) = wd
  obtain ⟨h0, h1, h2, h3, h4, h5, h6, h7, h8⟩ : bits wd 6 0 = 43#7 ∧ bits wd 31 31 = 0#1 ∧ bits wd 31 27 = 10#5 ∧ bits wd 31 26 = 21#6 ∧ bits wd 12 7 = vd ∧ bits wd 23 18 = vs2 ∧ bits wd 17 13 = rs1 ∧ (bits wd 25 25 == 1#1) = w ∧ (bits wd 24 24 == 1#1) = m := by
    subst hw
    simp (disch := decide) only [bits, lo1, hi1, lo5, hi5, lo6, hi6, lo7, hi7, slice_all, bit1_one, Nat.reduceSub, Nat.reduceAdd, BitVec.reduceExtractLsb', and_self]
  clear hw
  simp only [parseWord, decodeCustom1, decodeCustom1C0, h0, h1, h2, h3, h4, h5, h6, h7, h8, BitVec.reduceToNat, BitVec.toNat_ofNat, Nat.reducePow, Nat.reduceMod, BEq.rfl, show (0#1 == 1#1) = false from rfl, Bool.false_eq_true, if_false, Bool.and_self, if_true])

theorem vssubuVx (vd : VReg) (vs2 : VReg) (rs1 : XReg) (w : Bool) (m : Bool) : Statement (.vssubuVx vd vs2 rs1 w m) := of_parse _ (by
  rw [show encode (.vssubuVx vd vs2 rs1 w m) = 22#6 ++ (bit1 w) ++ (bit1 m) ++ vs2 ++ rs1 ++ vd ++ 43#7 from rfl]
  generalize hw : (22#6 ++ (bit1 w) ++ (bit1 m) ++ vs2 ++ rs1 ++ vd ++ 43#7 : BitVec 32) = wd
  obtain ⟨h0, h1, h2, h3, h4, h5, h6, h7, h8⟩ : bits wd 6 0 = 43#7 ∧ bits wd 31 31 = 0#1 ∧ bits wd 31 27 = 11#5 ∧ bits wd 31 26 = 22#6 ∧ bits wd 12 7 = vd ∧ bits wd 23 18 = vs2 ∧ bits wd 17 13 = rs1 ∧ (bits wd 25 25 == 1#1) = w ∧ (bits wd 24 24 == 1#1) = m := by
    subst hw
    simp (disch := decide) only [bits, lo1, hi1, lo5, hi5, lo6, hi6, lo7, hi7, slice_all, bit1_one, Nat.reduceSub, Nat.reduceAdd, BitVec.reduceExtractLsb', and_self]
  clear hw
  simp only [parseWord, decodeCustom1, decodeCustom1C0, h0, h1, h2, h3, h4, h5, h6, h7, h8, BitVec.reduceToNat, BitVec.toNat_ofNat, Nat.reducePow, Nat.reduceMod, BEq.rfl, show (0#1 == 1#1) = false from rfl, Bool.false_eq_true, if_false, Bool.and_self, if_true])

theorem vseqVx (vd : VReg) (vs2 : VReg) (rs1 : XReg) (w : Bool) (m : Bool) : Statement (.vseqVx vd vs2 rs1 w m) := of_parse _ (by
  rw [show encode (.vseqVx vd vs2 rs1 w m) = 23#6 ++ (bit1 w) ++ (bit1 m) ++ vs2 ++ rs1 ++ vd ++ 43#7 from rfl]
  generalize hw : (23#6 ++ (bit1 w) ++ (bit1 m) ++ vs2 ++ rs1 ++ vd ++ 43#7 : BitVec 32) = wd
  obtain ⟨h0, h1, h2, h3, h4, h5, h6, h7, h8⟩ : bits wd 6 0 = 43#7 ∧ bits wd 31 31 = 0#1 ∧ bits wd 31 27 = 11#5 ∧ bits wd 31 26 = 23#6 ∧ bits wd 12 7 = vd ∧ bits wd 23 18 = vs2 ∧ bits wd 17 13 = rs1 ∧ (bits wd 25 25 == 1#1) = w ∧ (bits wd 24 24 == 1#1) = m := by
    subst hw
    simp (disch := decide) only [bits, lo1, hi1, lo5, hi5, lo6, hi6, lo7, hi7, slice_all, bit1_one, Nat.reduceSub, Nat.reduceAdd, BitVec.reduceExtractLsb', and_self]
  clear hw
  simp only [parseWord, decodeCustom1, decodeCustom1C0, h0, h1, h2, h3, h4, h5, h6, h7, h8, BitVec.reduceToNat, BitVec.toNat_ofNat, Nat.reducePow, Nat.reduceMod, BEq.rfl, show (0#1 == 1#1) = false from rfl, Bool.false_eq_true, if_false, Bool.and_self, if_true])

theorem vsneVx (vd : VReg) (vs2 : VReg) (rs1 : XReg) (w : Bool) (m : Bool) : Statement (.vsneVx vd vs2 rs1 w m) := of_parse _ (by
  rw [show encode (.vsneVx vd vs2 rs1 w m) = 24#6 ++ (bit1 w) ++ (bit1 m) ++ vs2 ++ rs1 ++ vd ++ 43#7 from rfl]
  generalize hw : (24#6 ++ (bit1 w) ++ (bit1 m) ++ vs2 ++ rs1 ++ vd ++ 43#7 : BitVec 32) = wd
  obtain ⟨h0, h1, h2, h3, h4, h5, h6, h7, h8⟩ : bits wd 6 0 = 43#7 ∧ bits wd 31 31 = 0#1 ∧ bits wd 31 27 = 12#5 ∧ bits wd 31 26 = 24#6 ∧ bits wd 12 7 = vd ∧ bits wd 23 18 = vs2 ∧ bits wd 17 13 = rs1 ∧ (bits wd 25 25 == 1#1) = w ∧ (bits wd 24 24 == 1#1) = m := by
    subst hw
    simp (disch := decide) only [bits, lo1, hi1, lo5, hi5, lo6, hi6, lo7, hi7, slice_all, bit1_one, Nat.reduceSub, Nat.reduceAdd, BitVec.reduceExtractLsb', and_self]
  clear hw
  simp only [parseWord, decodeCustom1, decodeCustom1C0, h0, h1, h2, h3, h4, h5, h6, h7, h8, BitVec.reduceToNat, BitVec.toNat_ofNat, Nat.reducePow, Nat.reduceMod, BEq.rfl, show (0#1 == 1#1) = false from rfl, Bool.false_eq_true, if_false, Bool.and_self, if_true])

theorem vsltVx (vd : VReg) (vs2 : VReg) (rs1 : XReg) (w : Bool) (m : Bool) : Statement (.vsltVx vd vs2 rs1 w m) := of_parse _ (by
  rw [show encode (.vsltVx vd vs2 rs1 w m) = 25#6 ++ (bit1 w) ++ (bit1 m) ++ vs2 ++ rs1 ++ vd ++ 43#7 from rfl]
  generalize hw : (25#6 ++ (bit1 w) ++ (bit1 m) ++ vs2 ++ rs1 ++ vd ++ 43#7 : BitVec 32) = wd
  obtain ⟨h0, h1, h2, h3, h4, h5, h6, h7, h8⟩ : bits wd 6 0 = 43#7 ∧ bits wd 31 31 = 0#1 ∧ bits wd 31 27 = 12#5 ∧ bits wd 31 26 = 25#6 ∧ bits wd 12 7 = vd ∧ bits wd 23 18 = vs2 ∧ bits wd 17 13 = rs1 ∧ (bits wd 25 25 == 1#1) = w ∧ (bits wd 24 24 == 1#1) = m := by
    subst hw
    simp (disch := decide) only [bits, lo1, hi1, lo5, hi5, lo6, hi6, lo7, hi7, slice_all, bit1_one, Nat.reduceSub, Nat.reduceAdd, BitVec.reduceExtractLsb', and_self]
  clear hw
  simp only [parseWord, decodeCustom1, decodeCustom1C0, h0, h1, h2, h3, h4, h5, h6, h7, h8, BitVec.reduceToNat, BitVec.toNat_ofNat, Nat.reducePow, Nat.reduceMod, BEq.rfl, show (0#1 == 1#1) = false from rfl, Bool.false_eq_true, if_false, Bool.and_self, if_true])

theorem vsltuVx (vd : VReg) (vs2 : VReg) (rs1 : XReg) (w : Bool) (m : Bool) : Statement (.vsltuVx vd vs2 rs1 w m) := of_parse _ (by
  rw [show encode (.vsltuVx vd vs2 rs1 w m) = 26#6 ++ (bit1 w) ++ (bit1 m) ++ vs2 ++ rs1 ++ vd ++ 43#7 from rfl]
  generalize hw : (26#6 ++ (bit1 w) ++ (bit1 m) ++ vs2 ++ rs1 ++ vd ++ 43#7 : BitVec 32) = wd
  obtain ⟨h0, h1, h2, h3, h4, h5, h6, h7, h8⟩ : bits wd 6 0 = 43#7 ∧ bits wd 31 31 = 0#1 ∧ bits wd 31 27 = 13#5 ∧ bits wd 31 26 = 26#6 ∧ bits wd 12 7 = vd ∧ bits wd 23 18 = vs2 ∧ bits wd 17 13 = rs1 ∧ (bits wd 25 25 == 1#1) = w ∧ (bits wd 24 24 == 1#1) = m := by
    subst hw
    simp (disch := decide) only [bits, lo1, hi1, lo5, hi5, lo6, hi6, lo7, hi7, slice_all, bit1_one, Nat.reduceSub, Nat.reduceAdd, BitVec.reduceExtractLsb', and_self]
  clear hw
  simp only [parseWord, decodeCustom1, decodeCustom1C0, h0, h1, h2, h3, h4, h5, h6, h7, h8, BitVec.reduceToNat, BitVec.toNat_ofNat, Nat.reducePow, Nat.reduceMod, BEq.rfl, show (0#1 == 1#1) = false from rfl, Bool.false_eq_true, if_false, Bool.and_self, if_true])

theorem vsleVx (vd : VReg) (vs2 : VReg) (rs1 : XReg) (w : Bool) (m : Bool) : Statement (.vsleVx vd vs2 rs1 w m) := of_parse _ (by
  rw [show encode (.vsleVx vd vs2 rs1 w m) = 27#6 ++ (bit1 w) ++ (bit1 m) ++ vs2 ++ rs1 ++ vd ++ 43#7 from rfl]
  generalize hw : (27#6 ++ (bit1 w) ++ (bit1 m) ++ vs2 ++ rs1 ++ vd ++ 43#7 : BitVec 32) = wd
  obtain ⟨h0, h1, h2, h3, h4, h5, h6, h7, h8⟩ : bits wd 6 0 = 43#7 ∧ bits wd 31 31 = 0#1 ∧ bits wd 31 27 = 13#5 ∧ bits wd 31 26 = 27#6 ∧ bits wd 12 7 = vd ∧ bits wd 23 18 = vs2 ∧ bits wd 17 13 = rs1 ∧ (bits wd 25 25 == 1#1) = w ∧ (bits wd 24 24 == 1#1) = m := by
    subst hw
    simp (disch := decide) only [bits, lo1, hi1, lo5, hi5, lo6, hi6, lo7, hi7, slice_all, bit1_one, Nat.reduceSub, Nat.reduceAdd, BitVec.reduceExtractLsb', and_self]
  clear hw
  simp only [parseWord, decodeCustom1, decodeCustom1C0, h0, h1, h2, h3, h4, h5, h6, h7, h8, BitVec.reduceToNat, BitVec.toNat_ofNat, Nat.reducePow, Nat.reduceMod, BEq.rfl, show (0#1 == 1#1) = false from rfl, Bool.false_eq_true, if_false, Bool.and_self, if_true])

theorem vsleuVx (vd : VReg) (vs2 : VReg) (rs1 : XReg) (w : Bool) (m : Bool) : Statement (.vsleuVx vd vs2 rs1 w m) := of_parse _ (by
  rw [show encode (.vsleuVx vd vs2 rs1 w m) = 28#6 ++ (bit1 w) ++ (bit1 m) ++ vs2 ++ rs1 ++ vd ++ 43#7 from rfl]
  generalize hw : (28#6 ++ (bit1 w) ++ (bit1 m) ++ vs2 ++ rs1 ++ vd ++ 43#7 : BitVec 32) = wd
  obtain ⟨h0, h1, h2, h3, h4, h5, h6, h7, h8⟩ : bits wd 6 0 = 43#7 ∧ bits wd 31 31 = 0#1 ∧ bits wd 31 27 = 14#5 ∧ bits wd 31 26 = 28#6 ∧ bits wd 12 7 = vd ∧ bits wd 23 18 = vs2 ∧ bits wd 17 13 = rs1 ∧ (bits wd 25 25 == 1#1) = w ∧ (bits wd 24 24 == 1#1) = m := by
    subst hw
    simp (disch := decide) only [bits, lo1, hi1, lo5, hi5, lo6, hi6, lo7, hi7, slice_all, bit1_one, Nat.reduceSub, Nat.reduceAdd, BitVec.reduceExtractLsb', and_self]
  clear hw
  simp only [parseWord, decodeCustom1, decodeCustom1C0, h0, h1, h2, h3, h4, h5, h6, h7, h8, BitVec.reduceToNat, BitVec.toNat_ofNat, Nat.reducePow, Nat.reduceMod, BEq.rfl, show (0#1 == 1#1) = false from rfl, Bool.false_eq_true, if_false, Bool.and_self, if_true])

theorem vmergeVx (vd : VReg) (vs2 : VReg) (rs1 : XReg) (w : Bool) : Statement (.vmergeVx vd vs2 rs1 w) := of_parse _ (by
  rw [show encode (.vmergeVx vd vs2 rs1 w) = 29#6 ++ (bit1 w) ++ 1#1 ++ vs2 ++ rs1 ++ vd ++ 43#7 from rfl]
  generalize hw : (29#6 ++ (bit1 w) ++ 1#1 ++ vs2 ++ rs1 ++ vd ++ 43#7 : BitVec 32) = wd
  obtain ⟨h0, h1, h2, h3, h4, h5, h6, h7, h8⟩ : bits wd 6 0 = 43#7 ∧ bits wd 31 31 = 0#1 ∧ bits wd 31 27 = 14#5 ∧ bits wd 31 26 = 29#6 ∧ bits wd 24 24 = 1#1 ∧ bits wd 12 7 = vd ∧ bits wd 23 18 = vs2 ∧ bits wd 17 13 = rs1 ∧ (bits wd 25 25 == 1#1) = w := by
    subst hw
    simp (disch := decide) only [bits, lo1, hi1, lo5, hi5, lo6, hi6, lo7, hi7, slice_all, bit1_one, Nat.reduceSub, Nat.reduceAdd, BitVec.reduceExtractLsb', and_self]
  clear hw
  simp only [parseWord, decodeCustom1, decodeCustom1C0, h0, h1, h2, h3, h4, h5, h6, h7, h8, BitVec.reduceToNat, BitVec.toNat_ofNat, Nat.reducePow, Nat.reduceMod, BEq.rfl, show (0#1 == 1#1) = false from rfl, Bool.false_eq_true, if_false, Bool.and_self, if_true])

theorem vslideup (vd : VReg) (vs2 : VReg) (rs1 : XReg) (w : Bool) (m : Bool) : Statement (.vslideup vd vs2 rs1 w m) := of_parse _ (by
  rw [show encode (.vslideup vd vs2 rs1 w m) = 30#6 ++ (bit1 w) ++ (bit1 m) ++ vs2 ++ rs1 ++ vd ++ 43#7 from rfl]
  generalize hw : (30#6 ++ (bit1 w) ++ (bit1 m) ++ vs2 ++ rs1 ++ vd ++ 43#7 : BitVec 32) = wd
  obtain ⟨h0, h1, h2, h3, h4, h5, h6, h7, h8⟩ : bits wd 6 0 = 43#7 ∧ bits wd 31 31 = 0#1 ∧ bits wd 31 27 = 15#5 ∧ bits wd 31 26 = 30#6 ∧ bits wd 12 7 = vd ∧ bits wd 23 18 = vs2 ∧ bits wd 17 13 = rs1 ∧ (bits wd 25 25 == 1#1) = w ∧ (bits wd 24 24 == 1#1) = m := by
    subst hw
    simp (disch := decide) only [bits, lo1, hi1, lo5, hi5, lo6, hi6, lo7, hi7, slice_all, bit1_one, Nat.reduceSub, Nat.reduceAdd, BitVec.reduceExtractLsb', and_self]
  clear hw
  simp only [parseWord, decodeCustom1, decodeCustom1C0, h0, h1, h2, h3, h4, h5, h6, h7, h8, BitVec.reduceToNat, BitVec.toNat_ofNat, Nat.reducePow, Nat.reduceMod, BEq.rfl, show (0#1 == 1#1) = false from rfl, Bool.false_eq_true, if_false, Bool.and_self, if_true])

theorem vslidedn (vd : VReg) (vs2 : VReg) (rs1 : XReg) (w : Bool) (m : Bool) : Statement (.vslidedn vd vs2 rs1 w m) := of_parse _ (by
  rw [show encode (.vslidedn vd vs2 rs1 w m) = 31#6 ++ (bit1 w) ++ (bit1 m) ++ vs2 ++ rs1 ++ vd ++ 43#7 from rfl]
  generalize hw : (31#6 ++ (bit1 w) ++ (bit1 m) ++ vs2 ++ rs1 ++ vd ++ 43#7 : BitVec 32) = wd
  obtain ⟨h0, h1, h2, h3, h4, h5, h6, h7, h8⟩ : bits wd 6 0 = 43#7 ∧ bits wd 31 31 = 0#1 ∧ bits wd 31 27 = 15#5 ∧ bits wd 31 26 = 31#6 ∧ bits wd 12 7 = vd ∧ bits wd 23 18 = vs2 ∧ bits wd 17 13 = rs1 ∧ (bits wd 25 25 == 1#1) = w ∧ (bits wd 24 24 == 1#1) = m := by
    subst hw
    simp (disch := decide) only [bits, lo1, hi1, lo5, hi5, lo6, hi6, lo7, hi7, slice_all, bit1_one, Nat.reduceSub, Nat.reduceAdd, BitVec.reduceExtractLsb', and_self]
  clear hw
  simp only [parseWord, decodeCustom1, decodeCustom1C0, h0, h1, h2, h3, h4, h5, h6, h7, h8, BitVec.reduceToNat, BitVec.toNat_ofNat, Nat.reducePow, Nat.reduceMod, BEq.rfl, show (0#1 == 1#1) = false from rfl, Bool.false_eq_true, if_false, Bool.and_self, if_true])

theorem vfaddVv (vd : VReg) (vs2 : VReg) (vs1 : VReg) (w : Bool) (m : Bool) : Statement (.vfaddVv vd vs2 vs1 w m) := of_parse _ (by
  rw [show encode (.vfaddVv vd vs2 vs1 w m) = 0#5 ++ (bit1 w) ++ (bit1 m) ++ vs2 ++ vs1 ++ vd ++ 123#7 from rfl]
  generalize hw : (0#5 ++ (bit1 w) ++ (bit1 m) ++ vs2 ++ vs1 ++ vd ++ 123#7 : BitVec 32) = wd
  obtain ⟨h0, h1, h2, h3, h4, h5, h6⟩ : bits wd 6 0 = 123#7 ∧ bits wd 31 27 = 0#5 ∧ bits wd 12 7 = vd ∧ bits wd 24 19 = vs2 ∧ bits wd 18 13 = vs1 ∧ (bits wd 26 26 == 1#1) = w ∧ (bits wd 25 25 == 1#1) = m := by
    subst hw
    simp (disch := decide) only [bits, lo1, hi1, lo5, hi5, lo6, hi6, lo7, hi7, slice_all, bit1_one, Nat.reduceSub, Nat.reduceAdd, BitVec.reduceExtractLsb', and_self]
  clear hw
  simp only [parseWord, decodeCustom3, h0, h1, h2, h3, h4, h5, h6, BitVec.reduceToNat, BitVec.toNat_ofNat, Nat.reducePow, Nat.reduceMod, BEq.rfl, show (0#1 == 1#1) = false from rfl, Bool.false_eq_true, if_false, Bool.and_self, if_true])

theorem vfsubVv (vd : VReg) (vs2 : VReg) (vs1 : VReg) (w : Bool) (m : Bool) : Statement (.vfsubVv vd vs2 vs1 w m) := of_parse _ (by
  rw [show encode (.vfsubVv vd vs2 vs1 w m) = 1#5 ++ (bit1 w) ++ (bit1 m) ++ vs2 ++ vs1 ++ vd ++ 123#7 from rfl]
  generalize hw : (1#5 ++ (bit1 w) ++ (bit1 m) ++ vs2 ++ vs1 ++ vd ++ 123#7 : BitVec 32) = wd
  obtain ⟨h0, h1, h2, h3, h4, h5, h6⟩ : bits wd 6 0 = 123#7 ∧ bits wd 31 27 = 1#5 ∧ bits wd 12 7 = vd ∧ bits wd 24 19 = vs2 ∧ bits wd 18 13 = vs1 ∧ (bits wd 26 26 == 1#1) = w ∧ (bits wd 25 25 == 1#1) = m := by
    subst hw
    simp (disch := decide) only [bits, lo1, hi1, lo5, hi5, lo6, hi6, lo7, hi7, slice_all, bit1_one, Nat.reduceSub, Nat.reduceAdd, BitVec.reduceExtractLsb', and_self]
  clear hw
  simp only [parseWord, decodeCustom3, h0, h1, h2, h3, h4, h5, h6, BitVec.reduceToNat, BitVec.toNat_ofNat, Nat.reducePow, Nat.reduceMod, BEq.rfl, show (0#1 == 1#1) = false from rfl, Bool.false_eq_true, if_false, Bool.and_self, if_true])

theorem vfmulVv (vd : VReg) (vs2 : VReg) (vs1 : VReg) (w : Bool) (m : Bool) : Statement (.vfmulVv vd vs2 vs1 w m) := of_parse _ (by
  rw [show encode (.vfmulVv vd vs2 vs1 w m) = 2#5 ++ (bit1 w) ++ (bit1 m) ++ vs2 ++ vs1 ++ vd ++ 123#7 from rfl]
  generalize hw : (2#5 ++ (bit1 w) ++ (bit1 m) ++ vs2 ++ vs1 ++ vd ++ 123#7 : BitVec 32) = wd
  obtain ⟨h0, h1, h2, h3, h4, h5, h6⟩ : bits wd 6 0 = 123#7 ∧ bits wd 31 27 = 2#5 ∧ bits wd 12 7 = vd ∧ bits wd 24 19 = vs2 ∧ bits wd 18 13 = vs1 ∧ (bits wd 26 26 == 1#1) = w ∧ (bits wd 25 25 == 1#1) = m := by
    subst hw
    simp (disch := decide) only [bits, lo1, hi1, lo5, hi5, lo6, hi6, lo7, hi7, slice_all, bit1_one, Nat.reduceSub, Nat.reduceAdd, BitVec.reduceExtractLsb', and_self]
  clear hw
  simp only [parseWord, decodeCustom3, h0, h1, h2, h3, h4, h5, h6, BitVec.reduceToNat, BitVec.toNat_ofNat, Nat.reducePow, Nat.reduceMod, BEq.rfl, show (0#1 == 1#1) = false from rfl, Bool.false_eq_true, if_false, Bool.and_self, if_true])

theorem vfdivVv (vd : VReg) (vs2 : VReg) (vs1 : VReg) (w : Bool) (m : Bool) : Statement (.vfdivVv vd vs2 vs1 w m) := of_parse _ (by
  rw [show encode (.vfdivVv vd vs2 vs1 w m) = 3#5 ++ (bit1 w) ++ (bit1 m) ++ vs2 ++ vs1 ++ vd ++ 123#7 from rfl]
  generalize hw : (3#5 ++ (bit1 w) ++ (bit1 m) ++ vs2 ++ vs1 ++ vd ++ 123#7 : BitVec 32) = wd
  obtain ⟨h0, h1, h2, h3, h4, h5, h6⟩ : bits wd 6 0 = 123#7 ∧ bits wd 31 27 = 3#5 ∧ bits wd 12 7 = vd ∧ bits wd 24 19 = vs2 ∧ bits wd 18 13 = vs1 ∧ (bits wd 26 26 == 1#1) = w ∧ (bits wd 25 25 == 1#1) = m := by
    subst hw
    simp (disch := decide) only [bits, lo1, hi1, lo5, hi5, lo6, hi6, lo7, hi7, slice_all, bit1_one, Nat.reduceSub, Nat.reduceAdd, BitVec.reduceExtractLsb', and_self]
  clear hw
  simp only [parseWord, decodeCustom3, h0, h1, h2, h3, h4, h5, h6, BitVec.reduceToNat, BitVec.toNat_ofNat, Nat.reducePow, Nat.reduceMod, BEq.rfl, show (0#1 == 1#1) = false from rfl, Bool.false_eq_true, if_false, Bool.and_self, if_true])

theorem vfminVv (vd : VReg) (vs2 : VReg) (vs1 : VReg) (w : Bool) (m : Bool) : Statement (.vfminVv vd vs2 vs1 w m) := of_parse _ (by
  rw [show encode (.vfminVv vd vs2 vs1 w m) = 4#5 ++ (bit1 w) ++ (bit1 m) ++ vs2 ++ vs1 ++ vd ++ 123#7 from rfl]
  generalize hw : (4#5 ++ (bit1 w) ++ (bit1 m) ++ vs2 ++ vs1 ++ vd ++ 123#7 : BitVec 32) = wd
  obtain ⟨h0, h1, h2, h3, h4, h5, h6⟩ : bits wd 6 0 = 123#7 ∧ bits wd 31 27 = 4#5 ∧ bits wd 12 7 = vd ∧ bits wd 24 19 = vs2 ∧ bits wd 18 13 = vs1 ∧ (bits wd 26 26 == 1#1) = w ∧ (bits wd 25 25 == 1#1) = m := by
    subst hw
    simp (disch := decide) only [bits, lo1, hi1, lo5, hi5, lo6, hi6, lo7, hi7, slice_all, bit1_one, Nat.reduceSub, Nat.reduceAdd, BitVec.reduceExtractLsb', and_self]
  clear hw
  simp only [parseWord, decodeCustom3, h0, h1, h2, h3, h4, h5, h6, BitVec.reduceToNat, BitVec.toNat_ofNat, Nat.reducePow, Nat.reduceMod, BEq.rfl, show (0#1 == 1#1) = false from rfl, Bool.false_eq_true, if_false, Bool.and_self, if_true])

theorem vfmaxVv (vd : VReg) (vs2 : VReg) (vs1 : VReg) (w : Bool) (m : Bool) : Statement (.vfmaxVv vd vs2 vs1 w m) := of_parse _ (by
  rw [show encode (.vfmaxVv vd vs2 vs1 w m) = 5#5 ++ (bit1 w) ++ (bit1 m) ++ vs2 ++ vs1 ++ vd ++ 123#7 from rfl]
  generalize hw : (5#5 ++ (bit1 w) ++ (bit1 m) ++ vs2 ++ vs1 ++ vd ++ 123#7 : BitVec 32) = wd
  obtain ⟨h0, h1, h2, h3, h4, h5, h6⟩ : bits wd 6 0 = 123#7 ∧ bits wd 31 27 = 5#5 ∧ bits wd 12 7 = vd ∧ bits wd 24 19 = vs2 ∧ bits wd 18 13 = vs1 ∧ (bits wd 26 26 == 1#1) = w ∧ (bits wd 25 25 == 1#1) = m := by
    subst hw
    simp (disch := decide) only [bits, lo1, hi1, lo5, hi5, lo6, hi6, lo7, hi7, slice_all, bit1_one, Nat.reduceSub, Nat.reduceAdd, BitVec.reduceExtractLsb', and_self]
  clear hw
  simp only [parseWord, decodeCustom3, h0, h1, h2, h3, h4, h5, h6, BitVec.reduceToNat, BitVec.toNat_ofNat, Nat.reducePow, Nat.reduceMod, BEq.rfl, show (0#1 == 1#1) = false from rfl, Bool.false_eq_true, if_false, Bool.and_self, if_true])

theorem vfsgnjVv (vd : VReg) (vs2 : VReg) (vs1 : VReg) (w : Bool) (m : Bool) : Statement (.vfsgnjVv vd vs2 vs1 w m) := of_parse _ (by
  rw [show encode (.vfsgnjVv vd vs2 vs1 w m) = 6#5 ++ (bit1 w) ++ (bit1 m) ++ vs2 ++ vs1 ++ vd ++ 123#7 from rfl]
  generalize hw : (6#5 ++ (bit1 w) ++ (bit1 m) ++ vs2 ++ vs1 ++ vd ++ 123#7 : BitVec 32) = wd
  obtain ⟨h0, h1, h2, h3, h4, h5, h6⟩ : bits wd 6 0 = 123#7 ∧ bits wd 31 27 = 6#5 ∧ bits wd 12 7 = vd ∧ bits wd 24 19 = vs2 ∧ bits wd 18 13 = vs1 ∧ (bits wd 26 26 == 1#1) = w ∧ (bits wd 25 25 == 1#1) = m := by
    subst hw
    simp (disch := decide) only [bits, lo1, hi1, lo5, hi5, lo6, hi6, lo7, hi7, slice_all, bit1_one, Nat.reduceSub, Nat.reduceAdd, BitVec.reduceExtractLsb', and_self]
  clear hw
  simp only [parseWord, decodeCustom3, h0, h1, h2, h3, h4, h5, h6, BitVec.reduceToNat, BitVec.toNat_ofNat, Nat.reducePow, Nat.reduceMod, BEq.rfl, show (0#1 == 1#1) = false from rfl, Bool.false_eq_true, if_false, Bool.and_self, if_true])

theorem vfsgnjnVv (vd : VReg) (vs2 : VReg) (vs1 : VReg) (w : Bool) (m : Bool) : Statement (.vfsgnjnVv vd vs2 vs1 w m) := of_parse _ (by
  rw [show encode (.vfsgnjnVv vd vs2 vs1 w m) = 7#5 ++ (bit1 w) ++ (bit1 m) ++ vs2 ++ vs1 ++ vd ++ 123#7 from rfl]
  generalize hw : (7#5 ++ (bit1 w) ++ (bit1 m) ++ vs2 ++ vs1 ++ vd ++ 123#7 : BitVec 32) = wd
  obtain ⟨h0, h1, h2, h3, h4, h5, h6⟩ : bits wd 6 0 = 123#7 ∧ bits wd 31 27 = 7#5 ∧ bits wd 12 7 = vd ∧ bits wd 24 19 = vs2 ∧ bits wd 18 13 = vs1 ∧ (bits wd 26 26 == 1#1) = w ∧ (bits wd 25 25 == 1#1) = m := by
    subst hw
    simp (disch := decide) only [bits, lo1, hi1, lo5, hi5, lo6, hi6, lo7, hi7, slice_all, bit1_one, Nat.reduceSub, Nat.reduceAdd, BitVec.reduceExtractLsb', and_self]
  clear hw
  simp only [parseWord, decodeCustom3, h0, h1, h2, h3, h4, h5, h6, BitVec.reduceToNat, BitVec.toNat_ofNat, Nat.reducePow, Nat.reduceMod, BEq.rfl, show (0#1 == 1#1) = false from rfl, Bool.false_eq_true, if_false, Bool.and_self, if_true])

theorem vfsgnjxVv (vd : VReg) (vs2 : VReg) (vs1 : VReg) (w : Bool) (m : Bool) : Statement (.vfsgnjxVv vd vs2 vs1 w m) := of_parse _ (by
  rw [show encode (.vfsgnjxVv vd vs2 vs1 w m) = 8#5 ++ (bit1 w) ++ (bit1 m) ++ vs2 ++ vs1 ++ vd ++ 123#7 from rfl]
  generalize hw : (8#5 ++ (bit1 w) ++ (bit1 m) ++ vs2 ++ vs1 ++ vd ++ 123#7 : BitVec 32) = wd
  obtain ⟨h0, h1, h2, h3, h4, h5, h6⟩ : bits wd 6 0 = 123#7 ∧ bits wd 31 27 = 8#5 ∧ bits wd 12 7 = vd ∧ bits wd 24 19 = vs2 ∧ bits wd 18 13 = vs1 ∧ (bits wd 26 26 == 1#1) = w ∧ (bits wd 25 25 == 1#1) = m := by
    subst hw
    simp (disch := decide) only [bits, lo1, hi1, lo5, hi5, lo6, hi6, lo7, hi7, slice_all, bit1_one, Nat.reduceSub, Nat.reduceAdd, BitVec.reduceExtractLsb', and_self]
  clear hw
  simp only [parseWord, decodeCustom3, h0, h1, h2, h3, h4, h5, h6, BitVec.reduceToNat, BitVec.toNat_ofNat, Nat.reducePow, Nat.reduceMod, BEq.rfl, show (0#1 == 1#1) = false from rfl, Bool.false_eq_true, if_false, Bool.and_self, if_true])

theorem vfmaccVv (vd : VReg) (vs2 : VReg) (vs1 : VReg) (w : Bool) (m : Bool) : Statement (.vfmaccVv vd vs2 vs1 w m) := of_parse _ (by
  rw [show encode (.vfmaccVv vd vs2 vs1 w m) = 9#5 ++ (bit1 w) ++ (bit1 m) ++ vs2 ++ vs1 ++ vd ++ 123#7 from rfl]
  generalize hw : (9#5 ++ (bit1 w) ++ (bit1 m) ++ vs2 ++ vs1 ++ vd ++ 123#7 : BitVec 32) = wd
  obtain ⟨h0, h1, h2, h3, h4, h5, h6⟩ : bits wd 6 0 = 123#7 ∧ bits wd 31 27 = 9#5 ∧ bits wd 12 7 = vd ∧ bits wd 24 19 = vs2 ∧ bits wd 18 13 = vs1 ∧ (bits wd 26 26 == 1#1) = w ∧ (bits wd 25 25 == 1#1) = m := by
    subst hw
    simp (disch := decide) only [bits, lo1, hi1, lo5, hi5, lo6, hi6, lo7, hi7, slice_all, bit1_one, Nat.reduceSub, Nat.reduceAdd, BitVec.reduceExtractLsb', and_self]
  clear hw
  simp only [parseWord, decodeCustom3, h0, h1, h2, h3, h4, h5, h6, BitVec.reduceToNat, BitVec.toNat_ofNat, Nat.reducePow, Nat.reduceMod, BEq.rfl, show (0#1 == 1#1) = false from rfl, Bool.false_eq_true, if_false, Bool.and_self, if_true])

theorem vfnmaccVv (vd : VReg) (vs2 : VReg) (vs1 : VReg) (w : Bool) (m : Bool) : Statement (.vfnmaccVv vd vs2 vs1 w m) := of_parse _ (by
  rw [show encode (.vfnmaccVv vd vs2 vs1 w m) = 10#5 ++ (bit1 w) ++ (bit1 m) ++ vs2 ++ vs1 ++ vd ++ 123#7 from rfl]
  generalize hw : (10#5 ++ (bit1 w) ++ (bit1 m) ++ vs2 ++ vs1 ++ vd ++ 123#7 : BitVec 32) = wd
  obtain ⟨h0, h1, h2, h3, h4, h5, h6⟩ : bits wd 6 0 = 123#7 ∧ bits wd 31 27 = 10#5 ∧ bits wd 12 7 = vd ∧ bits wd 24 19 = vs2 ∧ bits wd 18 13 = vs1 ∧ (bits wd 26 26 == 1#1) = w ∧ (bits wd 25 25 == 1#1) = m := by
    subst hw
    simp (disch := decide) only [bits, lo1, hi1, lo5, hi5, lo6, hi6, lo7, hi7, slice_all, bit1_one, Nat.reduceSub, Nat.reduceAdd, BitVec.reduceExtractLsb', and_self]
  clear hw
  simp only [parseWord, decodeCustom3, h0, h1, h2, h3, h4, h5, h6, BitVec.reduceToNat, BitVec.toNat_ofNat, Nat.reducePow, Nat.reduceMod, BEq.rfl, show (0#1 == 1#1) = false from rfl, Bool.false_eq_true, if_false, Bool.and_self, if_true])

theorem vfmsacVv (vd : VReg) (vs2 : VReg) (vs1 : VReg) (w : Bool) (m : Bool) : Statement (.vfmsacVv vd vs2 vs1 w m) := of_parse _ (by
  rw [show encode (.vfmsacVv vd vs2 vs1 w m) = 11#5 ++ (bit1 w) ++ (bit1 m) ++ vs2 ++ vs1 ++ vd ++ 123#7 from rfl]
  generalize hw : (11#5 ++ (bit1 w) ++ (bit1 m) ++ vs2 ++ vs1 ++ vd ++ 123#7 : BitVec 32) = wd
  obtain ⟨h0, h1, h2, h3, h4, h5, h6⟩ : bits wd 6 0 = 123#7 ∧ bits wd 31 27 = 11#5 ∧ bits wd 12 7 = vd ∧ bits wd 24 19 = vs2 ∧ bits wd 18 13 = vs1 ∧ (bits wd 26 26 == 1#1) = w ∧ (bits wd 25 25 == 1#1) = m := by
    subst hw
    simp (disch := decide) only [bits, lo1, hi1, lo5, hi5, lo6, hi6, lo7, hi7, slice_all, bit1_one, Nat.reduceSub, Nat.reduceAdd, BitVec.reduceExtractLsb', and_self]
  clear hw
  simp only [parseWord, decodeCustom3, h0, h1, h2, h3, h4, h5, h6, BitVec.reduceToNat, BitVec.toNat_ofNat, Nat.reducePow, Nat.reduceMod, BEq.rfl, show (0#1 == 1#1) = false from rfl, Bool.false_eq_true, if_false, Bool.and_self, if_true])

theorem vfnmsacVv (vd : VReg) (vs2 : VReg) (vs1 : VReg) (w : Bool) (m : Bool) : Statement (.vfnmsacVv vd vs2 vs1 w m) := of_parse _ (by
  rw [show encode (.vfnmsacVv vd vs2 vs1 w m) = 12#5 ++ (bit1 w) ++ (bit1 m) ++ vs2 ++ vs1 ++ vd ++ 123#7 from rfl]
  generalize hw : (12#5 ++ (bit1 w) ++ (bit1 m) ++ vs2 ++ vs1 ++ vd ++ 123#7 : BitVec 32) = wd
  obtain ⟨h0, h1, h2, h3, h4, h5, h6⟩ : bits wd 6 0 = 123#7 ∧ bits wd 31 27 = 12#5 ∧ bits wd 12 7 = vd ∧ bits wd 24 19 = vs2 ∧ bits wd 18 13 = vs1 ∧ (bits wd 26 26 == 1#1) = w ∧ (bits wd 25 25 == 1#1) = m := by
    subst hw
    simp (disch := decide) only [bits, lo1, hi1, lo5, hi5, lo6, hi6, lo7, hi7, slice_all, bit1_one, Nat.reduceSub, Nat.reduceAdd, BitVec.reduceExtractLsb', and_self]
  clear hw
  simp only [parseWord, decodeCustom3, h0, h1, h2, h3, h4, h5, h6, BitVec.reduceToNat, BitVec.toNat_ofNat, Nat.reducePow, Nat.reduceMod, BEq.rfl, show (0#1 == 1#1) = false from rfl, Bool.false_eq_true, if_false, Bool.and_self, if_true])

theorem vfeqVv (vd : VReg) (vs2 : VReg) (vs1 : VReg) (w : Bool) (m : Bool) : Statement (.vfeqVv vd vs2 vs1 w m) := of_parse _ (by
  rw [show encode (.vfeqVv vd vs2 vs1 w m) = 13#5 ++ (bit1 w) ++ (bit1 m) ++ vs2 ++ vs1 ++ vd ++ 123#7 from rfl]
  generalize hw : (13#5 ++ (bit1 w) ++ (bit1 m) ++ vs2 ++ vs1 ++ vd ++ 123#7 : BitVec 32) = wd
  obtain ⟨h0, h1, h2, h3, h4, h5, h6⟩ : bits wd 6 0 = 123#7 ∧ bits wd 31 27 = 13#5 ∧ bits wd 12 7 = vd ∧ bits wd 24 19 = vs2 ∧ bits wd 18 13 = vs1 ∧ (bits wd 26 26 == 1#1) = w ∧ (bits wd 25 25 == 1#1) = m := by
    subst hw
    simp (disch := decide) only [bits, lo1, hi1, lo5, hi5, lo6, hi6, lo7, hi7, slice_all, bit1_one, Nat.reduceSub, Nat.reduceAdd, BitVec.reduceExtractLsb', and_self]
  clear hw
  simp only [parseWord, decodeCustom3, h0, h1, h2, h3, h4, h5, h6, BitVec.reduceToNat, BitVec.toNat_ofNat, Nat.reducePow, Nat.reduceMod, BEq.rfl, show (0#1 == 1#1) = false from rfl, Bool.false_eq_true, if_false, Bool.and_self, if_true])

theorem vfneVv (vd : VReg) (vs2 : VReg) (vs1 : VReg) (w : Bool) (m : Bool) : Statement (.vfneVv vd vs2 vs1 w m) := of_parse _ (by
  rw [show encode (.vfneVv vd vs2 vs1 w m) = 14#5 ++ (bit1 w) ++ (bit1 m) ++ vs2 ++ vs1 ++ vd ++ 123#7 from rfl]
  generalize hw : (14#5 ++ (bit1 w) ++ (bit1 m) ++ vs2 ++ vs1 ++ vd ++ 123#7 : BitVec 32) = wd
  obtain ⟨h0, h1, h2, h3, h4, h5, h6⟩ : bits wd 6 0 = 123#7 ∧ bits wd 31 27 = 14#5 ∧ bits wd 12 7 = vd ∧ bits wd 24 19 = vs2 ∧ bits wd 18 13 = vs1 ∧ (bits wd 26 26 == 1#1) = w ∧ (bits wd 25 25 == 1#1) = m := by
    subst hw
    simp (disch := decide) only [bits, lo1, hi1, lo5, hi5, lo6, hi6, lo7, hi7, slice_all, bit1_one, Nat.reduceSub, Nat.reduceAdd, BitVec.reduceExtractLsb', and_self]
  clear hw
  simp only [parseWord, decodeCustom3, h0, h1, h2, h3, h4, h5, h6, BitVec.reduceToNat, BitVec.toNat_ofNat, Nat.reducePow, Nat.reduceMod, BEq.rfl, show (0#1 == 1#1) = false from rfl, Bool.false_eq_true, if_false, Bool.and_self, if_true])

theorem vfltVv (vd : VReg) (vs2 : VReg) (vs1 : VReg) (w : Bool) (m : Bool) : Statement (.vfltVv vd vs2 vs1 w m) := of_parse _ (by
  rw [show encode (.vfltVv vd vs2 vs1 w m) = 15#5 ++ (bit1 w) ++ (bit1 m) ++ vs2 ++ vs1 ++ vd ++ 123#7 from rfl]
  generalize hw : (15#5 ++ (bit1 w) ++ (bit1 m) ++ vs2 ++ vs1 ++ vd ++ 123#7 : BitVec 32) = wd
  obtain ⟨h0, h1, h2, h3, h4, h5, h6⟩ : bits wd 6 0 = 123#7 ∧ bits wd 31 27 = 15#5 ∧ bits wd 12 7 = vd ∧ bits wd 24 19 = vs2 ∧ bits wd 18 13 = vs1 ∧ (bits wd 26 26 == 1#1) = w ∧ (bits wd 25 25 == 1#1) = m := by
    subst hw
    simp (disch := decide) only [bits, lo1, hi1, lo5, hi5, lo6, hi6, lo7, hi7, slice_all, bit1_one, Nat.reduceSub, Nat.reduceAdd, BitVec.reduceExtractLsb', and_self]
  clear hw
  simp only [parseWord, decodeCustom3, h0, h1, h2, h3, h4, h5, h6, BitVec.reduceToNat, BitVec.toNat_ofNat, Nat.reducePow, Nat.reduceMod, BEq.rfl, show (0#1 == 1#1) = false from rfl, Bool.false_eq_true, if_false, Bool.and_self, if_true])

theorem vfleVv (vd : VReg) (vs2 : VReg) (vs1 : VReg) (w : Bool) (m : Bool) : Statement (.vfleVv vd vs2 vs1 w m) := of_parse _ (by
  rw [show encode (.vfleVv vd vs2 vs1 w m) = 16#5 ++ (bit1 w) ++ (bit1 m) ++ vs2 ++ vs1 ++ vd ++ 123#7 from rfl]
  generalize hw : (16#5 ++ (bit1 w) ++ (bit1 m) ++ vs2 ++ vs1 ++ vd ++ 123#7 : BitVec 32) = wd
  obtain ⟨h0, h1, h2, h3, h4, h5, h6⟩ : bits wd 6 0 = 123#7 ∧ bits wd 31 27 = 16#5 ∧ bits wd 12 7 = vd ∧ bits wd 24 19 = vs2 ∧ bits wd 18 13 = vs1 ∧ (bits wd 26 26 == 1#1) = w ∧ (bits wd 25 25 == 1#1) = m := by
    subst hw
    simp (disch := decide) only [bits, lo1, hi1, lo5, hi5, lo6, hi6, lo7, hi7, slice_all, bit1_one, Nat.reduceSub, Nat.reduceAdd, BitVec.reduceExtractLsb', and_self]
  clear hw
  simp only [parseWord, decodeCustom3, h0, h1, h2, h3, h4, h5, h6, BitVec.reduceToNat, BitVec.toNat_ofNat, Nat.reducePow, Nat.reduceMod, BEq.rfl, show (0#1 == 1#1) = false from rfl, Bool.false_eq_true, if_false, Bool.and_self, if_true])

theorem vfunVv (vd : VReg) (vs2 : VReg) (vs1 : VReg) (w : Bool) (m : Bool) : Statement (.vfunVv vd vs2 vs1 w m) := of_parse _ (by
  rw [show encode (.vfunVv vd vs2 vs1 w m) = 17#5 ++ (bit1 w) ++ (bit1 m) ++ vs2 ++ vs1 ++ vd ++ 123#7 from rfl]
  generalize hw : (17#5 ++ (bit1 w) ++ (bit1 m) ++ vs2 ++ vs1 ++ vd ++ 123#7 : BitVec 32) = wd
  obtain ⟨h0, h1, h2, h3, h4, h5, h6⟩ : bits wd 6 0 = 123#7 ∧ bits wd 31 27 = 17#5 ∧ bits wd 12 7 = vd ∧ bits wd 24 19 = vs2 ∧ bits wd 18 13 = vs1 ∧ (bits wd 26 26 == 1#1) = w ∧ (bits wd 25 25 == 1#1) = m := by
    subst hw
    simp (disch := decide) only [bits, lo1, hi1, lo5, hi5, lo6, hi6, lo7, hi7, slice_all, bit1_one, Nat.reduceSub, Nat.reduceAdd, BitVec.reduceExtractLsb', and_self]
  clear hw
  simp only [parseWord, decodeCustom3, h0, h1, h2, h3, h4, h5, h6, BitVec.reduceToNat, BitVec.toNat_ofNat, Nat.reducePow, Nat.reduceMod, BEq.rfl, show (0#1 == 1#1) = false from rfl, Bool.false_eq_true, if_false, Bool.and_self, if_true])

theorem vfmergeVv (vd : VReg) (vs2 : VReg) (vs1 : VReg) (w : Bool) : Statement (.vfmergeVv vd vs2 vs1 w) := of_parse _ (by
  rw [show encode (.vfmergeVv vd vs2 vs1 w) = 18#5 ++ (bit1 w) ++ 1#1 ++ vs2 ++ vs1 ++ vd ++ 123#7 from rfl]
  generalize hw : (18#5 ++ (bit1 w) ++ 1#1 ++ vs2 ++ vs1 ++ vd ++ 123#7 : BitVec 32) = wd
  obtain ⟨h0, h1, h2, h3, h4, h5, h6⟩ : bits wd 6 0 = 123#7 ∧ bits wd 31 27 = 18#5 ∧ bits wd 25 25 = 1#1 ∧ bits wd 12 7 = vd ∧ bits wd 24 19 = vs2 ∧ bits wd 18 13 = vs1 ∧ (bits wd 26 26 == 1#1) = w := by
    subst hw
    simp (disch := decide) only [bits, lo1, hi1, lo5, hi5, lo6, hi6, lo7, hi7, slice_all, bit1_one, Nat.reduceSub, Nat.reduceAdd, BitVec.reduceExtractLsb', and_self]
  clear hw
  simp only [parseWord, decodeCustom3, h0, h1, h2, h3, h4, h5, h6, BitVec.reduceToNat, BitVec.toNat_ofNat, Nat.reducePow, Nat.reduceMod, BEq.rfl, show (0#1 == 1#1) = false from rfl, Bool.false_eq_true, if_false, Bool.and_self, if_true])

theorem vcmul (vd : VReg) (vs2 : VReg) (vs1 : VReg) (w : Bool) (m : Bool) : Statement (.vcmul vd vs2 vs1 w m) := of_parse _ (by
  rw [show encode (.vcmul vd vs2 vs1 w m) = 19#5 ++ (bit1 w) ++ (bit1 m) ++ vs2 ++ vs1 ++ vd ++ 123#7 from rfl]
  generalize hw : (19#5 ++ (bit1 w) ++ (bit1 m) ++ vs2 ++ vs1 ++ vd ++ 123#7 : BitVec 32) = wd
  obtain ⟨h0, h1, h2, h3, h4, h5, h6⟩ : bits wd 6 0 = 123#7 ∧ bits wd 31 27 = 19#5 ∧ bits wd 12 7 = vd ∧ bits wd 24 19 = vs2 ∧ bits wd 18 13 = vs1 ∧ (bits wd 26 26 == 1#1) = w ∧ (bits wd 25 25 == 1#1) = m := by
    subst hw
    simp (disch := decide) only [bits, lo1, hi1, lo5, hi5, lo6, hi6, lo7, hi7, slice_all, bit1_one, Nat.reduceSub, Nat.reduceAdd, BitVec.reduceExtractLsb', and_self]
  clear hw
  simp only [parseWord, decodeCustom3, h0, h1, h2, h3, h4, h5, h6, BitVec.reduceToNat, BitVec.toNat_ofNat, Nat.reducePow, Nat.reduceMod, BEq.rfl, show (0#1 == 1#1) = false from rfl, Bool.false_eq_true, if_false, Bool.and_self, if_true])

theorem vcmac (vd : VReg) (vs2 : VReg) (vs1 : VReg) (w : Bool) (m : Bool) : Statement (.vcmac vd vs2 vs1 w m) := of_parse _ (by
  rw [show encode (.vcmac vd vs2 vs1 w m) = 20#5 ++ (bit1 w) ++ (bit1 m) ++ vs2 ++ vs1 ++ vd ++ 123#7 from rfl]
  generalize hw : (20#5 ++ (bit1 w) ++ (bit1 m) ++ vs2 ++ vs1 ++ vd ++ 123#7 : BitVec 32) = wd
  obtain ⟨h0, h1, h2, h3, h4, h5, h6⟩ : bits wd 6 0 = 123#7 ∧ bits wd 31 27 = 20#5 ∧ bits wd 12 7 = vd ∧ bits wd 24 19 = vs2 ∧ bits wd 18 13 = vs1 ∧ (bits wd 26 26 == 1#1) = w ∧ (bits wd 25 25 == 1#1) = m := by
    subst hw
    simp (disch := decide) only [bits, lo1, hi1, lo5, hi5, lo6, hi6, lo7, hi7, slice_all, bit1_one, Nat.reduceSub, Nat.reduceAdd, BitVec.reduceExtractLsb', and_self]
  clear hw
  simp only [parseWord, decodeCustom3, h0, h1, h2, h3, h4, h5, h6, BitVec.reduceToNat, BitVec.toNat_ofNat, Nat.reducePow, Nat.reduceMod, BEq.rfl, show (0#1 == 1#1) = false from rfl, Bool.false_eq_true, if_false, Bool.and_self, if_true])

theorem vfwmaccVv (vd : VReg) (vs2 : VReg) (vs1 : VReg) (w : Bool) (m : Bool) : Statement (.vfwmaccVv vd vs2 vs1 w m) := of_parse _ (by
  rw [show encode (.vfwmaccVv vd vs2 vs1 w m) = 21#5 ++ (bit1 w) ++ (bit1 m) ++ vs2 ++ vs1 ++ vd ++ 123#7 from rfl]
  generalize hw : (21#5 ++ (bit1 w) ++ (bit1 m) ++ vs2 ++ vs1 ++ vd ++ 123#7 : BitVec 32) = wd
  obtain ⟨h0, h1, h2, h3, h4, h5, h6⟩ : bits wd 6 0 = 123#7 ∧ bits wd 31 27 = 21#5 ∧ bits wd 12 7 = vd ∧ bits wd 24 19 = vs2 ∧ bits wd 18 13 = vs1 ∧ (bits wd 26 26 == 1#1) = w ∧ (bits wd 25 25 == 1#1) = m := by
    subst hw
    simp (disch := decide) only [bits, lo1, hi1, lo5, hi5, lo6, hi6, lo7, hi7, slice_all, bit1_one, Nat.reduceSub, Nat.reduceAdd, BitVec.reduceExtractLsb', and_self]
  clear hw
  simp only [parseWord, decodeCustom3, h0, h1, h2, h3, h4, h5, h6, BitVec.reduceToNat, BitVec.toNat_ofNat, Nat.reducePow, Nat.reduceMod, BEq.rfl, show (0#1 == 1#1) = false from rfl, Bool.false_eq_true, if_false, Bool.and_self, if_true])

theorem vcvtup (vd : VReg) (vs2 : VReg) (fmt : BitVec 4) (w : Bool) (m : Bool) : Statement (.vcvtup vd vs2 fmt w m) := of_parse _ (by
  rw [show encode (.vcvtup vd vs2 fmt w m) = 22#5 ++ (bit1 w) ++ (bit1 m) ++ vs2 ++ 0#2 ++ fmt ++ vd ++ 123#7 from rfl]
  generalize hw : (22#5 ++ (bit1 w) ++ (bit1 m) ++ vs2 ++ 0#2 ++ fmt ++ vd ++ 123#7 : BitVec 32) = wd
  obtain ⟨h0, h1, h2, h3, h4, h5, h6, h7⟩ : bits wd 6 0 = 123#7 ∧ bits wd 31 27 = 22#5 ∧ bits wd 18 17 = 0#2 ∧ bits wd 12 7 = vd ∧ bits wd 24 19 = vs2 ∧ bits wd 16 13 = fmt ∧ (bits wd 26 26 == 1#1) = w ∧ (bits wd 25 25 == 1#1) = m := by
    subst hw
    simp (disch := decide) only [bits, lo1, hi1, lo2, hi2, lo4, hi4, lo5, hi5, lo6, hi6, lo7, hi7, slice_all, bit1_one, Nat.reduceSub, Nat.reduceAdd, BitVec.reduceExtractLsb', and_self]
  clear hw
  simp only [parseWord, decodeCustom3, h0, h1, h2, h3, h4, h5, h6, h7, BitVec.reduceToNat, BitVec.toNat_ofNat, Nat.reducePow, Nat.reduceMod, BEq.rfl, show (0#1 == 1#1) = false from rfl, Bool.false_eq_true, if_false, Bool.and_self, if_true])

theorem vcvtdn (vd : VReg) (vs2 : VReg) (fmt : BitVec 4) (w : Bool) (m : Bool) : Statement (.vcvtdn vd vs2 fmt w m) := of_parse _ (by
  rw [show encode (.vcvtdn vd vs2 fmt w m) = 23#5 ++ (bit1 w) ++ (bit1 m) ++ vs2 ++ 0#2 ++ fmt ++ vd ++ 123#7 from rfl]
  generalize hw : (23#5 ++ (bit1 w) ++ (bit1 m) ++ vs2 ++ 0#2 ++ fmt ++ vd ++ 123#7 : BitVec 32) = wd
  obtain ⟨h0, h1, h2, h3, h4, h5, h6, h7⟩ : bits wd 6 0 = 123#7 ∧ bits wd 31 27 = 23#5 ∧ bits wd 18 17 = 0#2 ∧ bits wd 12 7 = vd ∧ bits wd 24 19 = vs2 ∧ bits wd 16 13 = fmt ∧ (bits wd 26 26 == 1#1) = w ∧ (bits wd 25 25 == 1#1) = m := by
    subst hw
    simp (disch := decide) only [bits, lo1, hi1, lo2, hi2, lo4, hi4, lo5, hi5, lo6, hi6, lo7, hi7, slice_all, bit1_one, Nat.reduceSub, Nat.reduceAdd, BitVec.reduceExtractLsb', and_self]
  clear hw
  simp only [parseWord, decodeCustom3, h0, h1, h2, h3, h4, h5, h6, h7, BitVec.reduceToNat, BitVec.toNat_ofNat, Nat.reducePow, Nat.reduceMod, BEq.rfl, show (0#1 == 1#1) = false from rfl, Bool.false_eq_true, if_false, Bool.and_self, if_true])

theorem vcvtfi (vd : VReg) (vs2 : VReg) (fmt : BitVec 4) (w : Bool) (m : Bool) : Statement (.vcvtfi vd vs2 fmt w m) := of_parse _ (by
  rw [show encode (.vcvtfi vd vs2 fmt w m) = 24#5 ++ (bit1 w) ++ (bit1 m) ++ vs2 ++ 0#2 ++ fmt ++ vd ++ 123#7 from rfl]
  generalize hw : (24#5 ++ (bit1 w) ++ (bit1 m) ++ vs2 ++ 0#2 ++ fmt ++ vd ++ 123#7 : BitVec 32) = wd
  obtain ⟨h0, h1, h2, h3, h4, h5, h6, h7⟩ : bits wd 6 0 = 123#7 ∧ bits wd 31 27 = 24#5 ∧ bits wd 18 17 = 0#2 ∧ bits wd 12 7 = vd ∧ bits wd 24 19 = vs2 ∧ bits wd 16 13 = fmt ∧ (bits wd 26 26 == 1#1) = w ∧ (bits wd 25 25 == 1#1) = m := by
    subst hw
    simp (disch := decide) only [bits, lo1, hi1, lo2, hi2, lo4, hi4, lo5, hi5, lo6, hi6, lo7, hi7, slice_all, bit1_one, Nat.reduceSub, Nat.reduceAdd, BitVec.reduceExtractLsb', and_self]
  clear hw
  simp only [parseWord, decodeCustom3, h0, h1, h2, h3, h4, h5, h6, h7, BitVec.reduceToNat, BitVec.toNat_ofNat, Nat.reducePow, Nat.reduceMod, BEq.rfl, show (0#1 == 1#1) = false from rfl, Bool.false_eq_true, if_false, Bool.and_self, if_true])

theorem vcvtif (vd : VReg) (vs2 : VReg) (fmt : BitVec 4) (w : Bool) (m : Bool) : Statement (.vcvtif vd vs2 fmt w m) := of_parse _ (by
  rw [show encode (.vcvtif vd vs2 fmt w m) = 25#5 ++ (bit1 w) ++ (bit1 m) ++ vs2 ++ 0#2 ++ fmt ++ vd ++ 123#7 from rfl]
  generalize hw : (25#5 ++ (bit1 w) ++ (bit1 m) ++ vs2 ++ 0#2 ++ fmt ++ vd ++ 123#7 : BitVec 32) = wd
  obtain ⟨h0, h1, h2, h3, h4, h5, h6, h7⟩ : bits wd 6 0 = 123#7 ∧ bits wd 31 27 = 25#5 ∧ bits wd 18 17 = 0#2 ∧ bits wd 12 7 = vd ∧ bits wd 24 19 = vs2 ∧ bits wd 16 13 = fmt ∧ (bits wd 26 26 == 1#1) = w ∧ (bits wd 25 25 == 1#1) = m := by
    subst hw
    simp (disch := decide) only [bits, lo1, hi1, lo2, hi2, lo4, hi4, lo5, hi5, lo6, hi6, lo7, hi7, slice_all, bit1_one, Nat.reduceSub, Nat.reduceAdd, BitVec.reduceExtractLsb', and_self]
  clear hw
  simp only [parseWord, decodeCustom3, h0, h1, h2, h3, h4, h5, h6, h7, BitVec.reduceToNat, BitVec.toNat_ofNat, Nat.reducePow, Nat.reduceMod, BEq.rfl, show (0#1 == 1#1) = false from rfl, Bool.false_eq_true, if_false, Bool.and_self, if_true])

theorem vquant (vd : VReg) (vs2 : VReg) (vs1 : VReg) (w : Bool) (m : Bool) : Statement (.vquant vd vs2 vs1 w m) := of_parse _ (by
  rw [show encode (.vquant vd vs2 vs1 w m) = 26#5 ++ (bit1 w) ++ (bit1 m) ++ vs2 ++ vs1 ++ vd ++ 123#7 from rfl]
  generalize hw : (26#5 ++ (bit1 w) ++ (bit1 m) ++ vs2 ++ vs1 ++ vd ++ 123#7 : BitVec 32) = wd
  obtain ⟨h0, h1, h2, h3, h4, h5, h6⟩ : bits wd 6 0 = 123#7 ∧ bits wd 31 27 = 26#5 ∧ bits wd 12 7 = vd ∧ bits wd 24 19 = vs2 ∧ bits wd 18 13 = vs1 ∧ (bits wd 26 26 == 1#1) = w ∧ (bits wd 25 25 == 1#1) = m := by
    subst hw
    simp (disch := decide) only [bits, lo1, hi1, lo5, hi5, lo6, hi6, lo7, hi7, slice_all, bit1_one, Nat.reduceSub, Nat.reduceAdd, BitVec.reduceExtractLsb', and_self]
  clear hw
  simp only [parseWord, decodeCustom3, h0, h1, h2, h3, h4, h5, h6, BitVec.reduceToNat, BitVec.toNat_ofNat, Nat.reducePow, Nat.reduceMod, BEq.rfl, show (0#1 == 1#1) = false from rfl, Bool.false_eq_true, if_false, Bool.and_self, if_true])

theorem vdequant (vd : VReg) (vs2 : VReg) (vs1 : VReg) (w : Bool) (m : Bool) : Statement (.vdequant vd vs2 vs1 w m) := of_parse _ (by
  rw [show encode (.vdequant vd vs2 vs1 w m) = 27#5 ++ (bit1 w) ++ (bit1 m) ++ vs2 ++ vs1 ++ vd ++ 123#7 from rfl]
  generalize hw : (27#5 ++ (bit1 w) ++ (bit1 m) ++ vs2 ++ vs1 ++ vd ++ 123#7 : BitVec 32) = wd
  obtain ⟨h0, h1, h2, h3, h4, h5, h6⟩ : bits wd 6 0 = 123#7 ∧ bits wd 31 27 = 27#5 ∧ bits wd 12 7 = vd ∧ bits wd 24 19 = vs2 ∧ bits wd 18 13 = vs1 ∧ (bits wd 26 26 == 1#1) = w ∧ (bits wd 25 25 == 1#1) = m := by
    subst hw
    simp (disch := decide) only [bits, lo1, hi1, lo5, hi5, lo6, hi6, lo7, hi7, slice_all, bit1_one, Nat.reduceSub, Nat.reduceAdd, BitVec.reduceExtractLsb', and_self]
  clear hw
  simp only [parseWord, decodeCustom3, h0, h1, h2, h3, h4, h5, h6, BitVec.reduceToNat, BitVec.toNat_ofNat, Nat.reducePow, Nat.reduceMod, BEq.rfl, show (0#1 == 1#1) = false from rfl, Bool.false_eq_true, if_false, Bool.and_self, if_true])

theorem vbscaleVv (vd : VReg) (vs2 : VReg) (fmt : BitVec 4) (w : Bool) (m : Bool) : Statement (.vbscaleVv vd vs2 fmt w m) := of_parse _ (by
  rw [show encode (.vbscaleVv vd vs2 fmt w m) = 28#5 ++ (bit1 w) ++ (bit1 m) ++ vs2 ++ 0#2 ++ fmt ++ vd ++ 123#7 from rfl]
  generalize hw : (28#5 ++ (bit1 w) ++ (bit1 m) ++ vs2 ++ 0#2 ++ fmt ++ vd ++ 123#7 : BitVec 32) = wd
  obtain ⟨h0, h1, h2, h3, h4, h5, h6, h7⟩ : bits wd 6 0 = 123#7 ∧ bits wd 31 27 = 28#5 ∧ bits wd 18 17 = 0#2 ∧ bits wd 12 7 = vd ∧ bits wd 24 19 = vs2 ∧ bits wd 16 13 = fmt ∧ (bits wd 26 26 == 1#1) = w ∧ (bits wd 25 25 == 1#1) = m := by
    subst hw
    simp (disch := decide) only [bits, lo1, hi1, lo2, hi2, lo4, hi4, lo5, hi5, lo6, hi6, lo7, hi7, slice_all, bit1_one, Nat.reduceSub, Nat.reduceAdd, BitVec.reduceExtractLsb', and_self]
  clear hw
  simp only [parseWord, decodeCustom3, h0, h1, h2, h3, h4, h5, h6, h7, BitVec.reduceToNat, BitVec.toNat_ofNat, Nat.reducePow, Nat.reduceMod, BEq.rfl, show (0#1 == 1#1) = false from rfl, Bool.false_eq_true, if_false, Bool.and_self, if_true])

theorem vbamax (vd : VReg) (vs2 : VReg) (w : Bool) (m : Bool) : Statement (.vbamax vd vs2 w m) := of_parse _ (by
  rw [show encode (.vbamax vd vs2 w m) = 29#5 ++ (bit1 w) ++ (bit1 m) ++ vs2 ++ 0#6 ++ vd ++ 123#7 from rfl]
  generalize hw : (29#5 ++ (bit1 w) ++ (bit1 m) ++ vs2 ++ 0#6 ++ vd ++ 123#7 : BitVec 32) = wd
  obtain ⟨h0, h1, h2, h3, h4, h5, h6, h7, h8⟩ : bits wd 6 0 = 123#7 ∧ bits wd 31 27 = 29#5 ∧ bits wd 18 13 = 0#6 ∧ bits wd 18 17 = 0#2 ∧ bits wd 16 13 = 0#4 ∧ bits wd 12 7 = vd ∧ bits wd 24 19 = vs2 ∧ (bits wd 26 26 == 1#1) = w ∧ (bits wd 25 25 == 1#1) = m := by
    subst hw
    simp (disch := decide) only [bits, lo1, hi1, lo5, hi5, lo6, hi6, lo7, hi7, slice_all, bit1_one, Nat.reduceSub, Nat.reduceAdd, BitVec.reduceExtractLsb', and_self]
  clear hw
  simp only [parseWord, decodeCustom3, h0, h1, h2, h3, h4, h5, h6, h7, h8, BitVec.reduceToNat, BitVec.toNat_ofNat, Nat.reducePow, Nat.reduceMod, BEq.rfl, show (0#1 == 1#1) = false from rfl, Bool.false_eq_true, if_false, Bool.and_self, if_true])

theorem vfsqrt (vd : VReg) (vs2 : VReg) (w : Bool) (m : Bool) : Statement (.vfsqrt vd vs2 w m) := of_parse _ (by
  rw [show encode (.vfsqrt vd vs2 w m) = 31#5 ++ (bit1 w) ++ (bit1 m) ++ vs2 ++ 0#6 ++ vd ++ 123#7 from rfl]
  generalize hw : (31#5 ++ (bit1 w) ++ (bit1 m) ++ vs2 ++ 0#6 ++ vd ++ 123#7 : BitVec 32) = wd
  obtain ⟨h0, h1, h2, h3, h4, h5, h6, h7, h8⟩ : bits wd 6 0 = 123#7 ∧ bits wd 31 27 = 31#5 ∧ bits wd 18 13 = 0#6 ∧ bits wd 18 17 = 0#2 ∧ bits wd 16 13 = 0#4 ∧ bits wd 12 7 = vd ∧ bits wd 24 19 = vs2 ∧ (bits wd 26 26 == 1#1) = w ∧ (bits wd 25 25 == 1#1) = m := by
    subst hw
    simp (disch := decide) only [bits, lo1, hi1, lo5, hi5, lo6, hi6, lo7, hi7, slice_all, bit1_one, Nat.reduceSub, Nat.reduceAdd, BitVec.reduceExtractLsb', and_self]
  clear hw
  simp only [parseWord, decodeCustom3, decodeCustom3Sub, h0, h1, h2, h3, h4, h5, h6, h7, h8, BitVec.reduceToNat, BitVec.toNat_ofNat, Nat.reducePow, Nat.reduceMod, BEq.rfl, show (0#1 == 1#1) = false from rfl, Bool.false_eq_true, if_false, Bool.and_self, if_true])

theorem vfrec (vd : VReg) (vs2 : VReg) (w : Bool) (m : Bool) : Statement (.vfrec vd vs2 w m) := of_parse _ (by
  rw [show encode (.vfrec vd vs2 w m) = 31#5 ++ (bit1 w) ++ (bit1 m) ++ vs2 ++ 1#6 ++ vd ++ 123#7 from rfl]
  generalize hw : (31#5 ++ (bit1 w) ++ (bit1 m) ++ vs2 ++ 1#6 ++ vd ++ 123#7 : BitVec 32) = wd
  obtain ⟨h0, h1, h2, h3, h4, h5, h6, h7, h8⟩ : bits wd 6 0 = 123#7 ∧ bits wd 31 27 = 31#5 ∧ bits wd 18 13 = 1#6 ∧ bits wd 18 17 = 0#2 ∧ bits wd 16 13 = 1#4 ∧ bits wd 12 7 = vd ∧ bits wd 24 19 = vs2 ∧ (bits wd 26 26 == 1#1) = w ∧ (bits wd 25 25 == 1#1) = m := by
    subst hw
    simp (disch := decide) only [bits, lo1, hi1, lo5, hi5, lo6, hi6, lo7, hi7, slice_all, bit1_one, Nat.reduceSub, Nat.reduceAdd, BitVec.reduceExtractLsb', and_self]
  clear hw
  simp only [parseWord, decodeCustom3, decodeCustom3Sub, h0, h1, h2, h3, h4, h5, h6, h7, h8, BitVec.reduceToNat, BitVec.toNat_ofNat, Nat.reducePow, Nat.reduceMod, BEq.rfl, show (0#1 == 1#1) = false from rfl, Bool.false_eq_true, if_false, Bool.and_self, if_true])

theorem vfrsqrt (vd : VReg) (vs2 : VReg) (w : Bool) (m : Bool) : Statement (.vfrsqrt vd vs2 w m) := of_parse _ (by
  rw [show encode (.vfrsqrt vd vs2 w m) = 31#5 ++ (bit1 w) ++ (bit1 m) ++ vs2 ++ 2#6 ++ vd ++ 123#7 from rfl]
  generalize hw : (31#5 ++ (bit1 w) ++ (bit1 m) ++ vs2 ++ 2#6 ++ vd ++ 123#7 : BitVec 32) = wd
  obtain ⟨h0, h1, h2, h3, h4, h5, h6, h7, h8⟩ : bits wd 6 0 = 123#7 ∧ bits wd 31 27 = 31#5 ∧ bits wd 18 13 = 2#6 ∧ bits wd 18 17 = 0#2 ∧ bits wd 16 13 = 2#4 ∧ bits wd 12 7 = vd ∧ bits wd 24 19 = vs2 ∧ (bits wd 26 26 == 1#1) = w ∧ (bits wd 25 25 == 1#1) = m := by
    subst hw
    simp (disch := decide) only [bits, lo1, hi1, lo5, hi5, lo6, hi6, lo7, hi7, slice_all, bit1_one, Nat.reduceSub, Nat.reduceAdd, BitVec.reduceExtractLsb', and_self]
  clear hw
  simp only [parseWord, decodeCustom3, decodeCustom3Sub, h0, h1, h2, h3, h4, h5, h6, h7, h8, BitVec.reduceToNat, BitVec.toNat_ofNat, Nat.reducePow, Nat.reduceMod, BEq.rfl, show (0#1 == 1#1) = false from rfl, Bool.false_eq_true, if_false, Bool.and_self, if_true])

theorem vfclass (vd : VReg) (vs2 : VReg) (w : Bool) (m : Bool) : Statement (.vfclass vd vs2 w m) := of_parse _ (by
  rw [show encode (.vfclass vd vs2 w m) = 31#5 ++ (bit1 w) ++ (bit1 m) ++ vs2 ++ 3#6 ++ vd ++ 123#7 from rfl]
  generalize hw : (31#5 ++ (bit1 w) ++ (bit1 m) ++ vs2 ++ 3#6 ++ vd ++ 123#7 : BitVec 32) = wd
  obtain ⟨h0, h1, h2, h3, h4, h5, h6, h7, h8⟩ : bits wd 6 0 = 123#7 ∧ bits wd 31 27 = 31#5 ∧ bits wd 18 13 = 3#6 ∧ bits wd 18 17 = 0#2 ∧ bits wd 16 13 = 3#4 ∧ bits wd 12 7 = vd ∧ bits wd 24 19 = vs2 ∧ (bits wd 26 26 == 1#1) = w ∧ (bits wd 25 25 == 1#1) = m := by
    subst hw
    simp (disch := decide) only [bits, lo1, hi1, lo5, hi5, lo6, hi6, lo7, hi7, slice_all, bit1_one, Nat.reduceSub, Nat.reduceAdd, BitVec.reduceExtractLsb', and_self]
  clear hw
  simp only [parseWord, decodeCustom3, decodeCustom3Sub, h0, h1, h2, h3, h4, h5, h6, h7, h8, BitVec.reduceToNat, BitVec.toNat_ofNat, Nat.reducePow, Nat.reduceMod, BEq.rfl, show (0#1 == 1#1) = false from rfl, Bool.false_eq_true, if_false, Bool.and_self, if_true])

theorem vfexp2 (vd : VReg) (vs2 : VReg) (w : Bool) (m : Bool) : Statement (.vfexp2 vd vs2 w m) := of_parse _ (by
  rw [show encode (.vfexp2 vd vs2 w m) = 31#5 ++ (bit1 w) ++ (bit1 m) ++ vs2 ++ 4#6 ++ vd ++ 123#7 from rfl]
  generalize hw : (31#5 ++ (bit1 w) ++ (bit1 m) ++ vs2 ++ 4#6 ++ vd ++ 123#7 : BitVec 32) = wd
  obtain ⟨h0, h1, h2, h3, h4, h5, h6, h7, h8⟩ : bits wd 6 0 = 123#7 ∧ bits wd 31 27 = 31#5 ∧ bits wd 18 13 = 4#6 ∧ bits wd 18 17 = 0#2 ∧ bits wd 16 13 = 4#4 ∧ bits wd 12 7 = vd ∧ bits wd 24 19 = vs2 ∧ (bits wd 26 26 == 1#1) = w ∧ (bits wd 25 25 == 1#1) = m := by
    subst hw
    simp (disch := decide) only [bits, lo1, hi1, lo5, hi5, lo6, hi6, lo7, hi7, slice_all, bit1_one, Nat.reduceSub, Nat.reduceAdd, BitVec.reduceExtractLsb', and_self]
  clear hw
  simp only [parseWord, decodeCustom3, decodeCustom3Sub, h0, h1, h2, h3, h4, h5, h6, h7, h8, BitVec.reduceToNat, BitVec.toNat_ofNat, Nat.reducePow, Nat.reduceMod, BEq.rfl, show (0#1 == 1#1) = false from rfl, Bool.false_eq_true, if_false, Bool.and_self, if_true])

theorem vflog2 (vd : VReg) (vs2 : VReg) (w : Bool) (m : Bool) : Statement (.vflog2 vd vs2 w m) := of_parse _ (by
  rw [show encode (.vflog2 vd vs2 w m) = 31#5 ++ (bit1 w) ++ (bit1 m) ++ vs2 ++ 5#6 ++ vd ++ 123#7 from rfl]
  generalize hw : (31#5 ++ (bit1 w) ++ (bit1 m) ++ vs2 ++ 5#6 ++ vd ++ 123#7 : BitVec 32) = wd
  obtain ⟨h0, h1, h2, h3, h4, h5, h6, h7, h8⟩ : bits wd 6 0 = 123#7 ∧ bits wd 31 27 = 31#5 ∧ bits wd 18 13 = 5#6 ∧ bits wd 18 17 = 0#2 ∧ bits wd 16 13 = 5#4 ∧ bits wd 12 7 = vd ∧ bits wd 24 19 = vs2 ∧ (bits wd 26 26 == 1#1) = w ∧ (bits wd 25 25 == 1#1) = m := by
    subst hw
    simp (disch := decide) only [bits, lo1, hi1, lo5, hi5, lo6, hi6, lo7, hi7, slice_all, bit1_one, Nat.reduceSub, Nat.reduceAdd, BitVec.reduceExtractLsb', and_self]
  clear hw
  simp only [parseWord, decodeCustom3, decodeCustom3Sub, h0, h1, h2, h3, h4, h5, h6, h7, h8, BitVec.reduceToNat, BitVec.toNat_ofNat, Nat.reducePow, Nat.reduceMod, BEq.rfl, show (0#1 == 1#1) = false from rfl, Bool.false_eq_true, if_false, Bool.and_self, if_true])

theorem vftanh (vd : VReg) (vs2 : VReg) (w : Bool) (m : Bool) : Statement (.vftanh vd vs2 w m) := of_parse _ (by
  rw [show encode (.vftanh vd vs2 w m) = 31#5 ++ (bit1 w) ++ (bit1 m) ++ vs2 ++ 6#6 ++ vd ++ 123#7 from rfl]
  generalize hw : (31#5 ++ (bit1 w) ++ (bit1 m) ++ vs2 ++ 6#6 ++ vd ++ 123#7 : BitVec 32) = wd
  obtain ⟨h0, h1, h2, h3, h4, h5, h6, h7, h8⟩ : bits wd 6 0 = 123#7 ∧ bits wd 31 27 = 31#5 ∧ bits wd 18 13 = 6#6 ∧ bits wd 18 17 = 0#2 ∧ bits wd 16 13 = 6#4 ∧ bits wd 12 7 = vd ∧ bits wd 24 19 = vs2 ∧ (bits wd 26 26 == 1#1) = w ∧ (bits wd 25 25 == 1#1) = m := by
    subst hw
    simp (disch := decide) only [bits, lo1, hi1, lo5, hi5, lo6, hi6, lo7, hi7, slice_all, bit1_one, Nat.reduceSub, Nat.reduceAdd, BitVec.reduceExtractLsb', and_self]
  clear hw
  simp only [parseWord, decodeCustom3, decodeCustom3Sub, h0, h1, h2, h3, h4, h5, h6, h7, h8, BitVec.reduceToNat, BitVec.toNat_ofNat, Nat.reducePow, Nat.reduceMod, BEq.rfl, show (0#1 == 1#1) = false from rfl, Bool.false_eq_true, if_false, Bool.and_self, if_true])

theorem vfsilu (vd : VReg) (vs2 : VReg) (w : Bool) (m : Bool) : Statement (.vfsilu vd vs2 w m) := of_parse _ (by
  rw [show encode (.vfsilu vd vs2 w m) = 31#5 ++ (bit1 w) ++ (bit1 m) ++ vs2 ++ 7#6 ++ vd ++ 123#7 from rfl]
  generalize hw : (31#5 ++ (bit1 w) ++ (bit1 m) ++ vs2 ++ 7#6 ++ vd ++ 123#7 : BitVec 32) = wd
  obtain ⟨h0, h1, h2, h3, h4, h5, h6, h7, h8⟩ : bits wd 6 0 = 123#7 ∧ bits wd 31 27 = 31#5 ∧ bits wd 18 13 = 7#6 ∧ bits wd 18 17 = 0#2 ∧ bits wd 16 13 = 7#4 ∧ bits wd 12 7 = vd ∧ bits wd 24 19 = vs2 ∧ (bits wd 26 26 == 1#1) = w ∧ (bits wd 25 25 == 1#1) = m := by
    subst hw
    simp (disch := decide) only [bits, lo1, hi1, lo5, hi5, lo6, hi6, lo7, hi7, slice_all, bit1_one, Nat.reduceSub, Nat.reduceAdd, BitVec.reduceExtractLsb', and_self]
  clear hw
  simp only [parseWord, decodeCustom3, decodeCustom3Sub, h0, h1, h2, h3, h4, h5, h6, h7, h8, BitVec.reduceToNat, BitVec.toNat_ofNat, Nat.reducePow, Nat.reduceMod, BEq.rfl, show (0#1 == 1#1) = false from rfl, Bool.false_eq_true, if_false, Bool.and_self, if_true])

theorem vfgelu (vd : VReg) (vs2 : VReg) (w : Bool) (m : Bool) : Statement (.vfgelu vd vs2 w m) := of_parse _ (by
  rw [show encode (.vfgelu vd vs2 w m) = 31#5 ++ (bit1 w) ++ (bit1 m) ++ vs2 ++ 8#6 ++ vd ++ 123#7 from rfl]
  generalize hw : (31#5 ++ (bit1 w) ++ (bit1 m) ++ vs2 ++ 8#6 ++ vd ++ 123#7 : BitVec 32) = wd
  obtain ⟨h0, h1, h2, h3, h4, h5, h6, h7, h8⟩ : bits wd 6 0 = 123#7 ∧ bits wd 31 27 = 31#5 ∧ bits wd 18 13 = 8#6 ∧ bits wd 18 17 = 0#2 ∧ bits wd 16 13 = 8#4 ∧ bits wd 12 7 = vd ∧ bits wd 24 19 = vs2 ∧ (bits wd 26 26 == 1#1) = w ∧ (bits wd 25 25 == 1#1) = m := by
    subst hw
    simp (disch := decide) only [bits, lo1, hi1, lo5, hi5, lo6, hi6, lo7, hi7, slice_all, bit1_one, Nat.reduceSub, Nat.reduceAdd, BitVec.reduceExtractLsb', and_self]
  clear hw
  simp only [parseWord, decodeCustom3, decodeCustom3Sub, h0, h1, h2, h3, h4, h5, h6, h7, h8, BitVec.reduceToNat, BitVec.toNat_ofNat, Nat.reducePow, Nat.reduceMod, BEq.rfl, show (0#1 == 1#1) = false from rfl, Bool.false_eq_true, if_false, Bool.and_self, if_true])

theorem vfsin (vd : VReg) (vs2 : VReg) (w : Bool) (m : Bool) : Statement (.vfsin vd vs2 w m) := of_parse _ (by
  rw [show encode (.vfsin vd vs2 w m) = 31#5 ++ (bit1 w) ++ (bit1 m) ++ vs2 ++ 9#6 ++ vd ++ 123#7 from rfl]
  generalize hw : (31#5 ++ (bit1 w) ++ (bit1 m) ++ vs2 ++ 9#6 ++ vd ++ 123#7 : BitVec 32) = wd
  obtain ⟨h0, h1, h2, h3, h4, h5, h6, h7, h8⟩ : bits wd 6 0 = 123#7 ∧ bits wd 31 27 = 31#5 ∧ bits wd 18 13 = 9#6 ∧ bits wd 18 17 = 0#2 ∧ bits wd 16 13 = 9#4 ∧ bits wd 12 7 = vd ∧ bits wd 24 19 = vs2 ∧ (bits wd 26 26 == 1#1) = w ∧ (bits wd 25 25 == 1#1) = m := by
    subst hw
    simp (disch := decide) only [bits, lo1, hi1, lo5, hi5, lo6, hi6, lo7, hi7, slice_all, bit1_one, Nat.reduceSub, Nat.reduceAdd, BitVec.reduceExtractLsb', and_self]
  clear hw
  simp only [parseWord, decodeCustom3, decodeCustom3Sub, h0, h1, h2, h3, h4, h5, h6, h7, h8, BitVec.reduceToNat, BitVec.toNat_ofNat, Nat.reducePow, Nat.reduceMod, BEq.rfl, show (0#1 == 1#1) = false from rfl, Bool.false_eq_true, if_false, Bool.and_self, if_true])

theorem vfcos (vd : VReg) (vs2 : VReg) (w : Bool) (m : Bool) : Statement (.vfcos vd vs2 w m) := of_parse _ (by
  rw [show encode (.vfcos vd vs2 w m) = 31#5 ++ (bit1 w) ++ (bit1 m) ++ vs2 ++ 10#6 ++ vd ++ 123#7 from rfl]
  generalize hw : (31#5 ++ (bit1 w) ++ (bit1 m) ++ vs2 ++ 10#6 ++ vd ++ 123#7 : BitVec 32) = wd
  obtain ⟨h0, h1, h2, h3, h4, h5, h6, h7, h8⟩ : bits wd 6 0 = 123#7 ∧ bits wd 31 27 = 31#5 ∧ bits wd 18 13 = 10#6 ∧ bits wd 18 17 = 0#2 ∧ bits wd 16 13 = 10#4 ∧ bits wd 12 7 = vd ∧ bits wd 24 19 = vs2 ∧ (bits wd 26 26 == 1#1) = w ∧ (bits wd 25 25 == 1#1) = m := by
    subst hw
    simp (disch := decide) only [bits, lo1, hi1, lo5, hi5, lo6, hi6, lo7, hi7, slice_all, bit1_one, Nat.reduceSub, Nat.reduceAdd, BitVec.reduceExtractLsb', and_self]
  clear hw
  simp only [parseWord, decodeCustom3, decodeCustom3Sub, h0, h1, h2, h3, h4, h5, h6, h7, h8, BitVec.reduceToNat, BitVec.toNat_ofNat, Nat.reducePow, Nat.reduceMod, BEq.rfl, show (0#1 == 1#1) = false from rfl, Bool.false_eq_true, if_false, Bool.and_self, if_true])

theorem vfabs (vd : VReg) (vs2 : VReg) (w : Bool) (m : Bool) : Statement (.vfabs vd vs2 w m) := of_parse _ (by
  rw [show encode (.vfabs vd vs2 w m) = 31#5 ++ (bit1 w) ++ (bit1 m) ++ vs2 ++ 11#6 ++ vd ++ 123#7 from rfl]
  generalize hw : (31#5 ++ (bit1 w) ++ (bit1 m) ++ vs2 ++ 11#6 ++ vd ++ 123#7 : BitVec 32) = wd
  obtain ⟨h0, h1, h2, h3, h4, h5, h6, h7, h8⟩ : bits wd 6 0 = 123#7 ∧ bits wd 31 27 = 31#5 ∧ bits wd 18 13 = 11#6 ∧ bits wd 18 17 = 0#2 ∧ bits wd 16 13 = 11#4 ∧ bits wd 12 7 = vd ∧ bits wd 24 19 = vs2 ∧ (bits wd 26 26 == 1#1) = w ∧ (bits wd 25 25 == 1#1) = m := by
    subst hw
    simp (disch := decide) only [bits, lo1, hi1, lo5, hi5, lo6, hi6, lo7, hi7, slice_all, bit1_one, Nat.reduceSub, Nat.reduceAdd, BitVec.reduceExtractLsb', and_self]
  clear hw
  simp only [parseWord, decodeCustom3, decodeCustom3Sub, h0, h1, h2, h3, h4, h5, h6, h7, h8, BitVec.reduceToNat, BitVec.toNat_ofNat, Nat.reducePow, Nat.reduceMod, BEq.rfl, show (0#1 == 1#1) = false from rfl, Bool.false_eq_true, if_false, Bool.and_self, if_true])

theorem vfneg (vd : VReg) (vs2 : VReg) (w : Bool) (m : Bool) : Statement (.vfneg vd vs2 w m) := of_parse _ (by
  rw [show encode (.vfneg vd vs2 w m) = 31#5 ++ (bit1 w) ++ (bit1 m) ++ vs2 ++ 12#6 ++ vd ++ 123#7 from rfl]
  generalize hw : (31#5 ++ (bit1 w) ++ (bit1 m) ++ vs2 ++ 12#6 ++ vd ++ 123#7 : BitVec 32) = wd
  obtain ⟨h0, h1, h2, h3, h4, h5, h6, h7, h8⟩ : bits wd 6 0 = 123#7 ∧ bits wd 31 27 = 31#5 ∧ bits wd 18 13 = 12#6 ∧ bits wd 18 17 = 0#2 ∧ bits wd 16 13 = 12#4 ∧ bits wd 12 7 = vd ∧ bits wd 24 19 = vs2 ∧ (bits wd 26 26 == 1#1) = w ∧ (bits wd 25 25 == 1#1) = m := by
    subst hw
    simp (disch := decide) only [bits, lo1, hi1, lo5, hi5, lo6, hi6, lo7, hi7, slice_all, bit1_one, Nat.reduceSub, Nat.reduceAdd, BitVec.reduceExtractLsb', and_self]
  clear hw
  simp only [parseWord, decodeCustom3, decodeCustom3Sub, h0, h1, h2, h3, h4, h5, h6, h7, h8, BitVec.reduceToNat, BitVec.toNat_ofNat, Nat.reducePow, Nat.reduceMod, BEq.rfl, show (0#1 == 1#1) = false from rfl, Bool.false_eq_true, if_false, Bool.and_self, if_true])

theorem vconj (vd : VReg) (vs2 : VReg) (w : Bool) (m : Bool) : Statement (.vconj vd vs2 w m) := of_parse _ (by
  rw [show encode (.vconj vd vs2 w m) = 31#5 ++ (bit1 w) ++ (bit1 m) ++ vs2 ++ 13#6 ++ vd ++ 123#7 from rfl]
  generalize hw : (31#5 ++ (bit1 w) ++ (bit1 m) ++ vs2 ++ 13#6 ++ vd ++ 123#7 : BitVec 32) = wd
  obtain ⟨h0, h1, h2, h3, h4, h5, h6, h7, h8⟩ : bits wd 6 0 = 123#7 ∧ bits wd 31 27 = 31#5 ∧ bits wd 18 13 = 13#6 ∧ bits wd 18 17 = 0#2 ∧ bits wd 16 13 = 13#4 ∧ bits wd 12 7 = vd ∧ bits wd 24 19 = vs2 ∧ (bits wd 26 26 == 1#1) = w ∧ (bits wd 25 25 == 1#1) = m := by
    subst hw
    simp (disch := decide) only [bits, lo1, hi1, lo5, hi5, lo6, hi6, lo7, hi7, slice_all, bit1_one, Nat.reduceSub, Nat.reduceAdd, BitVec.reduceExtractLsb', and_self]
  clear hw
  simp only [parseWord, decodeCustom3, decodeCustom3Sub, h0, h1, h2, h3, h4, h5, h6, h7, h8, BitVec.reduceToNat, BitVec.toNat_ofNat, Nat.reducePow, Nat.reduceMod, BEq.rfl, show (0#1 == 1#1) = false from rfl, Bool.false_eq_true, if_false, Bool.and_self, if_true])

theorem vfredsum (vd : VReg) (vs2 : VReg) (w : Bool) (m : Bool) : Statement (.vfredsum vd vs2 w m) := of_parse _ (by
  rw [show encode (.vfredsum vd vs2 w m) = 31#5 ++ (bit1 w) ++ (bit1 m) ++ vs2 ++ 14#6 ++ vd ++ 123#7 from rfl]
  generalize hw : (31#5 ++ (bit1 w) ++ (bit1 m) ++ vs2 ++ 14#6 ++ vd ++ 123#7 : BitVec 32) = wd
  obtain ⟨h0, h1, h2, h3, h4, h5, h6, h7, h8⟩ : bits wd 6 0 = 123#7 ∧ bits wd 31 27 = 31#5 ∧ bits wd 18 13 = 14#6 ∧ bits wd 18 17 = 0#2 ∧ bits wd 16 13 = 14#4 ∧ bits wd 12 7 = vd ∧ bits wd 24 19 = vs2 ∧ (bits wd 26 26 == 1#1) = w ∧ (bits wd 25 25 == 1#1) = m := by
    subst hw
    simp (disch := decide) only [bits, lo1, hi1, lo5, hi5, lo6, hi6, lo7, hi7, slice_all, bit1_one, Nat.reduceSub, Nat.reduceAdd, BitVec.reduceExtractLsb', and_self]
  clear hw
  simp only [parseWord, decodeCustom3, decodeCustom3Sub, h0, h1, h2, h3, h4, h5, h6, h7, h8, BitVec.reduceToNat, BitVec.toNat_ofNat, Nat.reducePow, Nat.reduceMod, BEq.rfl, show (0#1 == 1#1) = false from rfl, Bool.false_eq_true, if_false, Bool.and_self, if_true])

theorem vfredmax (vd : VReg) (vs2 : VReg) (w : Bool) (m : Bool) : Statement (.vfredmax vd vs2 w m) := of_parse _ (by
  rw [show encode (.vfredmax vd vs2 w m) = 31#5 ++ (bit1 w) ++ (bit1 m) ++ vs2 ++ 15#6 ++ vd ++ 123#7 from rfl]
  generalize hw : (31#5 ++ (bit1 w) ++ (bit1 m) ++ vs2 ++ 15#6 ++ vd ++ 123#7 : BitVec 32) = wd
  obtain ⟨h0, h1, h2, h3, h4, h5, h6, h7, h8⟩ : bits wd 6 0 = 123#7 ∧ bits wd 31 27 = 31#5 ∧ bits wd 18 13 = 15#6 ∧ bits wd 18 17 = 0#2 ∧ bits wd 16 13 = 15#4 ∧ bits wd 12 7 = vd ∧ bits wd 24 19 = vs2 ∧ (bits wd 26 26 == 1#1) = w ∧ (bits wd 25 25 == 1#1) = m := by
    subst hw
    simp (disch := decide) only [bits, lo1, hi1, lo5, hi5, lo6, hi6, lo7, hi7, slice_all, bit1_one, Nat.reduceSub, Nat.reduceAdd, BitVec.reduceExtractLsb', and_self]
  clear hw
  simp only [parseWord, decodeCustom3, decodeCustom3Sub, h0, h1, h2, h3, h4, h5, h6, h7, h8, BitVec.reduceToNat, BitVec.toNat_ofNat, Nat.reducePow, Nat.reduceMod, BEq.rfl, show (0#1 == 1#1) = false from rfl, Bool.false_eq_true, if_false, Bool.and_self, if_true])

theorem vfredmin (vd : VReg) (vs2 : VReg) (w : Bool) (m : Bool) : Statement (.vfredmin vd vs2 w m) := of_parse _ (by
  rw [show encode (.vfredmin vd vs2 w m) = 31#5 ++ (bit1 w) ++ (bit1 m) ++ vs2 ++ 16#6 ++ vd ++ 123#7 from rfl]
  generalize hw : (31#5 ++ (bit1 w) ++ (bit1 m) ++ vs2 ++ 16#6 ++ vd ++ 123#7 : BitVec 32) = wd
  obtain ⟨h0, h1, h2, h3, h4, h5, h6, h7, h8⟩ : bits wd 6 0 = 123#7 ∧ bits wd 31 27 = 31#5 ∧ bits wd 18 13 = 16#6 ∧ bits wd 18 17 = 1#2 ∧ bits wd 16 13 = 0#4 ∧ bits wd 12 7 = vd ∧ bits wd 24 19 = vs2 ∧ (bits wd 26 26 == 1#1) = w ∧ (bits wd 25 25 == 1#1) = m := by
    subst hw
    simp (disch := decide) only [bits, lo1, hi1, lo5, hi5, lo6, hi6, lo7, hi7, slice_all, bit1_one, Nat.reduceSub, Nat.reduceAdd, BitVec.reduceExtractLsb', and_self]
  clear hw
  simp only [parseWord, decodeCustom3, decodeCustom3Sub, h0, h1, h2, h3, h4, h5, h6, h7, h8, BitVec.reduceToNat, BitVec.toNat_ofNat, Nat.reducePow, Nat.reduceMod, BEq.rfl, show (0#1 == 1#1) = false from rfl, Bool.false_eq_true, if_false, Bool.and_self, if_true])

theorem vfredamax (vd : VReg) (vs2 : VReg) (w : Bool) (m : Bool) : Statement (.vfredamax vd vs2 w m) := of_parse _ (by
  rw [show encode (.vfredamax vd vs2 w m) = 31#5 ++ (bit1 w) ++ (bit1 m) ++ vs2 ++ 17#6 ++ vd ++ 123#7 from rfl]
  generalize hw : (31#5 ++ (bit1 w) ++ (bit1 m) ++ vs2 ++ 17#6 ++ vd ++ 123#7 : BitVec 32) = wd
  obtain ⟨h0, h1, h2, h3, h4, h5, h6, h7, h8⟩ : bits wd 6 0 = 123#7 ∧ bits wd 31 27 = 31#5 ∧ bits wd 18 13 = 17#6 ∧ bits wd 18 17 = 1#2 ∧ bits wd 16 13 = 1#4 ∧ bits wd 12 7 = vd ∧ bits wd 24 19 = vs2 ∧ (bits wd 26 26 == 1#1) = w ∧ (bits wd 25 25 == 1#1) = m := by
    subst hw
    simp (disch := decide) only [bits, lo1, hi1, lo5, hi5, lo6, hi6, lo7, hi7, slice_all, bit1_one, Nat.reduceSub, Nat.reduceAdd, BitVec.reduceExtractLsb', and_self]
  clear hw
  simp only [parseWord, decodeCustom3, decodeCustom3Sub, h0, h1, h2, h3, h4, h5, h6, h7, h8, BitVec.reduceToNat, BitVec.toNat_ofNat, Nat.reducePow, Nat.reduceMod, BEq.rfl, show (0#1 == 1#1) = false from rfl, Bool.false_eq_true, if_false, Bool.and_self, if_true])

theorem pfwd (vd : VReg) (vs2 : VReg) (w : Bool) : Statement (.pfwd vd vs2 w) := of_parse _ (by
  rw [show encode (.pfwd vd vs2 w) = 31#5 ++ (bit1 w) ++ 0#1 ++ vs2 ++ 18#6 ++ vd ++ 123#7 from rfl]
  generalize hw : (31#5 ++ (bit1 w) ++ 0#1 ++ vs2 ++ 18#6 ++ vd ++ 123#7 : BitVec 32) = wd
  obtain ⟨h0, h1, h2, h3, h4, h5, h6, h7, h8⟩ : bits wd 6 0 = 123#7 ∧ bits wd 31 27 = 31#5 ∧ bits wd 18 13 = 18#6 ∧ bits wd 25 25 = 0#1 ∧ bits wd 18 17 = 1#2 ∧ bits wd 16 13 = 2#4 ∧ bits wd 12 7 = vd ∧ bits wd 24 19 = vs2 ∧ (bits wd 26 26 == 1#1) = w := by
    subst hw
    simp (disch := decide) only [bits, lo1, hi1, lo5, hi5, lo6, hi6, lo7, hi7, slice_all, bit1_one, Nat.reduceSub, Nat.reduceAdd, BitVec.reduceExtractLsb', and_self]
  clear hw
  simp only [parseWord, decodeCustom3, decodeCustom3Sub, h0, h1, h2, h3, h4, h5, h6, h7, h8, BitVec.reduceToNat, BitVec.toNat_ofNat, Nat.reducePow, Nat.reduceMod, BEq.rfl, show (0#1 == 1#1) = false from rfl, Bool.false_eq_true, if_false, Bool.and_self, if_true])

theorem pinv (vd : VReg) (vs2 : VReg) (w : Bool) : Statement (.pinv vd vs2 w) := of_parse _ (by
  rw [show encode (.pinv vd vs2 w) = 31#5 ++ (bit1 w) ++ 0#1 ++ vs2 ++ 19#6 ++ vd ++ 123#7 from rfl]
  generalize hw : (31#5 ++ (bit1 w) ++ 0#1 ++ vs2 ++ 19#6 ++ vd ++ 123#7 : BitVec 32) = wd
  obtain ⟨h0, h1, h2, h3, h4, h5, h6, h7, h8⟩ : bits wd 6 0 = 123#7 ∧ bits wd 31 27 = 31#5 ∧ bits wd 18 13 = 19#6 ∧ bits wd 25 25 = 0#1 ∧ bits wd 18 17 = 1#2 ∧ bits wd 16 13 = 3#4 ∧ bits wd 12 7 = vd ∧ bits wd 24 19 = vs2 ∧ (bits wd 26 26 == 1#1) = w := by
    subst hw
    simp (disch := decide) only [bits, lo1, hi1, lo5, hi5, lo6, hi6, lo7, hi7, slice_all, bit1_one, Nat.reduceSub, Nat.reduceAdd, BitVec.reduceExtractLsb', and_self]
  clear hw
  simp only [parseWord, decodeCustom3, decodeCustom3Sub, h0, h1, h2, h3, h4, h5, h6, h7, h8, BitVec.reduceToNat, BitVec.toNat_ofNat, Nat.reducePow, Nat.reduceMod, BEq.rfl, show (0#1 == 1#1) = false from rfl, Bool.false_eq_true, if_false, Bool.and_self, if_true])

theorem pfwdc (vd : VReg) (vs2 : VReg) (w : Bool) : Statement (.pfwdc vd vs2 w) := of_parse _ (by
  rw [show encode (.pfwdc vd vs2 w) = 31#5 ++ (bit1 w) ++ 0#1 ++ vs2 ++ 20#6 ++ vd ++ 123#7 from rfl]
  generalize hw : (31#5 ++ (bit1 w) ++ 0#1 ++ vs2 ++ 20#6 ++ vd ++ 123#7 : BitVec 32) = wd
  obtain ⟨h0, h1, h2, h3, h4, h5, h6, h7, h8⟩ : bits wd 6 0 = 123#7 ∧ bits wd 31 27 = 31#5 ∧ bits wd 18 13 = 20#6 ∧ bits wd 25 25 = 0#1 ∧ bits wd 18 17 = 1#2 ∧ bits wd 16 13 = 4#4 ∧ bits wd 12 7 = vd ∧ bits wd 24 19 = vs2 ∧ (bits wd 26 26 == 1#1) = w := by
    subst hw
    simp (disch := decide) only [bits, lo1, hi1, lo5, hi5, lo6, hi6, lo7, hi7, slice_all, bit1_one, Nat.reduceSub, Nat.reduceAdd, BitVec.reduceExtractLsb', and_self]
  clear hw
  simp only [parseWord, decodeCustom3, decodeCustom3Sub, h0, h1, h2, h3, h4, h5, h6, h7, h8, BitVec.reduceToNat, BitVec.toNat_ofNat, Nat.reducePow, Nat.reduceMod, BEq.rfl, show (0#1 == 1#1) = false from rfl, Bool.false_eq_true, if_false, Bool.and_self, if_true])

theorem pinvc (vd : VReg) (vs2 : VReg) (w : Bool) : Statement (.pinvc vd vs2 w) := of_parse _ (by
  rw [show encode (.pinvc vd vs2 w) = 31#5 ++ (bit1 w) ++ 0#1 ++ vs2 ++ 21#6 ++ vd ++ 123#7 from rfl]
  generalize hw : (31#5 ++ (bit1 w) ++ 0#1 ++ vs2 ++ 21#6 ++ vd ++ 123#7 : BitVec 32) = wd
  obtain ⟨h0, h1, h2, h3, h4, h5, h6, h7, h8⟩ : bits wd 6 0 = 123#7 ∧ bits wd 31 27 = 31#5 ∧ bits wd 18 13 = 21#6 ∧ bits wd 25 25 = 0#1 ∧ bits wd 18 17 = 1#2 ∧ bits wd 16 13 = 5#4 ∧ bits wd 12 7 = vd ∧ bits wd 24 19 = vs2 ∧ (bits wd 26 26 == 1#1) = w := by
    subst hw
    simp (disch := decide) only [bits, lo1, hi1, lo5, hi5, lo6, hi6, lo7, hi7, slice_all, bit1_one, Nat.reduceSub, Nat.reduceAdd, BitVec.reduceExtractLsb', and_self]
  clear hw
  simp only [parseWord, decodeCustom3, decodeCustom3Sub, h0, h1, h2, h3, h4, h5, h6, h7, h8, BitVec.reduceToNat, BitVec.toNat_ofNat, Nat.reducePow, Nat.reduceMod, BEq.rfl, show (0#1 == 1#1) = false from rfl, Bool.false_eq_true, if_false, Bool.and_self, if_true])

theorem vretag (vd : VReg) (vs2 : VReg) (w : Bool) : Statement (.vretag vd vs2 w) := of_parse _ (by
  rw [show encode (.vretag vd vs2 w) = 31#5 ++ (bit1 w) ++ 0#1 ++ vs2 ++ 22#6 ++ vd ++ 123#7 from rfl]
  generalize hw : (31#5 ++ (bit1 w) ++ 0#1 ++ vs2 ++ 22#6 ++ vd ++ 123#7 : BitVec 32) = wd
  obtain ⟨h0, h1, h2, h3, h4, h5, h6, h7, h8⟩ : bits wd 6 0 = 123#7 ∧ bits wd 31 27 = 31#5 ∧ bits wd 18 13 = 22#6 ∧ bits wd 25 25 = 0#1 ∧ bits wd 18 17 = 1#2 ∧ bits wd 16 13 = 6#4 ∧ bits wd 12 7 = vd ∧ bits wd 24 19 = vs2 ∧ (bits wd 26 26 == 1#1) = w := by
    subst hw
    simp (disch := decide) only [bits, lo1, hi1, lo5, hi5, lo6, hi6, lo7, hi7, slice_all, bit1_one, Nat.reduceSub, Nat.reduceAdd, BitVec.reduceExtractLsb', and_self]
  clear hw
  simp only [parseWord, decodeCustom3, decodeCustom3Sub, h0, h1, h2, h3, h4, h5, h6, h7, h8, BitVec.reduceToNat, BitVec.toNat_ofNat, Nat.reducePow, Nat.reduceMod, BEq.rfl, show (0#1 == 1#1) = false from rfl, Bool.false_eq_true, if_false, Bool.and_self, if_true])

theorem vtagclr (vd : VReg) (vs2 : VReg) (w : Bool) : Statement (.vtagclr vd vs2 w) := of_parse _ (by
  rw [show encode (.vtagclr vd vs2 w) = 31#5 ++ (bit1 w) ++ 0#1 ++ vs2 ++ 23#6 ++ vd ++ 123#7 from rfl]
  generalize hw : (31#5 ++ (bit1 w) ++ 0#1 ++ vs2 ++ 23#6 ++ vd ++ 123#7 : BitVec 32) = wd
  obtain ⟨h0, h1, h2, h3, h4, h5, h6, h7, h8⟩ : bits wd 6 0 = 123#7 ∧ bits wd 31 27 = 31#5 ∧ bits wd 18 13 = 23#6 ∧ bits wd 25 25 = 0#1 ∧ bits wd 18 17 = 1#2 ∧ bits wd 16 13 = 7#4 ∧ bits wd 12 7 = vd ∧ bits wd 24 19 = vs2 ∧ (bits wd 26 26 == 1#1) = w := by
    subst hw
    simp (disch := decide) only [bits, lo1, hi1, lo5, hi5, lo6, hi6, lo7, hi7, slice_all, bit1_one, Nat.reduceSub, Nat.reduceAdd, BitVec.reduceExtractLsb', and_self]
  clear hw
  simp only [parseWord, decodeCustom3, decodeCustom3Sub, h0, h1, h2, h3, h4, h5, h6, h7, h8, BitVec.reduceToNat, BitVec.toNat_ofNat, Nat.reducePow, Nat.reduceMod, BEq.rfl, show (0#1 == 1#1) = false from rfl, Bool.false_eq_true, if_false, Bool.and_self, if_true])

theorem vfaddVf (vd : VReg) (vs2 : VReg) (fs1 : FReg) (w : Bool) (m : Bool) : Statement (.vfaddVf vd vs2 fs1 w m) := of_parse _ (by
  rw [show encode (.vfaddVf vd vs2 fs1 w m) = 32#6 ++ (bit1 w) ++ (bit1 m) ++ vs2 ++ fs1 ++ vd ++ 43#7 from rfl]
  generalize hw : (32#6 ++ (bit1 w) ++ (bit1 m) ++ vs2 ++ fs1 ++ vd ++ 43#7 : BitVec 32) = wd
  obtain ⟨h0, h1, h2, h3, h4, h5, h6, h7, h8, h9⟩ : bits wd 6 0 = 43#7 ∧ bits wd 31 31 = 1#1 ∧ bits wd 31 27 = 16#5 ∧ bits wd 31 26 = 32#6 ∧ bits wd 26 26 = 0#1 ∧ bits wd 12 7 = vd ∧ bits wd 23 18 = vs2 ∧ bits wd 17 13 = fs1 ∧ (bits wd 25 25 == 1#1) = w ∧ (bits wd 24 24 == 1#1) = m := by
    subst hw
    simp (disch := decide) only [bits, lo1, hi1, lo5, hi5, lo6, hi6, lo7, hi7, slice_all, bit1_one, Nat.reduceSub, Nat.reduceAdd, BitVec.reduceExtractLsb', and_self]
  clear hw
  simp only [parseWord, decodeCustom1, decodeCustom1C1, h0, h1, h2, h3, h4, h5, h6, h7, h8, h9, BitVec.reduceToNat, BitVec.toNat_ofNat, Nat.reducePow, Nat.reduceMod, BEq.rfl, show (0#1 == 1#1) = false from rfl, Bool.false_eq_true, if_false, Bool.and_self, if_true])

theorem vfsubVf (vd : VReg) (vs2 : VReg) (fs1 : FReg) (w : Bool) (m : Bool) : Statement (.vfsubVf vd vs2 fs1 w m) := of_parse _ (by
  rw [show encode (.vfsubVf vd vs2 fs1 w m) = 33#6 ++ (bit1 w) ++ (bit1 m) ++ vs2 ++ fs1 ++ vd ++ 43#7 from rfl]
  generalize hw : (33#6 ++ (bit1 w) ++ (bit1 m) ++ vs2 ++ fs1 ++ vd ++ 43#7 : BitVec 32) = wd
  obtain ⟨h0, h1, h2, h3, h4, h5, h6, h7, h8, h9⟩ : bits wd 6 0 = 43#7 ∧ bits wd 31 31 = 1#1 ∧ bits wd 31 27 = 16#5 ∧ bits wd 31 26 = 33#6 ∧ bits wd 26 26 = 1#1 ∧ bits wd 12 7 = vd ∧ bits wd 23 18 = vs2 ∧ bits wd 17 13 = fs1 ∧ (bits wd 25 25 == 1#1) = w ∧ (bits wd 24 24 == 1#1) = m := by
    subst hw
    simp (disch := decide) only [bits, lo1, hi1, lo5, hi5, lo6, hi6, lo7, hi7, slice_all, bit1_one, Nat.reduceSub, Nat.reduceAdd, BitVec.reduceExtractLsb', and_self]
  clear hw
  simp only [parseWord, decodeCustom1, decodeCustom1C1, h0, h1, h2, h3, h4, h5, h6, h7, h8, h9, BitVec.reduceToNat, BitVec.toNat_ofNat, Nat.reducePow, Nat.reduceMod, BEq.rfl, show (0#1 == 1#1) = false from rfl, Bool.false_eq_true, if_false, Bool.and_self, if_true])

theorem vfmulVf (vd : VReg) (vs2 : VReg) (fs1 : FReg) (w : Bool) (m : Bool) : Statement (.vfmulVf vd vs2 fs1 w m) := of_parse _ (by
  rw [show encode (.vfmulVf vd vs2 fs1 w m) = 34#6 ++ (bit1 w) ++ (bit1 m) ++ vs2 ++ fs1 ++ vd ++ 43#7 from rfl]
  generalize hw : (34#6 ++ (bit1 w) ++ (bit1 m) ++ vs2 ++ fs1 ++ vd ++ 43#7 : BitVec 32) = wd
  obtain ⟨h0, h1, h2, h3, h4, h5, h6, h7, h8, h9⟩ : bits wd 6 0 = 43#7 ∧ bits wd 31 31 = 1#1 ∧ bits wd 31 27 = 17#5 ∧ bits wd 31 26 = 34#6 ∧ bits wd 26 26 = 0#1 ∧ bits wd 12 7 = vd ∧ bits wd 23 18 = vs2 ∧ bits wd 17 13 = fs1 ∧ (bits wd 25 25 == 1#1) = w ∧ (bits wd 24 24 == 1#1) = m := by
    subst hw
    simp (disch := decide) only [bits, lo1, hi1, lo5, hi5, lo6, hi6, lo7, hi7, slice_all, bit1_one, Nat.reduceSub, Nat.reduceAdd, BitVec.reduceExtractLsb', and_self]
  clear hw
  simp only [parseWord, decodeCustom1, decodeCustom1C1, h0, h1, h2, h3, h4, h5, h6, h7, h8, h9, BitVec.reduceToNat, BitVec.toNat_ofNat, Nat.reducePow, Nat.reduceMod, BEq.rfl, show (0#1 == 1#1) = false from rfl, Bool.false_eq_true, if_false, Bool.and_self, if_true])

theorem vfdivVf (vd : VReg) (vs2 : VReg) (fs1 : FReg) (w : Bool) (m : Bool) : Statement (.vfdivVf vd vs2 fs1 w m) := of_parse _ (by
  rw [show encode (.vfdivVf vd vs2 fs1 w m) = 35#6 ++ (bit1 w) ++ (bit1 m) ++ vs2 ++ fs1 ++ vd ++ 43#7 from rfl]
  generalize hw : (35#6 ++ (bit1 w) ++ (bit1 m) ++ vs2 ++ fs1 ++ vd ++ 43#7 : BitVec 32) = wd
  obtain ⟨h0, h1, h2, h3, h4, h5, h6, h7, h8, h9⟩ : bits wd 6 0 = 43#7 ∧ bits wd 31 31 = 1#1 ∧ bits wd 31 27 = 17#5 ∧ bits wd 31 26 = 35#6 ∧ bits wd 26 26 = 1#1 ∧ bits wd 12 7 = vd ∧ bits wd 23 18 = vs2 ∧ bits wd 17 13 = fs1 ∧ (bits wd 25 25 == 1#1) = w ∧ (bits wd 24 24 == 1#1) = m := by
    subst hw
    simp (disch := decide) only [bits, lo1, hi1, lo5, hi5, lo6, hi6, lo7, hi7, slice_all, bit1_one, Nat.reduceSub, Nat.reduceAdd, BitVec.reduceExtractLsb', and_self]
  clear hw
  simp only [parseWord, decodeCustom1, decodeCustom1C1, h0, h1, h2, h3, h4, h5, h6, h7, h8, h9, BitVec.reduceToNat, BitVec.toNat_ofNat, Nat.reducePow, Nat.reduceMod, BEq.rfl, show (0#1 == 1#1) = false from rfl, Bool.false_eq_true, if_false, Bool.and_self, if_true])

theorem vfminVf (vd : VReg) (vs2 : VReg) (fs1 : FReg) (w : Bool) (m : Bool) : Statement (.vfminVf vd vs2 fs1 w m) := of_parse _ (by
  rw [show encode (.vfminVf vd vs2 fs1 w m) = 36#6 ++ (bit1 w) ++ (bit1 m) ++ vs2 ++ fs1 ++ vd ++ 43#7 from rfl]
  generalize hw : (36#6 ++ (bit1 w) ++ (bit1 m) ++ vs2 ++ fs1 ++ vd ++ 43#7 : BitVec 32) = wd
  obtain ⟨h0, h1, h2, h3, h4, h5, h6, h7, h8, h9⟩ : bits wd 6 0 = 43#7 ∧ bits wd 31 31 = 1#1 ∧ bits wd 31 27 = 18#5 ∧ bits wd 31 26 = 36#6 ∧ bits wd 26 26 = 0#1 ∧ bits wd 12 7 = vd ∧ bits wd 23 18 = vs2 ∧ bits wd 17 13 = fs1 ∧ (bits wd 25 25 == 1#1) = w ∧ (bits wd 24 24 == 1#1) = m := by
    subst hw
    simp (disch := decide) only [bits, lo1, hi1, lo5, hi5, lo6, hi6, lo7, hi7, slice_all, bit1_one, Nat.reduceSub, Nat.reduceAdd, BitVec.reduceExtractLsb', and_self]
  clear hw
  simp only [parseWord, decodeCustom1, decodeCustom1C1, h0, h1, h2, h3, h4, h5, h6, h7, h8, h9, BitVec.reduceToNat, BitVec.toNat_ofNat, Nat.reducePow, Nat.reduceMod, BEq.rfl, show (0#1 == 1#1) = false from rfl, Bool.false_eq_true, if_false, Bool.and_self, if_true])

theorem vfmaxVf (vd : VReg) (vs2 : VReg) (fs1 : FReg) (w : Bool) (m : Bool) : Statement (.vfmaxVf vd vs2 fs1 w m) := of_parse _ (by
  rw [show encode (.vfmaxVf vd vs2 fs1 w m) = 37#6 ++ (bit1 w) ++ (bit1 m) ++ vs2 ++ fs1 ++ vd ++ 43#7 from rfl]
  generalize hw : (37#6 ++ (bit1 w) ++ (bit1 m) ++ vs2 ++ fs1 ++ vd ++ 43#7 : BitVec 32) = wd
  obtain ⟨h0, h1, h2, h3, h4, h5, h6, h7, h8, h9⟩ : bits wd 6 0 = 43#7 ∧ bits wd 31 31 = 1#1 ∧ bits wd 31 27 = 18#5 ∧ bits wd 31 26 = 37#6 ∧ bits wd 26 26 = 1#1 ∧ bits wd 12 7 = vd ∧ bits wd 23 18 = vs2 ∧ bits wd 17 13 = fs1 ∧ (bits wd 25 25 == 1#1) = w ∧ (bits wd 24 24 == 1#1) = m := by
    subst hw
    simp (disch := decide) only [bits, lo1, hi1, lo5, hi5, lo6, hi6, lo7, hi7, slice_all, bit1_one, Nat.reduceSub, Nat.reduceAdd, BitVec.reduceExtractLsb', and_self]
  clear hw
  simp only [parseWord, decodeCustom1, decodeCustom1C1, h0, h1, h2, h3, h4, h5, h6, h7, h8, h9, BitVec.reduceToNat, BitVec.toNat_ofNat, Nat.reducePow, Nat.reduceMod, BEq.rfl, show (0#1 == 1#1) = false from rfl, Bool.false_eq_true, if_false, Bool.and_self, if_true])

theorem vfsgnjVf (vd : VReg) (vs2 : VReg) (fs1 : FReg) (w : Bool) (m : Bool) : Statement (.vfsgnjVf vd vs2 fs1 w m) := of_parse _ (by
  rw [show encode (.vfsgnjVf vd vs2 fs1 w m) = 38#6 ++ (bit1 w) ++ (bit1 m) ++ vs2 ++ fs1 ++ vd ++ 43#7 from rfl]
  generalize hw : (38#6 ++ (bit1 w) ++ (bit1 m) ++ vs2 ++ fs1 ++ vd ++ 43#7 : BitVec 32) = wd
  obtain ⟨h0, h1, h2, h3, h4, h5, h6, h7, h8, h9⟩ : bits wd 6 0 = 43#7 ∧ bits wd 31 31 = 1#1 ∧ bits wd 31 27 = 19#5 ∧ bits wd 31 26 = 38#6 ∧ bits wd 26 26 = 0#1 ∧ bits wd 12 7 = vd ∧ bits wd 23 18 = vs2 ∧ bits wd 17 13 = fs1 ∧ (bits wd 25 25 == 1#1) = w ∧ (bits wd 24 24 == 1#1) = m := by
    subst hw
    simp (disch := decide) only [bits, lo1, hi1, lo5, hi5, lo6, hi6, lo7, hi7, slice_all, bit1_one, Nat.reduceSub, Nat.reduceAdd, BitVec.reduceExtractLsb', and_self]
  clear hw
  simp only [parseWord, decodeCustom1, decodeCustom1C1, h0, h1, h2, h3, h4, h5, h6, h7, h8, h9, BitVec.reduceToNat, BitVec.toNat_ofNat, Nat.reducePow, Nat.reduceMod, BEq.rfl, show (0#1 == 1#1) = false from rfl, Bool.false_eq_true, if_false, Bool.and_self, if_true])

theorem vfsgnjnVf (vd : VReg) (vs2 : VReg) (fs1 : FReg) (w : Bool) (m : Bool) : Statement (.vfsgnjnVf vd vs2 fs1 w m) := of_parse _ (by
  rw [show encode (.vfsgnjnVf vd vs2 fs1 w m) = 39#6 ++ (bit1 w) ++ (bit1 m) ++ vs2 ++ fs1 ++ vd ++ 43#7 from rfl]
  generalize hw : (39#6 ++ (bit1 w) ++ (bit1 m) ++ vs2 ++ fs1 ++ vd ++ 43#7 : BitVec 32) = wd
  obtain ⟨h0, h1, h2, h3, h4, h5, h6, h7, h8, h9⟩ : bits wd 6 0 = 43#7 ∧ bits wd 31 31 = 1#1 ∧ bits wd 31 27 = 19#5 ∧ bits wd 31 26 = 39#6 ∧ bits wd 26 26 = 1#1 ∧ bits wd 12 7 = vd ∧ bits wd 23 18 = vs2 ∧ bits wd 17 13 = fs1 ∧ (bits wd 25 25 == 1#1) = w ∧ (bits wd 24 24 == 1#1) = m := by
    subst hw
    simp (disch := decide) only [bits, lo1, hi1, lo5, hi5, lo6, hi6, lo7, hi7, slice_all, bit1_one, Nat.reduceSub, Nat.reduceAdd, BitVec.reduceExtractLsb', and_self]
  clear hw
  simp only [parseWord, decodeCustom1, decodeCustom1C1, h0, h1, h2, h3, h4, h5, h6, h7, h8, h9, BitVec.reduceToNat, BitVec.toNat_ofNat, Nat.reducePow, Nat.reduceMod, BEq.rfl, show (0#1 == 1#1) = false from rfl, Bool.false_eq_true, if_false, Bool.and_self, if_true])

theorem vfsgnjxVf (vd : VReg) (vs2 : VReg) (fs1 : FReg) (w : Bool) (m : Bool) : Statement (.vfsgnjxVf vd vs2 fs1 w m) := of_parse _ (by
  rw [show encode (.vfsgnjxVf vd vs2 fs1 w m) = 40#6 ++ (bit1 w) ++ (bit1 m) ++ vs2 ++ fs1 ++ vd ++ 43#7 from rfl]
  generalize hw : (40#6 ++ (bit1 w) ++ (bit1 m) ++ vs2 ++ fs1 ++ vd ++ 43#7 : BitVec 32) = wd
  obtain ⟨h0, h1, h2, h3, h4, h5, h6, h7, h8, h9⟩ : bits wd 6 0 = 43#7 ∧ bits wd 31 31 = 1#1 ∧ bits wd 31 27 = 20#5 ∧ bits wd 31 26 = 40#6 ∧ bits wd 26 26 = 0#1 ∧ bits wd 12 7 = vd ∧ bits wd 23 18 = vs2 ∧ bits wd 17 13 = fs1 ∧ (bits wd 25 25 == 1#1) = w ∧ (bits wd 24 24 == 1#1) = m := by
    subst hw
    simp (disch := decide) only [bits, lo1, hi1, lo5, hi5, lo6, hi6, lo7, hi7, slice_all, bit1_one, Nat.reduceSub, Nat.reduceAdd, BitVec.reduceExtractLsb', and_self]
  clear hw
  simp only [parseWord, decodeCustom1, decodeCustom1C1, h0, h1, h2, h3, h4, h5, h6, h7, h8, h9, BitVec.reduceToNat, BitVec.toNat_ofNat, Nat.reducePow, Nat.reduceMod, BEq.rfl, show (0#1 == 1#1) = false from rfl, Bool.false_eq_true, if_false, Bool.and_self, if_true])

theorem vfmaccVf (vd : VReg) (vs2 : VReg) (fs1 : FReg) (w : Bool) (m : Bool) : Statement (.vfmaccVf vd vs2 fs1 w m) := of_parse _ (by
  rw [show encode (.vfmaccVf vd vs2 fs1 w m) = 41#6 ++ (bit1 w) ++ (bit1 m) ++ vs2 ++ fs1 ++ vd ++ 43#7 from rfl]
  generalize hw : (41#6 ++ (bit1 w) ++ (bit1 m) ++ vs2 ++ fs1 ++ vd ++ 43#7 : BitVec 32) = wd
  obtain ⟨h0, h1, h2, h3, h4, h5, h6, h7, h8, h9⟩ : bits wd 6 0 = 43#7 ∧ bits wd 31 31 = 1#1 ∧ bits wd 31 27 = 20#5 ∧ bits wd 31 26 = 41#6 ∧ bits wd 26 26 = 1#1 ∧ bits wd 12 7 = vd ∧ bits wd 23 18 = vs2 ∧ bits wd 17 13 = fs1 ∧ (bits wd 25 25 == 1#1) = w ∧ (bits wd 24 24 == 1#1) = m := by
    subst hw
    simp (disch := decide) only [bits, lo1, hi1, lo5, hi5, lo6, hi6, lo7, hi7, slice_all, bit1_one, Nat.reduceSub, Nat.reduceAdd, BitVec.reduceExtractLsb', and_self]
  clear hw
  simp only [parseWord, decodeCustom1, decodeCustom1C1, h0, h1, h2, h3, h4, h5, h6, h7, h8, h9, BitVec.reduceToNat, BitVec.toNat_ofNat, Nat.reducePow, Nat.reduceMod, BEq.rfl, show (0#1 == 1#1) = false from rfl, Bool.false_eq_true, if_false, Bool.and_self, if_true])

theorem vfnmaccVf (vd : VReg) (vs2 : VReg) (fs1 : FReg) (w : Bool) (m : Bool) : Statement (.vfnmaccVf vd vs2 fs1 w m) := of_parse _ (by
  rw [show encode (.vfnmaccVf vd vs2 fs1 w m) = 42#6 ++ (bit1 w) ++ (bit1 m) ++ vs2 ++ fs1 ++ vd ++ 43#7 from rfl]
  generalize hw : (42#6 ++ (bit1 w) ++ (bit1 m) ++ vs2 ++ fs1 ++ vd ++ 43#7 : BitVec 32) = wd
  obtain ⟨h0, h1, h2, h3, h4, h5, h6, h7, h8, h9⟩ : bits wd 6 0 = 43#7 ∧ bits wd 31 31 = 1#1 ∧ bits wd 31 27 = 21#5 ∧ bits wd 31 26 = 42#6 ∧ bits wd 26 26 = 0#1 ∧ bits wd 12 7 = vd ∧ bits wd 23 18 = vs2 ∧ bits wd 17 13 = fs1 ∧ (bits wd 25 25 == 1#1) = w ∧ (bits wd 24 24 == 1#1) = m := by
    subst hw
    simp (disch := decide) only [bits, lo1, hi1, lo5, hi5, lo6, hi6, lo7, hi7, slice_all, bit1_one, Nat.reduceSub, Nat.reduceAdd, BitVec.reduceExtractLsb', and_self]
  clear hw
  simp only [parseWord, decodeCustom1, decodeCustom1C1, h0, h1, h2, h3, h4, h5, h6, h7, h8, h9, BitVec.reduceToNat, BitVec.toNat_ofNat, Nat.reducePow, Nat.reduceMod, BEq.rfl, show (0#1 == 1#1) = false from rfl, Bool.false_eq_true, if_false, Bool.and_self, if_true])

theorem vfmsacVf (vd : VReg) (vs2 : VReg) (fs1 : FReg) (w : Bool) (m : Bool) : Statement (.vfmsacVf vd vs2 fs1 w m) := of_parse _ (by
  rw [show encode (.vfmsacVf vd vs2 fs1 w m) = 43#6 ++ (bit1 w) ++ (bit1 m) ++ vs2 ++ fs1 ++ vd ++ 43#7 from rfl]
  generalize hw : (43#6 ++ (bit1 w) ++ (bit1 m) ++ vs2 ++ fs1 ++ vd ++ 43#7 : BitVec 32) = wd
  obtain ⟨h0, h1, h2, h3, h4, h5, h6, h7, h8, h9⟩ : bits wd 6 0 = 43#7 ∧ bits wd 31 31 = 1#1 ∧ bits wd 31 27 = 21#5 ∧ bits wd 31 26 = 43#6 ∧ bits wd 26 26 = 1#1 ∧ bits wd 12 7 = vd ∧ bits wd 23 18 = vs2 ∧ bits wd 17 13 = fs1 ∧ (bits wd 25 25 == 1#1) = w ∧ (bits wd 24 24 == 1#1) = m := by
    subst hw
    simp (disch := decide) only [bits, lo1, hi1, lo5, hi5, lo6, hi6, lo7, hi7, slice_all, bit1_one, Nat.reduceSub, Nat.reduceAdd, BitVec.reduceExtractLsb', and_self]
  clear hw
  simp only [parseWord, decodeCustom1, decodeCustom1C1, h0, h1, h2, h3, h4, h5, h6, h7, h8, h9, BitVec.reduceToNat, BitVec.toNat_ofNat, Nat.reducePow, Nat.reduceMod, BEq.rfl, show (0#1 == 1#1) = false from rfl, Bool.false_eq_true, if_false, Bool.and_self, if_true])

theorem vfnmsacVf (vd : VReg) (vs2 : VReg) (fs1 : FReg) (w : Bool) (m : Bool) : Statement (.vfnmsacVf vd vs2 fs1 w m) := of_parse _ (by
  rw [show encode (.vfnmsacVf vd vs2 fs1 w m) = 44#6 ++ (bit1 w) ++ (bit1 m) ++ vs2 ++ fs1 ++ vd ++ 43#7 from rfl]
  generalize hw : (44#6 ++ (bit1 w) ++ (bit1 m) ++ vs2 ++ fs1 ++ vd ++ 43#7 : BitVec 32) = wd
  obtain ⟨h0, h1, h2, h3, h4, h5, h6, h7, h8, h9⟩ : bits wd 6 0 = 43#7 ∧ bits wd 31 31 = 1#1 ∧ bits wd 31 27 = 22#5 ∧ bits wd 31 26 = 44#6 ∧ bits wd 26 26 = 0#1 ∧ bits wd 12 7 = vd ∧ bits wd 23 18 = vs2 ∧ bits wd 17 13 = fs1 ∧ (bits wd 25 25 == 1#1) = w ∧ (bits wd 24 24 == 1#1) = m := by
    subst hw
    simp (disch := decide) only [bits, lo1, hi1, lo5, hi5, lo6, hi6, lo7, hi7, slice_all, bit1_one, Nat.reduceSub, Nat.reduceAdd, BitVec.reduceExtractLsb', and_self]
  clear hw
  simp only [parseWord, decodeCustom1, decodeCustom1C1, h0, h1, h2, h3, h4, h5, h6, h7, h8, h9, BitVec.reduceToNat, BitVec.toNat_ofNat, Nat.reducePow, Nat.reduceMod, BEq.rfl, show (0#1 == 1#1) = false from rfl, Bool.false_eq_true, if_false, Bool.and_self, if_true])

theorem vfeqVf (vd : VReg) (vs2 : VReg) (fs1 : FReg) (w : Bool) (m : Bool) : Statement (.vfeqVf vd vs2 fs1 w m) := of_parse _ (by
  rw [show encode (.vfeqVf vd vs2 fs1 w m) = 45#6 ++ (bit1 w) ++ (bit1 m) ++ vs2 ++ fs1 ++ vd ++ 43#7 from rfl]
  generalize hw : (45#6 ++ (bit1 w) ++ (bit1 m) ++ vs2 ++ fs1 ++ vd ++ 43#7 : BitVec 32) = wd
  obtain ⟨h0, h1, h2, h3, h4, h5, h6, h7, h8, h9⟩ : bits wd 6 0 = 43#7 ∧ bits wd 31 31 = 1#1 ∧ bits wd 31 27 = 22#5 ∧ bits wd 31 26 = 45#6 ∧ bits wd 26 26 = 1#1 ∧ bits wd 12 7 = vd ∧ bits wd 23 18 = vs2 ∧ bits wd 17 13 = fs1 ∧ (bits wd 25 25 == 1#1) = w ∧ (bits wd 24 24 == 1#1) = m := by
    subst hw
    simp (disch := decide) only [bits, lo1, hi1, lo5, hi5, lo6, hi6, lo7, hi7, slice_all, bit1_one, Nat.reduceSub, Nat.reduceAdd, BitVec.reduceExtractLsb', and_self]
  clear hw
  simp only [parseWord, decodeCustom1, decodeCustom1C1, h0, h1, h2, h3, h4, h5, h6, h7, h8, h9, BitVec.reduceToNat, BitVec.toNat_ofNat, Nat.reducePow, Nat.reduceMod, BEq.rfl, show (0#1 == 1#1) = false from rfl, Bool.false_eq_true, if_false, Bool.and_self, if_true])

theorem vfneVf (vd : VReg) (vs2 : VReg) (fs1 : FReg) (w : Bool) (m : Bool) : Statement (.vfneVf vd vs2 fs1 w m) := of_parse _ (by
  rw [show encode (.vfneVf vd vs2 fs1 w m) = 46#6 ++ (bit1 w) ++ (bit1 m) ++ vs2 ++ fs1 ++ vd ++ 43#7 from rfl]
  generalize hw : (46#6 ++ (bit1 w) ++ (bit1 m) ++ vs2 ++ fs1 ++ vd ++ 43#7 : BitVec 32) = wd
  obtain ⟨h0, h1, h2, h3, h4, h5, h6, h7, h8, h9⟩ : bits wd 6 0 = 43#7 ∧ bits wd 31 31 = 1#1 ∧ bits wd 31 27 = 23#5 ∧ bits wd 31 26 = 46#6 ∧ bits wd 26 26 = 0#1 ∧ bits wd 12 7 = vd ∧ bits wd 23 18 = vs2 ∧ bits wd 17 13 = fs1 ∧ (bits wd 25 25 == 1#1) = w ∧ (bits wd 24 24 == 1#1) = m := by
    subst hw
    simp (disch := decide) only [bits, lo1, hi1, lo5, hi5, lo6, hi6, lo7, hi7, slice_all, bit1_one, Nat.reduceSub, Nat.reduceAdd, BitVec.reduceExtractLsb', and_self]
  clear hw
  simp only [parseWord, decodeCustom1, decodeCustom1C1, h0, h1, h2, h3, h4, h5, h6, h7, h8, h9, BitVec.reduceToNat, BitVec.toNat_ofNat, Nat.reducePow, Nat.reduceMod, BEq.rfl, show (0#1 == 1#1) = false from rfl, Bool.false_eq_true, if_false, Bool.and_self, if_true])

theorem vfltVf (vd : VReg) (vs2 : VReg) (fs1 : FReg) (w : Bool) (m : Bool) : Statement (.vfltVf vd vs2 fs1 w m) := of_parse _ (by
  rw [show encode (.vfltVf vd vs2 fs1 w m) = 47#6 ++ (bit1 w) ++ (bit1 m) ++ vs2 ++ fs1 ++ vd ++ 43#7 from rfl]
  generalize hw : (47#6 ++ (bit1 w) ++ (bit1 m) ++ vs2 ++ fs1 ++ vd ++ 43#7 : BitVec 32) = wd
  obtain ⟨h0, h1, h2, h3, h4, h5, h6, h7, h8, h9⟩ : bits wd 6 0 = 43#7 ∧ bits wd 31 31 = 1#1 ∧ bits wd 31 27 = 23#5 ∧ bits wd 31 26 = 47#6 ∧ bits wd 26 26 = 1#1 ∧ bits wd 12 7 = vd ∧ bits wd 23 18 = vs2 ∧ bits wd 17 13 = fs1 ∧ (bits wd 25 25 == 1#1) = w ∧ (bits wd 24 24 == 1#1) = m := by
    subst hw
    simp (disch := decide) only [bits, lo1, hi1, lo5, hi5, lo6, hi6, lo7, hi7, slice_all, bit1_one, Nat.reduceSub, Nat.reduceAdd, BitVec.reduceExtractLsb', and_self]
  clear hw
  simp only [parseWord, decodeCustom1, decodeCustom1C1, h0, h1, h2, h3, h4, h5, h6, h7, h8, h9, BitVec.reduceToNat, BitVec.toNat_ofNat, Nat.reducePow, Nat.reduceMod, BEq.rfl, show (0#1 == 1#1) = false from rfl, Bool.false_eq_true, if_false, Bool.and_self, if_true])

theorem vfleVf (vd : VReg) (vs2 : VReg) (fs1 : FReg) (w : Bool) (m : Bool) : Statement (.vfleVf vd vs2 fs1 w m) := of_parse _ (by
  rw [show encode (.vfleVf vd vs2 fs1 w m) = 48#6 ++ (bit1 w) ++ (bit1 m) ++ vs2 ++ fs1 ++ vd ++ 43#7 from rfl]
  generalize hw : (48#6 ++ (bit1 w) ++ (bit1 m) ++ vs2 ++ fs1 ++ vd ++ 43#7 : BitVec 32) = wd
  obtain ⟨h0, h1, h2, h3, h4, h5, h6, h7, h8, h9⟩ : bits wd 6 0 = 43#7 ∧ bits wd 31 31 = 1#1 ∧ bits wd 31 27 = 24#5 ∧ bits wd 31 26 = 48#6 ∧ bits wd 26 26 = 0#1 ∧ bits wd 12 7 = vd ∧ bits wd 23 18 = vs2 ∧ bits wd 17 13 = fs1 ∧ (bits wd 25 25 == 1#1) = w ∧ (bits wd 24 24 == 1#1) = m := by
    subst hw
    simp (disch := decide) only [bits, lo1, hi1, lo5, hi5, lo6, hi6, lo7, hi7, slice_all, bit1_one, Nat.reduceSub, Nat.reduceAdd, BitVec.reduceExtractLsb', and_self]
  clear hw
  simp only [parseWord, decodeCustom1, decodeCustom1C1, h0, h1, h2, h3, h4, h5, h6, h7, h8, h9, BitVec.reduceToNat, BitVec.toNat_ofNat, Nat.reducePow, Nat.reduceMod, BEq.rfl, show (0#1 == 1#1) = false from rfl, Bool.false_eq_true, if_false, Bool.and_self, if_true])

theorem vfunVf (vd : VReg) (vs2 : VReg) (fs1 : FReg) (w : Bool) (m : Bool) : Statement (.vfunVf vd vs2 fs1 w m) := of_parse _ (by
  rw [show encode (.vfunVf vd vs2 fs1 w m) = 49#6 ++ (bit1 w) ++ (bit1 m) ++ vs2 ++ fs1 ++ vd ++ 43#7 from rfl]
  generalize hw : (49#6 ++ (bit1 w) ++ (bit1 m) ++ vs2 ++ fs1 ++ vd ++ 43#7 : BitVec 32) = wd
  obtain ⟨h0, h1, h2, h3, h4, h5, h6, h7, h8, h9⟩ : bits wd 6 0 = 43#7 ∧ bits wd 31 31 = 1#1 ∧ bits wd 31 27 = 24#5 ∧ bits wd 31 26 = 49#6 ∧ bits wd 26 26 = 1#1 ∧ bits wd 12 7 = vd ∧ bits wd 23 18 = vs2 ∧ bits wd 17 13 = fs1 ∧ (bits wd 25 25 == 1#1) = w ∧ (bits wd 24 24 == 1#1) = m := by
    subst hw
    simp (disch := decide) only [bits, lo1, hi1, lo5, hi5, lo6, hi6, lo7, hi7, slice_all, bit1_one, Nat.reduceSub, Nat.reduceAdd, BitVec.reduceExtractLsb', and_self]
  clear hw
  simp only [parseWord, decodeCustom1, decodeCustom1C1, h0, h1, h2, h3, h4, h5, h6, h7, h8, h9, BitVec.reduceToNat, BitVec.toNat_ofNat, Nat.reducePow, Nat.reduceMod, BEq.rfl, show (0#1 == 1#1) = false from rfl, Bool.false_eq_true, if_false, Bool.and_self, if_true])

theorem vfmergeVf (vd : VReg) (vs2 : VReg) (fs1 : FReg) (w : Bool) : Statement (.vfmergeVf vd vs2 fs1 w) := of_parse _ (by
  rw [show encode (.vfmergeVf vd vs2 fs1 w) = 50#6 ++ (bit1 w) ++ 1#1 ++ vs2 ++ fs1 ++ vd ++ 43#7 from rfl]
  generalize hw : (50#6 ++ (bit1 w) ++ 1#1 ++ vs2 ++ fs1 ++ vd ++ 43#7 : BitVec 32) = wd
  obtain ⟨h0, h1, h2, h3, h4, h5, h6, h7, h8, h9⟩ : bits wd 6 0 = 43#7 ∧ bits wd 31 31 = 1#1 ∧ bits wd 31 27 = 25#5 ∧ bits wd 31 26 = 50#6 ∧ bits wd 24 24 = 1#1 ∧ bits wd 26 26 = 0#1 ∧ bits wd 12 7 = vd ∧ bits wd 23 18 = vs2 ∧ bits wd 17 13 = fs1 ∧ (bits wd 25 25 == 1#1) = w := by
    subst hw
    simp (disch := decide) only [bits, lo1, hi1, lo5, hi5, lo6, hi6, lo7, hi7, slice_all, bit1_one, Nat.reduceSub, Nat.reduceAdd, BitVec.reduceExtractLsb', and_self]
  clear hw
  simp only [parseWord, decodeCustom1, decodeCustom1C1, h0, h1, h2, h3, h4, h5, h6, h7, h8, h9, BitVec.reduceToNat, BitVec.toNat_ofNat, Nat.reducePow, Nat.reduceMod, BEq.rfl, show (0#1 == 1#1) = false from rfl, Bool.false_eq_true, if_false, Bool.and_self, if_true])

theorem vfwmaccVf (vd : VReg) (vs2 : VReg) (fs1 : FReg) (w : Bool) (m : Bool) : Statement (.vfwmaccVf vd vs2 fs1 w m) := of_parse _ (by
  rw [show encode (.vfwmaccVf vd vs2 fs1 w m) = 53#6 ++ (bit1 w) ++ (bit1 m) ++ vs2 ++ fs1 ++ vd ++ 43#7 from rfl]
  generalize hw : (53#6 ++ (bit1 w) ++ (bit1 m) ++ vs2 ++ fs1 ++ vd ++ 43#7 : BitVec 32) = wd
  obtain ⟨h0, h1, h2, h3, h4, h5, h6, h7, h8, h9⟩ : bits wd 6 0 = 43#7 ∧ bits wd 31 31 = 1#1 ∧ bits wd 31 27 = 26#5 ∧ bits wd 31 26 = 53#6 ∧ bits wd 26 26 = 1#1 ∧ bits wd 12 7 = vd ∧ bits wd 23 18 = vs2 ∧ bits wd 17 13 = fs1 ∧ (bits wd 25 25 == 1#1) = w ∧ (bits wd 24 24 == 1#1) = m := by
    subst hw
    simp (disch := decide) only [bits, lo1, hi1, lo5, hi5, lo6, hi6, lo7, hi7, slice_all, bit1_one, Nat.reduceSub, Nat.reduceAdd, BitVec.reduceExtractLsb', and_self]
  clear hw
  simp only [parseWord, decodeCustom1, decodeCustom1C1, h0, h1, h2, h3, h4, h5, h6, h7, h8, h9, BitVec.reduceToNat, BitVec.toNat_ofNat, Nat.reducePow, Nat.reduceMod, BEq.rfl, show (0#1 == 1#1) = false from rfl, Bool.false_eq_true, if_false, Bool.and_self, if_true])

theorem vbscaleVf (vd : VReg) (tf : BitVec 6) (fs1 : FReg) (w : Bool) : Statement (.vbscaleVf vd tf fs1 w) := of_parse _ (by
  rw [show encode (.vbscaleVf vd tf fs1 w) = 60#6 ++ (bit1 w) ++ 0#1 ++ tf ++ fs1 ++ vd ++ 43#7 from rfl]
  generalize hw : (60#6 ++ (bit1 w) ++ 0#1 ++ tf ++ fs1 ++ vd ++ 43#7 : BitVec 32) = wd
  obtain ⟨h0, h1, h2, h3, h4, h5, h6, h7, h8, h9⟩ : bits wd 6 0 = 43#7 ∧ bits wd 31 31 = 1#1 ∧ bits wd 31 27 = 30#5 ∧ bits wd 31 26 = 60#6 ∧ bits wd 24 24 = 0#1 ∧ bits wd 26 26 = 0#1 ∧ bits wd 12 7 = vd ∧ bits wd 23 18 = tf ∧ bits wd 17 13 = fs1 ∧ (bits wd 25 25 == 1#1) = w := by
    subst hw
    simp (disch := decide) only [bits, lo1, hi1, lo5, hi5, lo6, hi6, lo7, hi7, slice_all, bit1_one, Nat.reduceSub, Nat.reduceAdd, BitVec.reduceExtractLsb', and_self]
  clear hw
  simp only [parseWord, decodeCustom1, decodeCustom1C1, h0, h1, h2, h3, h4, h5, h6, h7, h8, h9, BitVec.reduceToNat, BitVec.toNat_ofNat, Nat.reducePow, Nat.reduceMod, BEq.rfl, show (0#1 == 1#1) = false from rfl, Bool.false_eq_true, if_false, Bool.and_self, if_true])

theorem vld (vd : VReg) (rs1 : XReg) (w : Bool) (m : Bool) : Statement (.vld vd rs1 w m) := of_parse _ (by
  rw [show encode (.vld vd rs1 w m) = 0#9 ++ (bit1 w) ++ (bit1 m) ++ (vd.extractLsb' 5 1) ++ rs1 ++ 4#3 ++ (vd.extractLsb' 0 5) ++ 11#7 from rfl]
  generalize hw : (0#9 ++ (bit1 w) ++ (bit1 m) ++ (vd.extractLsb' 5 1) ++ rs1 ++ 4#3 ++ (vd.extractLsb' 0 5) ++ 11#7 : BitVec 32) = wd
  obtain ⟨h0, h1, h2, h3, h4, h5, h6, h7, h8, h9⟩ : bits wd 6 0 = 11#7 ∧ bits wd 14 12 = 4#3 ∧ bits wd 31 25 = 0#7 ∧ bits wd 25 24 = 0#2 ∧ bits wd 23 23 = 0#1 ∧ bits wd 20 20 = vd.extractLsb' 5 1 ∧ bits wd 11 7 = vd.extractLsb' 0 5 ∧ bits wd 19 15 = rs1 ∧ (bits wd 22 22 == 1#1) = w ∧ (bits wd 21 21 == 1#1) = m := by
    subst hw
    simp (disch := decide) only [bits, lo1, hi1, lo3, hi3, lo5, hi5, lo7, hi7, lo9, hi9, slice_all, bit1_one, Nat.reduceSub, Nat.reduceAdd, BitVec.reduceExtractLsb', and_self]
  have j0 : (bits wd 20 20 ++ bits wd 11 7 : BitVec 6) = vd := by rw [h5, h6]; exact join_reg vd
  clear hw
  simp only [parseWord, decodeCustom0, decodeCustom0G4, h0, h1, h2, h3, h4, h7, h8, h9, j0, BitVec.reduceToNat, BitVec.toNat_ofNat, Nat.reducePow, Nat.reduceMod, BEq.rfl, show (0#1 == 1#1) = false from rfl, Bool.false_eq_true, if_false, Bool.and_self, if_true])

theorem vldFe (vd : VReg) (rs1 : XReg) (w : Bool) (m : Bool) : Statement (.vldFe vd rs1 w m) := of_parse _ (by
  rw [show encode (.vldFe vd rs1 w m) = 2#9 ++ (bit1 w) ++ (bit1 m) ++ (vd.extractLsb' 5 1) ++ rs1 ++ 4#3 ++ (vd.extractLsb' 0 5) ++ 11#7 from rfl]
  generalize hw : (2#9 ++ (bit1 w) ++ (bit1 m) ++ (vd.extractLsb' 5 1) ++ rs1 ++ 4#3 ++ (vd.extractLsb' 0 5) ++ 11#7 : BitVec 32) = wd
  obtain ⟨h0, h1, h2, h3, h4, h5, h6, h7, h8, h9⟩ : bits wd 6 0 = 11#7 ∧ bits wd 14 12 = 4#3 ∧ bits wd 31 25 = 0#7 ∧ bits wd 25 24 = 1#2 ∧ bits wd 23 23 = 0#1 ∧ bits wd 20 20 = vd.extractLsb' 5 1 ∧ bits wd 11 7 = vd.extractLsb' 0 5 ∧ bits wd 19 15 = rs1 ∧ (bits wd 22 22 == 1#1) = w ∧ (bits wd 21 21 == 1#1) = m := by
    subst hw
    simp (disch := decide) only [bits, lo1, hi1, lo3, hi3, lo5, hi5, lo7, hi7, lo9, hi9, slice_all, bit1_one, Nat.reduceSub, Nat.reduceAdd, BitVec.reduceExtractLsb', and_self]
  have j0 : (bits wd 20 20 ++ bits wd 11 7 : BitVec 6) = vd := by rw [h5, h6]; exact join_reg vd
  clear hw
  simp only [parseWord, decodeCustom0, decodeCustom0G4, h0, h1, h2, h3, h4, h7, h8, h9, j0, BitVec.reduceToNat, BitVec.toNat_ofNat, Nat.reducePow, Nat.reduceMod, BEq.rfl, show (0#1 == 1#1) = false from rfl, Bool.false_eq_true, if_false, Bool.and_self, if_true])

theorem vldFec (vd : VReg) (rs1 : XReg) (w : Bool) (m : Bool) : Statement (.vldFec vd rs1 w m) := of_parse _ (by
  rw [show encode (.vldFec vd rs1 w m) = 4#9 ++ (bit1 w) ++ (bit1 m) ++ (vd.extractLsb' 5 1) ++ rs1 ++ 4#3 ++ (vd.extractLsb' 0 5) ++ 11#7 from rfl]
  generalize hw : (4#9 ++ (bit1 w) ++ (bit1 m) ++ (vd.extractLsb' 5 1) ++ rs1 ++ 4#3 ++ (vd.extractLsb' 0 5) ++ 11#7 : BitVec 32) = wd
  obtain ⟨h0, h1, h2, h3, h4, h5, h6, h7, h8, h9⟩ : bits wd 6 0 = 11#7 ∧ bits wd 14 12 = 4#3 ∧ bits wd 31 25 = 1#7 ∧ bits wd 25 24 = 2#2 ∧ bits wd 23 23 = 0#1 ∧ bits wd 20 20 = vd.extractLsb' 5 1 ∧ bits wd 11 7 = vd.extractLsb' 0 5 ∧ bits wd 19 15 = rs1 ∧ (bits wd 22 22 == 1#1) = w ∧ (bits wd 21 21 == 1#1) = m := by
    subst hw
    simp (disch := decide) only [bits, lo1, hi1, lo3, hi3, lo5, hi5, lo7, hi7, lo9, hi9, slice_all, bit1_one, Nat.reduceSub, Nat.reduceAdd, BitVec.reduceExtractLsb', and_self]
  have j0 : (bits wd 20 20 ++ bits wd 11 7 : BitVec 6) = vd := by rw [h5, h6]; exact join_reg vd
  clear hw
  simp only [parseWord, decodeCustom0, decodeCustom0G4, h0, h1, h2, h3, h4, h7, h8, h9, j0, BitVec.reduceToNat, BitVec.toNat_ofNat, Nat.reducePow, Nat.reduceMod, BEq.rfl, show (0#1 == 1#1) = false from rfl, Bool.false_eq_true, if_false, Bool.and_self, if_true])

theorem vldSc (vd : VReg) (rs1 : XReg) (w : Bool) (m : Bool) : Statement (.vldSc vd rs1 w m) := of_parse _ (by
  rw [show encode (.vldSc vd rs1 w m) = 6#9 ++ (bit1 w) ++ (bit1 m) ++ (vd.extractLsb' 5 1) ++ rs1 ++ 4#3 ++ (vd.extractLsb' 0 5) ++ 11#7 from rfl]
  generalize hw : (6#9 ++ (bit1 w) ++ (bit1 m) ++ (vd.extractLsb' 5 1) ++ rs1 ++ 4#3 ++ (vd.extractLsb' 0 5) ++ 11#7 : BitVec 32) = wd
  obtain ⟨h0, h1, h2, h3, h4, h5, h6, h7, h8, h9⟩ : bits wd 6 0 = 11#7 ∧ bits wd 14 12 = 4#3 ∧ bits wd 31 25 = 1#7 ∧ bits wd 25 24 = 3#2 ∧ bits wd 23 23 = 0#1 ∧ bits wd 20 20 = vd.extractLsb' 5 1 ∧ bits wd 11 7 = vd.extractLsb' 0 5 ∧ bits wd 19 15 = rs1 ∧ (bits wd 22 22 == 1#1) = w ∧ (bits wd 21 21 == 1#1) = m := by
    subst hw
    simp (disch := decide) only [bits, lo1, hi1, lo3, hi3, lo5, hi5, lo7, hi7, lo9, hi9, slice_all, bit1_one, Nat.reduceSub, Nat.reduceAdd, BitVec.reduceExtractLsb', and_self]
  have j0 : (bits wd 20 20 ++ bits wd 11 7 : BitVec 6) = vd := by rw [h5, h6]; exact join_reg vd
  clear hw
  simp only [parseWord, decodeCustom0, decodeCustom0G4, h0, h1, h2, h3, h4, h7, h8, h9, j0, BitVec.reduceToNat, BitVec.toNat_ofNat, Nat.reducePow, Nat.reduceMod, BEq.rfl, show (0#1 == 1#1) = false from rfl, Bool.false_eq_true, if_false, Bool.and_self, if_true])

theorem vst (vd : VReg) (rs1 : XReg) (w : Bool) (m : Bool) : Statement (.vst vd rs1 w m) := of_parse _ (by
  rw [show encode (.vst vd rs1 w m) = 1#9 ++ (bit1 w) ++ (bit1 m) ++ (vd.extractLsb' 5 1) ++ rs1 ++ 4#3 ++ (vd.extractLsb' 0 5) ++ 11#7 from rfl]
  generalize hw : (1#9 ++ (bit1 w) ++ (bit1 m) ++ (vd.extractLsb' 5 1) ++ rs1 ++ 4#3 ++ (vd.extractLsb' 0 5) ++ 11#7 : BitVec 32) = wd
  obtain ⟨h0, h1, h2, h3, h4, h5, h6, h7, h8, h9⟩ : bits wd 6 0 = 11#7 ∧ bits wd 14 12 = 4#3 ∧ bits wd 31 25 = 0#7 ∧ bits wd 25 24 = 0#2 ∧ bits wd 23 23 = 1#1 ∧ bits wd 20 20 = vd.extractLsb' 5 1 ∧ bits wd 11 7 = vd.extractLsb' 0 5 ∧ bits wd 19 15 = rs1 ∧ (bits wd 22 22 == 1#1) = w ∧ (bits wd 21 21 == 1#1) = m := by
    subst hw
    simp (disch := decide) only [bits, lo1, hi1, lo3, hi3, lo5, hi5, lo7, hi7, lo9, hi9, slice_all, bit1_one, Nat.reduceSub, Nat.reduceAdd, BitVec.reduceExtractLsb', and_self]
  have j0 : (bits wd 20 20 ++ bits wd 11 7 : BitVec 6) = vd := by rw [h5, h6]; exact join_reg vd
  clear hw
  simp only [parseWord, decodeCustom0, decodeCustom0G4, h0, h1, h2, h3, h4, h7, h8, h9, j0, BitVec.reduceToNat, BitVec.toNat_ofNat, Nat.reducePow, Nat.reduceMod, BEq.rfl, show (0#1 == 1#1) = false from rfl, Bool.false_eq_true, if_false, Bool.and_self, if_true])

theorem vstFe (vd : VReg) (rs1 : XReg) (w : Bool) (m : Bool) : Statement (.vstFe vd rs1 w m) := of_parse _ (by
  rw [show encode (.vstFe vd rs1 w m) = 3#9 ++ (bit1 w) ++ (bit1 m) ++ (vd.extractLsb' 5 1) ++ rs1 ++ 4#3 ++ (vd.extractLsb' 0 5) ++ 11#7 from rfl]
  generalize hw : (3#9 ++ (bit1 w) ++ (bit1 m) ++ (vd.extractLsb' 5 1) ++ rs1 ++ 4#3 ++ (vd.extractLsb' 0 5) ++ 11#7 : BitVec 32) = wd
  obtain ⟨h0, h1, h2, h3, h4, h5, h6, h7, h8, h9⟩ : bits wd 6 0 = 11#7 ∧ bits wd 14 12 = 4#3 ∧ bits wd 31 25 = 0#7 ∧ bits wd 25 24 = 1#2 ∧ bits wd 23 23 = 1#1 ∧ bits wd 20 20 = vd.extractLsb' 5 1 ∧ bits wd 11 7 = vd.extractLsb' 0 5 ∧ bits wd 19 15 = rs1 ∧ (bits wd 22 22 == 1#1) = w ∧ (bits wd 21 21 == 1#1) = m := by
    subst hw
    simp (disch := decide) only [bits, lo1, hi1, lo3, hi3, lo5, hi5, lo7, hi7, lo9, hi9, slice_all, bit1_one, Nat.reduceSub, Nat.reduceAdd, BitVec.reduceExtractLsb', and_self]
  have j0 : (bits wd 20 20 ++ bits wd 11 7 : BitVec 6) = vd := by rw [h5, h6]; exact join_reg vd
  clear hw
  simp only [parseWord, decodeCustom0, decodeCustom0G4, h0, h1, h2, h3, h4, h7, h8, h9, j0, BitVec.reduceToNat, BitVec.toNat_ofNat, Nat.reducePow, Nat.reduceMod, BEq.rfl, show (0#1 == 1#1) = false from rfl, Bool.false_eq_true, if_false, Bool.and_self, if_true])

theorem vstNt (vd : VReg) (rs1 : XReg) (w : Bool) (m : Bool) : Statement (.vstNt vd rs1 w m) := of_parse _ (by
  rw [show encode (.vstNt vd rs1 w m) = 5#9 ++ (bit1 w) ++ (bit1 m) ++ (vd.extractLsb' 5 1) ++ rs1 ++ 4#3 ++ (vd.extractLsb' 0 5) ++ 11#7 from rfl]
  generalize hw : (5#9 ++ (bit1 w) ++ (bit1 m) ++ (vd.extractLsb' 5 1) ++ rs1 ++ 4#3 ++ (vd.extractLsb' 0 5) ++ 11#7 : BitVec 32) = wd
  obtain ⟨h0, h1, h2, h3, h4, h5, h6, h7, h8, h9⟩ : bits wd 6 0 = 11#7 ∧ bits wd 14 12 = 4#3 ∧ bits wd 31 25 = 1#7 ∧ bits wd 25 24 = 2#2 ∧ bits wd 23 23 = 1#1 ∧ bits wd 20 20 = vd.extractLsb' 5 1 ∧ bits wd 11 7 = vd.extractLsb' 0 5 ∧ bits wd 19 15 = rs1 ∧ (bits wd 22 22 == 1#1) = w ∧ (bits wd 21 21 == 1#1) = m := by
    subst hw
    simp (disch := decide) only [bits, lo1, hi1, lo3, hi3, lo5, hi5, lo7, hi7, lo9, hi9, slice_all, bit1_one, Nat.reduceSub, Nat.reduceAdd, BitVec.reduceExtractLsb', and_self]
  have j0 : (bits wd 20 20 ++ bits wd 11 7 : BitVec 6) = vd := by rw [h5, h6]; exact join_reg vd
  clear hw
  simp only [parseWord, decodeCustom0, decodeCustom0G4, h0, h1, h2, h3, h4, h7, h8, h9, j0, BitVec.reduceToNat, BitVec.toNat_ofNat, Nat.reducePow, Nat.reduceMod, BEq.rfl, show (0#1 == 1#1) = false from rfl, Bool.false_eq_true, if_false, Bool.and_self, if_true])

theorem vstSc (vd : VReg) (rs1 : XReg) (w : Bool) (m : Bool) : Statement (.vstSc vd rs1 w m) := of_parse _ (by
  rw [show encode (.vstSc vd rs1 w m) = 7#9 ++ (bit1 w) ++ (bit1 m) ++ (vd.extractLsb' 5 1) ++ rs1 ++ 4#3 ++ (vd.extractLsb' 0 5) ++ 11#7 from rfl]
  generalize hw : (7#9 ++ (bit1 w) ++ (bit1 m) ++ (vd.extractLsb' 5 1) ++ rs1 ++ 4#3 ++ (vd.extractLsb' 0 5) ++ 11#7 : BitVec 32) = wd
  obtain ⟨h0, h1, h2, h3, h4, h5, h6, h7, h8, h9⟩ : bits wd 6 0 = 11#7 ∧ bits wd 14 12 = 4#3 ∧ bits wd 31 25 = 1#7 ∧ bits wd 25 24 = 3#2 ∧ bits wd 23 23 = 1#1 ∧ bits wd 20 20 = vd.extractLsb' 5 1 ∧ bits wd 11 7 = vd.extractLsb' 0 5 ∧ bits wd 19 15 = rs1 ∧ (bits wd 22 22 == 1#1) = w ∧ (bits wd 21 21 == 1#1) = m := by
    subst hw
    simp (disch := decide) only [bits, lo1, hi1, lo3, hi3, lo5, hi5, lo7, hi7, lo9, hi9, slice_all, bit1_one, Nat.reduceSub, Nat.reduceAdd, BitVec.reduceExtractLsb', and_self]
  have j0 : (bits wd 20 20 ++ bits wd 11 7 : BitVec 6) = vd := by rw [h5, h6]; exact join_reg vd
  clear hw
  simp only [parseWord, decodeCustom0, decodeCustom0G4, h0, h1, h2, h3, h4, h7, h8, h9, j0, BitVec.reduceToNat, BitVec.toNat_ofNat, Nat.reducePow, Nat.reduceMod, BEq.rfl, show (0#1 == 1#1) = false from rfl, Bool.false_eq_true, if_false, Bool.and_self, if_true])

theorem vlds (vd : VReg) (rs1 : XReg) (rs2 : XReg) (w : Bool) (m : Bool) : Statement (.vlds vd rs1 rs2 w m) := of_parse _ (by
  rw [show encode (.vlds vd rs1 rs2 w m) = 0#3 ++ (bit1 w) ++ (bit1 m) ++ (vd.extractLsb' 5 1) ++ 0#1 ++ rs2 ++ rs1 ++ 5#3 ++ (vd.extractLsb' 0 5) ++ 11#7 from rfl]
  generalize hw : (0#3 ++ (bit1 w) ++ (bit1 m) ++ (vd.extractLsb' 5 1) ++ 0#1 ++ rs2 ++ rs1 ++ 5#3 ++ (vd.extractLsb' 0 5) ++ 11#7 : BitVec 32) = wd
  obtain ⟨h0, h1, h2, h3, h4, h5, h6, h7, h8, h9⟩ : bits wd 6 0 = 11#7 ∧ bits wd 14 12 = 5#3 ∧ bits wd 31 29 = 0#3 ∧ bits wd 25 25 = 0#1 ∧ bits wd 26 26 = vd.extractLsb' 5 1 ∧ bits wd 11 7 = vd.extractLsb' 0 5 ∧ bits wd 19 15 = rs1 ∧ bits wd 24 20 = rs2 ∧ (bits wd 28 28 == 1#1) = w ∧ (bits wd 27 27 == 1#1) = m := by
    subst hw
    simp (disch := decide) only [bits, lo1, hi1, lo3, hi3, lo5, hi5, lo7, hi7, slice_all, bit1_one, Nat.reduceSub, Nat.reduceAdd, BitVec.reduceExtractLsb', and_self]
  have j0 : (bits wd 26 26 ++ bits wd 11 7 : BitVec 6) = vd := by rw [h4, h5]; exact join_reg vd
  clear hw
  simp only [parseWord, decodeCustom0, decodeCustom0G5, h0, h1, h2, h3, h6, h7, h8, h9, j0, BitVec.reduceToNat, BitVec.toNat_ofNat, Nat.reducePow, Nat.reduceMod, BEq.rfl, show (0#1 == 1#1) = false from rfl, Bool.false_eq_true, if_false, Bool.and_self, if_true])

theorem vldsFe (vd : VReg) (rs1 : XReg) (rs2 : XReg) (w : Bool) (m : Bool) : Statement (.vldsFe vd rs1 rs2 w m) := of_parse _ (by
  rw [show encode (.vldsFe vd rs1 rs2 w m) = 4#3 ++ (bit1 w) ++ (bit1 m) ++ (vd.extractLsb' 5 1) ++ 0#1 ++ rs2 ++ rs1 ++ 5#3 ++ (vd.extractLsb' 0 5) ++ 11#7 from rfl]
  generalize hw : (4#3 ++ (bit1 w) ++ (bit1 m) ++ (vd.extractLsb' 5 1) ++ 0#1 ++ rs2 ++ rs1 ++ 5#3 ++ (vd.extractLsb' 0 5) ++ 11#7 : BitVec 32) = wd
  obtain ⟨h0, h1, h2, h3, h4, h5, h6, h7, h8, h9⟩ : bits wd 6 0 = 11#7 ∧ bits wd 14 12 = 5#3 ∧ bits wd 31 29 = 4#3 ∧ bits wd 25 25 = 0#1 ∧ bits wd 26 26 = vd.extractLsb' 5 1 ∧ bits wd 11 7 = vd.extractLsb' 0 5 ∧ bits wd 19 15 = rs1 ∧ bits wd 24 20 = rs2 ∧ (bits wd 28 28 == 1#1) = w ∧ (bits wd 27 27 == 1#1) = m := by
    subst hw
    simp (disch := decide) only [bits, lo1, hi1, lo3, hi3, lo5, hi5, lo7, hi7, slice_all, bit1_one, Nat.reduceSub, Nat.reduceAdd, BitVec.reduceExtractLsb', and_self]
  have j0 : (bits wd 26 26 ++ bits wd 11 7 : BitVec 6) = vd := by rw [h4, h5]; exact join_reg vd
  clear hw
  simp only [parseWord, decodeCustom0, decodeCustom0G5, h0, h1, h2, h3, h6, h7, h8, h9, j0, BitVec.reduceToNat, BitVec.toNat_ofNat, Nat.reducePow, Nat.reduceMod, BEq.rfl, show (0#1 == 1#1) = false from rfl, Bool.false_eq_true, if_false, Bool.and_self, if_true])

theorem vsts (vd : VReg) (rs1 : XReg) (rs2 : XReg) (w : Bool) (m : Bool) : Statement (.vsts vd rs1 rs2 w m) := of_parse _ (by
  rw [show encode (.vsts vd rs1 rs2 w m) = 1#3 ++ (bit1 w) ++ (bit1 m) ++ (vd.extractLsb' 5 1) ++ 0#1 ++ rs2 ++ rs1 ++ 5#3 ++ (vd.extractLsb' 0 5) ++ 11#7 from rfl]
  generalize hw : (1#3 ++ (bit1 w) ++ (bit1 m) ++ (vd.extractLsb' 5 1) ++ 0#1 ++ rs2 ++ rs1 ++ 5#3 ++ (vd.extractLsb' 0 5) ++ 11#7 : BitVec 32) = wd
  obtain ⟨h0, h1, h2, h3, h4, h5, h6, h7, h8, h9⟩ : bits wd 6 0 = 11#7 ∧ bits wd 14 12 = 5#3 ∧ bits wd 31 29 = 1#3 ∧ bits wd 25 25 = 0#1 ∧ bits wd 26 26 = vd.extractLsb' 5 1 ∧ bits wd 11 7 = vd.extractLsb' 0 5 ∧ bits wd 19 15 = rs1 ∧ bits wd 24 20 = rs2 ∧ (bits wd 28 28 == 1#1) = w ∧ (bits wd 27 27 == 1#1) = m := by
    subst hw
    simp (disch := decide) only [bits, lo1, hi1, lo3, hi3, lo5, hi5, lo7, hi7, slice_all, bit1_one, Nat.reduceSub, Nat.reduceAdd, BitVec.reduceExtractLsb', and_self]
  have j0 : (bits wd 26 26 ++ bits wd 11 7 : BitVec 6) = vd := by rw [h4, h5]; exact join_reg vd
  clear hw
  simp only [parseWord, decodeCustom0, decodeCustom0G5, h0, h1, h2, h3, h6, h7, h8, h9, j0, BitVec.reduceToNat, BitVec.toNat_ofNat, Nat.reducePow, Nat.reduceMod, BEq.rfl, show (0#1 == 1#1) = false from rfl, Bool.false_eq_true, if_false, Bool.and_self, if_true])

theorem vstsFe (vd : VReg) (rs1 : XReg) (rs2 : XReg) (w : Bool) (m : Bool) : Statement (.vstsFe vd rs1 rs2 w m) := of_parse _ (by
  rw [show encode (.vstsFe vd rs1 rs2 w m) = 5#3 ++ (bit1 w) ++ (bit1 m) ++ (vd.extractLsb' 5 1) ++ 0#1 ++ rs2 ++ rs1 ++ 5#3 ++ (vd.extractLsb' 0 5) ++ 11#7 from rfl]
  generalize hw : (5#3 ++ (bit1 w) ++ (bit1 m) ++ (vd.extractLsb' 5 1) ++ 0#1 ++ rs2 ++ rs1 ++ 5#3 ++ (vd.extractLsb' 0 5) ++ 11#7 : BitVec 32) = wd
  obtain ⟨h0, h1, h2, h3, h4, h5, h6, h7, h8, h9⟩ : bits wd 6 0 = 11#7 ∧ bits wd 14 12 = 5#3 ∧ bits wd 31 29 = 5#3 ∧ bits wd 25 25 = 0#1 ∧ bits wd 26 26 = vd.extractLsb' 5 1 ∧ bits wd 11 7 = vd.extractLsb' 0 5 ∧ bits wd 19 15 = rs1 ∧ bits wd 24 20 = rs2 ∧ (bits wd 28 28 == 1#1) = w ∧ (bits wd 27 27 == 1#1) = m := by
    subst hw
    simp (disch := decide) only [bits, lo1, hi1, lo3, hi3, lo5, hi5, lo7, hi7, slice_all, bit1_one, Nat.reduceSub, Nat.reduceAdd, BitVec.reduceExtractLsb', and_self]
  have j0 : (bits wd 26 26 ++ bits wd 11 7 : BitVec 6) = vd := by rw [h4, h5]; exact join_reg vd
  clear hw
  simp only [parseWord, decodeCustom0, decodeCustom0G5, h0, h1, h2, h3, h6, h7, h8, h9, j0, BitVec.reduceToNat, BitVec.toNat_ofNat, Nat.reducePow, Nat.reduceMod, BEq.rfl, show (0#1 == 1#1) = false from rfl, Bool.false_eq_true, if_false, Bool.and_self, if_true])

theorem vldx (vd : VReg) (rs1 : XReg) (vs2 : VReg) (w : Bool) (m : Bool) : Statement (.vldx vd rs1 vs2 w m) := of_parse _ (by
  rw [show encode (.vldx vd rs1 vs2 w m) = 2#3 ++ (bit1 w) ++ (bit1 m) ++ (vd.extractLsb' 5 1) ++ vs2 ++ rs1 ++ 5#3 ++ (vd.extractLsb' 0 5) ++ 11#7 from rfl]
  generalize hw : (2#3 ++ (bit1 w) ++ (bit1 m) ++ (vd.extractLsb' 5 1) ++ vs2 ++ rs1 ++ 5#3 ++ (vd.extractLsb' 0 5) ++ 11#7 : BitVec 32) = wd
  obtain ⟨h0, h1, h2, h3, h4, h5, h6, h7, h8⟩ : bits wd 6 0 = 11#7 ∧ bits wd 14 12 = 5#3 ∧ bits wd 31 29 = 2#3 ∧ bits wd 26 26 = vd.extractLsb' 5 1 ∧ bits wd 11 7 = vd.extractLsb' 0 5 ∧ bits wd 19 15 = rs1 ∧ bits wd 25 20 = vs2 ∧ (bits wd 28 28 == 1#1) = w ∧ (bits wd 27 27 == 1#1) = m := by
    subst hw
    simp (disch := decide) only [bits, lo1, hi1, lo3, hi3, lo5, hi5, lo6, hi6, lo7, hi7, slice_all, bit1_one, Nat.reduceSub, Nat.reduceAdd, BitVec.reduceExtractLsb', and_self]
  have j0 : (bits wd 26 26 ++ bits wd 11 7 : BitVec 6) = vd := by rw [h3, h4]; exact join_reg vd
  clear hw
  simp only [parseWord, decodeCustom0, decodeCustom0G5, h0, h1, h2, h5, h6, h7, h8, j0, BitVec.reduceToNat, BitVec.toNat_ofNat, Nat.reducePow, Nat.reduceMod, BEq.rfl, show (0#1 == 1#1) = false from rfl, Bool.false_eq_true, if_false, Bool.and_self, if_true])

theorem vldxFe (vd : VReg) (rs1 : XReg) (vs2 : VReg) (w : Bool) (m : Bool) : Statement (.vldxFe vd rs1 vs2 w m) := of_parse _ (by
  rw [show encode (.vldxFe vd rs1 vs2 w m) = 6#3 ++ (bit1 w) ++ (bit1 m) ++ (vd.extractLsb' 5 1) ++ vs2 ++ rs1 ++ 5#3 ++ (vd.extractLsb' 0 5) ++ 11#7 from rfl]
  generalize hw : (6#3 ++ (bit1 w) ++ (bit1 m) ++ (vd.extractLsb' 5 1) ++ vs2 ++ rs1 ++ 5#3 ++ (vd.extractLsb' 0 5) ++ 11#7 : BitVec 32) = wd
  obtain ⟨h0, h1, h2, h3, h4, h5, h6, h7, h8⟩ : bits wd 6 0 = 11#7 ∧ bits wd 14 12 = 5#3 ∧ bits wd 31 29 = 6#3 ∧ bits wd 26 26 = vd.extractLsb' 5 1 ∧ bits wd 11 7 = vd.extractLsb' 0 5 ∧ bits wd 19 15 = rs1 ∧ bits wd 25 20 = vs2 ∧ (bits wd 28 28 == 1#1) = w ∧ (bits wd 27 27 == 1#1) = m := by
    subst hw
    simp (disch := decide) only [bits, lo1, hi1, lo3, hi3, lo5, hi5, lo6, hi6, lo7, hi7, slice_all, bit1_one, Nat.reduceSub, Nat.reduceAdd, BitVec.reduceExtractLsb', and_self]
  have j0 : (bits wd 26 26 ++ bits wd 11 7 : BitVec 6) = vd := by rw [h3, h4]; exact join_reg vd
  clear hw
  simp only [parseWord, decodeCustom0, decodeCustom0G5, h0, h1, h2, h5, h6, h7, h8, j0, BitVec.reduceToNat, BitVec.toNat_ofNat, Nat.reducePow, Nat.reduceMod, BEq.rfl, show (0#1 == 1#1) = false from rfl, Bool.false_eq_true, if_false, Bool.and_self, if_true])

theorem vstx (vd : VReg) (rs1 : XReg) (vs2 : VReg) (w : Bool) (m : Bool) : Statement (.vstx vd rs1 vs2 w m) := of_parse _ (by
  rw [show encode (.vstx vd rs1 vs2 w m) = 3#3 ++ (bit1 w) ++ (bit1 m) ++ (vd.extractLsb' 5 1) ++ vs2 ++ rs1 ++ 5#3 ++ (vd.extractLsb' 0 5) ++ 11#7 from rfl]
  generalize hw : (3#3 ++ (bit1 w) ++ (bit1 m) ++ (vd.extractLsb' 5 1) ++ vs2 ++ rs1 ++ 5#3 ++ (vd.extractLsb' 0 5) ++ 11#7 : BitVec 32) = wd
  obtain ⟨h0, h1, h2, h3, h4, h5, h6, h7, h8⟩ : bits wd 6 0 = 11#7 ∧ bits wd 14 12 = 5#3 ∧ bits wd 31 29 = 3#3 ∧ bits wd 26 26 = vd.extractLsb' 5 1 ∧ bits wd 11 7 = vd.extractLsb' 0 5 ∧ bits wd 19 15 = rs1 ∧ bits wd 25 20 = vs2 ∧ (bits wd 28 28 == 1#1) = w ∧ (bits wd 27 27 == 1#1) = m := by
    subst hw
    simp (disch := decide) only [bits, lo1, hi1, lo3, hi3, lo5, hi5, lo6, hi6, lo7, hi7, slice_all, bit1_one, Nat.reduceSub, Nat.reduceAdd, BitVec.reduceExtractLsb', and_self]
  have j0 : (bits wd 26 26 ++ bits wd 11 7 : BitVec 6) = vd := by rw [h3, h4]; exact join_reg vd
  clear hw
  simp only [parseWord, decodeCustom0, decodeCustom0G5, h0, h1, h2, h5, h6, h7, h8, j0, BitVec.reduceToNat, BitVec.toNat_ofNat, Nat.reducePow, Nat.reduceMod, BEq.rfl, show (0#1 == 1#1) = false from rfl, Bool.false_eq_true, if_false, Bool.and_self, if_true])

theorem vstxFe (vd : VReg) (rs1 : XReg) (vs2 : VReg) (w : Bool) (m : Bool) : Statement (.vstxFe vd rs1 vs2 w m) := of_parse _ (by
  rw [show encode (.vstxFe vd rs1 vs2 w m) = 7#3 ++ (bit1 w) ++ (bit1 m) ++ (vd.extractLsb' 5 1) ++ vs2 ++ rs1 ++ 5#3 ++ (vd.extractLsb' 0 5) ++ 11#7 from rfl]
  generalize hw : (7#3 ++ (bit1 w) ++ (bit1 m) ++ (vd.extractLsb' 5 1) ++ vs2 ++ rs1 ++ 5#3 ++ (vd.extractLsb' 0 5) ++ 11#7 : BitVec 32) = wd
  obtain ⟨h0, h1, h2, h3, h4, h5, h6, h7, h8⟩ : bits wd 6 0 = 11#7 ∧ bits wd 14 12 = 5#3 ∧ bits wd 31 29 = 7#3 ∧ bits wd 26 26 = vd.extractLsb' 5 1 ∧ bits wd 11 7 = vd.extractLsb' 0 5 ∧ bits wd 19 15 = rs1 ∧ bits wd 25 20 = vs2 ∧ (bits wd 28 28 == 1#1) = w ∧ (bits wd 27 27 == 1#1) = m := by
    subst hw
    simp (disch := decide) only [bits, lo1, hi1, lo3, hi3, lo5, hi5, lo6, hi6, lo7, hi7, slice_all, bit1_one, Nat.reduceSub, Nat.reduceAdd, BitVec.reduceExtractLsb', and_self]
  have j0 : (bits wd 26 26 ++ bits wd 11 7 : BitVec 6) = vd := by rw [h3, h4]; exact join_reg vd
  clear hw
  simp only [parseWord, decodeCustom0, decodeCustom0G5, h0, h1, h2, h5, h6, h7, h8, j0, BitVec.reduceToNat, BitVec.toNat_ofNat, Nat.reducePow, Nat.reduceMod, BEq.rfl, show (0#1 == 1#1) = false from rfl, Bool.false_eq_true, if_false, Bool.and_self, if_true])

theorem vbadd (vd : VReg) (vs2 : VReg) (rs1 : XReg) (w : Bool) (m : Bool) : Statement (.vbadd vd vs2 rs1 w m) := of_parse _ (by
  rw [show encode (.vbadd vd vs2 rs1 w m) = 0#3 ++ (bit1 w) ++ (bit1 m) ++ (vd.extractLsb' 5 1) ++ vs2 ++ rs1 ++ 7#3 ++ (vd.extractLsb' 0 5) ++ 11#7 from rfl]
  generalize hw : (0#3 ++ (bit1 w) ++ (bit1 m) ++ (vd.extractLsb' 5 1) ++ vs2 ++ rs1 ++ 7#3 ++ (vd.extractLsb' 0 5) ++ 11#7 : BitVec 32) = wd
  obtain ⟨h0, h1, h2, h3, h4, h5, h6, h7, h8⟩ : bits wd 6 0 = 11#7 ∧ bits wd 14 12 = 7#3 ∧ bits wd 31 29 = 0#3 ∧ bits wd 26 26 = vd.extractLsb' 5 1 ∧ bits wd 11 7 = vd.extractLsb' 0 5 ∧ bits wd 25 20 = vs2 ∧ bits wd 19 15 = rs1 ∧ (bits wd 28 28 == 1#1) = w ∧ (bits wd 27 27 == 1#1) = m := by
    subst hw
    simp (disch := decide) only [bits, lo1, hi1, lo3, hi3, lo5, hi5, lo6, hi6, lo7, hi7, slice_all, bit1_one, Nat.reduceSub, Nat.reduceAdd, BitVec.reduceExtractLsb', and_self]
  have j0 : (bits wd 26 26 ++ bits wd 11 7 : BitVec 6) = vd := by rw [h3, h4]; exact join_reg vd
  clear hw
  simp only [parseWord, decodeCustom0, decodeCustom0G7, h0, h1, h2, h5, h6, h7, h8, j0, BitVec.reduceToNat, BitVec.toNat_ofNat, Nat.reducePow, Nat.reduceMod, BEq.rfl, show (0#1 == 1#1) = false from rfl, Bool.false_eq_true, if_false, Bool.and_self, if_true])

theorem vbfadd (vd : VReg) (vs2 : VReg) (rs1 : XReg) (w : Bool) (m : Bool) : Statement (.vbfadd vd vs2 rs1 w m) := of_parse _ (by
  rw [show encode (.vbfadd vd vs2 rs1 w m) = 1#3 ++ (bit1 w) ++ (bit1 m) ++ (vd.extractLsb' 5 1) ++ vs2 ++ rs1 ++ 7#3 ++ (vd.extractLsb' 0 5) ++ 11#7 from rfl]
  generalize hw : (1#3 ++ (bit1 w) ++ (bit1 m) ++ (vd.extractLsb' 5 1) ++ vs2 ++ rs1 ++ 7#3 ++ (vd.extractLsb' 0 5) ++ 11#7 : BitVec 32) = wd
  obtain ⟨h0, h1, h2, h3, h4, h5, h6, h7, h8⟩ : bits wd 6 0 = 11#7 ∧ bits wd 14 12 = 7#3 ∧ bits wd 31 29 = 1#3 ∧ bits wd 26 26 = vd.extractLsb' 5 1 ∧ bits wd 11 7 = vd.extractLsb' 0 5 ∧ bits wd 25 20 = vs2 ∧ bits wd 19 15 = rs1 ∧ (bits wd 28 28 == 1#1) = w ∧ (bits wd 27 27 == 1#1) = m := by
    subst hw
    simp (disch := decide) only [bits, lo1, hi1, lo3, hi3, lo5, hi5, lo6, hi6, lo7, hi7, slice_all, bit1_one, Nat.reduceSub, Nat.reduceAdd, BitVec.reduceExtractLsb', and_self]
  have j0 : (bits wd 26 26 ++ bits wd 11 7 : BitVec 6) = vd := by rw [h3, h4]; exact join_reg vd
  clear hw
  simp only [parseWord, decodeCustom0, decodeCustom0G7, h0, h1, h2, h5, h6, h7, h8, j0, BitVec.reduceToNat, BitVec.toNat_ofNat, Nat.reducePow, Nat.reduceMod, BEq.rfl, show (0#1 == 1#1) = false from rfl, Bool.false_eq_true, if_false, Bool.and_self, if_true])

theorem vbfmax (vd : VReg) (vs2 : VReg) (rs1 : XReg) (w : Bool) (m : Bool) : Statement (.vbfmax vd vs2 rs1 w m) := of_parse _ (by
  rw [show encode (.vbfmax vd vs2 rs1 w m) = 2#3 ++ (bit1 w) ++ (bit1 m) ++ (vd.extractLsb' 5 1) ++ vs2 ++ rs1 ++ 7#3 ++ (vd.extractLsb' 0 5) ++ 11#7 from rfl]
  generalize hw : (2#3 ++ (bit1 w) ++ (bit1 m) ++ (vd.extractLsb' 5 1) ++ vs2 ++ rs1 ++ 7#3 ++ (vd.extractLsb' 0 5) ++ 11#7 : BitVec 32) = wd
  obtain ⟨h0, h1, h2, h3, h4, h5, h6, h7, h8⟩ : bits wd 6 0 = 11#7 ∧ bits wd 14 12 = 7#3 ∧ bits wd 31 29 = 2#3 ∧ bits wd 26 26 = vd.extractLsb' 5 1 ∧ bits wd 11 7 = vd.extractLsb' 0 5 ∧ bits wd 25 20 = vs2 ∧ bits wd 19 15 = rs1 ∧ (bits wd 28 28 == 1#1) = w ∧ (bits wd 27 27 == 1#1) = m := by
    subst hw
    simp (disch := decide) only [bits, lo1, hi1, lo3, hi3, lo5, hi5, lo6, hi6, lo7, hi7, slice_all, bit1_one, Nat.reduceSub, Nat.reduceAdd, BitVec.reduceExtractLsb', and_self]
  have j0 : (bits wd 26 26 ++ bits wd 11 7 : BitVec 6) = vd := by rw [h3, h4]; exact join_reg vd
  clear hw
  simp only [parseWord, decodeCustom0, decodeCustom0G7, h0, h1, h2, h5, h6, h7, h8, j0, BitVec.reduceToNat, BitVec.toNat_ofNat, Nat.reducePow, Nat.reduceMod, BEq.rfl, show (0#1 == 1#1) = false from rfl, Bool.false_eq_true, if_false, Bool.and_self, if_true])

theorem vbor (vd : VReg) (vs2 : VReg) (rs1 : XReg) (w : Bool) (m : Bool) : Statement (.vbor vd vs2 rs1 w m) := of_parse _ (by
  rw [show encode (.vbor vd vs2 rs1 w m) = 3#3 ++ (bit1 w) ++ (bit1 m) ++ (vd.extractLsb' 5 1) ++ vs2 ++ rs1 ++ 7#3 ++ (vd.extractLsb' 0 5) ++ 11#7 from rfl]
  generalize hw : (3#3 ++ (bit1 w) ++ (bit1 m) ++ (vd.extractLsb' 5 1) ++ vs2 ++ rs1 ++ 7#3 ++ (vd.extractLsb' 0 5) ++ 11#7 : BitVec 32) = wd
  obtain ⟨h0, h1, h2, h3, h4, h5, h6, h7, h8⟩ : bits wd 6 0 = 11#7 ∧ bits wd 14 12 = 7#3 ∧ bits wd 31 29 = 3#3 ∧ bits wd 26 26 = vd.extractLsb' 5 1 ∧ bits wd 11 7 = vd.extractLsb' 0 5 ∧ bits wd 25 20 = vs2 ∧ bits wd 19 15 = rs1 ∧ (bits wd 28 28 == 1#1) = w ∧ (bits wd 27 27 == 1#1) = m := by
    subst hw
    simp (disch := decide) only [bits, lo1, hi1, lo3, hi3, lo5, hi5, lo6, hi6, lo7, hi7, slice_all, bit1_one, Nat.reduceSub, Nat.reduceAdd, BitVec.reduceExtractLsb', and_self]
  have j0 : (bits wd 26 26 ++ bits wd 11 7 : BitVec 6) = vd := by rw [h3, h4]; exact join_reg vd
  clear hw
  simp only [parseWord, decodeCustom0, decodeCustom0G7, h0, h1, h2, h5, h6, h7, h8, j0, BitVec.reduceToNat, BitVec.toNat_ofNat, Nat.reducePow, Nat.reduceMod, BEq.rfl, show (0#1 == 1#1) = false from rfl, Bool.false_eq_true, if_false, Bool.and_self, if_true])

theorem vlock (vd : VReg) (vs2 : VReg) (rs1 : XReg) (w : Bool) (m : Bool) : Statement (.vlock vd vs2 rs1 w m) := of_parse _ (by
  rw [show encode (.vlock vd vs2 rs1 w m) = 4#3 ++ (bit1 w) ++ (bit1 m) ++ (vd.extractLsb' 5 1) ++ vs2 ++ rs1 ++ 7#3 ++ (vd.extractLsb' 0 5) ++ 11#7 from rfl]
  generalize hw : (4#3 ++ (bit1 w) ++ (bit1 m) ++ (vd.extractLsb' 5 1) ++ vs2 ++ rs1 ++ 7#3 ++ (vd.extractLsb' 0 5) ++ 11#7 : BitVec 32) = wd
  obtain ⟨h0, h1, h2, h3, h4, h5, h6, h7, h8⟩ : bits wd 6 0 = 11#7 ∧ bits wd 14 12 = 7#3 ∧ bits wd 31 29 = 4#3 ∧ bits wd 26 26 = vd.extractLsb' 5 1 ∧ bits wd 11 7 = vd.extractLsb' 0 5 ∧ bits wd 25 20 = vs2 ∧ bits wd 19 15 = rs1 ∧ (bits wd 28 28 == 1#1) = w ∧ (bits wd 27 27 == 1#1) = m := by
    subst hw
    simp (disch := decide) only [bits, lo1, hi1, lo3, hi3, lo5, hi5, lo6, hi6, lo7, hi7, slice_all, bit1_one, Nat.reduceSub, Nat.reduceAdd, BitVec.reduceExtractLsb', and_self]
  have j0 : (bits wd 26 26 ++ bits wd 11 7 : BitVec 6) = vd := by rw [h3, h4]; exact join_reg vd
  clear hw
  simp only [parseWord, decodeCustom0, decodeCustom0G7, h0, h1, h2, h5, h6, h7, h8, j0, BitVec.reduceToNat, BitVec.toNat_ofNat, Nat.reducePow, Nat.reduceMod, BEq.rfl, show (0#1 == 1#1) = false from rfl, Bool.false_eq_true, if_false, Bool.and_self, if_true])

theorem vunlock (vd : VReg) (vs2 : VReg) (rs1 : XReg) (w : Bool) (m : Bool) : Statement (.vunlock vd vs2 rs1 w m) := of_parse _ (by
  rw [show encode (.vunlock vd vs2 rs1 w m) = 5#3 ++ (bit1 w) ++ (bit1 m) ++ (vd.extractLsb' 5 1) ++ vs2 ++ rs1 ++ 7#3 ++ (vd.extractLsb' 0 5) ++ 11#7 from rfl]
  generalize hw : (5#3 ++ (bit1 w) ++ (bit1 m) ++ (vd.extractLsb' 5 1) ++ vs2 ++ rs1 ++ 7#3 ++ (vd.extractLsb' 0 5) ++ 11#7 : BitVec 32) = wd
  obtain ⟨h0, h1, h2, h3, h4, h5, h6, h7, h8⟩ : bits wd 6 0 = 11#7 ∧ bits wd 14 12 = 7#3 ∧ bits wd 31 29 = 5#3 ∧ bits wd 26 26 = vd.extractLsb' 5 1 ∧ bits wd 11 7 = vd.extractLsb' 0 5 ∧ bits wd 25 20 = vs2 ∧ bits wd 19 15 = rs1 ∧ (bits wd 28 28 == 1#1) = w ∧ (bits wd 27 27 == 1#1) = m := by
    subst hw
    simp (disch := decide) only [bits, lo1, hi1, lo3, hi3, lo5, hi5, lo6, hi6, lo7, hi7, slice_all, bit1_one, Nat.reduceSub, Nat.reduceAdd, BitVec.reduceExtractLsb', and_self]
  have j0 : (bits wd 26 26 ++ bits wd 11 7 : BitVec 6) = vd := by rw [h3, h4]; exact join_reg vd
  clear hw
  simp only [parseWord, decodeCustom0, decodeCustom0G7, h0, h1, h2, h5, h6, h7, h8, j0, BitVec.reduceToNat, BitVec.toNat_ofNat, Nat.reducePow, Nat.reduceMod, BEq.rfl, show (0#1 == 1#1) = false from rfl, Bool.false_eq_true, if_false, Bool.and_self, if_true])

theorem vfabget (vd : VReg) (vs2 : VReg) (rs1 : XReg) (w : Bool) (m : Bool) : Statement (.vfabget vd vs2 rs1 w m) := of_parse _ (by
  rw [show encode (.vfabget vd vs2 rs1 w m) = 6#3 ++ (bit1 w) ++ (bit1 m) ++ (vd.extractLsb' 5 1) ++ vs2 ++ rs1 ++ 7#3 ++ (vd.extractLsb' 0 5) ++ 11#7 from rfl]
  generalize hw : (6#3 ++ (bit1 w) ++ (bit1 m) ++ (vd.extractLsb' 5 1) ++ vs2 ++ rs1 ++ 7#3 ++ (vd.extractLsb' 0 5) ++ 11#7 : BitVec 32) = wd
  obtain ⟨h0, h1, h2, h3, h4, h5, h6, h7, h8⟩ : bits wd 6 0 = 11#7 ∧ bits wd 14 12 = 7#3 ∧ bits wd 31 29 = 6#3 ∧ bits wd 26 26 = vd.extractLsb' 5 1 ∧ bits wd 11 7 = vd.extractLsb' 0 5 ∧ bits wd 25 20 = vs2 ∧ bits wd 19 15 = rs1 ∧ (bits wd 28 28 == 1#1) = w ∧ (bits wd 27 27 == 1#1) = m := by
    subst hw
    simp (disch := decide) only [bits, lo1, hi1, lo3, hi3, lo5, hi5, lo6, hi6, lo7, hi7, slice_all, bit1_one, Nat.reduceSub, Nat.reduceAdd, BitVec.reduceExtractLsb', and_self]
  have j0 : (bits wd 26 26 ++ bits wd 11 7 : BitVec 6) = vd := by rw [h3, h4]; exact join_reg vd
  clear hw
  simp only [parseWord, decodeCustom0, decodeCustom0G7, h0, h1, h2, h5, h6, h7, h8, j0, BitVec.reduceToNat, BitVec.toNat_ofNat, Nat.reducePow, Nat.reduceMod, BEq.rfl, show (0#1 == 1#1) = false from rfl, Bool.false_eq_true, if_false, Bool.and_self, if_true])

theorem vfabput (vd : VReg) (vs2 : VReg) (rs1 : XReg) (w : Bool) (m : Bool) : Statement (.vfabput vd vs2 rs1 w m) := of_parse _ (by
  rw [show encode (.vfabput vd vs2 rs1 w m) = 7#3 ++ (bit1 w) ++ (bit1 m) ++ (vd.extractLsb' 5 1) ++ vs2 ++ rs1 ++ 7#3 ++ (vd.extractLsb' 0 5) ++ 11#7 from rfl]
  generalize hw : (7#3 ++ (bit1 w) ++ (bit1 m) ++ (vd.extractLsb' 5 1) ++ vs2 ++ rs1 ++ 7#3 ++ (vd.extractLsb' 0 5) ++ 11#7 : BitVec 32) = wd
  obtain ⟨h0, h1, h2, h3, h4, h5, h6, h7, h8⟩ : bits wd 6 0 = 11#7 ∧ bits wd 14 12 = 7#3 ∧ bits wd 31 29 = 7#3 ∧ bits wd 26 26 = vd.extractLsb' 5 1 ∧ bits wd 11 7 = vd.extractLsb' 0 5 ∧ bits wd 25 20 = vs2 ∧ bits wd 19 15 = rs1 ∧ (bits wd 28 28 == 1#1) = w ∧ (bits wd 27 27 == 1#1) = m := by
    subst hw
    simp (disch := decide) only [bits, lo1, hi1, lo3, hi3, lo5, hi5, lo6, hi6, lo7, hi7, slice_all, bit1_one, Nat.reduceSub, Nat.reduceAdd, BitVec.reduceExtractLsb', and_self]
  have j0 : (bits wd 26 26 ++ bits wd 11 7 : BitVec 6) = vd := by rw [h3, h4]; exact join_reg vd
  clear hw
  simp only [parseWord, decodeCustom0, decodeCustom0G7, h0, h1, h2, h5, h6, h7, h8, j0, BitVec.reduceToNat, BitVec.toNat_ofNat, Nat.reducePow, Nat.reduceMod, BEq.rfl, show (0#1 == 1#1) = false from rfl, Bool.false_eq_true, if_false, Bool.and_self, if_true])

theorem join : Statement .join := of_parse _ rfl

theorem nend : Statement .nend := of_parse _ rfl

theorem meet (k : BitVec 5) : Statement (.meet k) := of_parse _ (by
  rw [show encode (.meet k) = 256#12 ++ k ++ 11#15 from rfl]
  generalize hw : (256#12 ++ k ++ 11#15 : BitVec 32) = wd
  obtain ⟨h0, h1, h2, h3, h4, h5, h6, h7, h8, h9, h10, h11⟩ : bits wd 6 0 = 11#7 ∧ bits wd 14 12 = 0#3 ∧ bits wd 31 27 = 2#5 ∧ bits wd 11 7 = 0#5 ∧ bits wd 26 20 = 0#7 ∧ bits wd 11 11 = 0#1 ∧ bits wd 10 7 = 0#4 ∧ bits wd 26 25 = 0#2 ∧ bits wd 24 20 = 0#5 ∧ bits wd 26 26 = 0#1 ∧ bits wd 25 25 = 0#1 ∧ bits wd 19 15 = k := by
    subst hw
    simp (disch := decide) only [bits, lo5, hi5, lo12, hi12, lo15, hi15, slice_all, bit1_one, Nat.reduceSub, Nat.reduceAdd, BitVec.reduceExtractLsb', and_self]
  clear hw
  simp only [parseWord, decodeCustom0, decodeCustom0G0, h0, h1, h2, h3, h4, h5, h6, h7, h8, h9, h10, h11, BitVec.reduceToNat, BitVec.toNat_ofNat, Nat.reducePow, Nat.reduceMod, BEq.rfl, show (0#1 == 1#1) = false from rfl, Bool.false_eq_true, if_false, Bool.and_self, if_true])

theorem yield : Statement .yield := of_parse _ rfl

theorem bfree (bd : BReg) : Statement (.bfree bd) := of_parse _ (by
  rw [show encode (.bfree bd) = 262144#21 ++ bd ++ 11#7 from rfl]
  generalize hw : (262144#21 ++ bd ++ 11#7 : BitVec 32) = wd
  obtain ⟨h0, h1, h2, h3, h4, h5, h6, h7, h8, h9, h10, h11, h12, h13, h14⟩ : bits wd 6 0 = 11#7 ∧ bits wd 14 12 = 0#3 ∧ bits wd 31 27 = 4#5 ∧ bits wd 26 15 = 0#12 ∧ bits wd 26 20 = 0#7 ∧ bits wd 19 15 = 0#5 ∧ bits wd 11 11 = 0#1 ∧ bits wd 26 19 = 0#8 ∧ bits wd 18 15 = 0#4 ∧ bits wd 26 25 = 0#2 ∧ bits wd 24 20 = 0#5 ∧ bits wd 25 15 = 0#11 ∧ bits wd 26 26 = 0#1 ∧ bits wd 25 25 = 0#1 ∧ bits wd 10 7 = bd := by
    subst hw
    simp (disch := decide) only [bits, lo4, hi4, lo7, hi7, lo21, hi21, slice_all, bit1_one, Nat.reduceSub, Nat.reduceAdd, BitVec.reduceExtractLsb', and_self]
  clear hw
  simp only [parseWord, decodeCustom0, decodeCustom0G0, h0, h1, h2, h3, h4, h5, h6, h7, h8, h9, h10, h11, h12, h13, h14, BitVec.reduceToNat, BitVec.toNat_ofNat, Nat.reducePow, Nat.reduceMod, BEq.rfl, show (0#1 == 1#1) = false from rfl, Bool.false_eq_true, if_false, Bool.and_self, if_true])

theorem blim (rd : XReg) (bs : BReg) : Statement (.blim rd bs) := of_parse _ (by
  rw [show encode (.blim rd bs) = 1280#13 ++ bs ++ 0#3 ++ rd ++ 11#7 from rfl]
  generalize hw : (1280#13 ++ bs ++ 0#3 ++ rd ++ 11#7 : BitVec 32) = wd
  obtain ⟨h0, h1, h2, h3, h4, h5, h6, h7, h8, h9, h10⟩ : bits wd 6 0 = 11#7 ∧ bits wd 14 12 = 0#3 ∧ bits wd 31 27 = 5#5 ∧ bits wd 26 20 = 0#7 ∧ bits wd 26 19 = 0#8 ∧ bits wd 26 25 = 0#2 ∧ bits wd 24 20 = 0#5 ∧ bits wd 26 26 = 0#1 ∧ bits wd 25 25 = 0#1 ∧ bits wd 11 7 = rd ∧ bits wd 18 15 = bs := by
    subst hw
    simp (disch := decide) only [bits, lo3, hi3, lo4, hi4, lo5, hi5, lo7, hi7, lo13, hi13, slice_all, bit1_one, Nat.reduceSub, Nat.reduceAdd, BitVec.reduceExtractLsb', and_self]
  clear hw
  simp only [parseWord, decodeCustom0, decodeCustom0G0, h0, h1, h2, h3, h4, h5, h6, h7, h8, h9, h10, BitVec.reduceToNat, BitVec.toNat_ofNat, Nat.reducePow, Nat.reduceMod, BEq.rfl, show (0#1 == 1#1) = false from rfl, Bool.false_eq_true, if_false, Bool.and_self, if_true])

theorem bptr (rd : XReg) (bs : BReg) : Statement (.bptr rd bs) := of_parse _ (by
  rw [show encode (.bptr rd bs) = 1536#13 ++ bs ++ 0#3 ++ rd ++ 11#7 from rfl]
  generalize hw : (1536#13 ++ bs ++ 0#3 ++ rd ++ 11#7 : BitVec 32) = wd
  obtain ⟨h0, h1, h2, h3, h4, h5, h6, h7, h8, h9, h10⟩ : bits wd 6 0 = 11#7 ∧ bits wd 14 12 = 0#3 ∧ bits wd 31 27 = 6#5 ∧ bits wd 26 20 = 0#7 ∧ bits wd 26 19 = 0#8 ∧ bits wd 26 25 = 0#2 ∧ bits wd 24 20 = 0#5 ∧ bits wd 26 26 = 0#1 ∧ bits wd 25 25 = 0#1 ∧ bits wd 11 7 = rd ∧ bits wd 18 15 = bs := by
    subst hw
    simp (disch := decide) only [bits, lo3, hi3, lo4, hi4, lo5, hi5, lo7, hi7, lo13, hi13, slice_all, bit1_one, Nat.reduceSub, Nat.reduceAdd, BitVec.reduceExtractLsb', and_self]
  clear hw
  simp only [parseWord, decodeCustom0, decodeCustom0G0, h0, h1, h2, h3, h4, h5, h6, h7, h8, h9, h10, BitVec.reduceToNat, BitVec.toNat_ofNat, Nat.reducePow, Nat.reduceMod, BEq.rfl, show (0#1 == 1#1) = false from rfl, Bool.false_eq_true, if_false, Bool.and_self, if_true])

theorem feclr (cls : BitVec 5) (num : BitVec 5) : Statement (.feclr cls num) := of_parse _ (by
  rw [show encode (.feclr cls num) = 28#7 ++ cls ++ 0#8 ++ num ++ 11#7 from rfl]
  generalize hw : (28#7 ++ cls ++ 0#8 ++ num ++ 11#7 : BitVec 32) = wd
  obtain ⟨h0, h1, h2, h3, h4, h5, h6, h7, h8, h9⟩ : bits wd 6 0 = 11#7 ∧ bits wd 14 12 = 0#3 ∧ bits wd 31 27 = 7#5 ∧ bits wd 19 15 = 0#5 ∧ bits wd 18 15 = 0#4 ∧ bits wd 26 25 = 0#2 ∧ bits wd 26 26 = 0#1 ∧ bits wd 25 25 = 0#1 ∧ bits wd 24 20 = cls ∧ bits wd 11 7 = num := by
    subst hw
    simp (disch := decide) only [bits, lo5, hi5, lo7, hi7, lo8, hi8, slice_all, bit1_one, Nat.reduceSub, Nat.reduceAdd, BitVec.reduceExtractLsb', and_self]
  clear hw
  simp only [parseWord, decodeCustom0, decodeCustom0G0, h0, h1, h2, h3, h4, h5, h6, h7, h8, h9, BitVec.reduceToNat, BitVec.toNat_ofNat, Nat.reducePow, Nat.reduceMod, BEq.rfl, show (0#1 == 1#1) = false from rfl, Bool.false_eq_true, if_false, Bool.and_self, if_true])

theorem vfeclr (vd : VReg) : Statement (.vfeclr vd) := of_parse _ (by
  rw [show encode (.vfeclr vd) = 8#5 ++ (vd.extractLsb' 5 1) ++ 0#14 ++ (vd.extractLsb' 0 5) ++ 11#7 from rfl]
  generalize hw : (8#5 ++ (vd.extractLsb' 5 1) ++ 0#14 ++ (vd.extractLsb' 0 5) ++ 11#7 : BitVec 32) = wd
  obtain ⟨h0, h1, h2, h3, h4, h5, h6, h7, h8, h9⟩ : bits wd 6 0 = 11#7 ∧ bits wd 14 12 = 0#3 ∧ bits wd 31 27 = 8#5 ∧ bits wd 19 15 = 0#5 ∧ bits wd 18 15 = 0#4 ∧ bits wd 24 20 = 0#5 ∧ bits wd 25 15 = 0#11 ∧ bits wd 25 25 = 0#1 ∧ bits wd 26 26 = vd.extractLsb' 5 1 ∧ bits wd 11 7 = vd.extractLsb' 0 5 := by
    subst hw
    simp (disch := decide) only [bits, lo1, hi1, lo5, hi5, lo7, hi7, lo14, hi14, slice_all, bit1_one, Nat.reduceSub, Nat.reduceAdd, BitVec.reduceExtractLsb', and_self]
  have j0 : (bits wd 26 26 ++ bits wd 11 7 : BitVec 6) = vd := by rw [h8, h9]; exact join_reg vd
  clear hw
  simp only [parseWord, decodeCustom0, decodeCustom0G0, h0, h1, h2, h3, h4, h5, h6, h7, j0, BitVec.reduceToNat, BitVec.toNat_ofNat, Nat.reducePow, Nat.reduceMod, BEq.rfl, show (0#1 == 1#1) = false from rfl, Bool.false_eq_true, if_false, Bool.and_self, if_true])

theorem barInit (rs1 : XReg) (w1 : Bool) : Statement (.barInit rs1 w1) := of_parse _ (by
  rw [show encode (.barInit rs1 w1) = 18#6 ++ (bit1 w1) ++ 0#5 ++ rs1 ++ 11#15 from rfl]
  generalize hw : (18#6 ++ (bit1 w1) ++ 0#5 ++ rs1 ++ 11#15 : BitVec 32) = wd
  obtain ⟨h0, h1, h2, h3, h4, h5, h6, h7, h8, h9⟩ : bits wd 6 0 = 11#7 ∧ bits wd 14 12 = 0#3 ∧ bits wd 31 27 = 9#5 ∧ bits wd 11 7 = 0#5 ∧ bits wd 11 11 = 0#1 ∧ bits wd 10 7 = 0#4 ∧ bits wd 24 20 = 0#5 ∧ bits wd 26 26 = 0#1 ∧ bits wd 19 15 = rs1 ∧ (bits wd 25 25 == 1#1) = w1 := by
    subst hw
    simp (disch := decide) only [bits, lo1, hi1, lo5, hi5, lo6, hi6, lo15, hi15, slice_all, bit1_one, Nat.reduceSub, Nat.reduceAdd, BitVec.reduceExtractLsb', and_self]
  clear hw
  simp only [parseWord, decodeCustom0, decodeCustom0G0, h0, h1, h2, h3, h4, h5, h6, h7, h8, h9, BitVec.reduceToNat, BitVec.toNat_ofNat, Nat.reducePow, Nat.reduceMod, BEq.rfl, show (0#1 == 1#1) = false from rfl, Bool.false_eq_true, if_false, Bool.and_self, if_true])

theorem barExp (rs1 : XReg) (rs2 : XReg) (w1 : Bool) (w2 : Bool) : Statement (.barExp rs1 rs2 w1 w2) := of_parse _ (by
  rw [show encode (.barExp rs1 rs2 w1 w2) = 10#5 ++ (bit1 w2) ++ (bit1 w1) ++ rs2 ++ rs1 ++ 11#15 from rfl]
  generalize hw : (10#5 ++ (bit1 w2) ++ (bit1 w1) ++ rs2 ++ rs1 ++ 11#15 : BitVec 32) = wd
  obtain ⟨h0, h1, h2, h3, h4, h5, h6, h7, h8, h9⟩ : bits wd 6 0 = 11#7 ∧ bits wd 14 12 = 0#3 ∧ bits wd 31 27 = 10#5 ∧ bits wd 11 7 = 0#5 ∧ bits wd 11 11 = 0#1 ∧ bits wd 10 7 = 0#4 ∧ bits wd 19 15 = rs1 ∧ bits wd 24 20 = rs2 ∧ (bits wd 25 25 == 1#1) = w1 ∧ (bits wd 26 26 == 1#1) = w2 := by
    subst hw
    simp (disch := decide) only [bits, lo1, hi1, lo5, hi5, lo15, hi15, slice_all, bit1_one, Nat.reduceSub, Nat.reduceAdd, BitVec.reduceExtractLsb', and_self]
  clear hw
  simp only [parseWord, decodeCustom0, decodeCustom0G0, h0, h1, h2, h3, h4, h5, h6, h7, h8, h9, BitVec.reduceToNat, BitVec.toNat_ofNat, Nat.reducePow, Nat.reduceMod, BEq.rfl, show (0#1 == 1#1) = false from rfl, Bool.false_eq_true, if_false, Bool.and_self, if_true])

theorem barArr (rs1 : XReg) (rs2 : XReg) (scope : BitVec 5) (w1 : Bool) (w2 : Bool) : Statement (.barArr rs1 rs2 scope w1 w2) := of_parse _ (by
  rw [show encode (.barArr rs1 rs2 scope w1 w2) = 11#5 ++ (bit1 w2) ++ (bit1 w1) ++ rs2 ++ rs1 ++ 0#3 ++ scope ++ 11#7 from rfl]
  generalize hw : (11#5 ++ (bit1 w2) ++ (bit1 w1) ++ rs2 ++ rs1 ++ 0#3 ++ scope ++ 11#7 : BitVec 32) = wd
  obtain ⟨h0, h1, h2, h3, h4, h5, h6, h7⟩ : bits wd 6 0 = 11#7 ∧ bits wd 14 12 = 0#3 ∧ bits wd 31 27 = 11#5 ∧ bits wd 19 15 = rs1 ∧ bits wd 24 20 = rs2 ∧ bits wd 11 7 = scope ∧ (bits wd 25 25 == 1#1) = w1 ∧ (bits wd 26 26 == 1#1) = w2 := by
    subst hw
    simp (disch := decide) only [bits, lo1, hi1, lo3, hi3, lo5, hi5, lo7, hi7, slice_all, bit1_one, Nat.reduceSub, Nat.reduceAdd, BitVec.reduceExtractLsb', and_self]
  clear hw
  simp only [parseWord, decodeCustom0, decodeCustom0G0, h0, h1, h2, h3, h4, h5, h6, h7, BitVec.reduceToNat, BitVec.toNat_ofNat, Nat.reducePow, Nat.reduceMod, BEq.rfl, show (0#1 == 1#1) = false from rfl, Bool.false_eq_true, if_false, Bool.and_self, if_true])

theorem barWait (rs1 : XReg) (rs2 : XReg) (scope : BitVec 5) (w1 : Bool) (w2 : Bool) : Statement (.barWait rs1 rs2 scope w1 w2) := of_parse _ (by
  rw [show encode (.barWait rs1 rs2 scope w1 w2) = 12#5 ++ (bit1 w2) ++ (bit1 w1) ++ rs2 ++ rs1 ++ 0#3 ++ scope ++ 11#7 from rfl]
  generalize hw : (12#5 ++ (bit1 w2) ++ (bit1 w1) ++ rs2 ++ rs1 ++ 0#3 ++ scope ++ 11#7 : BitVec 32) = wd
  obtain ⟨h0, h1, h2, h3, h4, h5, h6, h7⟩ : bits wd 6 0 = 11#7 ∧ bits wd 14 12 = 0#3 ∧ bits wd 31 27 = 12#5 ∧ bits wd 19 15 = rs1 ∧ bits wd 24 20 = rs2 ∧ bits wd 11 7 = scope ∧ (bits wd 25 25 == 1#1) = w1 ∧ (bits wd 26 26 == 1#1) = w2 := by
    subst hw
    simp (disch := decide) only [bits, lo1, hi1, lo3, hi3, lo5, hi5, lo7, hi7, slice_all, bit1_one, Nat.reduceSub, Nat.reduceAdd, BitVec.reduceExtractLsb', and_self]
  clear hw
  simp only [parseWord, decodeCustom0, decodeCustom0G0, h0, h1, h2, h3, h4, h5, h6, h7, BitVec.reduceToNat, BitVec.toNat_ofNat, Nat.reducePow, Nat.reduceMod, BEq.rfl, show (0#1 == 1#1) = false from rfl, Bool.false_eq_true, if_false, Bool.and_self, if_true])

theorem vdrain : Statement .vdrain := of_parse _ rfl

theorem fenceS (kind : BitVec 5) (scope : BitVec 5) : Statement (.fenceS kind scope) := of_parse _ (by
  rw [show encode (.fenceS kind scope) = 56#7 ++ scope ++ kind ++ 11#15 from rfl]
  generalize hw : (56#7 ++ scope ++ kind ++ 11#15 : BitVec 32) = wd
  obtain ⟨h0, h1, h2, h3, h4, h5, h6, h7, h8, h9, h10⟩ : bits wd 6 0 = 11#7 ∧ bits wd 14 12 = 0#3 ∧ bits wd 31 27 = 14#5 ∧ bits wd 11 7 = 0#5 ∧ bits wd 11 11 = 0#1 ∧ bits wd 10 7 = 0#4 ∧ bits wd 26 25 = 0#2 ∧ bits wd 26 26 = 0#1 ∧ bits wd 25 25 = 0#1 ∧ bits wd 19 15 = kind ∧ bits wd 24 20 = scope := by
    subst hw
    simp (disch := decide) only [bits, lo5, hi5, lo7, hi7, lo15, hi15, slice_all, bit1_one, Nat.reduceSub, Nat.reduceAdd, BitVec.reduceExtractLsb', and_self]
  clear hw
  simp only [parseWord, decodeCustom0, decodeCustom0G0, h0, h1, h2, h3, h4, h5, h6, h7, h8, h9, h10, BitVec.reduceToNat, BitVec.toNat_ofNat, Nat.reducePow, Nat.reduceMod, BEq.rfl, show (0#1 == 1#1) = false from rfl, Bool.false_eq_true, if_false, Bool.and_self, if_true])

theorem lpost (rd : XReg) (rs1 : XReg) (w1 : Bool) : Statement (.lpost rd rs1 w1) := of_parse _ (by
  rw [show encode (.lpost rd rs1 w1) = 30#6 ++ (bit1 w1) ++ 0#5 ++ rs1 ++ 0#3 ++ rd ++ 11#7 from rfl]
  generalize hw : (30#6 ++ (bit1 w1) ++ 0#5 ++ rs1 ++ 0#3 ++ rd ++ 11#7 : BitVec 32) = wd
  obtain ⟨h0, h1, h2, h3, h4, h5, h6, h7⟩ : bits wd 6 0 = 11#7 ∧ bits wd 14 12 = 0#3 ∧ bits wd 31 27 = 15#5 ∧ bits wd 24 20 = 0#5 ∧ bits wd 26 26 = 0#1 ∧ bits wd 11 7 = rd ∧ bits wd 19 15 = rs1 ∧ (bits wd 25 25 == 1#1) = w1 := by
    subst hw
    simp (disch := decide) only [bits, lo1, hi1, lo3, hi3, lo5, hi5, lo6, hi6, lo7, hi7, slice_all, bit1_one, Nat.reduceSub, Nat.reduceAdd, BitVec.reduceExtractLsb', and_self]
  clear hw
  simp only [parseWord, decodeCustom0, decodeCustom0G0, h0, h1, h2, h3, h4, h5, h6, h7, BitVec.reduceToNat, BitVec.toNat_ofNat, Nat.reducePow, Nat.reduceMod, BEq.rfl, show (0#1 == 1#1) = false from rfl, Bool.false_eq_true, if_false, Bool.and_self, if_true])

theorem tret : Statement .tret := of_parse _ rfl

theorem ctxsave (rd : XReg) (rs1 : XReg) (rs2 : XReg) (w1 : Bool) (w2 : Bool) : Statement (.ctxsave rd rs1 rs2 w1 w2) := of_parse _ (by
  rw [show encode (.ctxsave rd rs1 rs2 w1 w2) = 17#5 ++ (bit1 w2) ++ (bit1 w1) ++ rs2 ++ rs1 ++ 0#3 ++ rd ++ 11#7 from rfl]
  generalize hw : (17#5 ++ (bit1 w2) ++ (bit1 w1) ++ rs2 ++ rs1 ++ 0#3 ++ rd ++ 11#7 : BitVec 32) = wd
  obtain ⟨h0, h1, h2, h3, h4, h5, h6, h7⟩ : bits wd 6 0 = 11#7 ∧ bits wd 14 12 = 0#3 ∧ bits wd 31 27 = 17#5 ∧ bits wd 11 7 = rd ∧ bits wd 19 15 = rs1 ∧ bits wd 24 20 = rs2 ∧ (bits wd 25 25 == 1#1) = w1 ∧ (bits wd 26 26 == 1#1) = w2 := by
    subst hw
    simp (disch := decide) only [bits, lo1, hi1, lo3, hi3, lo5, hi5, lo7, hi7, slice_all, bit1_one, Nat.reduceSub, Nat.reduceAdd, BitVec.reduceExtractLsb', and_self]
  clear hw
  simp only [parseWord, decodeCustom0, decodeCustom0G0, h0, h1, h2, h3, h4, h5, h6, h7, BitVec.reduceToNat, BitVec.toNat_ofNat, Nat.reducePow, Nat.reduceMod, BEq.rfl, show (0#1 == 1#1) = false from rfl, Bool.false_eq_true, if_false, Bool.and_self, if_true])

theorem ctxload (rd : XReg) (rs1 : XReg) (rs2 : XReg) (w1 : Bool) (w2 : Bool) : Statement (.ctxload rd rs1 rs2 w1 w2) := of_parse _ (by
  rw [show encode (.ctxload rd rs1 rs2 w1 w2) = 18#5 ++ (bit1 w2) ++ (bit1 w1) ++ rs2 ++ rs1 ++ 0#3 ++ rd ++ 11#7 from rfl]
  generalize hw : (18#5 ++ (bit1 w2) ++ (bit1 w1) ++ rs2 ++ rs1 ++ 0#3 ++ rd ++ 11#7 : BitVec 32) = wd
  obtain ⟨h0, h1, h2, h3, h4, h5, h6, h7⟩ : bits wd 6 0 = 11#7 ∧ bits wd 14 12 = 0#3 ∧ bits wd 31 27 = 18#5 ∧ bits wd 11 7 = rd ∧ bits wd 19 15 = rs1 ∧ bits wd 24 20 = rs2 ∧ (bits wd 25 25 == 1#1) = w1 ∧ (bits wd 26 26 == 1#1) = w2 := by
    subst hw
    simp (disch := decide) only [bits, lo1, hi1, lo3, hi3, lo5, hi5, lo7, hi7, slice_all, bit1_one, Nat.reduceSub, Nat.reduceAdd, BitVec.reduceExtractLsb', and_self]
  clear hw
  simp only [parseWord, decodeCustom0, decodeCustom0G0, h0, h1, h2, h3, h4, h5, h6, h7, BitVec.reduceToNat, BitVec.toNat_ofNat, Nat.reducePow, Nat.reduceMod, BEq.rfl, show (0#1 == 1#1) = false from rfl, Bool.false_eq_true, if_false, Bool.and_self, if_true])

theorem chold (rs1 : XReg) (w1 : Bool) : Statement (.chold rs1 w1) := of_parse _ (by
  rw [show encode (.chold rs1 w1) = 38#6 ++ (bit1 w1) ++ 0#5 ++ rs1 ++ 11#15 from rfl]
  generalize hw : (38#6 ++ (bit1 w1) ++ 0#5 ++ rs1 ++ 11#15 : BitVec 32) = wd
  obtain ⟨h0, h1, h2, h3, h4, h5, h6, h7, h8, h9⟩ : bits wd 6 0 = 11#7 ∧ bits wd 14 12 = 0#3 ∧ bits wd 31 27 = 19#5 ∧ bits wd 11 7 = 0#5 ∧ bits wd 11 11 = 0#1 ∧ bits wd 10 7 = 0#4 ∧ bits wd 24 20 = 0#5 ∧ bits wd 26 26 = 0#1 ∧ bits wd 19 15 = rs1 ∧ (bits wd 25 25 == 1#1) = w1 := by
    subst hw
    simp (disch := decide) only [bits, lo1, hi1, lo5, hi5, lo6, hi6, lo15, hi15, slice_all, bit1_one, Nat.reduceSub, Nat.reduceAdd, BitVec.reduceExtractLsb', and_self]
  clear hw
  simp only [parseWord, decodeCustom0, decodeCustom0G0, h0, h1, h2, h3, h4, h5, h6, h7, h8, h9, BitVec.reduceToNat, BitVec.toNat_ofNat, Nat.reducePow, Nat.reduceMod, BEq.rfl, show (0#1 == 1#1) = false from rfl, Bool.false_eq_true, if_false, Bool.and_self, if_true])

theorem fabld (rd : XReg) (rs1 : XReg) (w1 : Bool) : Statement (.fabld rd rs1 w1) := of_parse _ (by
  rw [show encode (.fabld rd rs1 w1) = 40#6 ++ (bit1 w1) ++ 0#5 ++ rs1 ++ 0#3 ++ rd ++ 11#7 from rfl]
  generalize hw : (40#6 ++ (bit1 w1) ++ 0#5 ++ rs1 ++ 0#3 ++ rd ++ 11#7 : BitVec 32) = wd
  obtain ⟨h0, h1, h2, h3, h4, h5, h6, h7⟩ : bits wd 6 0 = 11#7 ∧ bits wd 14 12 = 0#3 ∧ bits wd 31 27 = 20#5 ∧ bits wd 24 20 = 0#5 ∧ bits wd 26 26 = 0#1 ∧ bits wd 11 7 = rd ∧ bits wd 19 15 = rs1 ∧ (bits wd 25 25 == 1#1) = w1 := by
    subst hw
    simp (disch := decide) only [bits, lo1, hi1, lo3, hi3, lo5, hi5, lo6, hi6, lo7, hi7, slice_all, bit1_one, Nat.reduceSub, Nat.reduceAdd, BitVec.reduceExtractLsb', and_self]
  clear hw
  simp only [parseWord, decodeCustom0, decodeCustom0G0, h0, h1, h2, h3, h4, h5, h6, h7, BitVec.reduceToNat, BitVec.toNat_ofNat, Nat.reducePow, Nat.reduceMod, BEq.rfl, show (0#1 == 1#1) = false from rfl, Bool.false_eq_true, if_false, Bool.and_self, if_true])

theorem fabst (rs1 : XReg) (rs2 : XReg) (w1 : Bool) (w2 : Bool) : Statement (.fabst rs1 rs2 w1 w2) := of_parse _ (by
  rw [show encode (.fabst rs1 rs2 w1 w2) = 21#5 ++ (bit1 w2) ++ (bit1 w1) ++ rs2 ++ rs1 ++ 11#15 from rfl]
  generalize hw : (21#5 ++ (bit1 w2) ++ (bit1 w1) ++ rs2 ++ rs1 ++ 11#15 : BitVec 32) = wd
  obtain ⟨h0, h1, h2, h3, h4, h5, h6, h7, h8, h9⟩ : bits wd 6 0 = 11#7 ∧ bits wd 14 12 = 0#3 ∧ bits wd 31 27 = 21#5 ∧ bits wd 11 7 = 0#5 ∧ bits wd 11 11 = 0#1 ∧ bits wd 10 7 = 0#4 ∧ bits wd 19 15 = rs1 ∧ bits wd 24 20 = rs2 ∧ (bits wd 25 25 == 1#1) = w1 ∧ (bits wd 26 26 == 1#1) = w2 := by
    subst hw
    simp (disch := decide) only [bits, lo1, hi1, lo5, hi5, lo15, hi15, slice_all, bit1_one, Nat.reduceSub, Nat.reduceAdd, BitVec.reduceExtractLsb', and_self]
  clear hw
  simp only [parseWord, decodeCustom0, decodeCustom0G0, h0, h1, h2, h3, h4, h5, h6, h7, h8, h9, BitVec.reduceToNat, BitVec.toNat_ofNat, Nat.reducePow, Nat.reduceMod, BEq.rfl, show (0#1 == 1#1) = false from rfl, Bool.false_eq_true, if_false, Bool.and_self, if_true])

theorem fabadd (rd : XReg) (rs1 : XReg) (rs2 : XReg) (w1 : Bool) (w2 : Bool) : Statement (.fabadd rd rs1 rs2 w1 w2) := of_parse _ (by
  rw [show encode (.fabadd rd rs1 rs2 w1 w2) = 22#5 ++ (bit1 w2) ++ (bit1 w1) ++ rs2 ++ rs1 ++ 0#3 ++ rd ++ 11#7 from rfl]
  generalize hw : (22#5 ++ (bit1 w2) ++ (bit1 w1) ++ rs2 ++ rs1 ++ 0#3 ++ rd ++ 11#7 : BitVec 32) = wd
  obtain ⟨h0, h1, h2, h3, h4, h5, h6, h7⟩ : bits wd 6 0 = 11#7 ∧ bits wd 14 12 = 0#3 ∧ bits wd 31 27 = 22#5 ∧ bits wd 11 7 = rd ∧ bits wd 19 15 = rs1 ∧ bits wd 24 20 = rs2 ∧ (bits wd 25 25 == 1#1) = w1 ∧ (bits wd 26 26 == 1#1) = w2 := by
    subst hw
    simp (disch := decide) only [bits, lo1, hi1, lo3, hi3, lo5, hi5, lo7, hi7, slice_all, bit1_one, Nat.reduceSub, Nat.reduceAdd, BitVec.reduceExtractLsb', and_self]
  clear hw
  simp only [parseWord, decodeCustom0, decodeCustom0G0, h0, h1, h2, h3, h4, h5, h6, h7, BitVec.reduceToNat, BitVec.toNat_ofNat, Nat.reducePow, Nat.reduceMod, BEq.rfl, show (0#1 == 1#1) = false from rfl, Bool.false_eq_true, if_false, Bool.and_self, if_true])

theorem fabcas (rd : XReg) (rs1 : XReg) (rs2 : XReg) (w1 : Bool) (w2 : Bool) : Statement (.fabcas rd rs1 rs2 w1 w2) := of_parse _ (by
  rw [show encode (.fabcas rd rs1 rs2 w1 w2) = 23#5 ++ (bit1 w2) ++ (bit1 w1) ++ rs2 ++ rs1 ++ 0#3 ++ rd ++ 11#7 from rfl]
  generalize hw : (23#5 ++ (bit1 w2) ++ (bit1 w1) ++ rs2 ++ rs1 ++ 0#3 ++ rd ++ 11#7 : BitVec 32) = wd
  obtain ⟨h0, h1, h2, h3, h4, h5, h6, h7⟩ : bits wd 6 0 = 11#7 ∧ bits wd 14 12 = 0#3 ∧ bits wd 31 27 = 23#5 ∧ bits wd 11 7 = rd ∧ bits wd 19 15 = rs1 ∧ bits wd 24 20 = rs2 ∧ (bits wd 25 25 == 1#1) = w1 ∧ (bits wd 26 26 == 1#1) = w2 := by
    subst hw
    simp (disch := decide) only [bits, lo1, hi1, lo3, hi3, lo5, hi5, lo7, hi7, slice_all, bit1_one, Nat.reduceSub, Nat.reduceAdd, BitVec.reduceExtractLsb', and_self]
  clear hw
  simp only [parseWord, decodeCustom0, decodeCustom0G0, h0, h1, h2, h3, h4, h5, h6, h7, BitVec.reduceToNat, BitVec.toNat_ofNat, Nat.reducePow, Nat.reduceMod, BEq.rfl, show (0#1 == 1#1) = false from rfl, Bool.false_eq_true, if_false, Bool.and_self, if_true])

theorem fabswp (rd : XReg) (rs1 : XReg) (rs2 : XReg) (w1 : Bool) (w2 : Bool) : Statement (.fabswp rd rs1 rs2 w1 w2) := of_parse _ (by
  rw [show encode (.fabswp rd rs1 rs2 w1 w2) = 24#5 ++ (bit1 w2) ++ (bit1 w1) ++ rs2 ++ rs1 ++ 0#3 ++ rd ++ 11#7 from rfl]
  generalize hw : (24#5 ++ (bit1 w2) ++ (bit1 w1) ++ rs2 ++ rs1 ++ 0#3 ++ rd ++ 11#7 : BitVec 32) = wd
  obtain ⟨h0, h1, h2, h3, h4, h5, h6, h7⟩ : bits wd 6 0 = 11#7 ∧ bits wd 14 12 = 0#3 ∧ bits wd 31 27 = 24#5 ∧ bits wd 11 7 = rd ∧ bits wd 19 15 = rs1 ∧ bits wd 24 20 = rs2 ∧ (bits wd 25 25 == 1#1) = w1 ∧ (bits wd 26 26 == 1#1) = w2 := by
    subst hw
    simp (disch := decide) only [bits, lo1, hi1, lo3, hi3, lo5, hi5, lo7, hi7, slice_all, bit1_one, Nat.reduceSub, Nat.reduceAdd, BitVec.reduceExtractLsb', and_self]
  clear hw
  simp only [parseWord, decodeCustom0, decodeCustom0G0, h0, h1, h2, h3, h4, h5, h6, h7, BitVec.reduceToNat, BitVec.toNat_ofNat, Nat.reducePow, Nat.reduceMod, BEq.rfl, show (0#1 == 1#1) = false from rfl, Bool.false_eq_true, if_false, Bool.and_self, if_true])

theorem fabfl : Statement .fabfl := of_parse _ rfl

theorem fabred (rs1 : XReg) (rs2 : XReg) (w1 : Bool) (w2 : Bool) : Statement (.fabred rs1 rs2 w1 w2) := of_parse _ (by
  rw [show encode (.fabred rs1 rs2 w1 w2) = 26#5 ++ (bit1 w2) ++ (bit1 w1) ++ rs2 ++ rs1 ++ 11#15 from rfl]
  generalize hw : (26#5 ++ (bit1 w2) ++ (bit1 w1) ++ rs2 ++ rs1 ++ 11#15 : BitVec 32) = wd
  obtain ⟨h0, h1, h2, h3, h4, h5, h6, h7, h8, h9⟩ : bits wd 6 0 = 11#7 ∧ bits wd 14 12 = 0#3 ∧ bits wd 31 27 = 26#5 ∧ bits wd 11 7 = 0#5 ∧ bits wd 11 11 = 0#1 ∧ bits wd 10 7 = 0#4 ∧ bits wd 19 15 = rs1 ∧ bits wd 24 20 = rs2 ∧ (bits wd 25 25 == 1#1) = w1 ∧ (bits wd 26 26 == 1#1) = w2 := by
    subst hw
    simp (disch := decide) only [bits, lo1, hi1, lo5, hi5, lo15, hi15, slice_all, bit1_one, Nat.reduceSub, Nat.reduceAdd, BitVec.reduceExtractLsb', and_self]
  clear hw
  simp only [parseWord, decodeCustom0, decodeCustom0G0, h0, h1, h2, h3, h4, h5, h6, h7, h8, h9, BitVec.reduceToNat, BitVec.toNat_ofNat, Nat.reducePow, Nat.reduceMod, BEq.rfl, show (0#1 == 1#1) = false from rfl, Bool.false_eq_true, if_false, Bool.and_self, if_true])

theorem fabrw (rd : XReg) (rs1 : XReg) (w1 : Bool) : Statement (.fabrw rd rs1 w1) := of_parse _ (by
  rw [show encode (.fabrw rd rs1 w1) = 54#6 ++ (bit1 w1) ++ 0#5 ++ rs1 ++ 0#3 ++ rd ++ 11#7 from rfl]
  generalize hw : (54#6 ++ (bit1 w1) ++ 0#5 ++ rs1 ++ 0#3 ++ rd ++ 11#7 : BitVec 32) = wd
  obtain ⟨h0, h1, h2, h3, h4, h5, h6, h7⟩ : bits wd 6 0 = 11#7 ∧ bits wd 14 12 = 0#3 ∧ bits wd 31 27 = 27#5 ∧ bits wd 24 20 = 0#5 ∧ bits wd 26 26 = 0#1 ∧ bits wd 11 7 = rd ∧ bits wd 19 15 = rs1 ∧ (bits wd 25 25 == 1#1) = w1 := by
    subst hw
    simp (disch := decide) only [bits, lo1, hi1, lo3, hi3, lo5, hi5, lo6, hi6, lo7, hi7, slice_all, bit1_one, Nat.reduceSub, Nat.reduceAdd, BitVec.reduceExtractLsb', and_self]
  clear hw
  simp only [parseWord, decodeCustom0, decodeCustom0G0, h0, h1, h2, h3, h4, h5, h6, h7, BitVec.reduceToNat, BitVec.toNat_ofNat, Nat.reducePow, Nat.reduceMod, BEq.rfl, show (0#1 == 1#1) = false from rfl, Bool.false_eq_true, if_false, Bool.and_self, if_true])

theorem cres (rs1 : XReg) (w1 : Bool) : Statement (.cres rs1 w1) := of_parse _ (by
  rw [show encode (.cres rs1 w1) = 56#6 ++ (bit1 w1) ++ 0#5 ++ rs1 ++ 11#15 from rfl]
  generalize hw : (56#6 ++ (bit1 w1) ++ 0#5 ++ rs1 ++ 11#15 : BitVec 32) = wd
  obtain ⟨h0, h1, h2, h3, h4, h5, h6, h7, h8, h9⟩ : bits wd 6 0 = 11#7 ∧ bits wd 14 12 = 0#3 ∧ bits wd 31 27 = 28#5 ∧ bits wd 11 7 = 0#5 ∧ bits wd 11 11 = 0#1 ∧ bits wd 10 7 = 0#4 ∧ bits wd 24 20 = 0#5 ∧ bits wd 26 26 = 0#1 ∧ bits wd 19 15 = rs1 ∧ (bits wd 25 25 == 1#1) = w1 := by
    subst hw
    simp (disch := decide) only [bits, lo1, hi1, lo5, hi5, lo6, hi6, lo15, hi15, slice_all, bit1_one, Nat.reduceSub, Nat.reduceAdd, BitVec.reduceExtractLsb', and_self]
  clear hw
  simp only [parseWord, decodeCustom0, decodeCustom0G0, h0, h1, h2, h3, h4, h5, h6, h7, h8, h9, BitVec.reduceToNat, BitVec.toNat_ofNat, Nat.reducePow, Nat.reduceMod, BEq.rfl, show (0#1 == 1#1) = false from rfl, Bool.false_eq_true, if_false, Bool.and_self, if_true])

theorem halt : Statement .halt := of_parse _ rfl

theorem scrub (rd : XReg) (rs1 : XReg) (w1 : Bool) : Statement (.scrub rd rs1 w1) := of_parse _ (by
  rw [show encode (.scrub rd rs1 w1) = 60#6 ++ (bit1 w1) ++ 0#5 ++ rs1 ++ 0#3 ++ rd ++ 11#7 from rfl]
  generalize hw : (60#6 ++ (bit1 w1) ++ 0#5 ++ rs1 ++ 0#3 ++ rd ++ 11#7 : BitVec 32) = wd
  obtain ⟨h0, h1, h2, h3, h4, h5, h6, h7⟩ : bits wd 6 0 = 11#7 ∧ bits wd 14 12 = 0#3 ∧ bits wd 31 27 = 30#5 ∧ bits wd 24 20 = 0#5 ∧ bits wd 26 26 = 0#1 ∧ bits wd 11 7 = rd ∧ bits wd 19 15 = rs1 ∧ (bits wd 25 25 == 1#1) = w1 := by
    subst hw
    simp (disch := decide) only [bits, lo1, hi1, lo3, hi3, lo5, hi5, lo6, hi6, lo7, hi7, slice_all, bit1_one, Nat.reduceSub, Nat.reduceAdd, BitVec.reduceExtractLsb', and_self]
  clear hw
  simp only [parseWord, decodeCustom0, decodeCustom0G0, h0, h1, h2, h3, h4, h5, h6, h7, BitVec.reduceToNat, BitVec.toNat_ofNat, Nat.reducePow, Nat.reduceMod, BEq.rfl, show (0#1 == 1#1) = false from rfl, Bool.false_eq_true, if_false, Bool.and_self, if_true])

theorem bslot (bd : BReg) (imm : BitVec 12) (rs1 : XReg) : Statement (.bslot bd imm rs1) := of_parse _ (by
  rw [show encode (.bslot bd imm rs1) = imm ++ rs1 ++ 2#4 ++ bd ++ 11#7 from rfl]
  generalize hw : (imm ++ rs1 ++ 2#4 ++ bd ++ 11#7 : BitVec 32) = wd
  obtain ⟨h0, h1, h2, h3, h4, h5⟩ : bits wd 6 0 = 11#7 ∧ bits wd 14 12 = 1#3 ∧ bits wd 11 11 = 0#1 ∧ bits wd 10 7 = bd ∧ bits wd 31 20 = imm ∧ bits wd 19 15 = rs1 := by
    subst hw
    simp (disch := decide) only [bits, lo4, hi4, lo5, hi5, lo7, hi7, lo12, hi12, slice_all, bit1_one, Nat.reduceSub, Nat.reduceAdd, BitVec.reduceExtractLsb', and_self]
  clear hw
  simp only [parseWord, decodeCustom0, decodeCustom0G1, h0, h1, h2, h3, h4, h5, BitVec.reduceToNat, BitVec.toNat_ofNat, Nat.reducePow, Nat.reduceMod, BEq.rfl, show (0#1 == 1#1) = false from rfl, Bool.false_eq_true, if_false, Bool.and_self, if_true])

theorem loop (rs1 : XReg) (off : BitVec 11) (w1 : Bool) : Statement (.loop rs1 off w1) := of_parse _ (by
  rw [show encode (.loop rs1 off w1) = off ++ (bit1 w1) ++ rs1 ++ 8203#15 from rfl]
  generalize hw : (off ++ (bit1 w1) ++ rs1 ++ 8203#15 : BitVec 32) = wd
  obtain ⟨h0, h1, h2, h3, h4, h5⟩ : bits wd 6 0 = 11#7 ∧ bits wd 14 12 = 2#3 ∧ bits wd 11 7 = 0#5 ∧ bits wd 19 15 = rs1 ∧ bits wd 31 21 = off ∧ (bits wd 20 20 == 1#1) = w1 := by
    subst hw
    simp (disch := decide) only [bits, lo1, hi1, lo5, hi5, lo11, hi11, lo15, hi15, slice_all, bit1_one, Nat.reduceSub, Nat.reduceAdd, BitVec.reduceExtractLsb', and_self]
  clear hw
  simp only [parseWord, decodeCustom0, decodeCustom0G2, h0, h1, h2, h3, h4, h5, BitVec.reduceToNat, BitVec.toNat_ofNat, Nat.reducePow, Nat.reduceMod, BEq.rfl, show (0#1 == 1#1) = false from rfl, Bool.false_eq_true, if_false, Bool.and_self, if_true])

theorem lbrk : Statement .lbrk := of_parse _ rfl

theorem lnext : Statement .lnext := of_parse _ rfl

theorem vstrip (off : BitVec 11) : Statement (.vstrip off) := of_parse _ (by
  rw [show encode (.vstrip off) = off ++ 8587#21 from rfl]
  generalize hw : (off ++ 8587#21 : BitVec 32) = wd
  obtain ⟨h0, h1, h2, h3, h4, h5, h6⟩ : bits wd 6 0 = 11#7 ∧ bits wd 14 12 = 2#3 ∧ bits wd 11 7 = 3#5 ∧ bits wd 19 15 = 0#5 ∧ bits wd 20 20 = 0#1 ∧ bits wd 20 15 = 0#6 ∧ bits wd 31 21 = off := by
    subst hw
    simp (disch := decide) only [bits, lo11, hi11, lo21, hi21, slice_all, bit1_one, Nat.reduceSub, Nat.reduceAdd, BitVec.reduceExtractLsb', and_self]
  clear hw
  simp only [parseWord, decodeCustom0, decodeCustom0G2, h0, h1, h2, h3, h4, h5, h6, BitVec.reduceToNat, BitVec.toNat_ofNat, Nat.reducePow, Nat.reduceMod, BEq.rfl, show (0#1 == 1#1) = false from rfl, Bool.false_eq_true, if_false, Bool.and_self, if_true])

theorem fork (off : BitVec 11) : Statement (.fork off) := of_parse _ (by
  rw [show encode (.fork off) = off ++ 8715#21 from rfl]
  generalize hw : (off ++ 8715#21 : BitVec 32) = wd
  obtain ⟨h0, h1, h2, h3, h4, h5, h6⟩ : bits wd 6 0 = 11#7 ∧ bits wd 14 12 = 2#3 ∧ bits wd 11 7 = 4#5 ∧ bits wd 19 15 = 0#5 ∧ bits wd 20 20 = 0#1 ∧ bits wd 20 15 = 0#6 ∧ bits wd 31 21 = off := by
    subst hw
    simp (disch := decide) only [bits, lo11, hi11, lo21, hi21, slice_all, bit1_one, Nat.reduceSub, Nat.reduceAdd, BitVec.reduceExtractLsb', and_self]
  clear hw
  simp only [parseWord, decodeCustom0, decodeCustom0G2, h0, h1, h2, h3, h4, h5, h6, BitVec.reduceToNat, BitVec.toNat_ofNat, Nat.reducePow, Nat.reduceMod, BEq.rfl, show (0#1 == 1#1) = false from rfl, Bool.false_eq_true, if_false, Bool.and_self, if_true])

theorem vlset (rd : XReg) (rs1 : XReg) (fmt : BitVec 4) (grp : BitVec 2) (y : Bool) (w1 : Bool) : Statement (.vlset rd rs1 fmt grp y w1) := of_parse _ (by
  rw [show encode (.vlset rd rs1 fmt grp y w1) = 0#4 ++ (bit1 y) ++ grp ++ fmt ++ (bit1 w1) ++ rs1 ++ 3#3 ++ rd ++ 11#7 from rfl]
  generalize hw : (0#4 ++ (bit1 y) ++ grp ++ fmt ++ (bit1 w1) ++ rs1 ++ 3#3 ++ rd ++ 11#7 : BitVec 32) = wd
  obtain ⟨h0, h1, h2, h3, h4, h5, h6, h7, h8⟩ : bits wd 6 0 = 11#7 ∧ bits wd 14 12 = 3#3 ∧ bits wd 31 28 = 0#4 ∧ bits wd 11 7 = rd ∧ bits wd 19 15 = rs1 ∧ bits wd 24 21 = fmt ∧ bits wd 26 25 = grp ∧ (bits wd 27 27 == 1#1) = y ∧ (bits wd 20 20 == 1#1) = w1 := by
    subst hw
    simp (disch := decide) only [bits, lo1, hi1, lo2, hi2, lo3, hi3, lo4, hi4, lo5, hi5, lo7, hi7, slice_all, bit1_one, Nat.reduceSub, Nat.reduceAdd, BitVec.reduceExtractLsb', and_self]
  clear hw
  simp only [parseWord, decodeCustom0, decodeCustom0G3, h0, h1, h2, h3, h4, h5, h6, h7, h8, BitVec.reduceToNat, BitVec.toNat_ofNat, Nat.reducePow, Nat.reduceMod, BEq.rfl, show (0#1 == 1#1) = false from rfl, Bool.false_eq_true, if_false, Bool.and_self, if_true])

theorem mtset (rd : XReg) (rs1 : XReg) (w1 : Bool) : Statement (.mtset rd rs1 w1) := of_parse _ (by
  rw [show encode (.mtset rd rs1 w1) = 0#6 ++ (bit1 w1) ++ 0#5 ++ rs1 ++ 6#3 ++ rd ++ 11#7 from rfl]
  generalize hw : (0#6 ++ (bit1 w1) ++ 0#5 ++ rs1 ++ 6#3 ++ rd ++ 11#7 : BitVec 32) = wd
  obtain ⟨h0, h1, h2, h3, h4, h5, h6, h7⟩ : bits wd 6 0 = 11#7 ∧ bits wd 14 12 = 6#3 ∧ bits wd 31 27 = 0#5 ∧ bits wd 26 26 = 0#1 ∧ bits wd 24 20 = 0#5 ∧ bits wd 11 7 = rd ∧ bits wd 19 15 = rs1 ∧ (bits wd 25 25 == 1#1) = w1 := by
    subst hw
    simp (disch := decide) only [bits, lo1, hi1, lo3, hi3, lo5, hi5, lo6, hi6, lo7, hi7, slice_all, bit1_one, Nat.reduceSub, Nat.reduceAdd, BitVec.reduceExtractLsb', and_self]
  clear hw
  simp only [parseWord, decodeCustom0, decodeCustom0G6, h0, h1, h2, h3, h4, h5, h6, h7, BitVec.reduceToNat, BitVec.toNat_ofNat, Nat.reducePow, Nat.reduceMod, BEq.rfl, show (0#1 == 1#1) = false from rfl, Bool.false_eq_true, if_false, Bool.and_self, if_true])

theorem mwld (rs1 : XReg) (fmt : BitVec 5) (w1 : Bool) : Statement (.mwld rs1 fmt w1) := of_parse _ (by
  rw [show encode (.mwld rs1 fmt w1) = 2#6 ++ (bit1 w1) ++ fmt ++ rs1 ++ 24587#15 from rfl]
  generalize hw : (2#6 ++ (bit1 w1) ++ fmt ++ rs1 ++ 24587#15 : BitVec 32) = wd
  obtain ⟨h0, h1, h2, h3, h4, h5, h6, h7, h8, h9⟩ : bits wd 6 0 = 11#7 ∧ bits wd 14 12 = 6#3 ∧ bits wd 31 27 = 1#5 ∧ bits wd 26 26 = 0#1 ∧ bits wd 11 7 = 0#5 ∧ bits wd 11 10 = 0#2 ∧ bits wd 9 7 = 0#3 ∧ bits wd 19 15 = rs1 ∧ bits wd 24 20 = fmt ∧ (bits wd 25 25 == 1#1) = w1 := by
    subst hw
    simp (disch := decide) only [bits, lo1, hi1, lo5, hi5, lo6, hi6, lo15, hi15, slice_all, bit1_one, Nat.reduceSub, Nat.reduceAdd, BitVec.reduceExtractLsb', and_self]
  clear hw
  simp only [parseWord, decodeCustom0, decodeCustom0G6, h0, h1, h2, h3, h4, h5, h6, h7, h8, h9, BitVec.reduceToNat, BitVec.toNat_ofNat, Nat.reducePow, Nat.reduceMod, BEq.rfl, show (0#1 == 1#1) = false from rfl, Bool.false_eq_true, if_false, Bool.and_self, if_true])

theorem mgath (vs : VReg) (rs1 : XReg) (w : Bool) : Statement (.mgath vs rs1 w) := of_parse _ (by
  rw [show encode (.mgath vs rs1 w) = 2#5 ++ (bit1 w) ++ vs ++ rs1 ++ 24587#15 from rfl]
  generalize hw : (2#5 ++ (bit1 w) ++ vs ++ rs1 ++ 24587#15 : BitVec 32) = wd
  obtain ⟨h0, h1, h2, h3, h4, h5, h6, h7, h8⟩ : bits wd 6 0 = 11#7 ∧ bits wd 14 12 = 6#3 ∧ bits wd 31 27 = 2#5 ∧ bits wd 11 7 = 0#5 ∧ bits wd 11 10 = 0#2 ∧ bits wd 9 7 = 0#3 ∧ bits wd 25 20 = vs ∧ bits wd 19 15 = rs1 ∧ (bits wd 26 26 == 1#1) = w := by
    subst hw
    simp (disch := decide) only [bits, lo1, hi1, lo5, hi5, lo6, hi6, lo15, hi15, slice_all, bit1_one, Nat.reduceSub, Nat.reduceAdd, BitVec.reduceExtractLsb', and_self]
  clear hw
  simp only [parseWord, decodeCustom0, decodeCustom0G6, h0, h1, h2, h3, h4, h5, h6, h7, h8, BitVec.reduceToNat, BitVec.toNat_ofNat, Nat.reducePow, Nat.reduceMod, BEq.rfl, show (0#1 == 1#1) = false from rfl, Bool.false_eq_true, if_false, Bool.and_self, if_true])

theorem mmac (zd : ZReg) (rs1 : XReg) (fmt : BitVec 5) (w1 : Bool) : Statement (.mmac zd rs1 fmt w1) := of_parse _ (by
  rw [show encode (.mmac zd rs1 fmt w1) = 6#6 ++ (bit1 w1) ++ fmt ++ rs1 ++ 24#5 ++ zd ++ 11#7 from rfl]
  generalize hw : (6#6 ++ (bit1 w1) ++ fmt ++ rs1 ++ 24#5 ++ zd ++ 11#7 : BitVec 32) = wd
  obtain ⟨h0, h1, h2, h3, h4, h5, h6, h7, h8⟩ : bits wd 6 0 = 11#7 ∧ bits wd 14 12 = 6#3 ∧ bits wd 31 27 = 3#5 ∧ bits wd 26 26 = 0#1 ∧ bits wd 11 10 = 0#2 ∧ bits wd 9 7 = zd ∧ bits wd 19 15 = rs1 ∧ bits wd 24 20 = fmt ∧ (bits wd 25 25 == 1#1) = w1 := by
    subst hw
    simp (disch := decide) only [bits, lo1, hi1, lo3, hi3, lo5, hi5, lo6, hi6, lo7, hi7, slice_all, bit1_one, Nat.reduceSub, Nat.reduceAdd, BitVec.reduceExtractLsb', and_self]
  clear hw
  simp only [parseWord, decodeCustom0, decodeCustom0G6, h0, h1, h2, h3, h4, h5, h6, h7, h8, BitVec.reduceToNat, BitVec.toNat_ofNat, Nat.reducePow, Nat.reduceMod, BEq.rfl, show (0#1 == 1#1) = false from rfl, Bool.false_eq_true, if_false, Bool.and_self, if_true])

theorem mmacz (zd : ZReg) (rs1 : XReg) (fmt : BitVec 5) (w1 : Bool) : Statement (.mmacz zd rs1 fmt w1) := of_parse _ (by
  rw [show encode (.mmacz zd rs1 fmt w1) = 8#6 ++ (bit1 w1) ++ fmt ++ rs1 ++ 24#5 ++ zd ++ 11#7 from rfl]
  generalize hw : (8#6 ++ (bit1 w1) ++ fmt ++ rs1 ++ 24#5 ++ zd ++ 11#7 : BitVec 32) = wd
  obtain ⟨h0, h1, h2, h3, h4, h5, h6, h7, h8⟩ : bits wd 6 0 = 11#7 ∧ bits wd 14 12 = 6#3 ∧ bits wd 31 27 = 4#5 ∧ bits wd 26 26 = 0#1 ∧ bits wd 11 10 = 0#2 ∧ bits wd 9 7 = zd ∧ bits wd 19 15 = rs1 ∧ bits wd 24 20 = fmt ∧ (bits wd 25 25 == 1#1) = w1 := by
    subst hw
    simp (disch := decide) only [bits, lo1, hi1, lo3, hi3, lo5, hi5, lo6, hi6, lo7, hi7, slice_all, bit1_one, Nat.reduceSub, Nat.reduceAdd, BitVec.reduceExtractLsb', and_self]
  clear hw
  simp only [parseWord, decodeCustom0, decodeCustom0G6, h0, h1, h2, h3, h4, h5, h6, h7, h8, BitVec.reduceToNat, BitVec.toNat_ofNat, Nat.reducePow, Nat.reduceMod, BEq.rfl, show (0#1 == 1#1) = false from rfl, Bool.false_eq_true, if_false, Bool.and_self, if_true])

theorem mzero (zd : ZReg) : Statement (.mzero zd) := of_parse _ (by
  rw [show encode (.mzero zd) = 655384#22 ++ zd ++ 11#7 from rfl]
  generalize hw : (655384#22 ++ zd ++ 11#7 : BitVec 32) = wd
  obtain ⟨h0, h1, h2, h3, h4, h5, h6, h7, h8, h9, h10⟩ : bits wd 6 0 = 11#7 ∧ bits wd 14 12 = 6#3 ∧ bits wd 31 27 = 5#5 ∧ bits wd 26 26 = 0#1 ∧ bits wd 24 20 = 0#5 ∧ bits wd 19 15 = 0#5 ∧ bits wd 25 25 = 0#1 ∧ bits wd 25 20 = 0#6 ∧ bits wd 11 10 = 0#2 ∧ bits wd 26 15 = 0#12 ∧ bits wd 9 7 = zd := by
    subst hw
    simp (disch := decide) only [bits, lo3, hi3, lo7, hi7, lo22, hi22, slice_all, bit1_one, Nat.reduceSub, Nat.reduceAdd, BitVec.reduceExtractLsb', and_self]
  clear hw
  simp only [parseWord, decodeCustom0, decodeCustom0G6, h0, h1, h2, h3, h4, h5, h6, h7, h8, h9, h10, BitVec.reduceToNat, BitVec.toNat_ofNat, Nat.reducePow, Nat.reduceMod, BEq.rfl, show (0#1 == 1#1) = false from rfl, Bool.false_eq_true, if_false, Bool.and_self, if_true])

theorem mrd (vd : VReg) (zs : BitVec 5) (w : Bool) : Statement (.mrd vd zs w) := of_parse _ (by
  rw [show encode (.mrd vd zs w) = 6#5 ++ (bit1 w) ++ vd ++ zs ++ 24587#15 from rfl]
  generalize hw : (6#5 ++ (bit1 w) ++ vd ++ zs ++ 24587#15 : BitVec 32) = wd
  obtain ⟨h0, h1, h2, h3, h4, h5, h6, h7, h8⟩ : bits wd 6 0 = 11#7 ∧ bits wd 14 12 = 6#3 ∧ bits wd 31 27 = 6#5 ∧ bits wd 11 7 = 0#5 ∧ bits wd 11 10 = 0#2 ∧ bits wd 9 7 = 0#3 ∧ bits wd 25 20 = vd ∧ bits wd 19 15 = zs ∧ (bits wd 26 26 == 1#1) = w := by
    subst hw
    simp (disch := decide) only [bits, lo1, hi1, lo5, hi5, lo6, hi6, lo15, hi15, slice_all, bit1_one, Nat.reduceSub, Nat.reduceAdd, BitVec.reduceExtractLsb', and_self]
  clear hw
  simp only [parseWord, decodeCustom0, decodeCustom0G6, h0, h1, h2, h3, h4, h5, h6, h7, h8, BitVec.reduceToNat, BitVec.toNat_ofNat, Nat.reducePow, Nat.reduceMod, BEq.rfl, show (0#1 == 1#1) = false from rfl, Bool.false_eq_true, if_false, Bool.and_self, if_true])

theorem mst (zs : ZReg) (rs1 : XReg) (w1 : Bool) : Statement (.mst zs rs1 w1) := of_parse _ (by
  rw [show encode (.mst zs rs1 w1) = 14#6 ++ (bit1 w1) ++ 0#5 ++ rs1 ++ 24#5 ++ zs ++ 11#7 from rfl]
  generalize hw : (14#6 ++ (bit1 w1) ++ 0#5 ++ rs1 ++ 24#5 ++ zs ++ 11#7 : BitVec 32) = wd
  obtain ⟨h0, h1, h2, h3, h4, h5, h6, h7, h8⟩ : bits wd 6 0 = 11#7 ∧ bits wd 14 12 = 6#3 ∧ bits wd 31 27 = 7#5 ∧ bits wd 26 26 = 0#1 ∧ bits wd 24 20 = 0#5 ∧ bits wd 11 10 = 0#2 ∧ bits wd 9 7 = zs ∧ bits wd 19 15 = rs1 ∧ (bits wd 25 25 == 1#1) = w1 := by
    subst hw
    simp (disch := decide) only [bits, lo1, hi1, lo3, hi3, lo5, hi5, lo6, hi6, lo7, hi7, slice_all, bit1_one, Nat.reduceSub, Nat.reduceAdd, BitVec.reduceExtractLsb', and_self]
  clear hw
  simp only [parseWord, decodeCustom0, decodeCustom0G6, h0, h1, h2, h3, h4, h5, h6, h7, h8, BitVec.reduceToNat, BitVec.toNat_ofNat, Nat.reducePow, Nat.reduceMod, BEq.rfl, show (0#1 == 1#1) = false from rfl, Bool.false_eq_true, if_false, Bool.and_self, if_true])

theorem mcode (rs1 : XReg) (w1 : Bool) : Statement (.mcode rs1 w1) := of_parse _ (by
  rw [show encode (.mcode rs1 w1) = 16#6 ++ (bit1 w1) ++ 0#5 ++ rs1 ++ 24587#15 from rfl]
  generalize hw : (16#6 ++ (bit1 w1) ++ 0#5 ++ rs1 ++ 24587#15 : BitVec 32) = wd
  obtain ⟨h0, h1, h2, h3, h4, h5, h6, h7, h8, h9⟩ : bits wd 6 0 = 11#7 ∧ bits wd 14 12 = 6#3 ∧ bits wd 31 27 = 8#5 ∧ bits wd 26 26 = 0#1 ∧ bits wd 24 20 = 0#5 ∧ bits wd 11 7 = 0#5 ∧ bits wd 11 10 = 0#2 ∧ bits wd 9 7 = 0#3 ∧ bits wd 19 15 = rs1 ∧ (bits wd 25 25 == 1#1) = w1 := by
    subst hw
    simp (disch := decide) only [bits, lo1, hi1, lo5, hi5, lo6, hi6, lo15, hi15, slice_all, bit1_one, Nat.reduceSub, Nat.reduceAdd, BitVec.reduceExtractLsb', and_self]
  clear hw
  simp only [parseWord, decodeCustom0, decodeCustom0G6, h0, h1, h2, h3, h4, h5, h6, h7, h8, h9, BitVec.reduceToNat, BitVec.toNat_ofNat, Nat.reducePow, Nat.reduceMod, BEq.rfl, show (0#1 == 1#1) = false from rfl, Bool.false_eq_true, if_false, Bool.and_self, if_true])

theorem ystr (vd : VReg) (rs1 : XReg) (w : Bool) : Statement (.ystr vd rs1 w) := of_parse _ (by
  rw [show encode (.ystr vd rs1 w) = 9#5 ++ (bit1 w) ++ vd ++ rs1 ++ 24587#15 from rfl]
  generalize hw : (9#5 ++ (bit1 w) ++ vd ++ rs1 ++ 24587#15 : BitVec 32) = wd
  obtain ⟨h0, h1, h2, h3, h4, h5, h6, h7, h8⟩ : bits wd 6 0 = 11#7 ∧ bits wd 14 12 = 6#3 ∧ bits wd 31 27 = 9#5 ∧ bits wd 11 7 = 0#5 ∧ bits wd 11 10 = 0#2 ∧ bits wd 9 7 = 0#3 ∧ bits wd 25 20 = vd ∧ bits wd 19 15 = rs1 ∧ (bits wd 26 26 == 1#1) = w := by
    subst hw
    simp (disch := decide) only [bits, lo1, hi1, lo5, hi5, lo6, hi6, lo15, hi15, slice_all, bit1_one, Nat.reduceSub, Nat.reduceAdd, BitVec.reduceExtractLsb', and_self]
  clear hw
  simp only [parseWord, decodeCustom0, decodeCustom0G6, h0, h1, h2, h3, h4, h5, h6, h7, h8, BitVec.reduceToNat, BitVec.toNat_ofNat, Nat.reducePow, Nat.reduceMod, BEq.rfl, show (0#1 == 1#1) = false from rfl, Bool.false_eq_true, if_false, Bool.and_self, if_true])

theorem yend (vd : VReg) : Statement (.yend vd) := of_parse _ (by
  rw [show encode (.yend vd) = 20#6 ++ vd ++ 24587#20 from rfl]
  generalize hw : (20#6 ++ vd ++ 24587#20 : BitVec 32) = wd
  obtain ⟨h0, h1, h2, h3, h4, h5, h6, h7, h8⟩ : bits wd 6 0 = 11#7 ∧ bits wd 14 12 = 6#3 ∧ bits wd 31 27 = 10#5 ∧ bits wd 26 26 = 0#1 ∧ bits wd 11 7 = 0#5 ∧ bits wd 19 15 = 0#5 ∧ bits wd 11 10 = 0#2 ∧ bits wd 9 7 = 0#3 ∧ bits wd 25 20 = vd := by
    subst hw
    simp (disch := decide) only [bits, lo6, hi6, lo20, hi20, slice_all, bit1_one, Nat.reduceSub, Nat.reduceAdd, BitVec.reduceExtractLsb', and_self]
  clear hw
  simp only [parseWord, decodeCustom0, decodeCustom0G6, h0, h1, h2, h3, h4, h5, h6, h7, h8, BitVec.reduceToNat, BitVec.toNat_ofNat, Nat.reducePow, Nat.reduceMod, BEq.rfl, show (0#1 == 1#1) = false from rfl, Bool.false_eq_true, if_false, Bool.and_self, if_true])

theorem yld (rd : XReg) (vd : VReg) (rs1 : XReg) (w : Bool) : Statement (.yld rd vd rs1 w) := of_parse _ (by
  rw [show encode (.yld rd vd rs1 w) = 11#5 ++ (bit1 w) ++ vd ++ rs1 ++ 6#3 ++ rd ++ 11#7 from rfl]
  generalize hw : (11#5 ++ (bit1 w) ++ vd ++ rs1 ++ 6#3 ++ rd ++ 11#7 : BitVec 32) = wd
  obtain ⟨h0, h1, h2, h3, h4, h5, h6⟩ : bits wd 6 0 = 11#7 ∧ bits wd 14 12 = 6#3 ∧ bits wd 31 27 = 11#5 ∧ bits wd 11 7 = rd ∧ bits wd 25 20 = vd ∧ bits wd 19 15 = rs1 ∧ (bits wd 26 26 == 1#1) = w := by
    subst hw
    simp (disch := decide) only [bits, lo1, hi1, lo3, hi3, lo5, hi5, lo6, hi6, lo7, hi7, slice_all, bit1_one, Nat.reduceSub, Nat.reduceAdd, BitVec.reduceExtractLsb', and_self]
  clear hw
  simp only [parseWord, decodeCustom0, decodeCustom0G6, h0, h1, h2, h3, h4, h5, h6, BitVec.reduceToNat, BitVec.toNat_ofNat, Nat.reducePow, Nat.reduceMod, BEq.rfl, show (0#1 == 1#1) = false from rfl, Bool.false_eq_true, if_false, Bool.and_self, if_true])

theorem yst (rd : XReg) (vd : VReg) (rs1 : XReg) (w : Bool) : Statement (.yst rd vd rs1 w) := of_parse _ (by
  rw [show encode (.yst rd vd rs1 w) = 12#5 ++ (bit1 w) ++ vd ++ rs1 ++ 6#3 ++ rd ++ 11#7 from rfl]
  generalize hw : (12#5 ++ (bit1 w) ++ vd ++ rs1 ++ 6#3 ++ rd ++ 11#7 : BitVec 32) = wd
  obtain ⟨h0, h1, h2, h3, h4, h5, h6⟩ : bits wd 6 0 = 11#7 ∧ bits wd 14 12 = 6#3 ∧ bits wd 31 27 = 12#5 ∧ bits wd 11 7 = rd ∧ bits wd 25 20 = vd ∧ bits wd 19 15 = rs1 ∧ (bits wd 26 26 == 1#1) = w := by
    subst hw
    simp (disch := decide) only [bits, lo1, hi1, lo3, hi3, lo5, hi5, lo6, hi6, lo7, hi7, slice_all, bit1_one, Nat.reduceSub, Nat.reduceAdd, BitVec.reduceExtractLsb', and_self]
  clear hw
  simp only [parseWord, decodeCustom0, decodeCustom0G6, h0, h1, h2, h3, h4, h5, h6, BitVec.reduceToNat, BitVec.toNat_ofNat, Nat.reducePow, Nat.reduceMod, BEq.rfl, show (0#1 == 1#1) = false from rfl, Bool.false_eq_true, if_false, Bool.and_self, if_true])

theorem yxfer (rd : XReg) (vd : VReg) (rs1 : XReg) (w : Bool) : Statement (.yxfer rd vd rs1 w) := of_parse _ (by
  rw [show encode (.yxfer rd vd rs1 w) = 13#5 ++ (bit1 w) ++ vd ++ rs1 ++ 6#3 ++ rd ++ 11#7 from rfl]
  generalize hw : (13#5 ++ (bit1 w) ++ vd ++ rs1 ++ 6#3 ++ rd ++ 11#7 : BitVec 32) = wd
  obtain ⟨h0, h1, h2, h3, h4, h5, h6⟩ : bits wd 6 0 = 11#7 ∧ bits wd 14 12 = 6#3 ∧ bits wd 31 27 = 13#5 ∧ bits wd 11 7 = rd ∧ bits wd 25 20 = vd ∧ bits wd 19 15 = rs1 ∧ (bits wd 26 26 == 1#1) = w := by
    subst hw
    simp (disch := decide) only [bits, lo1, hi1, lo3, hi3, lo5, hi5, lo6, hi6, lo7, hi7, slice_all, bit1_one, Nat.reduceSub, Nat.reduceAdd, BitVec.reduceExtractLsb', and_self]
  clear hw
  simp only [parseWord, decodeCustom0, decodeCustom0G6, h0, h1, h2, h3, h4, h5, h6, BitVec.reduceToNat, BitVec.toNat_ofNat, Nat.reducePow, Nat.reduceMod, BEq.rfl, show (0#1 == 1#1) = false from rfl, Bool.false_eq_true, if_false, Bool.and_self, if_true])

theorem ytile (rd : XReg) (rs1 : XReg) (w1 : Bool) : Statement (.ytile rd rs1 w1) := of_parse _ (by
  rw [show encode (.ytile rd rs1 w1) = 28#6 ++ (bit1 w1) ++ 0#5 ++ rs1 ++ 6#3 ++ rd ++ 11#7 from rfl]
  generalize hw : (28#6 ++ (bit1 w1) ++ 0#5 ++ rs1 ++ 6#3 ++ rd ++ 11#7 : BitVec 32) = wd
  obtain ⟨h0, h1, h2, h3, h4, h5, h6, h7⟩ : bits wd 6 0 = 11#7 ∧ bits wd 14 12 = 6#3 ∧ bits wd 31 27 = 14#5 ∧ bits wd 26 26 = 0#1 ∧ bits wd 24 20 = 0#5 ∧ bits wd 11 7 = rd ∧ bits wd 19 15 = rs1 ∧ (bits wd 25 25 == 1#1) = w1 := by
    subst hw
    simp (disch := decide) only [bits, lo1, hi1, lo3, hi3, lo5, hi5, lo6, hi6, lo7, hi7, slice_all, bit1_one, Nat.reduceSub, Nat.reduceAdd, BitVec.reduceExtractLsb', and_self]
  clear hw
  simp only [parseWord, decodeCustom0, decodeCustom0G6, h0, h1, h2, h3, h4, h5, h6, h7, BitVec.reduceToNat, BitVec.toNat_ofNat, Nat.reducePow, Nat.reduceMod, BEq.rfl, show (0#1 == 1#1) = false from rfl, Bool.false_eq_true, if_false, Bool.and_self, if_true])

theorem engineQueueEntry (a : Agent) (q : Engine) : Statement (.engineQueueEntry a q) := fun h => by cases h
theorem matrixQueueEntry (a : Agent) : Statement (.matrixQueueEntry a) := fun h => by cases h
theorem waitSatisfied (a : Agent) (n : Needle) : Statement (.waitSatisfied a n) := fun h => by cases h
theorem copyChunk (a : Agent) (k : Nat) : Statement (.copyChunk a k) := fun h => by cases h
theorem copyCompletion (a : Agent) (k : Nat) : Statement (.copyCompletion a k) := fun h => by cases h
theorem streamReadAhead (a : Agent) (v : VReg) : Statement (.streamReadAhead a v) := fun h => by cases h
theorem streamWriteOut (a : Agent) (v : VReg) : Statement (.streamWriteOut a v) := fun h => by cases h
theorem preemptionHonoured (c : Nat) : Statement (.preemptionHonoured c) := fun h => by cases h
theorem yieldWindowExpiry (c : Nat) : Statement (.yieldWindowExpiry c) := fun h => by cases h
theorem managerEventEntry (h : Nat) : Statement (.managerEventEntry h) := fun h => by cases h
theorem skeinWrite (h : Nat) : Statement (.skeinWrite h) := fun h => by cases h
theorem qtailWrite (vf : Nat) (v : BitVec 32) : Statement (.qtailWrite vf v) := fun h => by cases h
theorem recordTake (vf : Nat) : Statement (.recordTake vf) := fun h => by cases h
theorem nodeDispatch (p : Nat) (ids : List Nat) (units : List Nat) : Statement (.nodeDispatch p ids units) := fun h => by cases h
theorem nodeCompletion (p : Nat) (handle : Nat) : Statement (.nodeCompletion p handle) := fun h => by cases h
theorem agingIntervalExpiry (p : Nat) (handle : Nat) : Statement (.agingIntervalExpiry p handle) := fun h => by cases h
theorem gangReservation (p : Nat) : Statement (.gangReservation p) := fun h => by cases h
theorem qosExpiry (p : Nat) : Statement (.qosExpiry p) := fun h => by cases h
theorem holdGateWrite (p : Nat) (gate : BitVec 3) (en : Bool) (base limit : Nat) : Statement (.holdGateWrite p gate en base limit) := fun h => by cases h
theorem gateDrained (p : Nat) (gate : BitVec 3) : Statement (.gateDrained p gate) := fun h => by cases h
theorem coalescingTimerExpiry (vf : Nat) : Statement (.coalescingTimerExpiry vf) := fun h => by cases h
theorem functionLevelReset (vf : Nat) : Statement (.functionLevelReset vf) := fun h => by cases h
theorem scrubBlock (vf : Nat) : Statement (.scrubBlock vf) := fun h => by cases h
theorem cxlMemAccess (vf : Nat) (win : BitVec 3) (off : Nat) (acc : HostAccess) : Statement (.cxlMemAccess vf win off acc) := fun h => by cases h
theorem ckill (p : Nat) (c : Nat) : Statement (.ckill p c) := fun h => by cases h
theorem revoke (p : Nat) (key : BitVec 32) : Statement (.revoke p key) := fun h => by cases h
theorem evhubWrite (p : Nat) (v : BitVec 64) : Statement (.evhubWrite p v) := fun h => by cases h
theorem cablemaskWrite (h : Nat) (v : BitVec 64) : Statement (.cablemaskWrite h v) := fun h => by cases h
theorem gaugetabWrite (h : Nat) (v : BitVec 64) : Statement (.gaugetabWrite h v) := fun h => by cases h
theorem keyGenerate (id : BitVec 7) : Statement (.keyGenerate id) := fun h => by cases h
theorem keyDestroy (id : BitVec 7) : Statement (.keyDestroy id) := fun h => by cases h
theorem vprogWrite (a : Agent) (v : BitVec 64) : Statement (.vprogWrite a v) := fun h => by cases h
theorem registerWrite (r : HwReg) (v : BitVec 64) : Statement (.registerWrite r v) := fun h => by cases h
theorem gaugeGrant (phub phbm : Nat) (hot : Bool) : Statement (.gaugeGrant phub phbm hot) := fun h => by cases h
theorem thermalShutdown  : Statement (.thermalShutdown) := fun h => by cases h
theorem plimitSet (watts : Nat) : Statement (.plimitSet watts) := fun h => by cases h
theorem fabricLoad (p : Nat) (pk : Packet) : Statement (.fabricLoad p pk) := fun h => by cases h
theorem fabricStore (p : Nat) (pk : Packet) : Statement (.fabricStore p pk) := fun h => by cases h
theorem fabricFetchAdd (p : Nat) (pk : Packet) : Statement (.fabricFetchAdd p pk) := fun h => by cases h
theorem fabricCompareAndSwap (p : Nat) (pk : Packet) : Statement (.fabricCompareAndSwap p pk) := fun h => by cases h
theorem fabricSwap (p : Nat) (pk : Packet) : Statement (.fabricSwap p pk) := fun h => by cases h
theorem fabricContribution (p : Nat) (pk : Packet) : Statement (.fabricContribution p pk) := fun h => by cases h
theorem fabricIndexedGet (p : Nat) (pk : Packet) : Statement (.fabricIndexedGet p pk) := fun h => by cases h
theorem fabricIndexedPut (p : Nat) (pk : Packet) : Statement (.fabricIndexedPut p pk) := fun h => by cases h
theorem fabricAcknowledgementOnly (p : Nat) (pk : Packet) : Statement (.fabricAcknowledgementOnly p pk) := fun h => by cases h
theorem fabricClose (p : Nat) (pk : Packet) : Statement (.fabricClose p pk) := fun h => by cases h
theorem fabricReply (p : Nat) (pk : Packet) : Statement (.fabricReply p pk) := fun h => by cases h
theorem retransmissionTimer (p : Nat) : Statement (.retransmissionTimer p) := fun h => by cases h
theorem deviceReset (w : Firmware) (found : BootTest) : Statement (.deviceReset w found) := fun h => by cases h
theorem getVersion (request : List (BitVec 8)) : Statement (.getVersion request) := fun h => by cases h
theorem getCapabilities (request : List (BitVec 8)) : Statement (.getCapabilities request) := fun h => by cases h
theorem negotiateAlgorithms (request : List (BitVec 8)) : Statement (.negotiateAlgorithms request) := fun h => by cases h
theorem getDigests (request : List (BitVec 8)) : Statement (.getDigests request) := fun h => by cases h
theorem getCertificate (request : List (BitVec 8)) : Statement (.getCertificate request) := fun h => by cases h
theorem challenge (request : List (BitVec 8)) : Statement (.challenge request) := fun h => by cases h
theorem getMeasurements (request : List (BitVec 8)) : Statement (.getMeasurements request) := fun h => by cases h
theorem msiXVectorUnmask (vf : Nat) (vec : BitVec 6) : Statement (.msiXVectorUnmask vf vec) := fun h => by cases h

end Sys2Proof.Laws.RoundTrip
end

