-- ==== Sys2Proof/Laws/Vector.lean ====
section
/-! SUPPORT. One run of a vector instruction on V that nothing stops part way: what it leaves, once for every operation. -/

namespace Sys2Proof.Machine
open Sys2Proof

/-- No register is in yarn mode. -/
def Ctx.noStreams (c : Ctx) : Prop := ∀ r, (c.getV r).stream = none

theorem stream_none {c : Ctx} (h : c.noStreams) (r : Nat) : c.stream r = none := h _

theorem yarnMisuse_none {c : Ctx} (h : c.noStreams) (m : Bool) (d : Option Group) (ops : List Operand) : c.yarnMisuse m d ops = none := by
  unfold Ctx.yarnMisuse
  have hi : ∀ g : Group, ((List.range (g.n - 1)).any (fun k => (c.stream (g.r + 1 + k)).isSome)) = false := by
    intro g; simp [stream_none h]
  have ha : ∀ (f : Operand → Stream → Bool), ops.any (fun o => (c.stream o.g.r).any (f o)) = false := by
    intro f; simp [stream_none h]
  cases d with
  | none => simp [hi, ha, stream_none h]
  | some g => simp [hi, ha, stream_none h]

theorem streams_nil {c : Ctx} (h : c.noStreams) (sh : Shape) : sh.streams c = [] := by
  unfold Shape.streams
  have : ((sh.ops.filter (·.read)).map (·.g.r)).filter (fun r => (c.stream r).isSome) = [] := by
    rw [List.filter_eq_nil_iff]; intro r _; simp [stream_none h]
  rw [this]; rfl

theorem rooms_nil {c : Ctx} (h : c.noStreams) (i : VInstr) (k : Capture) (sh : Shape) : i.rooms k sh c = [] := by
  unfold VInstr.rooms
  have : (i.headers k).bind (fun g => (c.stream g.r).map Stream.room) = none := by
    cases i.headers k <;> simp [stream_none h]
  rw [this]; simp [stream_none h]

theorem pushTag_none {c : Ctx} (h : c.noStreams) (r : Nat) (tag : BitVec 6) : c.pushTag r tag = none := by
  unfold Ctx.pushTag; rw [stream_none h]; rfl

theorem firstBad_none (i : VInstr) (k : Capture) (sh : Shape) (c : Ctx) (ls : List Nat) : i.firstBad k sh c ls [] = none := by
  unfold VInstr.firstBad; simp

theorem badTarget_none (i : VInstr) (k : Capture) (sh : Shape) (c : Ctx) (ls : List Nat) : i.badTarget k sh c ls [] = none := by
  unfold VInstr.badTarget; simp

theorem limit_done {c : Ctx} (h : c.noStreams) (i : VInstr) (k : Capture) (sh : Shape) (ls : List Nat) :
    i.limit k sh c ls [] false = (k.vl - k.vbeg, .done) := by
  unfold VInstr.limit
  simp only [streams_nil h, rooms_nil h, firstBad_none, badTarget_none]
  simp

theorem tagOf_plain {c : Ctx} (h : c.noStreams) (r : Nat) : c.tagOf r = (c.getV (BitVec.ofNat 6 r)).tag := by
  unfold Ctx.tagOf; rw [stream_none h]; rfl

theorem read_fetch {c : Ctx} (h : c.noStreams) (ls : List Nat) (v : Nat) (o : Operand) (j : Nat) : c.fetch ls v o j = c.read ls o.g (j / o.div) := by
  unfold Ctx.fetch; rw [stream_none h]

/-- One run, from its captured start to its end. -/
theorem run_done (i : VInstr) (k : Capture) (word : BitVec 32) (a : Agent) (s : State)
    (hs : (s.regs a).noStreams) (hb : s.badRegs a = []) (hblk : (i.shape k (lanesOf (s.lanemap a)).length).block = 1)
    (ht : (s.regs a).tagCheck k.tags (i.shape k (lanesOf (s.lanemap a)).length).tags ((i.shape k (lanesOf (s.lanemap a)).length).ops.filter (·.read)) = none)
    (hp : i.purlTag k (s.regs a) ⟨i.vs2.toNat, k.grp, 8, false⟩ = none)
    (h1 : i.op ≠ .retag) (h2 : i.op ≠ .tagclr) (hlt : k.vbeg < k.vl)
    (hside : (i.produce k (i.shape k (lanesOf (s.lanemap a)).length).allActive (i.reader k (i.shape k (lanesOf (s.lanemap a)).length) (s.regs a) (lanesOf (s.lanemap a))) k.vbeg k.vl).side = []) :
    i.run k word false a s =
      (let ls := lanesOf (s.lanemap a)
       let sh := i.shape k ls.length
       let o := i.produce k sh.allActive (i.reader k sh (s.regs a) ls) k.vbeg k.vl
       ((((s.putGroup a ls sh.dst o.puts).onRegs a (fun c => c.markV sh.dst ls.length (i.dstCount k sh) (i.outTag k sh (s.regs a)) true)).onRegs a
          (fun c => (c.accrue o.flags).accrueQ o.q)).charge a (i.chargeOf k ls.length k.vbeg k.vl), .done, 0)) := by
  have hge : ¬ k.vbeg ≥ k.vl := by omega
  have hn : (i.headers k).bind (fun _ => (none : Option (BitVec 8))) = none := by cases i.headers k <;> rfl
  have hn' : (i.headers k).bind (fun _ => (none : Option (BitVec 8 × Word × Word))) = none := by cases i.headers k <;> rfl
  have hside' : ∀ t : State, i.deliverHeaders k a (lanesOf (s.lanemap a)) .done [] t = t := by
    intro t; unfold VInstr.deliverHeaders; cases i.headers k <;> rfl
  unfold VInstr.run
  simp only [hblk, beq_self_eq_true, if_true, yarnMisuse_none hs, ht, hp, pushTag_none hs, hn, hn',
    hb, limit_done hs, Option.or_none, streams_nil hs]
  have hw1 : (VStop.done == VStop.wait) = false := rfl
  have hw2 : (VStop.done != VStop.done) = false := rfl
  simp only [hw1, hw2, Bool.and_false, Bool.false_eq_true, if_false]
  have hd : (VStop.done == VStop.done) = true := rfl
  simp only [hd, if_true, hge, decide_false, Bool.false_and, Bool.false_eq_true, if_false, hside, List.foldl_nil, hside']
  have hgt : (decide (k.vl > k.vbeg) || (i.shape k (lanesOf (s.lanemap a)).length).always) = true := by
    simp; left; omega
  simp only [VInstr.deliver, stream_none hs, hgt, hd, if_true]

/-- V executes a vector instruction that passes its checks at issue, from its start to its end. -/
theorem vecArith_next (i : VInstr) (s : State) (hV : s.ndl = .V) (hp : s.my.nV.part = none) (hfree : s.my.barred = false) (hstep : s.my.stepping = false)
    (h : s.Issues .vector (i.sources (i.shape (i.capture s.my) s.myLanes.length) s.my))
    (hs : s.my.noStreams) (hb : s.badRegs s.who = []) (hc : i.checkIssue (i.capture s.my) s.myLanes.length s = none)
    (hblk : (i.shape (i.capture s.my) s.myLanes.length).block = 1)
    (ht : s.my.tagCheck none (i.shape (i.capture s.my) s.myLanes.length).tags ((i.shape (i.capture s.my) s.myLanes.length).ops.filter (·.read)) = none)
    (hpt : i.purlTag (i.capture s.my) s.my ⟨i.vs2.toNat, (i.capture s.my).grp, 8, false⟩ = none)
    (h1 : i.op ≠ .retag) (h2 : i.op ≠ .tagclr) (hlt : s.my.vbeg.toNat < s.my.strip.vl.toNat)
    (hside : (i.produce (i.capture s.my) (i.shape (i.capture s.my) s.myLanes.length).allActive
      (i.reader (i.capture s.my) (i.shape (i.capture s.my) s.myLanes.length) s.my s.myLanes) s.my.vbeg.toNat s.my.strip.vl.toNat).side = []) :
    vecArith i s = .next (
      let k := i.capture s.my
      let sh := i.shape k s.myLanes.length
      s.vGives (i.chargeOf k s.myLanes.length s.my.vbeg.toNat s.my.strip.vl.toNat) sh.dst (i.dstCount k sh) (i.outTag k sh s.my)
        (i.produce k sh.allActive (i.reader k sh s.my s.myLanes) s.my.vbeg.toNat s.my.strip.vl.toNat)) := by
  unfold vecArith
  rw [launch_allowed s .vector _ _ _ h.toAllowed]
  have hl : s.lanes s.who = s.myLanes.length := rfl
  have hpv : (s.my.needle .V).part = none := hp
  simp only [hV, hfree, hpv, Option.getD_none, hl, hc, Bool.false_eq_true, if_false]
  rw [reading_ready s _ _ h.full h.quiet h.known]
  rw [hstep]
  rw [run_done i (i.capture s.my) s.ir s.who s hs hb hblk ht hpt h1 h2 hlt hside]
  exact finish_done s _ _ h.back

theorem grp_cases (s : State) : s.grp = 1 ∨ s.grp = 2 ∨ s.grp = 4 ∨ s.grp = 8 := by
  unfold State.grp vtypeGroup
  generalize (s.my.strip.vtype.extractLsb' 4 2) = t
  revert t; decide

theorem rel_same (a b : VReg) (g : Nat) (hg : g = 1 ∨ g = 2 ∨ g = 4 ∨ g = 8) (ha : a.toNat % g = 0) (hb : b.toNat % g = 0) (eb : Nat) :
   Rel.allows .same ⟨a.toNat, g, eb, false⟩ ⟨b.toNat, g, eb, false⟩ = true := by
  simp only [Rel.allows, Group.disjoint, Bool.or_eq_true, decide_eq_true_eq, Bool.and_eq_true, beq_iff_eq, and_true]
  rcases hg with rfl | rfl | rfl | rfl <;> omega

theorem tag_spatial (c : Ctx) (hs : c.noStreams) (ops : List Operand)
   (ho : ∀ o ∈ ops, o.data = true → ∀ k, k < o.g.n → (c.getV (BitVec.ofNat 6 (o.g.r + k))).tag.extractLsb' 4 2 = 0#2) : c.tagCheck none .spatial ops = none := by
  unfold Ctx.tagCheck
  dsimp only
  generalize hrs : (ops.filter (·.data)).flatMap (fun o => c.tagRegs o.g) = rs
  have hall : ∀ r ∈ rs, (c.tagOf r).extractLsb' 4 2 = 0#2 := by
    intro r hr
    rw [← hrs] at hr
    simp only [List.mem_flatMap, List.mem_filter] at hr
    obtain ⟨o, ⟨ho1, ho2⟩, hr⟩ := hr
    simp only [Ctx.tagRegs, stream_none hs, Option.isSome_none, Bool.false_eq_true, if_false, List.mem_map, List.mem_range] at hr
    obtain ⟨k, hk, rfl⟩ := hr
    rw [tagOf_plain hs]
    exact ho o ho1 ho2 k hk
  cases rs with
  | nil => rfl
  | cons r rs =>
    simp only [Option.map_eq_none_iff, List.find?_eq_none]
    intro x hx
    simp [Ctx.tagAt, hall x hx]

/-- An integer operation of two register groups, for every one of R237. -/
theorem int_next (s : State) (o : IntOp) (vd vs2 vs1 : VReg) (w m : Bool) (hf : s.fmt ≤ 3) (h : s.RunsV w m vd s.grp [] [(vs2, s.grp), (vs1, s.grp)])
   (ht : s.my.Spatial [(vs2, s.grp), (vs1, s.grp)]) : vecArith ⟨.int o, vd, vs2, .v vs1, w, m⟩ s =
   .next (s.vGives [(3, s.groups)] ⟨vd.toNat, s.grp, s.eb, false⟩ s.my.strip.vl.toNat (s.my.getV vs2).tag
        ⟨(s.acts m).map (fun j => (j, (o.apply s.eb (s.elem vs2 s.eb j) (s.elem vs1 s.eb j)).bits)), [], 
          (s.acts m).foldl (fun a j => a ||| (o.apply s.eb (s.elem vs2 s.eb j) (s.elem vs1 s.eb j)).flags) 0#5, 
          (s.acts m).foldl (fun a j => a ||| (o.apply s.eb (s.elem vs2 s.eb j) (s.elem vs1 s.eb j)).q) 0#12⟩) := by
  have hs : s.my.noStreams := h.plain
  have hg := grp_cases s
  have hsrc := h.src
  simp only [List.mem_cons, List.mem_nil_iff, or_false, forall_eq_or_imp, forall_eq] at hsrc
  refine (vecArith_next ⟨.int o, vd, vs2, .v vs1, w, m⟩ s h.onV h.start h.free h.whole ?_ hs h.sound ?_ rfl ?_ rfl (by simp) (by simp) h.some rfl).trans ?_
  · have : VInstr.sources ⟨.int o, vd, vs2, .v vs1, w, m⟩ (VInstr.shape ⟨.int o, vd, vs2, .v vs1, w, m⟩ (VInstr.capture ⟨.int o, vd, vs2, .v vs1, w, m⟩ s.my) s.myLanes.length) s.my =
      [] ++ [(vs2, s.grp), (vs1, s.grp)].map (fun g => .v g.1 g.2 w) ++ if m then [.v 0#6 1 w] else [] := by
      cases m <;> simp [VInstr.sources, VInstr.shape, Ctx.groupSrc, stream_none hs, maskOperand, maskAt] <;> rfl
    rw [this]; exact h.issues
  · have hd := h.dst
    unfold VInstr.checkIssue
    have hm : VInstr.maskOk ⟨.int o, vd, vs2, .v vs1, w, m⟩ = true := by
      cases m
      · rfl
      · simp [VInstr.maskOk, h.mask rfl]
    have hd' : (⟨vd.toNat, s.grp, s.eb, false⟩ : Group).aligned = true := by simp [Group.aligned, h.dst]
    have h2 : (⟨vs2.toNat, s.grp, s.eb, false⟩ : Group).aligned = true := by simp [Group.aligned, hsrc.1]
    have h1 : (⟨vs1.toNat, s.grp, s.eb, false⟩ : Group).aligned = true := by simp [Group.aligned, hsrc.2]
    have h0 : (maskAt 0#6).aligned = true := rfl
    have r2 := rel_same vd vs2 s.grp hg h.dst.1 hsrc.1.1 s.eb
    have r1 := rel_same vd vs1 s.grp hg h.dst.1 hsrc.2.1 s.eb
    have hsh : VInstr.shape ⟨.int o, vd, vs2, .v vs1, w, m⟩ (VInstr.capture ⟨.int o, vd, vs2, .v vs1, w, m⟩ s.my) s.myLanes.length =
      { ok := fmtInt s.fmt, dst := ⟨vd.toNat, s.grp, s.eb, false⟩, ops := ⟨⟨vs2.toNat, s.grp, s.eb, false⟩, .same, true, 1, true⟩ :: [⟨⟨vs1.toNat, s.grp, s.eb, false⟩, .same, true, 1, true⟩] ++ if m then [maskOperand] else [] } := rfl
    rw [hsh]
    have hok : fmtInt s.fmt = true := by simp [fmtInt, hf]
    simp only [hm, hok, hd']
    simp only [Rel.allows, beq_self_eq_true, Bool.and_true, Bool.or_eq_true, beq_iff_eq] at r1 r2
    have d2 : (⟨vd.toNat, s.grp, s.eb, false⟩ : Group).disjoint ⟨vs2.toNat, s.grp, s.eb, false⟩ = false → vd.toNat = vs2.toNat := fun e => r2.resolve_left (by rw [e]; simp)
    have d1 : (⟨vd.toNat, s.grp, s.eb, false⟩ : Group).disjoint ⟨vs1.toNat, s.grp, s.eb, false⟩ = false → vd.toNat = vs1.toNat := fun e => r1.resolve_left (by rw [e]; simp)
    cases m <;> simp [h2, h1, maskOperand, h0, VInstr.usesFrm, Rel.allows] <;> exact ⟨d2, d1⟩
  · refine tag_spatial _ hs _ ?_
    intro o' ho' hd k hk
    simp only [VInstr.shape] at ho'
    cases m
    · simp [List.filter] at ho'
      rcases ho' with rfl | rfl
      · exact ht (vs2, s.grp) (by simp) k hk
      · exact ht (vs1, s.grp) (by simp) k hk
    · simp [List.filter, maskOperand] at ho'
      rcases ho' with rfl | rfl | rfl
      · exact ht (vs2, s.grp) (by simp) k hk
      · exact ht (vs1, s.grp) (by simp) k hk
      · exact absurd hd (by simp)
  · have htag : VInstr.outTag ⟨.int o, vd, vs2, .v vs1, w, m⟩ (VInstr.capture ⟨.int o, vd, vs2, .v vs1, w, m⟩ s.my) (VInstr.shape ⟨.int o, vd, vs2, .v vs1, w, m⟩ (VInstr.capture ⟨.int o, vd, vs2, .v vs1, w, m⟩ s.my) s.myLanes.length) s.my = (s.my.getV vs2).tag :=
      (tagOf_plain hs _).trans (by simp)
    dsimp only
    rw [htag]
    have hprod : VInstr.produce ⟨.int o, vd, vs2, .v vs1, w, m⟩ (VInstr.capture ⟨.int o, vd, vs2, .v vs1, w, m⟩ s.my) false (VInstr.reader ⟨.int o, vd, vs2, .v vs1, w, m⟩ (VInstr.capture ⟨.int o, vd, vs2, .v vs1, w, m⟩ s.my) (VInstr.shape ⟨.int o, vd, vs2, .v vs1, w, m⟩ (VInstr.capture ⟨.int o, vd, vs2, .v vs1, w, m⟩ s.my) s.myLanes.length) s.my s.myLanes) s.my.vbeg.toNat s.my.strip.vl.toNat =
      ⟨(s.acts m).map (fun j => (j, (o.apply s.eb (s.elem vs2 s.eb j) (s.elem vs1 s.eb j)).bits)), [], 
          (s.acts m).foldl (fun a j => a ||| (o.apply s.eb (s.elem vs2 s.eb j) (s.elem vs1 s.eb j)).flags) 0#5, 
          (s.acts m).foldl (fun a j => a ||| (o.apply s.eb (s.elem vs2 s.eb j) (s.elem vs1 s.eb j)).q) 0#12⟩ := by
      have helt : ∀ j, VInstr.elt ⟨.int o, vd, vs2, .v vs1, w, m⟩ (VInstr.capture ⟨.int o, vd, vs2, .v vs1, w, m⟩ s.my) (VInstr.reader ⟨.int o, vd, vs2, .v vs1, w, m⟩ (VInstr.capture ⟨.int o, vd, vs2, .v vs1, w, m⟩ s.my) (VInstr.shape ⟨.int o, vd, vs2, .v vs1, w, m⟩ (VInstr.capture ⟨.int o, vd, vs2, .v vs1, w, m⟩ s.my) s.myLanes.length) s.my s.myLanes) j = o.apply s.eb (s.elem vs2 s.eb j) (s.elem vs1 s.eb j) := by
        intro j
        show o.apply _ (s.my.fetch _ _ _ _) (s.my.fetch _ _ _ _) = _
        rw [read_fetch hs, read_fetch hs]
        simp only [Nat.div_one]
        rfl
      unfold VInstr.produce
      simp only [helt, List.map_map, List.foldl_map, Function.comp_def]
      rfl
    rw [show (VInstr.shape ⟨.int o, vd, vs2, .v vs1, w, m⟩ (VInstr.capture ⟨.int o, vd, vs2, .v vs1, w, m⟩ s.my) s.myLanes.length).allActive = false from rfl, hprod]
    have hq : VInstr.chargeOf ⟨.int o, vd, vs2, .v vs1, w, m⟩ (VInstr.capture ⟨.int o, vd, vs2, .v vs1, w, m⟩ s.my) s.myLanes.length s.my.vbeg.toNat s.my.strip.vl.toNat =
        [(VInstr.entry ⟨.int o, vd, vs2, .v vs1, w, m⟩ (VInstr.capture ⟨.int o, vd, vs2, .v vs1, w, m⟩ s.my), s.groups)] := by
      show [(_, (_ - min _ _ + _ - 1) / _)] = _
      rw [show VInstr.readsFrom ⟨.int o, vd, vs2, .v vs1, w, m⟩ (VInstr.capture ⟨.int o, vd, vs2, .v vs1, w, m⟩ s.my) = s.my.vbeg.toNat from rfl, Nat.min_self]
      rfl
    rw [hq]
    rfl

end Sys2Proof.Machine
end

