-- ==== Sys2Proof/Tests/Slice0.lean ====
section
/-! SUPPORT. The model's own tests: words written out from the encoding chapter, ill-formed terms, single steps on small states, and for every
statement states and operands that meet its hypotheses. -/

namespace Sys2Proof.Tests
set_option Elab.async false
open Sys2Proof Sys2Proof.Machine

/-! ## Helpers -/

/-- The machine after reset with an agent's needle to move, its registers changed. -/
def at_ (a : Agent) (n : Needle) (f : Ctx → Ctx) : State := ({ State.reset with cur := (a, n) } : State).onRegs a f

/-- S of hub core 0. -/
def hubS (f : Ctx → Ctx) : State := at_ (.hub 0) .S f

/-- A needle of context 1, which runs on core 0. -/
def ctx1 (n : Needle) (f : Ctx → Ctx) : State :=
  at_ (.ctx 1) n (fun c => f { c with core := some 0, nS := { pc := 0x40#64, run := .running }, slot0 := { present := true, code := true, limit := 0x1000#48 } })

/-- Is a source register full? -/
def readyB (c : Ctx) : Src → Bool
  | .x r _ => c.isFullX r
  | .f r _ => c.isFullF r
  | .z r _ => (c.getZ r).full
  | .v r n _ => (List.range n).all (fun k => (c.getV (BitVec.ofNat 6 (r.toNat + k))).full)

theorem ready_of (c : Ctx) (q : Src) (h : readyB c q = true) : q.ready c := by
  cases q with
  | x r w => exact h
  | f r w => exact h
  | z r w => exact h
  | v r n w => intro k hk; exact List.all_eq_true.mp h k (List.mem_range.mpr hk)

/-- The checks of `Allowed` as one Bool, where no fault is pending. -/
def allowedB (s : State) (k : Machine.Class) (srcs : List Src) : Bool :=
  !s.my.interlocked s.ndl k && (k != .manager || isManager s.who) && k.allows s.ndl && (s.ndl != .S || k.inlineAllowed s.my) && srcs.all (readyB s.my)
    && s.my.pend.isEmpty && !(s.my.unseen srcs)

theorem allowed_of (s : State) (k : Machine.Class) (srcs : List Src) (h : allowedB s k srcs = true) : s.Allowed k srcs := by
  simp only [allowedB, Bool.and_eq_true, Bool.or_eq_true, Bool.not_eq_true', bne_iff_ne, List.all_eq_true, List.isEmpty_iff] at h
  obtain ⟨⟨⟨⟨⟨⟨h1, h2⟩, h3⟩, h4⟩, h5⟩, h6⟩, h7⟩ := h
  refine ⟨h1, fun e => ?_, h3, fun e => ?_, fun q hq => ready_of _ _ (h5 q hq), fun p hp => ?_, fun _ => h7⟩
  · rcases h2 with h | h
    · exact absurd e h
    · exact h
  · rcases h4 with h | h
    · exact absurd e h
    · exact h
  · rw [h6] at hp; cases hp

theorem issues_of (s : State) (k : Machine.Class) (srcs : List Src) (h : allowedB s k srcs = true) (b : s.my.returnFault s.ndl = none) : s.Issues k srcs :=
  ⟨allowed_of s k srcs h, b⟩

/-- Memory slot 1 at 0x10000, of `lim` bytes, seated in b0. -/
def seat (e : SlotEntry) : Ctx → Ctx := (·.setB 0#4 (some ⟨1#12, e, false⟩))
def rw (lim : Nat) : SlotEntry := { present := true, writable := true, base := 0x10000#48, limit := BitVec.ofNat 48 lim }
/-- Stitch pointer into slot 1. -/
def ptr (off : Nat) : Word := BitVec.ofNat 64 (2 ^ 52 + off)

/-! ## Scalar statements -/

theorem wit_IntegerArithmetic : (hubS id).Issues .base [.x 1#5 false, .x 2#5 false] := issues_of _ _ _ rfl rfl
theorem wit_IntegerArithmetic_imm : (hubS id).Issues .base [.x 31#5 false] := issues_of _ _ _ rfl rfl
theorem wit_IntegerArithmetic_classes : (hubS id).Issues .base [.x 1#5 false, .x 2#5 false] ∧ (hubS id).Issues .sOnly [.x 1#5 false, .x 2#5 false] :=
  ⟨issues_of _ _ _ rfl rfl, issues_of _ _ _ rfl rfl⟩

/-- The last word of slot 0 is a good target; the state's pc is 0x40, and `beq` with offset 0x7DE goes there. -/
theorem wit_JumpsAndBranches : (ctx1 .S id).Issues .base [.x 1#5 false, .x 2#5 false] ∧
    (ctx1 .S id).my.goodTarget ((ctx1 .S id).pc + BitVec.ofInt 64 (2 * (0x7DE#12).toInt)) ∧ (ctx1 .S id).my.goodTarget ((ctx1 .S id).pc + BitVec.ofInt 64 (2 * (0x7DE#20).toInt)) ∧
    (ctx1 .S (·.setX 1#5 0xFFC#64)).my.goodTarget (((ctx1 .S (·.setX 1#5 0xFFC#64)).my.getX 1#5 + (0#12).signExtend 64) &&& ~~~1#64) :=
  ⟨issues_of _ _ _ rfl rfl, ⟨by decide, by decide, by decide⟩, ⟨by decide, by decide, by decide⟩, ⟨by decide, by decide, by decide⟩⟩
theorem wit_BadTargets_reserved : (ctx1 .S (·.setX 1#5 0x1000000000000#64)).Allowed .base [.x 1#5 false] ∧
    (((ctx1 .S (·.setX 1#5 0x1000000000000#64)).my.getX 1#5 + (0#12).signExtend 64) &&& ~~~1#64).toNat / 2 ^ 48 % 16 ≠ 0 := ⟨allowed_of _ _ _ rfl, by decide⟩
theorem wit_BadTargets_limit : (ctx1 .S (·.setX 1#5 0x1000#64)).Allowed .base [.x 1#5 false] ∧
    (let t := ((ctx1 .S (·.setX 1#5 0x1000#64)).my.getX 1#5 + (0#12).signExtend 64) &&& ~~~1#64;
      t.toNat / 2 ^ 48 % 16 = 0 ∧ (ctx1 .S (·.setX 1#5 0x1000#64)).my.slot0.limit.toNat ≤ t.toNat) := ⟨allowed_of _ _ _ rfl, by decide⟩
theorem wit_BadTargets_slot : (ctx1 .S (·.setX 1#5 (ptr 0))).Allowed .base [.x 1#5 false] ∧
    (let t := ((ctx1 .S (·.setX 1#5 (ptr 0))).my.getX 1#5 + (0#12).signExtend 64) &&& ~~~1#64;
      t.toNat / 2 ^ 48 % 16 = 0 ∧ t.toNat ≥ 2 ^ 52) := ⟨allowed_of _ _ _ rfl, by decide⟩
theorem wit_BadTargets_align : (ctx1 .S (·.setX 1#5 0xFFE#64)).Allowed .base [.x 1#5 false] ∧
    (let t := ((ctx1 .S (·.setX 1#5 0xFFE#64)).my.getX 1#5 + (0#12).signExtend 64) &&& ~~~1#64;
      t.toNat < 2 ^ 48 ∧ t.toNat < (ctx1 .S (·.setX 1#5 0xFFE#64)).my.slot0.limit.toNat ∧ t.toNat % 4 ≠ 0) := ⟨allowed_of _ _ _ rfl, by decide⟩

/-- Slot 0's limit, 0x1000, is no good target: 0x7E0 halfwords or 0x3F0 words from 0x40, or the start of a strip or of a body. Below it stands one
that is not aligned, 2 bytes before address 0 one with reserved bits. -/
def outOf (s : State) (t : Word) : Prop := t.toNat / 2 ^ 48 % 16 = 0 ∧ s.my.slot0.limit.toNat ≤ t.toNat
theorem wit_BadTargets_jumps : (ctx1 .S id).Allowed .base [] ∧ outOf (ctx1 .S id) ((ctx1 .S id).pc + BitVec.ofInt 64 (2 * (0x7E0#20).toInt)) ∧
    ((ctx1 .S id).pc + BitVec.ofInt 64 (2 * (0x7DF#20).toInt)).toNat % 4 = 2 ∧ ((ctx1 .S id).pc + BitVec.ofInt 64 (2 * (0xFFFDF#20).toInt)).toNat / 2 ^ 48 % 16 = 15 ∧
    (ctx1 .S (·.setX 2#5 1#64)).Allowed .base [.x 1#5 false, .x 2#5 false] ∧ outOf (ctx1 .S id) ((ctx1 .S id).pc + BitVec.ofInt 64 (2 * (0x7E0#12).toInt)) ∧
    (let a := (ctx1 .S (·.setX 2#5 1#64)).my.getX 1#5
     let b := (ctx1 .S (·.setX 2#5 1#64)).my.getX 2#5
     a ≠ b ∧ a.toInt < b.toInt ∧ a.toNat < b.toNat ∧ a = a ∧ a.toInt ≤ b.toInt ∧ a.toNat ≤ b.toNat) :=
  ⟨allowed_of _ _ _ rfl, by unfold outOf; decide, by decide, by decide, allowed_of _ _ _ rfl, by unfold outOf; decide, by decide⟩
def farStrip : State := ctx1 .S (fun c => { c with strip := { srem := 20#64, vl := 16#64, opened := true, owner := .S, start := 0x1000#64, sptr := 0x000000C5#32 } })
theorem wit_BadTargets_strip : farStrip.Allowed .base ((sptrRegs farStrip.my.strip.sptr).map (fun e => .x e.1 false)) ∧ farStrip.my.strip.opened = true ∧ farStrip.my.strip.owner = farStrip.ndl ∧
    farStrip.pc + BitVec.ofInt 64 (4 * (0x3F0#11).toInt) = farStrip.my.strip.start ∧ farStrip.my.strip.vl.toNat < farStrip.my.strip.srem.toNat ∧ outOf farStrip 0x1000#64 ∧
    (ctx1 .S id).Allowed .sOnly [] ∧ (ctx1 .S id).my.nV.active = false ∧ (ctx1 .S id).my.nM.active = false ∧ (ctx1 .S id).my.nC.active = false :=
  ⟨allowed_of _ _ _ rfl, rfl, rfl, by decide, by decide, by unfold outOf; decide, allowed_of _ _ _ rfl, rfl, rfl, rfl⟩
/-- Two levels that end at the pc, 0x40, and start at slot 0's limit. -/
def farLoops : State := ctx1 .S (fun c => { c with nS := { c.nS with loops := [⟨0x1000#64, 0x40#64, 2#64, 0#64⟩, ⟨0x1000#64, 0x40#64, 2#64, 0#64⟩] } })
theorem wit_BadTargets_loop : (∃ l rest, (farLoops.my.needle farLoops.ndl).loops = l :: rest ∧ l.index.toNat + 1 < l.count.toNat ∧ l.last = farLoops.pc ∧ outOf farLoops l.start) ∧
    (∃ l m rest, (farLoops.my.needle farLoops.ndl).loops = l :: m :: rest ∧ m.last = l.last ∧ m.index.toNat + 1 < m.count.toNat ∧ outOf farLoops m.start) ∧ farLoops.Allowed .base [] ∧
    farLoops.Allowed .base [.x 1#5 false] ∧ (fun s : State => (s, Act.done)) farLoops = (farLoops, .done) :=
  ⟨⟨_, _, rfl, by decide, rfl, by unfold outOf; decide⟩, ⟨_, _, _, rfl, rfl, by decide, by unfold outOf; decide⟩, allowed_of _ _ _ rfl, allowed_of _ _ _ rfl, rfl⟩

/-- A context whose slot 1 has 64 bytes and whose x1 points at offset `off` of it. -/
def mem1 (off : Nat) : State := ctx1 .S (fun c => (seat (rw 64) c).setX 1#5 (ptr off))

/-- The last bytes below the limit, for each width, read and written. -/
theorem wit_LoadsAndStores : (mem1 0).Issues .sOnly [.x 1#5 false, .x 2#5 false] ∧
    (mem1 63).plainAccess ((mem1 63).my.view (mem1 63).who) ((mem1 63).my.getX 1#5 + (0#12).signExtend 64) { size := 1, align := 1, write := false, mmio := true } = .ok ⟨0x1003F, 0, .hbm⟩ ∧
    (mem1 63).plainAccess ((mem1 63).my.view (mem1 63).who) ((mem1 63).my.getX 1#5 + (0#12).signExtend 64) { size := 1, align := 1, write := true, mmio := true } = .ok ⟨0x1003F, 0, .hbm⟩ ∧
    (mem1 62).plainAccess ((mem1 62).my.view (mem1 62).who) ((mem1 62).my.getX 1#5 + (0#12).signExtend 64) { size := 2, align := 2, write := false, mmio := true } = .ok ⟨0x1003E, 0, .hbm⟩ ∧
    (mem1 62).plainAccess ((mem1 62).my.view (mem1 62).who) ((mem1 62).my.getX 1#5 + (0#12).signExtend 64) { size := 2, align := 2, write := true, mmio := true } = .ok ⟨0x1003E, 0, .hbm⟩ ∧
    (mem1 60).plainAccess ((mem1 60).my.view (mem1 60).who) ((mem1 60).my.getX 1#5 + (0#12).signExtend 64) { size := 4, align := 4, write := false, mmio := true } = .ok ⟨0x1003C, 0, .hbm⟩ ∧
    (mem1 60).plainAccess ((mem1 60).my.view (mem1 60).who) ((mem1 60).my.getX 1#5 + (0#12).signExtend 64) { size := 4, align := 4, write := true, mmio := true } = .ok ⟨0x1003C, 0, .hbm⟩ ∧
    (mem1 56).plainAccess ((mem1 56).my.view (mem1 56).who) ((mem1 56).my.getX 1#5 + (0#12).signExtend 64) { size := 8, align := 8, write := false, mmio := true } = .ok ⟨0x10038, 0, .hbm⟩ ∧
    (mem1 56).plainAccess ((mem1 56).my.view (mem1 56).who) ((mem1 56).my.getX 1#5 + (0#12).signExtend 64) { size := 8, align := 8, write := true, mmio := true } = .ok ⟨0x10038, 0, .hbm⟩ :=
  ⟨issues_of _ _ _ rfl rfl, rfl, rfl, rfl, rfl, rfl, rfl, rfl, rfl⟩
theorem wit_StoreFrame : (mem1 56).Issues .sOnly [.x 1#5 false, .x 2#5 false, .f 3#5 false] ∧ (∃ t, exec (.sd 1#5 2#5 0#12) (mem1 56) = .next t) ∧
    (∃ t, exec (.fsd 1#5 3#5 0#12) (mem1 56) = .next t) ∧ (mem1 56).keyValid 0 0x10038 := ⟨issues_of _ _ _ rfl rfl, ⟨_, rfl⟩, ⟨_, rfl⟩, fun _ => rfl⟩

/-- A context whose slot 1 has an entry, and whose x1 points at offset `off` of it. -/
def mem2 (e : SlotEntry) (absent : Bool) (p : Word) : State := ctx1 .S (fun c => (c.setB 0#4 (some ⟨1#12, e, absent⟩)).setX 1#5 p)

theorem wit_AccessChecks_form : (mem2 (rw 64) false 0x1000000000000#64).Allowed .sOnly [.x 1#5 false, .x 2#5 false] ∧
    ((mem2 (rw 64) false 0x1000000000000#64).my.getX 1#5 + (0#12).signExtend 64).toNat / 2 ^ 48 % 16 ≠ 0 := ⟨allowed_of _ _ _ rfl, by decide⟩
theorem wit_AccessChecks_unseated : (mem2 (rw 64) false (BitVec.ofNat 64 (4031 * 2 ^ 52))).Allowed .sOnly [.x 1#5 false, .x 2#5 false] ∧
    (let s := mem2 (rw 64) false (BitVec.ofNat 64 (4031 * 2 ^ 52))
     let p := s.my.getX 1#5 + (0#12).signExtend 64
     p.toNat / 2 ^ 48 % 16 = 0 ∧ p.toNat / 2 ^ 52 = 4031 ∧ ∀ t ∈ s.my.b.toList.filterMap id, t.slot.toNat ≠ p.toNat / 2 ^ 52) := ⟨allowed_of _ _ _ rfl, by decide⟩
/-- What the clauses on a seated slot ask of a state: slot 1 is named, and this is its seat. -/
def seated (e : SlotEntry) (absent : Bool) (off : Nat) : Prop :=
  (mem2 e absent (ptr off)).Allowed .sOnly [.x 1#5 false, .x 2#5 false] ∧
    ((mem2 e absent (ptr off)).my.b.toList.filterMap id).find? (fun t => t.slot.toNat = ((mem2 e absent (ptr off)).my.getX 1#5 + (0#12).signExtend 64).toNat / 2 ^ 52)
      = some ⟨1#12, e, absent⟩
theorem wit_AccessChecks_absent : seated (rw 64) true 0 := ⟨allowed_of _ _ _ rfl, by decide⟩
theorem wit_AccessChecks_packed : seated { rw 64 with packed := true } false 0 := ⟨allowed_of _ _ _ rfl, by decide⟩
theorem wit_AccessChecks_align : seated (rw 64) false 1 ∧ 1 % 8 ≠ 0 := ⟨⟨allowed_of _ _ _ rfl, by decide⟩, by decide⟩
theorem wit_AccessChecks_limit : seated (rw 63) false 56 ∧ (rw 63).limit.toNat < 56 + 8 := ⟨⟨allowed_of _ _ _ rfl, by decide⟩, by decide⟩
theorem wit_AccessChecks_readonly : seated { rw 64 with writable := false } false 56 ∧ (rw 64).base.toNat / 256 * 256 + (rw 64).limit.toNat ≤ 2 ^ 39 :=
  ⟨⟨allowed_of _ _ _ rfl, by decide⟩, by decide⟩
theorem wit_AccessChecks_code : seated { rw 64 with code := true } false 56 := ⟨allowed_of _ _ _ rfl, by decide⟩
theorem wit_AccessChecks_pass : (let c := (mem1 56).my
    (c.b.toList.filterMap id).find? (fun t => t.slot.toNat = (ptr 56).toNat / 2 ^ 52) = some ⟨1#12, rw 64, false⟩ ∧ (ptr 56).toNat / 2 ^ 48 % 16 = 0 ∧ 56 + 8 ≤ (rw 64).limit.toNat ∧
    (rw 64).writable = true ∧ (rw 64).code = false ∧ (mem1 56).badMem = []) := by decide

/-- Is the outcome of an access this access, this fault? -/
def okB (x : Except MemFault Access) (a : Access) : Bool := match x with
  | .ok b => b == a
  | .error _ => false
theorem ok_of (x : Except MemFault Access) (a : Access) (h : okB x a = true) : x = .ok a := by
  cases x with
  | ok b => simp only [okB, beq_iff_eq] at h; rw [h]
  | error e => cases h
def errB (x : Except MemFault Access) (f : MemFault) : Bool := match x with
  | .error g => g == f
  | .ok _ => false

/-- The word at 0x10038, the last of slot 1, is uncorrectable. -/
def badWord1 : State := { mem1 56 with badMem := [(0x2007, ())] }
/-- A 16-byte barrier operation, a copy's read of a K slot, a 4-byte AMO and an 8-byte store of the bad word: each at a boundary of its clause. -/
theorem wit_AccessChecks_need : (∀ q ∈ [({ size := 16, align := 16, kind := .barrier } : Need), { size := 4, align := 4, write := true, rmw := true, kind := .rmw }, { size := 128, align := 128 }],
      q.size ≤ 128 ∧ 0 < q.size ∧ 0 < q.align) ∧ 0x10000 + 64 ≤ 2 ^ 39 ∧
    badWord1.badFor (false || !false) (0x10000 + 56) 8 = some 0x10038 ∧ badWord1.badFor (true || !true) (0x10000 + 60) 4 = some 0x10038 ∧ badWord1.badFor (false || !true) (0x10000 + 56) 8 = none ∧
    badWord1.badFor (false || !true) (0x10000 + 60) 4 = some 0x10038 ∧ badWord1.badFor (true || !true) (0x10000 + 48) 8 = none := by decide
/-- Core 0 names core 1's scratchpad, the last 8 bytes of it; core 1 quiesced or not, the cable mask open or not. -/
def peers (allow quiesced : Bool) : State :=
  { ctx1 .S (fun c => { c with fixed := (Core.start 0).fixed }) with cores := [(1, { Core.start 1 with quiesced := quiesced })], cable := if allow then [(0, 2#128)] else [] }
theorem wit_AccessChecks_cluster : (let p : Word := BitVec.ofNat 64 (4094 * 2 ^ 52 + 2 ^ 18 + (2 ^ 18 - 8))
    let v := (peers true true).my.view (.ctx 1)
    let off := p.toNat % 2 ^ 48
    p.toNat / 2 ^ 48 % 16 = 0 ∧ v.core = some 0 ∧ p.toNat / 2 ^ 52 = 4094 ∧ off < 2 ^ 25 ∧ Support.any ≠ .lock ∧ off % 8 = 0 ∧ off / 2 ^ 18 = 1 ∧ 1 ≠ 0 % 128 ∧ off % 2 ^ 18 + 8 ≤ 2 ^ 18 ∧
      off % 2 ^ 18 + 8 ≤ (v.fixed.get 3).limit.toNat ∧ off % 2 ^ 18 + 8 ≤ ((peers true true).fixedOf 1 3).limit.toNat ∧
      regionOf (((peers true true).fixedOf 1 3).base.toNat + off % 2 ^ 18) = some .spad ∧ regionOf (((peers true true).fixedOf 1 3).base.toNat + off % 2 ^ 18 + 8 - 1) = some .spad ∧
      (peers false false).cableAllows 0 0 1 = false ∧ (peers true true).cableAllows 0 0 1 = true ∧ ((peers true true).core 1).quiesced = true) := by decide +kernel
/-- A pointer with reserved bits fails every need. -/
theorem wit_AccessChecks_forms : (mem2 (rw 64) false 0x1000000000000#64).Allowed .sOnly [.x 1#5 false, .x 2#5 false, .f 2#5 false] ∧ (mem2 (rw 64) false 0x1000000000000#64).Allowed .sOnly [.x 1#5 true, .x 2#5 true] ∧
    (let s := mem2 (rw 64) false 0x1000000000000#64
     [({ size := 1, align := 1, mmio := true } : Need), { size := 2, align := 2, write := true, mmio := true }, { size := 4, align := 4, write := true, rmw := true, kind := .rmw },
      { size := 8, align := 8, write := true, kind := .rmw }, { size := 16, align := 16, write := true, rmw := true, kind := .barrier }, { size := 16, align := 16, rmw := true, kind := .barrier }].all
       (fun q => errB (s.access (s.my.view s.who) 0x1000000000000#64 q) ⟨0x06#8, 0x1000000000000#64, 0#64⟩ && errB (s.plainAccess (s.my.view s.who) 0x1000000000000#64 q) ⟨0x06#8, 0x1000000000000#64, 0#64⟩) = true) :=
  ⟨allowed_of _ _ _ rfl, allowed_of _ _ _ rfl, by decide +kernel⟩

/-- The host bars bytes 0x10 to 0x17 of its memory to function 5; slot 1 of a context of function 5 leads there. -/
def barred : State := { ctx1 .S (fun c => { seat { rw 64 with base := 0x20000000000#48 } c with vf := 5 }.setX 1#5 (ptr 16)) with hostBars := [(5, 0x20000000010, 8)] }
theorem wit_AccessChecks_host : (let c := barred.my
    (c.b.toList.filterMap id).find? (fun t => t.slot.toNat = (ptr 16).toNat / 2 ^ 52) = some ⟨1#12, { rw 64 with base := 0x20000000000#48 }, false⟩ ∧ (ptr 16).toNat / 2 ^ 48 % 16 = 0 ∧
    barred.hostRejects (if isManager (.ctx 1) then 0 else c.vf) (0x20000000000 + 16) 8 = true) := by decide

/-- An AMO at the last word of the slot; an LR that reserves its granule and an SC that finds it, and one that does not. -/
theorem wit_Atomics : (mem1 56).Issues .sOnly [.x 1#5 false, .x 2#5 false] ∧
    (mem1 56).access ((mem1 56).my.view (mem1 56).who) ((mem1 56).my.getX 1#5) { size := 8, align := 8, write := true, rmw := true, kind := .rmw } = .ok ⟨0x10038, 0, .hbm⟩ ∧
    (mem1 60).access ((mem1 60).my.view (mem1 60).who) ((mem1 60).my.getX 1#5) { size := 4, align := 4, write := true, rmw := true, kind := .rmw } = .ok ⟨0x1003C, 0, .hbm⟩ ∧
    (mem1 60).access ((mem1 60).my.view (mem1 60).who) ((mem1 60).my.getX 1#5) { size := 4, align := 4, write := true, kind := .rmw } = .ok ⟨0x1003C, 0, .hbm⟩ ∧
    (mem1 60).access ((mem1 60).my.view (mem1 60).who) ((mem1 60).my.getX 1#5) { size := 4, align := 4, kind := .rmw } = .ok ⟨0x1003C, 0, .hbm⟩ ∧
    (mem1 56).my.resv ≠ some (0x10038 / 16) ∧ ((mem1 56).onMy (fun c => { c with resv := some 0x1003 })).my.resv = some (0x10038 / 16) :=
  ⟨issues_of _ _ _ rfl rfl, rfl, rfl, rfl, rfl, by decide, by decide⟩

/-- Core 0 and granules 0 and 2 of its scratchpad, which core 1 has written at count 1, which core 0 does not know; x1 points at offset `off` of it, with a strip of FP64 elements. -/
def racy (off : Nat) : State :=
  let s := ctx1 .S (fun c => { c.setX 1#5 (BitVec.ofNat 64 (4095 * 2 ^ 52 + off)) with fixed := (Core.start 0).fixed, strip := { opened := true, owner := .S, vl := 1#64, vtype := 1#2 ++ 7#4 } }.setV 0#6 { data := 1#16384 })
  { s with cores := [(1, { Core.start 1 with rel := 1 })], granules := [(0, { tag := 1#12 ++ 1#16 }), (2, { tag := 1#12 ++ 1#16 })] }
/-- What `racing` asks of a granule. -/
def racing (s : State) (q g : Nat) : Bool :=
  let tag := (s.granule g).tag
  let w := (tag.extractLsb' 16 12).toNat
  let known := (BitVec.ofNat 16 (Sparse.at (s.core q).know.counts 0 w) - tag.extractLsb' 0 16).toNat
  tag != 0#28 && w != q && w / 128 == q / 128 && decide ((s.core w).rel < (s.granule g).rel + 32768) && (known == 0 || decide (32768 < known)) &&
    decide ((s.core q).since ≤ (s.granule g).wrote) && decide (Sparse.at (s.core q).know.past 0 w ≤ (s.granule g).wrote)
/-- Byte 15 of granule 0; its upper half, at offset 8; 16 bytes that begin in granule 1, which does not race, and end in granule 2. -/
theorem wit_RaceTrap : racing (racy 0) 0 0 = true ∧ racing (racy 0) 0 2 = true ∧ racing (racy 0) 0 1 = false ∧ (racy 8).my.core = some 0 ∧ (racy 8).Allowed .sOnly [.x 1#5 false, .x 2#5 false, .f 2#5 false] ∧
    okB ((racy 15).access ((racy 15).my.view (racy 15).who) ((racy 15).my.getX 1#5 + (0#12).signExtend 64) { size := 1, align := 1, write := false, mmio := true }) ⟨spadStart + 15, 0, .spad⟩ = true ∧
    okB ((racy 8).access ((racy 8).my.view (racy 8).who) ((racy 8).my.getX 1#5 + (0#12).signExtend 64) { size := 8, align := 8, write := true, mmio := true }) ⟨spadStart + 8, 0, .spad⟩ = true ∧
    okB ((racy 24).access ((racy 24).my.view (racy 24).who) ((racy 24).my.getX 1#5) { size := 16, align := 1, copy := true }) ⟨spadStart + 24, 0, .spad⟩ = true ∧
    granuleOf (spadStart + 15) = 0 ∧ granuleOf (spadStart + 8 + 8 - 1) = 0 ∧ granuleOf (spadStart + 24) = 1 ∧ granuleOf (spadStart + 24 + 16 - 1) = 2 :=
  ⟨by decide, by decide, by decide, rfl, allowed_of _ _ _ rfl, by decide +kernel, by decide +kernel, by decide +kernel, by decide, by decide, by decide, by decide⟩

/-! ## Floating point -/

theorem wit_FloatArithmetic : (hubS id).Issues .sOnly [.f 1#5 false, .f 2#5 false, .f 3#5 false] ∧ rmOf 4#3 = some .rmm ∧ rmOf (hubS (fun c => { c with frm := 3#3 })).my.frm = some .rup ∧
    (∃ n k e, fp64.value 0x3FF0000000000000 = .fin n (k + 1) e) ∧ (∃ g f, fp64.value 0x8000000000000000 = .fin g 0 f) ∧ (∃ k e, fp64.value 0x8000000000000001 = .fin true (k + 1) e) ∧
    ∃ e, fp64.value 0x8000000000000000 = .fin true 0 e :=
  ⟨issues_of _ _ _ rfl rfl, rfl, rfl, ⟨false, 2 ^ 52 - 1, _, rfl⟩, ⟨true, _, rfl⟩, ⟨0, _, rfl⟩, ⟨_, rfl⟩⟩
theorem wit_FloatArithmetic_noMode : (hubS (fun c => { c with frm := 5#3 })).Allowed .sOnly [.f 1#5 false, .f 2#5 false, .f 3#5 false, .x 1#5 false] ∧ 5 ≤ (hubS (fun c => { c with frm := 5#3 })).my.frm.toNat :=
  ⟨allowed_of _ _ _ rfl, by decide⟩
theorem wit_FloatSelectCompareMove : (hubS id).Issues .sOnly [.f 1#5 false, .f 2#5 false] ∧ (hubS id).Issues .sOnly [.f 1#5 false, .f 2#5 false, .x 1#5 false] ∧
    (fp64.value 0x7FF0000000000001).isNan = true ∧ (fp64.value 0x7FF0000000000000).isNan = false ∧ (fp64.value 0x8000000000000000).isZero = true ∧ (fp64.value 1).isZero = false :=
  ⟨issues_of _ _ _ rfl rfl, issues_of _ _ _ rfl rfl, rfl, rfl, rfl, rfl⟩
theorem wit_FloatConvert : (hubS id).Issues .sOnly [.f 1#5 false, .x 1#5 false] ∧ rmOf 1#3 = some .rtz := ⟨issues_of _ _ _ rfl rfl, rfl⟩
/-- The largest number of each format. -/
theorem wit_RoundingKeepsNumbers : (∃ n m e, fp64.value 0x7FEFFFFFFFFFFFFF = .fin n m e) ∧ (∃ n m e, e4m3.value 0xFE = .fin n m e) ∧ (∃ n m e, fp4.value 0xF = .fin n m e) ∧ 0xF < 2 ^ fp4.width :=
  ⟨⟨_, _, _, rfl⟩, ⟨_, _, _, rfl⟩, ⟨_, _, _, rfl⟩, by decide⟩

/-! ## Retirement, traps, issue -/

/-- A needle at the last word of a body, with these levels open. -/
def looped (ls : List Level) : State := ctx1 .S (fun c => { c with nS := { c.nS with loops := ls } })
theorem wit_Retirement : (hubS id).cur = (hubS id).cur ∧ (hubS id).my.stepping = false ∧ (∀ l ∈ ((hubS id).my.needle .S).loops.head?, l.last ≠ ((hubS id).my.needle .S).pc) := ⟨rfl, rfl, by decide⟩
theorem wit_Retirement_again : (looped [⟨0x30#64, 0x40#64, 2#64, 0#64⟩]).my.nS.pc = 0x40#64 ∧ (0#64).toNat + 1 < (2#64).toNat := by decide
theorem wit_Retirement_close : (looped [⟨0x30#64, 0x40#64, 2#64, 1#64⟩, ⟨0x20#64, 0x48#64, 2#64, 0#64⟩]).my.nS.pc = 0x40#64 ∧ (2#64).toNat ≤ (1#64).toNat + 1 := by decide
theorem wit_Retirement_outer : (looped [⟨0x30#64, 0x40#64, 2#64, 1#64⟩, ⟨0x20#64, 0x40#64, 2#64, 0#64⟩]).my.nS.pc = 0x40#64 ∧ (2#64).toNat ≤ (1#64).toNat + 1 ∧ (0#64).toNat + 1 < (2#64).toNat := by decide
theorem wit_TrapEntry : (ctx1 .S id).Allowed .sOnly [] ∧ (ctx1 .S id).who = .ctx 1 ∧ (hubS id).Allowed .sOnly [] ∧ (hubS id).who = .hub 0 := ⟨allowed_of _ _ _ rfl, rfl, allowed_of _ _ _ rfl, rfl⟩

/-- x1 and f1 are empty. -/
def emptied : State := ctx1 .S (fun c => { c with xFull := ~~~2#32, fFull := ~~~2#32 })
theorem wit_IssueTraps_empty : emptied.Allowed .base [.x 2#5 false] ∧ emptied.my.isFullX 1#5 = false ∧ emptied.Allowed .sOnly [.f 2#5 false] ∧ emptied.my.isFullF 1#5 = false :=
  ⟨allowed_of _ _ _ rfl, by decide, allowed_of _ _ _ rfl, by decide⟩
theorem wit_IssueTraps_forms : emptied.Allowed .sOnly [.x 2#5 false] ∧ rmOf 4#3 ≠ none ∧ emptied.readCsr 0x003 ≠ none ∧ csrManager 0x003 = false ∧ csrReadOnly 0x003 = false ∧ emptied.Allowed .base [] ∧
    emptied.Allowed .sOnly [] ∧ (4#5).toNat ≤ 4 ∧ (emptied.my.needle emptied.ndl).part = none ∧ emptied.my.memHeld = false ∧ emptied.fmt ≤ 9 ∧ (8#6).toNat % emptied.grp = 0 ∧ emptied.Allowed .matrix [] ∧ emptied.my.matQ = [] ∧
    (hubS (fun c => { c with xFull := ~~~2#32 })).Allowed .manager [] ∧ (hubS (fun c => { c with xFull := ~~~2#32 })).my.isFullX 1#5 = false :=
  ⟨allowed_of _ _ _ rfl, by decide, by decide, rfl, rfl, allowed_of _ _ _ rfl, allowed_of _ _ _ rfl, by decide, rfl, by decide, by decide, by decide, allowed_of _ _ _ rfl, rfl, allowed_of _ _ _ rfl, by decide⟩
theorem wit_IssueTraps_needle : (ctx1 .V id).ndl = .V ∧ (ctx1 .M id).ndl = .M ∧ (ctx1 .C id).ndl = .C ∧ isManager (ctx1 .S id).who = false ∧
    (ctx1 .S (fun c => { c with nV := { run := .running } })).my.nV.active = true ∧ (ctx1 .S (fun c => { c with nM := { run := .running } })).my.nM.active = true ∧
    (ctx1 .S (fun c => { c with nC := { run := .running } })).my.nC.active = true := by decide

/-! ## Loops, strips, needles, ends -/

/-- One level open around the pc, ending at 0x60. -/
def one (n : Nat) : State := looped (List.replicate n ⟨0x30#64, 0x60#64, 2#64, 0#64⟩)
theorem wit_LoopInstructions : ((one 5).onMy (·.setX 1#5 1#64)).Allowed .base [.x 1#5 true] ∧ ((one 5).onMy (·.setX 1#5 1#64)).my.getX 1#5 ≠ 0#64 ∧ (one 5).my.nS.loops.length < 6 ∧
    (∀ l ∈ (one 5).my.nS.loops.head?, ((one 5).pc + BitVec.ofInt 64 (4 * (8#11).toInt)).toNat ≤ l.last.toNat) := ⟨allowed_of _ _ _ rfl, by decide, by decide, by decide⟩
theorem wit_LoopInstructions_zero : (one 5).Allowed .base [.x 1#5 true] ∧ (one 5).my.getX 1#5 = 0#64 ∧
    (let r := endOfBody ((one 5).pc + BitVec.ofInt 64 (4 * (8#11).toInt)) (one 5).my.nS.loops; r.2.2 = true ∧ (one 5).my.goodTarget r.1) :=
  ⟨allowed_of _ _ _ rfl, by decide, by decide, ⟨by decide, by decide, by decide⟩⟩
theorem wit_LoopInstructions_full : 6 ≤ (one 6).my.nS.loops.length ∧ (one 6).Allowed .base [.x 1#5 true] := ⟨by decide, allowed_of _ _ _ rfl⟩
theorem wit_LoopInstructions_outside : (∃ l ∈ (one 1).my.nS.loops.head?, l.last.toNat < ((one 1).pc + BitVec.ofInt 64 (4 * (9#11).toInt)).toNat) ∧ (0#11).toInt ≤ 0 ∧ (one 0).my.nS.loops = [] :=
  ⟨⟨_, rfl, by decide⟩, by decide, rfl⟩
theorem wit_LoopInstructions_next : (∃ l rest, (one 2).my.nS.loops = l :: rest) ∧
    (let r := endOfBody 0x60#64 (one 2).my.nS.loops; r.2.2 = true ∧ (one 2).my.goodTarget r.1) ∧ (let r := endOfBody 0x60#64 (one 1).my.nS.loops; r.2.2 = true ∧ (one 1).my.goodTarget r.1) :=
  ⟨⟨_, _, rfl⟩, ⟨by decide, ⟨by decide, by decide, by decide⟩⟩, ⟨by decide, ⟨by decide, by decide, by decide⟩⟩⟩

/-- A strip that S has opened at 0x30 (its `vstrip` at 0x40), with `srem` and `vl` elements. -/
def strip (srem vl : Nat) (req : Option Request) : State :=
  ctx1 .S (fun c => { c with strip := { srem := BitVec.ofNat 64 srem, vl := BitVec.ofNat 64 vl, opened := true, owner := .S, start := 0x30#64, sptr := 0x000000C5#32 }, request := req })
theorem wit_Strips_open : (ctx1 .S id).Issues .base [.x 1#5 true] ∧ (ctx1 .S id).my.request = none ∧ (ctx1 .S id).my.strip.opened = false ∧
    (strip 20 16 none).Issues .base [.x 1#5 true] ∧ (strip 20 16 none).my.strip.owner = (strip 20 16 none).ndl := ⟨issues_of _ _ _ rfl rfl, rfl, rfl, issues_of _ _ _ rfl rfl, rfl⟩
theorem wit_Strips_yield : (strip 20 16 (some .yield)).Allowed .base [] ∧ (strip 20 16 (some .yield)).my.request ≠ none := ⟨allowed_of _ _ _ rfl, by decide⟩
theorem wit_Strips_close : (strip 16 16 none).Issues .base ((sptrRegs (strip 16 16 none).my.strip.sptr).map (fun e => .x e.1 false)) ∧ (strip 16 16 none).my.strip.opened = true ∧
    (strip 16 16 none).pc + BitVec.ofInt 64 (4 * (0x7FC#11).toInt) = 0x30#64 ∧ BitVec.ofNat 64 (16 - 16) = 0#64 := ⟨issues_of _ _ _ rfl rfl, rfl, by decide, by decide⟩
theorem wit_Strips_again : (strip 20 16 none).Issues .base ((sptrRegs (strip 20 16 none).my.strip.sptr).map (fun e => .x e.1 false)) ∧ BitVec.ofNat 64 (20 - 16) ≠ 0#64 ∧
    (strip 20 16 none).my.goodTarget 0x30#64 := ⟨issues_of _ _ _ rfl rfl, by decide, ⟨by decide, by decide, by decide⟩⟩
theorem wit_Strips_other : (strip 20 16 none |>.onMy fun c => { c with strip := { c.strip with owner := .V } }).Allowed .base [.x 1#5 true] ∧
    (strip 20 16 none |>.onMy fun c => { c with strip := { c.strip with owner := .V } }).my.strip.owner ≠ .S := ⟨allowed_of _ _ _ rfl, by decide⟩
theorem wit_Strips_bad : (ctx1 .S id).Allowed .base ((sptrRegs (ctx1 .S id).my.strip.sptr).map (fun e => .x e.1 false)) ∧ (ctx1 .S id).my.strip.opened = false := ⟨allowed_of _ _ _ rfl, rfl⟩

theorem wit_Needles_fork : (ctx1 .S id).Issues .sOnly [] ∧ ¬ ((ctx1 .S id).my.nV.active = true ∨ (ctx1 .S id).my.nM.active = true ∨ (ctx1 .S id).my.nC.active = true) ∧
    (ctx1 .S id).my.goodTarget ((ctx1 .S id).pc + BitVec.ofInt 64 (4 * (0x3ED#11).toInt)) ∧
    (∃ a, (ctx1 .S id).access ((ctx1 .S id).my.view (ctx1 .S id).who) ((ctx1 .S id).pc + BitVec.ofInt 64 (4 * (0x3ED#11).toInt)) { size := 12, align := 4 } = .ok a) :=
  ⟨issues_of _ _ _ rfl rfl, by decide, ⟨by decide, by decide, by decide⟩, ⟨_, rfl⟩⟩
/-- The block's third word lies at slot 0's limit. -/
theorem wit_Needles_limit : (ctx1 .S id).Allowed .sOnly [] ∧ (ctx1 .S id).my.goodTarget ((ctx1 .S id).pc + BitVec.ofInt 64 (4 * (0x3EE#11).toInt)) ∧ (ctx1 .S id).my.slot0.packed = false ∧
    (ctx1 .S id).my.slot0.limit.toNat < ((ctx1 .S id).pc + BitVec.ofInt 64 (4 * (0x3EE#11).toInt)).toNat + 12 := ⟨allowed_of _ _ _ rfl, ⟨by decide, by decide, by decide⟩, rfl, by decide⟩
/-- V runs too. -/
def two (r : Run) : State := ctx1 .S (fun c => { c with nV := { pc := 0x80#64, run := r } })
theorem wit_Needles_busy : (two .running).Allowed .sOnly [] ∧ (two .running).my.nV.active = true ∧ (two .running).my.drained = false := ⟨allowed_of _ _ _ rfl, rfl, by decide⟩
theorem wit_Needles_join : (ctx1 .S id).Issues .sOnly [] ∧ (ctx1 .S id).my.drained = true ∧ (ctx1 .S id).my.firstFault = none := ⟨issues_of _ _ _ rfl rfl, by decide, by decide⟩
theorem wit_Needles_meet : (two .running).Allowed .base [] ∧ ((two .running).my.setNeedle .S { (two .running).my.nS with run := .blocked (.meet 3#5) }).allMeet 3#5 = false ∧
    (two (.blocked (.meet 3#5))).Issues .base [] ∧ ((two (.blocked (.meet 3#5))).my.setNeedle .S { (two .running).my.nS with run := .blocked (.meet 3#5) }).allMeet 3#5 = true :=
  ⟨allowed_of _ _ _ rfl, by decide, issues_of _ _ _ rfl rfl, by decide⟩
theorem wit_Needles_nend : (ctx1 .V (fun c => { c with nV := { pc := 0x80#64, run := .running } })).Allowed .base [] ∧ (ctx1 .V id).ndl ≠ .S := ⟨allowed_of _ _ _ rfl, by decide⟩
theorem wit_ContextEndAndYield : (ctx1 .S id).Allowed .base [] ∧ (ctx1 .S id).ndl = .S ∧ (ctx1 .S id).my.drained = true ∧ (ctx1 .S id).my.firstFault = none ∧ (ctx1 .S id).who = .ctx 1 ∧
    (hubS id).Allowed .base [] ∧ (hubS id).my.drained = true ∧ (hubS id).my.firstFault = none ∧ (hubS id).who = .hub 0 ∧ (two .running).my.drained = false ∧ (two .running).Allowed .base [] ∧
    (ctx1 .S id).Issues .sOnly [] ∧ (hubS id).Issues .sOnly [] :=
  ⟨allowed_of _ _ _ rfl, rfl, by decide, by decide, rfl, allowed_of _ _ _ rfl, by decide, by decide, rfl, by decide, allowed_of _ _ _ rfl, issues_of _ _ _ rfl rfl, issues_of _ _ _ rfl rfl⟩

/-! ## Base registers, emptying, control registers, fences, barriers -/

/-- Entry 4031 of image 0's table at 0 is present. -/
def table : State := (ctx1 .S id).write 0 (16 * 4031) 8 (2 ^ 55)
theorem wit_BaseAndEmptying_bslot : table.Issues .sOnly [.x 1#5 false] ∧ ((0xFBF#12).setWidth 64 + table.my.getX 1#5).toNat = 4031 ∧ table.badWord (table.entryAddr table.my.image 4031) 16 = none ∧
    (table.slotEntry table.my.image 4031).present = true ∧ (table.slotEntry table.my.image 1).present = false ∧ table.badWord (table.entryAddr table.my.image 1) 16 = none :=
  ⟨issues_of _ _ _ rfl rfl, by decide, by decide, by decide, by decide, by decide⟩
theorem wit_BaseAndEmptying_range : (ctx1 .S id).Allowed .sOnly [.x 1#5 false] ∧ ((0#12).setWidth 64 + (ctx1 .S id).my.getX 1#5).toNat = 0 ∧ ((0xFC0#12).setWidth 64 + (ctx1 .S id).my.getX 1#5).toNat = 4032 :=
  ⟨allowed_of _ _ _ rfl, by decide, by decide⟩
theorem wit_BaseAndEmptying_seat : (mem1 0).Issues .sOnly [] ∧ (mem1 0).my.getB 0#4 = some ⟨1#12, rw 64, false⟩ ∧ (mem1 0).my.getB 15#4 = none := ⟨issues_of _ _ _ rfl rfl, by decide, by decide⟩
theorem wit_BaseAndEmptying_named : (ctx1 .S id).Issues .sOnly [] ∧ ((3#5 : BitVec 5) = 3#5 ∧ (7#5).toNat ≤ 7) ∧ ¬ ((0#5 = 0#5 ∧ 0#5 ≠ 0#5) ∨ 0#5 = 1#5 ∨ (0#5 = 3#5 ∧ (0#5).toNat ≤ 7)) :=
  ⟨issues_of _ _ _ rfl rfl, by decide, by decide⟩

theorem wit_ControlRegisters : (ctx1 .S id).Issues .sOnly [.x 1#5 false] ∧ csrManager 0x003 = false ∧ (ctx1 .S id).readCsr 0x003 = some 0#64 ∧ csrReadOnly 0x003 = false :=
  ⟨issues_of _ _ _ rfl rfl, rfl, by decide, rfl⟩
theorem wit_ControlRegisters_manager : (ctx1 .S id).Allowed .sOnly [] ∧ isManager (ctx1 .S id).who = false ∧ csrManager 0x7C0 = true ∧ csrManager 0x7FF = true := ⟨allowed_of _ _ _ rfl, rfl, rfl, rfl⟩
theorem wit_ControlRegisters_none : csrManager 0x000 = false ∧ (ctx1 .S id).readCsr 0x000 = none ∧ csrManager 0xC00 = false ∧ (ctx1 .S id).readCsr 0xC00 ≠ none ∧ csrReadOnly 0xC00 = true := by decide

theorem wit_FencesAndBarriers_fence : (ctx1 .S id).Issues .sOnly [] ∧ (4#5).toNat ≤ 4 ∧ (ctx1 .S id).vdrained (ctx1 .S id).who = true ∧ (ctx1 .S id).my.firstFault = none :=
  ⟨issues_of _ _ _ rfl rfl, by decide, by decide, by decide⟩
theorem wit_FencesAndBarriers_wait : (ctx1 .S (fun c => { c with vecQ := [{ word := 0#32 }] })).vdrained (.ctx 1) = false ∧
    (ctx1 .S (fun c => { c with vecQ := [{ word := 0#32 }] })).Allowed .sOnly [] := ⟨by decide, allowed_of _ _ _ rfl⟩
/-- A barrier word at the last granule of slot 1, which is in bank memory, and x2. -/
def bar (w : Nat) (x2 : Nat) : State := ((mem2 { rw 64 with base := BitVec.ofNat 48 bankStart } false (ptr 48)).onMy (·.setX 2#5 (BitVec.ofNat 64 x2))).write 0 (bankStart + 48) 16 w
abbrev barAt (s : State) (write read : Bool) : Prop :=
  s.access (s.my.view s.who) (s.my.getX 1#5) { size := 16, align := 16, write := write, rmw := read, kind := .barrier } = .ok ⟨bankStart + 48, 0, .bank⟩
def barWord (s : State) : BarWord := BarWord.ofBits (BitVec.ofNat 128 (s.read 0 (bankStart + 48) 16))
theorem wit_FencesAndBarriers_bar : (bar 1 (2 ^ 31 - 2)).Issues .sOnly [.x 1#5 true, .x 2#5 true] ∧ barAt (bar 1 (2 ^ 31 - 2)) true true ∧ barAt (bar 1 (2 ^ 31 - 2)) false true ∧ barAt (bar 1 (2 ^ 31 - 2)) true false ∧
    (barWord (bar 1 (2 ^ 31 - 2))).overrun = false ∧ (barWord (bar 1 (2 ^ 31 - 2))).pending = 1 ∧ ((bar 1 (2 ^ 31 - 2)).my.getX 2#5).toNat = 2 ^ 31 - 2 :=
  ⟨issues_of _ _ _ rfl rfl, rfl, rfl, rfl, by decide, by decide, by decide⟩
theorem wit_FencesAndBarriers_fault : (barWord (bar (2 ^ 33) 0)).overrun = true ∧ 2 ^ 31 - 1 < ((bar 0 (2 ^ 31)).my.getX 2#5).toNat ∧ (barWord (bar 1 (2 ^ 31 - 1))).pending + ((bar 1 (2 ^ 31 - 1)).my.getX 2#5).toNat > 2 ^ 31 - 1 ∧
    barAt (bar 0 (2 ^ 31)) true true := ⟨by decide, by decide, by decide, rfl⟩
theorem wit_FencesAndBarriers_phase : (barWord (bar 0 1)).phase ≠ ((bar 0 1).my.getX 2#5).getLsbD 0 ∧ (barWord (bar 0 0)).phase = ((bar 0 0).my.getX 2#5).getLsbD 0 ∧ 5 ≤ (5#5).toNat := by decide

theorem wit_ScalarFrame : (hubS id).my.undelivered [.x 1#5 false, .x 2#5 false] ∧ (∃ t, exec (.add 3#5 1#5 2#5) (hubS id) = .next t) ∧ ∃ t, exec (.fcvtLD 3#5 1#5 0#3) (hubS id) = .next t :=
  ⟨(allowed_of (hubS id) .base [.x 1#5 false, .x 2#5 false] rfl).quiet, ⟨_, rfl⟩, ⟨_, rfl⟩⟩
theorem wit_ScalarFrame_loads : (mem1 56).my.undelivered [.x 1#5 false, .x 2#5 false] ∧ (∃ t, exec (.ld 3#5 1#5 0#12) (mem1 56) = .next t) ∧ (∃ t, exec (.faddD 3#5 1#5 2#5 0#3) (mem1 56) = .next t) ∧
    ∃ t, exec (.beq 1#5 2#5 4#12) (mem1 56) = .next t := ⟨(allowed_of (mem1 56) .base [.x 1#5 false, .x 2#5 false] rfl).quiet, ⟨_, rfl⟩, ⟨_, rfl⟩, ⟨_, rfl⟩⟩
/-! ## Vector instructions -/

/-- V of context 1 at the start of an instruction: format code, group code, `vl`, `vbeg`, and one tag in every register. -/
def vecS (fmt grp vl vbeg : Nat) (tag : BitVec 6) (f : Ctx → Ctx) : State :=
  ctx1 .V (fun c => f { c with
    nV := { pc := 0x80#64, run := .running }, vbeg := BitVec.ofNat 64 vbeg, v := Vector.replicate 64 { tag := tag }
    strip := { opened := true, owner := .V, vl := BitVec.ofNat 64 vl, vtype := BitVec.ofNat 2 grp ++ BitVec.ofNat 4 fmt } })

/-- What `RunsV` and `RunsMem` ask of a state, as a Bool. -/
def vecB (s : State) (gs : List (VReg × Nat)) : Bool :=
  (List.range 64).all (fun r => (s.my.getV (BitVec.ofNat 6 r)).stream.isNone) && (s.badRegs s.who).isEmpty
    && gs.all (fun g => g.1.toNat % g.2 == 0 && decide (g.1.toNat + g.2 ≤ 64))

theorem vec_of (s : State) (gs : List (VReg × Nat)) (h : vecB s gs = true) :
    (∀ r, (s.my.getV r).stream = none) ∧ s.badRegs s.who = [] ∧ ∀ g ∈ gs, g.1.toNat % g.2 = 0 ∧ g.1.toNat + g.2 ≤ 64 := by
  simp only [vecB, Bool.and_eq_true, List.all_eq_true, List.isEmpty_iff, beq_iff_eq, decide_eq_true_eq] at h
  obtain ⟨⟨h1, h2⟩, h3⟩ := h
  refine ⟨fun r => ?_, h2, h3⟩
  have := h1 r.toNat (List.mem_range.mpr r.isLt)
  simpa using this

theorem runsV_of (s : State) (w m : Bool) (vd : VReg) (nd : Nat) (xs : List Src) (gs : List (VReg × Nat)) (h : vecB s gs = true)
    (i : allowedB s .vector (xs ++ gs.map (fun g => .v g.1 g.2 w) ++ if m then [.v 0#6 1 w] else []) = true) (b : s.my.returnFault s.ndl = none)
    (n : s.ndl = .V) (p : s.my.nV.part = none) (t : s.my.stepping = false) (d : vd.toNat % nd = 0 ∧ vd.toNat + nd ≤ 64) (k : m = true → vd ≠ 0#6)
    (e : s.my.vbeg.toNat < s.my.strip.vl.toNat) (fr : s.my.barred = false := by rfl) : s.RunsV w m vd nd xs gs :=
  let ⟨h1, h2, h3⟩ := vec_of s gs h
  ⟨issues_of _ _ _ i b, n, p, fr, t, h1, h2, d, h3, k, e⟩

theorem runsMem_of (s : State) (w m : Bool) (xs : List Src) (gs : List (VReg × Nat)) (h : vecB s gs = true)
    (i : allowedB s .sOnly (xs ++ gs.map (fun g => .v g.1 g.2 w) ++ if m then [.v 0#6 1 w] else []) = true) (b : s.my.returnFault s.ndl = none)
    (p : (s.my.needle s.ndl).part = none) (f : s.my.memHeld = false) : s.RunsMem w m xs gs :=
  let ⟨h1, h2, h3⟩ := vec_of s gs h
  ⟨issues_of _ _ _ i b, p, f, h1, h2, h3⟩

/-- Every register of these groups has a tag. -/
def tagB (c : Ctx) (gs : List (VReg × Nat)) (t : BitVec 6) : Bool := gs.all (fun g => (List.range g.2).all (fun k => (c.getV (BitVec.ofNat 6 (g.1.toNat + k))).tag == t))
theorem sameTag_of (c : Ctx) (gs : List (VReg × Nat)) (t : BitVec 6) (h : tagB c gs t = true) : c.SameTag gs t := by
  intro g hg k hk
  simp only [tagB, List.all_eq_true, beq_iff_eq] at h
  exact h g hg k (List.mem_range.mpr hk)
theorem spatial_of (c : Ctx) (gs : List (VReg × Nat)) (h : tagB c gs 0#6 = true) : c.Spatial gs := by
  intro g hg k hk; rw [sameTag_of c gs 0#6 h g hg k hk]; decide

/-- INT64, groups of two registers, elements 3 to 34 of 16 lanes, masked. -/
def vi : State := vecS 3 1 35 3 0#6 id
/-- Its x1 is empty, or the second register of its v8 group. -/
def viX : State := vecS 3 1 35 3 0#6 (fun c => { c with xFull := ~~~2#32 })
def viV : State := vecS 3 1 35 3 0#6 (fun c => c)
def viHole : State := viV.onMy (fun c => c.setV 9#6 { c.getV 9#6 with full := false })
def addX : VInstr := ⟨.int .add, 62#6, 8#6, .x 1#5, true, true⟩
def addV : VInstr := ⟨.int .add, 62#6, 16#6, .v 8#6, true, true⟩
theorem wit_IssueTraps_vector : (∀ t, exec (.vaddVx 62#6 8#6 1#5 true true) t = vecArith addX t) ∧ viX.ndl = .V ∧ viX.Allowed .vector [] ∧ (viX.my.nV.part = none ∧ viX.my.barred = false) ∧
    addX.checkIssue (addX.capture viX.my) viX.myLanes.length viX = none ∧
    (∃ before after, addX.sources (addX.shape (addX.capture viX.my) viX.myLanes.length) viX.my = before ++ .x 1#5 true :: after ∧ ∀ q ∈ before, q.ready viX.my) ∧ viX.my.isFullX 1#5 = false ∧
    (∃ before after, addV.sources (addV.shape (addV.capture viHole.my) viHole.myLanes.length) viHole.my = before ++ .v 8#6 2 true :: after ∧ ∀ q ∈ before, q.ready viHole.my) ∧
    (viHole.my.getV 9#6).full = false ∧ (viHole.my.getV 8#6).full = true :=
  ⟨fun _ => rfl, rfl, allowed_of _ _ _ rfl, ⟨rfl, rfl⟩, by decide, ⟨[], [.v 8#6 2 true, .v 0#6 1 true], by decide, nofun⟩, by decide,
    ⟨[.v 16#6 2 true], [.v 0#6 1 true], by decide +kernel, fun q h => ready_of _ _ (by rw [List.mem_singleton.mp h]; decide +kernel)⟩, by decide, by decide⟩
theorem wit_IssueTraps_class : issueClass (.mul 0 0 0) = some .sOnly ∧ (ctx1 .V id).my.interlocked (ctx1 .V id).ndl .sOnly = false ∧ issueClass .halt = some .manager ∧
    (ctx1 .S id).my.interlocked (ctx1 .S id).ndl .manager = false ∧ isManager (ctx1 .S id).who = false ∧ issueClass (.vid 8 true true) = some .vector ∧ (ctx1 .M id).my.interlocked (ctx1 .M id).ndl .vector = false ∧
    issueClass (.mzero 0) = some .matrix ∧ issueClass (.yend 0) = some .copy := by decide
theorem wit_VectorIntegerArithmetic : vi.fmt ≤ 3 ∧ vi.RunsV true true 62#6 vi.grp [] [(8#6, vi.grp), (16#6, vi.grp)] ∧ vi.my.Spatial [(8#6, vi.grp), (16#6, vi.grp)] ∧
    vi.RunsV true true 62#6 vi.grp [.x 1#5 true] [(8#6, vi.grp)] ∧ vi.my.Spatial [(8#6, vi.grp)] :=
  ⟨by decide, runsV_of _ _ _ _ _ _ _ rfl rfl rfl rfl rfl rfl (by decide) (by decide) (by decide), spatial_of _ _ rfl,
    runsV_of _ _ _ _ _ _ _ rfl rfl rfl rfl rfl rfl (by decide) (by decide) (by decide), spatial_of _ _ rfl⟩
theorem wit_VectorCompareMerge : vi.RunsV true true 1#6 1 [] [(2#6, vi.grp), (4#6, vi.grp)] ∧ vi.my.Spatial [(2#6, vi.grp), (4#6, vi.grp)] ∧ Apart (1#6, 1) (2#6, vi.grp) ∧ Apart (1#6, 1) (4#6, vi.grp) ∧
    vi.RunsV true true 1#6 1 [.x 1#5 true] [(2#6, vi.grp)] ∧ vi.RunsV true true 2#6 vi.grp [.x 1#5 true] [(2#6, vi.grp)] ∧ vi.my.SameTag [(2#6, vi.grp)] 0#6 ∧
    vi.RunsV true true 2#6 vi.grp [] [(2#6, vi.grp), (4#6, vi.grp)] ∧ vi.my.SameTag [(2#6, vi.grp), (4#6, vi.grp)] 0#6 :=
  ⟨runsV_of _ _ _ _ _ _ _ rfl rfl rfl rfl rfl rfl (by decide) (by decide) (by decide), spatial_of _ _ rfl, Or.inl (by decide), Or.inl (by decide),
    runsV_of _ _ _ _ _ _ _ rfl rfl rfl rfl rfl rfl (by decide) (by decide) (by decide), runsV_of _ _ _ _ _ _ _ rfl rfl rfl rfl rfl rfl (by decide) (by decide) (by decide), sameTag_of _ _ _ rfl,
    runsV_of _ _ _ _ _ _ _ rfl rfl rfl rfl rfl rfl (by decide) (by decide) (by decide), sameTag_of _ _ _ rfl⟩
/-- INT32, groups of four. -/
def vn : State := vecS 2 2 35 34 0#6 id
theorem wit_VectorIntegerUnary : vi.RunsV true true 62#6 vi.grp [] [(8#6, vi.grp)] ∧ vi.RunsV true true 62#6 vi.grp [] [] ∧ 1 ≤ vi.fmt ∧ vi.RunsV true true 62#6 vi.grp [] [(9#6, max 1 (vi.grp / 2))] ∧
    vi.my.Spatial [(9#6, max 1 (vi.grp / 2))] ∧ Apart (62#6, vi.grp) (9#6, max 1 (vi.grp / 2)) ∧ vn.fmt ≤ 2 ∧ vn.grp ≤ 4 ∧ vn.RunsV true true 8#6 vn.grp [] [(16#6, 2 * vn.grp)] ∧
    vn.my.Spatial [(16#6, 2 * vn.grp)] ∧ Apart (8#6, vn.grp) (16#6, 2 * vn.grp) :=
  ⟨runsV_of _ _ _ _ _ _ _ rfl rfl rfl rfl rfl rfl (by decide) (by decide) (by decide), runsV_of _ _ _ _ _ _ _ rfl rfl rfl rfl rfl rfl (by decide) (by decide) (by decide), by decide,
    runsV_of _ _ _ _ _ _ _ rfl rfl rfl rfl rfl rfl (by decide) (by decide) (by decide), spatial_of _ _ rfl, Or.inr (by decide), by decide, by decide,
    runsV_of _ _ _ _ _ _ _ rfl rfl rfl rfl rfl rfl (by decide) (by decide) (by decide), spatial_of _ _ rfl, Or.inl (by decide)⟩
theorem wit_VectorPermuteReduce : vi.RunsV true true 62#6 vi.grp [] [(8#6, vi.grp), (16#6, vi.grp)] ∧ Apart (62#6, vi.grp) (8#6, vi.grp) ∧ vi.RunsV true true 62#6 vi.grp [.x 1#5 true] [(8#6, vi.grp)] ∧
    vi.RunsV true true 62#6 vi.grp [] [(8#6, 1)] ∧ vi.RunsV true true 62#6 vi.grp [] [(8#6, vi.grp)] ∧ vi.RunsV true true 63#6 1 [] [(8#6, vi.grp)] ∧ 2 ≤ vn.fmt ∧ vn.RunsV true true 63#6 1 [] [(8#6, 1)] :=
  ⟨runsV_of _ _ _ _ _ _ _ rfl rfl rfl rfl rfl rfl (by decide) (by decide) (by decide), Or.inr (by decide), runsV_of _ _ _ _ _ _ _ rfl rfl rfl rfl rfl rfl (by decide) (by decide) (by decide),
    runsV_of _ _ _ _ _ _ _ rfl rfl rfl rfl rfl rfl (by decide) (by decide) (by decide), runsV_of _ _ _ _ _ _ _ rfl rfl rfl rfl rfl rfl (by decide) (by decide) (by decide),
    runsV_of _ _ _ _ _ _ _ rfl rfl rfl rfl rfl rfl (by decide) (by decide) (by decide), by decide, runsV_of _ _ _ _ _ _ _ rfl rfl rfl rfl rfl rfl (by decide) (by decide) (by decide)⟩
/-- FP32, groups of four; FP64, groups of eight; BF16, one register. -/
def vf : State := vecS 6 2 20 0 0#6 id
def vd : State := vecS 7 3 20 19 0#6 id
def vh : State := vecS 4 0 1 0 0#6 id
theorem wit_VectorFloatArithmetic : (4 ≤ vh.fmt ∧ vd.fmt ≤ 7 ∧ rmOf vf.my.frm = some .rne) ∧ (vd.RunsV true true 56#6 vd.grp [] [(8#6, vd.grp), (16#6, vd.grp)] ∧ vd.my.Spatial [(8#6, vd.grp), (16#6, vd.grp)]) ∧
    (vd.RunsV true true 56#6 vd.grp [.f 1#5 true] [(8#6, vd.grp)] ∧ vd.my.Spatial [(8#6, vd.grp)]) ∧ (vd.RunsV true true 56#6 vd.grp [] [(8#6, vd.grp), (16#6, vd.grp), (56#6, vd.grp)] ∧
    vd.my.Spatial [(8#6, vd.grp), (16#6, vd.grp), (56#6, vd.grp)]) ∧ (vd.RunsV true true 56#6 vd.grp [.f 1#5 true] [(8#6, vd.grp), (56#6, vd.grp)] ∧ vd.my.Spatial [(8#6, vd.grp), (56#6, vd.grp)]) :=
  ⟨by decide, ⟨runsV_of _ _ _ _ _ _ _ rfl rfl rfl rfl rfl rfl (by decide) (by decide) (by decide), spatial_of _ _ rfl⟩,
    ⟨runsV_of _ _ _ _ _ _ _ rfl rfl rfl rfl rfl rfl (by decide) (by decide) (by decide), spatial_of _ _ rfl⟩, ⟨runsV_of _ _ _ _ _ _ _ rfl rfl rfl rfl rfl rfl (by decide) (by decide) (by decide), spatial_of _ _ rfl⟩,
    runsV_of _ _ _ _ _ _ _ rfl rfl rfl rfl rfl rfl (by decide) (by decide) (by decide), spatial_of _ _ rfl⟩
theorem wit_VectorFloatArithmetic_wide : vf.fmt ≤ 6 ∧ vf.grp ≤ 4 ∧ (vf.RunsV true true 56#6 (2 * vf.grp) [] [(8#6, vf.grp), (12#6, vf.grp), (56#6, 2 * vf.grp)] ∧
    vf.my.Spatial [(8#6, vf.grp), (12#6, vf.grp), (56#6, 2 * vf.grp)] ∧ Apart (56#6, 2 * vf.grp) (8#6, vf.grp) ∧ Apart (56#6, 2 * vf.grp) (12#6, vf.grp)) ∧
    (vf.RunsV true true 56#6 (2 * vf.grp) [.f 1#5 true] [(8#6, vf.grp), (56#6, 2 * vf.grp)] ∧ vf.my.Spatial [(8#6, vf.grp), (56#6, 2 * vf.grp)] ∧ Apart (56#6, 2 * vf.grp) (8#6, vf.grp)) :=
  ⟨by decide, by decide, ⟨runsV_of _ _ _ _ _ _ _ rfl rfl rfl rfl rfl rfl (by decide) (by decide) (by decide), spatial_of _ _ rfl, Or.inr (by decide), Or.inr (by decide)⟩,
    runsV_of _ _ _ _ _ _ _ rfl rfl rfl rfl rfl rfl (by decide) (by decide) (by decide), spatial_of _ _ rfl, Or.inr (by decide)⟩
theorem wit_VectorFloatCompare : (vd.RunsV true true 63#6 1 [] [(8#6, vd.grp), (16#6, vd.grp)] ∧ vd.my.Spatial [(8#6, vd.grp), (16#6, vd.grp)] ∧ Apart (63#6, 1) (8#6, vd.grp) ∧ Apart (63#6, 1) (16#6, vd.grp)) ∧
    (vd.RunsV true true 63#6 1 [.f 1#5 true] [(8#6, vd.grp)] ∧ vd.my.Spatial [(8#6, vd.grp)]) ∧ (vd.RunsV true true 56#6 vd.grp [] [(8#6, vd.grp)] ∧ vd.my.Spatial [(8#6, vd.grp)]) ∧
    (vd.RunsV true true 56#6 vd.grp [] [(8#6, vd.grp), (16#6, vd.grp)] ∧ vd.my.SameTag [(8#6, vd.grp), (16#6, vd.grp)] 0#6) ∧
    vd.RunsV true true 56#6 vd.grp [.f 1#5 true] [(8#6, vd.grp)] ∧ vd.my.SameTag [(8#6, vd.grp)] 0#6 :=
  ⟨⟨runsV_of _ _ _ _ _ _ _ rfl rfl rfl rfl rfl rfl (by decide) (by decide) (by decide), spatial_of _ _ rfl, Or.inr (by decide), Or.inr (by decide)⟩,
    ⟨runsV_of _ _ _ _ _ _ _ rfl rfl rfl rfl rfl rfl (by decide) (by decide) (by decide), spatial_of _ _ rfl⟩,
    ⟨runsV_of _ _ _ _ _ _ _ rfl rfl rfl rfl rfl rfl (by decide) (by decide) (by decide), spatial_of _ _ rfl⟩,
    ⟨runsV_of _ _ _ _ _ _ _ rfl rfl rfl rfl rfl rfl (by decide) (by decide) (by decide), sameTag_of _ _ _ rfl⟩,
    runsV_of _ _ _ _ _ _ _ rfl rfl rfl rfl rfl rfl (by decide) (by decide) (by decide), sameTag_of _ _ _ rfl⟩
/-- CFP32, groups of two, the tag of a half-spectrum. -/
def vc : State := vecS 15 1 20 0 0x10#6 id
theorem wit_VectorComplexConvert_complex : 14 ≤ vc.fmt ∧ rmOf vc.my.frm = some .rne ∧ vc.RunsV true true 62#6 vc.grp [] [(8#6, vc.grp), (16#6, vc.grp), (62#6, vc.grp)] ∧
    vc.my.SameTag [(8#6, vc.grp), (16#6, vc.grp), (62#6, vc.grp)] (vc.my.getV 8#6).tag ∧ (vc.my.getV 8#6).tag.extractLsb' 4 2 = 1#2 ∧
    vc.RunsV true true 62#6 vc.grp [] [(8#6, vc.grp), (16#6, vc.grp)] ∧ vc.RunsV true true 62#6 vc.grp [] [(8#6, vc.grp)] :=
  ⟨by decide, rfl, runsV_of _ _ _ _ _ _ _ rfl rfl rfl rfl rfl rfl (by decide) (by decide) (by decide), sameTag_of _ _ _ rfl, by decide,
    runsV_of _ _ _ _ _ _ _ rfl rfl rfl rfl rfl rfl (by decide) (by decide) (by decide), runsV_of _ _ _ _ _ _ _ rfl rfl rfl rfl rfl rfl (by decide) (by decide) (by decide)⟩
theorem wit_VectorFloatArithmetic_complex : 14 ≤ vc.fmt ∧ rmOf vc.my.frm = some .rne ∧ vc.RunsV true true 62#6 vc.grp [] [(8#6, vc.grp), (16#6, vc.grp)] ∧
    vc.my.SameTag [(8#6, vc.grp), (16#6, vc.grp)] (vc.my.getV 8#6).tag ∧ (vc.my.getV 8#6).tag.extractLsb' 4 2 = 1#2 :=
  ⟨by decide, rfl, runsV_of _ _ _ _ _ _ _ rfl rfl rfl rfl rfl rfl (by decide) (by decide) (by decide), sameTag_of _ _ _ rfl, by decide⟩
theorem wit_VectorFloatCompare_complex : 14 ≤ vc.fmt ∧ vc.RunsV true true 62#6 vc.grp [] [(8#6, vc.grp), (16#6, vc.grp)] ∧ vc.my.SameTag [(8#6, vc.grp), (16#6, vc.grp)] 0x10#6 :=
  ⟨by decide, runsV_of _ _ _ _ _ _ _ rfl rfl rfl rfl rfl rfl (by decide) (by decide) (by decide), sameTag_of _ _ _ rfl⟩
/-- FP16 to FP32 and to INT64, FP64 to FP32, INT64 to FP32. -/
def conv (s : State) (t : Nat) : Prop := s.RunsV true true 56#6 s.grp [] [(8#6, convGroup s.grp (formatBits t) s.eb)] ∧ s.my.Spatial [(8#6, convGroup s.grp (formatBits t) s.eb)] ∧
  convGroup s.grp (formatBits t) s.eb ≠ 0 ∧ (formatBits t = s.eb ∨ Apart (56#6, s.grp) (8#6, convGroup s.grp (formatBits t) s.eb))
theorem wit_VectorComplexConvert_convert : (upPair 4 vf.fmt = true ∧ conv vf 4) ∧ (upPair vf.fmt 7 = true ∧ vf.grp ≤ 4 ∧ conv vf 7) ∧ (vi.fmt ≤ 3 ∧ conv vi 4) ∧ (4 ≤ vf.fmt ∧ vf.fmt ≤ 7 ∧ conv vf 3) :=
  ⟨⟨rfl, runsV_of _ _ _ _ _ _ _ rfl rfl rfl rfl rfl rfl (by decide) (by decide) (by decide), spatial_of _ _ rfl, by decide, Or.inr (Or.inr (by decide))⟩,
    ⟨rfl, by decide, runsV_of _ _ _ _ _ _ _ rfl rfl rfl rfl rfl rfl (by decide) (by decide) (by decide), spatial_of _ _ rfl, by decide, Or.inr (Or.inr (by decide))⟩,
    ⟨by decide, runsV_of _ _ _ _ _ _ _ rfl rfl rfl rfl rfl rfl (by decide) (by decide) (by decide), spatial_of _ _ rfl, by decide, Or.inr (Or.inr (by decide))⟩,
    by decide, by decide, runsV_of _ _ _ _ _ _ _ rfl rfl rfl rfl rfl rfl (by decide) (by decide) (by decide), spatial_of _ _ rfl, by decide, Or.inr (Or.inr (by decide))⟩
/-- FP8 and FP4 to be quantised, FP32 and FP64 to be scaled. -/
def vq : State := vecS 8 1 20 0 0#6 id
def v4 : State := vecS 10 0 20 0 0#6 id
def v2 : State := vecS 6 1 20 0 0#6 id
def v7 : State := vecS 7 2 20 0 0#6 id
theorem wit_VectorQuantise : wideGroup vq.fmt vq.grp ≠ 0 ∧ vq.my.vqcfg.extractLsb' 0 2 ≠ 3#2 ∧ vq.RunsV true true 62#6 vq.grp [] [(8#6, wideGroup vq.fmt vq.grp), (16#6, 1)] ∧
    vq.my.Spatial [(8#6, wideGroup vq.fmt vq.grp), (16#6, 1)] ∧ Apart (62#6, vq.grp) (8#6, wideGroup vq.fmt vq.grp) ∧ Apart (8#6, wideGroup vq.fmt vq.grp) (16#6, 1) ∧
    v4.RunsV true true 56#6 (wideGroup v4.fmt v4.grp) [] [(8#6, v4.grp), (16#6, 1)] ∧ v4.my.Spatial [(8#6, v4.grp), (16#6, 1)] ∧ Apart (56#6, wideGroup v4.fmt v4.grp) (8#6, v4.grp) :=
  ⟨by decide, by decide, runsV_of _ _ _ _ _ _ _ rfl rfl rfl rfl rfl rfl (by decide) (by decide) (by decide), spatial_of _ _ rfl, Or.inr (by decide), Or.inl (by decide),
    runsV_of _ _ _ _ _ _ _ rfl rfl rfl rfl rfl rfl (by decide) (by decide) (by decide), spatial_of _ _ rfl, Or.inr (by decide)⟩
/-- SB8 and SB3, 20 elements from element 17 on: the block that begins at 16, and its end past `vl`. -/
def vs (fmt : Nat) : State := vecS fmt 0 20 17 0#6 id
theorem wit_VectorQuantise_shared : (11 ≤ (vs 11).fmt ∧ (vs 13).fmt ≤ 13 ∧ wideGroup (vs 11).fmt (vs 11).grp ≠ 0 ∧ wideGroup (vs 13).fmt (vs 13).grp ≠ 0 ∧ 20 ≤ 256 * (vs 13).myLanes.length) ∧
    (vs 11).RunsV true false 62#6 (vs 11).grp [] [(8#6, wideGroup (vs 11).fmt (vs 11).grp)] ∧ (vs 11).my.Spatial [(8#6, wideGroup (vs 11).fmt (vs 11).grp)] ∧
    (vs 13).RunsV true false 62#6 (vs 13).grp [] [(8#6, wideGroup (vs 13).fmt (vs 13).grp)] ∧ (vs 11).RunsV true true 56#6 (wideGroup (vs 11).fmt (vs 11).grp) [] [(8#6, (vs 11).grp), (16#6, 1)] ∧
    (vs 11).my.Spatial [(8#6, (vs 11).grp), (16#6, 1)] ∧ Apart (62#6, (vs 13).grp) (8#6, wideGroup (vs 13).fmt (vs 13).grp) ∧ Apart (8#6, wideGroup (vs 13).fmt (vs 13).grp) (16#6, 1) ∧
    Apart (56#6, wideGroup (vs 11).fmt (vs 11).grp) (8#6, (vs 11).grp) :=
  ⟨by decide, runsV_of _ _ _ _ _ _ _ rfl rfl rfl rfl rfl rfl (by decide) (by decide) (by decide), spatial_of _ _ rfl, runsV_of _ _ _ _ _ _ _ rfl rfl rfl rfl rfl rfl (by decide) (by decide) (by decide),
    runsV_of _ _ _ _ _ _ _ rfl rfl rfl rfl rfl rfl (by decide) (by decide) (by decide), spatial_of _ _ rfl, Or.inr (by decide), Or.inl (by decide), Or.inr (by decide)⟩
theorem wit_VectorQuantise_scale : (v2.fmt = 6 ∧ v2.grp ≤ 2) ∧ (v7.fmt = 7 ∧ v7.grp ≤ 4) ∧ (v2.RunsV true true 63#6 1 [] [(8#6, v2.grp)] ∧ v2.my.Spatial [(8#6, v2.grp)] ∧ Apart (63#6, 1) (8#6, v2.grp)) ∧
    v7.RunsV true true 63#6 1 [] [(8#6, v7.grp)] ∧ v2.RunsV true false 63#6 1 [.f 1#5 true] [] :=
  ⟨by decide, by decide, ⟨runsV_of _ _ _ _ _ _ _ rfl rfl rfl rfl rfl rfl (by decide) (by decide) (by decide), spatial_of _ _ rfl, Or.inr (by decide)⟩,
    runsV_of _ _ _ _ _ _ _ rfl rfl rfl rfl rfl rfl (by decide) (by decide) (by decide), runsV_of _ _ _ _ _ _ _ rfl rfl rfl rfl rfl rfl (by decide) (by decide) (by decide)⟩
theorem wit_VectorSpecialReduce : vf.fmt ≤ 6 ∧ (vf.RunsV true true 56#6 vf.grp [] [(8#6, vf.grp)] ∧ vf.my.Spatial [(8#6, vf.grp)]) ∧ (vf.RunsV true true 63#6 1 [] [(8#6, vf.grp)] ∧ vf.my.Spatial [(8#6, vf.grp)]) ∧
    rmOf vf.my.frm = some .rne :=
  ⟨by decide, ⟨runsV_of _ _ _ _ _ _ _ rfl rfl rfl rfl rfl rfl (by decide) (by decide) (by decide), spatial_of _ _ rfl⟩,
    ⟨runsV_of _ _ _ _ _ _ _ rfl rfl rfl rfl rfl rfl (by decide) (by decide) (by decide), spatial_of _ _ rfl⟩, rfl⟩
/-- Blocks of 16: FP32 elements, a half-spectrum of FP32, a full spectrum of CFP32. -/
def purl (fmt : Nat) (tag : BitVec 6) : State := vecS fmt 1 32 17 tag id
theorem wit_VectorTransforms : ((purl 6 0#6).my.pblk.extractLsb' 0 4).toNat ≤ 8 ∧ 32 % 2 ^ (((purl 6 0#6).my.pblk.extractLsb' 0 4).toNat + 4) = 0 ∧
    (purl 6 0#6).RunsV true false 62#6 2 [] [(8#6, 2)] ∧ (purl 6 0#6).my.Spatial [(8#6, 2)] ∧ (purl 6 0x10#6).RunsV true false 62#6 2 [] [(8#6, 2)] ∧ (purl 6 0x10#6).my.SameTag [(8#6, 2)] (1#2 ++ 0#4) ∧
    (purl 15 0#6).RunsV true false 62#6 2 [] [(8#6, 2)] ∧ (purl 15 0#6).my.Spatial [(8#6, 2)] ∧ (purl 15 0x20#6).RunsV true false 62#6 2 [] [(8#6, 2)] ∧ (purl 15 0x20#6).my.SameTag [(8#6, 2)] (2#2 ++ 0#4) :=
  ⟨by decide, by decide, runsV_of _ _ _ _ _ _ _ rfl rfl rfl rfl rfl rfl (by decide) (by decide) (by decide), spatial_of _ _ rfl,
    runsV_of _ _ _ _ _ _ _ rfl rfl rfl rfl rfl rfl (by decide) (by decide) (by decide), sameTag_of _ _ _ rfl, runsV_of _ _ _ _ _ _ _ rfl rfl rfl rfl rfl rfl (by decide) (by decide) (by decide), spatial_of _ _ rfl,
    runsV_of _ _ _ _ _ _ _ rfl rfl rfl rfl rfl rfl (by decide) (by decide) (by decide), sameTag_of _ _ _ rfl⟩
theorem wit_VectorTransforms_copy : (vi.my.pblk.extractLsb' 8 6).extractLsb' 4 2 = 0#2 ∧ vi.Issues .vector [.v 8#6 vi.grp true] ∧ vi.ndl = .V ∧ vi.my.nV.part = none ∧ vi.my.stepping = false ∧
    (∀ r, (vi.my.getV r).stream = none) ∧ vi.badRegs vi.who = [] ∧ ((62#6).toNat % vi.grp = 0 ∧ (62#6).toNat + vi.grp ≤ 64) :=
  ⟨by decide, issues_of _ _ _ rfl rfl, rfl, rfl, rfl, (vec_of vi [] rfl).1, rfl, by decide⟩

/-- S, element 0 of INT64 in v8 to v9, at the last word of what x1 points to: slot 1 of HBM, the core's scratchpad (slot 4095), bank memory. -/
def memS (e : SlotEntry) (p : Word) : State :=
  ctx1 .S (fun c => { (c.setB 0#4 (some ⟨1#12, e, false⟩)).setX 1#5 p with
    fixed := (Core.start 0).fixed, vprog := ptr 0, strip := { opened := true, owner := .S, vl := 1#64, vtype := 1#2 ++ 3#4 } })
theorem wit_RaceTrap_vector : ((racy 8).fmt ≤ 9 ∧ 0 < (racy 8).my.strip.vl.toNat ∧ (racy 8).my.vbeg = 0#64 ∧ (racy 8).bit 0#6 0 = true ∧ (racy 8).eb / 8 = 8) ∧ (racy 8).RunsMem true true [.x 1#5 true] [] ∧
    (racy 8).RunsMem true true [.x 1#5 true] [(8#6, (racy 8).grp)] ∧
    (∀ write ∈ [false, true], ∀ k ∈ [Support.any, .granule], okB ((racy 8).access ((racy 8).my.view (racy 8).who) ((racy 8).my.getX 1#5 + BitVec.ofNat 64 (0 * 8)) { size := 8, align := 8, write := write, kind := k })
      ⟨spadStart + 8, 0, .spad⟩ = true) ∧ ((racy 8).granule (granuleOf (spadStart + 8))).full = true :=
  ⟨by decide +kernel, runsMem_of _ _ _ _ _ (by decide +kernel) (by decide +kernel) (by decide +kernel) (by decide +kernel) (by decide +kernel),
    runsMem_of _ _ _ _ _ (by decide +kernel) (by decide +kernel) (by decide +kernel) (by decide +kernel) (by decide +kernel), by decide +kernel, by decide +kernel⟩
def spadTop : Nat := 4095 * 2 ^ 52 + (spadSize - 8)
theorem wit_VectorLoads : ((memS (rw 64) (ptr 56)).fmt ≤ 9 ∧ (memS (rw 64) (ptr 56)).my.vbeg.toNat < (memS (rw 64) (ptr 56)).my.strip.vl.toNat ∧ (memS (rw 64) (ptr 56)).RunsMem true false [.x 1#5 true, .x 2#5 true] [] ∧
    (memS (rw 64) (ptr 56)).RunsMem true false [.x 1#5 true] [(16#6, 1)] ∧ (memS (rw 64) (ptr 56)).RunsMem true false [.x 1#5 true] []) ∧ (memS (rw 64) (ptr 56)).acts false = [0] ∧
    (∀ k ∈ [Support.any, .ticket], (memS (rw 64) (ptr 56)).access ((memS (rw 64) (ptr 56)).my.view (.ctx 1)) (ptr 56) { size := 8, align := 8, kind := k } = .ok ⟨0x10038, 0, .hbm⟩) ∧
    (memS (rw 64) (BitVec.ofNat 64 spadTop)).plainAccess ((memS (rw 64) (BitVec.ofNat 64 spadTop)).my.view (.ctx 1)) (BitVec.ofNat 64 spadTop) { size := 8, align := 8, kind := .granule }
      = .ok ⟨spadStart + spadSize - 8, 0, .spad⟩ ∧
    ((memS (rw 64) (BitVec.ofNat 64 spadTop)).granule (granuleOf (spadStart + spadSize - 8))).full = true :=
  ⟨⟨by decide, by decide, runsMem_of _ _ _ _ _ rfl rfl rfl rfl rfl, runsMem_of _ _ _ _ _ rfl rfl rfl rfl rfl, runsMem_of _ _ _ _ _ rfl rfl rfl rfl rfl⟩, by decide,
    by simp only [List.forall_mem_cons, List.not_mem_nil, false_imp_iff, implies_true, and_true]; exact ⟨rfl, rfl⟩, rfl, rfl⟩
theorem wit_VectorLoads_none : (memS (rw 64) (ptr 56)).RunsMem true true [.x 1#5 true] [] ∧ (memS (rw 64) (ptr 56)).acts true = [] :=
  ⟨runsMem_of _ _ _ _ _ rfl rfl rfl rfl rfl, by decide +kernel⟩
theorem wit_VectorStores : (memS (rw 64) (ptr 56)).RunsMem true false [.x 1#5 true, .x 2#5 true] [(8#6, 2)] ∧ (memS (rw 64) (ptr 56)).RunsMem true false [.x 1#5 true] [(8#6, 2), (16#6, 1)] ∧
    (∀ k ∈ [Support.any, .ticket], (memS (rw 64) (ptr 56)).access ((memS (rw 64) (ptr 56)).my.view (.ctx 1)) (ptr 56) { size := 8, align := 8, write := true, kind := k } = .ok ⟨0x10038, 0, .hbm⟩) ∧
    (memS (rw 64) (BitVec.ofNat 64 spadTop)).plainAccess ((memS (rw 64) (BitVec.ofNat 64 spadTop)).my.view (.ctx 1)) (BitVec.ofNat 64 spadTop) { size := 8, align := 8, write := true, kind := .granule }
      = .ok ⟨spadStart + spadSize - 8, 0, .spad⟩ ∧
    (memS (rw 64) (ptr 56)).my.vprog ≠ 0#64 ∧ (memS (rw 64) (ptr 56)).my.openHalf = none ∧ (memS (rw 64) (ptr 56)).plainAccess ((memS (rw 64) (ptr 56)).my.view (.ctx 1)) (memS (rw 64) (ptr 56)).my.vprog { size := 8, align := 8, write := true } = .ok ⟨0x10000, 0, .hbm⟩ :=
  ⟨runsMem_of _ _ _ _ _ rfl rfl rfl rfl rfl, runsMem_of _ _ _ _ _ rfl rfl rfl rfl rfl,
    by simp only [List.forall_mem_cons, List.not_mem_nil, false_imp_iff, implies_true, and_true]; exact ⟨rfl, rfl⟩, rfl, by decide, rfl, rfl⟩
def bankE : SlotEntry := { rw 64 with base := BitVec.ofNat 48 bankStart }
def vbf : State := (memS bankE (ptr 56)).onMy (fun c => { c with strip := { c.strip with vtype := 1#2 ++ 7#4 } })
theorem wit_BankUpdates : (memS bankE (ptr 56)).fmt = 3 ∧ (memS bankE (ptr 56)).RunsMem true false [.x 1#5 true] [(8#6, 2), (16#6, 1)] ∧ (memS bankE (ptr 56)).my.Spatial [(8#6, 2)] ∧ (memS bankE (ptr 56)).acts false = [0] ∧
    vbf.fmt = 7 ∧ vbf.RunsMem true false [.x 1#5 true] [(8#6, 2), (16#6, 1)] ∧ vbf.my.Spatial [(8#6, 2)] ∧
    (memS bankE (ptr 56)).RunsMem true false [.x 1#5 true] [(16#6, 1)] ∧ Apart (8#6, 1) (16#6, 1) ∧ (memS bankE (ptr 56)).elem 16#6 32 0 = 0 ∧
    ∀ k ∈ [Support.rmw, .lock], (memS bankE (ptr 56)).access ((memS bankE (ptr 56)).my.view (.ctx 1)) (ptr 56) { size := 8, align := 8, write := true, rmw := true, kind := k } = .ok ⟨bankStart + 56, 0, .bank⟩ :=
  ⟨by decide, runsMem_of _ _ _ _ _ rfl rfl rfl rfl rfl, spatial_of _ _ rfl, by decide, by decide, runsMem_of _ _ _ _ _ rfl rfl rfl rfl rfl, spatial_of _ _ rfl, runsMem_of _ _ _ _ _ rfl rfl rfl rfl rfl,
    Or.inl (by decide), by decide +kernel, by simp only [List.forall_mem_cons, List.not_mem_nil, false_imp_iff, implies_true, and_true]; exact ⟨rfl, rfl⟩⟩
/-! ## The array, the queues, yarn, copies -/

theorem wit_MatrixIssue : (ctx1 .M id).my.matQ.length < 32 ∧ (ctx1 .M id).Issues .matrix [.x 29#5 true, .x 30#5 true, .x 31#5 true] ∧ (ctx1 .M id).Issues .matrix [.x 1#5 true] ∧
    (ctx1 .M id).Issues .matrix [.x 1#5 true, .v 8#6 1 true] ∧ (ctx1 .M id).Issues .matrix [] ∧ (ctx1 .M id).Issues .matrix [.z 7#3 true] ∧ ((ctx1 .M id).my.getV 8#6).stream = none ∧
    (ctx1 .M id).badRegs (ctx1 .M id).who = [] ∧ (∀ r, ((ctx1 .M id).my.getV r).stream = none) ∧ (ctx1 .S id).my.memHeld = false ∧ (ctx1 .S id).Issues .matrix [.x 1#5 true] ∧
    (ctx1 .M id).my.mtsetHolds .M [29#5, 30#5, 31#5, 27#5, 28#5, 29#5] = false ∧
    (ctx1 .M (fun c => { c with matQ := [{ word := encode (.mtset 5#5 10#5 true) }] })).my.mtsetHolds .M [8#5, 9#5, 10#5] = false ∧
    16 ∈ [0, 4, 5, 7, 8, 9, 10, 11, 12, 13, 14, 16] ∧ 14 ∈ [0, 4, 5, 7, 8, 9, 10, 11, 12, 13, 14] :=
  ⟨by decide, issues_of _ _ _ rfl rfl, issues_of _ _ _ rfl rfl, issues_of _ _ _ rfl rfl, issues_of _ _ _ rfl rfl, issues_of _ _ _ rfl rfl, rfl, rfl, (vec_of _ [] rfl).1, by decide,
    issues_of _ _ _ rfl rfl, by decide, by decide, by decide, by decide⟩

/-- The matrix queue of context 1 with one entry, the array as given; slot 1 has 2,048 bytes. -/
def matS (i : Instr) (r : ArrayState) (x : Word) : State :=
  ctx1 .S (fun c => { c.setB 0#4 (some ⟨1#12, rw 2048, false⟩) with fixed := (Core.start 0).fixed, arr := r, matQ := [{ word := encode i, opnd := x, idx := List.replicate 32 0#32, lanes := 16#5, mzmap := ptr 0 }] })
/-- What every clause asks: the entry is the head, and its word names the operation. -/
def matHead (i : Instr) (r : ArrayState) (op : MOp) : Prop :=
  (matS i r (ptr 0)).onCore (.ctx 1) = true ∧ (∃ e, (matS i r (ptr 0)).my.matQ = [e] ∧ e.fo = none ∧ ∃ m, matOfWord e.word = some m ∧ m.op = op) ∧ (matS i r (ptr 0)).badRegs (.ctx 1) = [] ∧
    (matS i r (ptr 0)).my.arr.fault = none
theorem wit_MatrixQueueEntry : matHead (.mzero 7#3) {} .mzero ∧ matHead (.mtset 29#5 1#5 true) {} .mtset ∧ matHead (.mwld 1#5 0#5 true) { ng := 1#8, kg := 1#8 } .mwld ∧ matHead (.mcode 1#5 true) {} .mcode ∧
    matHead (.mgath 8#6 1#5 true) { mg := 32#8 } .mgath ∧ matHead (.mmac 7#3 0#5 0#5 true) { mg := 32#8, ng := 16#8, kg := 64#8, wfmt := 0#5 } .mmac ∧ matHead (.mmac 6#3 0#5 7#5 true) { wfmt := 0#5 } .mmac ∧
    matHead (.mst 7#3 1#5 true) {} .mst ∧ matHead (.mrd 63#6 7#5 true) {} .mrd ∧ matClass 7 ≠ matClass 0 :=
  ⟨⟨rfl, ⟨_, rfl, rfl, _, rfl, rfl⟩, rfl, rfl⟩, ⟨rfl, ⟨_, rfl, rfl, _, rfl, rfl⟩, rfl, rfl⟩, ⟨rfl, ⟨_, rfl, rfl, _, rfl, rfl⟩, rfl, rfl⟩, ⟨rfl, ⟨_, rfl, rfl, _, rfl, rfl⟩, rfl, rfl⟩,
    ⟨rfl, ⟨_, rfl, rfl, _, rfl, rfl⟩, rfl, rfl⟩, ⟨rfl, ⟨_, rfl, rfl, _, rfl, rfl⟩, rfl, rfl⟩, ⟨rfl, ⟨_, rfl, rfl, _, rfl, rfl⟩, rfl, rfl⟩, ⟨rfl, ⟨_, rfl, rfl, _, rfl, rfl⟩, rfl, rfl⟩,
    ⟨rfl, ⟨_, rfl, rfl, _, rfl, rfl⟩, rfl, rfl⟩, by decide⟩
theorem wit_MatrixQueueEntry_memory : weightFormat 0 = true ∧ 1 ≤ kLimit 0 ∧
    okB ((matS (.mwld 1#5 0#5 true) {} (ptr 2047)).plainAccess ((matS (.mwld 1#5 0#5 true) {} (ptr 2047)).my.view (.ctx 1)) (ptr 2047) { size := 1, align := 1 }) ⟨0x107FF, 0, .hbm⟩ = true ∧
    (∀ t ∈ (matS (.mwld 1#5 0#5 true) {} (ptr 2047)).tagsAt ⟨0x107FF, 0, .hbm⟩ 1, t.extractLsb' 4 2 = 0#2) ∧
    okB ((matS (.mcode 1#5 true) {} (ptr 0)).plainAccess ((matS (.mcode 1#5 true) {} (ptr 0)).my.view (.ctx 1)) (ptr 2016) { size := 32, align := 32 }) ⟨0x107E0, 0, .hbm⟩ = true ∧
    okB ((matS (.mgath 8#6 1#5 true) {} (ptr 0)).plainAccess ((matS (.mgath 8#6 1#5 true) {} (ptr 0)).my.view (.ctx 1)) (BitVec.ofNat 64 (4095 * 2 ^ 52 + 1984)) { size := 64, align := 16, kind := .granule })
      ⟨spadStart + 1984, 0, .spad⟩ = true ∧ (spadStart + 1984) % 2048 + 64 ≤ 2048 ∧
    (List.range 32).all (fun j => okB ((matS (.mst 7#3 1#5 true) {} (ptr 0)).plainAccess ((matS (.mst 7#3 1#5 true) {} (ptr 0)).my.view (.ctx 1)) (ptr 0 + BitVec.ofNat 64 (64 * j)) { size := 64, align := 64, write := true })
      ⟨0x10000 + 64 * j, 0, .hbm⟩) = true := by decide +kernel
/-- A row of weights of SB8 and of CB4, the header of one. -/
theorem wit_MatrixQueueEntry_weights : [11, 16].all (fun f => weightFormat f && decide (0 < rowLength f 16 true) && decide (1 ≤ kLimit f) && decide (rowLength f 16 true ≤ 512) && !decide (16 ≤ matBits f)) = true ∧
    fmtShared 11 = true ∧ matHead (.mwld 1#5 11#5 true) { ng := 16#8, kg := 1#8 } .mwld ∧ matHead (.mwld 1#5 16#5 true) { ng := 16#8, kg := 1#8 } .mwld ∧
    (let s := matS (.mwld 1#5 11#5 true) { ng := 16#8, kg := 1#8 } (ptr 0)
     okB (s.plainAccess (s.my.view (.ctx 1)) (ptr 0 + BitVec.ofNat 64 0 * BitVec.ofNat 64 (rowLength 11 16 true)) { size := rowLength 11 16 true, align := 1 }) ⟨0x10000, 0, .hbm⟩ = true ∧
      okB (s.plainAccess (s.my.view (.ctx 1)) (ptr 0 + (0#32).signExtend 64 + BitVec.ofNat 64 (4 * 0)) { size := 4, align := 4 }) ⟨0x10000, 0, .hbm⟩ = true ∧
      ∀ t ∈ s.tagsAt ⟨0x10000, 0, .hbm⟩ (rowLength 11 16 true), t.extractLsb' 4 2 = 0#2) :=
  ⟨by decide, rfl, ⟨rfl, ⟨_, rfl, rfl, _, rfl, rfl⟩, rfl, rfl⟩, ⟨rfl, ⟨_, rfl, rfl, _, rfl, rfl⟩, rfl, rfl⟩, by decide +kernel⟩
/-- The K-step of FP16 from the latch at the largest tile, of FP64 from memory with a bitmap, of SB8 with headers, of CBF16 from the latch under one spectral tag. -/
theorem wit_MatrixQueueEntry_step : matHead (.mmac 7#3 0#5 5#5 true) { mg := 32#8, ng := 16#8, kg := BitVec.ofNat 8 (kLimit 5), wfmt := 5#5 } .mmac ∧
    matHead (.mmacz 6#3 1#5 7#5 true) { mg := 1#8, ng := 1#8, kg := 1#8, wfmt := 7#5 } .mmacz ∧ matHead (.mmac 7#3 1#5 11#5 true) { mg := 1#8, ng := 16#8, kg := 16#8, wfmt := 11#5 } .mmac ∧
    matHead (.mmac 6#3 0#5 14#5 true) { mg := 1#8, ng := 1#8, kg := 1#8, wfmt := 14#5, latchTags := 0x10#192 } .mmac ∧ 0 < kLimit 5 ∧ kLimit 5 ≤ 255 ∧ 16 ≤ kLimit 11 ∧ 1 ≤ kLimit 7 ∧ 1 ≤ kLimit 14 ∧
    (let s := matS (.mmacz 6#3 1#5 7#5 true) { mg := 1#8, ng := 1#8, kg := 1#8, wfmt := 7#5 } (ptr 0)
     okB (s.plainAccess (s.my.view (.ctx 1)) (ptr 0 + BitVec.ofNat 64 0 * BitVec.ofNat 64 (rowLength 7 1 false)) { size := rowLength 7 1 false, align := 8 }) ⟨0x10000, 0, .hbm⟩ = true ∧
      (∀ t ∈ s.tagsAt ⟨0x10000, 0, .hbm⟩ (rowLength 7 1 false), t.extractLsb' 4 2 = 0#2) ∧
      okB (s.plainAccess (s.my.view (.ctx 1)) (ptr 0 + BitVec.ofNat 64 (16 * 0)) { size := 16, align := 16 }) ⟨0x10000, 0, .hbm⟩ = true ∧
      okB (s.plainAccess (s.my.view (.ctx 1)) (ptr 0 + BitVec.ofNat 64 0 * BitVec.ofNat 64 (rowLength 11 16 false)) { size := rowLength 11 16 false, align := 1 }) ⟨0x10000, 0, .hbm⟩ = true ∧
      okB (s.plainAccess (s.my.view (.ctx 1)) (ptr 0 + (0#32).signExtend 64 + BitVec.ofNat 64 (32 * 0 + 4 * 0)) { size := 4, align := 4 }) ⟨0x10000, 0, .hbm⟩ = true) ∧
    (let s := matS (.mmac 6#3 0#5 14#5 true) { mg := 1#8, ng := 1#8, kg := 1#8, wfmt := 14#5, latchTags := 0x10#192 } (ptr 0)
     s.my.arr.latchTags.extractLsb' (6 * 0) 6 = 0x10#6 ∧ ((matOfWord (encode (.mmac 6#3 0#5 14#5 true))).map (fun i => s.firstTag (.ctx 1) i (s.my.matQ.getD 0 { word := 0#32 })) = some 0x10#6) ∧
      (s.my.getZ 6#3).mode ≠ 2#2) :=
  ⟨⟨rfl, ⟨_, rfl, rfl, _, rfl, rfl⟩, rfl, rfl⟩, ⟨rfl, ⟨_, rfl, rfl, _, rfl, rfl⟩, rfl, rfl⟩, ⟨rfl, ⟨_, rfl, rfl, _, rfl, rfl⟩, rfl, rfl⟩, ⟨rfl, ⟨_, rfl, rfl, _, rfl, rfl⟩, rfl, rfl⟩, by decide, by decide, by decide,
    by decide, by decide, by decide +kernel, by decide +kernel⟩
theorem wit_MatrixQueueEntry_fault : (matS (.mzero 7#3) { fault := some ⟨0#64, 0#32, 0#8, 0#64, 0#64, 0#64, 1⟩ } (ptr 0)).my.arr.fault.isSome = true := rfl

/-- S of context 1 with a strip of INT64 elements, its engines' queues as given. -/
def queues (f : Ctx → Ctx) : State :=
  ctx1 .S (fun c => f { c.setB 0#4 (some ⟨1#12, rw 2048, false⟩) with strip := { opened := true, owner := .S, vl := 20#64, vtype := 1#2 ++ 3#4 } })
theorem wit_InlineQueues_issue : (queues id).Issues .vector [.v 8#6 2 true, .v 16#6 2 true, .v 0#6 1 true] ∧ (queues id).Issues .vector [.x 1#5 true, .v 8#6 2 true, .v 0#6 1 true] ∧ (queues id).ndl = .S ∧
    (queues id).my.vecQ.length < 32 ∧ (queues id).my.copyQ.any (fun e => isYarnWord e.word) = false ∧ (queues id).my.stepping = false ∧ (∀ r, ((queues id).my.getV r).stream = none) ∧ (queues id).fmt ≤ 3 ∧ (queues id).grp = 2 :=
  ⟨issues_of _ _ _ rfl rfl, issues_of _ _ _ rfl rfl, rfl, by decide, rfl, rfl, (vec_of _ [] rfl).1, by decide, by decide⟩
def vadd : QEntry := { word := encode (.vaddVv 62#6 8#6 16#6 true true), vl := 20#32, vbeg := 19#64, vtype := 1#2 ++ 3#4 }
/-- An entry that waits writes v62 and v63: an addition to v60 from v8 and v16 does not touch them, one to v62 does. -/
theorem wit_InlineQueues_unwritten : (∀ h ∈ vadd.writes, ∀ x ∈ [(60#6, 2), (8#6, 2), ((16#6 : VReg), 2)], h.disjoint ⟨x.1.toNat, x.2, 64, false⟩ = true) ∧ vadd.writes.length = 1 := by decide
theorem wit_InlineQueues_vector : (queues (fun c => { c with vecQ := [vadd] })).runs (.ctx 1) = true ∧ vecOfWord vadd.word = some ⟨.int .add, 62#6, 8#6, .v 16#6, true, true⟩ ∧ vtypeFmt vadd.vtype ≤ 3 ∧
    vadd.vbeg.toNat < vadd.vl.toNat ∧ (queues id).my.Spatial [(8#6, 2), (16#6, 2)] ∧ (queues id).badRegs (.ctx 1) = [] ∧
    ((some (queues id).my.tagString).map (fun t => t.extractLsb' (6 * (8 % 64)) 6)) = some 0#6 := ⟨rfl, rfl, by decide, by decide, spatial_of _ _ rfl, rfl, by decide +kernel⟩
/-- A copy from slot 1 to v8: 8 elements of 8 bytes. -/
def yld8 : CopyOp := { kind := .yld, seq := 1, word := 0#32, ipc := 0x80#64, xd := 5#5, vreg := 8#6, record := BitVec.ofNat 512 (2 ^ 52 + 1984 + 2 ^ 64 * 8 + 2 ^ 96 * 3), lanes := 16#5
                       pblk := 0#17, mapitch := 0#64, mwpitch := 0#64, mzmap := 0#64, seats := [⟨1#12, rw 2048, false⟩] }
/-- The records in memory: of a read stream at 0x10000, of that copy at 0x10040, of a tile copy at 0x10080, of a bad copy at 0x100C0. -/
def recs (f : Ctx → Ctx) (n : Needle) : State :=
  let s := ctx1 n (fun c => f { c.setB 0#4 (some ⟨1#12, rw 2048, false⟩) with strip := { opened := true, owner := .S, vl := 20#64, vtype := 1#2 ++ 3#4 } })
  ((s.write 0 0x10000 48 (2 ^ 52 + 2 ^ 64 * 8 + 2 ^ 256 + 2 ^ 288 + 2 ^ 320 + 2 ^ 352 * 3)).write 0 0x10040 32 yld8.record.toNat).write 0 0x10080 64 (2 ^ 52 + 2 ^ 64 * (2 ^ 52 + 1024) + 2 ^ 256 + 2 ^ 288 * 64)
theorem wit_InlineQueues_copy : (queues (fun c => { c with copyQ := [{ word := 0#32, copy := some yld8 }], copies := List.replicate 15 yld8 })).runs (.ctx 1) = true ∧
    (queues (fun c => { c with copyQ := [{ word := 0#32, copy := some yld8 }], copies := List.replicate 15 yld8 })).my.copies.length < 16 := by decide +kernel
theorem wit_InlineQueues_stream : (recs id .S).runs (.ctx 1) = true ∧ (encode (.ystr 8#6 1#5 true)).extractLsb' 27 5 = 9#5 ∧
    okB ((recs id .S).plainAccess ((recs id .S).my.view (.ctx 1)) (ptr 0) { size := 48, align := 16 }) ⟨0x10000, 0, .hbm⟩ = true ∧
    (Pattern.ofRecord (BitVec.ofNat 384 ((recs id .S).read 0 0x10000 48))).invalid = false := by decide +kernel

/-- An open stream on v8. -/
def opened (dir : Bool) (buf : List Word) : Stream :=
  { pat := { Pattern.ofRecord (BitVec.ofNat 384 ((recs id .S).read 0 0x10000 48)) with dir := dir }, buf := buf, ipc := 0#64, seats := [⟨1#12, rw 2048, false⟩] }
def streaming (dir : Bool) (buf : List Word) : State := recs (fun c => c.setV 8#6 { c.getV 8#6 with stream := some (opened dir buf) }) .C
theorem wit_Yarn_issue : (recs (·.setX 1#5 (ptr 0)) .C).Issues .copy [.x 1#5 true] ∧ (recs id .C).Issues .copy [] ∧ (recs (·.setX 1#5 (ptr 0)) .S).Issues .copy [.x 1#5 true] ∧ (recs id .S).Issues .copy [] ∧
    (recs id .S).my.vecQ = [] ∧ (recs id .S).my.copyQ.length < 32 ∧ ((recs id .C).my.getV 8#6).stream = none := ⟨issues_of _ _ _ (by decide +kernel) (by decide +kernel), issues_of _ _ _ (by decide +kernel) (by decide +kernel), issues_of _ _ _ (by decide +kernel) (by decide +kernel), issues_of _ _ _ (by decide +kernel) (by decide +kernel), by decide +kernel, by decide +kernel, by decide +kernel⟩
theorem wit_Yarn_read : (streaming false []).onCore (.ctx 1) = true ∧ ((streaming false []).my.getV 8#6).stream = some (opened false []) ∧ (opened false []).fault = none ∧ (opened false []).pat.total = 1 ∧
    okB ((streaming false []).plainAccess ⟨false, some 0, (streaming false []).my.slot0, (opened false []).seats, (streaming false []).my.fixed, 0⟩ ((opened false []).pat.pointer 0) { size := 8, align := 8 }) ⟨0x10000, 0, .hbm⟩ = true := by
  decide +kernel
theorem wit_Yarn_write : (opened true [7#64]).pat.dir = true ∧ (streaming true [7#64]).onCore (.ctx 1) = true ∧
    okB ((streaming true [7#64]).plainAccess ⟨false, some 0, (streaming true [7#64]).my.slot0, (opened true []).seats, (streaming true [7#64]).my.fixed, 0⟩ ((opened true []).pat.pointer 0) { size := 8, align := 8, write := true })
      ⟨0x10000, 0, .hbm⟩ = true := by decide +kernel
theorem wit_Yarn_end : (streaming false []).Issues .copy [] ∧ (streaming true []).Issues .copy [] ∧ ((streaming true []).my.getV 8#6).stream = some (opened true []) ∧ (opened true []).fault = none ∧
    (opened true []).buf = [] ∧ (opened true []).pat.rel = false ∧ (streaming true []).ndl = .C :=
  ⟨issues_of _ _ _ (by decide +kernel) (by decide +kernel), issues_of _ _ _ (by decide +kernel) (by decide +kernel), by decide +kernel, by decide +kernel, by decide +kernel, by decide +kernel, by decide +kernel⟩

/-- C of context 1 before a copy whose record x1 points to. -/
def copyS (off : Nat) : State := recs (·.setX 1#5 (ptr off)) .C
def recOf (off n : Nat) (k : CopyKind) (v : VReg) : CopyOp :=
  let s := copyS off
  { kind := k, seq := s.my.nextSeq, word := s.ir, ipc := s.pc, xd := 5#5, vreg := v, record := BitVec.ofNat 512 (s.read 0 (0x10000 + off) n), lanes := BitVec.ofNat 5 s.myLanes.length
    pblk := s.my.pblk, mapitch := s.my.mapitch, mwpitch := s.my.mwpitch, mzmap := s.my.mzmap, seats := s.my.copySeats }
theorem wit_Copies_issue : (copyS 0x40).Issues .copy [.x 1#5 true] ∧ (copyS 0x40).my.copies.length < 16 ∧
    okB ((copyS 0x40).plainAccess ((copyS 0x40).my.view (.ctx 1)) (ptr 0x40) { size := 32, align := 32 }) ⟨0x10040, 0, .hbm⟩ = true ∧
    okB ((copyS 0x80).plainAccess ((copyS 0x80).my.view (.ctx 1)) (ptr 0x80) { size := 64, align := 64 }) ⟨0x10080, 0, .hbm⟩ = true := ⟨issues_of _ _ _ (by decide +kernel) (by decide +kernel), by decide +kernel, by decide +kernel, by decide +kernel⟩
theorem wit_Copies_good : (copyS 0x40).copyFault (.ctx 1) (recOf 0x40 32 .yld 8#6) = none ∧ (copyS 0x40).copyFault (.ctx 1) (recOf 0x40 32 .yst 8#6) = none ∧
    (copyS 0x80).copyFault (.ctx 1) (recOf 0x80 64 .ytile 0#6) = none ∧ (copyS 0x80).my.life ≠ .ending := by decide +kernel
/-- `yxfer` from register 8 of core 0's peer 0, one element. -/
def xferS : State := (recs (·.setX 1#5 (ptr 0x100)) .C).write 0 0x10100 32 (8 * 256 + 2 ^ 64)
theorem wit_Copies_xfer : xferS.Issues .copy [.x 1#5 true] ∧ xferS.copyFault (.ctx 1) { recOf 0x100 32 .yxfer 8#6 with record := BitVec.ofNat 512 (xferS.read 0 0x10100 32) } = none := ⟨issues_of _ _ _ (by decide +kernel) (by decide +kernel), by decide +kernel⟩
theorem wit_Copies_bad : (copyS 0xC0).copyFault (.ctx 1) (recOf 0xC0 32 .yld 8#6) = some ⟨0x01#8, 0#64, 0#64⟩ ∧
    ((copyS 0x1C0).copyFault (.ctx 1) { recOf 0x1C0 64 .ytile 0#6 with record := 7#3 ++ 0#(386) |>.setWidth 512 }).isSome = true := by decide +kernel
def moving : State := ctx1 .S (fun c => { c with copies := [yld8] })
theorem wit_Copies_chunk : moving.onCore (.ctx 1) = true ∧ moving.my.copies.find? (·.seq == 1) = some yld8 ∧ yld8.plan.total = 64 ∧ yld8.plan.bar = 0#64 ∧ yld8.plan.rel = false ∧ yld8.plan.fow = none ∧
    yld8.plan.src = some (ptr 1984, 0#64) ∧ yld8.packedAt (ptr 1984) = none ∧ moving.badRegs (.ctx 1) = [] ∧
    okB (moving.plainAccess (moving.my.viewAt (.ctx 1) yld8.seats) (ptr 1984) { size := 64, align := 1, copy := true }) ⟨0x107C0, 0, .hbm⟩ = true := by decide +kernel
/-- A tile copy of one row of 64 bytes from the start of slot 1 to its last 64 bytes. -/
def tile64 : CopyOp := { yld8 with kind := .ytile, record := BitVec.ofNat 512 (2 ^ 52 + 2 ^ 64 * (2 ^ 52 + 1984) + 2 ^ 256 + 2 ^ 288 * 64) }
theorem wit_Copies_tile : tile64.plan.src = some (ptr 0, 0#64) ∧ tile64.plan.dst = some (ptr 1984, 0#64) ∧ 0 % tile64.plan.rowb + 64 ≤ tile64.plan.rowb ∧ tile64.packedAt (ptr 0) = none ∧ tile64.packedAt (ptr 1984) = none ∧
    okB (moving.plainAccess (moving.my.viewAt (.ctx 1) yld8.seats) (ptr 0) { size := 64, align := 1, copy := true }) ⟨0x10000, 0, .hbm⟩ = true ∧
    okB (moving.plainAccess (moving.my.viewAt (.ctx 1) yld8.seats) (ptr 1984) { size := 64, align := 1, write := true, copy := true }) ⟨0x107C0, 0, .hbm⟩ = true := by decide +kernel
theorem wit_Copies_done : ({ yld8 with nextChunk := 1 } : CopyOp).plan.total ≤ 64 * 1 ∧ yld8.code = 0#8 ∧ yld8.follow = .none ∧ yld8.vreg.toNat % yld8.plan.grp = 0 ∧ yld8.vreg.toNat + yld8.plan.grp ≤ 64 := by decide +kernel
/-! ## The fabric's instructions -/

/-- S of context 1 with x1 as given; slot 1 of its handle table names endpoint 7's region of key 5, 64 bytes; at 0x10040 stands a reduction's descriptor with the name 9 and that owner. -/
def fabS (x1 : Word) (f : Ctx → Ctx) : State :=
  ((ctx1 .S (fun c => f ((seat (rw 2048) c).setX 1#5 x1))).write 0 0x10010 16 (2 ^ 63 + 7 * 2 ^ 32 + 5 + 2 ^ 64 * 64)).write 0 0x10040 32
    (9 + 2 ^ 64 * 2 ^ 52 + 2 ^ 128 * 1000 + 2 ^ 160 * 31 + 2 ^ 168 * 32 + 2 ^ 176 * 4)
def farOf (off : Nat) : Far := ⟨7#16, 5#32, BitVec.ofNat 48 off⟩
def farB (s : State) (p : Word) (n : Nat) (far : Far) : Bool := match s.far s.my.image p n with
  | .ok x => x == far
  | .error _ => false
theorem far_of (s : State) (p : Word) (n : Nat) (far : Far) (h : farB s p n far = true) : s.far s.my.image p n = .ok far := by
  unfold farB at h
  split at h
  · rename_i x e; rw [e]; simpa using h
  · cases h
/-- What the scalar forms ask of a state: sources full, the pointer good, room in the sequence. -/
def goodFab (s : State) (off : Nat) (srcs : List Src) : Prop :=
  s.Issues .sOnly srcs ∧ s.far s.my.image (s.my.getX 1#5) 8 = .ok (farOf off) ∧ (s.my.fsel.extractLsb' 6 3).toNat ≤ 4 ∧
    ((s.part s.my.part).roomFor (.agent s.who) (s.my.fsel.extractLsb' 0 3) (farOf off).ep 1).isSome = true
theorem wit_FabricIssue_scalar : goodFab (fabS (ptr 56) id) 56 [.x 1#5 true, .x 2#5 true, .x 3#5 true] ∧
    ((fabS (ptr 56) id).part 0).cover (.agent (.ctx 1)) 7#16 5#32 56#48 8 = .none ∧ ∀ q ∈ ((fabS (ptr 56) id).part 0).seqs, ∀ o ∈ q.ops, o.open_ = false :=
  ⟨⟨issues_of _ _ _ (by decide +kernel) (by decide +kernel), far_of _ _ _ _ (by decide +kernel), by decide +kernel, by decide +kernel⟩, by decide +kernel, by decide +kernel⟩
/-- A store of 8 bytes at offset 48 that stands in the open packet of stream 0. -/
def openStore : FabOp :=
  { pk := { blankPacket with op := 0x02#8, key := 5#32, offset := 48#48, n := 8#16, opd0 := 0x77#64, serial := 1#32 }, dest := .nothing, issuers := [⟨0, 0#32, 0#64, 0#64⟩], open_ := true }
def openSeq : Seq := { who := .agent (.ctx 1), stream := 0#3, ep := 7#16, sid := 1#16, next := 2#32, started := true, ops := [openStore] }
def withStore (off : Nat) : State := (fabS (ptr off) id).setPart 0 { seqs := [openSeq] }
theorem wit_FabricIssue_covered : goodFab (withStore 48) 48 [.x 1#5 true] ∧ ((withStore 48).part 0).cover (.agent (.ctx 1)) 7#16 5#32 48#48 8 = .all 0x77 :=
  ⟨⟨issues_of _ _ _ (by decide +kernel) (by decide +kernel), far_of _ _ _ _ (by decide +kernel), by decide +kernel, by decide +kernel⟩, by decide +kernel⟩
theorem wit_FabricIssue_join : goodFab (withStore 56) 56 [.x 1#5 true, .x 2#5 true] ∧ ((withStore 56).part 0).seqs.find? (·.isFor (.agent (.ctx 1)) 0#3 7#16) = some openSeq ∧
    openSeq.ops.getLast? = some openStore ∧ openStore.open_ = true ∧ (56 : Nat) = 48 + 8 ∧ 56 / 64 = 48 / 64 ∧ (withStore 56).my.fsel.extractLsb' 3 2 = 0#2 ∧ (withStore 56).my.relHalf = none :=
  ⟨⟨issues_of _ _ _ (by decide +kernel) (by decide +kernel), far_of _ _ _ _ (by decide +kernel), by decide +kernel, by decide +kernel⟩, by decide +kernel, by decide +kernel, by decide +kernel, rfl, rfl, by decide +kernel, by decide +kernel⟩
/-- Slot 2 of the handle table has V clear. -/
theorem wit_FabricIssue_bad : (fabS (BitVec.ofNat 64 (2 * 2 ^ 52)) id).Allowed .sOnly [.x 1#5 true] ∧
    (match (fabS 0#64 id).far 0 (BitVec.ofNat 64 (2 * 2 ^ 52)) 8 with | .error e => e == (0x0D#8, BitVec.ofNat 64 (2 * 2 ^ 52), 0#64) | .ok _ => false) = true := ⟨allowed_of _ _ _ (by decide +kernel), by decide +kernel⟩
theorem wit_FabricIssue_flush : (fabS (ptr 0) id).Issues .sOnly [] ∧ (fabS (ptr 0) id).storesLeft (.ctx 1) 0#3 = false ∧ (fabS (ptr 0) id).my.pend = [] ∧
    (withStore 0).Issues .sOnly [] ∧ (withStore 0).storesLeft (.ctx 1) 0#3 = true :=
  ⟨issues_of _ _ _ (by decide +kernel) (by decide +kernel), by decide +kernel, by decide +kernel, issues_of _ _ _ (by decide +kernel) (by decide +kernel), by decide +kernel⟩
/-- A pending reduction named 9, its reply as given. -/
def red9 (reply : Option (Word × Word)) : Reduction := { name := 9#64, seq := 1, reply := reply }
theorem wit_FabricIssue_reduction : (fabS (ptr 0x40) id).Issues .sOnly [.x 1#5 true, .x 2#5 true] ∧
    okB ((fabS (ptr 0x40) id).plainAccess ((fabS (ptr 0x40) id).my.view (.ctx 1)) (ptr 0x40) { size := 32, align := 32 }) ⟨0x10040, 0, .hbm⟩ = true ∧
    farB (fabS (ptr 0x40) id) (ptr 0) 8 (farOf 0) = true ∧ (let d := RedDesc.ofRecord (BitVec.ofNat 256 ((fabS (ptr 0x40) id).read 0 0x10040 32));
      d.node = ptr 0 ∧ d.invalid = false ∧ d.name = 9#64) ∧ (fabS (ptr 0x40) id).my.reds = [] ∧ (fabS (ptr 0x40) (fun c => { c with reds := List.replicate 15 (red9 none) })).my.reds.length < 16 ∧
    ((fabS (ptr 0x40) id).part 0).roomFor (.agent (.ctx 1)) 0#3 7#16 1 ≠ none :=
  ⟨issues_of _ _ _ (by decide +kernel) (by decide +kernel), by decide +kernel, by decide +kernel, by decide +kernel, by decide +kernel, by decide +kernel, by decide +kernel⟩
theorem wit_FabricIssue_reductionWait :
    okB ((fabS (ptr 0x40) id).plainAccess ((fabS (ptr 0x40) id).my.view (.ctx 1)) (ptr 0x40) { size := 8, align := 8 }) ⟨0x10040, 0, .hbm⟩ = true ∧ BitVec.ofNat 64 ((fabS (ptr 0x40) id).read 0 0x10040 8) = 9#64 ∧
    (fabS (ptr 0x40) id).my.reds.find? (·.name == 9#64) = none ∧ (fabS (ptr 0x40) (fun c => { c with reds := [red9 (some (1#64, 2#64))] })).my.reds.find? (·.name == 9#64) = some (red9 (some (1#64, 2#64))) := by decide +kernel
theorem wit_FabricIssue_reductionReply : (fabS (ptr 0x40) (fun c => { c with reds := [red9 (some (1#64, 2#64))] })).Issues .sOnly [.x 1#5 true] := issues_of _ _ _ (by decide +kernel) (by decide +kernel)
/-- A strip of INT64 elements, one of them left; the offsets in v16 are 0. -/
def fabV (f : Ctx → Ctx) : State := fabS (ptr 56) (fun c => f { c with strip := { opened := true, owner := .S, vl := 1#64, vtype := 1#2 ++ 3#4 } })
theorem wit_FabricIssue_vector : (fabV id).fmt = 3 ∧ (fabV id).grp = 2 ∧ max 1 ((fabV id).grp * 32 / (fabV id).eb) = 1 ∧ (fabV id).my.vfab = none ∧ (fabV id).my.vbeg.toNat < (fabV id).my.strip.vl.toNat ∧
    (fabV id).RunsMem true true [.x 1#5 true] [(16#6, 1)] ∧ (fabV id).RunsMem true true [.x 1#5 true] [(62#6, 2), (16#6, 1)] ∧
    ((fabV id).farElts 0 8 (fun i => ptr 56 + BitVec.ofNat 64 ((fabV id).elem 16#6 32 i)) ((fabV id).acts false)) = ([⟨0, ptr 56, farOf 56⟩], none) ∧
    ((fabV id).part 0).cover (.agent (.ctx 1)) 7#16 5#32 56#48 8 = .none ∧ Apart (62#6, 2) (16#6, 1) :=
  ⟨by decide +kernel, by decide +kernel, by decide +kernel, by decide +kernel, by decide +kernel,
    runsMem_of _ _ _ _ _ (by decide +kernel) (by decide +kernel) (by decide +kernel) (by decide +kernel) (by decide +kernel),
    runsMem_of _ _ _ _ _ (by decide +kernel) (by decide +kernel) (by decide +kernel) (by decide +kernel) (by decide +kernel), by decide +kernel, by decide +kernel, Or.inr (by decide)⟩
def under : VFab := { cap := { vl := 1, vbeg := 0, vtype := 1#2 ++ 3#4, frm := 0#3, vqcfg := 0#6, pblk := 0#17, scalar := 0#64 }, hi := 1, stop := none, vals := [(0, 0x55)] }
theorem wit_FabricIssue_vectorEnd : (fabV (fun c => { c with vfab := some under })).Issues .sOnly [] ∧ (fabV (fun c => { c with vfab := some under })).vfabWaits (.ctx 1) = false ∧
    under.begun = true ∧ under.todo = [] ∧ under.bad = none ∧ under.stop = none ∧ under.hi = under.cap.vl ∧ under.cap.vbeg < under.hi ∧ (∀ r, ((fabV (fun c => { c with vfab := some under })).my.getV r).stream = none) :=
  ⟨issues_of _ _ _ (by decide +kernel) (by decide +kernel), by decide +kernel, rfl, rfl, rfl, rfl, rfl, by decide, by decide +kernel⟩
/-- A fabric load returned 5 and a release into x1, which S has not read. -/
theorem wit_FabricIssue_read : (let s := ctx1 .S (fun c => { c.setX 1#5 5#64 with fabReads := [(1#5, 5#64, [⟨0, 4, 3, 3#3, {}, [], []⟩])] })
    s.ndl = .S ∧ s.my.returnFault .S = none ∧ s.my.isFullX 1#5 = true ∧ s.my.pend = [] ∧ s.my.getX 1#5 = 5#64) := by decide

/-! ## The manager, events of a context, asynchronous faults -/

/-- S of hub core 0 with x1 = 1 and x2 as given, and context 1 as given. -/
def mgr (x2 : Word) (c : Ctx) : State := (hubS (fun c => (c.setX 1#5 1#64).setX 2#5 x2)).setRegs (.ctx 1) c
/-- What the clauses on a context ask. -/
def namesB (s : State) : Bool := allowedB s .manager [.x 1#5 true, .x 2#5 true] && s.my.getX 1#5 == BitVec.ofNat 64 1 && s.who == .hub 0
theorem wit_ManagerInstructions : (mgr 0#64 {}).Issues .manager [.x 1#5 true, .x 2#5 true] ∧ (mgr 0#64 {}).who = .hub 0 ∧ (mgr 0#64 {}).my.getX 1#5 = BitVec.ofNat 64 1 ∧
    (mgr 0#64 {}).live 1 = true ∧ ((mgr 0#64 {}).regs (.ctx 1)).life = .running ∧ ((mgr 0#64 {}).regs (.ctx 1)).request = none ∧ (mgr 0#64 { life := .ended }).live 1 = false ∧
    ((mgr 0#64 { core := some 0 }).regs (.ctx 1)).core.isSome = true :=
  ⟨issues_of _ _ _ rfl rfl, rfl, rfl, rfl, rfl, rfl, rfl, rfl⟩
/-- A hub core in an event, its return point noted. -/
def inEvent : State := (mgr 0#64 {}).setHub 0 { (mgr 0#64 {}).hub 0 with ev := true, ret := some (0x80#64, false) }
theorem wit_ManagerInstructions_events : inEvent.Allowed .manager [] ∧ (inEvent.hub 0).ev = true ∧ (inEvent.hub 0).ret = some (0x80#64, false) ∧ (mgr 0#64 {}).Allowed .manager [] ∧ ((mgr 0#64 {}).hub 0).ev = false :=
  ⟨allowed_of _ _ _ rfl, rfl, rfl, allowed_of _ _ _ rfl, rfl⟩
theorem wit_ManagerInstructions_resume : (mgr 0#64 { life := .held }).live 1 = true ∧ ((mgr 0#64 { life := .held }).regs (.ctx 1)).life = .held ∧ ((mgr 0#64 { life := .held }).regs (.ctx 1)).nS.loops = [] ∧
    ((mgr 0#64 { life := .held, skip := true }).regs (.ctx 1)).skip = true ∧ ((mgr 0#64 { life := .held }).regs (.ctx 1)).skip = false := ⟨rfl, rfl, rfl, rfl, rfl⟩
theorem wit_ManagerInstructions_scrub : ((mgr 0#64 {}).my.getX 1#5).extractLsb' 16 48 = 0#48 ∧ ((mgr 0#64 {}).core 1).disabled = false ∧ ((mgr 0#64 {}).core 1).resident = none ∧
    (hubS (·.setX 1#5 0x10000#64)).Issues .manager [.x 1#5 true] ∧ ((hubS (·.setX 1#5 0x10000#64)).my.getX 1#5).extractLsb' 16 48 ≠ 0#48 ∧
    (((mgr 0#64 {}).setCore 1 { resident := some 1 }).core 1).resident.isSome = true := ⟨by decide, rfl, rfl, issues_of _ _ _ rfl rfl, by decide, rfl⟩
/-- The places of a skein, and places that no skein has. -/
theorem wit_ManagerInstructions_place : ((0x100#64).toNat % 256 = 0 ∧ (0x100#64).toNat < hbmEnd) ∧ ¬((0x101#64).toNat % 256 = 0 ∧ ((0x101#64).toNat < hbmEnd ∨ (hostStart ≤ (0x101#64).toNat ∧ (0x101#64).toNat < hostEnd))) ∧
    (let top : Word := BitVec.ofNat 64 (hostEnd - 256); top.toNat % 256 = 0 ∧ hostStart ≤ top.toNat ∧ top.toNat < hostEnd) := by decide
theorem wit_ManagerInstructions_save : ((mgr 0#64 { life := .held, core := some 0 }).regs (.ctx 1)).life = .held ∧ ((mgr 0#64 { life := .held, core := some 0 }).regs (.ctx 1)).core.isSome = true ∧
    (let s := (mgr 0#64 { life := .held, core := some 0 }).setHub 0 { (mgr 0#64 {}).hub 0 with save := some ⟨1, 0, 3#5⟩ };
      (s.hub 0).save = some ⟨1, 0, 3#5⟩ ∧ s.live 1 = true ∧ (s.regs (.ctx 1)).life = .held ∧ (s.regs (.ctx 1)).core.isSome = true ∧ s.ndl = .S ∧ (s.hub 0).regs.returnFault .S = none) := ⟨rfl, rfl, rfl, rfl, rfl, rfl, rfl, rfl⟩
/-- A save to 0x100, and one whose last bytes lie past the end of HBM; the bytes of the context, its header and its sections. -/
def saving (addr : Nat) : State := (mgr 0#64 { life := .held, core := some 0 }).setHub 0 { (mgr 0#64 {}).hub 0 with save := some ⟨1, addr, 3#5⟩ }
def drained (s : State) : State :=
  ((((s.setHub 0 { s.hub 0 with save := none }).onRegs (.ctx 1) Ctx.stopWaits).drain (.ctx 1)).chargeStatic 1).onRegs (.ctx 1) (fun c => { c with saveCount := c.saveCount + 1#64 })
theorem wit_ManagerInstructions_skein : (drained (saving 0x100)).skeinFault true 0x100 4096 = none ∧ (drained (saving (hbmEnd - 256))).skeinFault true (hbmEnd - 256) 512 ≠ none ∧
    (Sparse.find (drained (saving 0x100)).keys 0).isSome = true := by decide +kernel
/-- A context that is switched out. -/
def away : State := mgr 0x100#64 { life := .switchedOut }
/-- Its skein, of a context that has never run: the header, whose core-state section is all that it has, and zeros. -/
def awaySkein : State := away.write 0 0x100 64 (0x4E49454B + 2 ^ 32 + 2 ^ 56 * 16 + 2 ^ 64)
def refusedB (s : State) (e : BitVec 8 × Word) : Bool := match s.checkSkein 1 0x100 0 with
  | .error x => x == e
  | .ok _ => false
def loadsB (s : State) : Bool := match s.checkSkein 1 0x100 0 with
  | .error _ => false
  | .ok _ => true
theorem wit_ManagerInstructions_load : away.live 1 = true ∧ (away.regs (.ctx 1)).core = none ∧ away.loadCore (away.regs (.ctx 1)) = some 0 ∧ refusedB away (0x15#8, 0#64) = true := by decide +kernel
theorem wit_ManagerInstructions_loads : awaySkein.live 1 = true ∧ awaySkein.loadCore (awaySkein.regs (.ctx 1)) = some 0 ∧ loadsB awaySkein = true := by decide +kernel
/-- Hub core 0 with an event of hub core 1 and one of its own. -/
def twoEvents : State := { mgr 0#64 {} with events := [⟨1#3, 2#8, 1⟩, ⟨0#3, 1#8, 1⟩] }
theorem wit_ContextEvents_entry : twoEvents.moduleOn = true ∧ (twoEvents.hub 0).stopped = false ∧ (twoEvents.hub 0).save = none ∧ (twoEvents.hub 0).regs.vfab = none ∧ (twoEvents.hub 0).ev = false ∧
    twoEvents.events = [⟨1#3, 2#8, 1⟩] ++ (⟨0#3, 1#8, 1⟩ : Event) :: [] ∧ (∀ x ∈ [(⟨1#3, 2#8, 1⟩ : Event)], x.hub.toNat ≠ 0) ∧ (⟨0#3, 1#8, 1⟩ : Event).hub.toNat = 0 ∧ (inEvent.hub 0).ev = true :=
  ⟨rfl, rfl, rfl, rfl, rfl, rfl, by decide, rfl, rfl⟩
theorem wit_ContextEvents_request : (mgr 0#64 { request := some .hold }).live 1 = true ∧ ((mgr 0#64 { request := some .hold }).regs (.ctx 1)).life = .running ∧
    ((mgr 0#64 { request := some .hold }).regs (.ctx 1)).request.isSome = true ∧ (∀ n, (((mgr 0#64 { request := some .hold }).regs (.ctx 1)).needle n).active = false) ∧ ((mgr 0#64 {}).regs (.ctx 1)).request = none :=
  ⟨rfl, rfl, rfl, by intro n; cases n <;> rfl, rfl⟩
theorem wit_ContextEvents_fork : (let s := mgr 0#64 { request := some .hold, nextSeq := 5, vecQ := [{ word := 0#32, seq := 1 }], nV := { run := .running, forkWait := 2 } }
    let c := s.regs (.ctx 1)
    (c.nV.forkWait ≠ 0 ∧ c.forkHeld c.nV = true) ∧ c.nV.active = true) := by decide
theorem wit_ContextEvents_wait : (ctx1 .S (fun c => { c with nS := { c.nS with run := .blocked .full } })).runs (.ctx 1) = true ∧
    (ctx1 .S (fun c => { c with nS := { c.nS with run := .blocked .join } })).runs (.ctx 1) = true ∧ ((ctx1 .S (fun c => { c with nS := { c.nS with run := .blocked .join } })).regs (.ctx 1)).drained = true ∧
    ((ctx1 .S (fun c => { c with nS := { c.nS with run := .blocked .join }, matQ := [{ word := 0#32 }] })).regs (.ctx 1)).drained = false ∧ ((ctx1 .S id).regs (.ctx 1)).nS.run = .running := ⟨rfl, rfl, rfl, rfl, rfl⟩
/-- A fault that waits for x1. -/
def pendX1 : PendingFault :=
  { seq := 1, xd := some 1#5, status := 0#64, iword := 0#32, kind := .copy, sub := 0#8, cause := 0x03#8, ptr := 0#64, val1 := 0#64, ipc := 0x80#64 }
theorem wit_AsynchronousFault : (let s := ctx1 .S (fun c => { c with pend := [pendX1] });
    s.who = .ctx 1 ∧ s.my.interlocked s.ndl .base = false ∧ s.my.isFullX 1#5 = true ∧ s.my.pend = [pendX1] ∧ pendX1.xd = some 1#5) := ⟨rfl, rfl, rfl, rfl, rfl⟩

/-- A fault that the array has recorded, and one of a store of stream 0. -/
def arrayFault : ArrayFault := ⟨0#64, 0#32, 0#8, 0#64, 0#64, 0x80#64, 1⟩
theorem wit_AsynchronousFault_recorded : (let s := ctx1 .S (fun c => { c with arr := { fault := some arrayFault } })
    s.my.pend = [] ∧ s.my.arr.fault = some arrayFault ∧ s.my.drained = true ∧ s.vdrained s.who = true ∧ s.ndl = .S ∧ s.my.interlocked s.ndl .base = false ∧ Class.base.allows s.ndl = true ∧
      s.my.interlocked s.ndl .sOnly = false ∧ Class.sOnly.allows s.ndl = true ∧ Class.sOnly.inlineAllowed s.my = true) := by decide
theorem wit_AsynchronousFault_store : (let p : PendingFault := { pendX1 with xd := none, stream := some 0#3 }
    let s := ctx1 .S (fun c => { c with pend := [p] })
    s.my.pend = [p] ∧ s.my.arr.fault = none ∧ p.stream = some (s.my.fsel.extractLsb' 0 3) ∧ s.storesLeft s.who (s.my.fsel.extractLsb' 0 3) = false) := by decide
/-- What the clauses on the classes ask: an empty matrix queue, copies done, a strip of INT64 on S, a full rd, V before `vadd.vx` with x1 named by the fault. -/
theorem wit_AsynchronousFault_classes : (let s := ctx1 .S (fun c => { c with pend := [pendX1] })
    s.my.interlocked s.ndl .matrix = false ∧ Class.matrix.allows s.ndl = true ∧ Class.matrix.inlineAllowed s.my = true ∧ s.my.interlocked s.ndl .copy = false ∧ Class.copy.allows s.ndl = true ∧
      Class.copy.inlineAllowed s.my = true ∧ s.my.matQ = [] ∧ s.my.vecQ = [] ∧ s.my.copyQ = [] ∧ s.my.copies = [] ∧ s.my.memHeld = false ∧ (s.my.needle s.ndl).part = none ∧ s.fmt ≤ 9 ∧
      (8#6).toNat % s.grp = 0 ∧ (8#6).toNat + s.grp ≤ 64 ∧ s.my.isFullX 5#5 = true ∧ (4#5).toNat ≤ 4 ∧ rmOf 4#3 ≠ none ∧ s.readCsr 0x003 ≠ none ∧ csrManager 0x003 = false ∧ csrReadOnly 0x003 = false) ∧
    (let s := vecS 3 1 35 3 0#6 (fun c => { c with pend := [pendX1] })
     s.ndl = .V ∧ s.my.nV.part = none ∧ s.my.barred = false ∧ addX.src = .x 1#5 ∧ s.my.interlocked s.ndl .vector = false ∧ Class.vector.allows s.ndl = true ∧ addX.checkIssue (addX.capture s.my) s.myLanes.length s = none ∧
       (addX.sources (addX.shape (addX.capture s.my) s.myLanes.length) s.my).all (readyB s.my) = true) := ⟨by decide, by decide +kernel⟩

/-! ## The Loom, tenants, the fabric's packets, the platform -/

/-- S of context 1 with x1 at a record in slot 1 whose one bit of note is its kind, bank; images 0 and 1 are those of functions 0 and 1; function 1 has that record in its queue. -/
def poster (p : Part) (f : Func) : State :=
  { (ctx1 .S (fun c => (seat (rw 2048) c).setX 1#5 (ptr 0x400))).write 0 0x10400 8 (0x20 + 2 ^ 32) with images := [(0, {}), (1, { vf := 1#32 })], parts := [(0, p)], funcs := [(1, f)] }
def oneRecord : Func := { enabled := true, qbase := 0x10400, tail := 1#32 }
theorem wit_LoomSubmission_post : (let s (p : Part) := (poster p {}).write 0 0x10400 8 0x20
    s {} |>.Issues .sOnly [.x 1#5 true]) ∧ (let s (p : Part) := (poster p {}).write 0 0x10400 8 0x20
    okB ((s {}).plainAccess ((s {}).my.view (.ctx 1)) (ptr 0x400) { size := 128, align := 128 }) ⟨0x10400, 0, .hbm⟩ = true ∧
    (s {}).refusal 0 0 0 (BitVec.ofNat 1024 ((s {}).read 0 0x10400 128)) (some 0) none = none ∧ ¬ min 32767 32767 ≤ ((s {}).part 0).nodes.length ∧
    min ((s { quota := 0 }).part 0).quota 32767 ≤ ((s { quota := 0 }).part 0).nodes.length ∧
    ({ s {} with images := [] } : State).refusal 0 0 0 (BitVec.ofNat 1024 ((s {}).read 0 0x10400 128)) (some 0) none = some 2#8) :=
  ⟨issues_of _ _ _ (by decide +kernel) (by decide +kernel), by decide +kernel⟩
theorem wit_LoomSubmission_tail : (16#32 - oneRecord.head).toNat ≤ 2 ^ oneRecord.qn ∧ 2 ^ oneRecord.qn < (17#32 - oneRecord.head).toNat ∧ (poster {} oneRecord).enabled 1 = true ∧ (poster {} {}).enabled 1 = false := by decide +kernel
theorem wit_LoomSubmission_take : (let s := poster { func := some 1 } oneRecord
      let f := s.func 1
      let r : NodeRecord := BitVec.ofNat 1024 (s.read f.queueKey (f.qbase + 128 * (f.head.toNat % 2 ^ f.qn)) 128)
      let stop := (f.adv.find? (fun t => (t - f.head).toNat > 0)).getD f.tail
      s.enabled 1 = true ∧ (s.part f.part).func = some 1 ∧ f.head ≠ f.tail ∧ ¬ min (s.part f.part).quota 32767 ≤ (s.part f.part).nodes.length ∧ recImage r = 1 ∧
      s.refusal f.part 1 (recImage r) r none (some (f.head, stop)) = none ∧ ({ s with images := [] } : State).refusal f.part 1 (recImage r) r none (some (f.head, stop)) = some 2#8) := by decide +kernel

/-- Partition 0 with one node of function 0. -/
def loom (d : Node) : State := ({ State.reset with funcs := [(0, { enabled := true })] } : State).setPart 0 { func := some 0, nodes := [d] }
def aNode (r : Nat) (level : BitVec 3) (st : NodeState) : Node := { handle := 1, vf := 0, image := 0, record := BitVec.ofNat 1024 r, qidx := some 0#32, level := level, state := st }
theorem wit_LoomEvents_dispatch : (let s := loom (aNode 0 0#3 .ready)
    let p := s.part 0
    p.scan.all (fun d => !s.swatchAbsent d || d.swatchPosted) = true ∧ p.scan.find? (s.dispatchable 0 []) = some (aNode 0 0#3 .ready) ∧ recKind (aNode 0 0#3 .ready).record = 0 ∧
      s.placement 0 (aNode 0 0#3 .ready) [] = some [0] ∧ ((loom (aNode 0 0#3 .running)).part 0).scan.find? ((loom (aNode 0 0#3 .running)).dispatchable 0 []) = none) := by decide +kernel
theorem wit_LoomEvents_completion : (let d := aNode 0 0#3 .running
    ((loom d).part 0).nodes.find? (·.handle == 1) = some d ∧ d.state = .running ∧ recKind d.record = 0 ∧ d.ctxs = [] ∧ d.failed = false ∧ recIrq d.record = false ∧ d.succs = [] ∧ d.fwd = [] ∧
      ({ d with ctxs := [1] } : Node).ctxs ≠ []) := by decide +kernel
theorem wit_LoomEvents_gang : (let d := aNode (8 + 2 ^ 127) 7#3 .ready
    ((loom d).part 0).scan.head? = some d ∧ d.level = 7#3 ∧ recKind d.record = 0 ∧ recWidth d.record ≠ 0 ∧ ((loom d).part 0).gangs.any (·.1 == d.handle) = false ∧ recPin d.record = true ∧
      ({ (loom d).part 0 with gangs := [(1, 0)] } : Part).gangs.any (·.1 == d.handle) = true) := by decide +kernel
theorem wit_LoomEvents_slice : (let s := (loom (aNode 0 0#3 .running)).setRegs (.ctx 1) {}
    let t := { s with funcs := [(0, { enabled := true }), (1, { enabled := true })] }
    (t.part 0).func = some 0 ∧ t.nextFunc 0 (some 0) ≠ some 0 ∧ Sparse.find t.ctxs 1 = some {} ∧ ({} : Ctx).vf = 0 ∧ ({} : Ctx).part = 0 ∧ ({} : Ctx).life = .running) := by decide +kernel
theorem wit_LoomEvents_gate : (let g : Gate := { on := true }
    let p : Part := { ({} : Part) with gates := (({} : Part).gates).set 7 g }
    (p.gates.get 7).on = true ∧ (p.gates.get 7).drained = false ∧ p.nodes.any (fun d => d.state == .running && d.gated g) = false ∧ (({} : Part).gates.get 7).on = false) := by decide +kernel
theorem wit_LoomEvents_coalescing : ({ timer := true, counts := [(63, 1)] } : Func).timer = true ∧ (63, 1) ∈ ({ timer := true, counts := [(63, 1)] } : Func).counts ∧ ({} : Func).timer = false := by decide

/-- Endpoint 0 knows incarnation 4 of endpoint 9, whose sequence 6 has applied serial 2 with a held failure. Region 5 is 64 bytes at 0x20000, writable or not. -/
def ownerQ : OwnerSeq := { src := 9#16, sid := 6#16, applied := 2#32 }
def heldE : CacheEntry := ⟨9#16, 6#16, 2#32, 0x0E#8, 0#64⟩
def owner (writable : Bool) : State :=
  ((State.reset.write 0 0x50 16 ((if writable then 2 ^ 56 else 0) + 2 ^ 55 + 0x20000 + 2 ^ 64 * 64)).setPart 0 { sources := [(9, 4#16)], ownerSeqs := [ownerQ], cache := [heldE] })
/-- A packet of that source: its operation, serial, offset, byte count. -/
def pkt (op : BitVec 8) (serial off n : Nat) : Packet :=
  { blankPacket with op := op, src := 9#16, inc := 4#16, sid := 6#16, key := 5#32, serial := BitVec.ofNat 32 serial, offset := BitVec.ofNat 48 off, n := BitVec.ofNat 16 n, opd1 := 3#64 }
theorem wit_FabricOwner : (owner true).farJudge ((owner true).part 0) 5#32 true false [56] 8 = 0#8 ∧ (owner true).farJudge ((owner true).part 0) 5#32 true false [0] 64 = 0#8 ∧
    (owner true).farJudge ((owner true).part 0) 5#32 true false [57] 8 = 0x0E#8 ∧ (owner true).farJudge ((owner true).part 0) 5#32 false true [56] 8 = 0#8 ∧ (owner false).farJudge ((owner false).part 0) 5#32 false true [56] 8 = 0x0D#8 ∧
    (∀ op ∈ [0x01#8, 0x02#8, 0x03#8, 0x04#8, 0x05#8, 0x06#8, 0x07#8, 0x08#8, 0x0E#8, 0x0F#8],
      (pkt op 3 56 8).op = op ∧ (pkt op 3 56 8).rsp = false ∧ (pkt op 3 56 8).dst = ((owner true).part 0).epid ∧ Sparse.find ((owner true).part 0).sources (pkt op 3 56 8).src.toNat = some (pkt op 3 56 8).inc ∧
      ((owner true).part 0).ownerSeqs.find? (·.isOf (pkt op 3 56 8)) = some ownerQ ∧ (pkt op 3 56 8).serial = ownerQ.applied + 1#32 ∧ (pkt op 3 56 8).ch = false) ∧
    ((owner true).part 0).cache.length < 65536 := by decide +kernel
/-- An indexed packet whose one offset, 56, stands in its payload. -/
theorem wit_FabricOwner_indexed : (let pk := withPayload (pkt 0x07#8 3 0 1) (natFlits 4 56)
    indexOffsets pk = [56] ∧ indexSize pk = 8 ∧ (owner true).farJudge ((owner true).part 0) pk.key true false (indexOffsets pk) (indexSize pk) = 0#8 ∧
      (owner true).farJudge ((owner true).part 0) pk.key false true (indexOffsets pk) (indexSize pk) = 0#8) := by decide +kernel
theorem wit_FabricOwner_again : (let pk := pkt 0x02#8 2 0 8
    let p := (owner true).part 0
    (pk.serial - ownerQ.applied).toNat = 0 ∧ (p.cache.filter (fun x => !(x.isOf pk && !serialLater x.serial pk.ack))).find? (fun x => x.isOf pk && x.serial == pk.serial) = some heldE ∧
      ({ pk with sid := 7#16 } : Packet).new = false ∧ p.ownerSeqs.any (·.isOf { pk with sid := 7#16 }) = false) := by decide +kernel
theorem wit_FabricOwner_revoke : (owner true).region ((owner true).part 0) 5#32 = ⟨true, true, 0#7, 0x20000#48, 0#16, 64#48⟩ ∧ (owner true).region ((owner true).part 0) 0x10005#32 = ⟨true, true, 0#7, 0x20000#48, 0#16, 64#48⟩ ∧
    (0x10005#32).extractLsb' 16 16 ≠ 0#16 ∧ (∀ k, k < 8 → (owner true).keyValid 0 (((owner true).part 0).regionAddr 5#32 + k)) := ⟨by decide +kernel, by decide +kernel, by decide, fun _ _ _ => by decide +kernel⟩

/-- A swap of context 1 that waits for its answer in x5. -/
def swapOp : FabOp := { pk := { blankPacket with op := 0x05#8, key := 5#32, n := 8#16, serial := 1#32 }, dest := .xreg 5#5, issuers := [⟨1, 0#32, 0#64, 0#64⟩], sent := true }
def swapSeq : Seq := { who := .agent (.ctx 1), stream := 0#3, ep := 9#16, sid := 6#16, next := 2#32, started := true, ops := [swapOp] }
def swapReply : Packet := { blankPacket with op := 0x05#8, rsp := true, src := 9#16, sid := 6#16, serial := 1#32, inc := 4#16, opd0 := 0x77#64 }
theorem wit_FabricRequester : (let s := (ctx1 .S id).setPart 0 { seqs := [swapSeq] }
    (s.part 0).seqs = [swapSeq] ∧ swapSeq.ops = [swapOp] ∧ swapSeq.who = .agent (.ctx 1) ∧ (s.regs (.ctx 1)).life = .running ∧ swapSeq.sid = swapReply.sid ∧ swapSeq.ep = swapReply.src ∧ swapSeq.inc = none ∧ swapOp.sent = true ∧
      swapOp.dest = .xreg 5#5 ∧ swapOp.pk.op = swapReply.op ∧ swapReply.op = 0x05#8 ∧ swapOp.pk.serial = swapReply.serial ∧ swapReply.rsp = true ∧ swapReply.dst = (s.part 0).epid ∧ swapReply.status = 0#8) := by decide +kernel

/-! ## Tenants, settings, power -/

theorem wit_TenantReset : (ctx1 .S id).live 1 = true ∧ ((ctx1 .S id).regs (.ctx 1)).part = 0 ∧ ((ctx1 .S id).regs (.ctx 1)).part ≠ 1 ∧ ((ctx1 .S id).regs (.ctx 1)).core = some 0 ∧ Sparse.find (ctx1 .S id).ctxs 1 ≠ none ∧
    (let f : Func := { ranges := [{ base := 0, len := 0x100 }, { base := 0x1000, len := 0x200, mark := some 0x100 }] };
      f.ranges.find? (·.mark.isSome) = some { base := 0x1000, len := 0x200, mark := some 0x100 } ∧ ({ f with ranges := f.ranges.take 1 } : Func).ranges.find? (·.mark.isSome) = none) := by decide +kernel
/-- Functions 1 and 1024, enabled, function 1 with a window of 64 bytes at 0x20000 under key 0. -/
def tenant : State := { State.reset with funcs := [(1, { enabled := true, wins := (({} : Func).wins).set 7 { base := 0x20000, len := 64 } }), (1024, { enabled := true })] }
theorem wit_TenantSettings : tenant.enabled 1 = true ∧ 56 + 8 ≤ ((tenant.func 1).wins.get 7).len ∧ ((tenant.func 1).wins.get 7).base + 56 + 8 ≤ hbmEnd ∧ ¬ 57 + 8 ≤ ((tenant.func 1).wins.get 7).len ∧
    tenant.badFor true 0x20038 8 = none ∧ tenant.badFor false 0x20038 8 = none ∧ ({ tenant with badMem := [(0x4007, ())] } : State).badFor true 0x20038 8 = some 0x20038 ∧
    (Sparse.find tenant.keys ((tenant.func 1).wins.get 7).key.toNat).isSome = true ∧ State.reset.enabled 1 = false ∧ tenant.enabled 0 = false ∧ (1#7 : BitVec 7) ≠ 0#7 ∧
    0xFFF8 + 8 ≤ 0x10000 ∧ 0x10000 < 0xFFF9 + 8 ∧ (tenant.func 1).committed = none ∧ ({ tenant.func 1 with committed := some 7#63 } : Func).committed = some 7#63 := by decide +kernel
/-- Functions 1 and 1,024 are there, 0 and 1,025 are not. -/
theorem wit_RegisterWrites : tenant.enabled 1 = true ∧ tenant.enabled 1024 = true ∧ (1 ≤ 1024 ∧ 1024 ≤ 1024) ∧ ¬ (1 ≤ 0 ∧ 0 ≤ 1024) ∧ ¬ (1 ≤ 1025 ∧ 1025 ≤ 1024) ∧ (tenant.func 2).enabled = false ∧
    (0x10000#64).extractLsb' 0 16 = 0#16 ∧ (tenant.core 0).resident = none ∧ ((tenant.setCore 0 { resident := some 1 }).core 0).resident ≠ none ∧ tenant.bootFailed = false ∧
    ({ tenant with bootFailed := true } : State).bootFailed = true ∧ (1#64).getLsbD 0 = true ∧ (2#64).getLsbD 0 = false := by decide +kernel
/-- The outcome of a register write to the tenant: the field it leaves, at the boundaries of its range and one past each. -/
noncomputable def wrote {α : Type} (r : HwReg) (v : Nat) (f : State → α) : Option α := match exec (.registerWrite r (BitVec.ofNat 64 v)) tenant with
  | .next t => some (f t)
  | _ => none
theorem wit_RegisterWrites_queueSize : [3, 4, 16, 17].map (fun v => wrote (.queueSize 1) v (fun t => (t.func 1).ringSize)) = [some 16, some 16, some 65536, some 16] := by decide +kernel
theorem wit_RegisterWrites_weight : [0, 1, 255, 256].map (fun v => wrote (.funcWeight 1024) v (fun t => (t.func 1024).weight)) = [some 1, some 1, some 255, some 1] := by decide +kernel
theorem wit_RegisterWrites_aging : (let was := (tenant.part 0).aging
    [9, 10, 65535, 65536].map (fun v => wrote (.aging 0) v (fun t => (t.part 0).aging)) = [some was, some 10, some 65535, some was]) := by decide +kernel
/-- Firmware that the fuses of a new device accept, and three that they do not. -/
theorem wit_PowerAndPlatform : (let good (fw : Firmware) (f : Fuses) : Prop := fw.keyHash = f.keyHash ∧ fw.signed = fw.digest ∧ f.minVersion ≤ fw.version
    good {} State.reset.fuses ∧ ¬ good { keyHash := 1#512 } State.reset.fuses ∧ ¬ good { signed := 1#512 } State.reset.fuses ∧ ¬ good { version := 1 } { minVersion := 2 } ∧ good { version := 2 } { minVersion := 2 }) ∧
    (3 ≤ 3 ∧ 3 ≤ 6 ∧ 4 ≤ 7 ∧ 7 ≤ 7) ∧ (1200 ≤ 1200 ∧ 3000 ≤ 3000 ∧ 1199 < 1200 ∧ 3000 < 3001) ∧ State.reset.residents = [] := by decide +kernel
noncomputable def limited (w : Nat) : Option Rat := match exec (.plimitSet w) { State.reset with plimit := 2000 } with
  | .next t => some t.plimit
  | _ => none
theorem wit_PowerAndPlatform_limit : (limited 1199, limited 1200, limited 3000, limited 3001) = (some 2000, some 1200, some 3000, some 2000) := by decide +kernel

/-! ## Further forms of the statements -/

/-- Does an instruction answer a next state? -/
noncomputable def nextB (e : Exec) : Bool := match e with
  | .next _ => true
  | _ => false

/-- Atomics, barrier words, vector stores and bank updates answer next states; the SC finds its granule reserved or not. -/
theorem wit_StoreFrame_more : ([Instr.amoaddD false false 3 1 2, .scD false false 3 1 2, .lrD false false 3 1].all (fun i => nextB (exec i (mem1 56))) &&
      nextB (exec (.scD false false 3 1 2) ((mem1 56).onMy (fun c => { c with resv := some 0x1003 }))) &&
      [Instr.barInit 1 true, .barExp 1 2 true true, .barArr 1 2 4 true true, .barWait 1 2 4 true true].all (fun i => nextB (exec i (bar 1 1))) &&
      [Instr.vst 8 1 true false, .vstNt 8 1 true false, .vstSc 8 1 true false, .vsts 8 1 2 true false, .vstx 8 1 16 true false].all (fun i => nextB (exec i (memS (rw 64) (ptr 56)))) &&
      [Instr.vstFe 8 1 true false, .vstsFe 8 1 2 true false, .vstxFe 8 1 16 true false].all (fun i => nextB (exec i (memS (rw 64) (BitVec.ofNat 64 spadTop)))) &&
      [Instr.vbadd 8 16 1 true false, .vbor 8 16 1 true false].all (fun i => nextB (exec i (memS bankE (ptr 56)))) &&
      [Instr.vbfadd 8 16 1 true false, .vbfmax 8 16 1 true false].all (fun i => nextB (exec i vbf))) = true := by decide +kernel

/-- Bases of each region and of none; the last 8 bytes of slot 0, of each fixed slot and of each region of slot 4091. -/
theorem wit_AccessChecks_bases : regionOf (bankE.base.toNat / 256 * 256) = some .bank ∧ regionOf hostStart = some .host ∧ regionOf spadStart = some .spad ∧ regionOf mmioStart = some .mmio ∧ regionOf hbmEnd = none ∧
    regionOf ((ctx1 .S id).my.slot0.base.toNat / 256 * 256) = some .hbm ∧ 0xFF8 + 8 ≤ (ctx1 .S id).my.slot0.limit.toNat ∧ (ctx1 .S id).my.slot0.packed = false := by decide
theorem wit_AccessChecks_fixed : (let v := (memS (rw 64) 0#64).my.view (.ctx 1)
    v.manager = false ∧ (bankSize - 8) + 8 ≤ (v.fixed.get 0).limit.toNat ∧ (bankSize - 8) + 8 ≤ 2 ^ 27 ∧ regionOf ((v.fixed.get 0).base.toNat + (bankSize - 8)) = some .bank ∧
      regionOf ((v.fixed.get 0).base.toNat + (bankSize - 8) + 8 - 1) = some .bank ∧ (bankSize - 8) + 8 ≤ (v.fixed.get 1).limit.toNat ∧ regionOf ((v.fixed.get 1).base.toNat + (bankSize - 8)) = some .bank ∧
      ((v.fixed.get 1).base.toNat + (bankSize - 8) - bankStart) / bankSize = v.core.getD 0 / 1024 ∧ (spadSize - 8) + 8 ≤ (v.fixed.get 3).limit.toNat ∧
      regionOf ((v.fixed.get 3).base.toNat + (spadSize - 8)) = some .spad ∧ (4092 * 2 ^ 52 + bankSize) % 2 ^ 48 < 2 ^ 29) := by decide
theorem wit_AccessChecks_window : ((hubS id).my.view (.hub 0)).manager = true ∧ [hbmEnd - 8, bankStart, spadStart + 4096 * spadSize - 8, mmioStart].map regionOf = [some .hbm, some .bank, some .spad, some .mmio] ∧
    regionOf (hbmEnd - 8 + 8 - 1) = some .hbm ∧ regionOf (hbmEnd - 7 + 8 - 1) = none ∧ regionOf (spadStart + 4096 * spadSize) = none := by decide

/-- An illegal `frm` does not stop a minimum; a spectral tag stops a conversion at the register that has it, a spatial one a conjugation. -/
def vd5 : State := vecS 7 3 20 19 0#6 (fun c => { c with frm := 5#3 })
theorem wit_VectorFloatArithmetic_frm : vd5.RunsV true true 56#6 vd5.grp [] [(8#6, vd5.grp), (16#6, vd5.grp)] ∧ vd5.my.Spatial [(8#6, vd5.grp), (16#6, vd5.grp)] ∧ rmOf vd5.my.frm = none :=
  ⟨runsV_of _ _ _ _ _ _ _ rfl rfl rfl rfl rfl rfl (by decide) (by decide) (by decide), spatial_of _ _ rfl, rfl⟩
def vc0 : State := vecS 15 1 20 0 0#6 id
def vfT : State := (vecS 6 2 20 0 0#6 id).onMy (fun c => c.setV 9#6 { c.getV 9#6 with tag := 0x10#6 })
theorem wit_VectorComplexConvert_mismatch : vc0.RunsV true true 62#6 vc0.grp [] [(8#6, vc0.grp)] ∧ (vc0.my.getV 8#6).tag.extractLsb' 4 2 = 0#2 ∧ rmOf vfT.my.frm = some .rne ∧
    vfT.RunsV true true 56#6 vfT.grp [] [(8#6, convGroup vfT.grp (formatBits 4) vfT.eb)] ∧ upPair 4 vfT.fmt = true ∧ 1 < convGroup vfT.grp (formatBits 4) vfT.eb ∧
    (vfT.my.getV 9#6).tag.extractLsb' 4 2 ≠ 0#2 ∧ (vfT.my.getV 8#6).tag.extractLsb' 4 2 = 0#2 :=
  ⟨runsV_of _ _ _ _ _ _ _ rfl rfl rfl rfl rfl rfl (by decide) (by decide) (by decide), by decide, rfl,
    runsV_of _ _ _ _ _ _ _ (by decide +kernel) (by decide +kernel) (by decide +kernel) rfl (by decide +kernel) (by decide +kernel) (by decide +kernel) (by decide) (by decide +kernel) (by decide +kernel),
    by decide +kernel, by decide +kernel, by decide +kernel, by decide +kernel⟩
/-- 16 CFP32 elements to CBF16 and back, on 16 lanes. -/
theorem wit_VectorComplexConvert_complexParts : (let s := vecS 5 0 32 0 0#6 id;
      s.RunsV true false 56#6 s.grp [] [(8#6, convGroup s.grp 32 s.eb)] ∧ s.my.Spatial [(8#6, convGroup s.grp 32 s.eb)] ∧ Apart (56#6, s.grp) (8#6, convGroup s.grp 32 s.eb) ∧ s.fmt = 5 ∧
      32 ≤ vlmax s.fmt s.grp (s.lanes s.who) ∧ 16 % s.myLanes.length = 0) ∧
    (let s := vecS 6 1 32 0 0#6 id;
      s.RunsV true false 56#6 s.grp [] [(8#6, convGroup s.grp 16 s.eb)] ∧ s.my.Spatial [(8#6, convGroup s.grp 16 s.eb)] ∧ Apart (56#6, s.grp) (8#6, convGroup s.grp 16 s.eb) ∧ s.fmt = 6) :=
  ⟨⟨runsV_of _ _ _ _ _ _ _ rfl rfl rfl rfl rfl rfl (by decide) (by decide) (by decide), spatial_of _ _ rfl, Or.inr (by decide), by decide, by decide, by decide⟩,
    runsV_of _ _ _ _ _ _ _ rfl rfl rfl rfl rfl rfl (by decide) (by decide) (by decide), spatial_of _ _ rfl, Or.inr (by decide), by decide⟩

/-- The vector memory forms at formats 0, 3 and 7, registers 8 and 16; a `yst` whose group is not full; an inline addition with v9 empty. -/
theorem wit_IssueTraps_memory : (let ok (s : State) : Prop := max 1 (s.grp * 32 / s.eb) ≤ 8 ∧ 16 % max 1 (s.grp * 32 / s.eb) = 0 ∧ 8 % s.grp = 0 ∧ s.my.vfab = none ∧ s.my.memHeld = false ∧ (s.my.needle s.ndl).part = none;
    ok emptied ∧ ok (memS bankE (ptr 56)) ∧ ok vbf ∧ (memS bankE (ptr 56)).fmt = 3 ∧ vbf.fmt = 7) ∧ (∀ r, (emptied.my.getV r).stream = none) ∧ 0#5 ∈ [0#5, 4#5, 5#5, 7#5, 8#5, 9#5, 10#5, 11#5, 12#5, 13#5, 14#5, 16#5] ∧
    (56#6).toNat % mrdGroup emptied.myLanes.length = 0 ∧ emptied.Allowed .copy [] ∧ emptied.my.copyQ = [] ∧ emptied.my.copies = [] :=
  ⟨by decide +kernel, (vec_of emptied [] (by decide +kernel)).1, by decide, by decide +kernel, allowed_of _ _ _ (by decide +kernel), by decide +kernel, by decide +kernel⟩
def ystS : State := recs (fun c => (c.setX 1#5 (ptr 0x40)).setV 8#6 { c.getV 8#6 with full := false }) .C
theorem wit_IssueTraps_copy : ystS.Allowed .copy [.x 1#5 true] ∧ (match ystS.readCopy ystS.who .yst 5#5 8#6 (ystS.my.getX 1#5) with
    | .ok o => !o.invalid o.plan ystS.my && o.plan.grp == 1
    | .error _ => false) = true ∧ (ystS.my.getV 8#6).full = false ∧ ystS.my.vecQ = [] := ⟨allowed_of _ _ _ (by decide +kernel), by decide +kernel, by decide +kernel, by decide +kernel⟩
def inlineHole : State := queues (fun c => c.setV 9#6 { c.getV 9#6 with full := false })
theorem wit_IssueTraps_inline : inlineHole.Allowed .vector [] ∧ inlineHole.ndl = .S ∧ inlineHole.my.vecQ = [] ∧ inlineHole.my.copyQ = [] ∧ addX.checkIssue (addX.capture inlineHole.my) inlineHole.myLanes.length inlineHole = none ∧
    addX.sources (addX.shape (addX.capture inlineHole.my) inlineHole.myLanes.length) inlineHole.my = [.x 1#5 true] ++ .v 8#6 2 true :: [.v 0#6 1 true] ∧ (inlineHole.my.getV 9#6).full = false :=
  ⟨allowed_of _ _ _ (by decide +kernel), by decide +kernel, by decide +kernel, by decide +kernel, by decide +kernel, by decide +kernel, by decide +kernel⟩

/-- An operand with bit 32 set. -/
theorem wit_ManagerInstructions_operand : (hubS (·.setX 1#5 0x100000001#64)).Issues .manager [.x 1#5 true, .x 2#5 true] ∧ ((hubS (·.setX 1#5 0x100000001#64)).my.getX 1#5).extractLsb' 32 32 ≠ 0#32 :=
  ⟨issues_of _ _ _ rfl rfl, by decide⟩

/-! ## The step, decoding -/
theorem wit_StepKeepsRegisters : (∀ a, (State.reset.regs a).Bounded) ∧ (∃ t, exec (.addi 1 1 1) (mem1 0) = .next t) ∧ (∀ c, (mem1 0).who = .ctx c → c < 2 ^ 32) := by
  refine ⟨fun a => ?_, ⟨_, rfl⟩, fun c h => ?_⟩
  · cases a <;> exact ⟨fun n => by cases n <;> exact Nat.zero_le 6, (by decide : 0 < 2 ^ 52), Nat.zero_le 16⟩
  · cases h; decide
theorem wit_StepKeepsTables : ∀ p, (State.reset.part p).Sound := fun p => by
  rw [(rfl : State.reset.part p = {})]
  exact ⟨List.nodup_nil, fun _ h => (List.not_mem_nil h).elim, Nat.zero_le _, List.nodup_nil, Nat.zero_le _⟩
theorem wit_StepKeepsMemoryForm : ({ State.reset with turns := [.event (.keyGenerate 0#7)] } : State).memOk ∧ ∃ t, step { State.reset with turns := [.event (.keyGenerate 0#7)] } = .next t :=
  ⟨(by decide : Memory.wf [] = true), _, rfl⟩
/-- The state in which `addi x1, x0, 5` is fetched next, its turn begun. -/
def placed5 : State := State.reset.withFetchWord 32 0x00500093
theorem wit_StepRunsDecoded : placed5.turns = .needle (.hub 0) .S :: [] ∧
    (let u := { placed5 with turns := [] }.beginTurn (.hub 0) .S;
      u.mayRun (.hub 0) .S = true ∧ u.my.request = none ∧ u.fetchFault u.my u.pc = none ∧ u.fetchWord u.my u.pc = 0x00500093#32) ∧ decode 0x00500093#32 = .ok (.addi 1#5 0#5 5#12) :=
  ⟨by decide +kernel, ⟨by decide +kernel, by decide +kernel, by decide +kernel, by decide +kernel⟩, by rfl⟩
/-- A word that no instruction has, a fetch that fails, a yield point, a needle that does not run, a step without a word and one with a word. -/
theorem wit_StepRunsDecoded_others : ({ State.reset with turns := [.needle (.hub 0) .S] }.beginTurn (.hub 0) .S).mayRun (.hub 0) .S = true ∧
    (({ State.reset with turns := [] }.beginTurn (.hub 0) .S).fetchFault ({ State.reset with turns := [] }.beginTurn (.hub 0) .S).my 0#64).isSome = true ∧
    ({ State.reset with turns := [] }.beginTurn (.hub 0) .V).mayRun (.hub 0) .V = false ∧ (Instr.keyGenerate 1#7).hasWord = false ∧ (Instr.halt).hasWord = true := by decide +kernel
/-- A module that is off heeds a device reset alone; two turns that race. -/
theorem wit_StepRunsDecoded_heeds : ({ State.reset with moduleOn := false } : State).heeds .thermalShutdown = false ∧ ({ State.reset with moduleOn := false } : State).heeds (.deviceReset {} {}) = true ∧
    State.reset.heeds .thermalShutdown = true ∧ ({ State.reset with turns := [.race (.needle (.hub 0) .S) (.hub 0) [] (.event .thermalShutdown)] } : State).turns = .race (.needle (.hub 0) .S) (.hub 0) [] (.event .thermalShutdown) :: [] := by decide
theorem wit_StepRunsDecoded_illegal (i : Instr) : decode 0x0000007F#32 ≠ .ok i := by
  have h : decode 0x0000007F#32 = .error .longSpace := by rfl
  rw [h]; exact fun e => nomatch e
theorem wit_StepRunsDecoded_yield : (let s := ctx1 .S (fun c => { c with request := some .hold, nS := { c.nS with atYield := false, fresh := true, loops := [⟨0x40#64, 0x44#64, 2#64, 0#64⟩] } });
    (s.my.request ≠ none) ∧ s.my.atYieldPoint .S = true) := by decide +kernel
theorem wit_DecodeEncode : (Instr.loop 31#5 0x3FF#11 true).hasWord = true ∧ (Instr.loop 31#5 0x3FF#11 true).wellFormed = true := by decide

/-! ## Ill-formed terms -/

theorem test_illformed_rounding : ([.fmaddD 1 2 3 4 5, .fmsubD 1 2 3 4 6, .fnmsubD 1 2 3 4 5, .fnmaddD 1 2 3 4 6, .faddD 1 2 3 5, .fsubD 1 2 3 6, .fmulD 1 2 3 5, .fdivD 1 2 3 6, .fsqrtD 1 2 5,
    .fcvtWD 1 2 6, .fcvtWuD 1 2 5, .fcvtLD 1 2 6, .fcvtLuD 1 2 5, .fcvtDW 1 2 6, .fcvtDWu 1 2 5, .fcvtDL 1 2 6, .fcvtDLu 1 2 5] : List Instr).all (fun i => !i.wellFormed) = true := by decide
theorem test_illformed_feclr : ([.feclr 0 0, .feclr 2 1, .feclr 3 8, .feclr 4 1] : List Instr).all (fun i => !i.wellFormed) = true := by decide
theorem test_illformed_sync : ([.barArr 1 2 5 false false, .barWait 1 2 7 false false, .fenceS 0 1, .fenceS 4 1, .fenceS 1 5, .loop 1 0 false, .loop 1 0x400 false] : List Instr).all (fun i => !i.wellFormed) = true := by decide
theorem test_illformed_matrix : ([.mtset 0 1 false, .mtset 30 1 false, .mtset 1 0 false, .mtset 1 31 false, .mwld 1 17 false, .mmac 0 1 17 false, .mmac 1 1 7 false, .mmac 3 1 14 false, .mmacz 0 1 17 false,
    .mmacz 5 1 7 false, .mmacz 7 1 14 false, .mrd 1 8 false] : List Instr).all (fun i => !i.wellFormed) = true := by decide
theorem test_wellformed : ([.fmaddD 1 2 3 4 7, .feclr 3 7, .feclr 1 0, .barArr 1 2 4 false false, .fenceS 3 4, .loop 1 1 false, .mtset 29 1 false, .mwld 1 16 false, .mmac 6 1 14 false, .mmacz 1 1 16 false, .mrd 1 7 false] :
    List Instr).all (·.wellFormed) = true := by decide

/-! ## Single steps, their results worked out by hand from the rules -/

def after (i : Instr) (s : State) : State := match exec i s with
  | .next t => t
  | _ => State.reset
theorem test_host_rejects : ((after (.ld 3 1 0) barred).regs (.ctx 1)).trap.map (fun r => (r.cause, r.tval0, r.tval1)) = some (0x17#8, ptr 16, 0xC000020000000010#64) ∧ barred.hostRejects 5 (0x20000000000 + 24) 8 = false := by decide +kernel
/-- R275: a load with no active element leaves each register of its group its own tag, and writes no element. -/
theorem test_vld_inactive_keeps_tags : (let t := after (.vld 8#6 1#5 true true) ((memS (rw 64) (ptr 56)).onMy (fun c => c.setV 9#6 { c.getV 9#6 with tag := 0x10#6 }))
    ((t.my.getV 8#6).tag, (t.my.getV 9#6).tag, (t.my.getV 8#6).data == 0#16384, t.my.instret)) = (0#6, 0x10#6, true, 1#64) := by decide +kernel
/-- S of hub core 0 with two operands in x1 and x2; x3 after the instruction. -/
def x3 (i : Instr) (a b : Word) : Word := (after i (hubS (fun c => (c.setX 1#5 a).setX 2#5 b))).my.getX 3#5
def m1 : Word := 0xFFFFFFFFFFFFFFFF#64
theorem test_add : x3 (.addi 3 1 1) m1 0 = 0 ∧ x3 (.addi 3 1 0x800) 0 0 = 0xFFFFFFFFFFFFF800#64 ∧ x3 (.add 3 1 2) m1 2 = 1 ∧ x3 (.sub 3 1 2) 0 1 = m1 := by decide
theorem test_compare : x3 (.slt 3 1 2) m1 0 = 1 ∧ x3 (.sltu 3 1 2) m1 0 = 0 ∧ x3 (.slti 3 1 0) m1 0 = 1 ∧ x3 (.sltiu 3 1 0xFFF) 5 0 = 1 := by decide
theorem test_shift : x3 (.srai 3 1 63) (1#64 <<< 63) 0 = m1 ∧ x3 (.srl 3 1 2) m1 65 = 0x7FFFFFFFFFFFFFFF#64 ∧ x3 (.sraiw 3 1 4) 0x80000000#64 0 = 0xFFFFFFFFF8000000#64 ∧ x3 (.sllw 3 1 2) 1 31 = 0xFFFFFFFF80000000#64 := by decide
theorem test_word : x3 (.addw 3 1 2) 0x7FFFFFFF#64 1 = 0xFFFFFFFF80000000#64 ∧ x3 (.subw 3 1 2) 0x100000000#64 1 = m1 ∧ x3 (.mulw 3 1 2) 0x10000#64 0x8000#64 = 0xFFFFFFFF80000000#64 := by decide
theorem test_multiply_high : x3 (.mulh 3 1 2) m1 m1 = 0 ∧ x3 (.mulhu 3 1 2) m1 m1 = 0xFFFFFFFFFFFFFFFE#64 ∧ x3 (.mulhsu 3 1 2) m1 m1 = m1 := by decide
theorem test_divide : x3 (.div 3 1 2) 7 0 = m1 ∧ x3 (.rem 3 1 2) 7 0 = 7 ∧ x3 (.div 3 1 2) (1#64 <<< 63) m1 = 1#64 <<< 63 ∧ x3 (.rem 3 1 2) (1#64 <<< 63) m1 = 0 ∧ x3 (.div 3 1 2) (-7) 2 = -3 ∧
    x3 (.remuw 3 1 2) 0x80000000#64 0 = 0xFFFFFFFF80000000#64 ∧ x3 (.divuw 3 1 2) 1 0 = m1 := by decide
theorem test_upper : x3 (.lui 3 0x80000) 0 0 = 0xFFFFFFFF80000000#64 ∧ x3 (.auipc 3 0xFFFFF) 0 0 = 0xFFFFFFFFFFFFF000#64 ∧ (after (.addi 0 1 1) (hubS id)).my.getX 0#5 = 0 := by decide
/-- A jump of 8 and a taken branch of −16 from 0x40; `jalr` to x1 + 1 clears bit 0. -/
theorem test_jump : (after (.jal 3 4) (ctx1 .S id)).pc = 0x48#64 ∧ (after (.jal 3 4) (ctx1 .S id)).my.getX 3#5 = 0x44#64 ∧ (after (.beq 0 0 0xFF8) (ctx1 .S id)).pc = 0x30#64 ∧ (after (.bne 0 0 0xFF8) (ctx1 .S id)).pc = 0x44#64 ∧
    (after (.jalr 3 1 1) (ctx1 .S (·.setX 1#5 0x80#64))).pc = 0x80#64 := by decide
/-- Slot 1 with bytes 0x80, 0x01, 0, 0xFF at offsets 0 to 3; x1 points to them, x2 as given. -/
def bytes4 (x2 : Word) : State := (ctx1 .S (fun c => ((seat (rw 64) c).setX 1#5 (ptr 0)).setX 2#5 x2)).write 0 0x10000 4 0xFF000180
theorem test_load : (after (.lb 3 1 0) (bytes4 0)).my.getX 3#5 = 0xFFFFFFFFFFFFFF80#64 ∧ (after (.lbu 3 1 0) (bytes4 0)).my.getX 3#5 = 0x80#64 ∧ (after (.lh 3 1 0) (bytes4 0)).my.getX 3#5 = 0x180#64 ∧
    (after (.lhu 3 1 2) (bytes4 0)).my.getX 3#5 = 0xFF00#64 ∧ (after (.lw 3 1 0) (bytes4 0)).my.getX 3#5 = 0xFFFFFFFFFF000180#64 ∧ (after (.lwu 3 1 0) (bytes4 0)).my.getX 3#5 = 0xFF000180#64 ∧ (after (.ld 3 1 0) (bytes4 0)).my.getX 3#5 = 0xFF000180#64 := by
  decide +kernel
theorem test_store : (after (.sh 1 2 2) (bytes4 0x1234#64)).read 0 0x10000 4 = 0x12340180 ∧ (after (.sb 1 2 0) (bytes4 0)).read 0 0x10000 4 = 0xFF000100 ∧ (after (.sd 1 2 0) (bytes4 0x1122334455667788#64)).read 0 0x10000 8 = 0x1122334455667788 := by decide +kernel
theorem test_atomic : (after (.amoaddW false false 3 1 2) (bytes4 1)).my.getX 3#5 = 0xFFFFFFFFFF000180#64 ∧ (after (.amoaddW false false 3 1 2) (bytes4 1)).read 0 0x10000 8 = 0xFF000181 ∧
    (after (.amominuW false false 3 1 2) (bytes4 1)).read 0 0x10000 4 = 1 ∧ (after (.amominW false false 3 1 2) (bytes4 1)).read 0 0x10000 4 = 0xFF000180 ∧ (after (.amoxorD false false 3 1 2) (bytes4 m1)).read 0 0x10000 8 = 0xFFFFFFFF00FFFE7F := by decide +kernel
theorem test_reservation : (after (.scW false false 3 1 2) (after (.lrW false false 4 1) (bytes4 7))).my.getX 3#5 = 0 ∧ (after (.scW false false 3 1 2) (after (.lrW false false 4 1) (bytes4 7))).read 0 0x10000 4 = 7 ∧
    (after (.scW false false 3 1 2) (bytes4 7)).read 0 0x10000 4 = 0xFF000180 := by decide +kernel
/-- S of hub core 0 with f1 and f2; f3, and the flags NV DZ OF UF NX, after the instruction. -/
def f3 (i : Instr) (a b : Word) : Word := (after i (hubS (fun c => (c.setF 1#5 a).setF 2#5 b))).my.getF 3#5
def fl (i : Instr) (a b : Word) : BitVec 5 := (after i (hubS (fun c => (c.setF 1#5 a).setF 2#5 b))).my.fflags
def fx3 (i : Instr) (a b : Word) : Word := (after i (hubS (fun c => (c.setF 1#5 a).setF 2#5 b))).my.getX 3#5
def fp1 : Word := 0x3FF0000000000000#64
def inf : Word := 0x7FF0000000000000#64
def qnan : Word := 0x7FF8000000000000#64
theorem test_float : f3 (.faddD 3 1 2 0) fp1 fp1 = 0x4000000000000000#64 ∧ f3 (.fsubD 3 1 2 0) fp1 fp1 = 0 ∧ f3 (.fsubD 3 1 2 2) fp1 fp1 = 1#64 <<< 63 ∧ f3 (.fmulD 3 1 2 0) inf 0 = qnan ∧ fl (.fmulD 3 1 2 0) inf 0 = 0x10#5 ∧
    f3 (.fdivD 3 1 2 0) fp1 0 = inf ∧ fl (.fdivD 3 1 2 0) fp1 0 = 0x08#5 ∧ f3 (.fsqrtD 3 1 0) 0x4010000000000000#64 0 = 0x4000000000000000#64 ∧ f3 (.fsqrtD 3 1 0) (1#64 <<< 63) 0 = 1#64 <<< 63 := by decide +kernel
/-- 1 + 2⁻⁵³ is a tie, which goes to even, and up under RUP (3); both are inexact. -/
theorem test_rounding : f3 (.faddD 3 1 2 0) fp1 0x3CA0000000000000#64 = fp1 ∧ f3 (.faddD 3 1 2 3) fp1 0x3CA0000000000000#64 = 0x3FF0000000000001#64 ∧ fl (.faddD 3 1 2 0) fp1 0x3CA0000000000000#64 = 0x01#5 ∧
    f3 (.faddD 3 1 2 4) fp1 0x3CA0000000000000#64 = 0x3FF0000000000001#64 := by decide +kernel
theorem test_float_select : f3 (.fminD 3 1 2) qnan fp1 = fp1 ∧ f3 (.fmaxD 3 1 2) 0 (1#64 <<< 63) = 0 ∧ fl (.fminD 3 1 2) 0x7FF0000000000001#64 fp1 = 0x10#5 ∧ f3 (.fsgnjnD 3 1 2) fp1 fp1 = 0xBFF0000000000000#64 ∧
    fx3 (.fltD 3 1 2) qnan fp1 = 0 ∧ fl (.fltD 3 1 2) qnan fp1 = 0x10#5 ∧ fl (.feqD 3 1 2) qnan fp1 = 0 ∧ fx3 (.fclassD 3 1) (1#64 <<< 63) 0 = 0x8#64 ∧ fx3 (.fclassD 3 1) qnan 0 = 0x200#64 := by decide +kernel
theorem test_float_convert : fx3 (.fcvtWD 3 1 0) inf 0 = 0x7FFFFFFF#64 ∧ fl (.fcvtWD 3 1 0) inf 0 = 0x10#5 ∧ fx3 (.fcvtWuD 3 1 1) 0x41EFFFFFFFE00000#64 0 = m1 ∧ fx3 (.fcvtLuD 3 1 0) 0xBFF0000000000000#64 0 = 0 ∧
    fx3 (.fcvtWD 3 1 1) 0xBFF8000000000000#64 0 = m1 ∧ f3 (.fcvtDL 3 0 0) 0 0 = 0 := by decide +kernel
/-- A write to `cycle`, which is read-only, is illegal; `frm` is written and read back. -/
theorem test_csr : ((after (.csrrw 3 1 0xC00) (ctx1 .S id)).my.trap.map (·.cause)) = some 0x01#8 ∧ (after (.csrrwi 3 5 0x002) (ctx1 .S id)).my.frm = 5#3 ∧ (after (.ecall) (ctx1 .S id)).my.trap.map (·.cause) = some 0x19#8 := by decide +kernel
/-- INT64 elements 0 and 1 of v8 and v16 under the lanes' slices; v24 after the instruction. -/
def lanes16 : List Nat := [0, 1, 2, 3, 4, 5, 6, 7, 8, 9, 10, 11, 12, 13, 14, 15]
def vec2 (a b c d : Nat) : State :=
  (vecS 3 1 2 0 0#6 id).onMy (fun k => (((k.putElt lanes16 8 64 0 a).putElt lanes16 8 64 1 b).putElt lanes16 16 64 0 c).putElt lanes16 16 64 1 d)
def v24 (i : Instr) (s : State) : List Nat := [(after i s).elem 24#6 64 0, (after i s).elem 24#6 64 1]
theorem test_vector_add : v24 (.vaddVv 24 8 16 true false) (vec2 (2 ^ 64 - 1) 5 1 7) = [0, 12] ∧ v24 (.vsubVv 24 8 16 true false) (vec2 0 7 1 5) = [2 ^ 64 - 1, 2] ∧ v24 (.vsaddVv 24 8 16 true false) (vec2 (2 ^ 63 - 1) 5 1 7) = [2 ^ 63 - 1, 12] ∧
    v24 (.vssubuVv 24 8 16 true false) (vec2 5 7 7 5) = [0, 2] := by decide +kernel
theorem test_vector_multiply : v24 (.vmulVv 24 8 16 true false) (vec2 (2 ^ 63) 3 2 5) = [0, 15] ∧ v24 (.vmulhVv 24 8 16 true false) (vec2 (2 ^ 64 - 1) (2 ^ 63) (2 ^ 64 - 1) 2) = [0, 2 ^ 64 - 1] ∧
    v24 (.vdivVv 24 8 16 true false) (vec2 7 (2 ^ 64 - 7) 0 2) = [2 ^ 64 - 1, 2 ^ 64 - 3] ∧ v24 (.vremVv 24 8 16 true false) (vec2 7 (2 ^ 64 - 7) 0 2) = [7, 2 ^ 64 - 1] := by decide +kernel
theorem test_vector_order : v24 (.vminVv 24 8 16 true false) (vec2 (2 ^ 64 - 1) 5 1 7) = [2 ^ 64 - 1, 5] ∧ v24 (.vminuVv 24 8 16 true false) (vec2 (2 ^ 64 - 1) 5 1 7) = [1, 5] ∧ v24 (.vid 24 true false) (vec2 0 0 0 0) = [0, 1] ∧
    v24 (.vabs 24 8 true false) (vec2 (2 ^ 64 - 3) 4 0 0) = [3, 4] ∧ v24 (.vclz 24 8 true false) (vec2 1 0 0 0) = [63, 64] := by decide +kernel
/-- FP64: 1 + 1 and 1 × −0. -/
def vecf (a b c d : Nat) : State := (vec2 a b c d).onMy (fun k => { k with strip := { k.strip with vtype := 1#2 ++ 7#4 } })
theorem test_vector_float : v24 (.vfaddVv 24 8 16 true false) (vecf 0x3FF0000000000000 0x3FF0000000000000 0x3FF0000000000000 0x8000000000000000) = [0x4000000000000000, 0x3FF0000000000000] ∧
    v24 (.vfmulVv 24 8 16 true false) (vecf 0x3FF0000000000000 0x3FF0000000000000 0x3FF0000000000000 0x8000000000000000) = [0x3FF0000000000000, 0x8000000000000000] ∧
    v24 (.vfneg 24 8 true false) (vecf 0x3FF0000000000000 0x8000000000000000 0 0) = [0xBFF0000000000000, 0] := by decide +kernel
/-- A vector store of the two elements to slot 1, one after the other. -/
theorem test_vector_store : (after (.vst 8 1 true false) ((vec2 0x11 0x22 0 0).onMy (fun c => { (seat (rw 64) c).setX 1#5 (ptr 16) with strip := { c.strip with owner := .S }, nS := { c.nS with pc := 0x80#64 } }) |> fun s => { s with cur := (.ctx 1, .S) })).read 0 0x10010 16
    = 0x11 + 2 ^ 64 * 0x22 := by decide +kernel
/-- FIPS 180-4's own example: the digest of "abc". -/
theorem test_sha512 : sha512 [0x61#8, 0x62#8, 0x63#8] = 0xddaf35a193617abacc417349ae20413112e6fa4e89a97ea20a9eeee64b55d39a2192992a274fc1a836ba3c23a3feebbd454d4423643ce80e2a9ac94fa54ca49f#512 := by
  decide +kernel
/-- `halt` stops the hub core, its pc behind the instruction. -/
theorem test_halt : ((after .halt (hubS id)).hub 0).halted = true ∧ (after .halt (hubS id)).pc = 4#64 := by decide +kernel
/-! ## Every instruction's word, written out field by field from the tables of R178 to R190 -/

theorem test_decode_control :
    decode 0b00000000101001010011_00101_0110111#32 = .ok (.lui 5 2643) ∧
    decode 0b00000000101001010011_00101_0010111#32 = .ok (.auipc 5 2643) ∧
    decode 0b01001010011000000001_00101_1101111#32 = .ok (.jal 5 2643) ∧
    decode 0b101001010011_01001_000_00101_1100111#32 = .ok (.jalr 5 9 2643) ∧
    decode 0b1100101_10010_01001_000_00110_1100011#32 = .ok (.beq 9 18 2643) ∧
    decode 0b1100101_10010_01001_001_00110_1100011#32 = .ok (.bne 9 18 2643) ∧
    decode 0b1100101_10010_01001_100_00110_1100011#32 = .ok (.blt 9 18 2643) ∧
    decode 0b1100101_10010_01001_101_00110_1100011#32 = .ok (.bge 9 18 2643) ∧
    decode 0b1100101_10010_01001_110_00110_1100011#32 = .ok (.bltu 9 18 2643) ∧
    decode 0b1100101_10010_01001_111_00110_1100011#32 = .ok (.bgeu 9 18 2643) :=
  ⟨rfl, rfl, rfl, rfl, rfl, rfl, rfl, rfl, rfl, rfl⟩
theorem test_decode_memory :
    decode 0b101001010011_01001_000_00101_0000011#32 = .ok (.lb 5 9 2643) ∧
    decode 0b101001010011_01001_001_00101_0000011#32 = .ok (.lh 5 9 2643) ∧
    decode 0b101001010011_01001_010_00101_0000011#32 = .ok (.lw 5 9 2643) ∧
    decode 0b101001010011_01001_011_00101_0000011#32 = .ok (.ld 5 9 2643) ∧
    decode 0b101001010011_01001_100_00101_0000011#32 = .ok (.lbu 5 9 2643) ∧
    decode 0b101001010011_01001_101_00101_0000011#32 = .ok (.lhu 5 9 2643) ∧
    decode 0b101001010011_01001_110_00101_0000011#32 = .ok (.lwu 5 9 2643) ∧
    decode 0b1010010_10010_01001_000_10011_0100011#32 = .ok (.sb 9 18 2643) ∧
    decode 0b1010010_10010_01001_001_10011_0100011#32 = .ok (.sh 9 18 2643) ∧
    decode 0b1010010_10010_01001_010_10011_0100011#32 = .ok (.sw 9 18 2643) ∧
    decode 0b1010010_10010_01001_011_10011_0100011#32 = .ok (.sd 9 18 2643) ∧
    decode 0b101001010011_01001_011_00101_0000111#32 = .ok (.fld 5 9 2643) ∧
    decode 0b1010010_10010_01001_011_10011_0100111#32 = .ok (.fsd 9 18 2643) :=
  ⟨rfl, rfl, rfl, rfl, rfl, rfl, rfl, rfl, rfl, rfl, rfl, rfl, rfl⟩
theorem test_decode_integer_1 :
    decode 0b101001010011_01001_000_00101_0010011#32 = .ok (.addi 5 9 2643) ∧
    decode 0b101001010011_01001_010_00101_0010011#32 = .ok (.slti 5 9 2643) ∧
    decode 0b101001010011_01001_011_00101_0010011#32 = .ok (.sltiu 5 9 2643) ∧
    decode 0b101001010011_01001_100_00101_0010011#32 = .ok (.xori 5 9 2643) ∧
    decode 0b101001010011_01001_110_00101_0010011#32 = .ok (.ori 5 9 2643) ∧
    decode 0b101001010011_01001_111_00101_0010011#32 = .ok (.andi 5 9 2643) ∧
    decode 0b000000_000011_01001_001_00101_0010011#32 = .ok (.slli 5 9 3) ∧
    decode 0b000000_000011_01001_101_00101_0010011#32 = .ok (.srli 5 9 3) ∧
    decode 0b010000_000011_01001_101_00101_0010011#32 = .ok (.srai 5 9 3) ∧
    decode 0b101001010011_01001_000_00101_0011011#32 = .ok (.addiw 5 9 2643) ∧
    decode 0b0000000_00011_01001_001_00101_0011011#32 = .ok (.slliw 5 9 3) ∧
    decode 0b0000000_00011_01001_101_00101_0011011#32 = .ok (.srliw 5 9 3) ∧
    decode 0b0100000_00011_01001_101_00101_0011011#32 = .ok (.sraiw 5 9 3) ∧
    decode 0b0000000_10010_01001_000_00101_0110011#32 = .ok (.add 5 9 18) ∧
    decode 0b0000000_10010_01001_001_00101_0110011#32 = .ok (.sll 5 9 18) ∧
    decode 0b0000000_10010_01001_010_00101_0110011#32 = .ok (.slt 5 9 18) ∧
    decode 0b0000000_10010_01001_011_00101_0110011#32 = .ok (.sltu 5 9 18) ∧
    decode 0b0000000_10010_01001_100_00101_0110011#32 = .ok (.xor 5 9 18) ∧
    decode 0b0000000_10010_01001_101_00101_0110011#32 = .ok (.srl 5 9 18) ∧
    decode 0b0000000_10010_01001_110_00101_0110011#32 = .ok (.or 5 9 18) ∧
    decode 0b0000000_10010_01001_111_00101_0110011#32 = .ok (.and 5 9 18) ∧
    decode 0b0100000_10010_01001_000_00101_0110011#32 = .ok (.sub 5 9 18) ∧
    decode 0b0100000_10010_01001_101_00101_0110011#32 = .ok (.sra 5 9 18) ∧
    decode 0b0000001_10010_01001_000_00101_0110011#32 = .ok (.mul 5 9 18) ∧
    decode 0b0000001_10010_01001_001_00101_0110011#32 = .ok (.mulh 5 9 18) ∧
    decode 0b0000001_10010_01001_010_00101_0110011#32 = .ok (.mulhsu 5 9 18) ∧
    decode 0b0000001_10010_01001_011_00101_0110011#32 = .ok (.mulhu 5 9 18) ∧
    decode 0b0000001_10010_01001_100_00101_0110011#32 = .ok (.div 5 9 18) ∧
    decode 0b0000001_10010_01001_101_00101_0110011#32 = .ok (.divu 5 9 18) ∧
    decode 0b0000001_10010_01001_110_00101_0110011#32 = .ok (.rem 5 9 18) ∧
    decode 0b0000001_10010_01001_111_00101_0110011#32 = .ok (.remu 5 9 18) ∧
    decode 0b0000000_10010_01001_000_00101_0111011#32 = .ok (.addw 5 9 18) ∧
    decode 0b0000000_10010_01001_001_00101_0111011#32 = .ok (.sllw 5 9 18) ∧
    decode 0b0000000_10010_01001_101_00101_0111011#32 = .ok (.srlw 5 9 18) ∧
    decode 0b0100000_10010_01001_000_00101_0111011#32 = .ok (.subw 5 9 18) ∧
    decode 0b0100000_10010_01001_101_00101_0111011#32 = .ok (.sraw 5 9 18) ∧
    decode 0b0000001_10010_01001_000_00101_0111011#32 = .ok (.mulw 5 9 18) ∧
    decode 0b0000001_10010_01001_100_00101_0111011#32 = .ok (.divw 5 9 18) ∧
    decode 0b0000001_10010_01001_101_00101_0111011#32 = .ok (.divuw 5 9 18) ∧
    decode 0b0000001_10010_01001_110_00101_0111011#32 = .ok (.remw 5 9 18) :=
  ⟨rfl, rfl, rfl, rfl, rfl, rfl, rfl, rfl, rfl, rfl, rfl, rfl, rfl, rfl, rfl, rfl, rfl, rfl, rfl, rfl, rfl, rfl, rfl, rfl, rfl, rfl, rfl, rfl, rfl, rfl, rfl, rfl, rfl, rfl, rfl, rfl, rfl, rfl, rfl, rfl⟩
theorem test_decode_integer_2 : decode 0b0000001_10010_01001_111_00101_0111011#32 = .ok (.remuw 5 9 18) := rfl
theorem test_decode_system :
    decode 0b0011_0011_0011_01001_000_00101_0001111#32 = .ok (.fence 3 3 3 9 5) ∧
    decode 0b00000000000000000000000001110011#32 = .ok (.ecall) ∧
    decode 0b00000000000100000000000001110011#32 = .ok (.ebreak) ∧
    decode 0b101001010011_01001_001_00101_1110011#32 = .ok (.csrrw 5 9 2643) ∧
    decode 0b101001010011_01001_010_00101_1110011#32 = .ok (.csrrs 5 9 2643) ∧
    decode 0b101001010011_01001_011_00101_1110011#32 = .ok (.csrrc 5 9 2643) ∧
    decode 0b101001010011_00011_101_00101_1110011#32 = .ok (.csrrwi 5 3 2643) ∧
    decode 0b101001010011_00011_110_00101_1110011#32 = .ok (.csrrsi 5 3 2643) ∧
    decode 0b101001010011_00011_111_00101_1110011#32 = .ok (.csrrci 5 3 2643) :=
  ⟨rfl, rfl, rfl, rfl, rfl, rfl, rfl, rfl, rfl⟩
theorem test_decode_amo :
    decode 0b00010_0_1_00000_01001_010_00101_0101111#32 = .ok (.lrW false true 5 9) ∧
    decode 0b00011_0_1_10010_01001_010_00101_0101111#32 = .ok (.scW false true 5 9 18) ∧
    decode 0b00001_0_1_10010_01001_010_00101_0101111#32 = .ok (.amoswapW false true 5 9 18) ∧
    decode 0b00000_0_1_10010_01001_010_00101_0101111#32 = .ok (.amoaddW false true 5 9 18) ∧
    decode 0b00100_0_1_10010_01001_010_00101_0101111#32 = .ok (.amoxorW false true 5 9 18) ∧
    decode 0b01100_0_1_10010_01001_010_00101_0101111#32 = .ok (.amoandW false true 5 9 18) ∧
    decode 0b01000_0_1_10010_01001_010_00101_0101111#32 = .ok (.amoorW false true 5 9 18) ∧
    decode 0b10000_0_1_10010_01001_010_00101_0101111#32 = .ok (.amominW false true 5 9 18) ∧
    decode 0b10100_0_1_10010_01001_010_00101_0101111#32 = .ok (.amomaxW false true 5 9 18) ∧
    decode 0b11000_0_1_10010_01001_010_00101_0101111#32 = .ok (.amominuW false true 5 9 18) ∧
    decode 0b11100_0_1_10010_01001_010_00101_0101111#32 = .ok (.amomaxuW false true 5 9 18) ∧
    decode 0b00010_0_1_00000_01001_011_00101_0101111#32 = .ok (.lrD false true 5 9) ∧
    decode 0b00011_0_1_10010_01001_011_00101_0101111#32 = .ok (.scD false true 5 9 18) ∧
    decode 0b00001_0_1_10010_01001_011_00101_0101111#32 = .ok (.amoswapD false true 5 9 18) ∧
    decode 0b00000_0_1_10010_01001_011_00101_0101111#32 = .ok (.amoaddD false true 5 9 18) ∧
    decode 0b00100_0_1_10010_01001_011_00101_0101111#32 = .ok (.amoxorD false true 5 9 18) ∧
    decode 0b01100_0_1_10010_01001_011_00101_0101111#32 = .ok (.amoandD false true 5 9 18) ∧
    decode 0b01000_0_1_10010_01001_011_00101_0101111#32 = .ok (.amoorD false true 5 9 18) ∧
    decode 0b10000_0_1_10010_01001_011_00101_0101111#32 = .ok (.amominD false true 5 9 18) ∧
    decode 0b10100_0_1_10010_01001_011_00101_0101111#32 = .ok (.amomaxD false true 5 9 18) ∧
    decode 0b11000_0_1_10010_01001_011_00101_0101111#32 = .ok (.amominuD false true 5 9 18) ∧
    decode 0b11100_0_1_10010_01001_011_00101_0101111#32 = .ok (.amomaxuD false true 5 9 18) :=
  ⟨rfl, rfl, rfl, rfl, rfl, rfl, rfl, rfl, rfl, rfl, rfl, rfl, rfl, rfl, rfl, rfl, rfl, rfl, rfl, rfl, rfl, rfl⟩
theorem test_decode_float :
    decode 0b11011_01_10010_01001_011_00101_1000011#32 = .ok (.fmaddD 5 9 18 27 3) ∧
    decode 0b11011_01_10010_01001_011_00101_1000111#32 = .ok (.fmsubD 5 9 18 27 3) ∧
    decode 0b11011_01_10010_01001_011_00101_1001011#32 = .ok (.fnmsubD 5 9 18 27 3) ∧
    decode 0b11011_01_10010_01001_011_00101_1001111#32 = .ok (.fnmaddD 5 9 18 27 3) ∧
    decode 0b0000001_10010_01001_011_00101_1010011#32 = .ok (.faddD 5 9 18 3) ∧
    decode 0b0000101_10010_01001_011_00101_1010011#32 = .ok (.fsubD 5 9 18 3) ∧
    decode 0b0001001_10010_01001_011_00101_1010011#32 = .ok (.fmulD 5 9 18 3) ∧
    decode 0b0001101_10010_01001_011_00101_1010011#32 = .ok (.fdivD 5 9 18 3) ∧
    decode 0b010110100000_01001_011_00101_1010011#32 = .ok (.fsqrtD 5 9 3) ∧
    decode 0b0010001_10010_01001_000_00101_1010011#32 = .ok (.fsgnjD 5 9 18) ∧
    decode 0b0010001_10010_01001_001_00101_1010011#32 = .ok (.fsgnjnD 5 9 18) ∧
    decode 0b0010001_10010_01001_010_00101_1010011#32 = .ok (.fsgnjxD 5 9 18) ∧
    decode 0b0010101_10010_01001_000_00101_1010011#32 = .ok (.fminD 5 9 18) ∧
    decode 0b0010101_10010_01001_001_00101_1010011#32 = .ok (.fmaxD 5 9 18) ∧
    decode 0b1010001_10010_01001_000_00101_1010011#32 = .ok (.fleD 5 9 18) ∧
    decode 0b1010001_10010_01001_001_00101_1010011#32 = .ok (.fltD 5 9 18) ∧
    decode 0b1010001_10010_01001_010_00101_1010011#32 = .ok (.feqD 5 9 18) ∧
    decode 0b111000100000_01001_001_00101_1010011#32 = .ok (.fclassD 5 9) ∧
    decode 0b111000100000_01001_000_00101_1010011#32 = .ok (.fmvXD 5 9) ∧
    decode 0b111100100000_01001_000_00101_1010011#32 = .ok (.fmvDX 5 9) ∧
    decode 0b110000100000_01001_011_00101_1010011#32 = .ok (.fcvtWD 5 9 3) ∧
    decode 0b110000100001_01001_011_00101_1010011#32 = .ok (.fcvtWuD 5 9 3) ∧
    decode 0b110000100010_01001_011_00101_1010011#32 = .ok (.fcvtLD 5 9 3) ∧
    decode 0b110000100011_01001_011_00101_1010011#32 = .ok (.fcvtLuD 5 9 3) ∧
    decode 0b110100100000_01001_011_00101_1010011#32 = .ok (.fcvtDW 5 9 3) ∧
    decode 0b110100100001_01001_011_00101_1010011#32 = .ok (.fcvtDWu 5 9 3) ∧
    decode 0b110100100010_01001_011_00101_1010011#32 = .ok (.fcvtDL 5 9 3) ∧
    decode 0b110100100011_01001_011_00101_1010011#32 = .ok (.fcvtDLu 5 9 3) :=
  ⟨rfl, rfl, rfl, rfl, rfl, rfl, rfl, rfl, rfl, rfl, rfl, rfl, rfl, rfl, rfl, rfl, rfl, rfl, rfl, rfl, rfl, rfl, rfl, rfl, rfl, rfl, rfl, rfl⟩
theorem test_decode_vector_v_1 :
    decode 0b00000_1_0_101100_010110_100101_1011011#32 = .ok (.vaddVv 37 44 22 true false) ∧
    decode 0b00001_1_0_101100_010110_100101_1011011#32 = .ok (.vsubVv 37 44 22 true false) ∧
    decode 0b00010_1_0_101100_010110_100101_1011011#32 = .ok (.vmulVv 37 44 22 true false) ∧
    decode 0b00011_1_0_101100_010110_100101_1011011#32 = .ok (.vmulhVv 37 44 22 true false) ∧
    decode 0b00100_1_0_101100_010110_100101_1011011#32 = .ok (.vmulhuVv 37 44 22 true false) ∧
    decode 0b00101_1_0_101100_010110_100101_1011011#32 = .ok (.vdivVv 37 44 22 true false) ∧
    decode 0b00110_1_0_101100_010110_100101_1011011#32 = .ok (.vdivuVv 37 44 22 true false) ∧
    decode 0b00111_1_0_101100_010110_100101_1011011#32 = .ok (.vremVv 37 44 22 true false) ∧
    decode 0b01000_1_0_101100_010110_100101_1011011#32 = .ok (.vremuVv 37 44 22 true false) ∧
    decode 0b01001_1_0_101100_010110_100101_1011011#32 = .ok (.vminVv 37 44 22 true false) ∧
    decode 0b01010_1_0_101100_010110_100101_1011011#32 = .ok (.vminuVv 37 44 22 true false) ∧
    decode 0b01011_1_0_101100_010110_100101_1011011#32 = .ok (.vmaxVv 37 44 22 true false) ∧
    decode 0b01100_1_0_101100_010110_100101_1011011#32 = .ok (.vmaxuVv 37 44 22 true false) ∧
    decode 0b01101_1_0_101100_010110_100101_1011011#32 = .ok (.vandVv 37 44 22 true false) ∧
    decode 0b01110_1_0_101100_010110_100101_1011011#32 = .ok (.vorVv 37 44 22 true false) ∧
    decode 0b01111_1_0_101100_010110_100101_1011011#32 = .ok (.vxorVv 37 44 22 true false) ∧
    decode 0b10000_1_0_101100_010110_100101_1011011#32 = .ok (.vsllVv 37 44 22 true false) ∧
    decode 0b10001_1_0_101100_010110_100101_1011011#32 = .ok (.vsrlVv 37 44 22 true false) ∧
    decode 0b10010_1_0_101100_010110_100101_1011011#32 = .ok (.vsraVv 37 44 22 true false) ∧
    decode 0b10011_1_0_101100_010110_100101_1011011#32 = .ok (.vsaddVv 37 44 22 true false) ∧
    decode 0b10100_1_0_101100_010110_100101_1011011#32 = .ok (.vsadduVv 37 44 22 true false) ∧
    decode 0b10101_1_0_101100_010110_100101_1011011#32 = .ok (.vssubVv 37 44 22 true false) ∧
    decode 0b10110_1_0_101100_010110_100101_1011011#32 = .ok (.vssubuVv 37 44 22 true false) ∧
    decode 0b10111_1_0_101100_010110_100101_1011011#32 = .ok (.vseqVv 37 44 22 true false) ∧
    decode 0b11000_1_0_101100_010110_100101_1011011#32 = .ok (.vsneVv 37 44 22 true false) ∧
    decode 0b11001_1_0_101100_010110_100101_1011011#32 = .ok (.vsltVv 37 44 22 true false) ∧
    decode 0b11010_1_0_101100_010110_100101_1011011#32 = .ok (.vsltuVv 37 44 22 true false) ∧
    decode 0b11011_1_0_101100_010110_100101_1011011#32 = .ok (.vsleVv 37 44 22 true false) ∧
    decode 0b11100_1_0_101100_010110_100101_1011011#32 = .ok (.vsleuVv 37 44 22 true false) ∧
    decode 0b11101_1_1_101100_010110_100101_1011011#32 = .ok (.vmergeVv 37 44 22 true) ∧
    decode 0b11110_1_0_101100_010110_100101_1011011#32 = .ok (.vperm 37 44 22 true false) ∧
    decode 0b11111_0_1_101100_000000_100101_1011011#32 = .ok (.vmv 37 44 false true) ∧
    decode 0b11111_1_0_000000000001_100101_1011011#32 = .ok (.vid 37 true false) ∧
    decode 0b11111_0_1_101100_000010_100101_1011011#32 = .ok (.viota 37 44 false true) ∧
    decode 0b11111_0_1_101100_000011_100101_1011011#32 = .ok (.vcompress 37 44 false) ∧
    decode 0b11111_0_1_101100_000100_100101_1011011#32 = .ok (.vredsum 37 44 false true) ∧
    decode 0b11111_0_1_101100_000101_100101_1011011#32 = .ok (.vredmin 37 44 false true) ∧
    decode 0b11111_0_1_101100_000110_100101_1011011#32 = .ok (.vredminu 37 44 false true) ∧
    decode 0b11111_0_1_101100_000111_100101_1011011#32 = .ok (.vredmax 37 44 false true) ∧
    decode 0b11111_0_1_101100_001000_100101_1011011#32 = .ok (.vredmaxu 37 44 false true) :=
  ⟨rfl, rfl, rfl, rfl, rfl, rfl, rfl, rfl, rfl, rfl, rfl, rfl, rfl, rfl, rfl, rfl, rfl, rfl, rfl, rfl, rfl, rfl, rfl, rfl, rfl, rfl, rfl, rfl, rfl, rfl, rfl, rfl, rfl, rfl, rfl, rfl, rfl, rfl, rfl, rfl⟩
theorem test_decode_vector_v_2 :
    decode 0b11111_0_1_101100_001001_100101_1011011#32 = .ok (.vredand 37 44 false true) ∧
    decode 0b11111_0_1_101100_001010_100101_1011011#32 = .ok (.vredor 37 44 false true) ∧
    decode 0b11111_0_1_101100_001011_100101_1011011#32 = .ok (.vredxor 37 44 false true) ∧
    decode 0b11111_0_1_101100_001100_100101_1011011#32 = .ok (.vmpopc 37 44 false true) ∧
    decode 0b11111_0_1_101100_001101_100101_1011011#32 = .ok (.vmfirst 37 44 false true) ∧
    decode 0b11111_0_1_101100_001110_100101_1011011#32 = .ok (.vabs 37 44 false true) ∧
    decode 0b11111_0_1_101100_001111_100101_1011011#32 = .ok (.vneg 37 44 false true) ∧
    decode 0b11111_0_1_101100_010000_100101_1011011#32 = .ok (.vnot 37 44 false true) ∧
    decode 0b11111_0_1_101100_010001_100101_1011011#32 = .ok (.vclz 37 44 false true) ∧
    decode 0b11111_0_1_101100_010010_100101_1011011#32 = .ok (.vpopcnt 37 44 false true) ∧
    decode 0b11111_0_1_101100_010011_100101_1011011#32 = .ok (.vsext 37 44 false true) ∧
    decode 0b11111_0_1_101100_010100_100101_1011011#32 = .ok (.vzext 37 44 false true) ∧
    decode 0b11111_0_1_101100_010101_100101_1011011#32 = .ok (.vnclip 37 44 false true) ∧
    decode 0b11111_0_1_101100_010110_100101_1011011#32 = .ok (.vnclipu 37 44 false true) :=
  ⟨rfl, rfl, rfl, rfl, rfl, rfl, rfl, rfl, rfl, rfl, rfl, rfl, rfl, rfl⟩
theorem test_decode_vector_x_1 :
    decode 0b000000_1_0_101100_01001_100101_0101011#32 = .ok (.vaddVx 37 44 9 true false) ∧
    decode 0b000001_1_0_101100_01001_100101_0101011#32 = .ok (.vsubVx 37 44 9 true false) ∧
    decode 0b000010_1_0_101100_01001_100101_0101011#32 = .ok (.vmulVx 37 44 9 true false) ∧
    decode 0b000011_1_0_101100_01001_100101_0101011#32 = .ok (.vmulhVx 37 44 9 true false) ∧
    decode 0b000100_1_0_101100_01001_100101_0101011#32 = .ok (.vmulhuVx 37 44 9 true false) ∧
    decode 0b000101_1_0_101100_01001_100101_0101011#32 = .ok (.vdivVx 37 44 9 true false) ∧
    decode 0b000110_1_0_101100_01001_100101_0101011#32 = .ok (.vdivuVx 37 44 9 true false) ∧
    decode 0b000111_1_0_101100_01001_100101_0101011#32 = .ok (.vremVx 37 44 9 true false) ∧
    decode 0b001000_1_0_101100_01001_100101_0101011#32 = .ok (.vremuVx 37 44 9 true false) ∧
    decode 0b001001_1_0_101100_01001_100101_0101011#32 = .ok (.vminVx 37 44 9 true false) ∧
    decode 0b001010_1_0_101100_01001_100101_0101011#32 = .ok (.vminuVx 37 44 9 true false) ∧
    decode 0b001011_1_0_101100_01001_100101_0101011#32 = .ok (.vmaxVx 37 44 9 true false) ∧
    decode 0b001100_1_0_101100_01001_100101_0101011#32 = .ok (.vmaxuVx 37 44 9 true false) ∧
    decode 0b001101_1_0_101100_01001_100101_0101011#32 = .ok (.vandVx 37 44 9 true false) ∧
    decode 0b001110_1_0_101100_01001_100101_0101011#32 = .ok (.vorVx 37 44 9 true false) ∧
    decode 0b001111_1_0_101100_01001_100101_0101011#32 = .ok (.vxorVx 37 44 9 true false) ∧
    decode 0b010000_1_0_101100_01001_100101_0101011#32 = .ok (.vsllVx 37 44 9 true false) ∧
    decode 0b010001_1_0_101100_01001_100101_0101011#32 = .ok (.vsrlVx 37 44 9 true false) ∧
    decode 0b010010_1_0_101100_01001_100101_0101011#32 = .ok (.vsraVx 37 44 9 true false) ∧
    decode 0b010011_1_0_101100_01001_100101_0101011#32 = .ok (.vsaddVx 37 44 9 true false) ∧
    decode 0b010100_1_0_101100_01001_100101_0101011#32 = .ok (.vsadduVx 37 44 9 true false) ∧
    decode 0b010101_1_0_101100_01001_100101_0101011#32 = .ok (.vssubVx 37 44 9 true false) ∧
    decode 0b010110_1_0_101100_01001_100101_0101011#32 = .ok (.vssubuVx 37 44 9 true false) ∧
    decode 0b010111_1_0_101100_01001_100101_0101011#32 = .ok (.vseqVx 37 44 9 true false) ∧
    decode 0b011000_1_0_101100_01001_100101_0101011#32 = .ok (.vsneVx 37 44 9 true false) ∧
    decode 0b011001_1_0_101100_01001_100101_0101011#32 = .ok (.vsltVx 37 44 9 true false) ∧
    decode 0b011010_1_0_101100_01001_100101_0101011#32 = .ok (.vsltuVx 37 44 9 true false) ∧
    decode 0b011011_1_0_101100_01001_100101_0101011#32 = .ok (.vsleVx 37 44 9 true false) ∧
    decode 0b011100_1_0_101100_01001_100101_0101011#32 = .ok (.vsleuVx 37 44 9 true false) ∧
    decode 0b011101_1_1_101100_01001_100101_0101011#32 = .ok (.vmergeVx 37 44 9 true) ∧
    decode 0b011110_1_0_101100_01001_100101_0101011#32 = .ok (.vslideup 37 44 9 true false) ∧
    decode 0b011111_1_0_101100_01001_100101_0101011#32 = .ok (.vslidedn 37 44 9 true false) ∧
    decode 0b100000_1_0_101100_01001_100101_0101011#32 = .ok (.vfaddVf 37 44 9 true false) ∧
    decode 0b100001_1_0_101100_01001_100101_0101011#32 = .ok (.vfsubVf 37 44 9 true false) ∧
    decode 0b100010_1_0_101100_01001_100101_0101011#32 = .ok (.vfmulVf 37 44 9 true false) ∧
    decode 0b100011_1_0_101100_01001_100101_0101011#32 = .ok (.vfdivVf 37 44 9 true false) ∧
    decode 0b100100_1_0_101100_01001_100101_0101011#32 = .ok (.vfminVf 37 44 9 true false) ∧
    decode 0b100101_1_0_101100_01001_100101_0101011#32 = .ok (.vfmaxVf 37 44 9 true false) ∧
    decode 0b100110_1_0_101100_01001_100101_0101011#32 = .ok (.vfsgnjVf 37 44 9 true false) ∧
    decode 0b100111_1_0_101100_01001_100101_0101011#32 = .ok (.vfsgnjnVf 37 44 9 true false) :=
  ⟨rfl, rfl, rfl, rfl, rfl, rfl, rfl, rfl, rfl, rfl, rfl, rfl, rfl, rfl, rfl, rfl, rfl, rfl, rfl, rfl, rfl, rfl, rfl, rfl, rfl, rfl, rfl, rfl, rfl, rfl, rfl, rfl, rfl, rfl, rfl, rfl, rfl, rfl, rfl, rfl⟩
theorem test_decode_vector_x_2 :
    decode 0b101000_1_0_101100_01001_100101_0101011#32 = .ok (.vfsgnjxVf 37 44 9 true false) ∧
    decode 0b101001_1_0_101100_01001_100101_0101011#32 = .ok (.vfmaccVf 37 44 9 true false) ∧
    decode 0b101010_1_0_101100_01001_100101_0101011#32 = .ok (.vfnmaccVf 37 44 9 true false) ∧
    decode 0b101011_1_0_101100_01001_100101_0101011#32 = .ok (.vfmsacVf 37 44 9 true false) ∧
    decode 0b101100_1_0_101100_01001_100101_0101011#32 = .ok (.vfnmsacVf 37 44 9 true false) ∧
    decode 0b101101_1_0_101100_01001_100101_0101011#32 = .ok (.vfeqVf 37 44 9 true false) ∧
    decode 0b101110_1_0_101100_01001_100101_0101011#32 = .ok (.vfneVf 37 44 9 true false) ∧
    decode 0b101111_1_0_101100_01001_100101_0101011#32 = .ok (.vfltVf 37 44 9 true false) ∧
    decode 0b110000_1_0_101100_01001_100101_0101011#32 = .ok (.vfleVf 37 44 9 true false) ∧
    decode 0b110001_1_0_101100_01001_100101_0101011#32 = .ok (.vfunVf 37 44 9 true false) ∧
    decode 0b110010_1_1_101100_01001_100101_0101011#32 = .ok (.vfmergeVf 37 44 9 true) ∧
    decode 0b110101_1_0_101100_01001_100101_0101011#32 = .ok (.vfwmaccVf 37 44 9 true false) ∧
    decode 0b111100_1_0_000011_01001_100101_0101011#32 = .ok (.vbscaleVf 37 3 9 true) :=
  ⟨rfl, rfl, rfl, rfl, rfl, rfl, rfl, rfl, rfl, rfl, rfl, rfl, rfl⟩
theorem test_decode_custom3_1 :
    decode 0b00000_1_0_101100_010110_100101_1111011#32 = .ok (.vfaddVv 37 44 22 true false) ∧
    decode 0b00001_1_0_101100_010110_100101_1111011#32 = .ok (.vfsubVv 37 44 22 true false) ∧
    decode 0b00010_1_0_101100_010110_100101_1111011#32 = .ok (.vfmulVv 37 44 22 true false) ∧
    decode 0b00011_1_0_101100_010110_100101_1111011#32 = .ok (.vfdivVv 37 44 22 true false) ∧
    decode 0b00100_1_0_101100_010110_100101_1111011#32 = .ok (.vfminVv 37 44 22 true false) ∧
    decode 0b00101_1_0_101100_010110_100101_1111011#32 = .ok (.vfmaxVv 37 44 22 true false) ∧
    decode 0b00110_1_0_101100_010110_100101_1111011#32 = .ok (.vfsgnjVv 37 44 22 true false) ∧
    decode 0b00111_1_0_101100_010110_100101_1111011#32 = .ok (.vfsgnjnVv 37 44 22 true false) ∧
    decode 0b01000_1_0_101100_010110_100101_1111011#32 = .ok (.vfsgnjxVv 37 44 22 true false) ∧
    decode 0b01001_1_0_101100_010110_100101_1111011#32 = .ok (.vfmaccVv 37 44 22 true false) ∧
    decode 0b01010_1_0_101100_010110_100101_1111011#32 = .ok (.vfnmaccVv 37 44 22 true false) ∧
    decode 0b01011_1_0_101100_010110_100101_1111011#32 = .ok (.vfmsacVv 37 44 22 true false) ∧
    decode 0b01100_1_0_101100_010110_100101_1111011#32 = .ok (.vfnmsacVv 37 44 22 true false) ∧
    decode 0b01101_1_0_101100_010110_100101_1111011#32 = .ok (.vfeqVv 37 44 22 true false) ∧
    decode 0b01110_1_0_101100_010110_100101_1111011#32 = .ok (.vfneVv 37 44 22 true false) ∧
    decode 0b01111_1_0_101100_010110_100101_1111011#32 = .ok (.vfltVv 37 44 22 true false) ∧
    decode 0b10000_1_0_101100_010110_100101_1111011#32 = .ok (.vfleVv 37 44 22 true false) ∧
    decode 0b10001_1_0_101100_010110_100101_1111011#32 = .ok (.vfunVv 37 44 22 true false) ∧
    decode 0b10010_1_1_101100_010110_100101_1111011#32 = .ok (.vfmergeVv 37 44 22 true) ∧
    decode 0b10011_1_0_101100_010110_100101_1111011#32 = .ok (.vcmul 37 44 22 true false) ∧
    decode 0b10100_1_0_101100_010110_100101_1111011#32 = .ok (.vcmac 37 44 22 true false) ∧
    decode 0b10101_1_0_101100_010110_100101_1111011#32 = .ok (.vfwmaccVv 37 44 22 true false) ∧
    decode 0b10110_1_0_101100_00_0011_100101_1111011#32 = .ok (.vcvtup 37 44 3 true false) ∧
    decode 0b10111_1_0_101100_00_0011_100101_1111011#32 = .ok (.vcvtdn 37 44 3 true false) ∧
    decode 0b11000_1_0_101100_00_0011_100101_1111011#32 = .ok (.vcvtfi 37 44 3 true false) ∧
    decode 0b11001_1_0_101100_00_0011_100101_1111011#32 = .ok (.vcvtif 37 44 3 true false) ∧
    decode 0b11010_1_0_101100_010110_100101_1111011#32 = .ok (.vquant 37 44 22 true false) ∧
    decode 0b11011_1_0_101100_010110_100101_1111011#32 = .ok (.vdequant 37 44 22 true false) ∧
    decode 0b11100_1_0_101100_00_0011_100101_1111011#32 = .ok (.vbscaleVv 37 44 3 true false) ∧
    decode 0b11101_0_1_101100_000000_100101_1111011#32 = .ok (.vbamax 37 44 false true) ∧
    decode 0b11111_0_1_101100_000000_100101_1111011#32 = .ok (.vfsqrt 37 44 false true) ∧
    decode 0b11111_0_1_101100_000001_100101_1111011#32 = .ok (.vfrec 37 44 false true) ∧
    decode 0b11111_0_1_101100_000010_100101_1111011#32 = .ok (.vfrsqrt 37 44 false true) ∧
    decode 0b11111_0_1_101100_000011_100101_1111011#32 = .ok (.vfclass 37 44 false true) ∧
    decode 0b11111_0_1_101100_000100_100101_1111011#32 = .ok (.vfexp2 37 44 false true) ∧
    decode 0b11111_0_1_101100_000101_100101_1111011#32 = .ok (.vflog2 37 44 false true) ∧
    decode 0b11111_0_1_101100_000110_100101_1111011#32 = .ok (.vftanh 37 44 false true) ∧
    decode 0b11111_0_1_101100_000111_100101_1111011#32 = .ok (.vfsilu 37 44 false true) ∧
    decode 0b11111_0_1_101100_001000_100101_1111011#32 = .ok (.vfgelu 37 44 false true) ∧
    decode 0b11111_0_1_101100_001001_100101_1111011#32 = .ok (.vfsin 37 44 false true) :=
  ⟨rfl, rfl, rfl, rfl, rfl, rfl, rfl, rfl, rfl, rfl, rfl, rfl, rfl, rfl, rfl, rfl, rfl, rfl, rfl, rfl, rfl, rfl, rfl, rfl, rfl, rfl, rfl, rfl, rfl, rfl, rfl, rfl, rfl, rfl, rfl, rfl, rfl, rfl, rfl, rfl⟩
theorem test_decode_custom3_2 :
    decode 0b11111_0_1_101100_001010_100101_1111011#32 = .ok (.vfcos 37 44 false true) ∧
    decode 0b11111_0_1_101100_001011_100101_1111011#32 = .ok (.vfabs 37 44 false true) ∧
    decode 0b11111_0_1_101100_001100_100101_1111011#32 = .ok (.vfneg 37 44 false true) ∧
    decode 0b11111_0_1_101100_001101_100101_1111011#32 = .ok (.vconj 37 44 false true) ∧
    decode 0b11111_0_1_101100_001110_100101_1111011#32 = .ok (.vfredsum 37 44 false true) ∧
    decode 0b11111_0_1_101100_001111_100101_1111011#32 = .ok (.vfredmax 37 44 false true) ∧
    decode 0b11111_0_1_101100_010000_100101_1111011#32 = .ok (.vfredmin 37 44 false true) ∧
    decode 0b11111_0_1_101100_010001_100101_1111011#32 = .ok (.vfredamax 37 44 false true) ∧
    decode 0b11111_0_0_101100_010010_100101_1111011#32 = .ok (.pfwd 37 44 false) ∧
    decode 0b11111_0_0_101100_010011_100101_1111011#32 = .ok (.pinv 37 44 false) ∧
    decode 0b11111_0_0_101100_010100_100101_1111011#32 = .ok (.pfwdc 37 44 false) ∧
    decode 0b11111_0_0_101100_010101_100101_1111011#32 = .ok (.pinvc 37 44 false) ∧
    decode 0b11111_0_0_101100_010110_100101_1111011#32 = .ok (.vretag 37 44 false) ∧
    decode 0b11111_0_0_101100_010111_100101_1111011#32 = .ok (.vtagclr 37 44 false) :=
  ⟨rfl, rfl, rfl, rfl, rfl, rfl, rfl, rfl, rfl, rfl, rfl, rfl, rfl, rfl⟩
theorem test_decode_custom0_1 :
    decode 0b000000000_0_1_1_01001_100_00101_0001011#32 = .ok (.vld 37 9 false true) ∧
    decode 0b000000010_0_1_1_01001_100_00101_0001011#32 = .ok (.vldFe 37 9 false true) ∧
    decode 0b000000100_0_1_1_01001_100_00101_0001011#32 = .ok (.vldFec 37 9 false true) ∧
    decode 0b000000110_0_1_1_01001_100_00101_0001011#32 = .ok (.vldSc 37 9 false true) ∧
    decode 0b000000001_0_1_1_01001_100_00101_0001011#32 = .ok (.vst 37 9 false true) ∧
    decode 0b000000011_0_1_1_01001_100_00101_0001011#32 = .ok (.vstFe 37 9 false true) ∧
    decode 0b000000101_0_1_1_01001_100_00101_0001011#32 = .ok (.vstNt 37 9 false true) ∧
    decode 0b000000111_0_1_1_01001_100_00101_0001011#32 = .ok (.vstSc 37 9 false true) ∧
    decode 0b000_1_0_1_0_10010_01001_101_00101_0001011#32 = .ok (.vlds 37 9 18 true false) ∧
    decode 0b100_1_0_1_0_10010_01001_101_00101_0001011#32 = .ok (.vldsFe 37 9 18 true false) ∧
    decode 0b001_1_0_1_0_10010_01001_101_00101_0001011#32 = .ok (.vsts 37 9 18 true false) ∧
    decode 0b101_1_0_1_0_10010_01001_101_00101_0001011#32 = .ok (.vstsFe 37 9 18 true false) ∧
    decode 0b010_1_0_1_101100_01001_101_00101_0001011#32 = .ok (.vldx 37 9 44 true false) ∧
    decode 0b110_1_0_1_101100_01001_101_00101_0001011#32 = .ok (.vldxFe 37 9 44 true false) ∧
    decode 0b011_1_0_1_101100_01001_101_00101_0001011#32 = .ok (.vstx 37 9 44 true false) ∧
    decode 0b111_1_0_1_101100_01001_101_00101_0001011#32 = .ok (.vstxFe 37 9 44 true false) ∧
    decode 0b000_1_0_1_101100_01001_111_00101_0001011#32 = .ok (.vbadd 37 44 9 true false) ∧
    decode 0b001_1_0_1_101100_01001_111_00101_0001011#32 = .ok (.vbfadd 37 44 9 true false) ∧
    decode 0b010_1_0_1_101100_01001_111_00101_0001011#32 = .ok (.vbfmax 37 44 9 true false) ∧
    decode 0b011_1_0_1_101100_01001_111_00101_0001011#32 = .ok (.vbor 37 44 9 true false) ∧
    decode 0b100_1_0_1_101100_01001_111_00101_0001011#32 = .ok (.vlock 37 44 9 true false) ∧
    decode 0b101_1_0_1_101100_01001_111_00101_0001011#32 = .ok (.vunlock 37 44 9 true false) ∧
    decode 0b110_1_0_1_101100_01001_111_00101_0001011#32 = .ok (.vfabget 37 44 9 true false) ∧
    decode 0b111_1_0_1_101100_01001_111_00101_0001011#32 = .ok (.vfabput 37 44 9 true false) ∧
    decode 0b00000000000000000000000000001011#32 = .ok (.join) ∧
    decode 0b00001000000000000000000000001011#32 = .ok (.nend) ∧
    decode 0b000100000000_00011_000000000001011#32 = .ok (.meet 3) ∧
    decode 0b00011000000000000000000000001011#32 = .ok (.yield) ∧
    decode 0b001000000000000000000_0011_0001011#32 = .ok (.bfree 3) ∧
    decode 0b0010100000000_0110_000_00101_0001011#32 = .ok (.blim 5 6) ∧
    decode 0b0011000000000_0110_000_00101_0001011#32 = .ok (.bptr 5 6) ∧
    decode 0b0011100_00011_00000000_00011_0001011#32 = .ok (.feclr 3 3) ∧
    decode 0b01000_1_00000000000000_00101_0001011#32 = .ok (.vfeclr 37) ∧
    decode 0b010010_1_00000_01001_000000000001011#32 = .ok (.barInit 9 true) ∧
    decode 0b01010_1_0_10010_01001_000000000001011#32 = .ok (.barExp 9 18 false true) ∧
    decode 0b01011_0_1_10010_01001_000_00011_0001011#32 = .ok (.barArr 9 18 3 true false) ∧
    decode 0b01100_0_1_10010_01001_000_00011_0001011#32 = .ok (.barWait 9 18 3 true false) ∧
    decode 0b01101000000000000000000000001011#32 = .ok (.vdrain) ∧
    decode 0b0111000_00011_00011_000000000001011#32 = .ok (.fenceS 3 3) ∧
    decode 0b011110_0_00000_01001_000_00101_0001011#32 = .ok (.lpost 5 9 false) :=
  ⟨rfl, rfl, rfl, rfl, rfl, rfl, rfl, rfl, rfl, rfl, rfl, rfl, rfl, rfl, rfl, rfl, rfl, rfl, rfl, rfl, rfl, rfl, rfl, rfl, rfl, rfl, rfl, rfl, rfl, rfl, rfl, rfl, rfl, rfl, rfl, rfl, rfl, rfl, rfl, rfl⟩
theorem test_decode_custom0_2 :
    decode 0b10000000000000000000000000001011#32 = .ok (.tret) ∧
    decode 0b10001_0_1_10010_01001_000_00101_0001011#32 = .ok (.ctxsave 5 9 18 true false) ∧
    decode 0b10010_0_1_10010_01001_000_00101_0001011#32 = .ok (.ctxload 5 9 18 true false) ∧
    decode 0b100110_1_00000_01001_000000000001011#32 = .ok (.chold 9 true) ∧
    decode 0b101000_0_00000_01001_000_00101_0001011#32 = .ok (.fabld 5 9 false) ∧
    decode 0b10101_1_0_10010_01001_000000000001011#32 = .ok (.fabst 9 18 false true) ∧
    decode 0b10110_0_1_10010_01001_000_00101_0001011#32 = .ok (.fabadd 5 9 18 true false) ∧
    decode 0b10111_0_1_10010_01001_000_00101_0001011#32 = .ok (.fabcas 5 9 18 true false) ∧
    decode 0b11000_0_1_10010_01001_000_00101_0001011#32 = .ok (.fabswp 5 9 18 true false) ∧
    decode 0b11001000000000000000000000001011#32 = .ok (.fabfl) ∧
    decode 0b11010_1_0_10010_01001_000000000001011#32 = .ok (.fabred 9 18 false true) ∧
    decode 0b110110_0_00000_01001_000_00101_0001011#32 = .ok (.fabrw 5 9 false) ∧
    decode 0b111000_1_00000_01001_000000000001011#32 = .ok (.cres 9 true) ∧
    decode 0b11101000000000000000000000001011#32 = .ok (.halt) ∧
    decode 0b111100_0_00000_01001_000_00101_0001011#32 = .ok (.scrub 5 9 false) ∧
    decode 0b101001010011_01001_0010_0011_0001011#32 = .ok (.bslot 3 2643 9) ∧
    decode 0b01001010011_0_01001_010000000001011#32 = .ok (.loop 9 595 false) ∧
    decode 0b00000000000000000010000010001011#32 = .ok (.lbrk) ∧
    decode 0b00000000000000000010000100001011#32 = .ok (.lnext) ∧
    decode 0b01001010011_000000010000110001011#32 = .ok (.vstrip 595) ∧
    decode 0b01001010011_000000010001000001011#32 = .ok (.fork 595) ∧
    decode 0b0000_0_11_0011_1_01001_011_00101_0001011#32 = .ok (.vlset 5 9 3 3 false true) ∧
    decode 0b000000_0_00000_01001_110_00101_0001011#32 = .ok (.mtset 5 9 false) ∧
    decode 0b000010_0_00011_01001_110000000001011#32 = .ok (.mwld 9 3 false) ∧
    decode 0b00010_0_100101_01001_110000000001011#32 = .ok (.mgath 37 9 false) ∧
    decode 0b000110_1_00011_01001_11000_010_0001011#32 = .ok (.mmac 2 9 3 true) ∧
    decode 0b001000_1_00011_01001_11000_010_0001011#32 = .ok (.mmacz 2 9 3 true) ∧
    decode 0b0010100000000000011000_010_0001011#32 = .ok (.mzero 2) ∧
    decode 0b00110_0_100101_00010_110000000001011#32 = .ok (.mrd 37 2 false) ∧
    decode 0b001110_0_00000_01001_11000_010_0001011#32 = .ok (.mst 2 9 false) ∧
    decode 0b010000_1_00000_01001_110000000001011#32 = .ok (.mcode 9 true) ∧
    decode 0b01001_0_100101_01001_110000000001011#32 = .ok (.ystr 37 9 false) ∧
    decode 0b010100_100101_00000110000000001011#32 = .ok (.yend 37) ∧
    decode 0b010101_100101_00000110000000001011#32 = .ok (.yend 37) ∧
    decode 0b01011_1_100101_01001_110_00101_0001011#32 = .ok (.yld 5 37 9 true) ∧
    decode 0b01100_1_100101_01001_110_00101_0001011#32 = .ok (.yst 5 37 9 true) ∧
    decode 0b01101_1_100101_01001_110_00101_0001011#32 = .ok (.yxfer 5 37 9 true) ∧
    decode 0b011100_0_00000_01001_110_00101_0001011#32 = .ok (.ytile 5 9 false) :=
  ⟨rfl, rfl, rfl, rfl, rfl, rfl, rfl, rfl, rfl, rfl, rfl, rfl, rfl, rfl, rfl, rfl, rfl, rfl, rfl, rfl, rfl, rfl, rfl, rfl, rfl, rfl, rfl, rfl, rfl, rfl, rfl, rfl, rfl, rfl, rfl, rfl, rfl, rfl⟩

end Sys2Proof.Tests
end

/-! SUPPORT and PROOFS. Retirement and the loop instructions (O13, O16): the end-of-body step by its cases, what a retirement leaves in each
needle and in the gauge, and how `loop`, `lnext` and `lbrk` end. -/

namespace Sys2Proof.Machine
open Sys2Proof

/-! ## The end-of-body step (R25) -/

/-- Where no innermost level's body ends, control goes on at the next word. -/
theorem endOfBody_inside {last : Word} {ls : List Level} (h : ∀ l ∈ ls.head?, l.last ≠ last) : endOfBody last ls = (last + 4#64, ls, false) := by
  cases ls with
  | nil => rfl
  | cons l ls => simp only [endOfBody, h l rfl, if_false]

theorem endOfBody_again {last : Word} {l : Level} (ls : List Level) (he : l.last = last) (hi : l.index.toNat + 1 < l.count.toNat) :
    endOfBody last (l :: ls) = (l.start, { l with index := l.index + 1#64 } :: ls, true) := by
  simp only [endOfBody, he, hi, if_true]

/-- A level at its last iteration closes, and the levels outside it take their own step. -/
theorem endOfBody_close {last : Word} {l : Level} (ls : List Level) (he : l.last = last) (hi : l.count.toNat ≤ l.index.toNat + 1) :
    endOfBody last (l :: ls) = endOfBody last ls := by
  simp only [endOfBody, he, if_true, Nat.not_lt.mpr hi, if_false]

/-! ## What a retirement leaves (R25, R193, R355) -/

theorem advance_needle_ne (c : Ctx) {n m : Needle} (h : m ≠ n) : (c.advance n).needle m = c.needle m := setNeedle_needle_ne c n m _ h

theorem retired_needle (s t : State) (q : Charge) (n : Needle) (h : t.my.stepping = false) :
    (s.retired q t).my.needle n = (t.my.advance s.ndl).needle n := by
  rw [retired_my s t q h, ← addEnergy_needle (t.my.advance s.ndl)]
  cases n <;> rfl

/-- Below the gauge's largest value energy adds up. -/
theorem addEnergy_gauge (c : Ctx) (n : Nat) (hs : c.gaugest = false) (hn : c.gauge + n ≤ 16 * (2 ^ 48 - 1)) : (c.addEnergy n).gauge = c.gauge + n := by
  unfold Ctx.addEnergy
  dsimp only
  split
  · next hfull =>
    simp only [hs, Bool.false_or, decide_eq_true_eq] at hfull
    exact Nat.le_antisymm hfull hn
  · rfl

theorem retired_gauge (s t : State) (q : Charge) (h : t.my.stepping = false) (hs : t.my.gaugest = false)
    (hn : t.my.gauge + (t.part t.my.part).energy q ≤ 16 * (2 ^ 48 - 1)) :
    (s.retired q t).my.gauge = t.my.gauge + (t.part t.my.part).energy q := by
  have e := addEnergy_gauge (t.my.advance s.ndl) ((t.part t.my.part).energy q) (by simpa using hs) (by simpa using hn)
  rw [retired_my s t q h]
  simpa using e

/-- Settles O13: its needle stands where the end-of-body step of its pc leads, taken case by case; the rest is the frame of a retirement. -/
theorem retirement : Obligations.Retirement := by
  intro s t q _ hn hstep d u e
  have he : e = (t.my.advance s.ndl).needle s.ndl := retired_needle s t q s.ndl hstep
  rw [advance_needle, hn] at he
  have hto : (e.pc, e.loops, e.fresh) = endOfBody d.pc d.loops := by rw [he]
  have lands {r} (hr : endOfBody d.pc d.loops = r) : e.pc = r.1 ∧ e.loops = r.2.1 ∧ e.fresh = r.2.2 := by
    rw [← hr, ← hto]; exact ⟨rfl, rfl, rfl⟩
  have kept : Kept t u := kept_retired s t q
  refine ⟨by rw [he], fun h => lands (endOfBody_inside h), ?again, ?close, ?instret, retired_gauge s t q hstep, ?needles,
    kept.x, kept.f, kept.fflags, kept.special, kept.device, kept.memory, kept.others⟩
  case again =>
    intro l ls hls hl hi
    exact lands (hls ▸ endOfBody_again ls hl hi)
  case close =>
    intro l ls hls hl hi
    have outer : endOfBody d.pc d.loops = endOfBody d.pc ls := hls ▸ endOfBody_close ls hl hi
    refine ⟨fun h => lands (outer.trans (endOfBody_inside h)), ?_⟩
    rintro m ms rfl hm hj
    exact lands (outer.trans (endOfBody_again ms hm hj))
  case instret => exact congrArg Ctx.instret (retired_my s t q hstep)
  case needles =>
    intro n hne
    exact (retired_needle s t q n hstep).trans (advance_needle_ne t.my hne)

/-! ## How `loop`, `lnext` and `lbrk` end (R24, R201, R202) -/

/-- The end-of-body step of an instruction, when the loop return that it makes has a good target (R120). -/
theorem finish_endStepAt (s : State) (q : Charge) (last : Word)
    (h : (endOfBody last (s.my.needle s.ndl).loops).2.2 = true → s.my.goodTarget (endOfBody last (s.my.needle s.ndl).loops).1) :
    finish s q (s.endStepAt last) = .next (s.placed q (s.sentTo (endOfBody last (s.my.needle s.ndl).loops))) := by
  rw [endStepAt_good s s last rfl h, finish_placed]

/-- `loop` by its checks in their order. -/
theorem execLoop_allowed (s : State) (rs1 : XReg) (off : BitVec 11) (w1 : Bool) (h : s.Allowed .base [.x rs1 w1]) :
    let ls := (s.my.needle s.ndl).loops
    let last := s.pc + BitVec.ofInt 64 (4 * off.toInt)
    execLoop rs1 off w1 s =
      if off.toInt ≤ 0 then .next (s.trapped 0x01#8 (s.ir.setWidth 64) 0#64)
      else if s.my.getX rs1 = 0#64 then finish s sysCharge (s.endStepAt last)
      else if 6 ≤ ls.length then .next (s.trapped 0x08#8 (s.ir.setWidth 64) 0#64)
      else if ls.head?.any (fun l => l.last.toNat < last.toNat) then .next (s.trapped 0x01#8 (s.ir.setWidth 64) 0#64)
      else .next (s.placed sysCharge (s.sentTo (s.pc + 4#64, ⟨s.pc + 4#64, last, s.my.getX rs1, 0#64⟩ :: ls, true))) := by
  intro ls last
  unfold execLoop
  rw [launch_reading s .base _ _ _ h]
  simp only [apply_ite (finish s sysCharge), off4, illegal, finish_trap, finish_placed]
  rfl

theorem execLnext_none (s : State) (h : s.Allowed .base []) (hl : (s.my.needle s.ndl).loops = []) :
    execLnext s = .next (s.trapped 0x01#8 (s.ir.setWidth 64) 0#64) := by
  unfold execLnext
  rw [launch_allowed s .base _ _ [] h]
  simp only [hl, illegal, finish_trap]

theorem execLnext_open (s : State) (h : s.Allowed .base []) {l : Level} {ls : List Level} (hl : (s.my.needle s.ndl).loops = l :: ls) :
    execLnext s = finish s sysCharge (s.endStepAt l.last) := by
  unfold execLnext
  rw [launch_allowed s .base _ _ [] h, hl]

theorem execLbrk_none (s : State) (h : s.Allowed .base []) (hl : (s.my.needle s.ndl).loops = []) :
    execLbrk s = .next (s.trapped 0x01#8 (s.ir.setWidth 64) 0#64) := by
  unfold execLbrk
  rw [launch_allowed s .base _ _ [] h]
  simp only [hl, illegal, finish_trap]

/-- The level at index count − 1 has no iteration left, so its end-of-body step closes it. -/
theorem endOfBody_broken (l : Level) (ls : List Level) : endOfBody l.last ({ l with index := l.count - 1#64 } :: ls) = endOfBody l.last ls :=
  endOfBody_close ls rfl (show l.count.toNat ≤ (l.count - 1#64).toNat + 1 by bv_omega)

/-- The state whose needle has these levels open, which `lbrk` makes before its end-of-body step. -/
def State.withLoops (s : State) (ls : List Level) : State := s.onMy (·.setNeedle s.ndl { s.my.needle s.ndl with loops := ls })

theorem State.withLoops_loops (s : State) (ls : List Level) : ((s.withLoops ls).my.needle (s.withLoops ls).ndl).loops = ls := by
  simp only [State.withLoops, State.my_onMy, State.ndl, State.onMy_cur, needle_setNeedle]

theorem State.withLoops_goodTarget (s : State) (ls : List Level) (t : Word) : (s.withLoops ls).my.goodTarget t ↔ s.my.goodTarget t := by
  simp only [State.withLoops, State.my_onMy, Ctx.goodTarget, Ctx.setNeedle_slot0]

/-- Where a loop step leads does not depend on the levels that stood open. -/
theorem State.withLoops_sentTo (s : State) (ls : List Level) (r : Word × List Level × Bool) : (s.withLoops ls).sentTo r = s.sentTo r := by
  unfold State.sentTo State.withLoops
  rw [onMy_onMy]
  simp only [State.ndl, State.onMy_cur, setNeedle_setNeedle, needle_setNeedle]
  rfl

theorem endStepAt_broken (s : State) (l : Level) (ls : List Level) (ht : (endOfBody l.last ls).2.2 = true → s.my.goodTarget (endOfBody l.last ls).1) :
    (s.withLoops ({ l with index := l.count - 1#64 } :: ls)).endStepAt l.last = (s.sentTo (endOfBody l.last ls), .placed) := by
  have hgood := endStepAt_good s (s.withLoops ({ l with index := l.count - 1#64 } :: ls)) l.last (State.onMy_cur ..)
  rw [State.withLoops_loops, endOfBody_broken, State.withLoops_goodTarget, State.withLoops_sentTo] at hgood
  exact hgood ht

theorem execLbrk_open (s : State) (h : s.Allowed .base []) {l : Level} {ls : List Level} (hl : (s.my.needle s.ndl).loops = l :: ls)
    (ht : (endOfBody l.last ls).2.2 = true → s.my.goodTarget (endOfBody l.last ls).1) :
    execLbrk s = .next (s.placed sysCharge (s.sentTo (endOfBody l.last ls))) := by
  have hend := endStepAt_broken s l ls ht
  unfold State.withLoops at hend
  unfold execLbrk
  rw [launch_allowed s .base _ _ [] h]
  simp only [hl, hend, finish_placed]

/-- Settles O16: the checks of `loop` in their order, and the end-of-body step of `lnext` and of `lbrk`. -/
theorem loopInstructions : Obligations.LoopInstructions := by
  intro s rs1 off w1 h ls count last bad targ reached
  have h0 : s.Allowed .base [] := h.fewer (by simp)
  have hloop := execLoop_allowed s rs1 off w1 h
  simp only [exec_loop, exec_lnext, exec_lbrk]
  refine ⟨?opens, ?skips, ?full, ?outside, fun ho => hloop.trans (if_pos ho), fun hl => ⟨execLnext_none s h0 hl, execLbrk_none s h0 hl⟩, ?steps⟩
  case opens =>
    intro ho hc hd hin
    have hin' : ls.head?.any (fun l => l.last.toNat < last.toNat) = false := by
      simpa only [Option.any_eq_false, decide_eq_false_iff_not, Nat.not_lt, Option.mem_def] using hin
    rw [hloop, if_neg (Int.not_le.mpr ho), if_neg hc, if_neg (Nat.not_le.mpr hd), if_neg (by rw [hin']; exact Bool.false_ne_true)]
    rfl
  case skips =>
    intro ho hc hr
    rw [hloop, if_neg (Int.not_le.mpr ho), if_pos hc]
    exact finish_endStepAt s sysCharge last hr
  case full =>
    intro ho hc hd
    rw [hloop, if_neg (Int.not_le.mpr ho), if_neg hc, if_pos hd]
  case outside =>
    intro ho hc hd hout
    have hout' : ls.head?.any (fun l => l.last.toNat < last.toNat) = true := by
      simpa only [Option.any_eq_true, decide_eq_true_eq, Option.mem_def] using hout
    rw [hloop, if_neg (Int.not_le.mpr ho), if_neg hc, if_neg (Nat.not_le.mpr hd), if_pos hout']
  case steps =>
    intro l rest hl
    refine ⟨fun hr => ?_, execLbrk_open s h0 hl⟩
    rw [execLnext_open s h0 hl]
    exact finish_endStepAt s sysCharge l.last hr

end Sys2Proof.Machine

/-! SUPPORT and PROOFS. Control and status registers (O21): one access by the checks it meets, what a write to a context register reads back
as, and which registers it leaves alone. -/

namespace Sys2Proof.Machine
open Sys2Proof

/-! ## One access (R32, R192) -/

section
variable {s : State} (rd : XReg) {csr : BitVec 12} (operand : Ctx → Word) (f : Word → Word → Word)

/-- The check of privilege lets an access through. -/
theorem csr_reachable {n : Nat} (hm : csrManager n = false ∨ isManager s.who = true) : ¬ (csrManager n && !isManager s.who) = true := by
  rcases hm with hm | hm <;> simp [hm]

theorem csrAccess_privilege (writes : Bool) (srcs : List Src) (h : s.Allowed .sOnly []) (hm : csrManager csr.toNat = true)
    (hc : isManager s.who = false) :
    csrAccess rd csr writes srcs operand f s = .next (s.trapped 0x1B#8 (s.ir.setWidth 64) 0#64) := by
  unfold csrAccess
  rw [launch_allowed s .sOnly _ _ [] h, if_pos (by rw [hm, hc]; rfl), finish_trap]

theorem csrAccess_unknown (writes : Bool) (srcs : List Src) (h : s.Allowed .sOnly []) (hm : csrManager csr.toNat = false ∨ isManager s.who = true)
    (hr : s.readCsr csr.toNat = none) :
    csrAccess rd csr writes srcs operand f s = .next (s.trapped 0x01#8 (s.ir.setWidth 64) 0#64) := by
  unfold csrAccess
  rw [launch_allowed s .sOnly _ _ [] h, if_neg (csr_reachable hm)]
  simp only [hr, illegal, finish_trap]

theorem csrAccess_readOnly (srcs : List Src) {writes : Bool} (hw : writes = true) (h : s.Allowed .sOnly [])
    (hm : csrManager csr.toNat = false ∨ isManager s.who = true) (hr : s.readCsr csr.toNat ≠ none) (ho : csrReadOnly csr.toNat = true) :
    csrAccess rd csr writes srcs operand f s = .next (s.trapped 0x01#8 (s.ir.setWidth 64) 0#64) := by
  obtain ⟨old, hold⟩ := Option.ne_none_iff_exists'.mp hr
  unfold csrAccess
  rw [launch_allowed s .sOnly _ _ [] h, if_neg (csr_reachable hm)]
  simp only [hold, hw, ho, Bool.and_true, if_true, illegal, finish_trap]

/-- An access that no check stops: x[rd] takes the old value, after the write when the form writes. -/
theorem csrAccess_next {srcs : List Src} {writes : Bool} {old : Word} (h : s.Issues .sOnly srcs)
    (hm : csrManager csr.toNat = false ∨ isManager s.who = true) (hr : s.readCsr csr.toNat = some old)
    (ho : (writes && csrReadOnly csr.toNat) = false) :
    csrAccess rd csr writes srcs operand f s = .next (s.retired [(0, 1)]
      ((if writes then s.writeCsr csr.toNat (f old (operand s.my)) else s).onMy (·.setX rd old))) := by
  unfold csrAccess
  rw [launch_allowed s .sOnly _ _ srcs h.toAllowed, if_neg (csr_reachable hm)]
  simp only [hr, ho, Bool.false_eq_true, if_false]
  rw [reading_ready s srcs _ h.full h.quiet h.known, finish_done s _ _ h.back]

theorem csrAccess_kept {srcs : List Src} {writes : Bool} {old : Word} (hw : writes = false) (h : s.Issues .sOnly srcs)
    (hm : csrManager csr.toNat = false ∨ isManager s.who = true) (hr : s.readCsr csr.toNat = some old) :
    csrAccess rd csr writes srcs operand f s = .next (s.givesX [(0, 1)] rd old) := by
  subst hw
  exact csrAccess_next rd operand f h hm hr rfl

theorem csrAccess_wrote {srcs : List Src} {writes : Bool} {old : Word} (hw : writes = true) (h : s.Issues .sOnly srcs)
    (hm : csrManager csr.toNat = false ∨ isManager s.who = true) (hr : s.readCsr csr.toNat = some old) (ho : csrReadOnly csr.toNat = false) :
    csrAccess rd csr writes srcs operand f s =
      .next (s.retired [(0, 1)] ((s.writeCsr csr.toNat (f old (operand s.my))).onMy (·.setX rd old))) := by
  subst hw
  exact csrAccess_next rd operand f h hm hr ho

end

/-! ## Context registers (R5, R193) -/

theorem readCsr_context (s : State) {n : Nat} (h : csrManager n = false) : s.readCsr n = s.ctxCsr n := by
  unfold State.readCsr
  split
  · simp only [h, Bool.false_eq_true, if_false]
  · rfl

theorem writeCsr_context (s : State) {n : Nat} (v : Word) (h : csrManager n = false) : s.writeCsr n v = s.onMy (·.writeCsr n v) := by
  unfold State.writeCsr
  split
  · simp only [h, Bool.false_eq_true, if_false]
  · rfl

/-- The writable context registers, each with the bits that are not reserved. -/
def writableCsrs : List (Nat × Word) :=
  [(0x001, 0x1F#64), (0x002, 0x7#64), (0x003, 0xFF#64), (0x800, BitVec.allOnes 64), (0x801, 0xFFFFFFFF#64), (0x802, BitVec.allOnes 64),
    (0x803, BitVec.allOnes 64), (0x804, BitVec.allOnes 64), (0x805, 0xF3B#64), (0x806, 0x13F0F#64), (0x807, BitVec.allOnes 64),
    (0x808, BitVec.allOnes 64), (0x809, 0xF#64), (0x80A, BitVec.allOnes 64), (0x80B, BitVec.allOnes 64), (0x80C, 0x1DF#64),
    (0x80D, 0xFFFFFFFFFFFF00FF#64)]

/-- A register of `k` bits holds the low `k` bits of what is written. -/
theorem setWidth_setWidth_eq_and (v : Word) (k : Nat) : (v.setWidth k).setWidth 64 = v &&& (BitVec.allOnes k).setWidth 64 := by
  apply BitVec.eq_of_getLsbD_eq
  intro i hi
  simp only [BitVec.getLsbD_setWidth, BitVec.getLsbD_and, BitVec.getLsbD_allOnes, hi, decide_true, Bool.true_and, Bool.and_comm]

/-- The same where some of the `k` bits are reserved. -/
theorem setWidth_setWidth_and (v : Word) {k : Nat} (m : BitVec k) : (v.setWidth k &&& m).setWidth 64 = v &&& m.setWidth 64 := by
  rw [BitVec.setWidth_and, setWidth_setWidth_eq_and, BitVec.and_assoc, ← BitVec.setWidth_and, BitVec.allOnes_and]

/-- `fcsr` is its low eight bits, `frm` above `fflags`. -/
theorem fcsr_halves (v : Word) : v.extractLsb' 5 3 ++ v.setWidth 5 = v.setWidth 8 := by
  rw [BitVec.setWidth_eq_extractLsb' (by decide), BitVec.setWidth_eq_extractLsb' (by decide)]
  exact BitVec.extractLsb'_append_extractLsb'_eq_extractLsb' rfl

/-- What is written to a context register reads back with its reserved bits 0: row by row of the table, a full register, one of `k` bits, or one of
`k` bits with reserved bits among them. -/
theorem ctxCsr_writeCsr_same (s : State) (v : Word) : ∀ p ∈ writableCsrs, (s.onMy (·.writeCsr p.1 v)).ctxCsr p.1 = some (v &&& p.2) := by
  simp only [writableCsrs, List.forall_mem_cons, List.not_mem_nil, false_implies, implies_true, and_true]
  simp only [State.ctxCsr, Ctx.writeCsr, Ctx.setVprog, State.my_onMy, fcsr_halves, setWidth_setWidth_and, setWidth_setWidth_eq_and, BitVec.and_allOnes,
    true_and, and_true]
  exact ⟨rfl, rfl, rfl, rfl, rfl, rfl, rfl, rfl⟩

/-- The registers that CSRs show are the same in both contexts, but for those that a write to register `n` writes. -/
structure Ctx.CsrFrame (n : Nat) (c d : Ctx) : Prop where
  fflags : n ≠ 1 → n ≠ 3 → d.fflags = c.fflags
  frm : n ≠ 2 → n ≠ 3 → d.frm = c.frm
  srem : n ≠ 0x800 → d.strip.srem = c.strip.srem
  sptr : n ≠ 0x801 → d.strip.sptr = c.strip.sptr
  vdead : n ≠ 0x802 → d.vdead = c.vdead
  vbeg : n ≠ 0x803 → d.vbeg = c.vbeg
  vprog : n ≠ 0x804 → d.vprog = c.vprog
  vqcfg : n ≠ 0x805 → d.vqcfg = c.vqcfg
  pblk : n ≠ 0x806 → d.pblk = c.pblk
  mapitch : n ≠ 0x807 → d.mapitch = c.mapitch
  mwpitch : n ≠ 0x808 → d.mwpitch = c.mwpitch
  slip : n ≠ 0x809 → d.slip = c.slip
  mzmap : n ≠ 0x80A → d.mzmap = c.mzmap
  spused : n ≠ 0x80B → d.spused = c.spused
  fsel : n ≠ 0x80C → d.fsel = c.fsel
  fstat : n ≠ 0x80D → d.fstat = c.fstat
  cycle : d.cycle = c.cycle
  instret : d.instret = c.instret
  vl : d.strip.vl = c.strip.vl
  vtype : d.strip.vtype = c.strip.vtype
  gauge : d.gauge = c.gauge
  gaugest : d.gaugest = c.gaugest
  nS : d.nS = c.nS
  nV : d.nV = c.nV
  nM : d.nM = c.nM
  nC : d.nC = c.nC
  core : d.core = c.core
  v : d.v = c.v

theorem Ctx.csrFrame_writeCsr (c : Ctx) (n : Nat) (v : Word) : Ctx.CsrFrame n c (c.writeCsr n v) := by
  unfold Ctx.writeCsr
  split <;> constructor <;> simp [Ctx.setVprog]

theorem Ctx.CsrFrame.needle {n : Nat} {c d : Ctx} (h : Ctx.CsrFrame n c d) (m : Needle) : d.needle m = c.needle m := by
  cases m with
  | S => exact h.nS
  | V => exact h.nV
  | M => exact h.nM
  | C => exact h.nC

/-- A change that leaves a context on its core leaves its lanes. -/
theorem lanemap_onMy (s : State) (f : Ctx → Ctx) (h : (f s.my).core = s.my.core) : (s.onMy f).lanemap s.who = s.lanemap s.who := by
  have hregs : (s.onMy f).regs s.who = f s.my := State.regs_setRegs s s.who _
  have hcore : ∀ n, (s.onMy f).core n = s.core n := fun n => by unfold State.core; rw [State.onMy_cores]
  unfold State.lanemap
  rw [hregs, h, hcore]
  rfl

/-- A write to one register leaves every other one of the table as it was, `fcsr` being `frm` and `fflags` together. -/
theorem ctxCsr_writeCsr_ne (s : State) {n k : Nat} (v : Word) (hne : k ≠ n) (hf : 3 < n ∨ 3 < k ∨ n + k = 3) :
    (s.onMy (·.writeCsr n v)).ctxCsr k = s.ctxCsr k := by
  have frame := Ctx.csrFrame_writeCsr s.my n v
  have lanemap := lanemap_onMy s (·.writeCsr n v) frame.core
  unfold State.ctxCsr
  simp only [State.my_onMy, State.ndl_onMy, State.who_onMy, State.onMy_timer, State.lanes, lanemap, Ctx.needleCsr, Ctx.tagString, frame.v, frame.core,
    frame.needle, frame.nS, frame.nV, frame.nM, frame.nC, frame.cycle, frame.instret, frame.vl, frame.vtype, frame.gauge, frame.gaugest]
  split <;> simp (disch := omega) only [frame.fflags, frame.frm, frame.srem, frame.sptr, frame.vdead, frame.vbeg, frame.vprog, frame.vqcfg,
    frame.pblk, frame.mapitch, frame.mwpitch, frame.slip, frame.mzmap, frame.spused, frame.fsel, frame.fstat]

/-- Settles O21: one access by its checks, form by form, then the table of the context registers. -/
theorem controlRegisters : Obligations.ControlRegisters := by
  refine ⟨fun s rd rs1 uimm csr => ?_, fun s n mask v hm hmem => ?_⟩
  · simp only [exec_csrrw, exec_csrrs, exec_csrrc, exec_csrrwi, exec_csrrsi, exec_csrrci, execCsrrw, execCsrrs, execCsrrc, execCsrrwi, execCsrrsi,
      execCsrrci]
    have zero {a : BitVec 5} (h : a = 0#5) : (a != 0#5) = false := bne_eq_false_iff_eq.mpr h
    have nonzero {a : BitVec 5} (h : a ≠ 0#5) : (a != 0#5) = true := bne_iff_ne.mpr h
    refine ⟨?completes, ?privilege, ?unknown, ?readOnly⟩
    case completes =>
      intro h hm old hr
      have h0 : s.Issues .sOnly [] := h.fewer (by simp)
      have kept {srcs} (operand f) {w} (hi : s.Issues .sOnly srcs) (hw : w = false) := csrAccess_kept rd operand f hw hi hm hr
      refine ⟨fun hz => ⟨kept _ _ h (zero hz), kept _ _ h (zero hz)⟩, fun hz => ⟨kept _ _ h0 (zero hz), kept _ _ h0 (zero hz)⟩, fun ho => ?_⟩
      have wrote {srcs} (operand f) {w} (hi : s.Issues .sOnly srcs) (hw : w = true) := csrAccess_wrote rd operand f hw hi hm hr ho
      exact ⟨wrote _ _ h rfl, wrote _ _ h0 rfl, fun hz => ⟨wrote _ _ h (nonzero hz), wrote _ _ h (nonzero hz)⟩,
        fun hz => ⟨wrote _ _ h0 (nonzero hz), wrote _ _ h0 (nonzero hz)⟩⟩
    case privilege =>
      intro h hlo hhi hc
      have hm : csrManager csr.toNat = true := by simp [csrManager, hlo, hhi]
      have traps w srcs (operand f) := csrAccess_privilege rd operand f w srcs h hm hc
      exact ⟨traps .., traps .., traps .., traps .., traps .., traps ..⟩
    case unknown =>
      intro h hm hr
      have traps w srcs (operand f) := csrAccess_unknown rd operand f w srcs h hm hr
      exact ⟨traps .., traps .., traps .., traps .., traps .., traps ..⟩
    case readOnly =>
      intro h hm hr ho
      have traps srcs (operand f) {w} (hw : w = true) := csrAccess_readOnly rd operand f srcs hw h hm hr ho
      exact ⟨traps _ _ _ rfl, traps _ _ _ rfl, fun hz => ⟨traps _ _ _ (nonzero hz), traps _ _ _ (nonzero hz)⟩,
        fun hz => ⟨traps _ _ _ (nonzero hz), traps _ _ _ (nonzero hz)⟩⟩
  · intro t
    have ht : t = s.onMy (·.writeCsr n v) := writeCsr_context s v hm
    rw [ht]
    refine ⟨readCsr_context s hm, ?_, fun k hk hne hf => ?_, ?_, (onMy_bytes s _).same, onMy_device s _, onMy_others s _⟩
    · rw [readCsr_context _ hm]
      exact ctxCsr_writeCsr_same s v (n, mask) hmem
    · rw [readCsr_context _ hk, readCsr_context _ hk]
      exact ctxCsr_writeCsr_ne s v hne hf
    · rintro rfl
      rw [State.my_onMy]
      rfl

end Sys2Proof.Machine

/-! SUPPORT and PROOFS. Integer vector instructions on V (O25, O27): what every one of them keeps to, how its operands are read, and what each
element-by-element and each whole-group instruction leaves. -/

namespace Sys2Proof.Machine
open Sys2Proof

/-! ## What the integer vector instructions have in common (R226, R230–R236) -/

/-- The operations of the integer chapter (R237–R247). -/
def VOp.integer : VOp → Bool
  | .int _ | .cmp _ | .merge | .perm | .slideup | .slidedn | .un _ | .ext _ | .clip _ | .iota | .compress | .red _ | .mpopc | .mfirst => true
  | _ => false

/-- The tag that a destination takes where vs2's data have tag `t` (R232). -/
def DTag.pick (t : BitVec 6) : DTag → BitVec 6
  | .zero => 0#6
  | .vs2 => t

/-- What every integer instruction keeps to: it checks no rounding mode and no transform tag, takes no elements in blocks,
charges entry 3 and writes no headers. -/
structure VInstr.Plain (i : VInstr) : Prop where
  frm : i.usesFrm = false
  purl : ∀ k c g, i.purlTag k c g = none
  retag : i.op ≠ .retag
  tagclr : i.op ≠ .tagclr
  quant : i.op ≠ .quant
  dequant : i.op ≠ .dequant
  block : ∀ k l, (i.shape k l).block = 1
  outTag : ∀ c d sh, i.outTag (i.capture d) sh c = sh.dtag.pick (c.tagOf i.vs2.toNat)
  dstCount : ∀ k sh, i.dstCount k sh = if sh.always then max 1 k.vl else k.vl
  charge : ∀ k l lo hi, i.chargeOf k l lo hi = [(3, (hi - min lo (i.readsFrom k) + l - 1) / l)]
  side : ∀ k all r lo hi, (i.produce k all r lo hi).side = []

theorem VInstr.plain_of_integer : ∀ i : VInstr, i.op.integer = true → i.Plain
  | ⟨.int _, _, _, _, _, _⟩, _ | ⟨.cmp _, _, _, _, _, _⟩, _ | ⟨.merge, _, _, _, _, _⟩, _ | ⟨.perm, _, _, _, _, _⟩, _ | ⟨.slideup, _, _, _, _, _⟩, _
  | ⟨.slidedn, _, _, _, _, _⟩, _ | ⟨.un .mv, _, _, _, _, _⟩, _ | ⟨.un .id, _, _, _, _, _⟩, _ | ⟨.un .abs, _, _, _, _, _⟩, _
  | ⟨.un .neg, _, _, _, _, _⟩, _ | ⟨.un .not, _, _, _, _, _⟩, _ | ⟨.un .clz, _, _, _, _, _⟩, _ | ⟨.un .popcnt, _, _, _, _, _⟩, _
  | ⟨.ext _, _, _, _, _, _⟩, _ | ⟨.clip _, _, _, _, _, _⟩, _ | ⟨.iota, _, _, _, _, _⟩, _ | ⟨.compress, _, _, _, _, _⟩, _ | ⟨.red _, _, _, _, _, _⟩, _
  | ⟨.mpopc, _, _, _, _, _⟩, _ | ⟨.mfirst, _, _, _, _, _⟩, _ =>
    ⟨rfl, fun _ _ _ => rfl, nofun, nofun, nofun, nofun, fun _ _ => rfl, fun _ _ _ => rfl, fun _ _ => rfl, fun _ _ _ _ => rfl, fun _ _ _ _ _ => rfl⟩

/-- The scalar register that a first source names (R31). -/
def VSrc.scalars (w : Bool) : VSrc → List Src
  | .x r => [.x r w]
  | .f r => [.f r w]
  | _ => []

/-- The register group that a first source names. -/
def VSrc.groups (n : Nat) : VSrc → List (VReg × Nat)
  | .v r => [(r, n)]
  | _ => []

/-- The mask operand of a masked instruction. -/
def maskOps (m : Bool) : List Operand := if m then [maskOperand] else []

theorem mem_maskOps {o : Operand} {m : Bool} (ho : o ∈ maskOps m) : o = maskOperand := by
  cases m
  · cases ho
  · exact List.mem_singleton.mp ho

/-- An operand is read from a register group. -/
def Operand.Names (o : Operand) (g : VReg × Nat) : Prop := o.g.r = g.1.toNat ∧ o.g.n = g.2 ∧ o.read = true

/-- Operands are read from register groups, one from each in order. -/
inductive ReadFrom : List Operand → List (VReg × Nat) → Prop
  | nil : ReadFrom [] []
  | cons {o : Operand} {g : VReg × Nat} {os : List Operand} {gs : List (VReg × Nat)} (h : o.Names g) (hs : ReadFrom os gs) : ReadFrom (o :: os) (g :: gs)

section
variable {os : List Operand} {gs : List (VReg × Nat)} (hn : ReadFrom os gs)
include hn

theorem Operand.names_of_mem {o : Operand} (ho : o ∈ os) : ∃ g ∈ gs, o.Names g := by
  induction hn with
  | nil => cases ho
  | cons h _ ih =>
    rcases List.mem_cons.mp ho with rfl | ho
    · exact ⟨_, List.mem_cons_self, h⟩
    · obtain ⟨g, hg, hog⟩ := ih ho
      exact ⟨g, List.mem_cons_of_mem _ hg, hog⟩

theorem groupSrc_of_names {c : Ctx} (hs : c.noStreams) (w : Bool) : os.map (fun o => c.groupSrc o.g w) = gs.map (fun g => .v g.1 g.2 w) := by
  induction hn with
  | nil => rfl
  | cons h _ ih =>
    obtain ⟨hr, hsz, -⟩ := h
    simp only [List.map_cons, ih]
    simp [Ctx.groupSrc, stream_none hs, hr, hsz]

theorem filter_read_of_names (m : Bool) : (os ++ maskOps m).filter (·.read) = os ++ maskOps m := by
  rw [List.filter_eq_self]
  intro o ho
  rcases List.mem_append.mp ho with ho | ho
  · obtain ⟨g, -, -, -, hr⟩ := Operand.names_of_mem hn ho
    exact hr
  · exact mem_maskOps ho ▸ rfl

theorem aligned_of_names (ha : ∀ g ∈ gs, g.1.toNat % g.2 = 0 ∧ g.1.toNat + g.2 ≤ 64) {o : Operand} (ho : o ∈ os) : o.g.aligned = true := by
  obtain ⟨g, hg, hr, hsz, -⟩ := Operand.names_of_mem hn ho
  simp [Group.aligned, hr, hsz, ha g hg]

/-- The registers whose tags are checked are those of the source groups. -/
theorem tagRegs_of_names {c : Ctx} (hs : c.noStreams) {r : Nat} (hr : r ∈ (os.filter (·.data)).flatMap (fun o => c.tagRegs o.g)) :
    ∃ g ∈ gs, ∃ k, k < g.2 ∧ r = g.1.toNat + k := by
  obtain ⟨o, ho, hr⟩ := List.mem_flatMap.mp hr
  obtain ⟨g, hg, hgr, hgn, -⟩ := Operand.names_of_mem hn (List.mem_filter.mp ho).1
  simp only [Ctx.tagRegs, stream_none hs, Option.isSome_none, Bool.false_eq_true, if_false, List.mem_map, List.mem_range] at hr
  obtain ⟨k, hk, rfl⟩ := hr
  exact ⟨g, hg, k, hgn ▸ hk, by rw [hgr]⟩

theorem tagCheck_spatial {c : Ctx} (hs : c.noStreams) (ht : c.Spatial gs) : c.tagCheck none .spatial os = none := by
  refine tag_spatial c hs os fun o ho _ k hk => ?_
  obtain ⟨g, hg, hr, hsz, -⟩ := Operand.names_of_mem hn ho
  rw [hr]
  exact ht g hg k (hsz ▸ hk)

theorem tagCheck_equal {c : Ctx} (hs : c.noStreams) {tag : BitVec 6} (ht : c.SameTag gs tag) : c.tagCheck none .equal os = none := by
  have hall : ∀ r ∈ (os.filter (·.data)).flatMap (fun o => c.tagRegs o.g), c.tagOf r = tag := by
    intro r hr
    obtain ⟨g, hg, k, hk, rfl⟩ := tagRegs_of_names hn hs hr
    rw [tagOf_plain hs]
    exact ht g hg k hk
  unfold Ctx.tagCheck
  generalize (os.filter (·.data)).flatMap (fun o => c.tagRegs o.g) = rs at hall
  cases rs with
  | nil => rfl
  | cons r rs =>
    simp only [Option.map_eq_none_iff, List.find?_eq_none]
    intro x hx
    simp [Ctx.tagAt, hall x (List.mem_cons_of_mem _ hx), hall r List.mem_cons_self]

end

theorem VInstr.readsFrom_le (i : VInstr) (k : Capture) : i.readsFrom k ≤ k.vbeg := by
  unfold VInstr.readsFrom
  split <;> simp

/-- The mask is no data. -/
theorem tagCheck_mask (c : Ctx) (rule : TagRule) (os : List Operand) (m : Bool) : c.tagCheck none rule (os ++ maskOps m) = c.tagCheck none rule os := by
  unfold Ctx.tagCheck
  cases m <;> simp [maskOps, maskOperand]

theorem VInstr.sources_eq (i : VInstr) (sh : Shape) (c : Ctx) : i.sources sh c = i.src.scalars i.w ++ (sh.ops.filter (·.read)).map (fun o => c.groupSrc o.g i.w) := by
  obtain ⟨_, _, _, src, _, _⟩ := i
  cases src <;> rfl

theorem VInstr.checkIssue_none {i : VInstr} (hp : i.Plain) {k : Capture} {l : Nat} {s : State} {sh : Shape} (hsh : i.shape k l = sh) (hmask : i.maskOk = true)
    (hok : sh.ok = true) (hdst : sh.dst.aligned = true) (hops : ∀ o ∈ sh.ops, o.g.aligned = true ∧ o.rel.allows sh.dst o.g = true) :
    i.checkIssue k l s = none := by
  have hal : sh.ops.any (fun o => !o.g.aligned) = false := List.any_eq_false.mpr fun o ho => by simp [(hops o ho).1]
  have hrel : sh.ops.any (fun o => o.rel != .any && !o.rel.allows sh.dst o.g) = false := List.any_eq_false.mpr fun o ho => by simp [(hops o ho).2]
  have hquant : (i.op == .quant) = false := beq_eq_false_iff_ne.mpr hp.quant
  unfold VInstr.checkIssue
  simp only [hsh, hmask, hok, hdst, hal, hrel, hquant, hp.frm, Bool.not_true, Bool.or_self, Bool.false_or, Bool.false_and,
    Bool.false_eq_true, if_false]
  refine if_neg ?_
  split
  next h _ => exact absurd h hp.quant
  next h _ => exact absurd h hp.dequant
  next => exact Bool.false_ne_true

/-- The shape that the state in force gives an instruction. -/
abbrev VInstr.shapeIn (i : VInstr) (s : State) : Shape := i.shape (i.capture s.my) s.myLanes.length

/-- An integer instruction's shape is allowed, with a destination of `nd` registers and, beside v0, the operands `os` read from the groups `gs`;
those carry tags that it takes (R191, R228, R231–R233). -/
structure VInstr.Fits (i : VInstr) (s : State) (nd : Nat) (gs : List (VReg × Nat)) (os : List Operand) : Prop where
  integer : i.op.integer = true
  mask : i.maskOk = true
  ok : (i.shapeIn s).ok = true
  ops : (i.shapeIn s).ops = os ++ maskOps i.m
  names : ReadFrom os gs
  dst : (i.shapeIn s).dst.r = i.vd.toNat ∧ (i.shapeIn s).dst.n = nd
  rel : ∀ o ∈ os, o.rel.allows (i.shapeIn s).dst o.g = true
  tag : s.my.tagCheck none (i.shapeIn s).tags os = none

section
variable {s : State} {i : VInstr} {nd : Nat} {gs : List (VReg × Nat)} {os : List Operand}

theorem VInstr.Fits.sources (f : i.Fits s nd gs os) (hs : s.my.noStreams) :
    i.sources (i.shapeIn s) s.my = i.src.scalars i.w ++ gs.map (fun g => .v g.1 g.2 i.w) ++ if i.m then [.v 0#6 1 i.w] else [] := by
  rw [VInstr.sources_eq, f.ops, filter_read_of_names f.names, List.map_append, groupSrc_of_names f.names hs, ← List.append_assoc]
  congr 1
  cases i.m
  · rfl
  · simp [maskOps, maskOperand, maskAt, Ctx.groupSrc, stream_none hs]

theorem VInstr.Fits.checkIssue (f : i.Fits s nd gs os) {w m : Bool} {xs : List Src} (h : s.RunsV w m i.vd nd xs gs) :
    i.checkIssue (i.capture s.my) s.myLanes.length s = none := by
  have hdst : (i.shapeIn s).dst.aligned = true := by simp [Group.aligned, f.dst, h.dst]
  refine VInstr.checkIssue_none (VInstr.plain_of_integer i f.integer) rfl f.mask f.ok hdst fun o ho => ?_
  rcases List.mem_append.mp (f.ops ▸ ho) with ho | ho
  · exact ⟨aligned_of_names f.names h.src ho, f.rel o ho⟩
  · exact mem_maskOps ho ▸ ⟨rfl, rfl⟩

/-- An integer instruction that nothing stops writes what it produces from its captured start to `vl` − 1. -/
theorem VInstr.Fits.next (f : i.Fits s nd gs os) (h : s.RunsV i.w i.m i.vd nd (i.src.scalars i.w) gs) :
    vecArith i s = .next (s.vGives [(3, (s.my.strip.vl.toNat - i.readsFrom (i.capture s.my) + s.myLanes.length - 1) / s.myLanes.length)]
      (i.shapeIn s).dst s.my.strip.vl.toNat ((i.shapeIn s).dtag.pick (s.my.getV i.vs2).tag)
      (i.produce (i.capture s.my) (i.shapeIn s).allActive (i.reader (i.capture s.my) (i.shapeIn s) s.my s.myLanes) s.my.vbeg.toNat s.my.strip.vl.toNat)) := by
  have hp := VInstr.plain_of_integer i f.integer
  have hs : s.my.noStreams := h.plain
  have htags : s.my.tagCheck none (i.shapeIn s).tags ((i.shapeIn s).ops.filter (·.read)) = none := by
    rw [f.ops, filter_read_of_names f.names, tagCheck_mask, f.tag]
  rw [vecArith_next i s h.onV h.start h.free h.whole (f.sources hs ▸ h.issues) hs h.sound (f.checkIssue h) (hp.block _ _) htags (hp.purl _ _ _)
    hp.retag hp.tagclr h.some (hp.side ..)]
  have hcount : i.dstCount (i.capture s.my) (i.shapeIn s) = s.my.strip.vl.toNat := by
    have hvl : max 1 s.my.strip.vl.toNat = s.my.strip.vl.toNat := Nat.max_eq_right (by have := h.some; omega)
    rw [hp.dstCount]
    exact ite_eq_right_iff.mpr fun _ => hvl
  have hq : min s.my.vbeg.toNat (i.readsFrom (i.capture s.my)) = i.readsFrom (i.capture s.my) := Nat.min_eq_right (i.readsFrom_le _)
  simp only [hcount, hp.charge, hq, hp.outTag, tagOf_plain hs, BitVec.ofNat_toNat, BitVec.setWidth_eq]

end

/-! ## What an instruction reads (R34, R229, R236) -/

/-- A source group in place, read as elements of `eb` bits. -/
def groupOperand (r : VReg) (n eb : Nat) (rel : Rel) (data : Bool) : Operand := ⟨⟨r.toNat, n, eb, false⟩, rel, data, 1, true⟩

/-- The operand that a first source is. -/
def VSrc.operands (n eb : Nat) (rel : Rel) (data : Bool) : VSrc → List Operand
  | .v r => [groupOperand r n eb rel data]
  | _ => []

theorem VSrc.operands_names (n eb : Nat) (rel : Rel) (data : Bool) (src : VSrc) : ReadFrom (src.operands n eb rel data) (src.groups n) := by
  cases src with
  | v r => exact .cons ⟨rfl, rfl, rfl⟩ .nil
  | none | x r | f r => exact .nil

theorem names_cons_operands (r : VReg) (src : VSrc) (n eb : Nat) (rel : Rel) (data : Bool) :
    ReadFrom (groupOperand r n eb rel true :: src.operands n eb rel data) ((r, n) :: src.groups n) :=
  .cons ⟨rfl, rfl, rfl⟩ (src.operands_names n eb rel data)

/-- Element `j` of a first source; a scalar is one value for every element (R236). -/
def State.srcElem (s : State) : VSrc → Nat → Nat
  | .v r, j => s.elem r s.eb j
  | .x r, _ => (s.my.getX r).toNat % 2 ^ s.eb
  | .f r, _ => scalarElt s.fmt (s.my.getF r)
  | .none, _ => 0

theorem State.elem_lt (s : State) (r : VReg) (w j : Nat) : s.elem r w j < 2 ^ w := BitVec.isLt _

section
variable {s : State} (hs : s.my.noStreams) (i : VInstr) {sh : Shape} {o : Operand} {os : List Operand}
include hs

theorem reader_a (hops : sh.ops = o :: os) (hdiv : o.div = 1) :
    (i.reader (i.capture s.my) sh s.my s.myLanes).a = s.my.read s.myLanes o.g := by
  funext j
  simp only [VInstr.reader, hops]
  rw [read_fetch hs, hdiv, Nat.div_one]

theorem reader_b (hop : i.op.integer = true) {rel : Rel} {data : Bool} (hops : sh.ops = o :: i.src.operands s.grp s.eb rel data ++ maskOps i.m) :
    (i.reader (i.capture s.my) sh s.my s.myLanes).b = s.srcElem i.src := by
  obtain ⟨op, vd, vs2, src, w, m⟩ := i
  funext j
  cases src with
  | v r =>
    simp only [VInstr.reader, hops, VSrc.operands, List.cons_append]
    exact (read_fetch hs ..).trans (by rw [show (groupOperand r s.grp s.eb rel data).div = 1 from rfl, Nat.div_one]; rfl)
  | x r => rfl
  | none => exact Nat.zero_mod _
  | f r =>
    cases op with
    | fbin b => exact absurd hop Bool.false_ne_true
    | _ => rfl

end

/-! ## Elements as numbers (R236–R238) -/

/-- A `w`-bit element as a signed number. -/
def signedElt (w a : Nat) : Int := if a < 2 ^ (w - 1) then a else (a : Int) - 2 ^ w

theorem formatBits_pos : ∀ {f : Nat}, f ≤ 3 → 0 < formatBits f
  | 0, _ | 1, _ | 2, _ | 3, _ => by decide

theorem toInt_ofNat_elt {w a : Nat} (hw : 0 < w) (ha : a < 2 ^ w) : (BitVec.ofNat w a).toInt = signedElt w a := by
  have hw2 := Nat.two_pow_pred_mul_two hw
  have hneg : 2 * a < 2 ^ w ↔ a < 2 ^ (w - 1) := by omega
  rw [BitVec.toInt_eq_toNat_cond, BitVec.toNat_ofNat, Nat.mod_eq_of_lt ha, signedElt]
  simp only [hneg, Int.natCast_pow, Int.cast_ofNat_Int]

/-- What a compare of two elements decides. -/
def CmpOp.truth (o : CmpOp) (w a b : Nat) : Bool :=
  match o with
  | .eq => a = b
  | .ne => a ≠ b
  | .lt => signedElt w a < signedElt w b
  | .ltu => a < b
  | .le => signedElt w a ≤ signedElt w b
  | .leu => a ≤ b

theorem CmpOp.holds_eq_truth (o : CmpOp) {w a b : Nat} (hw : 0 < w) (ha : a < 2 ^ w) (hb : b < 2 ^ w) : o.holds w a b = o.truth w a b := by
  have heq : BitVec.ofNat w a = BitVec.ofNat w b ↔ a = b := by
    rw [← BitVec.toNat_inj, BitVec.toNat_ofNat, BitVec.toNat_ofNat, Nat.mod_eq_of_lt ha, Nat.mod_eq_of_lt hb]
  rw [Bool.eq_iff_iff]
  cases o with
  | eq => simp [CmpOp.holds, CmpOp.truth, heq]
  | ne => simp [CmpOp.holds, CmpOp.truth, heq]
  | lt => simp [CmpOp.holds, CmpOp.truth, BitVec.slt, toInt_ofNat_elt hw, ha, hb]
  | ltu => simp [CmpOp.holds, CmpOp.truth, BitVec.ult, Nat.mod_eq_of_lt, ha, hb]
  | le => simp [CmpOp.holds, CmpOp.truth, BitVec.sle, toInt_ofNat_elt hw, ha, hb]
  | leu => simp [CmpOp.holds, CmpOp.truth, BitVec.ule, Nat.mod_eq_of_lt, ha, hb]

/-! ## Element by element: the compares and `vmerge` (R238, R239) -/

/-- What element-by-element results leave. -/
def elementsOut (f : Nat → Rounded) (js : List Nat) : VOut :=
  ⟨(js.map (fun j => (j, f j))).map (fun e => (e.1, e.2.bits)), [], (js.map (fun j => (j, f j))).foldl (fun a e => a ||| e.2.flags) 0#5,
    (js.map (fun j => (j, f j))).foldl (fun a e => a ||| e.2.q) 0#12⟩

theorem foldl_or_zero {α : Type} {n : Nat} (l : List α) : l.foldl (fun (a : BitVec n) _ => a ||| 0#n) 0#n = 0#n := by
  induction l with
  | nil => rfl
  | cons x l ih => rwa [List.foldl_cons, BitVec.or_self]

theorem elementsOut_plain (f : Nat → Nat) (js : List Nat) : elementsOut (fun j => plain (f j)) js = ⟨js.map (fun j => (j, f j)), [], 0#5, 0#12⟩ := by
  simp only [elementsOut, plain, List.map_map, List.foldl_map, foldl_or_zero]
  rfl

theorem produce_cmp (o : CmpOp) (vd vs2 : VReg) (src : VSrc) (w m : Bool) (k : Capture) (all : Bool) (r : VReader) (lo hi : Nat) :
    VInstr.produce ⟨.cmp o, vd, vs2, src, w, m⟩ k all r lo hi =
      ⟨(((List.range (hi - lo)).map (lo + ·)).filter (fun j => all || r.active j)).map (fun j => (j, if o.holds (formatBits k.fmt) (r.a j) (r.b j) then 1 else 0)),
        [], 0#5, 0#12⟩ :=
  elementsOut_plain _ _

theorem produce_merge (vd vs2 : VReg) (src : VSrc) (w m : Bool) (k : Capture) (all : Bool) (r : VReader) (lo hi : Nat) :
    VInstr.produce ⟨.merge, vd, vs2, src, w, m⟩ k all r lo hi =
      ⟨(((List.range (hi - lo)).map (lo + ·)).filter (fun j => all || r.active j)).map (fun j => (j, if r.mask j then r.b j else r.a j)), [], 0#5, 0#12⟩ :=
  elementsOut_plain _ _

theorem maskOk_of_ne {m : Bool} {vd : VReg} (h : m = true → vd ≠ 0#6) : (!(m && vd == 0#6)) = true := by
  cases m with
  | false => rfl
  | true => simpa using h rfl

theorem fmtInt_of_le {f : Nat} (h : f ≤ 3) : fmtInt f = true := decide_eq_true h

theorem allows_of_apart {os : List Operand} {gs : List (VReg × Nat)} (hn : ReadFrom os gs) {vd : VReg} {nd : Nat}
    (ha : ∀ g ∈ gs, Apart (vd, nd) g) {d : Group} (hr : d.r = vd.toNat) (hnd : d.n = nd) : ∀ o ∈ os, o.rel.allows d o.g = true := by
  intro o ho
  obtain ⟨g, hg, hgr, hgn, -⟩ := Operand.names_of_mem hn ho
  have hd : d.disjoint o.g = true := by
    have := ha g hg
    simpa only [Group.disjoint, hr, hnd, hgr, hgn, Bool.or_eq_true, decide_eq_true_eq]
  cases o.rel with
  | same => simp [Rel.allows, hd]
  | disjoint => exact hd
  | any => rfl

theorem allows_same {s : State} {vd vs2 : VReg} {src : VSrc} (hd : vd.toNat % s.grp = 0)
    (ha : ∀ g ∈ (vs2, s.grp) :: src.groups s.grp, g.1.toNat % g.2 = 0 ∧ g.1.toNat + g.2 ≤ 64) :
    ∀ o ∈ groupOperand vs2 s.grp s.eb .same true :: src.operands s.grp s.eb .same true, o.rel.allows ⟨vd.toNat, s.grp, s.eb, false⟩ o.g = true := by
  have same (r : VReg) (h : (r, s.grp) ∈ (vs2, s.grp) :: src.groups s.grp) := rel_same vd r s.grp (grp_cases s) hd (ha _ h).1 s.eb
  intro o ho
  rcases List.mem_cons.mp ho with rfl | ho
  · exact same vs2 List.mem_cons_self
  · cases src with
    | v r =>
      obtain rfl := List.mem_singleton.mp ho
      exact same r (List.mem_cons_of_mem _ (List.mem_singleton_self _))
    | none | x r | f r => cases ho

section
variable {s : State} {vd vs2 : VReg} {src : VSrc} {w m : Bool} (hf : s.fmt ≤ 3)
include hf

theorem compare_next (o : CmpOp) (h : s.RunsV w m vd 1 (src.scalars w) ((vs2, s.grp) :: src.groups s.grp))
    (ht : s.my.Spatial ((vs2, s.grp) :: src.groups s.grp)) (ha : ∀ g ∈ (vs2, s.grp) :: src.groups s.grp, Apart (vd, 1) g)
    (hb : ∀ j, s.srcElem src j < 2 ^ s.eb) :
    vecArith ⟨.cmp o, vd, vs2, src, w, m⟩ s = .next (s.vGives [(3, s.groups)] ⟨vd.toNat, 1, 1, true⟩ s.my.strip.vl.toNat 0#6
      ⟨(s.acts m).map (fun j => (j, if o.truth s.eb (s.elem vs2 s.eb j) (s.srcElem src j) then 1 else 0)), [], 0#5, 0#12⟩) := by
  have hs : s.my.noStreams := h.plain
  have hn := names_cons_operands vs2 src s.grp s.eb .disjoint true
  have f : VInstr.Fits ⟨.cmp o, vd, vs2, src, w, m⟩ s 1 _ _ :=
    { integer := rfl, mask := maskOk_of_ne h.mask, ok := fmtInt_of_le hf, ops := by cases src <;> rfl, names := hn, dst := ⟨rfl, rfl⟩
      rel := allows_of_apart hn ha rfl rfl, tag := tagCheck_spatial hn hs ht }
  have htruth (j : Nat) : o.truth s.eb (s.elem vs2 s.eb j) (s.srcElem src j) = o.holds s.eb (s.elem vs2 s.eb j) (s.srcElem src j) :=
    (o.holds_eq_truth (formatBits_pos hf) (s.elem_lt ..) (hb j)).symm
  rw [f.next h, produce_cmp, reader_a hs _ f.ops rfl, reader_b hs _ rfl f.ops]
  simp only [htruth]
  rfl

theorem merge_next (h : s.RunsV w true vd s.grp (src.scalars w) ((vs2, s.grp) :: src.groups s.grp))
    (ht : s.my.tagCheck none (VInstr.shapeIn ⟨.merge, vd, vs2, src, w, true⟩ s).tags
      (groupOperand vs2 s.grp s.eb .same true :: src.operands s.grp s.eb .same true) = none) :
    vecArith ⟨.merge, vd, vs2, src, w, true⟩ s = .next (s.vGives [(3, s.groups)] ⟨vd.toNat, s.grp, s.eb, false⟩ s.my.strip.vl.toNat (s.my.getV vs2).tag
      ⟨s.span.map (fun j => (j, if s.bit 0#6 j then s.srcElem src j else s.elem vs2 s.eb j)), [], 0#5, 0#12⟩) := by
  have hs : s.my.noStreams := h.plain
  have f : VInstr.Fits ⟨.merge, vd, vs2, src, w, true⟩ s s.grp _ _ :=
    { integer := rfl, mask := bne_iff_ne.mpr (h.mask rfl), ok := fmtInt_of_le hf, ops := by cases src <;> rfl
      names := names_cons_operands vs2 src s.grp s.eb .same true, dst := ⟨rfl, rfl⟩, rel := allows_same h.dst.1 h.src, tag := ht }
  have hall : s.span.filter (fun j => true || s.bit 0#6 j) = s.span := List.filter_eq_self.mpr fun _ _ => rfl
  rw [f.next h, produce_merge, reader_a hs _ f.ops rfl, reader_b hs _ rfl f.ops, ← hall]
  rfl

end

/-- Settles O25: `compare_next` and `merge_next` for each form; a scalar is reduced to the element's width. -/
theorem vectorCompareMerge : Obligations.VectorCompareMerge := by
  intro s vd vs2 vs1 rs1 w m hf
  have hx (j : Nat) : s.srcElem (.x rs1) j < 2 ^ s.eb := Nat.mod_lt _ (Nat.two_pow_pos _)
  refine ⟨?compares, ?mergeGroup, ?mergeScalar⟩
  case compares =>
    have vv (o : CmpOp) (h : s.RunsV w m vd 1 [] [(vs2, s.grp), (vs1, s.grp)]) (ht : s.my.Spatial [(vs2, s.grp), (vs1, s.grp)])
        (h2 : Apart (vd, 1) (vs2, s.grp)) (h1 : Apart (vd, 1) (vs1, s.grp)) :=
      compare_next hf (src := .v vs1) o h ht (List.forall_mem_cons.mpr ⟨h2, List.forall_mem_singleton.mpr h1⟩) (s.elem_lt vs1 s.eb)
    have vx (o : CmpOp) (h : s.RunsV w m vd 1 [.x rs1 w] [(vs2, s.grp)]) (ht : s.my.Spatial [(vs2, s.grp)]) (h2 : Apart (vd, 1) (vs2, s.grp)) :=
      compare_next hf (src := .x rs1) o h ht (List.forall_mem_singleton.mpr h2) hx
    simp only [List.forall_mem_cons]
    exact ⟨⟨vv .eq, vx .eq⟩, ⟨vv .ne, vx .ne⟩, ⟨vv .lt, vx .lt⟩, ⟨vv .ltu, vx .ltu⟩, ⟨vv .le, vx .le⟩, ⟨vv .leu, vx .leu⟩, List.forall_mem_nil _⟩
  case mergeGroup =>
    intro tag h ht
    exact merge_next hf (src := .v vs1) h (tagCheck_equal (names_cons_operands vs2 (.v vs1) ..) h.plain ht)
  case mergeScalar =>
    exact fun h => merge_next hf (src := .x rs1) h rfl

/-! ## Whole groups: permutes, slides, `viota`, `vcompress`, reductions, mask counts (R240, R241, R244–R247) -/

/-- What an instruction that reads every source before it writes finds. -/
def State.whole (s : State) (m : Bool) (a b : Nat → Nat) : WholeReader :=
  ⟨s.my.strip.vl.toNat, s.my.vbeg.toNat, a, b, fun j => !m || s.bit 0#6 j, s.bit 0#6⟩

theorem packFrom_range' (r : WholeReader) (lo n : Nat) :
    packFrom r (countBelow r.mask lo) (List.range' lo n) = ((List.range' lo n).filter r.mask).map (fun j => (countBelow r.mask j, r.a j)) := by
  induction n generalizing lo with
  | zero => rfl
  | succ n ih =>
    have hstep : countBelow r.mask (lo + 1) = countBelow r.mask lo + if r.mask lo then 1 else 0 := by
      rw [countBelow, List.range_succ, List.filter_append, List.length_append, ← countBelow]
      cases h : r.mask lo <;> simp [h]
    rw [List.range'_succ, packFrom]
    cases h : r.mask lo with
    | true => rw [if_pos rfl, List.filter_cons_of_pos h, List.map_cons, ← ih, hstep, h, if_pos rfl]
    | false =>
      rw [if_neg Bool.false_ne_true, List.filter_cons_of_neg (by simp [h]), ← ih, hstep, h]
      rfl

theorem compressOut_eq (r : WholeReader) : compressOut r = ⟨(r.range.filter r.mask).map (fun j => (countBelow r.mask j, r.a j)), 0#5, 0#12⟩ := by
  rw [compressOut, WholeReader.range, ← List.range'_eq_map_range, packFrom_range']

section
variable {s : State}

/-- A lane barrier that nothing stops writes what its operation makes of the whole groups. -/
theorem VInstr.Fits.next_whole {i : VInstr} {nd : Nat} {gs : List (VReg × Nat)} {o : Operand} {os : List Operand} (f : i.Fits s nd gs (o :: os))
    (h : s.RunsV i.w i.m i.vd nd (i.src.scalars i.w) gs) (hdiv : o.div = 1) {out : WholeReader → WholeOut}
    (hout : ∀ all r lo hi, i.produce (i.capture s.my) all r lo hi = (out r.whole).out) :
    vecArith i s = .next (s.vGives [(3, (s.my.strip.vl.toNat - i.readsFrom (i.capture s.my) + s.myLanes.length - 1) / s.myLanes.length)]
      (i.shapeIn s).dst s.my.strip.vl.toNat ((i.shapeIn s).dtag.pick (s.my.getV i.vs2).tag)
      (out (s.whole i.m (s.my.read s.myLanes o.g) (i.reader (i.capture s.my) (i.shapeIn s) s.my s.myLanes).b)).out) := by
  rw [f.next h, hout, VReader.whole, reader_a h.plain i f.ops hdiv]
  rfl

/-- It completes with these elements written to its group, and the element groups from element 0 on charged (R356). -/
def State.moves (s : State) (vd : VReg) (tag : BitVec 6) (puts : List (Nat × Nat)) : Exec :=
  .next (s.vGives [(3, (s.my.strip.vl.toNat + s.myLanes.length - 1) / s.myLanes.length)] ⟨vd.toNat, s.grp, s.eb, false⟩ s.my.strip.vl.toNat tag
    ⟨puts, [], 0#5, 0#12⟩)

/-- It completes with one result in element 0 (R246, R247). -/
def State.reduces (s : State) (vd : VReg) (r : Nat) : Exec :=
  .next (s.vGives [(3, s.groups)] ⟨vd.toNat, 1, s.eb, false⟩ s.my.strip.vl.toNat 0#6 ⟨[(0, r)], [], 0#5, 0#12⟩)

theorem names_group (r : VReg) (n eb : Nat) (rel : Rel) (data : Bool) : ReadFrom [groupOperand r n eb rel data] [(r, n)] :=
  .cons ⟨rfl, rfl, rfl⟩ .nil

theorem names_mask (r : VReg) (rel : Rel) : ReadFrom [⟨maskAt r, rel, false, 1, true⟩] [(r, 1)] := .cons ⟨rfl, rfl, rfl⟩ .nil

theorem allows_any {o : Operand} (h : o.rel = .any) (d : Group) : ∀ p ∈ [o], p.rel.allows d p.g = true := by
  simp [h, Rel.allows]

variable {vd vs2 vs1 : VReg} {rs1 : XReg} {w m : Bool}

section
variable (hf : s.fmt ≤ 3)
include hf

theorem perm_next (h : s.RunsV w m vd s.grp [] [(vs2, s.grp), (vs1, s.grp)]) (h2 : Apart (vd, s.grp) (vs2, s.grp)) (h1 : Apart (vd, s.grp) (vs1, s.grp)) :
    vecArith ⟨.perm, vd, vs2, .v vs1, w, m⟩ s = s.moves vd (s.my.getV vs2).tag
      ((s.acts m).map (fun j => (j, if s.elem vs1 s.eb j < s.my.strip.vl.toNat then s.elem vs2 s.eb (s.elem vs1 s.eb j) else 0))) := by
  have hn : ReadFrom [groupOperand vs2 s.grp s.eb .disjoint true, groupOperand vs1 s.grp s.eb .disjoint false]
      [(vs2, s.grp), (vs1, s.grp)] := .cons ⟨rfl, rfl, rfl⟩ (names_group ..)
  have f : VInstr.Fits ⟨.perm, vd, vs2, .v vs1, w, m⟩ s s.grp _ _ :=
    { integer := rfl, mask := maskOk_of_ne h.mask, ok := fmtInt_of_le hf, ops := rfl, names := hn, dst := ⟨rfl, rfl⟩
      rel := allows_of_apart hn (List.forall_mem_cons.mpr ⟨h2, List.forall_mem_singleton.mpr h1⟩) rfl rfl, tag := rfl }
  rw [f.next_whole h rfl (out := permOut) fun _ _ _ _ => rfl, reader_b h.plain _ rfl f.ops]
  rfl

theorem slideup_next (h : s.RunsV w m vd s.grp [.x rs1 w] [(vs2, s.grp)]) (h2 : Apart (vd, s.grp) (vs2, s.grp)) :
    vecArith ⟨.slideup, vd, vs2, .x rs1, w, m⟩ s = s.moves vd (s.my.getV vs2).tag
      (((s.acts m).filter ((s.my.getX rs1).toNat ≤ ·)).map (fun j => (j, s.elem vs2 s.eb (j - (s.my.getX rs1).toNat)))) := by
  have hn := names_group vs2 s.grp s.eb .disjoint true
  have f : VInstr.Fits ⟨.slideup, vd, vs2, .x rs1, w, m⟩ s s.grp _ _ :=
    { integer := rfl, mask := maskOk_of_ne h.mask, ok := fmtInt_of_le hf, ops := rfl, names := hn, dst := ⟨rfl, rfl⟩
      rel := allows_of_apart hn (List.forall_mem_singleton.mpr h2) rfl rfl, tag := rfl }
  exact f.next_whole h rfl (out := slideupOut _) fun _ _ _ _ => rfl

theorem slidedn_next (h : s.RunsV w m vd s.grp [.x rs1 w] [(vs2, s.grp)]) (h2 : Apart (vd, s.grp) (vs2, s.grp)) :
    vecArith ⟨.slidedn, vd, vs2, .x rs1, w, m⟩ s = s.moves vd (s.my.getV vs2).tag ((s.acts m).map (fun j =>
      (j, if j + (s.my.getX rs1).toNat < s.my.strip.vl.toNat then s.elem vs2 s.eb (j + (s.my.getX rs1).toNat) else 0))) := by
  have hn := names_group vs2 s.grp s.eb .disjoint true
  have f : VInstr.Fits ⟨.slidedn, vd, vs2, .x rs1, w, m⟩ s s.grp _ _ :=
    { integer := rfl, mask := maskOk_of_ne h.mask, ok := fmtInt_of_le hf, ops := rfl, names := hn, dst := ⟨rfl, rfl⟩
      rel := allows_of_apart hn (List.forall_mem_singleton.mpr h2) rfl rfl, tag := rfl }
  exact f.next_whole h rfl (out := slidednOut _) fun _ _ _ _ => rfl

theorem iota_next (h : s.RunsV w m vd s.grp [] [(vs2, 1)]) (h2 : Apart (vd, s.grp) (vs2, 1)) :
    vecArith ⟨.iota, vd, vs2, .none, w, m⟩ s = s.moves vd 0#6
      ((s.acts m).map (fun j => (j, countBelow (fun i => s.bit vs2 i && (!m || s.bit 0#6 i)) j % 2 ^ s.eb))) := by
  have hn := names_mask vs2 .disjoint
  have f : VInstr.Fits ⟨.iota, vd, vs2, .none, w, m⟩ s s.grp _ _ :=
    { integer := rfl, mask := maskOk_of_ne h.mask, ok := fmtInt_of_le hf, ops := rfl, names := hn, dst := ⟨rfl, rfl⟩
      rel := allows_of_apart hn (List.forall_mem_singleton.mpr h2) rfl rfl, tag := rfl }
  exact f.next_whole h rfl (out := iotaOut _ _) fun _ _ _ _ => rfl

theorem compress_next (h : s.RunsV w true vd s.grp [] [(vs2, s.grp)]) (h2 : Apart (vd, s.grp) (vs2, s.grp)) :
    vecArith ⟨.compress, vd, vs2, .none, w, true⟩ s = s.moves vd (s.my.getV vs2).tag
      ((s.span.filter (s.bit 0#6)).map (fun j => (countBelow (s.bit 0#6) j, s.elem vs2 s.eb j))) := by
  have hn := names_group vs2 s.grp s.eb .disjoint true
  have f : VInstr.Fits ⟨.compress, vd, vs2, .none, w, true⟩ s s.grp _ _ :=
    { integer := rfl, mask := bne_iff_ne.mpr (h.mask rfl), ok := fmtInt_of_le hf, ops := rfl, names := hn, dst := ⟨rfl, rfl⟩
      rel := allows_of_apart hn (List.forall_mem_singleton.mpr h2) rfl rfl, tag := rfl }
  rw [f.next_whole h rfl (out := compressOut) fun _ _ _ _ => rfl, compressOut_eq]
  rfl

theorem red_next (o : RedOp) (h : s.RunsV w m vd 1 [] [(vs2, s.grp)]) (ht : s.my.Spatial [(vs2, s.grp)]) :
    vecArith ⟨.red o, vd, vs2, .none, w, m⟩ s =
      s.reduces vd (((s.acts m).map (s.elem vs2 s.eb)).foldl (fun t x => (o.op.apply s.eb t x).bits) (o.empty s.eb)) := by
  have hn := names_group vs2 s.grp s.eb .any true
  have f : VInstr.Fits ⟨.red o, vd, vs2, .none, w, m⟩ s 1 _ _ :=
    { integer := rfl, mask := maskOk_of_ne h.mask, ok := fmtInt_of_le hf, ops := rfl, names := hn, dst := ⟨rfl, rfl⟩
      rel := allows_any rfl _, tag := tagCheck_spatial hn h.plain ht }
  rw [List.foldl_map]
  exact f.next_whole h rfl (out := redOut o _) fun _ _ _ _ => rfl

end

section
variable (hf : (s.fmt == 2 || s.fmt == 3) = true) (h : s.RunsV w m vd 1 [] [(vs2, 1)])
include hf h

theorem mpopc_next : vecArith ⟨.mpopc, vd, vs2, .none, w, m⟩ s = s.reduces vd ((s.acts m).filter (s.bit vs2)).length := by
  have f : VInstr.Fits ⟨.mpopc, vd, vs2, .none, w, m⟩ s 1 _ _ :=
    { integer := rfl, mask := maskOk_of_ne h.mask, ok := hf, ops := rfl, names := names_mask vs2 .any, dst := ⟨rfl, rfl⟩
      rel := allows_any rfl _, tag := rfl }
  exact f.next_whole h rfl (out := mpopcOut) fun _ _ _ _ => rfl

theorem mfirst_next : vecArith ⟨.mfirst, vd, vs2, .none, w, m⟩ s = s.reduces vd (((s.acts m).find? (s.bit vs2)).getD (2 ^ s.eb - 1)) := by
  have f : VInstr.Fits ⟨.mfirst, vd, vs2, .none, w, m⟩ s 1 _ _ :=
    { integer := rfl, mask := maskOk_of_ne h.mask, ok := hf, ops := rfl, names := names_mask vs2 .any, dst := ⟨rfl, rfl⟩
      rel := allows_any rfl _, tag := rfl }
  exact f.next_whole h rfl (out := mfirstOut _) fun _ _ _ _ => rfl

end

end

/-! ## Reductions as folds of numbers (R246) -/

/-- A signed number as a `w`-bit element. -/
def wrapElt (w : Nat) (n : Int) : Nat := (n % 2 ^ w).toNat

theorem wrapElt_signedElt {w a : Nat} (ha : a < 2 ^ w) : wrapElt w (signedElt w a) = a := by
  have ha' : (a : Int) < 2 ^ w := by exact_mod_cast ha
  have hmod : signedElt w a % 2 ^ w = a := by
    unfold signedElt
    split
    · exact Int.emod_eq_of_lt (Int.natCast_nonneg a) ha'
    · rw [Int.sub_emod_right, Int.emod_eq_of_lt (Int.natCast_nonneg a) ha']
  rw [wrapElt, hmod, Int.toNat_natCast]

theorem signedElt_greatest {w : Nat} : signedElt w (2 ^ (w - 1) - 1) = 2 ^ (w - 1) - 1 := by
  have hpos := Nat.two_pow_pos (w - 1)
  rw [signedElt, if_pos (by omega), Int.natCast_sub (by omega), Int.natCast_pow]
  rfl

theorem signedElt_least {w : Nat} (hw : 0 < w) : signedElt w (2 ^ (w - 1)) = -(2 ^ (w - 1)) := by
  have h2 : (2 : Int) ^ (w - 1) * 2 = 2 ^ w := by exact_mod_cast Nat.two_pow_pred_mul_two hw
  rw [signedElt, if_neg (Nat.lt_irrefl _), Int.natCast_pow, Int.cast_ofNat_Int]
  omega

section
variable {w : Nat}

theorem apply_minu {t x : Nat} (ht : t < 2 ^ w) (_ : x < 2 ^ w) : (IntOp.minu.apply w t x).bits = min t x ∧ min t x < 2 ^ w := by
  refine ⟨?_, Nat.lt_of_le_of_lt (Nat.min_le_left t x) ht⟩
  show (if t < x then t else x) = min t x
  split <;> omega

theorem apply_maxu {t x : Nat} (ht : t < 2 ^ w) (hx : x < 2 ^ w) : (IntOp.maxu.apply w t x).bits = max t x ∧ max t x < 2 ^ w := by
  refine ⟨?_, Nat.max_lt.mpr ⟨ht, hx⟩⟩
  show (if t < x then x else t) = max t x
  split <;> omega

theorem apply_and {t x : Nat} (ht : t < 2 ^ w) (hx : x < 2 ^ w) : (IntOp.and.apply w t x).bits = t &&& x ∧ t &&& x < 2 ^ w :=
  ⟨by simp [IntOp.apply, plain, Nat.mod_eq_of_lt, ht, hx], Nat.and_lt_two_pow t hx⟩

theorem apply_or {t x : Nat} (ht : t < 2 ^ w) (hx : x < 2 ^ w) : (IntOp.or.apply w t x).bits = t ||| x ∧ t ||| x < 2 ^ w :=
  ⟨by simp [IntOp.apply, plain, Nat.mod_eq_of_lt, ht, hx], Nat.or_lt_two_pow ht hx⟩

theorem apply_xor {t x : Nat} (ht : t < 2 ^ w) (hx : x < 2 ^ w) : (IntOp.xor.apply w t x).bits = t ^^^ x ∧ t ^^^ x < 2 ^ w :=
  ⟨by simp [IntOp.apply, plain, Nat.mod_eq_of_lt, ht, hx], Nat.xor_lt_two_pow ht hx⟩

theorem apply_min {t x : Nat} (hw : 0 < w) (ht : t < 2 ^ w) (hx : x < 2 ^ w) :
    (IntOp.min.apply w t x).bits < 2 ^ w ∧ signedElt w (IntOp.min.apply w t x).bits = min (signedElt w t) (signedElt w x) := by
  have hbits : (IntOp.min.apply w t x).bits = if signedElt w t < signedElt w x then t else x := by
    simp [IntOp.apply, plain, BitVec.slt, toInt_ofNat_elt hw, ht, hx]
  rw [hbits]
  split
  case isTrue h => exact ⟨ht, (Int.min_eq_left (Int.le_of_lt h)).symm⟩
  case isFalse h => exact ⟨hx, (Int.min_eq_right (Int.not_lt.mp h)).symm⟩

theorem apply_max {t x : Nat} (hw : 0 < w) (ht : t < 2 ^ w) (hx : x < 2 ^ w) :
    (IntOp.max.apply w t x).bits < 2 ^ w ∧ signedElt w (IntOp.max.apply w t x).bits = max (signedElt w t) (signedElt w x) := by
  have hbits : (IntOp.max.apply w t x).bits = if signedElt w t < signedElt w x then x else t := by
    simp [IntOp.apply, plain, BitVec.slt, toInt_ofNat_elt hw, ht, hx]
  rw [hbits]
  split
  case isTrue h => exact ⟨hx, (Int.max_eq_right (Int.le_of_lt h)).symm⟩
  case isFalse h => exact ⟨ht, (Int.max_eq_left (Int.not_lt.mp h)).symm⟩

variable {xs : List Nat} (hxs : ∀ x ∈ xs, x < 2 ^ w)

theorem foldl_add : xs.foldl (fun t x => (IntOp.add.apply w t x).bits) 0 = xs.sum % 2 ^ w := by
  rw [List.sum_eq_foldl]
  refine List.foldl_rel (r := fun t u => t = u % 2 ^ w) (Nat.zero_mod _).symm fun x _ t u h => ?_
  simp [IntOp.apply, plain, h]

include hxs

/-- An operation that is `f` on `w`-bit numbers reduces a list as `f` does. -/
theorem foldl_unsigned {o : IntOp} {f : Nat → Nat → Nat} {e : Nat} (he : e < 2 ^ w)
    (hf : ∀ t x, t < 2 ^ w → x < 2 ^ w → (o.apply w t x).bits = f t x ∧ f t x < 2 ^ w) : xs.foldl (fun t x => (o.apply w t x).bits) e = xs.foldl f e := by
  refine (List.foldl_rel (r := fun t u => t = u ∧ t < 2 ^ w) ⟨rfl, he⟩ ?_).1
  rintro x hx t _ ⟨rfl, ht⟩
  obtain ⟨heq, hlt⟩ := hf t x ht (hxs x hx)
  exact ⟨heq, heq ▸ hlt⟩

/-- An operation that is `f` on signed elements reduces them as `f` does. -/
theorem foldl_signed {o : IntOp} {f : Int → Int → Int} {e : Nat} (he : e < 2 ^ w)
    (hf : ∀ t x, t < 2 ^ w → x < 2 ^ w → (o.apply w t x).bits < 2 ^ w ∧ signedElt w (o.apply w t x).bits = f (signedElt w t) (signedElt w x)) :
    xs.foldl (fun t x => (o.apply w t x).bits) e = wrapElt w ((xs.map (signedElt w)).foldl f (signedElt w e)) := by
  rw [List.foldl_map]
  obtain ⟨hlt, heq⟩ := List.foldl_rel (l := xs) (f := fun t x => (o.apply w t x).bits) (g := fun u x => f u (signedElt w x))
    (r := fun t u => t < 2 ^ w ∧ signedElt w t = u) ⟨he, rfl⟩ (by
      rintro x hx t _ ⟨ht, rfl⟩
      exact hf t x ht (hxs x hx))
  rw [← heq, wrapElt_signedElt hlt]

end

/-- What a reduction makes of `w`-bit elements. -/
def redValue (o : RedOp) (w : Nat) (xs : List Nat) : Nat :=
  match o with
  | .sum => xs.sum % 2 ^ w
  | .min => wrapElt w ((xs.map (signedElt w)).foldl min (2 ^ (w - 1) - 1))
  | .minu => xs.foldl min (2 ^ w - 1)
  | .max => wrapElt w ((xs.map (signedElt w)).foldl max (-(2 ^ (w - 1))))
  | .maxu => xs.foldl max 0
  | .and => xs.foldl (· &&& ·) (2 ^ w - 1)
  | .or => xs.foldl (· ||| ·) 0
  | .xor => xs.foldl (· ^^^ ·) 0

theorem foldl_redOp (o : RedOp) {w : Nat} (hw : 0 < w) {xs : List Nat} (hxs : ∀ x ∈ xs, x < 2 ^ w) :
    xs.foldl (fun t x => (o.op.apply w t x).bits) (o.empty w) = redValue o w xs := by
  have hpos := Nat.two_pow_pos w
  have hhalf := Nat.two_pow_pred_mul_two hw
  have hpos' := Nat.two_pow_pos (w - 1)
  cases o with
  | sum => exact foldl_add
  | min =>
    rw [redValue, ← signedElt_greatest]
    exact foldl_signed hxs (show 2 ^ (w - 1) - 1 < 2 ^ w by omega) fun t x => apply_min hw
  | max =>
    rw [redValue, ← signedElt_least hw]
    exact foldl_signed hxs (show 2 ^ (w - 1) < 2 ^ w by omega) fun t x => apply_max hw
  | minu => exact foldl_unsigned hxs (show 2 ^ w - 1 < 2 ^ w by omega) fun t x => apply_minu
  | maxu => exact foldl_unsigned hxs hpos fun t x => apply_maxu
  | and => exact foldl_unsigned hxs (show 2 ^ w - 1 < 2 ^ w by omega) fun t x => apply_and
  | or => exact foldl_unsigned hxs hpos fun t x => apply_or
  | xor => exact foldl_unsigned hxs hpos fun t x => apply_xor

/-- Settles O27: one rule for each instruction above, and the reductions by `foldl_redOp`. -/
theorem vectorPermuteReduce : Obligations.VectorPermuteReduce := by
  intro s vd vs2 vs1 rs1 w m hf
  have reduced (o : RedOp) (h : s.RunsV w m vd 1 [] [(vs2, s.grp)]) (ht : s.my.Spatial [(vs2, s.grp)]) :
      vecArith ⟨.red o, vd, vs2, .none, w, m⟩ s = s.reduces vd (redValue o s.eb ((s.acts m).map (s.elem vs2 s.eb))) := by
    rw [red_next hf o h ht, foldl_redOp o (w := s.eb) (formatBits_pos hf)]
    exact List.forall_mem_map.mpr fun j _ => s.elem_lt vs2 s.eb j
  have counting (h : 2 ≤ s.fmt) : (s.fmt == 2 || s.fmt == 3) = true := by
    rw [Bool.or_eq_true, beq_iff_eq, beq_iff_eq]
    omega
  exact ⟨perm_next hf, slideup_next hf, slidedn_next hf, iota_next hf, compress_next hf, reduced .sum, reduced .min, reduced .minu, reduced .max,
    reduced .maxu, reduced .and, reduced .or, reduced .xor, fun h2 h => mpopc_next (counting h2) h, fun h2 h => mfirst_next (counting h2) h⟩

end Sys2Proof.Machine

/-! SUPPORT and PROOFS. Floating-point vector instructions on V (O28, O29): what every element-wise one keeps to, what each leaves, and the
operations of one element as the statements put them. -/

namespace Sys2Proof.Machine
open Sys2Proof

/-! ## What the element-wise instructions have in common (R226, R248–R253) -/

/-- The element-wise instructions of R255–R259, R261, R270 and R271. -/
def VInstr.floating (i : VInstr) : Bool :=
  match i.op, i.src with
  | .fbin _, _ | .fma _, _ | .fcmp _, _ | .fmerge, _ | .fwmacc, _ | .fclass, .none | .fabs, .none | .fneg, .none => true
  | _, _ => false

/-- Must the destination be disjoint from the groups of a and b (R252)? -/
def VOp.apart : VOp → Bool
  | .fcmp _ | .fwmacc => true
  | _ => false

/-- How a destination may stand to the groups of a and b (R252). -/
def VOp.floatRel (o : VOp) : Rel :=
  match o.apart with
  | true => .disjoint
  | false => .same

/-- Does the operation read vd as its addend (R257, R261)? -/
def VOp.adds : VOp → Bool
  | .fma _ | .fwmacc => true
  | _ => false

/-- Element `j` of the first source; a scalar is one value for every element, for the sign forms its sign (R250, R256). -/
def VInstr.srcElem (i : VInstr) (s : State) (j : Nat) : Nat :=
  match i.src with
  | .v r => s.elem r s.eb j
  | _ => i.scalarElt (i.capture s.my)

/-- The operands of a and b. -/
def VInstr.sourceOps (i : VInstr) (s : State) : List Operand :=
  groupOperand i.vs2 s.grp s.eb i.op.floatRel true :: i.src.operands s.grp s.eb i.op.floatRel true

/-- The groups of a and b. -/
def VInstr.sourceGroups (i : VInstr) (s : State) : List (VReg × Nat) := (i.vs2, s.grp) :: i.src.groups s.grp

/-- The addend's operand, at the destination. -/
def VInstr.addendOps (i : VInstr) (s : State) : List Operand :=
  match i.op.adds with
  | true => [⟨(i.shapeIn s).dst, .any, true, 1, true⟩]
  | false => []

/-- The addend's group. -/
def VInstr.addendGroups (i : VInstr) (s : State) : List (VReg × Nat) :=
  match i.op.adds with
  | true => [(i.vd, (i.shapeIn s).dst.n)]
  | false => []

/-- What an element-wise operation reads, from the registers in force. -/
def VInstr.readerIn (i : VInstr) (s : State) : VReader :=
  { i.reader (i.capture s.my) (i.shapeIn s) s.my s.myLanes with a := s.elem i.vs2 s.eb, b := i.srcElem s }

/-- What every element-wise operation keeps to: no transform tag, no elements in blocks, no headers, one result for each of its elements. -/
structure VInstr.Elementwise (i : VInstr) (s : State) : Prop where
  purl : ∀ k c g, i.purlTag k c g = none
  retag : i.op ≠ .retag
  tagclr : i.op ≠ .tagclr
  quant : i.op ≠ .quant
  dequant : i.op ≠ .dequant
  block : (i.shapeIn s).block = 1
  dst : (i.shapeIn s).dst.r = i.vd.toNat
  ops : (i.shapeIn s).ops = i.sourceOps s ++ i.addendOps s ++ maskOps i.m
  outTag : ∀ sh, i.outTag (i.capture s.my) sh s.my = sh.dtag.pick (s.my.tagOf i.vs2.toNat)
  dstCount : i.dstCount (i.capture s.my) (i.shapeIn s) = s.my.strip.vl.toNat
  charge : ∀ l lo hi, i.chargeOf (i.capture s.my) l lo hi =
    [(if s.fmt == 7 then 5 else if fmtInt s.fmt then 3 else 4, (hi - min lo s.my.vbeg.toNat + l - 1) / l)]
  produce : ∀ all r lo hi, i.produce (i.capture s.my) all r lo hi =
    elementsOut (i.elt (i.capture s.my) r) (((List.range (hi - lo)).map (lo + ·)).filter (fun j => all || r.active j))

theorem VInstr.elementwise_of_floating (s : State) : ∀ i : VInstr, i.floating = true → i.Elementwise s
  | ⟨.fbin _, _, _, src, _, _⟩, _ | ⟨.fma _, _, _, src, _, _⟩, _ | ⟨.fcmp _, _, _, src, _, _⟩, _ | ⟨.fmerge, _, _, src, _, _⟩, _
  | ⟨.fwmacc, _, _, src, _, _⟩, _ | ⟨.fclass, _, _, src@.none, _, _⟩, _ | ⟨.fabs, _, _, src@.none, _, _⟩, _ | ⟨.fneg, _, _, src@.none, _, _⟩, _ =>
    { purl _ _ _ := rfl, retag := nofun, tagclr := nofun, quant := nofun, dequant := nofun, block := rfl, dst := rfl
      ops := by cases src <;> rfl
      outTag _ := rfl, dstCount := rfl, charge _ _ _ := rfl, produce _ _ _ _ := rfl }

/-! ## One instruction that nothing stops -/

/-- The instruction's format, mask bit, rounding mode, overlaps and tags are allowed (R231, R248, R251, R252). -/
structure VInstr.Allowed (i : VInstr) (s : State) : Prop where
  floating : i.floating = true
  mask : i.maskOk = true
  ok : (i.shapeIn s).ok = true
  mode : i.usesFrm = true → (rmOf s.my.frm).isSome = true
  rel : ∀ o ∈ i.sourceOps s, o.rel.allows (i.shapeIn s).dst o.g = true
  tag : s.my.tagCheck none (i.shapeIn s).tags (i.sourceOps s ++ i.addendOps s) = none

/-- V executes the instruction from its start: its scalar, the groups of a and b and its addend's are full and in place. -/
abbrev VInstr.Runs (i : VInstr) (s : State) : Prop :=
  s.RunsV i.w i.m i.vd (i.shapeIn s).dst.n (i.src.scalars i.w) (i.sourceGroups s ++ i.addendGroups s)

theorem ReadFrom.append {os os' : List Operand} {gs gs' : List (VReg × Nat)} (h : ReadFrom os gs) (h' : ReadFrom os' gs') :
    ReadFrom (os ++ os') (gs ++ gs') := by
  induction h with
  | nil => exact h'
  | cons hn _ ih => exact .cons hn ih

section
variable {i : VInstr} {s : State}

theorem VInstr.mem_addendOps {o : Operand} (ho : o ∈ i.addendOps s) : o = ⟨(i.shapeIn s).dst, .any, true, 1, true⟩ := by
  unfold VInstr.addendOps at ho
  split at ho
  · exact List.mem_singleton.mp ho
  · cases ho

theorem VInstr.Elementwise.names (e : i.Elementwise s) : ReadFrom (i.sourceOps s ++ i.addendOps s) (i.sourceGroups s ++ i.addendGroups s) := by
  refine (names_cons_operands i.vs2 i.src s.grp s.eb i.op.floatRel true).append ?_
  unfold VInstr.addendOps VInstr.addendGroups
  cases i.op.adds with
  | true => exact .cons ⟨e.dst, rfl, rfl⟩ .nil
  | false => exact .nil

theorem VInstr.Elementwise.sources (e : i.Elementwise s) (hs : s.my.noStreams) : i.sources (i.shapeIn s) s.my =
    i.src.scalars i.w ++ (i.sourceGroups s ++ i.addendGroups s).map (fun g => .v g.1 g.2 i.w) ++ if i.m then [.v 0#6 1 i.w] else [] := by
  rw [VInstr.sources_eq, e.ops, filter_read_of_names e.names, List.map_append, groupSrc_of_names e.names hs, ← List.append_assoc]
  congr 1
  cases i.m
  · rfl
  · simp [maskOps, maskOperand, maskAt, Ctx.groupSrc, stream_none hs]

theorem VInstr.Allowed.checkIssue (f : i.Allowed s) (h : i.Runs s) : i.checkIssue (i.capture s.my) s.myLanes.length s = none := by
  have e := VInstr.elementwise_of_floating s i f.floating
  have hdst : (i.shapeIn s).dst.aligned = true := by simp [Group.aligned, e.dst, h.dst]
  have hops : ∀ o ∈ (i.shapeIn s).ops, o.g.aligned = true ∧ o.rel.allows (i.shapeIn s).dst o.g = true := by
    intro o ho
    rw [e.ops] at ho
    rcases List.mem_append.mp ho with ho | ho
    · refine ⟨aligned_of_names e.names h.src ho, ?_⟩
      rcases List.mem_append.mp ho with ho | ho
      · exact f.rel o ho
      · obtain rfl := VInstr.mem_addendOps ho
        rfl
    · exact mem_maskOps ho ▸ ⟨rfl, rfl⟩
  have hal : (i.shapeIn s).ops.any (fun o => !o.g.aligned) = false := List.any_eq_false.mpr fun o ho => by simp [(hops o ho).1]
  have hrel : (i.shapeIn s).ops.any (fun o => o.rel != .any && !o.rel.allows (i.shapeIn s).dst o.g) = false :=
    List.any_eq_false.mpr fun o ho => by simp [(hops o ho).2]
  have hquant : (i.op == .quant) = false := beq_eq_false_iff_ne.mpr e.quant
  have hmode : (i.usesFrm && (rmOf (i.capture s.my).frm).isNone) = false := by
    cases hu : i.usesFrm with
    | false => rfl
    | true => exact Option.isNone_eq_false_iff.mpr (f.mode hu)
  unfold VInstr.checkIssue
  simp only [f.mask, f.ok, hdst, hal, hrel, hquant, hmode, Bool.not_true, Bool.or_self, Bool.false_or, Bool.false_and,
    Bool.false_eq_true, if_false]
  refine if_neg ?_
  split
  next h _ => exact absurd h e.quant
  next h _ => exact absurd h e.dequant
  next => exact Bool.false_ne_true

theorem VInstr.Elementwise.reader_eq (e : i.Elementwise s) (hs : s.my.noStreams) :
    i.reader (i.capture s.my) (i.shapeIn s) s.my s.myLanes = i.readerIn s := by
  have ha : (i.reader (i.capture s.my) (i.shapeIn s) s.my s.myLanes).a = s.elem i.vs2 s.eb := reader_a hs i e.ops rfl
  have hb : (i.reader (i.capture s.my) (i.shapeIn s) s.my s.myLanes).b = i.srcElem s := by
    funext j
    obtain ⟨op, vd, vs2, src, w, m⟩ := i
    cases src with
    | v r =>
      simp only [VInstr.reader, e.ops, VInstr.sourceOps, VSrc.operands, List.cons_append]
      exact (read_fetch hs ..).trans (by rw [show (groupOperand r s.grp s.eb op.floatRel true).div = 1 from rfl, Nat.div_one]; rfl)
    | none | x r | f r => rfl
  unfold VInstr.readerIn
  rw [← ha, ← hb]

/-- The elements that the instruction writes (R230, R259). -/
def VInstr.writes (i : VInstr) (s : State) : List Nat := s.span.filter (fun j => (i.shapeIn s).allActive || (!i.m || s.bit 0#6 j))

/-- Entry of the weight table that an element group of floating-point elements charges (R356). -/
def State.floatEntry (s : State) : Nat := if s.fmt = 7 then 5 else 4

/-- An element-wise instruction that nothing stops writes its operation's results from its captured start to `vl` − 1. -/
theorem VInstr.Allowed.next (f : i.Allowed s) (hf : 4 ≤ s.fmt) (h : i.Runs s) :
    vecArith i s = .next (s.vGives [(s.floatEntry, s.groups)] (i.shapeIn s).dst s.my.strip.vl.toNat ((i.shapeIn s).dtag.pick (s.my.getV i.vs2).tag)
      (elementsOut (i.elt (i.capture s.my) (i.readerIn s)) (i.writes s))) := by
  have e := VInstr.elementwise_of_floating s i f.floating
  have hs : s.my.noStreams := h.plain
  have htags : s.my.tagCheck none (i.shapeIn s).tags ((i.shapeIn s).ops.filter (·.read)) = none := by
    rw [e.ops, filter_read_of_names e.names, tagCheck_mask, f.tag]
  have hside : ∀ all r lo hi, (i.produce (i.capture s.my) all r lo hi).side = [] := fun all r lo hi => by rw [e.produce]; rfl
  have hint : fmtInt s.fmt = false := decide_eq_false (by omega)
  rw [vecArith_next i s h.onV h.start h.free h.whole (e.sources hs ▸ h.issues) hs h.sound (f.checkIssue h) e.block htags (e.purl _ _ _)
    e.retag e.tagclr h.some (hside ..)]
  simp only [e.dstCount, e.charge, e.outTag, e.produce, e.reader_eq hs, hint, Nat.min_self, tagOf_plain hs, BitVec.ofNat_toNat, BitVec.setWidth_eq,
    beq_iff_eq, Bool.false_eq_true, if_false]
  rfl

end

/-! ## What each instruction must meet (R248, R251, R252) -/

section
variable {s : State} {i : VInstr}

theorem fmtFloat_of_between (hf : 4 ≤ s.fmt) (hf' : s.fmt ≤ 7) : fmtFloat s.fmt = true := by simp [fmtFloat, hf, hf']

theorem fmtComplex_of_le {f : Nat} (hf : f ≤ 7) : fmtComplex f = false := by
  simp only [fmtComplex, Bool.or_eq_false_iff, beq_eq_false_iff_ne]
  omega

/-- What an instruction on spatial data of FP16, BF16, FP32 or FP64 asks: the mask rule of R231, its format, and domain 00. -/
structure VInstr.OnReals (i : VInstr) (s : State) : Prop where
  mask : i.maskOk = !(i.m && i.vd == 0#6)
  ok : (i.op = .fwmacc → s.fmt ≤ 6 ∧ s.grp ≤ 4) → (i.shapeIn s).ok = true
  tags : (i.shapeIn s).tags = .spatial
  dst : i.op.apart = false → (i.shapeIn s).dst = ⟨i.vd.toNat, s.grp, s.eb, false⟩

theorem VInstr.onReals_of_floating (hf : 4 ≤ s.fmt) (hf' : s.fmt ≤ 7) : ∀ i : VInstr, i.floating = true → i.op ≠ .fmerge → i.OnReals s
  | ⟨.fbin _, _, _, _, _, _⟩, _, _ =>
    { mask := rfl, ok _ := Bool.or_eq_true_iff.mpr (.inl (fmtFloat_of_between hf hf'))
      tags := if_neg (ne_true_of_eq_false (fmtComplex_of_le hf')), dst _ := rfl }
  | ⟨.fma _, _, _, _, _, _⟩, _, _ | ⟨.fclass, _, _, .none, _, _⟩, _, _ | ⟨.fabs, _, _, .none, _, _⟩, _, _ | ⟨.fneg, _, _, .none, _, _⟩, _, _ =>
    { mask := rfl, ok _ := fmtFloat_of_between hf hf', tags := rfl, dst _ := rfl }
  | ⟨.fcmp _, _, _, _, _, _⟩, _, _ => { mask := rfl, ok _ := fmtFloat_of_between hf hf', tags := rfl, dst := nofun }
  | ⟨.fwmacc, _, _, _, _, _⟩, _, _ =>
    { mask := rfl, tags := rfl, dst := nofun
      ok h := by
        obtain ⟨h6, hg⟩ := h rfl
        show (decide (4 ≤ s.fmt) && decide (s.fmt ≤ 6) && decide (s.grp ≤ 4)) = true
        simp [hf, h6, hg] }
  | ⟨.fmerge, _, _, _, _, _⟩, _, h => absurd rfl h

theorem VInstr.Runs.sources (h : i.Runs s) : ∀ g ∈ i.sourceGroups s, g.1.toNat % g.2 = 0 ∧ g.1.toNat + g.2 ≤ 64 :=
  fun g hg => h.src g (List.mem_append_left _ hg)

/-- It runs on spatial data (R251). -/
abbrev VInstr.RunsSpatial (i : VInstr) (s : State) : Prop := i.Runs s ∧ s.my.Spatial (i.sourceGroups s ++ i.addendGroups s)

/-- On spatial data of FP16, BF16, FP32 or FP64 every instruction but `vfmerge` asks for the same things. -/
theorem VInstr.allowed_of_spatial (he : i.floating = true) (hop : i.op ≠ .fmerge) (hf : 4 ≤ s.fmt) (hf' : s.fmt ≤ 7) (h : i.RunsSpatial s)
    (hm : i.usesFrm = true → (rmOf s.my.frm).isSome = true) (ha : i.op.apart = true → ∀ g ∈ i.sourceGroups s, Apart (i.vd, (i.shapeIn s).dst.n) g)
    (hw : i.op = .fwmacc → s.fmt ≤ 6 ∧ s.grp ≤ 4) : i.Allowed s := by
  obtain ⟨h, ht⟩ := h
  have e := VInstr.elementwise_of_floating s i he
  have r := VInstr.onReals_of_floating hf hf' i he hop
  refine ⟨he, r.mask.trans (maskOk_of_ne h.mask), r.ok hw, hm, ?rel, r.tags ▸ tagCheck_spatial e.names h.plain ht⟩
  cases hr : i.op.apart with
  | false =>
    have hd := r.dst hr
    have hdst := h.dst.1
    rw [hd] at hdst ⊢
    rw [VInstr.sourceOps, VOp.floatRel, hr]
    exact allows_same hdst h.sources
  | true => exact allows_of_apart (names_cons_operands i.vs2 i.src s.grp s.eb i.op.floatRel true) (ha hr) e.dst rfl

end

/-! ## What each instruction leaves (R255–R259, R261, R270, R271) -/

/-- The rounding mode that `frm` selects (R85). -/
def State.mode (s : State) : Rm := (rmOf s.my.frm).getD .rne

theorem State.mode_eq {s : State} {rm : Rm} (h : rmOf s.my.frm = some rm) : s.mode = rm := by rw [State.mode, h, Option.getD_some]

theorem elementsOut_eq (f : Nat → Rounded) (js : List Nat) : elementsOut f js =
    ⟨js.map (fun j => (j, (f j).bits)), [], js.foldl (fun a j => a ||| (f j).flags) 0#5, js.foldl (fun a j => a ||| (f j).q) 0#12⟩ := by
  simp only [elementsOut, List.map_map, List.foldl_map]
  rfl

theorem elementsOut_of_q (bits : Nat → Nat) (flags : Nat → FFlags) (js : List Nat) : elementsOut (fun j => ⟨bits j, flags j, 0#12⟩) js =
    ⟨js.map (fun j => (j, bits j)), [], js.foldl (fun a j => a ||| flags j) 0#5, 0#12⟩ := by
  rw [elementsOut_eq, foldl_or_zero]

/-- It completes with one result in each active element of its group, which keeps the tag of vs2; their flags and sticky bits accrue. -/
def State.eachGives (s : State) (vd vs2 : VReg) (m : Bool) (eb n : Nat) (f : Nat → Rounded) : Exec :=
  .next (s.vGives [(s.floatEntry, s.groups)] ⟨vd.toNat, n, eb, false⟩ s.my.strip.vl.toNat (s.my.getV vs2).tag (elementsOut f (s.acts m)))

/-- An instruction that gives each active element one result, its outcome spelled out. -/
theorem eachGives_of {s : State} {x : Exec} {vd vs2 : VReg} {m : Bool} {eb n : Nat} {f : Nat → Rounded} (h : x = s.eachGives vd vs2 m eb n f) :
    x = .next (s.vGives [(if s.fmt = 7 then 5 else 4, s.groups)] ⟨vd.toNat, n, eb, false⟩ s.my.strip.vl.toNat (s.my.getV vs2).tag
      ⟨(s.acts m).map (fun j => (j, (f j).bits)), [], (s.acts m).foldl (fun a j => a ||| (f j).flags) 0#5,
        (s.acts m).foldl (fun a j => a ||| (f j).q) 0#12⟩) := by
  rw [h, State.eachGives, elementsOut_eq]
  rfl

/-- An instruction that gives each active element a copy of bits, with no flag. -/
theorem plainGives_of {s : State} {x : Exec} {vd vs2 : VReg} {m : Bool} {eb n : Nat} {f : Nat → Nat}
    (h : x = s.eachGives vd vs2 m eb n (fun j => plain (f j))) : x = .next (s.vGives [(s.floatEntry, s.groups)] ⟨vd.toNat, n, eb, false⟩
      s.my.strip.vl.toNat (s.my.getV vs2).tag ⟨(s.acts m).map (fun j => (j, f j)), [], 0#5, 0#12⟩) := by
  rw [h, State.eachGives, elementsOut_plain]

theorem FBin.apply_real {f : Nat} (hf : f ≤ 7) (o : FBin) (rm : Rm) (x y : Nat) : o.apply f rm x y = o.real (ffmt f) rm x y :=
  if_neg (ne_true_of_eq_false (fmtComplex_of_le hf))

theorem fwmaccElt_eq (f : Nat) (rm : Rm) (x y z : Nat) : fwmaccElt f rm x y z = (if f = 6 then fp64 else fp32).deliver rm .ieee
    (fmaExact rm ((ffmt f).value x) ((ffmt f).value y) ((if f = 6 then fp64 else fp32).value z)) := by
  simp only [fwmaccElt, beq_iff_eq]

section
variable {s : State} {vd vs2 : VReg} {src : VSrc} {w m : Bool} (hf : 4 ≤ s.fmt) (hf' : s.fmt ≤ 7)
include hf hf'

theorem fbin_next (o : FBin) (h : VInstr.RunsSpatial ⟨.fbin o, vd, vs2, src, w, m⟩ s)
    (hm : VInstr.usesFrm ⟨.fbin o, vd, vs2, src, w, m⟩ = true → (rmOf s.my.frm).isSome = true) :
    vecArith ⟨.fbin o, vd, vs2, src, w, m⟩ s = s.eachGives vd vs2 m s.eb s.grp (fun j =>
      o.real (ffmt s.fmt) s.mode (s.elem vs2 s.eb j) (VInstr.srcElem ⟨.fbin o, vd, vs2, src, w, m⟩ s j)) := by
  simp only [← FBin.apply_real hf']
  exact (VInstr.allowed_of_spatial rfl (by nofun) hf hf' h hm nofun nofun).next hf h.1

theorem fma_next (o : FMa) (h : VInstr.RunsSpatial ⟨.fma o, vd, vs2, src, w, m⟩ s) (hm : (rmOf s.my.frm).isSome = true) :
    vecArith ⟨.fma o, vd, vs2, src, w, m⟩ s = s.eachGives vd vs2 m s.eb s.grp (fun j =>
      o.apply (ffmt s.fmt) s.mode (s.elem vs2 s.eb j) (VInstr.srcElem ⟨.fma o, vd, vs2, src, w, m⟩ s j) (s.elem vd s.eb j)) :=
  (VInstr.allowed_of_spatial rfl (by nofun) hf hf' h (fun _ => hm) nofun nofun).next hf h.1

theorem fwmacc_next (h : VInstr.RunsSpatial ⟨.fwmacc, vd, vs2, src, w, m⟩ s) (hm : (rmOf s.my.frm).isSome = true) (h6 : s.fmt ≤ 6) (hg : s.grp ≤ 4)
    (ha : ∀ g ∈ (vs2, s.grp) :: src.groups s.grp, Apart (vd, 2 * s.grp) g) :
    vecArith ⟨.fwmacc, vd, vs2, src, w, m⟩ s = s.eachGives vd vs2 m (2 * s.eb) (2 * s.grp) (fun j =>
      (if s.fmt = 6 then fp64 else fp32).deliver s.mode .ieee (fmaExact s.mode ((ffmt s.fmt).value (s.elem vs2 s.eb j))
        ((ffmt s.fmt).value (VInstr.srcElem ⟨.fwmacc, vd, vs2, src, w, m⟩ s j)) ((if s.fmt = 6 then fp64 else fp32).value (s.elem vd (2 * s.eb) j)))) := by
  simp only [← fwmaccElt_eq]
  exact (VInstr.allowed_of_spatial rfl (by nofun) hf hf' h (fun _ => hm) (fun _ => ha) fun _ => ⟨h6, hg⟩).next hf h.1

theorem fcmp_next (o : FCmp) (h : VInstr.RunsSpatial ⟨.fcmp o, vd, vs2, src, w, m⟩ s) (ha : ∀ g ∈ (vs2, s.grp) :: src.groups s.grp, Apart (vd, 1) g) :
    vecArith ⟨.fcmp o, vd, vs2, src, w, m⟩ s = .next (s.vGives [(s.floatEntry, s.groups)] ⟨vd.toNat, 1, 1, true⟩ s.my.strip.vl.toNat 0#6
      (elementsOut (fun j => o.apply (ffmt s.fmt) (s.elem vs2 s.eb j) (VInstr.srcElem ⟨.fcmp o, vd, vs2, src, w, m⟩ s j)) (s.acts m))) :=
  (VInstr.allowed_of_spatial rfl (by nofun) hf hf' h nofun (fun _ => ha) nofun).next hf h.1

theorem fclass_next (h : VInstr.RunsSpatial ⟨.fclass, vd, vs2, .none, w, m⟩ s) :
    vecArith ⟨.fclass, vd, vs2, .none, w, m⟩ s = .next (s.vGives [(s.floatEntry, s.groups)] ⟨vd.toNat, s.grp, s.eb, false⟩ s.my.strip.vl.toNat 0#6
      (elementsOut (fun j => plain ((ffmt s.fmt).classify (s.elem vs2 s.eb j))) (s.acts m))) :=
  (VInstr.allowed_of_spatial rfl (by nofun) hf hf' h nofun nofun nofun).next hf h.1

end

/-- `vfmerge` checks no rounding mode; its tags are those that R251 asks for. -/
theorem fmerge_next {s : State} {vd vs2 : VReg} {src : VSrc} {w : Bool} (hf : 4 ≤ s.fmt) (h : VInstr.Runs ⟨.fmerge, vd, vs2, src, w, true⟩ s)
    (hok : (VInstr.shapeIn ⟨.fmerge, vd, vs2, src, w, true⟩ s).ok = true)
    (ht : s.my.tagCheck none (VInstr.shapeIn ⟨.fmerge, vd, vs2, src, w, true⟩ s).tags (VInstr.sourceOps ⟨.fmerge, vd, vs2, src, w, true⟩ s) = none) :
    vecArith ⟨.fmerge, vd, vs2, src, w, true⟩ s = .next (s.vGives [(s.floatEntry, s.groups)] ⟨vd.toNat, s.grp, s.eb, false⟩ s.my.strip.vl.toNat
      (s.my.getV vs2).tag ⟨s.span.map (fun j =>
        (j, if s.bit 0#6 j then VInstr.srcElem ⟨.fmerge, vd, vs2, src, w, true⟩ s j else s.elem vs2 s.eb j)), [], 0#5, 0#12⟩) := by
  have f : VInstr.Allowed ⟨.fmerge, vd, vs2, src, w, true⟩ s :=
    { floating := rfl, mask := bne_iff_ne.mpr (h.mask rfl), ok := hok, mode := nofun, rel := allows_same h.dst.1 h.sources
      tag := (congrArg _ (List.append_nil _)).trans ht }
  have hall : VInstr.writes ⟨.fmerge, vd, vs2, src, w, true⟩ s = s.span := List.filter_eq_self.mpr fun _ _ => rfl
  rw [f.next hf h, hall, ← elementsOut_plain]
  rfl

/-! ## The sign of an element (R256, R271) -/

/-- An element of FP16, BF16, FP32 or FP64 has its sign in its highest bit (R81). -/
theorem sign_place : ∀ {f : Nat}, 4 ≤ f → f ≤ 7 → (ffmt f).ew + (ffmt f).fw = formatBits f - 1
  | 4, _, _ | 5, _, _ | 6, _, _ | 7, _, _ => rfl

theorem formatBits_pos_of_float : ∀ {f : Nat}, 4 ≤ f → f ≤ 7 → 0 < formatBits f
  | 4, _, _ | 5, _, _ | 6, _, _ | 7, _, _ => by decide

theorem FFormat.signCode_eq (f : FFormat) (b : Bool) : f.signCode b = 2 ^ (f.ew + f.fw) * b.toNat := by
  cases b <;> simp [FFormat.signCode]

/-- The sign that a sign form gives an element, of the signs of its operands (R256); any other operation keeps that of a. -/
def FBin.signOf : FBin → Nat → Nat → Nat
  | .sgnj, _, b => b
  | .sgnjn, _, b => 1 - b
  | .sgnjx, a, b => (a + b) % 2
  | _, a, _ => a

section
variable {f : FFormat} {k x y : Nat} (hk : f.ew + f.fw = k)

theorem sign_toNat (hx : x < 2 ^ (k + 1)) : (x.testBit k).toNat = x / 2 ^ k := by
  rw [Nat.toNat_testBit, Nat.mod_eq_of_lt (Nat.div_lt_of_lt_mul (by rwa [← Nat.pow_succ]))]

include hk

theorem FBin.real_sign (o : FBin) (ho : o = .sgnj ∨ o = .sgnjn ∨ o = .sgnjx) (rm : Rm) (hx : x < 2 ^ (k + 1)) (hy : y < 2 ^ (k + 1)) :
    o.real f rm x y = plain (x % 2 ^ k + 2 ^ k * o.signOf (x / 2 ^ k) (y / 2 ^ k)) := by
  subst hk
  have hnot (b : Bool) : 1 - b.toNat = (!b).toNat := by cases b <;> rfl
  have hxor (a b : Bool) : (a.toNat + b.toNat) % 2 = (a != b).toNat := by cases a <;> cases b <;> rfl
  rw [← sign_toNat hx, ← sign_toNat hy]
  rcases ho with rfl | rfl | rfl
  · rw [FBin.signOf, ← FFormat.signCode_eq]
    rfl
  · rw [FBin.signOf, hnot, ← FFormat.signCode_eq]
    rfl
  · rw [FBin.signOf, hxor, ← FFormat.signCode_eq]
    rfl

theorem negate_eq (hx : x < 2 ^ (k + 1)) : x % 2 ^ k + f.signCode (!x.testBit k) = if x < 2 ^ k then x + 2 ^ k else x - 2 ^ k := by
  subst hk
  rw [FFormat.signCode_eq]
  split
  next h => rw [Nat.testBit_lt_two_pow h, Nat.mod_eq_of_lt h]; exact congrArg _ (Nat.mul_one _)
  next h =>
    have hx2 : x < 2 ^ (f.ew + f.fw) * 2 := by rwa [← Nat.pow_succ]
    rw [Nat.testBit_of_two_pow_le_and_two_pow_add_one_gt (by omega) hx, Nat.mod_eq_sub_mod (by omega), Nat.mod_eq_of_lt (by omega)]
    rfl

end

section
variable {s : State} {vd vs2 : VReg} {src : VSrc} {w m : Bool} (hf : 4 ≤ s.fmt) (hf' : s.fmt ≤ 7)
include hf hf'

theorem elem_lt_sign (r : VReg) (j : Nat) : s.elem r s.eb j < 2 ^ (s.eb - 1 + 1) := by
  rw [Nat.sub_add_cancel (show 1 ≤ s.eb from formatBits_pos_of_float hf hf')]
  exact s.elem_lt r s.eb j

/-- The first source of a sign form is one element, a scalar's sign in its place (R256). -/
theorem signSrc_lt {o : FBin} (ho : o = .sgnj ∨ o = .sgnjn ∨ o = .sgnjx) (j : Nat) :
    VInstr.srcElem ⟨.fbin o, vd, vs2, src, w, m⟩ s j < 2 ^ (s.eb - 1 + 1) := by
  have hpos := Nat.two_pow_pos (s.eb - 1)
  cases src with
  | v r => exact elem_lt_sign hf hf' r j
  | f r =>
    have hscalar : VInstr.srcElem ⟨.fbin o, vd, vs2, .f r, w, m⟩ s j = if (s.my.getF r).msb then 2 ^ (s.eb - 1) else 0 := by
      rcases ho with rfl | rfl | rfl <;> rfl
    rw [hscalar, Nat.pow_succ]
    split <;> omega
  | x r | none =>
    rw [Nat.sub_add_cancel (show 1 ≤ s.eb from formatBits_pos_of_float hf hf')]
    exact Nat.mod_lt _ (Nat.two_pow_pos s.eb)

theorem sign_next {o : FBin} (ho : o = .sgnj ∨ o = .sgnjn ∨ o = .sgnjx) (h : VInstr.RunsSpatial ⟨.fbin o, vd, vs2, src, w, m⟩ s) :
    vecArith ⟨.fbin o, vd, vs2, src, w, m⟩ s = s.eachGives vd vs2 m s.eb s.grp (fun j => plain (s.elem vs2 s.eb j % 2 ^ (s.eb - 1) +
      2 ^ (s.eb - 1) * o.signOf (s.elem vs2 s.eb j / 2 ^ (s.eb - 1)) (VInstr.srcElem ⟨.fbin o, vd, vs2, src, w, m⟩ s j / 2 ^ (s.eb - 1)))) := by
  have hmode : VInstr.usesFrm ⟨.fbin o, vd, vs2, src, w, m⟩ = false := by rcases ho with rfl | rfl | rfl <;> rfl
  have hk : (ffmt s.fmt).ew + (ffmt s.fmt).fw = s.eb - 1 := sign_place hf hf'
  have hreal (j : Nat) := o.real_sign hk ho s.mode (elem_lt_sign hf hf' vs2 j)
    (signSrc_lt (vd := vd) (vs2 := vs2) (src := src) (w := w) (m := m) hf hf' ho j)
  simp only [← hreal]
  exact fbin_next hf hf' o h fun hu => absurd (hmode ▸ hu) Bool.false_ne_true

theorem fabs_next (h : VInstr.RunsSpatial ⟨.fabs, vd, vs2, .none, w, m⟩ s) :
    vecArith ⟨.fabs, vd, vs2, .none, w, m⟩ s = s.eachGives vd vs2 m s.eb s.grp (fun j => plain (s.elem vs2 s.eb j % 2 ^ (s.eb - 1))) := by
  have hk : (ffmt s.fmt).ew + (ffmt s.fmt).fw = s.eb - 1 := sign_place hf hf'
  rw [← hk]
  exact (VInstr.allowed_of_spatial rfl (by nofun) hf hf' h nofun nofun nofun).next hf h.1

theorem fneg_next (h : VInstr.RunsSpatial ⟨.fneg, vd, vs2, .none, w, m⟩ s) :
    vecArith ⟨.fneg, vd, vs2, .none, w, m⟩ s = s.eachGives vd vs2 m s.eb s.grp (fun j => plain
      (if s.elem vs2 s.eb j < 2 ^ (s.eb - 1) then s.elem vs2 s.eb j + 2 ^ (s.eb - 1) else s.elem vs2 s.eb j - 2 ^ (s.eb - 1))) := by
  have hk : (ffmt s.fmt).ew + (ffmt s.fmt).fw = s.eb - 1 := sign_place hf hf'
  have hneg (j : Nat) := negate_eq hk (elem_lt_sign hf hf' vs2 j)
  simp only [← hneg]
  rw [← hk]
  exact (VInstr.allowed_of_spatial rfl (by nofun) hf hf' h nofun nofun nofun).next hf h.1

end

/-! ## Complex elements part by part (R98, R255) -/

theorem fmt_complex {s : State} (hf : 14 ≤ s.fmt) : s.fmt = 14 ∨ s.fmt = 15 := by
  have : s.fmt < 2 ^ 4 := BitVec.isLt _
  omega

theorem partFmt_complex {f : Nat} : f = 14 ∨ f = 15 → (partFmt f).width = formatBits f / 2 ∧ formatBits f / 2 * 2 = formatBits f ∧ fmtComplex f = true
  | .inl h | .inr h => by subst h; decide

/-- Part `i` of a complex element: its real part (0) or its imaginary part (1). -/
def partBits (f i x : Nat) : Nat := x / 2 ^ (formatBits f / 2 * i) % 2 ^ (formatBits f / 2)

theorem partBits_re (f x : Nat) : partBits f 0 x = x % 2 ^ (formatBits f / 2) := by simp [partBits]

theorem partBits_im {f x : Nat} (htwice : formatBits f / 2 * 2 = formatBits f) (hx : x < 2 ^ formatBits f) :
    partBits f 1 x = x / 2 ^ (formatBits f / 2) := by
  rw [partBits, Nat.mul_one, Nat.mod_eq_of_lt (Nat.div_lt_of_lt_mul (by rwa [← Nat.pow_add, ← Nat.mul_two, htwice]))]

/-- The operation on part `i` of two complex elements. -/
def FBin.onPart (o : FBin) (f : Nat) (rm : Rm) (i x y : Nat) : Rounded := o.real (partFmt f) rm (partBits f i x) (partBits f i y)

/-- Both parts of the operation on two complex elements, with the flags of both. -/
def FBin.byParts (o : FBin) (f : Nat) (rm : Rm) (x y : Nat) : Rounded :=
  ⟨(o.onPart f rm 0 x y).bits + 2 ^ (formatBits f / 2) * (o.onPart f rm 1 x y).bits,
    (o.onPart f rm 0 x y).flags ||| (o.onPart f rm 1 x y).flags, (o.onPart f rm 0 x y).q ||| (o.onPart f rm 1 x y).q⟩

theorem FBin.apply_complex {f x y : Nat} (hf : f = 14 ∨ f = 15) (o : FBin) (rm : Rm) (hx : x < 2 ^ formatBits f) (hy : y < 2 ^ formatBits f) :
    o.apply f rm x y = o.byParts f rm x y := by
  obtain ⟨hwidth, htwice, hcx⟩ := partFmt_complex hf
  simp only [FBin.apply, FBin.byParts, FBin.onPart, hcx, if_true, hwidth, joinParts, partBits_re, partBits_im htwice hx, partBits_im htwice hy, Nat.mul_comm]

theorem tagCheck_spectral {c : Ctx} {os : List Operand} {gs : List (VReg × Nat)} (hn : ReadFrom os gs) (hs : c.noStreams) {tag : BitVec 6}
    (ht : c.SameTag gs tag) (hd : tag.extractLsb' 4 2 = 1#2 ∨ tag.extractLsb' 4 2 = 2#2) : c.tagCheck none .spectral os = none := by
  have hall : ∀ r ∈ (os.filter (·.data)).flatMap (fun o => c.tagRegs o.g), c.tagOf r = tag := by
    intro r hr
    obtain ⟨g, hg, k, hk, rfl⟩ := tagRegs_of_names hn hs hr
    rw [tagOf_plain hs]
    exact ht g hg k hk
  unfold Ctx.tagCheck
  generalize (os.filter (·.data)).flatMap (fun o => c.tagRegs o.g) = rs at hall
  cases rs with
  | nil => rfl
  | cons r rs =>
    have hdom : (tag.extractLsb' 4 2 == 1#2 || tag.extractLsb' 4 2 == 2#2) = true := by simpa using hd
    have hsame : rs.find? (fun x => c.tagOf x != tag) = none := by
      rw [List.find?_eq_none]
      intro x hx
      simp [hall x (List.mem_cons_of_mem _ hx)]
    simp only [Ctx.tagAt, hall r List.mem_cons_self, hdom, hsame, if_true, Option.map_none]

/-- `vfadd` and `vfsub` on complex elements. -/
theorem fbin_complex_next {s : State} {vd vs2 vs1 : VReg} {w m : Bool} (hf : 14 ≤ s.fmt) {o : FBin} (ho : o = .add ∨ o = .sub)
    (h : s.RunsV w m vd s.grp [] [(vs2, s.grp), (vs1, s.grp)]) {tag : BitVec 6} (ht : s.my.SameTag [(vs2, s.grp), (vs1, s.grp)] tag)
    (hd : tag.extractLsb' 4 2 = 1#2 ∨ tag.extractLsb' 4 2 = 2#2) (hm : (rmOf s.my.frm).isSome = true) :
    vecArith ⟨.fbin o, vd, vs2, .v vs1, w, m⟩ s =
      s.eachGives vd vs2 m s.eb s.grp (fun j => o.byParts s.fmt s.mode (s.elem vs2 s.eb j) (s.elem vs1 s.eb j)) := by
  have hparts (j : Nat) : o.byParts s.fmt s.mode (s.elem vs2 s.eb j) (s.elem vs1 s.eb j) = o.apply s.fmt s.mode (s.elem vs2 s.eb j) (s.elem vs1 s.eb j) :=
    (FBin.apply_complex (fmt_complex hf) o s.mode (s.elem_lt vs2 s.eb j) (s.elem_lt vs1 s.eb j)).symm
  have hcx : fmtComplex s.fmt = true := (partFmt_complex (fmt_complex hf)).2.2
  have f : VInstr.Allowed ⟨.fbin o, vd, vs2, .v vs1, w, m⟩ s :=
    { floating := rfl, mask := maskOk_of_ne h.mask
      ok := by
        show (fmtFloat s.fmt || ((o == .add || o == .sub) && fmtComplex s.fmt && true)) = true
        rcases ho with rfl | rfl <;> simp [hcx]
      mode _ := hm, rel := allows_same h.dst.1 h.src
      tag := by
        rw [show (VInstr.shapeIn ⟨.fbin o, vd, vs2, .v vs1, w, m⟩ s).tags = .spectral from if_pos hcx]
        exact tagCheck_spectral (names_cons_operands vs2 (.v vs1) s.grp s.eb .same true) h.plain ht hd }
  simp only [hparts]
  exact f.next (by omega) h

/-! ## The arithmetic -/

/-- Settles O28: complex elements by `fbin_complex_next`; on reals one rule for each kind of operation, its first source a group or a scalar. -/
theorem vectorFloatArithmetic : Obligations.VectorFloatArithmetic := by
  refine ⟨?complex, ?real⟩
  case complex =>
    intro s vd vs2 vs1 w m rm hf hm g P pw tag part parts out h ht hd
    have h7 : s.fmt ≠ 7 := by omega
    have each (o : FBin) (ho : o = .add ∨ o = .sub) := eachGives_of (fbin_complex_next hf ho h ht hd (Option.isSome_of_eq_some hm))
    simp only [State.mode_eq hm, if_neg h7] at each
    exact ⟨each .add (.inl rfl), each .sub (.inr rfl)⟩
  case real =>
    intro s vd vs2 vs1 fs1 w m rm hf hf' moded g F q A V x X S out bin quot least sign fma W wide vv vf av af wv wf
    have hsome (hm : moded) : (rmOf s.my.frm).isSome = true := Option.isSome_of_eq_some hm
    have quiet (src : VSrc) (o : FBin) (ho : VInstr.usesFrm ⟨.fbin o, vd, vs2, src, w, m⟩ = false)
        (h : VInstr.RunsSpatial ⟨.fbin o, vd, vs2, src, w, m⟩ s) :=
      eachGives_of (fbin_next hf hf' o h fun hu => absurd (ho ▸ hu) Bool.false_ne_true)
    have rounded (src : VSrc) (o : FBin) (h : VInstr.RunsSpatial ⟨.fbin o, vd, vs2, src, w, m⟩ s) (hm : moded) :=
      State.mode_eq hm ▸ eachGives_of (fbin_next hf hf' o h fun _ => hsome hm)
    have signed (src : VSrc) {o : FBin} (ho : o = .sgnj ∨ o = .sgnjn ∨ o = .sgnjx) (h : VInstr.RunsSpatial ⟨.fbin o, vd, vs2, src, w, m⟩ s) :=
      eachGives_of (sign_next hf hf' ho h)
    have fused (src : VSrc) (o : FMa) (h : VInstr.RunsSpatial ⟨.fma o, vd, vs2, src, w, m⟩ s) (hm : moded) :=
      State.mode_eq hm ▸ eachGives_of (fma_next hf hf' o h (hsome hm))
    have widened (src : VSrc) (h6 : s.fmt ≤ 6) (hg : s.grp ≤ 4) (h : VInstr.RunsSpatial ⟨.fwmacc, vd, vs2, src, w, m⟩ s)
        (ha : ∀ g ∈ (vs2, s.grp) :: src.groups s.grp, Apart (vd, 2 * s.grp) g) (hm : moded) :=
      State.mode_eq hm ▸ eachGives_of (fwmacc_next hf hf' h (hsome hm) h6 hg ha)
    exact ⟨rounded (.v vs1) .add, rounded (.f fs1) .add, rounded (.v vs1) .sub, rounded (.f fs1) .sub, rounded (.v vs1) .mul, rounded (.f fs1) .mul,
      rounded (.v vs1) .div, rounded (.f fs1) .div,
      quiet (.v vs1) .min rfl, quiet (.f fs1) .min rfl, quiet (.v vs1) .max rfl, quiet (.f fs1) .max rfl,
      signed (.v vs1) (.inl rfl), signed (.f fs1) (.inl rfl), signed (.v vs1) (.inr (.inl rfl)), signed (.f fs1) (.inr (.inl rfl)),
      signed (.v vs1) (.inr (.inr rfl)), signed (.f fs1) (.inr (.inr rfl)),
      fused (.v vs1) .macc, fused (.f fs1) .macc, fused (.v vs1) .nmacc, fused (.f fs1) .nmacc,
      fused (.v vs1) .msac, fused (.f fs1) .msac, fused (.v vs1) .nmsac, fused (.f fs1) .nmsac,
      fun h6 hg ⟨hr, ht, h2, h1⟩ => widened (.v vs1) h6 hg ⟨hr, ht⟩ (List.forall_mem_cons.mpr ⟨h2, List.forall_mem_singleton.mpr h1⟩),
      fun h6 hg ⟨hr, ht, h2⟩ => widened (.f fs1) h6 hg ⟨hr, ht⟩ (List.forall_mem_singleton.mpr h2)⟩

/-! ## Compares (R258) -/

/-- What a compare of two values decides (R258). -/
def FCmp.truth (o : FCmp) (a b : Val) : Bool :=
  let num := !(a.isNan || b.isNan)
  match o with
  | .eq => num && a.le b && b.le a
  | .ne => !(num && a.le b && b.le a)
  | .lt => num && a.le b && !b.le a
  | .le => num && a.le b
  | .un => !num

/-- Does a compare raise NV for every NaN (R258)? -/
def FCmp.loud : FCmp → Bool
  | .lt | .le => true
  | _ => false

/-- The flags of a compare (R258). -/
def FCmp.raises (o : FCmp) (a b : Val) : FFlags :=
  if o.loud then (if (a.isNan || b.isNan) = true then 0x10#5 else 0#5) else a.snan ||| b.snan

theorem FCmp.apply_eq (o : FCmp) (f : FFormat) (x y : Nat) :
    o.apply f x y = ⟨if o.truth (f.value x) (f.value y) then 1 else 0, o.raises (f.value x) (f.value y), 0#12⟩ := by
  cases o with
  | eq | lt => simp [FCmp.apply, FCmp.truth, FCmp.raises, FCmp.loud, Val.eqv, Val.lt, nv, and_assoc]
  | ne => simp [FCmp.apply, FCmp.truth, FCmp.raises, FCmp.loud, Val.eqv, or_assoc]
  | le | un => simp [FCmp.apply, FCmp.truth, FCmp.raises, FCmp.loud, nv]

/-- Settles O29: the compares by `FCmp.apply_eq`, `vfmerge` by its own rule, `vfabs` and `vfneg` by the place of the sign. -/
theorem vectorFloatCompare : Obligations.VectorFloatCompare := by
  refine ⟨?complex, ?real⟩
  case complex =>
    intro s vd vs2 vs1 w tag hf h ht
    have hc := fmt_complex hf
    have hok : (fmtFloat s.fmt || (fmtComplex s.fmt && true)) = true := by simp [(partFmt_complex hc).2.2]
    have htag : (s.my.getV vs2).tag = tag := by simpa using ht (vs2, s.grp) List.mem_cons_self 0 (Nat.two_pow_pos _)
    have hq : s.floatEntry = 4 := if_neg (by omega)
    have hnext := fmerge_next (src := .v vs1) (by omega) h hok (tagCheck_equal (names_cons_operands vs2 (.v vs1) s.grp s.eb .same true) h.plain ht)
    rw [hq, htag] at hnext
    exact hnext
  case real =>
    intro s vd vs2 vs1 fs1 w m hf hf' g F vl q A V X truth num merged out vv vf un h
    have compare (src : VSrc) (o : FCmp) (hr : VInstr.RunsSpatial ⟨.fcmp o, vd, vs2, src, w, m⟩ s)
        (ha : ∀ g ∈ (vs2, s.grp) :: src.groups s.grp, Apart (vd, 1) g) := fcmp_next hf hf' o hr ha
    simp only [FCmp.apply_eq, elementsOut_of_q] at compare
    have group (o : FCmp) (hvv : vv) := let ⟨hr, ht, h2, h1⟩ := hvv
      compare (.v vs1) o ⟨hr, ht⟩ (List.forall_mem_cons.mpr ⟨h2, List.forall_mem_singleton.mpr h1⟩)
    have scalar (o : FCmp) (hvf : vf) := let ⟨hr, ht, h2⟩ := hvf
      compare (.f fs1) o ⟨hr, ht⟩ (List.forall_mem_singleton.mpr h2)
    have hok {cx : Bool} : (fmtFloat s.fmt || cx) = true := Bool.or_eq_true_iff.mpr (.inl (fmtFloat_of_between hf hf'))
    refine ⟨group .eq, scalar .eq, group .ne, scalar .ne, group .lt, scalar .lt, group .le, scalar .le, group .un, scalar .un,
      ?mergeGroup, ?mergeScalar, ?classify, ?magnitude, ?negation⟩
    case mergeGroup =>
      rintro ⟨tag, hr, ht⟩
      exact fmerge_next (src := .v vs1) hf hr hok
        (tagCheck_equal (names_cons_operands vs2 (.v vs1) s.grp s.eb .same true) hr.plain ht)
    case mergeScalar => exact fun hr => fmerge_next (src := .f fs1) hf hr hok rfl
    case classify => exact fun hr => (fclass_next hf hf' hr).trans (by rw [elementsOut_plain]; rfl)
    case magnitude => exact fun hr => plainGives_of (fabs_next hf hf' hr)
    case negation => exact fun hr => plainGives_of (fneg_next hf hf' hr)

end Sys2Proof.Machine
